-- ==== Sys2Proof/Word.lean ====
section
/-! DEFINITION. The word types of the SD96: 64-bit registers and memory words, 96-bit
instruction words, 512-bit fetch lines. Bit-field and byte helpers that a rule of the
spec decides stand in `Sys2Proof/Machine`, not here. -/

namespace Sys2Proof

/-- A register, an address or a memory word (03 R44, 06 R126). -/
abbrev Word := BitVec 64

/-- A byte of memory. -/
abbrev Byte := BitVec 8

/-- An instruction word (02 R26). -/
abbrev IWord := BitVec 96

/-- A fetch line: five instruction words and the line word (02 R19). -/
abbrev Line := BitVec 512

end Sys2Proof
end

