-- ==== Sys2Proof/Syntax.lean ====
section
/-! DEFINITION. The instruction set as data: one constructor of `Instr` for each row of
spec/opcode_table.json, over operand structures shared by instructions of one shape. -/

namespace Sys2Proof

/-! ### Registers (02 R28, R30, Tables 2.5 to 2.7) -/

/-- A scalar register that may be read (Table 2.6, column Read). -/
inductive SReg where
  | l (n : Fin 64) | g (n : Fin 16) | s (n : Fin 16) | d (n : Fin 16)
  | zero | rx | rxh | index
  deriving DecidableEq, Repr

/-- A scalar register that may be written (Table 2.6, column Write). -/
inductive Dst where
  | l (n : Fin 64) | s (n : Fin 16) | zero | txh | tx | txe
  deriving DecidableEq, Repr

/-- A predicate P0 to P7. -/
abbrev PredNo := Fin 8
/-- A vector register V0 to V31. -/
abbrev VNo := Fin 32
/-- A mask register K0 to K7. -/
abbrev KNo := Fin 8

/-- A modulus or constant register of a claim (Table 2.7). -/
inductive QWReg where
  | q (n : Fin 4) | w (n : Fin 4)
  deriving DecidableEq, Repr

/-- The guard of an instruction: P[pr] XOR pn (02 R27). -/
structure Guard where
  pr : PredNo
  pn : Bool
  deriving DecidableEq, Repr

/-- The SB operand of an instruction with the UL bit (04 R63). -/
inductive SrcB where
  | reg (r : SReg)
  | lit (v : BitVec 32)
  | ulit (v : BitVec 32)
  deriving DecidableEq, Repr

/-- The SB operand of an instruction without the UL bit: a register or a literal,
extended as the instruction's entry says. -/
inductive SrcC where
  | reg (r : SReg)
  | lit (v : BitVec 32)
  deriving DecidableEq, Repr

/-- A memory operand: base in SA, offset literal or register in SB (07 R134). -/
structure MemOp where
  base : SReg
  off : SrcC
  deriving DecidableEq, Repr

/-! ### Modifier values (02 Table 2.8 and the group tables) -/

/-- SCOPE. -/
inductive Scope where
  | core | clu | dev | sys
  deriving DecidableEq, Repr

/-- ORD. -/
inductive Ord where
  | rlx | acq | rel | acqrel
  deriving DecidableEq, Repr

/-- Format codes 0x0 to 0xC (08 R153). -/
inductive Fmt where
  | i8 | i16 | i32 | i64 | fp32 | bf16 | fp16 | e4m3 | e5m2 | mxfp8 | mxfp4 | t8 | t6
  deriving DecidableEq, Repr

/-- RND. -/
inductive Rnd where
  | rne | rtz | rup | rdn | sr | dyn
  deriving DecidableEq, Repr

/-- SZ (07 Table 7.2). -/
inductive Size where
  | b8 | b16 | b32 | b64
  deriving DecidableEq, Repr

/-- Integer conditions (04 Table 4.9). -/
inductive ICond where
  | eq | ne | lt | le | gt | ge | ltu | leu | gtu | geu
  deriving DecidableEq, Repr

/-- FP32 conditions (04 Table 4.12). -/
inductive FCond where
  | eq | ne | lt | le | gt | ge | un | ord
  deriving DecidableEq, Repr

/-- CMB (04 Table 4.1). -/
inductive Cmb where
  | set | and | or
  deriving DecidableEq, Repr

/-- FIELD of FSET (05 Table 5.1). -/
inductive FsetField where
  | start | limit | step | block | place | entry | window | prio | flags
  deriving DecidableEq, Repr

/-- SEL of FSTAT (05 Table 5.8). -/
inductive FstatSel where
  | state | count | started | ended | bk | bkindex | fid
  deriving DecidableEq, Repr

/-- Word tags (06 Table 6.3), as NT of TAGW encodes them. -/
inductive Tag where
  | full | empty | object | poison
  deriving DecidableEq, Repr

/-- SEL of WQRY (17 Table 17.8). -/
inductive WqrySel where
  | kind | holders | waiters | eprio | untr | clen | cobj | cfam
  deriving DecidableEq, Repr

/-- OP of EAPP (13 Table 13.1). -/
inductive EappOp where
  | add | min | max | or
  deriving DecidableEq, Repr

/-- SEL of RSTAT (12 Table 12.6). -/
inductive RstatSel where
  | ready | free | res | pub | cons | pop | cfg | base
  deriving DecidableEq, Repr

/-- ACT of TDRAIN (12 Table 12.4). -/
inductive Act where
  | identity | relu | sigmoid | tanh
  deriving DecidableEq, Repr

/-- GATE of TDRAIN (12 Table 12.4). -/
inductive Gate where
  | plain | bias | lstm | gru
  deriving DecidableEq, Repr

/-- MSK, MZ and KM with MSK = 1 (09 R182). -/
structure VMask where
  km : KNo
  mz : Bool
  deriving DecidableEq, Repr

/-- The `y` operand of a vector instruction: a V register or a literal (09 R183). -/
inductive VSrc where
  | v (r : VNo)
  | lit (v : BitVec 32)
  deriving DecidableEq, Repr

/-- The `val` operand of VBCAST and VIOTA (09 R183). -/
inductive VVal where
  | scalar (r : SReg)
  | lit (v : BitVec 32)
  deriving DecidableEq, Repr

/-- The scale operand of VQMX (09 R197): FX = 0 takes none. -/
inductive VScale where
  | block
  | v (r : VNo)
  | lit (v : BitVec 32)
  deriving DecidableEq, Repr

/-- The source of VMSET (10 R208). -/
inductive VMsetSrc where
  | scalar (r : SReg)
  | lit (v : BitVec 32)
  | v (r : VNo)
  deriving DecidableEq, Repr

/-- The trap causes (03 Table 3.9). -/
inductive Cause where
  | illegalOpcode | illegalModifier | illegalOperand | illegalPair | badTarget | lineParity
  | lineReserved | privilege | featureAbsent | misaligned | translation | access | poisonRead
  | objectStore | doublePut | tagMisuse | registerEcc | scopeRange | monitorFull
  | reductionState | linkDown | doubleSharedWrite | resourceExceedsCore | familyHandle
  | packetOpen | queueOverflow | placeInvalid | familyField | familyAreaFull | barrierAbandoned
  | barrierPoisoned | barrierState | objectState | deadlock | noClaim | modulusInvalid
  | matrixFormat | swizzleMismatch | scaleCount | redundantMismatch | ringState | copyFault
  | copyShape | copyId | entrState | breakpoint | watchpoint | step | software
  deriving DecidableEq, Repr

/-! ### Operands, one structure a shape -/

structure OpG where
  g : Guard
  deriving DecidableEq, Repr
structure OpA where
  g : Guard
  a : SReg
  deriving DecidableEq, Repr
structure OpD where
  g : Guard
  d : Dst
  deriving DecidableEq, Repr
structure OpDA where
  g : Guard
  d : Dst
  a : SReg
  deriving DecidableEq, Repr
/-- BR: a forward slot count (04 R67). -/
structure OpBr where
  g : Guard
  n : BitVec 32
  deriving DecidableEq, Repr
/-- CALL: a signed slot count (04 R69). -/
structure OpCall where
  g : Guard
  d : Dst
  n : BitVec 32
  deriving DecidableEq, Repr
/-- TRAP and BKPT (04 R74). -/
structure OpAC where
  g : Guard
  a : SReg
  code : SrcC
  deriving DecidableEq, Repr
structure OpC where
  g : Guard
  b : SrcC
  deriving DecidableEq, Repr
structure OpDC where
  g : Guard
  d : Dst
  b : SrcC
  deriving DecidableEq, Repr
structure OpFset where
  g : Guard
  field : FsetField
  b : SrcB
  deriving DecidableEq, Repr
/-- FPUTG and FPUTS: the staged register number in DST (05 R102). -/
structure OpFput where
  g : Guard
  n : Fin 16
  b : SrcB
  deriving DecidableEq, Repr
structure OpFgets where
  g : Guard
  d : Dst
  a : SReg
  n : Fin 16
  deriving DecidableEq, Repr
structure OpFstat where
  g : Guard
  d : Dst
  a : SReg
  sel : FstatSel
  deriving DecidableEq, Repr
structure OpMfc where
  g : Guard
  d : Dst
  n : BitVec 12
  deriving DecidableEq, Repr
structure OpMtc where
  g : Guard
  a : SReg
  n : BitVec 12
  deriving DecidableEq, Repr
structure OpAlu where
  g : Guard
  d : Dst
  a : SReg
  b : SrcB
  deriving DecidableEq, Repr
structure OpAluU where
  g : Guard
  d : Dst
  a : SReg
  b : SrcB
  uns : Bool
  deriving DecidableEq, Repr
structure OpAlu3 where
  g : Guard
  d : Dst
  a : SReg
  b : SrcB
  c : SReg
  deriving DecidableEq, Repr
/-- `len` holds LEN, the length minus 1 (04 R83). -/
structure OpBfx where
  g : Guard
  d : Dst
  a : SReg
  pos : BitVec 6
  len : BitVec 6
  deriving DecidableEq, Repr
structure OpBfi where
  g : Guard
  d : Dst
  a : SReg
  c : SReg
  pos : BitVec 6
  len : BitVec 6
  deriving DecidableEq, Repr
structure OpExt where
  g : Guard
  d : Dst
  a : SReg
  len : BitVec 6
  deriving DecidableEq, Repr
structure OpMov where
  g : Guard
  d : Dst
  b : SrcB
  deriving DecidableEq, Repr
structure OpMovHi where
  g : Guard
  d : Dst
  a : SReg
  v : BitVec 32
  deriving DecidableEq, Repr
structure OpSel where
  g : Guard
  d : Dst
  a : SReg
  b : SrcB
  psel : PredNo
  pneg : Bool
  deriving DecidableEq, Repr
structure OpLea where
  g : Guard
  d : Dst
  a : SReg
  b : SrcB
  sh : BitVec 3
  deriving DecidableEq, Repr
structure OpCmp where
  g : Guard
  pd : PredNo
  a : SReg
  b : SrcB
  cmb : Cmb
  cond : ICond
  deriving DecidableEq, Repr
structure OpPlog where
  g : Guard
  pd : PredNo
  pa : PredNo
  pb : PredNo
  lut : BitVec 4
  deriving DecidableEq, Repr
structure OpFp2 where
  g : Guard
  d : Dst
  a : SReg
  b : SrcC
  ovf : Bool
  rnd : Rnd
  deriving DecidableEq, Repr
structure OpFpMin where
  g : Guard
  d : Dst
  a : SReg
  b : SrcC
  deriving DecidableEq, Repr
structure OpFp3 where
  g : Guard
  d : Dst
  a : SReg
  b : SrcC
  c : SReg
  ovf : Bool
  rnd : Rnd
  deriving DecidableEq, Repr
structure OpFcmp where
  g : Guard
  pd : PredNo
  a : SReg
  b : SrcC
  cmb : Cmb
  cond : FCond
  deriving DecidableEq, Repr
structure OpFcvt where
  g : Guard
  d : Dst
  a : SReg
  ovf : Bool
  fmt : Fmt
  fmt2 : Fmt
  rnd : Rnd
  deriving DecidableEq, Repr
structure OpIcvt where
  g : Guard
  d : Dst
  a : SReg
  fmt : Fmt
  fmt2 : Fmt
  rnd : Rnd
  uns : Bool
  deriving DecidableEq, Repr
structure OpM where
  g : Guard
  m : MemOp
  deriving DecidableEq, Repr
structure OpDM where
  g : Guard
  d : Dst
  m : MemOp
  deriving DecidableEq, Repr
structure OpMS where
  g : Guard
  m : MemOp
  scope : Scope
  deriving DecidableEq, Repr
structure OpDMS where
  g : Guard
  d : Dst
  m : MemOp
  scope : Scope
  deriving DecidableEq, Repr
structure OpMCS where
  g : Guard
  m : MemOp
  c : SReg
  scope : Scope
  deriving DecidableEq, Repr
structure OpDMCS where
  g : Guard
  d : Dst
  m : MemOp
  c : SReg
  scope : Scope
  deriving DecidableEq, Repr
structure OpLd where
  g : Guard
  d : Dst
  m : MemOp
  sz : Size
  sx : Bool
  ord : Ord
  scope : Scope
  deriving DecidableEq, Repr
structure OpLdp where
  g : Guard
  d : Dst
  pd : PredNo
  m : MemOp
  ord : Ord
  scope : Scope
  deriving DecidableEq, Repr
structure OpSt where
  g : Guard
  m : MemOp
  c : SReg
  sz : Size
  ord : Ord
  scope : Scope
  deriving DecidableEq, Repr
structure OpStn where
  g : Guard
  m : MemOp
  c : SReg
  nib : Bool
  ord : Ord
  scope : Scope
  deriving DecidableEq, Repr
structure OpTake where
  g : Guard
  d : Dst
  m : MemOp
  ord : Ord
  scope : Scope
  deriving DecidableEq, Repr
structure OpPut where
  g : Guard
  m : MemOp
  c : SReg
  ord : Ord
  scope : Scope
  deriving DecidableEq, Repr
structure OpTagr where
  g : Guard
  d : Dst
  t : Fin 64
  m : MemOp
  ord : Ord
  scope : Scope
  deriving DecidableEq, Repr
structure OpTagw where
  g : Guard
  m : MemOp
  c : SReg
  nt : Tag
  ord : Ord
  scope : Scope
  deriving DecidableEq, Repr
structure OpFence where
  g : Guard
  ord : Ord
  scope : Scope
  eng : Bool
  deriving DecidableEq, Repr
structure OpAtom where
  g : Guard
  d : Dst
  m : MemOp
  c : SReg
  sz : Size
  ord : Ord
  scope : Scope
  deriving DecidableEq, Repr
structure OpAfadd where
  g : Guard
  d : Dst
  m : MemOp
  c : SReg
  ord : Ord
  scope : Scope
  deriving DecidableEq, Repr
structure OpCas where
  g : Guard
  d : Fin 64
  m : MemOp
  c : SReg
  pd : PredNo
  sz : Size
  ord : Ord
  scope : Scope
  deriving DecidableEq, Repr
structure OpTset where
  g : Guard
  d : Dst
  a : SReg
  b : SrcC
  deriving DecidableEq, Repr
structure OpBari where
  g : Guard
  m : MemOp
  c : SReg
  drop : Bool
  scope : Scope
  deriving DecidableEq, Repr
structure OpWqry where
  g : Guard
  d : Dst
  m : MemOp
  sel : WqrySel
  scope : Scope
  deriving DecidableEq, Repr
structure OpEapp where
  g : Guard
  a : SReg
  b : SrcC
  c : SReg
  op : EappOp
  deriving DecidableEq, Repr
structure OpErepl where
  g : Guard
  d : Dst
  a : SReg
  free : Bool
  deriving DecidableEq, Repr
structure OpVLd where
  g : Guard
  v : VNo
  a : SReg
  off : BitVec 32
  sz : Size
  ord : Ord
  scope : Scope
  mask : Option VMask
  deriving DecidableEq, Repr
structure OpVSt where
  g : Guard
  v : VNo
  a : SReg
  off : BitVec 32
  sz : Size
  ord : Ord
  scope : Scope
  mask : Option KNo
  deriving DecidableEq, Repr
structure OpVLds where
  g : Guard
  v : VNo
  a : SReg
  off : BitVec 32
  c : SReg
  sz : Size
  ord : Ord
  scope : Scope
  mask : Option VMask
  deriving DecidableEq, Repr
structure OpVSts where
  g : Guard
  v : VNo
  a : SReg
  off : BitVec 32
  c : SReg
  sz : Size
  ord : Ord
  scope : Scope
  mask : Option KNo
  deriving DecidableEq, Repr
structure OpVGath where
  g : Guard
  v : VNo
  a : SReg
  vi : VNo
  sz : Size
  uns : Bool
  ord : Ord
  scope : Scope
  mask : Option VMask
  deriving DecidableEq, Repr
structure OpVScat where
  g : Guard
  v : VNo
  a : SReg
  vi : VNo
  sz : Size
  uns : Bool
  ord : Ord
  scope : Scope
  mask : Option KNo
  deriving DecidableEq, Repr
structure OpVFill where
  g : Guard
  v : VNo
  val : VVal
  fmt : Fmt
  mask : Option VMask
  deriving DecidableEq, Repr
structure OpVExt where
  g : Guard
  d : Dst
  va : VNo
  idx : SrcC
  fmt : Fmt
  uns : Bool
  deriving DecidableEq, Repr
structure OpVIns where
  g : Guard
  v : VNo
  a : SReg
  idx : SrcC
  fmt : Fmt
  deriving DecidableEq, Repr
structure OpVAlu where
  g : Guard
  vd : VNo
  va : VNo
  y : VSrc
  fmt : Fmt
  ovf : Bool
  rnd : Rnd
  uns : Bool
  mask : Option VMask
  deriving DecidableEq, Repr
structure OpVFma where
  g : Guard
  vd : VNo
  va : VNo
  y : VSrc
  vc : VNo
  fmt : Fmt
  ovf : Bool
  rnd : Rnd
  uns : Bool
  mask : Option VMask
  deriving DecidableEq, Repr
structure OpVAbs where
  g : Guard
  vd : VNo
  va : VNo
  fmt : Fmt
  ovf : Bool
  uns : Bool
  mask : Option VMask
  deriving DecidableEq, Repr
/-- `cond` holds COND as encoded; the format chooses its table (09 R194). -/
structure OpVCmp where
  g : Guard
  kd : KNo
  va : VNo
  y : VSrc
  cond : BitVec 4
  fmt : Fmt
  uns : Bool
  mask : Option VMask
  deriving DecidableEq, Repr
structure OpVSel where
  g : Guard
  vd : VNo
  va : VNo
  y : VSrc
  kc : KNo
  fmt : Fmt
  mask : Option VMask
  deriving DecidableEq, Repr
structure OpKlog where
  g : Guard
  kd : KNo
  ka : KNo
  kb : KNo
  lut : BitVec 4
  deriving DecidableEq, Repr
structure OpKpop where
  g : Guard
  d : Dst
  ka : KNo
  fmt : Fmt
  deriving DecidableEq, Repr
structure OpVCvt where
  g : Guard
  vd : VNo
  va : VNo
  fmt : Fmt
  fmt2 : Fmt
  ovf : Bool
  rnd : Rnd
  uns : Bool
  part : BitVec 4
  mask : Option VMask
  deriving DecidableEq, Repr
structure OpVQmx where
  g : Guard
  ve : VNo
  va : VNo
  scale : VScale
  vs : VNo
  fmt : Fmt
  fmt2 : Fmt
  ovf : Bool
  rnd : Rnd
  deriving DecidableEq, Repr
structure OpVDqmx where
  g : Guard
  vd : VNo
  ve : VNo
  vs : VNo
  fmt : Fmt
  fmt2 : Fmt
  ovf : Bool
  rnd : Rnd
  deriving DecidableEq, Repr
structure OpVRed where
  g : Guard
  d : Dst
  va : VNo
  fmt : Fmt
  ovf : Bool
  rnd : Rnd
  uns : Bool
  mask : Option KNo
  deriving DecidableEq, Repr
structure OpVSpec where
  g : Guard
  vd : VNo
  va : VNo
  fmt : Fmt
  ovf : Bool
  rnd : Rnd
  mask : Option VMask
  deriving DecidableEq, Repr
structure OpVPerm where
  g : Guard
  vd : VNo
  va : VNo
  vi : VNo
  fmt : Fmt
  mask : Option VMask
  deriving DecidableEq, Repr
structure OpVBperm where
  g : Guard
  vd : VNo
  va : VNo
  dist : BitVec 4
  fmt : Fmt
  mask : Option VMask
  deriving DecidableEq, Repr
/-- `w64` is FMT I64, else I32 (10 R206). -/
structure OpVMset where
  g : Guard
  q : QWReg
  src : VMsetSrc
  w64 : Bool
  deriving DecidableEq, Repr
structure OpVM2 where
  g : Guard
  vd : VNo
  va : VNo
  y : VSrc
  w64 : Bool
  qs : Fin 4
  mask : Option VMask
  deriving DecidableEq, Repr
structure OpVM1 where
  g : Guard
  vd : VNo
  va : VNo
  w64 : Bool
  qs : Fin 4
  mask : Option VMask
  deriving DecidableEq, Repr
structure OpVBfly where
  g : Guard
  vd : VNo
  va : VNo
  vb : VNo
  dist : BitVec 4
  w64 : Bool
  qs : Fin 4
  mask : Option VMask
  deriving DecidableEq, Repr
structure OpVBflyX where
  g : Guard
  vd : VNo
  va : VNo
  vb : VNo
  vc : VNo
  w64 : Bool
  qs : Fin 4
  mask : Option VMask
  deriving DecidableEq, Repr
structure OpVAuto where
  g : Guard
  vd : VNo
  va : VNo
  b : SrcC
  ln : BitVec 4
  w64 : Bool
  qs : Fin 4
  mask : Option VMask
  deriving DecidableEq, Repr
structure OpRingi where
  g : Guard
  a : SReg
  cfg : SrcC
  ring : Fin 32
  deriving DecidableEq, Repr
structure OpRing where
  g : Guard
  d : Dst
  ring : Fin 32
  deriving DecidableEq, Repr
structure OpRpush where
  g : Guard
  d : Dst
  a : SReg
  ring : Fin 32
  deriving DecidableEq, Repr
structure OpRstat where
  g : Guard
  d : Dst
  ring : Fin 32
  sel : RstatSel
  deriving DecidableEq, Repr
structure OpTldw where
  g : Guard
  d : Dst
  ring : Fin 32
  red : Bool
  deriving DecidableEq, Repr
structure OpTmma where
  g : Guard
  m : MemOp
  c : SReg
  ring : Fin 32
  deriving DecidableEq, Repr
structure OpTdrain where
  g : Guard
  a : SReg
  b : SReg
  c : SReg
  fmt : Fmt
  fmt2 : Fmt
  ovf : Bool
  rnd : Rnd
  za : Bool
  act : Act
  gate : Gate
  deriving DecidableEq, Repr
structure OpNred where
  g : Guard
  a : SReg
  y : SrcC
  c : SReg
  elem : BitVec 3
  deriving DecidableEq, Repr
structure OpNredi where
  g : Guard
  d : Dst
  a : SReg
  t : SrcC
  elem : BitVec 3
  deriving DecidableEq, Repr
structure OpTracew where
  g : Guard
  a : SReg
  b : SrcC
  chan : BitVec 4
  deriving DecidableEq, Repr
structure OpCntr where
  g : Guard
  d : Dst
  n : SrcC
  clr : Bool
  deriving DecidableEq, Repr

/-- Every row of spec/opcode_table.json: the instructions, then the events. -/
inductive Instr where
  | nop (o : OpG)
  | br (o : OpBr)
  | brx (o : OpA)
  | call (o : OpCall)
  | callx (o : OpDA)
  | ret (o : OpA)
  | exit (o : OpG)
  | breakM (o : OpG)
  | fset (o : OpFset)
  | fputg (o : OpFput)
  | fputs (o : OpFput)
  | create (o : OpD)
  | sync (o : OpDA)
  | fgets (o : OpFgets)
  | kill (o : OpA)
  | fstat (o : OpFstat)
  | trap (o : OpAC)
  | bkpt (o : OpAC)
  | eret (o : OpG)
  | mfc (o : OpMfc)
  | mtc (o : OpMtc)
  | yieldT (o : OpG)
  | chkpt (o : OpC)
  | add (o : OpAlu)
  | sub (o : OpAlu)
  | mul (o : OpAlu)
  | mulhs (o : OpAlu)
  | mulhu (o : OpAlu)
  | madd (o : OpAlu3)
  | divs (o : OpAlu)
  | divu (o : OpAlu)
  | rems (o : OpAlu)
  | remu (o : OpAlu)
  | and (o : OpAlu)
  | or (o : OpAlu)
  | xor (o : OpAlu)
  | andn (o : OpAlu)
  | shl (o : OpAlu)
  | shr (o : OpAlu)
  | sar (o : OpAlu)
  | rol (o : OpAlu)
  | min (o : OpAlu)
  | max (o : OpAlu)
  | minu (o : OpAlu)
  | maxu (o : OpAlu)
  | adds (o : OpAluU)
  | subs (o : OpAluU)
  | abs (o : OpDA)
  | clz (o : OpDA)
  | ctz (o : OpDA)
  | popc (o : OpDA)
  | brev (o : OpDA)
  | bswap (o : OpDA)
  | bfx (o : OpBfx)
  | bfi (o : OpBfi)
  | sext (o : OpExt)
  | zext (o : OpExt)
  | mov (o : OpMov)
  | movHi (o : OpMovHi)
  | sel (o : OpSel)
  | lea (o : OpLea)
  | cmp (o : OpCmp)
  | plog (o : OpPlog)
  | fadd (o : OpFp2)
  | fsub (o : OpFp2)
  | fmul (o : OpFp2)
  | fmin (o : OpFpMin)
  | fmax (o : OpFpMin)
  | ffma (o : OpFp3)
  | fcmp (o : OpFcmp)
  | fcvt (o : OpFcvt)
  | icvt (o : OpIcvt)
  | ld (o : OpLd)
  | ldp (o : OpLdp)
  | st (o : OpSt)
  | stn (o : OpStn)
  | take (o : OpTake)
  | ldf (o : OpTake)
  | put (o : OpPut)
  | putWait (o : OpPut)
  | tagr (o : OpTagr)
  | tagw (o : OpTagw)
  | fence (o : OpFence)
  | aadd (o : OpAtom)
  | aand (o : OpAtom)
  | aor (o : OpAtom)
  | axor (o : OpAtom)
  | amin (o : OpAtom)
  | amax (o : OpAtom)
  | aminu (o : OpAtom)
  | amaxu (o : OpAtom)
  | axchg (o : OpAtom)
  | afadd (o : OpAfadd)
  | cas (o : OpCas)
  | pref (o : OpM)
  | mona (o : OpM)
  | mond (o : OpM)
  | mondAll (o : OpG)
  | waitm (o : OpDC)
  | tset (o : OpTset)
  | tlook (o : OpDA)
  | tclr (o : OpDA)
  | bari (o : OpBari)
  | barr (o : OpDMS)
  | barw (o : OpDMS)
  | bwait (o : OpDMS)
  | bdrop (o : OpDMS)
  | bpois (o : OpMS)
  | lki (o : OpMS)
  | lkacq (o : OpDMS)
  | lktry (o : OpDMS)
  | lkrel (o : OpMS)
  | qi (o : OpMCS)
  | qpush (o : OpMCS)
  | qpop (o : OpDMS)
  | wreg (o : OpMS)
  | whold (o : OpMS)
  | wdrop (o : OpMS)
  | wwait (o : OpDMCS)
  | wwaitNb (o : OpDMCS)
  | wunreg (o : OpMS)
  | wqry (o : OpWqry)
  | ofree (o : OpMS)
  | copy (o : OpDM)
  | copyt (o : OpDM)
  | gath (o : OpDM)
  | pack (o : OpDM)
  | unpack (o : OpDM)
  | ccan (o : OpA)
  | cstat (o : OpDA)
  | ebin (o : OpDM)
  | eapp (o : OpEapp)
  | erepl (o : OpErepl)
  | vclaim (o : OpDC)
  | vrel (o : OpG)
  | vyield (o : OpD)
  | vld (o : OpVLd)
  | vst (o : OpVSt)
  | vlds (o : OpVLds)
  | vsts (o : OpVSts)
  | vgath (o : OpVGath)
  | vscat (o : OpVScat)
  | vbcast (o : OpVFill)
  | viota (o : OpVFill)
  | vext (o : OpVExt)
  | vins (o : OpVIns)
  | vadd (o : OpVAlu)
  | vsub (o : OpVAlu)
  | vmul (o : OpVAlu)
  | vfma (o : OpVFma)
  | vmin (o : OpVAlu)
  | vmax (o : OpVAlu)
  | vabs (o : OpVAbs)
  | vand (o : OpVAlu)
  | vor (o : OpVAlu)
  | vxor (o : OpVAlu)
  | vshl (o : OpVAlu)
  | vshr (o : OpVAlu)
  | vsar (o : OpVAlu)
  | vcmp (o : OpVCmp)
  | vsel (o : OpVSel)
  | klog (o : OpKlog)
  | kpop (o : OpKpop)
  | vcvt (o : OpVCvt)
  | vqmx (o : OpVQmx)
  | vdqmx (o : OpVDqmx)
  | vrsum (o : OpVRed)
  | vrmax (o : OpVRed)
  | vrmin (o : OpVRed)
  | vexp2 (o : OpVSpec)
  | vlog2 (o : OpVSpec)
  | vrcp (o : OpVSpec)
  | vrsq (o : OpVSpec)
  | vsqrt (o : OpVSpec)
  | vtanh (o : OpVSpec)
  | vsigm (o : OpVSpec)
  | vperm (o : OpVPerm)
  | vbperm (o : OpVBperm)
  | vmset (o : OpVMset)
  | vmadd (o : OpVM2)
  | vmsub (o : OpVM2)
  | vmneg (o : OpVM1)
  | vmmul (o : OpVM2)
  | vmmac (o : OpVM2)
  | vmred (o : OpVM1)
  | vmto (o : OpVM1)
  | vmfrom (o : OpVM1)
  | vbfly (o : OpVBfly)
  | vbflyX (o : OpVBflyX)
  | vibfly (o : OpVBfly)
  | vibflyX (o : OpVBflyX)
  | vauto (o : OpVAuto)
  | ringi (o : OpRingi)
  | rpushRes (o : OpRing)
  | rpush (o : OpRpush)
  | rpopRes (o : OpRing)
  | rpop (o : OpRing)
  | rstat (o : OpRstat)
  | tldw (o : OpTldw)
  | trel (o : OpA)
  | tmma (o : OpTmma)
  | tzero (o : OpM)
  | tdrain (o : OpTdrain)
  | twait (o : OpD)
  | ngrp (o : OpDMS)
  | nred (o : OpNred)
  | nredi (o : OpNredi)
  | nfree (o : OpDA)
  | tracew (o : OpTracew)
  | cntr (o : OpCntr)
  -- events: steps of the machine that no word encodes
  | registerWrite (n : Nat)
  | turn (n : Nat)
  | fetchLineArrival (n : Nat)
  | memoryReply (n : Nat)
  | errorNotice (n : Nat)
  | homeOperation (n : Nat)
  | queuedBankAccess (n : Nat)
  | requestCombine (n : Nat)
  | deferralDelivery (n : Nat)
  | monitorWake (n : Nat)
  | waitmTimeout (n : Nat)
  | linkedValueArrival (n : Nat)
  | memberStart (n : Nat)
  | familyEnd (n : Nat)
  | phaseMarker (n : Nat)
  | phaseComplete (n : Nat)
  | packetHeaderArrival (n : Nat)
  | packetCloseArrival (n : Nat)
  | packetAcknowledge (n : Nat)
  | reductionPartial (n : Nat)
  | copyEngineStart (n : Nat)
  | copyComplete (n : Nat)
  | engineOpStart (n : Nat)
  | tldwLoadComplete (n : Nat)
  | tmmaRetire (n : Nat)
  | tzeroComplete (n : Nat)
  | tdrainComplete (n : Nat)
  | entrepotAppendArrival (n : Nat)
  | ereplComplete (n : Nat)
  | patrolScrub (n : Nat)
  | coreReset (n : Nat)
  | preEmpt (n : Nat)
  | threadRestore (n : Nat)
  | migrate (n : Nat)
  | launchAccept (n : Nat)
  | launchBind (n : Nat)
  | launchStart (n : Nat)
  | launchComplete (n : Nat)
  | launchKill (n : Nat)
  | sqTailWrite (n : Nat)
  | featureCommit (n : Nat)
  | translationWalkComplete (n : Nat)
  | faultAnswerRetry (n : Nat)
  | faultAnswerDeny (n : Nat)
  | translationInvalidate (n : Nat)
  | waitForInsert (n : Nat)
  | waitForRemove (n : Nat)
  | priorityPropagate (n : Nat)
  | deadlockScan (n : Nat)
  | dcmdStop (n : Nat)
  | dcmdResume (n : Nat)
  | dcmdStep (n : Nat)
  | clusterStopArrival (n : Nat)
  | clusterResumeArrival (n : Nat)
  | pcSample (n : Nat)
  | traceRecordArrival (n : Nat)
  | waybillSealTimeout (n : Nat)
  | waybillWriteComplete (n : Nat)
  | routeSurvey (n : Nat)
  | traceEnable (n : Nat)
  | unitClaim (n : Nat)
  | pmodeEnter (n : Nat)
  | pmodeLeave (n : Nat)
  | intervalClose (n : Nat)
  | linkRetrain (n : Nat)
  | gulongKeepalive (n : Nat)
  | gulongSilenceTimeout (n : Nat)
  | faultEvent (n : Nat)
  | fctlQuiesce (n : Nat)
  | quiesced (n : Nat)
  | fctlResume (n : Nat)
  | fctlPreset (n : Nat)
  | thermalTrip (n : Nat)
  | clockStep (n : Nat)
  | harvestUpdate (n : Nat)
  | packageReset (n : Nat)
  | attestationQuote (n : Nat)
  | haltedThreadKill (n : Nat)
  | cacheLineFill (n : Nat)
  | retrainComplete (n : Nat)
  | accessTableWrite (n : Nat)
  deriving DecidableEq, Repr, Inhabited

end Sys2Proof
end

