-- ==== Sys2Proof/WellFormed.lean ====
section
/-! DEFINITION. Which instruction terms a word can hold: the conditions that the types of
`Sys2Proof/Syntax.lean` leave open. The decoder uses the same conditions. -/

namespace Sys2Proof

/-- The window counts of a thread (03 R45). -/
structure Win where
  l : Nat
  g : Nat
  s : Nat
  deriving DecidableEq, Repr

/-- The largest window (64, 16, 16). -/
def Win.largest : Win := ⟨64, 16, 16⟩

/-- RX and RXH (02 R29). -/
def SReg.isPort : SReg → Bool
  | .rx => true
  | .rxh => true
  | _ => false

/-- TXH, TX and TXE (02 R29). -/
def Dst.isPort : Dst → Bool
  | .txh => true
  | .tx => true
  | .txe => true
  | _ => false

def SrcB.isPort : SrcB → Bool
  | .reg r => r.isPort
  | _ => false

def SrcC.isPort : SrcC → Bool
  | .reg r => r.isPort
  | .lit _ => false

/-- At most one of the named operands is a message port (02 R29). -/
def onePort (l : List Bool) : Bool := l.count true ≤ 1

/-- 02 R27: PN = 1 with PR = 0 is no encoding. -/
def Guard.wf (g : Guard) : Bool := !(g.pn && g.pr.val == 0)

/-- 04 R67: n is from 1 to 0x7FFF_FFFF. -/
def brOffsetOk (n : BitVec 32) : Bool := n != 0 && !n.getLsbD 31

/-- 04 R83: POS + LEN is at most 63. -/
def bitFieldOk (pos len : BitVec 6) : Bool := pos.toNat + len.toNat ≤ 63

/-- The assigned control-register numbers (03 R54, Table 3.3). -/
def cregAssigned (n : BitVec 12) : Bool :=
  let k := n.toNat
  (k ≤ 0x006) || (0x008 ≤ k && k ≤ 0x00E) || (0x010 ≤ k && k ≤ 0x014) ||
    (0x020 ≤ k && k ≤ 0x023) || k == 0x030 || (0x040 ≤ k && k ≤ 0x07F)

/-- The control registers that app privilege may not name (03 Table 3.3, "debug"). -/
def cregDebug (n : BitVec 12) : Bool := 0x040 ≤ n.toNat && n.toNat ≤ 0x07F

def Fmt.isInt : Fmt → Bool
  | .i8 | .i16 | .i32 | .i64 => true
  | _ => false

/-- The width of an element, 08 R153; MXFP4 elements have four bits. -/
def Fmt.width : Fmt → Nat
  | .i8 => 8 | .i16 => 16 | .i32 => 32 | .i64 => 64 | .fp32 => 32 | .bf16 => 16 | .fp16 => 16
  | .e4m3 => 8 | .e5m2 => 8 | .mxfp8 => 8 | .mxfp4 => 4 | .t8 => 8 | .t6 => 6

/-- FP32, BF16 or FP16. -/
def wideFmt : Fmt → Bool
  | .fp32 | .bf16 | .fp16 => true
  | _ => false

/-- The format list of VBCAST: I8 to I64, FP32, BF16, FP16. -/
def vecFmt (f : Fmt) : Bool := f.isInt || wideFmt f

def mxFmt : Fmt → Bool
  | .mxfp8 | .mxfp4 => true
  | _ => false

/-- 04 R94: neither an integer nor an MX format. -/
def fcvtFmtOk (f : Fmt) : Bool := !f.isInt && !mxFmt f

/-- 04 R95: exactly one of the two is FP32 and the other an integer format. -/
def icvtPairOk (d s : Fmt) : Bool := (d == .fp32 && s.isInt) || (d.isInt && s == .fp32)

/-- Which modifiers an element operation takes (09 R193). -/
inductive VAluKind where
  | arith | minmax | bits
  deriving DecidableEq, Repr

/-- 09 R193, Table 9.6: arithmetic takes OVF and RND on floating formats, OVF and UNS on
integers; minimum, maximum and absolute value take no RND or OVF on floating formats; the bit
operations take integers with OVF = 1 and UNS = 0. -/
def vAluModOk (k : VAluKind) (f : Fmt) (ovf : Bool) (r : Rnd) (uns : Bool) : Bool :=
  match k with
  | .bits => f.isInt && ovf && !uns && r == .rne
  | .minmax => r == .rne && ((f.isInt) || (wideFmt f && !ovf && !uns))
  | .arith => (f.isInt && r == .rne) || (wideFmt f && !uns)

/-- COND of VCMP within the table of the format (09 R194). -/
def vCondOk (f : Fmt) (c : BitVec 4) : Bool := if f.isInt then c.toNat < 10 else c.toNat < 8

/-- VCVT: formats, PART below the width ratio, no OVF = 1 from floating to integer (09 R196). -/
def vCvtOk (d s : Fmt) (ovf : Bool) (part : BitVec 4) : Bool :=
  vCvtFmt d && vCvtFmt s && !(d.isInt && !s.isInt && ovf) &&
    part.toNat < max (vcw d) (vcw s) / min (vcw d) (vcw s)
where
  vCvtFmt (f : Fmt) : Bool := !mxFmt f
  vcw (f : Fmt) : Nat := if f == .t6 then 8 else f.width

/-- The sum takes OVF, and RND on floating formats; maximum and minimum take neither (09
Table 9.4, R199). DEDUCED: the sum of integers takes OVF, which R182 makes its default. DEDUCED: the
'(VRSUM, float)' that stands after 'OVF, RND' says of OVF too that it is VRSUM's (log 20). -/
def vRedOk (sum : Bool) (f : Fmt) (ovf : Bool) (r : Rnd) : Bool :=
  vecFmt f && (sum || !ovf) && ((sum && wideFmt f) || r == .rne)

/-- A claim count: a power of two from 4 to 64. -/
def claimCountOk (n : Nat) : Bool := [4, 8, 16, 32, 64].contains n

/-- 09 R185: minimum in [6:0], desired in [14:8], all other bits 0. -/
def claimCountsOk (v : Word) : Bool :=
  claimCountOk (v.extractLsb' 0 7).toNat && claimCountOk (v.extractLsb' 8 7).toNat &&
    (v.extractLsb' 0 7).toNat ≤ (v.extractLsb' 8 7).toNat && (v &&& ~~~0x7F7F) == 0

/-- 10 R212: g is odd and 1 ≤ g < 2n with n = 2^LN. -/
def autoMulOk (ln : BitVec 4) (g : Word) : Bool := g.getLsbD 0 && g.toNat < 2 * 2 ^ ln.toNat

/-- 12 R237: STRIDE 2 to 65,535, SLOTS 1 to 64, reserved bits 0. -/
def ringCfgOk (v : Word) : Bool :=
  2 ≤ (v.extractLsb' 0 16).toNat && 1 ≤ (v.extractLsb' 16 7).toNat &&
    (v.extractLsb' 16 7).toNat ≤ 64 && v.toNat < 2 ^ 26

/-- 12 R245: FMT2 is FP32 or I32; FMT is not MX; I32 only with GATE 0; GATE 2 and 3 only with
ACT 0; an integer FMT only with OVF = 0. -/
def drainFmtOk (d s : Fmt) (ovf : Bool) (act : Act) (gate : Gate) : Bool :=
  (s == .fp32 || (s == .i32 && gate == .plain)) && !mxFmt d &&
    (!(gate == .lstm || gate == .gru) || act == .identity) && !(d.isInt && ovf)

/-- WQRY selectors that read the cycle record (17 R343). -/
def WqrySel.isRecord : WqrySel → Bool
  | .clen | .cobj | .cfam => true
  | _ => false

/-- UL is no form of a register, and FSET.entry takes none (05 Table 5.5). -/
def fsetOk (f : FsetField) : SrcB → Bool
  | .ulit _ => f != .entry
  | _ => true

def memPorts (m : MemOp) : List Bool := [m.base.isPort, m.off.isPort]

/-- Orders a load row lists (07 Table 7.3). -/
def Ord.isLoad (o : Ord) : Bool := o == .rlx || o == .acq
/-- Orders a store row lists. -/
def Ord.isStore (o : Ord) : Bool := o == .rlx || o == .rel

/-! ### The conditions of one shape -/

def OpG.wf (o : OpG) : Bool := o.g.wf
def OpA.wf (o : OpA) : Bool := o.g.wf
def OpD.wf (o : OpD) : Bool := o.g.wf
def OpDA.wf (o : OpDA) : Bool := o.g.wf && onePort [o.d.isPort, o.a.isPort]
def OpBr.wf (o : OpBr) : Bool := o.g.wf && brOffsetOk o.n
def OpCall.wf (o : OpCall) : Bool := o.g.wf
def OpAC.wf (o : OpAC) : Bool := o.g.wf && onePort [o.a.isPort, o.code.isPort]
def OpC.wf (o : OpC) : Bool := o.g.wf
def OpDC.wf (o : OpDC) : Bool := o.g.wf && onePort [o.d.isPort, o.b.isPort]
/-- VCLAIM checks a literal's counts at decode. -/
def OpDC.claimWf (o : OpDC) : Bool :=
  o.wf && (match o.b with | .lit v => claimCountsOk (v.setWidth 64) | .reg _ => true)
def OpFset.wf (o : OpFset) : Bool := o.g.wf && fsetOk o.field o.b
def OpFput.wf (o : OpFput) : Bool := o.g.wf
def OpFgets.wf (o : OpFgets) : Bool := o.g.wf && onePort [o.d.isPort, o.a.isPort]
def OpFstat.wf (o : OpFstat) : Bool := o.g.wf && onePort [o.d.isPort, o.a.isPort]
def OpMfc.wf (o : OpMfc) : Bool := o.g.wf && cregAssigned o.n
def OpMtc.wf (o : OpMtc) : Bool := o.g.wf && cregAssigned o.n
def OpAlu.wf (o : OpAlu) : Bool := o.g.wf && onePort [o.d.isPort, o.a.isPort, o.b.isPort]
def OpAluU.wf (o : OpAluU) : Bool := o.g.wf && onePort [o.d.isPort, o.a.isPort, o.b.isPort]
def OpAlu3.wf (o : OpAlu3) : Bool :=
  o.g.wf && onePort [o.d.isPort, o.a.isPort, o.b.isPort, o.c.isPort]
def OpBfx.wf (o : OpBfx) : Bool :=
  o.g.wf && onePort [o.d.isPort, o.a.isPort] && bitFieldOk o.pos o.len
def OpBfi.wf (o : OpBfi) : Bool :=
  o.g.wf && onePort [o.d.isPort, o.a.isPort, o.c.isPort] && bitFieldOk o.pos o.len
def OpExt.wf (o : OpExt) : Bool := o.g.wf && onePort [o.d.isPort, o.a.isPort]
def OpMov.wf (o : OpMov) : Bool := o.g.wf && onePort [o.d.isPort, o.b.isPort]
def OpMovHi.wf (o : OpMovHi) : Bool := o.g.wf && onePort [o.d.isPort, o.a.isPort]
def OpSel.wf (o : OpSel) : Bool := o.g.wf && onePort [o.d.isPort, o.a.isPort, o.b.isPort]
def OpLea.wf (o : OpLea) : Bool := o.g.wf && onePort [o.d.isPort, o.a.isPort, o.b.isPort]
def OpCmp.wf (o : OpCmp) : Bool := o.g.wf && onePort [o.a.isPort, o.b.isPort]
def OpPlog.wf (o : OpPlog) : Bool := o.g.wf
def OpFp2.wf (o : OpFp2) : Bool := o.g.wf && onePort [o.d.isPort, o.a.isPort, o.b.isPort]
def OpFpMin.wf (o : OpFpMin) : Bool := o.g.wf && onePort [o.d.isPort, o.a.isPort, o.b.isPort]
def OpFp3.wf (o : OpFp3) : Bool :=
  o.g.wf && onePort [o.d.isPort, o.a.isPort, o.b.isPort, o.c.isPort]
def OpFcmp.wf (o : OpFcmp) : Bool := o.g.wf && onePort [o.a.isPort, o.b.isPort]
def OpFcvt.wf (o : OpFcvt) : Bool :=
  o.g.wf && onePort [o.d.isPort, o.a.isPort] && fcvtFmtOk o.fmt && fcvtFmtOk o.fmt2
def OpIcvt.wf (o : OpIcvt) : Bool :=
  o.g.wf && onePort [o.d.isPort, o.a.isPort] && icvtPairOk o.fmt o.fmt2
def OpM.wf (o : OpM) : Bool := o.g.wf && onePort (memPorts o.m)
def OpDM.wf (o : OpDM) : Bool := o.g.wf && onePort (o.d.isPort :: memPorts o.m)
def OpMS.wf (o : OpMS) : Bool := o.g.wf && onePort (memPorts o.m)
def OpDMS.wf (o : OpDMS) : Bool := o.g.wf && onePort (o.d.isPort :: memPorts o.m)
/-- NGRP takes the scopes dev and sys only (16 R321). -/
def OpDMS.groupWf (o : OpDMS) : Bool := o.wf && (o.scope == .dev || o.scope == .sys)
def OpMCS.wf (o : OpMCS) : Bool := o.g.wf && onePort (memPorts o.m ++ [o.c.isPort])
def OpDMCS.wf (o : OpDMCS) : Bool :=
  o.g.wf && onePort (o.d.isPort :: memPorts o.m ++ [o.c.isPort])
def OpLd.wf (o : OpLd) : Bool := o.g.wf && onePort (o.d.isPort :: memPorts o.m) && o.ord.isLoad
def OpLdp.wf (o : OpLdp) : Bool := o.g.wf && onePort (o.d.isPort :: memPorts o.m) && o.ord.isLoad
def OpSt.wf (o : OpSt) : Bool :=
  o.g.wf && onePort (memPorts o.m ++ [o.c.isPort]) && o.ord.isStore
def OpStn.wf (o : OpStn) : Bool :=
  o.g.wf && onePort (memPorts o.m ++ [o.c.isPort]) && o.ord.isStore
def OpTake.wf (o : OpTake) : Bool :=
  o.g.wf && onePort (o.d.isPort :: memPorts o.m) && o.ord.isLoad
def OpPut.wf (o : OpPut) : Bool :=
  o.g.wf && onePort (memPorts o.m ++ [o.c.isPort]) && o.ord.isStore
def OpTagr.wf (o : OpTagr) : Bool :=
  o.g.wf && onePort (o.d.isPort :: memPorts o.m) && o.ord.isLoad && o.d != .l o.t
def OpTagw.wf (o : OpTagw) : Bool :=
  o.g.wf && onePort (memPorts o.m ++ [o.c.isPort]) && o.ord.isStore &&
    (o.nt != .empty || o.c == .zero)
def OpFence.wf (o : OpFence) : Bool := o.g.wf && o.ord != .rlx
def OpAtom.wf (o : OpAtom) : Bool :=
  o.g.wf && onePort (o.d.isPort :: memPorts o.m ++ [o.c.isPort]) && (o.sz == .b32 || o.sz == .b64)
def OpAfadd.wf (o : OpAfadd) : Bool :=
  o.g.wf && onePort (o.d.isPort :: memPorts o.m ++ [o.c.isPort])
def OpCas.wf (o : OpCas) : Bool :=
  o.g.wf && onePort (memPorts o.m ++ [o.c.isPort]) && (o.sz == .b32 || o.sz == .b64)
def OpTset.wf (o : OpTset) : Bool := o.g.wf && onePort [o.d.isPort, o.a.isPort, o.b.isPort]
def OpBari.wf (o : OpBari) : Bool := o.g.wf && onePort (memPorts o.m ++ [o.c.isPort])
def OpWqry.wf (o : OpWqry) : Bool :=
  o.g.wf && onePort (o.d.isPort :: memPorts o.m) &&
    (!o.sel.isRecord || (o.m.off == .lit 0 && o.scope == .core))
def OpEapp.wf (o : OpEapp) : Bool := o.g.wf && onePort [o.a.isPort, o.b.isPort, o.c.isPort]
def OpErepl.wf (o : OpErepl) : Bool := o.g.wf && onePort [o.d.isPort, o.a.isPort]
def OpVLd.wf (o : OpVLd) : Bool := o.g.wf && o.ord.isLoad
def OpVSt.wf (o : OpVSt) : Bool := o.g.wf && o.ord.isStore
def OpVLds.wf (o : OpVLds) : Bool :=
  o.g.wf && o.ord.isLoad && onePort [o.a.isPort, o.c.isPort]
def OpVSts.wf (o : OpVSts) : Bool :=
  o.g.wf && o.ord.isStore && onePort [o.a.isPort, o.c.isPort]
def OpVGath.wf (o : OpVGath) : Bool := o.g.wf && o.ord.isLoad
def OpVScat.wf (o : OpVScat) : Bool := o.g.wf && o.ord.isStore
def OpVFill.wf (fmts : Fmt → Bool) (o : OpVFill) : Bool := o.g.wf && fmts o.fmt
def OpVExt.wf (o : OpVExt) : Bool := o.g.wf && vecFmt o.fmt && onePort [o.d.isPort, o.idx.isPort]
def OpVIns.wf (o : OpVIns) : Bool := o.g.wf && vecFmt o.fmt && onePort [o.a.isPort, o.idx.isPort]
def OpVAlu.wf (k : VAluKind) (o : OpVAlu) : Bool := o.g.wf && vAluModOk k o.fmt o.ovf o.rnd o.uns
def OpVFma.wf (o : OpVFma) : Bool := o.g.wf && vAluModOk .arith o.fmt o.ovf o.rnd o.uns
def OpVAbs.wf (o : OpVAbs) : Bool := o.g.wf && vAluModOk .minmax o.fmt o.ovf .rne o.uns
def OpVCmp.wf (o : OpVCmp) : Bool := o.g.wf && vecFmt o.fmt && vCondOk o.fmt o.cond
def OpVSel.wf (o : OpVSel) : Bool := o.g.wf && vecFmt o.fmt
def OpKlog.wf (o : OpKlog) : Bool := o.g.wf
def OpKpop.wf (o : OpKpop) : Bool := o.g.wf && vecFmt o.fmt
def OpVCvt.wf (o : OpVCvt) : Bool := o.g.wf && vCvtOk o.fmt o.fmt2 o.ovf o.part
def OpVQmx.wf (o : OpVQmx) : Bool := o.g.wf && mxFmt o.fmt && wideFmt o.fmt2
def OpVDqmx.wf (o : OpVDqmx) : Bool := o.g.wf && wideFmt o.fmt && mxFmt o.fmt2
def OpVRed.wf (sum : Bool) (o : OpVRed) : Bool := o.g.wf && vRedOk sum o.fmt o.ovf o.rnd
def OpVSpec.wf (o : OpVSpec) : Bool := o.g.wf && wideFmt o.fmt
def OpVPerm.wf (o : OpVPerm) : Bool := o.g.wf && vecFmt o.fmt
def OpVBperm.wf (o : OpVBperm) : Bool := o.g.wf && vecFmt o.fmt && decide (o.dist ≤ 8)
def OpVMset.wf (o : OpVMset) : Bool := o.g.wf
def OpVM2.wf (o : OpVM2) : Bool := o.g.wf
def OpVM1.wf (o : OpVM1) : Bool := o.g.wf
def OpVBfly.wf (o : OpVBfly) : Bool := o.g.wf
/-- 10 R210: the cross-register form writes an even register and the next. -/
def OpVBflyX.wf (o : OpVBflyX) : Bool := o.g.wf && o.vd.val % 2 == 0
def OpVAuto.wf (o : OpVAuto) : Bool :=
  o.g.wf && 1 ≤ o.ln.toNat && o.ln.toNat ≤ 7 &&
    (match o.b with | .lit v => autoMulOk o.ln (v.setWidth 64) | .reg _ => true)
def OpRingi.wf (o : OpRingi) : Bool :=
  o.g.wf && onePort [o.a.isPort, o.cfg.isPort] &&
    (match o.cfg with | .lit v => ringCfgOk (v.setWidth 64) | .reg _ => true)
def OpRing.wf (o : OpRing) : Bool := o.g.wf
def OpRpush.wf (o : OpRpush) : Bool := o.g.wf && onePort [o.d.isPort, o.a.isPort]
def OpRstat.wf (o : OpRstat) : Bool := o.g.wf
def OpTldw.wf (o : OpTldw) : Bool := o.g.wf
def OpTmma.wf (o : OpTmma) : Bool := o.g.wf && onePort (memPorts o.m ++ [o.c.isPort])
def OpTdrain.wf (o : OpTdrain) : Bool :=
  o.g.wf && onePort [o.a.isPort, o.b.isPort, o.c.isPort] &&
    drainFmtOk o.fmt o.fmt2 o.ovf o.act o.gate
def OpNred.wf (o : OpNred) : Bool := o.g.wf && onePort [o.a.isPort, o.y.isPort, o.c.isPort]
def OpNredi.wf (o : OpNredi) : Bool := o.g.wf && onePort [o.d.isPort, o.a.isPort, o.t.isPort]
def OpTracew.wf (o : OpTracew) : Bool := o.g.wf && onePort [o.a.isPort, o.b.isPort]
def OpCntr.wf (o : OpCntr) : Bool :=
  o.g.wf && onePort [o.d.isPort, o.n.isPort] &&
    (match o.n with | .lit v => decide (v < 16) | .reg _ => true)

/-- The instruction can stand in a word. An event row cannot: no word encodes it. -/
def Instr.wf : Instr → Bool
  | .nop o => o.wf
  | .br o => o.wf
  | .brx o => o.wf
  | .call o => o.wf
  | .callx o => o.wf
  | .ret o => o.wf
  | .exit o => o.wf
  | .breakM o => o.wf
  | .fset o => o.wf
  | .fputg o => o.wf
  | .fputs o => o.wf
  | .create o => o.wf
  | .sync o => o.wf
  | .fgets o => o.wf
  | .kill o => o.wf
  | .fstat o => o.wf
  | .trap o => o.wf
  | .bkpt o => o.wf
  | .eret o => o.wf
  | .mfc o => o.wf
  | .mtc o => o.wf
  | .yieldT o => o.wf
  | .chkpt o => o.wf
  | .add o => o.wf
  | .sub o => o.wf
  | .mul o => o.wf
  | .mulhs o => o.wf
  | .mulhu o => o.wf
  | .madd o => o.wf
  | .divs o => o.wf
  | .divu o => o.wf
  | .rems o => o.wf
  | .remu o => o.wf
  | .and o => o.wf
  | .or o => o.wf
  | .xor o => o.wf
  | .andn o => o.wf
  | .shl o => o.wf
  | .shr o => o.wf
  | .sar o => o.wf
  | .rol o => o.wf
  | .min o => o.wf
  | .max o => o.wf
  | .minu o => o.wf
  | .maxu o => o.wf
  | .adds o => o.wf
  | .subs o => o.wf
  | .abs o => o.wf
  | .clz o => o.wf
  | .ctz o => o.wf
  | .popc o => o.wf
  | .brev o => o.wf
  | .bswap o => o.wf
  | .bfx o => o.wf
  | .bfi o => o.wf
  | .sext o => o.wf
  | .zext o => o.wf
  | .mov o => o.wf
  | .movHi o => o.wf
  | .sel o => o.wf
  | .lea o => o.wf
  | .cmp o => o.wf
  | .plog o => o.wf
  | .fadd o => o.wf
  | .fsub o => o.wf
  | .fmul o => o.wf
  | .fmin o => o.wf
  | .fmax o => o.wf
  | .ffma o => o.wf
  | .fcmp o => o.wf
  | .fcvt o => o.wf
  | .icvt o => o.wf
  | .ld o => o.wf
  | .ldp o => o.wf
  | .st o => o.wf
  | .stn o => o.wf
  | .take o => o.wf
  | .ldf o => o.wf
  | .put o => o.wf
  | .putWait o => o.wf
  | .tagr o => o.wf
  | .tagw o => o.wf
  | .fence o => o.wf
  | .aadd o => o.wf
  | .aand o => o.wf
  | .aor o => o.wf
  | .axor o => o.wf
  | .amin o => o.wf
  | .amax o => o.wf
  | .aminu o => o.wf
  | .amaxu o => o.wf
  | .axchg o => o.wf
  | .afadd o => o.wf
  | .cas o => o.wf
  | .pref o => o.wf
  | .mona o => o.wf
  | .mond o => o.wf
  | .mondAll o => o.wf
  | .waitm o => o.wf
  | .tset o => o.wf
  | .tlook o => o.wf
  | .tclr o => o.wf
  | .bari o => o.wf
  | .barr o => o.wf
  | .barw o => o.wf
  | .bwait o => o.wf
  | .bdrop o => o.wf
  | .bpois o => o.wf
  | .lki o => o.wf
  | .lkacq o => o.wf
  | .lktry o => o.wf
  | .lkrel o => o.wf
  | .qi o => o.wf
  | .qpush o => o.wf
  | .qpop o => o.wf
  | .wreg o => o.wf
  | .whold o => o.wf
  | .wdrop o => o.wf
  | .wwait o => o.wf
  | .wwaitNb o => o.wf
  | .wunreg o => o.wf
  | .wqry o => o.wf
  | .ofree o => o.wf
  | .copy o => o.wf
  | .copyt o => o.wf
  | .gath o => o.wf
  | .pack o => o.wf
  | .unpack o => o.wf
  | .ccan o => o.wf
  | .cstat o => o.wf
  | .ebin o => o.wf
  | .eapp o => o.wf
  | .erepl o => o.wf
  | .vclaim o => o.claimWf
  | .vrel o => o.wf
  | .vyield o => o.wf
  | .vld o => o.wf
  | .vst o => o.wf
  | .vlds o => o.wf
  | .vsts o => o.wf
  | .vgath o => o.wf
  | .vscat o => o.wf
  | .vbcast o => o.wf vecFmt
  | .viota o => o.wf Fmt.isInt
  | .vext o => o.wf
  | .vins o => o.wf
  | .vadd o => o.wf .arith
  | .vsub o => o.wf .arith
  | .vmul o => o.wf .arith
  | .vfma o => o.wf
  | .vmin o => o.wf .minmax
  | .vmax o => o.wf .minmax
  | .vabs o => o.wf
  | .vand o => o.wf .bits
  | .vor o => o.wf .bits
  | .vxor o => o.wf .bits
  | .vshl o => o.wf .bits
  | .vshr o => o.wf .bits
  | .vsar o => o.wf .bits
  | .vcmp o => o.wf
  | .vsel o => o.wf
  | .klog o => o.wf
  | .kpop o => o.wf
  | .vcvt o => o.wf
  | .vqmx o => o.wf
  | .vdqmx o => o.wf
  | .vrsum o => o.wf true
  | .vrmax o => o.wf false
  | .vrmin o => o.wf false
  | .vexp2 o => o.wf
  | .vlog2 o => o.wf
  | .vrcp o => o.wf
  | .vrsq o => o.wf
  | .vsqrt o => o.wf
  | .vtanh o => o.wf
  | .vsigm o => o.wf
  | .vperm o => o.wf
  | .vbperm o => o.wf
  | .vmset o => o.wf
  | .vmadd o => o.wf
  | .vmsub o => o.wf
  | .vmneg o => o.wf
  | .vmmul o => o.wf
  | .vmmac o => o.wf
  | .vmred o => o.wf
  | .vmto o => o.wf
  | .vmfrom o => o.wf
  | .vbfly o => o.wf
  | .vbflyX o => o.wf
  | .vibfly o => o.wf
  | .vibflyX o => o.wf
  | .vauto o => o.wf
  | .ringi o => o.wf
  | .rpushRes o => o.wf
  | .rpush o => o.wf
  | .rpopRes o => o.wf
  | .rpop o => o.wf
  | .rstat o => o.wf
  | .tldw o => o.wf
  | .trel o => o.wf
  | .tmma o => o.wf
  | .tzero o => o.wf
  | .tdrain o => o.wf
  | .twait o => o.wf
  | .ngrp o => o.groupWf
  | .nred o => o.wf
  | .nredi o => o.wf
  | .nfree o => o.wf
  | .tracew o => o.wf
  | .cntr o => o.wf
  -- events
  | .registerWrite _ => false
  | .turn _ => false
  | .fetchLineArrival _ => false
  | .memoryReply _ => false
  | .errorNotice _ => false
  | .homeOperation _ => false
  | .queuedBankAccess _ => false
  | .requestCombine _ => false
  | .deferralDelivery _ => false
  | .monitorWake _ => false
  | .waitmTimeout _ => false
  | .linkedValueArrival _ => false
  | .memberStart _ => false
  | .familyEnd _ => false
  | .phaseMarker _ => false
  | .phaseComplete _ => false
  | .packetHeaderArrival _ => false
  | .packetCloseArrival _ => false
  | .packetAcknowledge _ => false
  | .reductionPartial _ => false
  | .copyEngineStart _ => false
  | .copyComplete _ => false
  | .engineOpStart _ => false
  | .tldwLoadComplete _ => false
  | .tmmaRetire _ => false
  | .tzeroComplete _ => false
  | .tdrainComplete _ => false
  | .entrepotAppendArrival _ => false
  | .ereplComplete _ => false
  | .patrolScrub _ => false
  | .coreReset _ => false
  | .preEmpt _ => false
  | .threadRestore _ => false
  | .migrate _ => false
  | .launchAccept _ => false
  | .launchBind _ => false
  | .launchStart _ => false
  | .launchComplete _ => false
  | .launchKill _ => false
  | .sqTailWrite _ => false
  | .featureCommit _ => false
  | .translationWalkComplete _ => false
  | .faultAnswerRetry _ => false
  | .faultAnswerDeny _ => false
  | .translationInvalidate _ => false
  | .waitForInsert _ => false
  | .waitForRemove _ => false
  | .priorityPropagate _ => false
  | .deadlockScan _ => false
  | .dcmdStop _ => false
  | .dcmdResume _ => false
  | .dcmdStep _ => false
  | .clusterStopArrival _ => false
  | .clusterResumeArrival _ => false
  | .pcSample _ => false
  | .traceRecordArrival _ => false
  | .waybillSealTimeout _ => false
  | .waybillWriteComplete _ => false
  | .routeSurvey _ => false
  | .traceEnable _ => false
  | .unitClaim _ => false
  | .pmodeEnter _ => false
  | .pmodeLeave _ => false
  | .intervalClose _ => false
  | .linkRetrain _ => false
  | .gulongKeepalive _ => false
  | .gulongSilenceTimeout _ => false
  | .faultEvent _ => false
  | .fctlQuiesce _ => false
  | .quiesced _ => false
  | .fctlResume _ => false
  | .fctlPreset _ => false
  | .thermalTrip _ => false
  | .clockStep _ => false
  | .harvestUpdate _ => false
  | .packageReset _ => false
  | .attestationQuote _ => false
  | .haltedThreadKill _ => false
  | .cacheLineFill _ => false
  | .retrainComplete _ => false
  | .accessTableWrite _ => false

end Sys2Proof
end

