-- ==== Sys2Proof/Decode.lean ====
section
/-! DEFINITION. The instruction word: its fields (02 R26), the decoder with the causes and
field codes of checks 7, 10 and 11 (02 Table 2.13, R43), and after it the encoder. -/

namespace Sys2Proof

/-! ### The fields of an instruction word -/

/-- The fields of Table 2.4, with MOD split as Table 2.8 splits it. -/
structure Fields where
  op : BitVec 8 := 0
  pn : Bool := false
  pr : BitVec 3 := 0
  dst : BitVec 7 := 0
  sa : BitVec 7 := 0
  sb : BitVec 32 := 0
  sc : BitVec 7 := 0
  lit : Bool := false
  scope : BitVec 2 := 0
  ord : BitVec 2 := 0
  sas : Bool := false
  ovf : Bool := false
  fmt : BitVec 4 := 0
  fmt2 : BitVec 4 := 0
  rnd : BitVec 3 := 0
  low : BitVec 13 := 0
  deriving DecidableEq, Repr

/-- The fields of a word, at the bit positions of Tables 2.4 and 2.8. -/
def Fields.unpack (w : IWord) : Fields where
  op := w.extractLsb' 88 8
  pn := w.getLsbD 87
  pr := w.extractLsb' 84 3
  dst := w.extractLsb' 77 7
  sa := w.extractLsb' 70 7
  sb := w.extractLsb' 38 32
  sc := w.extractLsb' 31 7
  lit := w.getLsbD 30
  scope := w.extractLsb' 28 2
  ord := w.extractLsb' 26 2
  sas := w.getLsbD 25
  ovf := w.getLsbD 24
  fmt := w.extractLsb' 20 4
  fmt2 := w.extractLsb' 16 4
  rnd := w.extractLsb' 13 3
  low := w.extractLsb' 0 13

/-- The word that holds the fields. -/
def Fields.pack (f : Fields) : IWord :=
  f.op ++ BitVec.ofBool f.pn ++ f.pr ++ f.dst ++ f.sa ++ f.sb ++ f.sc ++ BitVec.ofBool f.lit ++
    f.scope ++ f.ord ++ BitVec.ofBool f.sas ++ BitVec.ofBool f.ovf ++ f.fmt ++ f.fmt2 ++
    f.rnd ++ f.low

/-! ### Codes of registers and modifiers -/

/-- Table 2.5. -/
def SReg.code : SReg → BitVec 7
  | .l n => BitVec.ofNat 7 n.val
  | .g n => BitVec.ofNat 7 (0x40 + n.val)
  | .s n => BitVec.ofNat 7 (0x50 + n.val)
  | .d n => BitVec.ofNat 7 (0x60 + n.val)
  | .zero => 0x70
  | .rx => 0x74
  | .rxh => 0x75
  | .index => 0x76

/-- Table 2.5. -/
def Dst.code : Dst → BitVec 7
  | .l n => BitVec.ofNat 7 n.val
  | .s n => BitVec.ofNat 7 (0x50 + n.val)
  | .zero => 0x70
  | .txh => 0x71
  | .tx => 0x72
  | .txe => 0x73

/-- The readable register a specifier names within a window (R28, Tables 2.5 and 2.6). -/
def SReg.ofCode? (w : Win) (c : BitVec 7) : Option SReg :=
  let n := c.toNat
  if h : n < 64 then if n < w.l then some (.l ⟨n, h⟩) else none
  else if h : n < 0x50 then if n - 0x40 < w.g then some (.g ⟨n - 0x40, by omega⟩) else none
  else if h : n < 0x60 then if n - 0x50 < w.s then some (.s ⟨n - 0x50, by omega⟩) else none
  else if h : n < 0x70 then if n - 0x60 < w.s then some (.d ⟨n - 0x60, by omega⟩) else none
  else if n = 0x70 then some .zero
  else if n = 0x74 then some .rx
  else if n = 0x75 then some .rxh
  else if n = 0x76 then some .index
  else none

/-- The writable register a specifier names within a window (R28, Tables 2.5 and 2.6). -/
def Dst.ofCode? (w : Win) (c : BitVec 7) : Option Dst :=
  let n := c.toNat
  if h : n < 64 then if n < w.l then some (.l ⟨n, h⟩) else none
  else if n < 0x50 then none
  else if h : n < 0x60 then if n - 0x50 < w.s then some (.s ⟨n - 0x50, by omega⟩) else none
  else if n = 0x70 then some .zero
  else if n = 0x71 then some .txh
  else if n = 0x72 then some .tx
  else if n = 0x73 then some .txe
  else none

def Scope.code : Scope → BitVec 2
  | .core => 0 | .clu => 1 | .dev => 2 | .sys => 3
def Scope.ofCode (c : BitVec 2) : Scope :=
  if c = 0 then .core else if c = 1 then .clu else if c = 2 then .dev else .sys
def Ord.code : Ord → BitVec 2
  | .rlx => 0 | .acq => 1 | .rel => 2 | .acqrel => 3
def Ord.ofCode (c : BitVec 2) : Ord :=
  if c = 0 then .rlx else if c = 1 then .acq else if c = 2 then .rel else .acqrel
def Fmt.code : Fmt → BitVec 4
  | .i8 => 0 | .i16 => 1 | .i32 => 2 | .i64 => 3 | .fp32 => 4 | .bf16 => 5 | .fp16 => 6
  | .e4m3 => 7 | .e5m2 => 8 | .mxfp8 => 9 | .mxfp4 => 10 | .t8 => 11 | .t6 => 12
def Fmt.ofCode? (c : BitVec 4) : Option Fmt :=
  [.i8, .i16, .i32, .i64, .fp32, .bf16, .fp16, .e4m3, .e5m2, .mxfp8, .mxfp4, .t8, .t6][c.toNat]?
def Rnd.code : Rnd → BitVec 3
  | .rne => 0 | .rtz => 1 | .rup => 2 | .rdn => 3 | .sr => 4 | .dyn => 7
def Rnd.ofCode? (c : BitVec 3) : Option Rnd :=
  [some .rne, some .rtz, some .rup, some .rdn, some .sr, none, none, some .dyn][c.toNat]?.join
def Size.code : Size → BitVec 2
  | .b8 => 0 | .b16 => 1 | .b32 => 2 | .b64 => 3
def Size.ofCode (c : BitVec 2) : Size :=
  if c = 0 then .b8 else if c = 1 then .b16 else if c = 2 then .b32 else .b64
def ICond.code : ICond → BitVec 4
  | .eq => 0 | .ne => 1 | .lt => 2 | .le => 3 | .gt => 4 | .ge => 5 | .ltu => 6 | .leu => 7
  | .gtu => 8 | .geu => 9
def ICond.ofCode? (c : BitVec 4) : Option ICond :=
  [.eq, .ne, .lt, .le, .gt, .ge, .ltu, .leu, .gtu, .geu][c.toNat]?
def FCond.code : FCond → BitVec 4
  | .eq => 0 | .ne => 1 | .lt => 2 | .le => 3 | .gt => 4 | .ge => 5 | .un => 6 | .ord => 7
def FCond.ofCode? (c : BitVec 4) : Option FCond :=
  [.eq, .ne, .lt, .le, .gt, .ge, .un, .ord][c.toNat]?
def Cmb.code : Cmb → BitVec 2
  | .set => 0 | .and => 1 | .or => 2
def Cmb.ofCode? (c : BitVec 2) : Option Cmb :=
  if c = 0 then some .set else if c = 1 then some .and else if c = 2 then some .or else none
def FsetField.code : FsetField → BitVec 4
  | .start => 0 | .limit => 1 | .step => 2 | .block => 3 | .place => 4 | .entry => 5
  | .window => 6 | .prio => 7 | .flags => 8
def FsetField.ofCode? (c : BitVec 4) : Option FsetField :=
  [.start, .limit, .step, .block, .place, .entry, .window, .prio, .flags][c.toNat]?
def FstatSel.code : FstatSel → BitVec 3
  | .state => 0 | .count => 1 | .started => 2 | .ended => 3 | .bk => 4 | .bkindex => 5 | .fid => 6
def FstatSel.ofCode? (c : BitVec 3) : Option FstatSel :=
  [.state, .count, .started, .ended, .bk, .bkindex, .fid][c.toNat]?
def Tag.code : Tag → BitVec 2
  | .full => 0 | .empty => 1 | .object => 2 | .poison => 3
def Tag.ofCode (c : BitVec 2) : Tag :=
  if c = 0 then .full else if c = 1 then .empty else if c = 2 then .object else .poison
def WqrySel.code : WqrySel → BitVec 4
  | .kind => 0 | .holders => 1 | .waiters => 2 | .eprio => 3 | .untr => 4 | .clen => 5
  | .cobj => 6 | .cfam => 7
def WqrySel.ofCode? (c : BitVec 4) : Option WqrySel :=
  [.kind, .holders, .waiters, .eprio, .untr, .clen, .cobj, .cfam][c.toNat]?
def EappOp.code : EappOp → BitVec 2
  | .add => 0 | .min => 1 | .max => 2 | .or => 3
def EappOp.ofCode (c : BitVec 2) : EappOp :=
  if c = 0 then .add else if c = 1 then .min else if c = 2 then .max else .or
def RstatSel.code : RstatSel → BitVec 3
  | .ready => 0 | .free => 1 | .res => 2 | .pub => 3 | .cons => 4 | .pop => 5 | .cfg => 6
  | .base => 7
def RstatSel.ofCode (c : BitVec 3) : RstatSel :=
  if c = 0 then .ready else if c = 1 then .free else if c = 2 then .res else if c = 3 then .pub
  else if c = 4 then .cons else if c = 5 then .pop else if c = 6 then .cfg else .base
def Act.code : Act → BitVec 2
  | .identity => 0 | .relu => 1 | .sigmoid => 2 | .tanh => 3
def Act.ofCode (c : BitVec 2) : Act :=
  if c = 0 then .identity else if c = 1 then .relu else if c = 2 then .sigmoid else .tanh
def Gate.code : Gate → BitVec 2
  | .plain => 0 | .bias => 1 | .lstm => 2 | .gru => 3
def Gate.ofCode (c : BitVec 2) : Gate :=
  if c = 0 then .plain else if c = 1 then .bias else if c = 2 then .lstm else .gru
/-- Table 2.7. -/
def QWReg.code : QWReg → BitVec 7
  | .q n => BitVec.ofNat 7 (0x28 + n.val)
  | .w n => BitVec.ofNat 7 (0x2C + n.val)
def QWReg.ofCode? (c : BitVec 7) : Option QWReg :=
  let n := c.toNat
  if n < 0x28 then none
  else if h : n < 0x2C then some (.q ⟨n - 0x28, by omega⟩)
  else if h : n < 0x30 then some (.w ⟨n - 0x2C, by omega⟩)
  else none

/-! ### The parser: each step answers its part or the failing check's cause and field -/

/-- What a failing check of 7, 10 or 11 reports: the cause and the field code of
Table 2.14. -/
structure DecErr where
  cause : Cause
  field : BitVec 4
  deriving DecidableEq, Repr

/-- A parse step; the state says whether a message-port register has been named (R29). -/
abbrev P (α : Type) := StateT Bool (Except DecErr) α

def P.fail {α : Type} (c : Cause) (fc : BitVec 4) : P α := fun _ => .error ⟨c, fc⟩

/-- Check 11: the condition, else ILLEGAL_OPERAND with the field code. -/
def opnd (b : Bool) (fc : BitVec 4) : P Unit := if b then pure () else P.fail .illegalOperand fc

/-- Check 10: the condition, else ILLEGAL_MODIFIER. -/
def modf (b : Bool) : P Unit := if b then pure () else P.fail .illegalModifier 7

def P.get {α : Type} (x : Option α) (c : Cause) (fc : BitVec 4) : P α :=
  match x with
  | some a => pure a
  | none => P.fail c fc

/-- R29: a second port register fails the field that holds it. -/
def portRule (isPort : Bool) (fc : BitVec 4) : P Unit := fun seen =>
  if isPort && seen then .error ⟨.illegalOperand, fc⟩ else .ok ((), seen || isPort)

/-- A register read in the field with code `fc`. -/
def rd (w : Win) (fc : BitVec 4) (c : BitVec 7) : P SReg := do
  let r ← P.get (SReg.ofCode? w c) .illegalOperand fc
  portRule r.isPort fc
  pure r

/-- The register written, in DST. -/
def wr (w : Win) (c : BitVec 7) : P Dst := do
  let r ← P.get (Dst.ofCode? w c) .illegalOperand 2
  portRule r.isPort 2
  pure r

/-- A field that names a local within the window. -/
def localNo (w : Win) (fc : BitVec 4) (c : BitVec 7) : P (Fin 64) :=
  P.get (if h : c.toNat < 64 then if c.toNat < w.l then some ⟨c.toNat, h⟩ else none else none)
    .illegalOperand fc

/-- A predicate number in a register field, bits [6:3] zero (04 R65). -/
def predNo (fc : BitVec 4) (c : BitVec 7) : P PredNo :=
  P.get (if h : c.toNat < 8 then some ⟨c.toNat, h⟩ else none) .illegalOperand fc

def vNo (fc : BitVec 4) (c : BitVec 7) : P VNo :=
  P.get (if h : c.toNat < 32 then some ⟨c.toNat, h⟩ else none) .illegalOperand fc

def kNo (fc : BitVec 4) (c : BitVec 7) : P KNo :=
  P.get (if h : 0x20 ≤ c.toNat ∧ c.toNat < 0x28 then some ⟨c.toNat - 0x20, by omega⟩ else none)
    .illegalOperand fc

/-- A field whose value lies from `base` to `base + 15` and names one of sixteen. -/
def sixteen (fc : BitVec 4) (base : Nat) (c : BitVec 7) : P (Fin 16) :=
  P.get (if h : base ≤ c.toNat ∧ c.toNat < base + 16 then some ⟨c.toNat - base, by omega⟩ else none)
    .illegalOperand fc

/-- An unused register field (R26). -/
def unused (fc : BitVec 4) (c : BitVec 7) : P Unit := opnd (c == 0) fc

/-- R26: with LIT = 0, SB bits [69:45] must be zero. DEDUCED: not asked where the entry takes a
literal only, whose LIT = 0 fails with field code 6 (log 19). -/
def sbHigh (f : Fields) : P Unit := opnd (f.lit || (f.sb >>> 7 == 0)) 4

/-- The specifier in SB[44:38]. -/
def Fields.sbReg (f : Fields) : BitVec 7 := f.sb.setWidth 7

/-- SB unused: zero, with LIT = 0 checked later by `lit0`. -/
def sbUnused (f : Fields) : P Unit := opnd (f.sb == 0) 4

def lit0 (f : Fields) : P Unit := opnd (!f.lit) 6
def lit1 (f : Fields) : P Unit := opnd f.lit 6

/-- B of an instruction with the UL bit (04 R63). -/
def srcB (w : Win) (f : Fields) : P SrcB :=
  if f.lit then pure (if f.low.getLsbD 12 then .ulit f.sb else .lit f.sb)
  else do
    sbHigh f
    return .reg (← rd w 4 f.sbReg)

/-- B of an instruction without the UL bit. -/
def srcC (w : Win) (f : Fields) : P SrcC :=
  if f.lit then pure (.lit f.sb)
  else do
    sbHigh f
    return .reg (← rd w 4 f.sbReg)

/-- The guard encoding (R27): PN = 1 with PR = 0 is illegal. -/
def guardP (f : Fields) : P Guard := do
  opnd (!(f.pn && f.pr == 0)) 1
  return ⟨f.pr.toFin, f.pn⟩

/-- Which shared MOD fields an instruction carries (Table 2.8); one it does not carry must be
zero (R31). -/
structure Carry where
  scope : Bool := false
  ord : Bool := false
  sas : Bool := false
  ovf : Bool := false
  fmt : Bool := false
  fmt2 : Bool := false
  rnd : Bool := false

/-- R31: the shared fields not carried are zero, and so are the low bits outside `mask`. -/
def modOk (f : Fields) (mask : BitVec 13) (c : Carry := {}) : Bool :=
  (c.scope || f.scope == 0) && (c.ord || f.ord == 0) && (c.sas || !f.sas) && (c.ovf || !f.ovf) &&
    (c.fmt || f.fmt == 0) && (c.fmt2 || f.fmt2 == 0) && (c.rnd || f.rnd == 0) &&
    (f.low &&& ~~~mask == 0)

/-- UL = 1 needs LIT = 1 (04 R64). -/
def ulOk (f : Fields) : Bool := f.lit || !f.low.getLsbD 12

def fmtP (c : BitVec 4) : P Fmt := P.get (Fmt.ofCode? c) .illegalModifier 7
def rndP (f : Fields) : P Rnd := P.get (Rnd.ofCode? f.rnd) .illegalModifier 7

/-- MSK, MZ and KM (09 R182): MSK = 0 takes neither KM nor MZ. -/
def maskP (f : Fields) : P (Option VMask) := do
  let km := f.low.extractLsb' 0 3
  let msk := f.low.getLsbD 3
  let mz := f.low.getLsbD 4
  modf (msk || (km == 0 && !mz))
  return if msk then some ⟨km.toFin, mz⟩ else none

/-- MSK and KM of an instruction without MZ. -/
def kmaskP (f : Fields) : P (Option KNo) := do
  let km := f.low.extractLsb' 0 3
  let msk := f.low.getLsbD 3
  modf (msk || km == 0)
  return if msk then some km.toFin else none

/-- The memory operand in SA and SB (07 R134). -/
def memOp (w : Win) (f : Fields) : P MemOp := do
  let a ← rd w 3 f.sa
  let b ← srcC w f
  return ⟨a, b⟩

/-- A V register or a literal in SB (09 R183). -/
def vSrc (f : Fields) : P VSrc :=
  if f.lit then pure (.lit f.sb)
  else do
    sbHigh f
    return .v (← vNo 4 f.sbReg)

/-! ### One parser a shape -/

def parseG (f : Fields) : P OpG := do
  modf (modOk f 0)
  let g ← guardP f
  unused 2 f.dst; unused 3 f.sa; sbUnused f; unused 5 f.sc; lit0 f
  return ⟨g⟩

def parseA (w : Win) (f : Fields) : P OpA := do
  modf (modOk f 0)
  let g ← guardP f
  unused 2 f.dst
  let a ← rd w 3 f.sa
  sbUnused f; unused 5 f.sc; lit0 f
  return ⟨g, a⟩

def parseD (w : Win) (f : Fields) : P OpD := do
  modf (modOk f 0)
  let g ← guardP f
  let d ← wr w f.dst
  unused 3 f.sa; sbUnused f; unused 5 f.sc; lit0 f
  return ⟨g, d⟩

def parseDA (w : Win) (f : Fields) : P OpDA := do
  modf (modOk f 0)
  let g ← guardP f
  let d ← wr w f.dst
  let a ← rd w 3 f.sa
  sbUnused f; unused 5 f.sc; lit0 f
  return ⟨g, d, a⟩

def parseBr (f : Fields) : P OpBr := do
  modf (modOk f 0)
  let g ← guardP f
  unused 2 f.dst; unused 3 f.sa
  opnd (brOffsetOk f.sb) 4
  unused 5 f.sc; lit1 f
  return ⟨g, f.sb⟩

def parseCall (w : Win) (f : Fields) : P OpCall := do
  modf (modOk f 0)
  let g ← guardP f
  let d ← wr w f.dst
  unused 3 f.sa; unused 5 f.sc; lit1 f
  return ⟨g, d, f.sb⟩

def parseAC (w : Win) (f : Fields) : P OpAC := do
  modf (modOk f 0)
  let g ← guardP f
  unused 2 f.dst
  let a ← rd w 3 f.sa
  let b ← srcC w f
  unused 5 f.sc
  return ⟨g, a, b⟩

def parseC (w : Win) (f : Fields) : P OpC := do
  modf (modOk f 0)
  let g ← guardP f
  unused 2 f.dst; unused 3 f.sa
  let b ← srcC w f
  unused 5 f.sc
  return ⟨g, b⟩

def parseDC (w : Win) (f : Fields) : P OpDC := do
  modf (modOk f 0)
  let g ← guardP f
  let d ← wr w f.dst
  unused 3 f.sa
  let b ← srcC w f
  unused 5 f.sc
  return ⟨g, d, b⟩

/-- VCLAIM: a literal's counts are checked at decode (09 R185). -/
def parseVclaim (w : Win) (f : Fields) : P OpDC := do
  modf (modOk f 0)
  let g ← guardP f
  let d ← wr w f.dst
  unused 3 f.sa
  let b ← srcC w f
  opnd (!f.lit || claimCountsOk (f.sb.setWidth 64)) 4
  unused 5 f.sc
  return ⟨g, d, b⟩

def parseFset (w : Win) (f : Fields) : P OpFset := do
  modf (modOk f 0x100F && ulOk f)
  let fld ← P.get (FsetField.ofCode? (f.low.extractLsb' 0 4)) .illegalModifier 7
  modf (!(fld == .entry && f.low.getLsbD 12))
  let g ← guardP f
  unused 2 f.dst; unused 3 f.sa
  let b ← srcB w f
  unused 5 f.sc
  return ⟨g, fld, b⟩

def parseFput (base : Nat) (w : Win) (f : Fields) : P OpFput := do
  modf (modOk f 0x1000 && ulOk f)
  let g ← guardP f
  let n ← sixteen 2 base f.dst
  unused 3 f.sa
  let b ← srcB w f
  unused 5 f.sc
  return ⟨g, n, b⟩

def parseFgets (w : Win) (f : Fields) : P OpFgets := do
  modf (modOk f 0)
  let g ← guardP f
  let d ← wr w f.dst
  let a ← rd w 3 f.sa
  sbUnused f
  let n ← sixteen 5 0x50 f.sc
  lit0 f
  return ⟨g, d, a, n⟩

def parseFstat (w : Win) (f : Fields) : P OpFstat := do
  modf (modOk f 0x7)
  let s ← P.get (FstatSel.ofCode? (f.low.extractLsb' 0 3)) .illegalModifier 7
  let g ← guardP f
  let d ← wr w f.dst
  let a ← rd w 3 f.sa
  sbUnused f; unused 5 f.sc; lit0 f
  return ⟨g, d, a, s⟩

/-- The control-register number in SB[11:0] (04 R76, 03 R54). -/
def cregP (f : Fields) : P (BitVec 12) := do
  opnd ((f.sb >>> 12 == 0) && cregAssigned (f.sb.setWidth 12)) 4
  return f.sb.setWidth 12

def parseMfc (w : Win) (f : Fields) : P OpMfc := do
  modf (modOk f 0)
  let g ← guardP f
  let d ← wr w f.dst
  unused 3 f.sa
  let n ← cregP f
  unused 5 f.sc; lit1 f
  return ⟨g, d, n⟩

def parseMtc (w : Win) (f : Fields) : P OpMtc := do
  modf (modOk f 0)
  let g ← guardP f
  unused 2 f.dst
  let a ← rd w 3 f.sa
  let n ← cregP f
  unused 5 f.sc; lit1 f
  return ⟨g, a, n⟩

def parseAlu (w : Win) (f : Fields) : P OpAlu := do
  modf (modOk f 0x1000 && ulOk f)
  let g ← guardP f
  let d ← wr w f.dst
  let a ← rd w 3 f.sa
  let b ← srcB w f
  unused 5 f.sc
  return ⟨g, d, a, b⟩

def parseAluU (w : Win) (f : Fields) : P OpAluU := do
  modf (modOk f 0x1001 && ulOk f)
  let g ← guardP f
  let d ← wr w f.dst
  let a ← rd w 3 f.sa
  let b ← srcB w f
  unused 5 f.sc
  return ⟨g, d, a, b, f.low.getLsbD 0⟩

def parseAlu3 (w : Win) (f : Fields) : P OpAlu3 := do
  modf (modOk f 0x1000 && ulOk f)
  let g ← guardP f
  let d ← wr w f.dst
  let a ← rd w 3 f.sa
  let b ← srcB w f
  let c ← rd w 5 f.sc
  return ⟨g, d, a, b, c⟩

def parseBfx (w : Win) (f : Fields) : P OpBfx := do
  let pos := f.low.extractLsb' 0 6
  let len := f.low.extractLsb' 6 6
  modf (modOk f 0xFFF && bitFieldOk pos len)
  let g ← guardP f
  let d ← wr w f.dst
  let a ← rd w 3 f.sa
  sbUnused f; unused 5 f.sc; lit0 f
  return ⟨g, d, a, pos, len⟩

def parseBfi (w : Win) (f : Fields) : P OpBfi := do
  let pos := f.low.extractLsb' 0 6
  let len := f.low.extractLsb' 6 6
  modf (modOk f 0xFFF && bitFieldOk pos len)
  let g ← guardP f
  let d ← wr w f.dst
  let a ← rd w 3 f.sa
  sbUnused f
  let c ← rd w 5 f.sc
  lit0 f
  return ⟨g, d, a, c, pos, len⟩

def parseExt (w : Win) (f : Fields) : P OpExt := do
  modf (modOk f 0xFC0)
  let g ← guardP f
  let d ← wr w f.dst
  let a ← rd w 3 f.sa
  sbUnused f; unused 5 f.sc; lit0 f
  return ⟨g, d, a, f.low.extractLsb' 6 6⟩

def parseMov (w : Win) (f : Fields) : P OpMov := do
  modf (modOk f 0x1000 && ulOk f)
  let g ← guardP f
  let d ← wr w f.dst
  unused 3 f.sa
  let b ← srcB w f
  unused 5 f.sc
  return ⟨g, d, b⟩

def parseMovHi (w : Win) (f : Fields) : P OpMovHi := do
  modf (modOk f 0x800 && f.lit)
  let g ← guardP f
  let d ← wr w f.dst
  let a ← rd w 3 f.sa
  unused 5 f.sc
  return ⟨g, d, a, f.sb⟩

def parseSel (w : Win) (f : Fields) : P OpSel := do
  modf (modOk f 0x100F && ulOk f)
  let g ← guardP f
  let d ← wr w f.dst
  let a ← rd w 3 f.sa
  let b ← srcB w f
  unused 5 f.sc
  return ⟨g, d, a, b, (f.low.extractLsb' 0 3).toFin, f.low.getLsbD 3⟩

def parseLea (w : Win) (f : Fields) : P OpLea := do
  modf (modOk f 0x1007 && ulOk f)
  let g ← guardP f
  let d ← wr w f.dst
  let a ← rd w 3 f.sa
  let b ← srcB w f
  unused 5 f.sc
  return ⟨g, d, a, b, f.low.extractLsb' 0 3⟩

def parseCmp (w : Win) (f : Fields) : P OpCmp := do
  modf (modOk f 0x103F && ulOk f)
  let cmb ← P.get (Cmb.ofCode? (f.low.extractLsb' 4 2)) .illegalModifier 7
  let cond ← P.get (ICond.ofCode? (f.low.extractLsb' 0 4)) .illegalModifier 7
  let g ← guardP f
  let pd ← predNo 2 f.dst
  let a ← rd w 3 f.sa
  let b ← srcB w f
  unused 5 f.sc
  return ⟨g, pd, a, b, cmb, cond⟩

def parsePlog (f : Fields) : P OpPlog := do
  modf (modOk f 0xF)
  let g ← guardP f
  let pd ← predNo 2 f.dst
  let pa ← predNo 3 f.sa
  sbHigh f
  let pb ← predNo 4 (if f.lit then 0 else f.sbReg)
  unused 5 f.sc; lit0 f
  return ⟨g, pd, pa, pb, f.low.extractLsb' 0 4⟩

def parseFp2 (w : Win) (f : Fields) : P OpFp2 := do
  modf (modOk f 0 { ovf := true, rnd := true })
  let r ← rndP f
  let g ← guardP f
  let d ← wr w f.dst
  let a ← rd w 3 f.sa
  let b ← srcC w f
  unused 5 f.sc
  return ⟨g, d, a, b, f.ovf, r⟩

def parseFpMin (w : Win) (f : Fields) : P OpFpMin := do
  modf (modOk f 0)
  let g ← guardP f
  let d ← wr w f.dst
  let a ← rd w 3 f.sa
  let b ← srcC w f
  unused 5 f.sc
  return ⟨g, d, a, b⟩

def parseFp3 (w : Win) (f : Fields) : P OpFp3 := do
  modf (modOk f 0 { ovf := true, rnd := true })
  let r ← rndP f
  let g ← guardP f
  let d ← wr w f.dst
  let a ← rd w 3 f.sa
  let b ← srcC w f
  let c ← rd w 5 f.sc
  return ⟨g, d, a, b, c, f.ovf, r⟩

def parseFcmp (w : Win) (f : Fields) : P OpFcmp := do
  modf (modOk f 0x3F)
  let cmb ← P.get (Cmb.ofCode? (f.low.extractLsb' 4 2)) .illegalModifier 7
  let cond ← P.get (FCond.ofCode? (f.low.extractLsb' 0 4)) .illegalModifier 7
  let g ← guardP f
  let pd ← predNo 2 f.dst
  let a ← rd w 3 f.sa
  let b ← srcC w f
  unused 5 f.sc
  return ⟨g, pd, a, b, cmb, cond⟩

def parseFcvt (w : Win) (f : Fields) : P OpFcvt := do
  modf (modOk f 0 { ovf := true, fmt := true, fmt2 := true, rnd := true })
  let fd ← fmtP f.fmt
  let fs ← fmtP f.fmt2
  modf (fcvtFmtOk fd && fcvtFmtOk fs)
  let r ← rndP f
  let g ← guardP f
  let d ← wr w f.dst
  let a ← rd w 3 f.sa
  sbUnused f; unused 5 f.sc; lit0 f
  return ⟨g, d, a, f.ovf, fd, fs, r⟩

def parseIcvt (w : Win) (f : Fields) : P OpIcvt := do
  modf (modOk f 1 { fmt := true, fmt2 := true, rnd := true })
  let fd ← fmtP f.fmt
  let fs ← fmtP f.fmt2
  modf (icvtPairOk fd fs)
  let r ← rndP f
  let g ← guardP f
  let d ← wr w f.dst
  let a ← rd w 3 f.sa
  sbUnused f; unused 5 f.sc; lit0 f
  return ⟨g, d, a, fd, fs, r, f.low.getLsbD 0⟩

/-- A MOD of the memory group that carries ORD and SCOPE: the order is one the row lists. -/
def ordP (f : Fields) (orders : List Ord) : P Ord := do
  modf (orders.contains (Ord.ofCode f.ord))
  return Ord.ofCode f.ord

/-- The size in MOD[2:0], 4 to 7 reserved, one the row lists. -/
def sizeP (f : Fields) (sizes : List Size) : P Size := do
  modf (!f.low.getLsbD 2)
  let s := Size.ofCode (f.low.extractLsb' 0 2)
  modf (sizes.contains s)
  return s

def carryMem : Carry := { scope := true, ord := true }

def parseLd (w : Win) (f : Fields) : P OpLd := do
  modf (modOk f 0xF carryMem)
  let o ← ordP f [.rlx, .acq]
  let sz ← sizeP f [.b8, .b16, .b32, .b64]
  let g ← guardP f
  let d ← wr w f.dst
  let m ← memOp w f
  unused 5 f.sc
  return ⟨g, d, m, sz, f.low.getLsbD 3, o, Scope.ofCode f.scope⟩

def parseLdp (w : Win) (f : Fields) : P OpLdp := do
  modf (modOk f 0x707 carryMem)
  let o ← ordP f [.rlx, .acq]
  let _ ← sizeP f [.b64]
  let g ← guardP f
  let d ← wr w f.dst
  let m ← memOp w f
  unused 5 f.sc
  return ⟨g, d, (f.low.extractLsb' 8 3).toFin, m, o, Scope.ofCode f.scope⟩

def parseSt (w : Win) (f : Fields) : P OpSt := do
  modf (modOk f 0x7 carryMem)
  let o ← ordP f [.rlx, .rel]
  let sz ← sizeP f [.b8, .b16, .b32, .b64]
  let g ← guardP f
  unused 2 f.dst
  let m ← memOp w f
  let c ← rd w 5 f.sc
  return ⟨g, m, c, sz, o, Scope.ofCode f.scope⟩

def parseStn (w : Win) (f : Fields) : P OpStn := do
  modf (modOk f 0x87 carryMem)
  let o ← ordP f [.rlx, .rel]
  let _ ← sizeP f [.b8]
  let g ← guardP f
  unused 2 f.dst
  let m ← memOp w f
  let c ← rd w 5 f.sc
  return ⟨g, m, c, f.low.getLsbD 7, o, Scope.ofCode f.scope⟩

def parseTake (w : Win) (f : Fields) : P OpTake := do
  modf (modOk f 0x7 carryMem)
  let o ← ordP f [.rlx, .acq]
  let _ ← sizeP f [.b64]
  let g ← guardP f
  let d ← wr w f.dst
  let m ← memOp w f
  unused 5 f.sc
  return ⟨g, d, m, o, Scope.ofCode f.scope⟩

def parsePut (w : Win) (f : Fields) : P OpPut := do
  modf (modOk f 0x17 carryMem)
  let o ← ordP f [.rlx, .rel]
  let _ ← sizeP f [.b64]
  let g ← guardP f
  unused 2 f.dst
  let m ← memOp w f
  let c ← rd w 5 f.sc
  return ⟨g, m, c, o, Scope.ofCode f.scope⟩

def parseTagr (w : Win) (f : Fields) : P OpTagr := do
  modf (modOk f 0x7 carryMem)
  let o ← ordP f [.rlx, .acq]
  let _ ← sizeP f [.b64]
  let g ← guardP f
  let d ← wr w f.dst
  let m ← memOp w f
  let t ← localNo w 5 f.sc
  opnd (f.sc != f.dst) 5
  return ⟨g, d, t, m, o, Scope.ofCode f.scope⟩

def parseTagw (w : Win) (f : Fields) : P OpTagw := do
  modf (modOk f 0x1807 carryMem)
  let o ← ordP f [.rlx, .rel]
  let _ ← sizeP f [.b64]
  let nt := Tag.ofCode (f.low.extractLsb' 11 2)
  let g ← guardP f
  unused 2 f.dst
  let m ← memOp w f
  let c ← rd w 5 f.sc
  opnd (!(nt == .empty) || c == .zero) 5
  return ⟨g, m, c, nt, o, Scope.ofCode f.scope⟩

def parseFence (f : Fields) : P OpFence := do
  modf (modOk f 0x20 carryMem)
  let o ← ordP f [.acq, .rel, .acqrel]
  let g ← guardP f
  unused 2 f.dst; unused 3 f.sa; sbUnused f; unused 5 f.sc; lit0 f
  return ⟨g, o, Scope.ofCode f.scope, f.low.getLsbD 5⟩

def parseAtom (w : Win) (f : Fields) : P OpAtom := do
  modf (modOk f 0x7 carryMem)
  let sz ← sizeP f [.b32, .b64]
  let g ← guardP f
  let d ← wr w f.dst
  let m ← memOp w f
  let c ← rd w 5 f.sc
  return ⟨g, d, m, c, sz, Ord.ofCode f.ord, Scope.ofCode f.scope⟩

def parseAfadd (w : Win) (f : Fields) : P OpAfadd := do
  modf (modOk f 0x7 carryMem)
  let _ ← sizeP f [.b32]
  let g ← guardP f
  let d ← wr w f.dst
  let m ← memOp w f
  let c ← rd w 5 f.sc
  return ⟨g, d, m, c, Ord.ofCode f.ord, Scope.ofCode f.scope⟩

def parseCas (w : Win) (f : Fields) : P OpCas := do
  modf (modOk f 0x707 carryMem)
  let sz ← sizeP f [.b32, .b64]
  let g ← guardP f
  let d ← localNo w 2 f.dst
  let m ← memOp w f
  let c ← rd w 5 f.sc
  return ⟨g, d, m, c, (f.low.extractLsb' 8 3).toFin, sz, Ord.ofCode f.ord, Scope.ofCode f.scope⟩

def parseM (w : Win) (f : Fields) : P OpM := do
  modf (modOk f 0)
  let g ← guardP f
  unused 2 f.dst
  let m ← memOp w f
  unused 5 f.sc
  return ⟨g, m⟩

/-- MOND.all: ALL = 1 and no address. -/
def parseMondAll (f : Fields) : P OpG := do
  modf (modOk f 0x40)
  let g ← guardP f
  unused 2 f.dst; unused 3 f.sa; sbUnused f; unused 5 f.sc; lit0 f
  return ⟨g⟩

def parseDM (w : Win) (f : Fields) : P OpDM := do
  modf (modOk f 0)
  let g ← guardP f
  let d ← wr w f.dst
  let m ← memOp w f
  unused 5 f.sc
  return ⟨g, d, m⟩

def parseTset (w : Win) (f : Fields) : P OpTset := do
  modf (modOk f 0)
  let g ← guardP f
  let d ← wr w f.dst
  let a ← rd w 3 f.sa
  let b ← srcC w f
  unused 5 f.sc
  return ⟨g, d, a, b⟩

def parseMS (w : Win) (f : Fields) : P OpMS := do
  modf (modOk f 0 { scope := true })
  let g ← guardP f
  unused 2 f.dst
  let m ← memOp w f
  unused 5 f.sc
  return ⟨g, m, Scope.ofCode f.scope⟩

def parseDMS (w : Win) (f : Fields) : P OpDMS := do
  modf (modOk f 0 { scope := true })
  let g ← guardP f
  let d ← wr w f.dst
  let m ← memOp w f
  unused 5 f.sc
  return ⟨g, d, m, Scope.ofCode f.scope⟩

def parseMCS (w : Win) (f : Fields) : P OpMCS := do
  modf (modOk f 0 { scope := true })
  let g ← guardP f
  unused 2 f.dst
  let m ← memOp w f
  let c ← rd w 5 f.sc
  return ⟨g, m, c, Scope.ofCode f.scope⟩

def parseBari (w : Win) (f : Fields) : P OpBari := do
  modf (modOk f 1 { scope := true })
  let g ← guardP f
  unused 2 f.dst
  let m ← memOp w f
  let c ← rd w 5 f.sc
  return ⟨g, m, c, f.low.getLsbD 0, Scope.ofCode f.scope⟩

def parseWwait (w : Win) (f : Fields) : P OpDMCS := do
  modf (modOk f 1 { scope := true })
  let g ← guardP f
  let d ← wr w f.dst
  let m ← memOp w f
  let c ← rd w 5 f.sc
  return ⟨g, d, m, c, Scope.ofCode f.scope⟩

/-- WQRY: the record selectors take SB = 0, LIT = 0 and SCOPE = 0 (17 R343). -/
def parseWqry (w : Win) (f : Fields) : P OpWqry := do
  modf (modOk f 0xF { scope := true })
  let sel ← P.get (WqrySel.ofCode? (f.low.extractLsb' 0 4)) .illegalModifier 7
  modf (!sel.isRecord || f.scope == 0)
  let g ← guardP f
  let d ← wr w f.dst
  if sel.isRecord then
    let a ← rd w 3 f.sa
    sbUnused f; unused 5 f.sc; lit0 f
    return ⟨g, d, ⟨a, .lit 0⟩, sel, .core⟩
  else
    let m ← memOp w f
    unused 5 f.sc
    return ⟨g, d, m, sel, Scope.ofCode f.scope⟩

def parseEapp (w : Win) (f : Fields) : P OpEapp := do
  modf (modOk f 3)
  let g ← guardP f
  unused 2 f.dst
  let a ← rd w 3 f.sa
  let b ← srcC w f
  let c ← rd w 5 f.sc
  return ⟨g, a, b, c, EappOp.ofCode (f.low.extractLsb' 0 2)⟩

def parseErepl (w : Win) (f : Fields) : P OpErepl := do
  modf (modOk f 1)
  let g ← guardP f
  let d ← wr w f.dst
  let a ← rd w 3 f.sa
  sbUnused f; unused 5 f.sc; lit0 f
  return ⟨g, d, a, f.low.getLsbD 0⟩

/-! ### The vector group (09 R182, R183, Table 9.4) -/

def carryVMem : Carry := { scope := true, ord := true, sas := true }

/-- The element width SZ in MOD[12:11]. -/
def vsize (f : Fields) : Size := Size.ofCode (f.low.extractLsb' 11 2)

def parseVLd (w : Win) (f : Fields) : P OpVLd := do
  modf (modOk f 0x181F carryVMem && f.sas)
  let o ← ordP f [.rlx, .acq]
  let m ← maskP f
  let g ← guardP f
  let v ← vNo 2 f.dst
  let a ← rd w 3 f.sa
  unused 5 f.sc; lit1 f
  return ⟨g, v, a, f.sb, vsize f, o, Scope.ofCode f.scope, m⟩

def parseVSt (w : Win) (f : Fields) : P OpVSt := do
  modf (modOk f 0x180F carryVMem && f.sas)
  let o ← ordP f [.rlx, .rel]
  let m ← kmaskP f
  let g ← guardP f
  let v ← vNo 2 f.dst
  let a ← rd w 3 f.sa
  unused 5 f.sc; lit1 f
  return ⟨g, v, a, f.sb, vsize f, o, Scope.ofCode f.scope, m⟩

def parseVLds (w : Win) (f : Fields) : P OpVLds := do
  modf (modOk f 0x181F carryVMem && f.sas)
  let o ← ordP f [.rlx, .acq]
  let m ← maskP f
  let g ← guardP f
  let v ← vNo 2 f.dst
  let a ← rd w 3 f.sa
  let c ← rd w 5 f.sc
  lit1 f
  return ⟨g, v, a, f.sb, c, vsize f, o, Scope.ofCode f.scope, m⟩

def parseVSts (w : Win) (f : Fields) : P OpVSts := do
  modf (modOk f 0x180F carryVMem && f.sas)
  let o ← ordP f [.rlx, .rel]
  let m ← kmaskP f
  let g ← guardP f
  let v ← vNo 2 f.dst
  let a ← rd w 3 f.sa
  let c ← rd w 5 f.sc
  lit1 f
  return ⟨g, v, a, f.sb, c, vsize f, o, Scope.ofCode f.scope, m⟩

/-- A V register in SB, with LIT = 0 checked later by `lit0`: with LIT = 1 SB holds a literal,
and LIT is the field that fails (10 R210). -/
def sbV (f : Fields) : P VNo :=
  if f.lit then pure 0
  else do
    sbHigh f
    vNo 4 f.sbReg

def parseVGath (w : Win) (f : Fields) : P OpVGath := do
  modf (modOk f 0x1C1F carryVMem && f.sas)
  let o ← ordP f [.rlx, .acq]
  let m ← maskP f
  let g ← guardP f
  let v ← vNo 2 f.dst
  let a ← rd w 3 f.sa
  let vi ← sbV f
  unused 5 f.sc; lit0 f
  return ⟨g, v, a, vi, vsize f, f.low.getLsbD 10, o, Scope.ofCode f.scope, m⟩

def parseVScat (w : Win) (f : Fields) : P OpVScat := do
  modf (modOk f 0x1C0F carryVMem && f.sas)
  let o ← ordP f [.rlx, .rel]
  let m ← kmaskP f
  let g ← guardP f
  let v ← vNo 2 f.dst
  let a ← rd w 3 f.sa
  let vi ← sbV f
  unused 5 f.sc; lit0 f
  return ⟨g, v, a, vi, vsize f, f.low.getLsbD 10, o, Scope.ofCode f.scope, m⟩

/-- VBCAST (`vecFmt`) and VIOTA (`intFmt`). -/
def parseVFill (fmts : Fmt → Bool) (w : Win) (f : Fields) : P OpVFill := do
  modf (modOk f 0x1F { sas := true, fmt := true })
  let fm ← fmtP f.fmt
  modf (fmts fm)
  let m ← maskP f
  let g ← guardP f
  let v ← vNo 2 f.dst
  if f.sas then
    let a ← rd w 3 f.sa
    sbUnused f; unused 5 f.sc; lit0 f
    return ⟨g, v, .scalar a, fm, m⟩
  else
    unused 3 f.sa; unused 5 f.sc; lit1 f
    return ⟨g, v, .lit f.sb, fm, m⟩

def parseVExt (w : Win) (f : Fields) : P OpVExt := do
  modf (modOk f 0x400 { fmt := true })
  let fm ← fmtP f.fmt
  modf (vecFmt fm)
  let g ← guardP f
  let d ← wr w f.dst
  let v ← vNo 3 f.sa
  let b ← srcC w f
  unused 5 f.sc
  return ⟨g, d, v, b, fm, f.low.getLsbD 10⟩

def parseVIns (w : Win) (f : Fields) : P OpVIns := do
  modf (modOk f 0 { sas := true, fmt := true } && f.sas)
  let fm ← fmtP f.fmt
  modf (vecFmt fm)
  let g ← guardP f
  let v ← vNo 2 f.dst
  let a ← rd w 3 f.sa
  let b ← srcC w f
  unused 5 f.sc
  return ⟨g, v, a, b, fm⟩

def carryAlu : Carry := { ovf := true, fmt := true, rnd := true }

/-- VADD to VSAR but VFMA and VABS; `k` says which modifiers the mnemonic takes. -/
def parseVAlu (k : VAluKind) (f : Fields) : P OpVAlu := do
  modf (modOk f 0x41F carryAlu)
  let fm ← fmtP f.fmt
  let r ← rndP f
  let m ← maskP f
  modf (vAluModOk k fm f.ovf r (f.low.getLsbD 10))
  let g ← guardP f
  let vd ← vNo 2 f.dst
  let va ← vNo 3 f.sa
  let y ← vSrc f
  unused 5 f.sc
  return ⟨g, vd, va, y, fm, f.ovf, r, f.low.getLsbD 10, m⟩

def parseVFma (f : Fields) : P OpVFma := do
  modf (modOk f 0x41F carryAlu)
  let fm ← fmtP f.fmt
  let r ← rndP f
  let m ← maskP f
  modf (vAluModOk .arith fm f.ovf r (f.low.getLsbD 10))
  let g ← guardP f
  let vd ← vNo 2 f.dst
  let va ← vNo 3 f.sa
  let y ← vSrc f
  let vc ← vNo 5 f.sc
  return ⟨g, vd, va, y, vc, fm, f.ovf, r, f.low.getLsbD 10, m⟩

def parseVAbs (f : Fields) : P OpVAbs := do
  modf (modOk f 0x41F { ovf := true, fmt := true })
  let fm ← fmtP f.fmt
  let m ← maskP f
  modf (vAluModOk .minmax fm f.ovf .rne (f.low.getLsbD 10))
  let g ← guardP f
  let vd ← vNo 2 f.dst
  let va ← vNo 3 f.sa
  sbUnused f; unused 5 f.sc; lit0 f
  return ⟨g, vd, va, fm, f.ovf, f.low.getLsbD 10, m⟩

def parseVCmp (f : Fields) : P OpVCmp := do
  modf (modOk f 0x5FF { fmt := true })
  let fm ← fmtP f.fmt
  modf (vecFmt fm)
  let m ← maskP f
  let c := f.low.extractLsb' 5 4
  modf (vCondOk fm c)
  let g ← guardP f
  let kd ← kNo 2 f.dst
  let va ← vNo 3 f.sa
  let y ← vSrc f
  unused 5 f.sc
  return ⟨g, kd, va, y, c, fm, f.low.getLsbD 10, m⟩

def parseVSel (f : Fields) : P OpVSel := do
  modf (modOk f 0x1F { fmt := true })
  let fm ← fmtP f.fmt
  modf (vecFmt fm)
  let m ← maskP f
  let g ← guardP f
  let vd ← vNo 2 f.dst
  let va ← vNo 3 f.sa
  let y ← vSrc f
  let kc ← kNo 5 f.sc
  return ⟨g, vd, va, y, kc, fm, m⟩

def parseKlog (f : Fields) : P OpKlog := do
  modf (modOk f 0x1E0)
  let g ← guardP f
  let kd ← kNo 2 f.dst
  let ka ← kNo 3 f.sa
  sbHigh f
  let kb ← kNo 4 (if f.lit then 0x20 else f.sbReg)
  unused 5 f.sc; lit0 f
  return ⟨g, kd, ka, kb, f.low.extractLsb' 5 4⟩

def parseKpop (w : Win) (f : Fields) : P OpKpop := do
  modf (modOk f 0 { fmt := true })
  let fm ← fmtP f.fmt
  modf (vecFmt fm)
  let g ← guardP f
  let d ← wr w f.dst
  let ka ← kNo 3 f.sa
  sbUnused f; unused 5 f.sc; lit0 f
  return ⟨g, d, ka, fm⟩

def carryCvt : Carry := { ovf := true, fmt := true, fmt2 := true, rnd := true }

def parseVCvt (f : Fields) : P OpVCvt := do
  modf (modOk f 0x5FF carryCvt)
  let fd ← fmtP f.fmt
  let fs ← fmtP f.fmt2
  let r ← rndP f
  let m ← maskP f
  let part := f.low.extractLsb' 5 4
  modf (vCvtOk fd fs f.ovf part)
  let g ← guardP f
  let vd ← vNo 2 f.dst
  let va ← vNo 3 f.sa
  sbUnused f; unused 5 f.sc; lit0 f
  return ⟨g, vd, va, fd, fs, f.ovf, r, f.low.getLsbD 10, part, m⟩

def parseVQmx (f : Fields) : P OpVQmx := do
  modf (modOk f 0x200 carryCvt)
  let fd ← fmtP f.fmt
  let fs ← fmtP f.fmt2
  let r ← rndP f
  modf (mxFmt fd && wideFmt fs)
  let g ← guardP f
  let ve ← vNo 2 f.dst
  let va ← vNo 3 f.sa
  if f.low.getLsbD 9 then
    let y ← vSrc f
    let vs ← vNo 5 f.sc
    return ⟨g, ve, va, (match y with | .v r => .v r | .lit v => .lit v), vs, fd, fs, f.ovf, r⟩
  else
    sbUnused f
    let vs ← vNo 5 f.sc
    lit0 f
    return ⟨g, ve, va, .block, vs, fd, fs, f.ovf, r⟩

def parseVDqmx (f : Fields) : P OpVDqmx := do
  modf (modOk f 0 carryCvt)
  let fd ← fmtP f.fmt
  let fs ← fmtP f.fmt2
  let r ← rndP f
  modf (wideFmt fd && mxFmt fs)
  let g ← guardP f
  let vd ← vNo 2 f.dst
  let ve ← vNo 3 f.sa
  let vs ← sbV f
  unused 5 f.sc; lit0 f
  return ⟨g, vd, ve, vs, fd, fs, f.ovf, r⟩

/-- VRSUM (`sum`), VRMAX and VRMIN. -/
def parseVRed (sum : Bool) (w : Win) (f : Fields) : P OpVRed := do
  modf (modOk f 0x40F carryAlu)
  let fm ← fmtP f.fmt
  let r ← rndP f
  let m ← kmaskP f
  modf (vRedOk sum fm f.ovf r)
  let g ← guardP f
  let d ← wr w f.dst
  let va ← vNo 3 f.sa
  sbUnused f; unused 5 f.sc; lit0 f
  return ⟨g, d, va, fm, f.ovf, r, f.low.getLsbD 10, m⟩

def parseVSpec (f : Fields) : P OpVSpec := do
  modf (modOk f 0x1F carryAlu)
  let fm ← fmtP f.fmt
  let r ← rndP f
  let m ← maskP f
  modf (wideFmt fm)
  let g ← guardP f
  let vd ← vNo 2 f.dst
  let va ← vNo 3 f.sa
  sbUnused f; unused 5 f.sc; lit0 f
  return ⟨g, vd, va, fm, f.ovf, r, m⟩

def parseVPerm (f : Fields) : P OpVPerm := do
  modf (modOk f 0x1F { fmt := true })
  let fm ← fmtP f.fmt
  modf (vecFmt fm)
  let m ← maskP f
  let g ← guardP f
  let vd ← vNo 2 f.dst
  let va ← vNo 3 f.sa
  let vi ← sbV f
  unused 5 f.sc; lit0 f
  return ⟨g, vd, va, vi, fm, m⟩

def parseVBperm (f : Fields) : P OpVBperm := do
  modf (modOk f 0x1FF { fmt := true })
  let fm ← fmtP f.fmt
  modf (vecFmt fm)
  let m ← maskP f
  let d := f.low.extractLsb' 5 4
  modf (d ≤ 8)
  let g ← guardP f
  let vd ← vNo 2 f.dst
  let va ← vNo 3 f.sa
  sbUnused f; unused 5 f.sc; lit0 f
  return ⟨g, vd, va, d, fm, m⟩

/-! ### The modular group (10 R206, Table 10.2) -/

/-- FMT is I32 or I64; the answer says I64. -/
def w64P (f : Fields) : P Bool := do
  modf (f.fmt == 2 || f.fmt == 3)
  return f.fmt == 3

def qsOf (f : Fields) : Fin 4 := (f.low.extractLsb' 11 2).toFin

def parseVMset (w : Win) (f : Fields) : P OpVMset := do
  modf (modOk f 0 { sas := true, fmt := true })
  let w64 ← w64P f
  let g ← guardP f
  let q ← P.get (QWReg.ofCode? f.dst) .illegalOperand 2
  if f.sas then
    let a ← rd w 3 f.sa
    sbUnused f; unused 5 f.sc; lit0 f
    return ⟨g, q, .scalar a, w64⟩
  else
    unused 3 f.sa
    let y ← vSrc f
    unused 5 f.sc
    return ⟨g, q, (match y with | .v r => .v r | .lit v => .lit v), w64⟩

def parseVM2 (f : Fields) : P OpVM2 := do
  modf (modOk f 0x181F { fmt := true })
  let w64 ← w64P f
  let m ← maskP f
  let g ← guardP f
  let vd ← vNo 2 f.dst
  let va ← vNo 3 f.sa
  let y ← vSrc f
  unused 5 f.sc
  return ⟨g, vd, va, y, w64, qsOf f, m⟩

def parseVM1 (f : Fields) : P OpVM1 := do
  modf (modOk f 0x181F { fmt := true })
  let w64 ← w64P f
  let m ← maskP f
  let g ← guardP f
  let vd ← vNo 2 f.dst
  let va ← vNo 3 f.sa
  sbUnused f; unused 5 f.sc; lit0 f
  return ⟨g, vd, va, w64, qsOf f, m⟩

def parseVBfly (f : Fields) : P OpVBfly := do
  modf (modOk f 0x19FF { fmt := true })
  let w64 ← w64P f
  let m ← maskP f
  let g ← guardP f
  let vd ← vNo 2 f.dst
  let va ← vNo 3 f.sa
  let vb ← sbV f
  unused 5 f.sc; lit0 f
  return ⟨g, vd, va, vb, f.low.extractLsb' 5 4, w64, qsOf f, m⟩

def parseVBflyX (f : Fields) : P OpVBflyX := do
  modf (modOk f 0x1C1F { fmt := true })
  let w64 ← w64P f
  let m ← maskP f
  let g ← guardP f
  let vd ← vNo 2 f.dst
  opnd (!f.dst.getLsbD 0) 2
  let va ← vNo 3 f.sa
  let vb ← sbV f
  let vc ← vNo 5 f.sc
  lit0 f
  return ⟨g, vd, va, vb, vc, w64, qsOf f, m⟩

def parseVAuto (w : Win) (f : Fields) : P OpVAuto := do
  modf (modOk f 0x19FF { fmt := true })
  let w64 ← w64P f
  let m ← maskP f
  let ln := f.low.extractLsb' 5 4
  modf (1 ≤ ln && ln ≤ 7)
  let g ← guardP f
  let vd ← vNo 2 f.dst
  let va ← vNo 3 f.sa
  let b ← srcC w f
  opnd (!f.lit || autoMulOk ln (f.sb.setWidth 64)) 4
  unused 5 f.sc
  return ⟨g, vd, va, b, ln, w64, qsOf f, m⟩

/-! ### Matrix, reduction and trace groups -/

def ringOf (f : Fields) : Fin 32 := (f.low.extractLsb' 0 5).toFin

def parseRingi (w : Win) (f : Fields) : P OpRingi := do
  modf (modOk f 0x1F)
  let g ← guardP f
  unused 2 f.dst
  let a ← rd w 3 f.sa
  let b ← srcC w f
  opnd (!f.lit || ringCfgOk (f.sb.setWidth 64)) 4
  unused 5 f.sc
  return ⟨g, a, b, ringOf f⟩

/-- RPUSH.res, RPOP.res (RES = 1) and RPOP (RES = 0): a destination and a ring. -/
def parseRing (w : Win) (f : Fields) : P OpRing := do
  modf (modOk f 0x3F)
  let g ← guardP f
  let d ← wr w f.dst
  unused 3 f.sa; sbUnused f; unused 5 f.sc; lit0 f
  return ⟨g, d, ringOf f⟩

def parseRpush (w : Win) (f : Fields) : P OpRpush := do
  modf (modOk f 0x1F)
  let g ← guardP f
  let d ← wr w f.dst
  let a ← rd w 3 f.sa
  sbUnused f; unused 5 f.sc; lit0 f
  return ⟨g, d, a, ringOf f⟩

def parseRstat (w : Win) (f : Fields) : P OpRstat := do
  modf (modOk f 0xFF)
  let g ← guardP f
  let d ← wr w f.dst
  unused 3 f.sa; sbUnused f; unused 5 f.sc; lit0 f
  return ⟨g, d, ringOf f, RstatSel.ofCode (f.low.extractLsb' 5 3)⟩

def parseTldw (w : Win) (f : Fields) : P OpTldw := do
  modf (modOk f 0x3F)
  let g ← guardP f
  let d ← wr w f.dst
  unused 3 f.sa; sbUnused f; unused 5 f.sc; lit0 f
  return ⟨g, d, ringOf f, f.low.getLsbD 5⟩

def parseTmma (w : Win) (f : Fields) : P OpTmma := do
  modf (modOk f 0x1F)
  let g ← guardP f
  unused 2 f.dst
  let m ← memOp w f
  let c ← rd w 5 f.sc
  return ⟨g, m, c, ringOf f⟩

/-- TDRAIN: a format it cannot take fails check 10 with MATRIX_FORMAT (02 R32, 12 R245). -/
def parseTdrain (w : Win) (f : Fields) : P OpTdrain := do
  modf (modOk f 0x1F carryCvt)
  let fd ← fmtP f.fmt
  let fs ← fmtP f.fmt2
  let r ← rndP f
  let act := Act.ofCode (f.low.extractLsb' 2 2)
  let gate := Gate.ofCode (f.low.extractLsb' 0 2)
  if drainFmtOk fd fs f.ovf act gate then
    let g ← guardP f
    unused 2 f.dst
    let a ← rd w 3 f.sa
    sbHigh f
    let b ← rd w 4 (if f.lit then 0x70 else f.sbReg)
    let c ← rd w 5 f.sc
    lit0 f
    return ⟨g, a, b, c, fd, fs, f.ovf, r, f.low.getLsbD 4, act, gate⟩
  else P.fail .matrixFormat 7

def parseNgrp (w : Win) (f : Fields) : P OpDMS := do
  modf (modOk f 0 { scope := true } && f.scope.getLsbD 1)
  let g ← guardP f
  let d ← wr w f.dst
  let m ← memOp w f
  unused 5 f.sc
  return ⟨g, d, m, Scope.ofCode f.scope⟩

def parseNred (w : Win) (f : Fields) : P OpNred := do
  modf (modOk f 7)
  let g ← guardP f
  unused 2 f.dst
  let a ← rd w 3 f.sa
  let b ← srcC w f
  let c ← rd w 5 f.sc
  return ⟨g, a, b, c, f.low.extractLsb' 0 3⟩

def parseNredi (w : Win) (f : Fields) : P OpNredi := do
  modf (modOk f 7)
  let g ← guardP f
  let d ← wr w f.dst
  let a ← rd w 3 f.sa
  let b ← srcC w f
  unused 5 f.sc
  return ⟨g, d, a, b, f.low.extractLsb' 0 3⟩

def parseTracew (w : Win) (f : Fields) : P OpTracew := do
  modf (modOk f 0xF)
  let g ← guardP f
  unused 2 f.dst
  let a ← rd w 3 f.sa
  let b ← srcC w f
  unused 5 f.sc
  return ⟨g, a, b, f.low.extractLsb' 0 4⟩

def parseCntr (w : Win) (f : Fields) : P OpCntr := do
  modf (modOk f 1)
  let g ← guardP f
  let d ← wr w f.dst
  unused 3 f.sa
  let b ← srcC w f
  opnd (!f.lit || f.sb < 16) 4
  unused 5 f.sc
  return ⟨g, d, b, f.low.getLsbD 0⟩

/-! ### The opcode map (02 Table 2.9), one definition a row of sixteen -/

/-- Opcodes 0x00 to 0x0F. -/
def opRow0 (w : Win) (f : Fields) (lo : Nat) : P Instr :=
  match lo with
  | 1 => .nop <$> parseG f
  | 2 => .br <$> parseBr f
  | 3 => .brx <$> parseA w f
  | 4 => .call <$> parseCall w f
  | 5 => .callx <$> parseDA w f
  | 6 => .ret <$> parseA w f
  | 7 => .exit <$> parseG f
  | 8 => .breakM <$> parseG f
  | 9 => .fset <$> parseFset w f
  | 10 => .fputg <$> parseFput 0x40 w f
  | 11 => .fputs <$> parseFput 0x60 w f
  | 12 => .create <$> parseD w f
  | 13 => .sync <$> parseDA w f
  | 14 => .fgets <$> parseFgets w f
  | 15 => .kill <$> parseA w f
  | _ => P.fail .illegalOpcode 0

/-- Opcodes 0x10 to 0x1F. -/
def opRow1 (w : Win) (f : Fields) (lo : Nat) : P Instr :=
  match lo with
  | 0 => .fstat <$> parseFstat w f
  | 1 => .trap <$> parseAC w f
  | 2 => .eret <$> parseG f
  | 3 => .mfc <$> parseMfc w f
  | 4 => .mtc <$> parseMtc w f
  | 5 => .yieldT <$> parseG f
  | 6 => .chkpt <$> parseC w f
  | 7 => .bkpt <$> parseAC w f
  | _ => P.fail .illegalOpcode 0

/-- Opcodes 0x20 to 0x2F. -/
def opRow2 (w : Win) (f : Fields) (lo : Nat) : P Instr :=
  match lo with
  | 0 => .add <$> parseAlu w f
  | 1 => .sub <$> parseAlu w f
  | 2 => .mul <$> parseAlu w f
  | 3 => .mulhs <$> parseAlu w f
  | 4 => .mulhu <$> parseAlu w f
  | 5 => .madd <$> parseAlu3 w f
  | 6 => .divs <$> parseAlu w f
  | 7 => .divu <$> parseAlu w f
  | 8 => .rems <$> parseAlu w f
  | 9 => .remu <$> parseAlu w f
  | 10 => .and <$> parseAlu w f
  | 11 => .or <$> parseAlu w f
  | 12 => .xor <$> parseAlu w f
  | 13 => .andn <$> parseAlu w f
  | 14 => .shl <$> parseAlu w f
  | 15 => .shr <$> parseAlu w f
  | _ => P.fail .illegalOpcode 0

/-- Opcodes 0x30 to 0x3F. -/
def opRow3 (w : Win) (f : Fields) (lo : Nat) : P Instr :=
  match lo with
  | 0 => .sar <$> parseAlu w f
  | 1 => .rol <$> parseAlu w f
  | 2 => .min <$> parseAlu w f
  | 3 => .max <$> parseAlu w f
  | 4 => .minu <$> parseAlu w f
  | 5 => .maxu <$> parseAlu w f
  | 6 => .abs <$> parseDA w f
  | 7 => .clz <$> parseDA w f
  | 8 => .ctz <$> parseDA w f
  | 9 => .popc <$> parseDA w f
  | 10 => .brev <$> parseDA w f
  | 11 => .bswap <$> parseDA w f
  | 12 => .bfx <$> parseBfx w f
  | 13 => .bfi <$> parseBfi w f
  | 14 => .sext <$> parseExt w f
  | 15 => .zext <$> parseExt w f
  | _ => P.fail .illegalOpcode 0

/-- Opcodes 0x40 to 0x4F. -/
def opRow4 (w : Win) (f : Fields) (lo : Nat) : P Instr :=
  match lo with
  | 0 => if f.low.getLsbD 11 then .movHi <$> parseMovHi w f else .mov <$> parseMov w f
  | 1 => .sel <$> parseSel w f
  | 2 => .lea <$> parseLea w f
  | 3 => .cmp <$> parseCmp w f
  | 4 => .plog <$> parsePlog f
  | 5 => .fadd <$> parseFp2 w f
  | 6 => .fsub <$> parseFp2 w f
  | 7 => .fmul <$> parseFp2 w f
  | 8 => .ffma <$> parseFp3 w f
  | 9 => .fmin <$> parseFpMin w f
  | 10 => .fmax <$> parseFpMin w f
  | 11 => .fcmp <$> parseFcmp w f
  | 12 => .fcvt <$> parseFcvt w f
  | 13 => .icvt <$> parseIcvt w f
  | 14 => .adds <$> parseAluU w f
  | 15 => .subs <$> parseAluU w f
  | _ => P.fail .illegalOpcode 0

/-- Opcodes 0x50 to 0x5F. -/
def opRow5 (w : Win) (f : Fields) (lo : Nat) : P Instr :=
  match lo with
  | 0 => .ld <$> parseLd w f
  | 1 => .st <$> parseSt w f
  | 2 => .stn <$> parseStn w f
  | 3 => .ldp <$> parseLdp w f
  | 4 => .take <$> parseTake w f
  | 5 => if f.low.getLsbD 4 then .putWait <$> parsePut w f else .put <$> parsePut w f
  | 6 => .ldf <$> parseTake w f
  | 7 => .tagr <$> parseTagr w f
  | 8 => .tagw <$> parseTagw w f
  | 9 => .fence <$> parseFence f
  | 10 => .aadd <$> parseAtom w f
  | 11 => .aand <$> parseAtom w f
  | 12 => .aor <$> parseAtom w f
  | 13 => .axor <$> parseAtom w f
  | 14 => .amin <$> parseAtom w f
  | 15 => .amax <$> parseAtom w f
  | _ => P.fail .illegalOpcode 0

/-- Opcodes 0x60 to 0x6F. -/
def opRow6 (w : Win) (f : Fields) (lo : Nat) : P Instr :=
  match lo with
  | 0 => .aminu <$> parseAtom w f
  | 1 => .amaxu <$> parseAtom w f
  | 2 => .axchg <$> parseAtom w f
  | 3 => .afadd <$> parseAfadd w f
  | 4 => .cas <$> parseCas w f
  | 5 => .pref <$> parseM w f
  | 6 => .mona <$> parseM w f
  | 7 => if f.low.getLsbD 6 then .mondAll <$> parseMondAll f else .mond <$> parseM w f
  | 8 => .waitm <$> parseDC w f
  | 9 => .tset <$> parseTset w f
  | 10 => .tlook <$> parseDA w f
  | 11 => .tclr <$> parseDA w f
  | _ => P.fail .illegalOpcode 0

/-- Opcodes 0x70 to 0x7F. -/
def opRow7 (w : Win) (f : Fields) (lo : Nat) : P Instr :=
  match lo with
  | 0 => .bari <$> parseBari w f
  | 1 => .barr <$> parseDMS w f
  | 2 => .barw <$> parseDMS w f
  | 3 => .bwait <$> parseDMS w f
  | 4 => .bdrop <$> parseDMS w f
  | 5 => .bpois <$> parseMS w f
  | 6 => .lki <$> parseMS w f
  | 7 => .lkacq <$> parseDMS w f
  | 8 => .lktry <$> parseDMS w f
  | 9 => .lkrel <$> parseMS w f
  | 10 => .qi <$> parseMCS w f
  | 11 => .qpush <$> parseMCS w f
  | 12 => .qpop <$> parseDMS w f
  | 13 => .wreg <$> parseMS w f
  | 14 => .whold <$> parseMS w f
  | 15 => if f.low.getLsbD 0 then .wwaitNb <$> parseWwait w f else .wwait <$> parseWwait w f
  | _ => P.fail .illegalOpcode 0

/-- Opcodes 0x80 to 0x8F. -/
def opRow8 (w : Win) (f : Fields) (lo : Nat) : P Instr :=
  match lo with
  | 0 => .wdrop <$> parseMS w f
  | 1 => .wunreg <$> parseMS w f
  | 2 => .wqry <$> parseWqry w f
  | 3 => .ofree <$> parseMS w f
  | 8 => .copy <$> parseDM w f
  | 9 => .copyt <$> parseDM w f
  | 10 => .gath <$> parseDM w f
  | 11 => .pack <$> parseDM w f
  | 12 => .unpack <$> parseDM w f
  | 13 => .ebin <$> parseDM w f
  | 14 => .eapp <$> parseEapp w f
  | 15 => .erepl <$> parseErepl w f
  | _ => P.fail .illegalOpcode 0

/-- Opcodes 0x90 to 0x9F. -/
def opRow9 (w : Win) (f : Fields) (lo : Nat) : P Instr :=
  match lo with
  | 0 => .ccan <$> parseA w f
  | 1 => .cstat <$> parseDA w f
  | 8 => .vclaim <$> parseVclaim w f
  | 9 => .vrel <$> parseG f
  | 10 => .vyield <$> parseD w f
  | 11 => .vld <$> parseVLd w f
  | 12 => .vst <$> parseVSt w f
  | 13 => .vlds <$> parseVLds w f
  | 14 => .vsts <$> parseVSts w f
  | 15 => .vgath <$> parseVGath w f
  | _ => P.fail .illegalOpcode 0

/-- Opcodes 0xA0 to 0xAF. -/
def opRowA (w : Win) (f : Fields) (lo : Nat) : P Instr :=
  match lo with
  | 0 => .vscat <$> parseVScat w f
  | 1 => .vbcast <$> parseVFill vecFmt w f
  | 2 => .vext <$> parseVExt w f
  | 3 => .vins <$> parseVIns w f
  | 4 => .vadd <$> parseVAlu .arith f
  | 5 => .vsub <$> parseVAlu .arith f
  | 6 => .vmul <$> parseVAlu .arith f
  | 7 => .vfma <$> parseVFma f
  | 8 => .vmin <$> parseVAlu .minmax f
  | 9 => .vmax <$> parseVAlu .minmax f
  | 10 => .vabs <$> parseVAbs f
  | 11 => .vand <$> parseVAlu .bits f
  | 12 => .vor <$> parseVAlu .bits f
  | 13 => .vxor <$> parseVAlu .bits f
  | 14 => .vshl <$> parseVAlu .bits f
  | 15 => .vshr <$> parseVAlu .bits f
  | _ => P.fail .illegalOpcode 0

/-- Opcodes 0xB0 to 0xBF. -/
def opRowB (w : Win) (f : Fields) (lo : Nat) : P Instr :=
  match lo with
  | 0 => .vsar <$> parseVAlu .bits f
  | 1 => .vcmp <$> parseVCmp f
  | 2 => .vsel <$> parseVSel f
  | 3 => .vcvt <$> parseVCvt f
  | 4 => .vqmx <$> parseVQmx f
  | 5 => .vdqmx <$> parseVDqmx f
  | 6 => .vrsum <$> parseVRed true w f
  | 7 => .vrmax <$> parseVRed false w f
  | 8 => .vrmin <$> parseVRed false w f
  | 9 => .vexp2 <$> parseVSpec f
  | 10 => .vlog2 <$> parseVSpec f
  | 11 => .vrcp <$> parseVSpec f
  | 12 => .vrsq <$> parseVSpec f
  | 13 => .vsqrt <$> parseVSpec f
  | 14 => .vtanh <$> parseVSpec f
  | 15 => .vsigm <$> parseVSpec f
  | _ => P.fail .illegalOpcode 0

/-- Opcodes 0xC0 to 0xCF. -/
def opRowC (w : Win) (f : Fields) (lo : Nat) : P Instr :=
  match lo with
  | 0 => .vperm <$> parseVPerm f
  | 1 => .vbperm <$> parseVBperm f
  | 2 => .klog <$> parseKlog f
  | 3 => .kpop <$> parseKpop w f
  | 4 => .viota <$> parseVFill Fmt.isInt w f
  | _ => P.fail .illegalOpcode 0

/-- Opcodes 0xD0 to 0xDF. -/
def opRowD (w : Win) (f : Fields) (lo : Nat) : P Instr :=
  match lo with
  | 0 => .vmset <$> parseVMset w f
  | 1 => .vmadd <$> parseVM2 f
  | 2 => .vmsub <$> parseVM2 f
  | 3 => .vmneg <$> parseVM1 f
  | 4 => .vmmul <$> parseVM2 f
  | 5 => .vmmac <$> parseVM2 f
  | 6 => .vmred <$> parseVM1 f
  | 7 => .vmto <$> parseVM1 f
  | 8 => .vmfrom <$> parseVM1 f
  | 9 => if f.low.getLsbD 10 then .vbflyX <$> parseVBflyX f else .vbfly <$> parseVBfly f
  | 10 => if f.low.getLsbD 10 then .vibflyX <$> parseVBflyX f else .vibfly <$> parseVBfly f
  | 11 => .vauto <$> parseVAuto w f
  | _ => P.fail .illegalOpcode 0

/-- Opcodes 0xE0 to 0xEF. -/
def opRowE (w : Win) (f : Fields) (lo : Nat) : P Instr :=
  match lo with
  | 0 => .ringi <$> parseRingi w f
  | 1 => if f.low.getLsbD 5 then .rpushRes <$> parseRing w f else .rpush <$> parseRpush w f
  | 2 => if f.low.getLsbD 5 then .rpopRes <$> parseRing w f else .rpop <$> parseRing w f
  | 3 => .rstat <$> parseRstat w f
  | 4 => .tldw <$> parseTldw w f
  | 5 => .trel <$> parseA w f
  | 6 => .tmma <$> parseTmma w f
  | 7 => .tdrain <$> parseTdrain w f
  | 8 => .tzero <$> parseM w f
  | 9 => .twait <$> parseD w f
  | _ => P.fail .illegalOpcode 0

/-- Opcodes 0xF0 to 0xFF. -/
def opRowF (w : Win) (f : Fields) (lo : Nat) : P Instr :=
  match lo with
  | 0 => .ngrp <$> parseNgrp w f
  | 1 => .nred <$> parseNred w f
  | 2 => .nredi <$> parseNredi w f
  | 3 => .nfree <$> parseDA w f
  | 4 => .tracew <$> parseTracew w f
  | 5 => .cntr <$> parseCntr w f
  | _ => P.fail .illegalOpcode 0

/-- The parser of an instruction's fields: check 7, then 10 and 11. -/
def decodeFields (w : Win) (f : Fields) : P Instr :=
  let lo := f.op.toNat % 16
  match f.op.toNat / 16 with
  | 0 => opRow0 w f lo
  | 1 => opRow1 w f lo
  | 2 => opRow2 w f lo
  | 3 => opRow3 w f lo
  | 4 => opRow4 w f lo
  | 5 => opRow5 w f lo
  | 6 => opRow6 w f lo
  | 7 => opRow7 w f lo
  | 8 => opRow8 w f lo
  | 9 => opRow9 w f lo
  | 10 => opRowA w f lo
  | 11 => opRowB w f lo
  | 12 => opRowC w f lo
  | 13 => opRowD w f lo
  | 14 => opRowE w f lo
  | 15 => opRowF w f lo
  | _ => P.fail .illegalOpcode 0

/-- The instruction a word holds for a thread with the given window, or the first failing check
of 7, 10 and 11 with its field code (checks 8 and 9 read the state: `Sys2Proof/Machine/Step.lean`). -/
def decodeIn (win : Win) (w : IWord) : Except DecErr Instr :=
  match decodeFields win (Fields.unpack w) false with
  | .ok (i, _) => .ok i
  | .error e => .error e

/-- The instruction a word holds, with every register of the largest window allowed. -/
def decode (w : IWord) : Option Instr := (decodeIn .largest w).toOption

/-! ### The encoder: the fields of one shape -/

def SrcB.sb : SrcB → BitVec 32
  | .reg r => r.code.setWidth 32
  | .lit v => v
  | .ulit v => v
def SrcB.isLit : SrcB → Bool
  | .reg _ => false
  | _ => true
/-- UL, in MOD[12]. -/
def SrcB.ul : SrcB → BitVec 1
  | .ulit _ => 1
  | _ => 0
def SrcC.sb : SrcC → BitVec 32
  | .reg r => r.code.setWidth 32
  | .lit v => v
def SrcC.isLit : SrcC → Bool
  | .reg _ => false
  | .lit _ => true
def vCode (v : VNo) : BitVec 7 := BitVec.ofNat 7 v.val
def kCode (k : KNo) : BitVec 7 := BitVec.ofNat 7 (0x20 + k.val)
def lCode (l : Fin 64) : BitVec 7 := BitVec.ofNat 7 l.val
def predCode (p : PredNo) : BitVec 7 := BitVec.ofNat 7 p.val
def VSrc.sb : VSrc → BitVec 32
  | .v r => (vCode r).setWidth 32
  | .lit x => x
def VSrc.isLit : VSrc → Bool
  | .v _ => false
  | .lit _ => true
/-- MZ, MSK and KM in MOD[4:0]. -/
def maskBits : Option VMask → BitVec 5
  | none => 0
  | some m => BitVec.ofBool m.mz ++ 1#1 ++ BitVec.ofNat 3 m.km.val
/-- MSK and KM in MOD[3:0]. -/
def kmaskBits : Option KNo → BitVec 4
  | none => 0
  | some k => 1#1 ++ BitVec.ofNat 3 k.val
def fin3 (p : Fin 8) : BitVec 3 := BitVec.ofNat 3 p.val
def b1 (b : Bool) : BitVec 1 := BitVec.ofBool b
def fmt64 (w64 : Bool) : BitVec 4 := if w64 then 3 else 2

/-- OP and the guard. -/
def Fields.base (op : BitVec 8) (g : Guard) : Fields :=
  { op := op, pn := g.pn, pr := BitVec.ofNat 3 g.pr.val }

/-- The memory operand in SA, SB and LIT. -/
def Fields.mem (f : Fields) (m : MemOp) : Fields :=
  { f with sa := m.base.code, sb := m.off.sb, lit := m.off.isLit }

def OpG.enc (op : BitVec 8) (o : OpG) : Fields := Fields.base op o.g
def OpA.enc (op : BitVec 8) (o : OpA) : Fields := { Fields.base op o.g with sa := o.a.code }
def OpD.enc (op : BitVec 8) (o : OpD) : Fields := { Fields.base op o.g with dst := o.d.code }
def OpDA.enc (op : BitVec 8) (o : OpDA) : Fields :=
  { Fields.base op o.g with dst := o.d.code, sa := o.a.code }
def OpBr.enc (op : BitVec 8) (o : OpBr) : Fields :=
  { Fields.base op o.g with sb := o.n, lit := true }
def OpCall.enc (op : BitVec 8) (o : OpCall) : Fields :=
  { Fields.base op o.g with dst := o.d.code, sb := o.n, lit := true }
def OpAC.enc (op : BitVec 8) (o : OpAC) : Fields :=
  { Fields.base op o.g with sa := o.a.code, sb := o.code.sb, lit := o.code.isLit }
def OpC.enc (op : BitVec 8) (o : OpC) : Fields :=
  { Fields.base op o.g with sb := o.b.sb, lit := o.b.isLit }
def OpDC.enc (op : BitVec 8) (o : OpDC) : Fields :=
  { Fields.base op o.g with dst := o.d.code, sb := o.b.sb, lit := o.b.isLit }
def OpFset.enc (op : BitVec 8) (o : OpFset) : Fields :=
  { Fields.base op o.g with
    sb := o.b.sb, lit := o.b.isLit, low := o.b.ul ++ 0#8 ++ o.field.code }
def OpFput.enc (op : BitVec 8) (base : Nat) (o : OpFput) : Fields :=
  { Fields.base op o.g with
    dst := BitVec.ofNat 7 (base + o.n.val), sb := o.b.sb, lit := o.b.isLit, low := o.b.ul ++ 0#12 }
def OpFgets.enc (op : BitVec 8) (o : OpFgets) : Fields :=
  { Fields.base op o.g with
    dst := o.d.code, sa := o.a.code, sc := BitVec.ofNat 7 (0x50 + o.n.val) }
def OpFstat.enc (op : BitVec 8) (o : OpFstat) : Fields :=
  { Fields.base op o.g with dst := o.d.code, sa := o.a.code, low := 0#10 ++ o.sel.code }
def OpMfc.enc (op : BitVec 8) (o : OpMfc) : Fields :=
  { Fields.base op o.g with dst := o.d.code, sb := o.n.setWidth 32, lit := true }
def OpMtc.enc (op : BitVec 8) (o : OpMtc) : Fields :=
  { Fields.base op o.g with sa := o.a.code, sb := o.n.setWidth 32, lit := true }
def OpAlu.enc (op : BitVec 8) (o : OpAlu) : Fields :=
  { Fields.base op o.g with
    dst := o.d.code, sa := o.a.code, sb := o.b.sb, lit := o.b.isLit, low := o.b.ul ++ 0#12 }
def OpAluU.enc (op : BitVec 8) (o : OpAluU) : Fields :=
  { Fields.base op o.g with
    dst := o.d.code, sa := o.a.code, sb := o.b.sb, lit := o.b.isLit,
    low := o.b.ul ++ 0#11 ++ b1 o.uns }
def OpAlu3.enc (op : BitVec 8) (o : OpAlu3) : Fields :=
  { Fields.base op o.g with
    dst := o.d.code, sa := o.a.code, sb := o.b.sb, lit := o.b.isLit, sc := o.c.code,
    low := o.b.ul ++ 0#12 }
def OpBfx.enc (op : BitVec 8) (o : OpBfx) : Fields :=
  { Fields.base op o.g with dst := o.d.code, sa := o.a.code, low := 0#1 ++ o.len ++ o.pos }
def OpBfi.enc (op : BitVec 8) (o : OpBfi) : Fields :=
  { Fields.base op o.g with
    dst := o.d.code, sa := o.a.code, sc := o.c.code, low := 0#1 ++ o.len ++ o.pos }
def OpExt.enc (op : BitVec 8) (o : OpExt) : Fields :=
  { Fields.base op o.g with dst := o.d.code, sa := o.a.code, low := 0#1 ++ o.len ++ 0#6 }
def OpMov.enc (op : BitVec 8) (o : OpMov) : Fields :=
  { Fields.base op o.g with
    dst := o.d.code, sb := o.b.sb, lit := o.b.isLit, low := o.b.ul ++ 0#12 }
def OpMovHi.enc (op : BitVec 8) (o : OpMovHi) : Fields :=
  { Fields.base op o.g with
    dst := o.d.code, sa := o.a.code, sb := o.v, lit := true, low := 0#1 ++ 1#1 ++ 0#11 }
def OpSel.enc (op : BitVec 8) (o : OpSel) : Fields :=
  { Fields.base op o.g with
    dst := o.d.code, sa := o.a.code, sb := o.b.sb, lit := o.b.isLit,
    low := o.b.ul ++ 0#8 ++ b1 o.pneg ++ fin3 o.psel }
def OpLea.enc (op : BitVec 8) (o : OpLea) : Fields :=
  { Fields.base op o.g with
    dst := o.d.code, sa := o.a.code, sb := o.b.sb, lit := o.b.isLit,
    low := o.b.ul ++ 0#9 ++ o.sh }
def OpCmp.enc (op : BitVec 8) (o : OpCmp) : Fields :=
  { Fields.base op o.g with
    dst := predCode o.pd, sa := o.a.code, sb := o.b.sb, lit := o.b.isLit,
    low := o.b.ul ++ 0#6 ++ o.cmb.code ++ o.cond.code }
def OpPlog.enc (op : BitVec 8) (o : OpPlog) : Fields :=
  { Fields.base op o.g with
    dst := predCode o.pd, sa := predCode o.pa, sb := (predCode o.pb).setWidth 32,
    low := 0#9 ++ o.lut }
def OpFp2.enc (op : BitVec 8) (o : OpFp2) : Fields :=
  { Fields.base op o.g with
    dst := o.d.code, sa := o.a.code, sb := o.b.sb, lit := o.b.isLit, ovf := o.ovf,
    rnd := o.rnd.code }
def OpFpMin.enc (op : BitVec 8) (o : OpFpMin) : Fields :=
  { Fields.base op o.g with dst := o.d.code, sa := o.a.code, sb := o.b.sb, lit := o.b.isLit }
def OpFp3.enc (op : BitVec 8) (o : OpFp3) : Fields :=
  { Fields.base op o.g with
    dst := o.d.code, sa := o.a.code, sb := o.b.sb, lit := o.b.isLit, sc := o.c.code,
    ovf := o.ovf, rnd := o.rnd.code }
def OpFcmp.enc (op : BitVec 8) (o : OpFcmp) : Fields :=
  { Fields.base op o.g with
    dst := predCode o.pd, sa := o.a.code, sb := o.b.sb, lit := o.b.isLit,
    low := 0#7 ++ o.cmb.code ++ o.cond.code }
def OpFcvt.enc (op : BitVec 8) (o : OpFcvt) : Fields :=
  { Fields.base op o.g with
    dst := o.d.code, sa := o.a.code, ovf := o.ovf, fmt := o.fmt.code, fmt2 := o.fmt2.code,
    rnd := o.rnd.code }
def OpIcvt.enc (op : BitVec 8) (o : OpIcvt) : Fields :=
  { Fields.base op o.g with
    dst := o.d.code, sa := o.a.code, fmt := o.fmt.code, fmt2 := o.fmt2.code,
    rnd := o.rnd.code, low := 0#12 ++ b1 o.uns }
def OpM.enc (op : BitVec 8) (o : OpM) : Fields := (Fields.base op o.g).mem o.m
def OpDM.enc (op : BitVec 8) (o : OpDM) : Fields :=
  { (Fields.base op o.g).mem o.m with dst := o.d.code }
def OpMS.enc (op : BitVec 8) (o : OpMS) : Fields :=
  { (Fields.base op o.g).mem o.m with scope := o.scope.code }
def OpDMS.enc (op : BitVec 8) (o : OpDMS) : Fields :=
  { (Fields.base op o.g).mem o.m with dst := o.d.code, scope := o.scope.code }
def OpMCS.enc (op : BitVec 8) (o : OpMCS) : Fields :=
  { (Fields.base op o.g).mem o.m with sc := o.c.code, scope := o.scope.code }
def OpDMCS.enc (op : BitVec 8) (nb : Bool) (o : OpDMCS) : Fields :=
  { (Fields.base op o.g).mem o.m with
    dst := o.d.code, sc := o.c.code, scope := o.scope.code, low := 0#12 ++ b1 nb }
def OpLd.enc (op : BitVec 8) (o : OpLd) : Fields :=
  { (Fields.base op o.g).mem o.m with
    dst := o.d.code, scope := o.scope.code, ord := o.ord.code,
    low := 0#9 ++ b1 o.sx ++ 0#1 ++ o.sz.code }
def OpLdp.enc (op : BitVec 8) (o : OpLdp) : Fields :=
  { (Fields.base op o.g).mem o.m with
    dst := o.d.code, scope := o.scope.code, ord := o.ord.code,
    low := 0#2 ++ fin3 o.pd ++ 3#8 }
def OpSt.enc (op : BitVec 8) (o : OpSt) : Fields :=
  { (Fields.base op o.g).mem o.m with
    sc := o.c.code, scope := o.scope.code, ord := o.ord.code, low := 0#11 ++ o.sz.code }
def OpStn.enc (op : BitVec 8) (o : OpStn) : Fields :=
  { (Fields.base op o.g).mem o.m with
    sc := o.c.code, scope := o.scope.code, ord := o.ord.code, low := 0#5 ++ b1 o.nib ++ 0#7 }
def OpTake.enc (op : BitVec 8) (o : OpTake) : Fields :=
  { (Fields.base op o.g).mem o.m with
    dst := o.d.code, scope := o.scope.code, ord := o.ord.code, low := 3#13 }
def OpPut.enc (op : BitVec 8) (wt : Bool) (o : OpPut) : Fields :=
  { (Fields.base op o.g).mem o.m with
    sc := o.c.code, scope := o.scope.code, ord := o.ord.code, low := 0#8 ++ b1 wt ++ 3#4 }
def OpTagr.enc (op : BitVec 8) (o : OpTagr) : Fields :=
  { (Fields.base op o.g).mem o.m with
    dst := o.d.code, sc := lCode o.t, scope := o.scope.code, ord := o.ord.code, low := 3#13 }
def OpTagw.enc (op : BitVec 8) (o : OpTagw) : Fields :=
  { (Fields.base op o.g).mem o.m with
    sc := o.c.code, scope := o.scope.code, ord := o.ord.code, low := o.nt.code ++ 3#11 }
def OpFence.enc (op : BitVec 8) (o : OpFence) : Fields :=
  { Fields.base op o.g with
    scope := o.scope.code, ord := o.ord.code, low := 0#7 ++ b1 o.eng ++ 0#5 }
def OpAtom.enc (op : BitVec 8) (o : OpAtom) : Fields :=
  { (Fields.base op o.g).mem o.m with
    dst := o.d.code, sc := o.c.code, scope := o.scope.code, ord := o.ord.code,
    low := 0#11 ++ o.sz.code }
def OpAfadd.enc (op : BitVec 8) (o : OpAfadd) : Fields :=
  { (Fields.base op o.g).mem o.m with
    dst := o.d.code, sc := o.c.code, scope := o.scope.code, ord := o.ord.code, low := 2#13 }
def OpCas.enc (op : BitVec 8) (o : OpCas) : Fields :=
  { (Fields.base op o.g).mem o.m with
    dst := lCode o.d, sc := o.c.code, scope := o.scope.code, ord := o.ord.code,
    low := 0#2 ++ fin3 o.pd ++ 0#6 ++ o.sz.code }
/-- MOND.all sets ALL in MOD[6]. -/
def OpG.encAll (op : BitVec 8) (o : OpG) : Fields := { Fields.base op o.g with low := 0x40#13 }
def OpTset.enc (op : BitVec 8) (o : OpTset) : Fields :=
  { Fields.base op o.g with dst := o.d.code, sa := o.a.code, sb := o.b.sb, lit := o.b.isLit }
def OpBari.enc (op : BitVec 8) (o : OpBari) : Fields :=
  { (Fields.base op o.g).mem o.m with
    sc := o.c.code, scope := o.scope.code, low := 0#12 ++ b1 o.drop }
def OpWqry.enc (op : BitVec 8) (o : OpWqry) : Fields :=
  if o.sel.isRecord then
    { Fields.base op o.g with dst := o.d.code, sa := o.m.base.code, low := 0#9 ++ o.sel.code }
  else
    { (Fields.base op o.g).mem o.m with
      dst := o.d.code, scope := o.scope.code, low := 0#9 ++ o.sel.code }
def OpEapp.enc (op : BitVec 8) (o : OpEapp) : Fields :=
  { Fields.base op o.g with
    sa := o.a.code, sb := o.b.sb, lit := o.b.isLit, sc := o.c.code, low := 0#11 ++ o.op.code }
def OpErepl.enc (op : BitVec 8) (o : OpErepl) : Fields :=
  { Fields.base op o.g with dst := o.d.code, sa := o.a.code, low := 0#12 ++ b1 o.free }
def OpVLd.enc (op : BitVec 8) (o : OpVLd) : Fields :=
  { Fields.base op o.g with
    dst := vCode o.v, sa := o.a.code, sb := o.off, lit := true, sas := true,
    scope := o.scope.code, ord := o.ord.code, low := o.sz.code ++ 0#6 ++ maskBits o.mask }
def OpVSt.enc (op : BitVec 8) (o : OpVSt) : Fields :=
  { Fields.base op o.g with
    dst := vCode o.v, sa := o.a.code, sb := o.off, lit := true, sas := true,
    scope := o.scope.code, ord := o.ord.code, low := o.sz.code ++ 0#7 ++ kmaskBits o.mask }
def OpVLds.enc (op : BitVec 8) (o : OpVLds) : Fields :=
  { Fields.base op o.g with
    dst := vCode o.v, sa := o.a.code, sb := o.off, lit := true, sas := true, sc := o.c.code,
    scope := o.scope.code, ord := o.ord.code, low := o.sz.code ++ 0#6 ++ maskBits o.mask }
def OpVSts.enc (op : BitVec 8) (o : OpVSts) : Fields :=
  { Fields.base op o.g with
    dst := vCode o.v, sa := o.a.code, sb := o.off, lit := true, sas := true, sc := o.c.code,
    scope := o.scope.code, ord := o.ord.code, low := o.sz.code ++ 0#7 ++ kmaskBits o.mask }
def OpVGath.enc (op : BitVec 8) (o : OpVGath) : Fields :=
  { Fields.base op o.g with
    dst := vCode o.v, sa := o.a.code, sb := (vCode o.vi).setWidth 32, sas := true,
    scope := o.scope.code, ord := o.ord.code,
    low := o.sz.code ++ b1 o.uns ++ 0#5 ++ maskBits o.mask }
def OpVScat.enc (op : BitVec 8) (o : OpVScat) : Fields :=
  { Fields.base op o.g with
    dst := vCode o.v, sa := o.a.code, sb := (vCode o.vi).setWidth 32, sas := true,
    scope := o.scope.code, ord := o.ord.code,
    low := o.sz.code ++ b1 o.uns ++ 0#6 ++ kmaskBits o.mask }
def OpVFill.enc (op : BitVec 8) (o : OpVFill) : Fields :=
  let f : Fields := { Fields.base op o.g with
    dst := vCode o.v, fmt := o.fmt.code, low := 0#8 ++ maskBits o.mask }
  match o.val with
  | .scalar r => { f with sa := r.code, sas := true }
  | .lit v => { f with sb := v, lit := true }
def OpVExt.enc (op : BitVec 8) (o : OpVExt) : Fields :=
  { Fields.base op o.g with
    dst := o.d.code, sa := vCode o.va, sb := o.idx.sb, lit := o.idx.isLit, fmt := o.fmt.code,
    low := 0#2 ++ b1 o.uns ++ 0#10 }
def OpVIns.enc (op : BitVec 8) (o : OpVIns) : Fields :=
  { Fields.base op o.g with
    dst := vCode o.v, sa := o.a.code, sb := o.idx.sb, lit := o.idx.isLit, sas := true,
    fmt := o.fmt.code }
def OpVAlu.enc (op : BitVec 8) (o : OpVAlu) : Fields :=
  { Fields.base op o.g with
    dst := vCode o.vd, sa := vCode o.va, sb := o.y.sb, lit := o.y.isLit, fmt := o.fmt.code,
    ovf := o.ovf, rnd := o.rnd.code, low := 0#2 ++ b1 o.uns ++ 0#5 ++ maskBits o.mask }
def OpVFma.enc (op : BitVec 8) (o : OpVFma) : Fields :=
  { Fields.base op o.g with
    dst := vCode o.vd, sa := vCode o.va, sb := o.y.sb, lit := o.y.isLit, sc := vCode o.vc,
    fmt := o.fmt.code, ovf := o.ovf, rnd := o.rnd.code,
    low := 0#2 ++ b1 o.uns ++ 0#5 ++ maskBits o.mask }
def OpVAbs.enc (op : BitVec 8) (o : OpVAbs) : Fields :=
  { Fields.base op o.g with
    dst := vCode o.vd, sa := vCode o.va, fmt := o.fmt.code, ovf := o.ovf,
    low := 0#2 ++ b1 o.uns ++ 0#5 ++ maskBits o.mask }
def OpVCmp.enc (op : BitVec 8) (o : OpVCmp) : Fields :=
  { Fields.base op o.g with
    dst := kCode o.kd, sa := vCode o.va, sb := o.y.sb, lit := o.y.isLit, fmt := o.fmt.code,
    low := 0#2 ++ b1 o.uns ++ 0#1 ++ o.cond ++ maskBits o.mask }
def OpVSel.enc (op : BitVec 8) (o : OpVSel) : Fields :=
  { Fields.base op o.g with
    dst := vCode o.vd, sa := vCode o.va, sb := o.y.sb, lit := o.y.isLit, sc := kCode o.kc,
    fmt := o.fmt.code, low := 0#8 ++ maskBits o.mask }
def OpKlog.enc (op : BitVec 8) (o : OpKlog) : Fields :=
  { Fields.base op o.g with
    dst := kCode o.kd, sa := kCode o.ka, sb := (kCode o.kb).setWidth 32,
    low := 0#4 ++ o.lut ++ 0#5 }
def OpKpop.enc (op : BitVec 8) (o : OpKpop) : Fields :=
  { Fields.base op o.g with dst := o.d.code, sa := kCode o.ka, fmt := o.fmt.code }
def OpVCvt.enc (op : BitVec 8) (o : OpVCvt) : Fields :=
  { Fields.base op o.g with
    dst := vCode o.vd, sa := vCode o.va, fmt := o.fmt.code, fmt2 := o.fmt2.code, ovf := o.ovf,
    rnd := o.rnd.code, low := 0#2 ++ b1 o.uns ++ 0#1 ++ o.part ++ maskBits o.mask }
def OpVQmx.enc (op : BitVec 8) (o : OpVQmx) : Fields :=
  let f : Fields := { Fields.base op o.g with
    dst := vCode o.ve, sa := vCode o.va, sc := vCode o.vs, fmt := o.fmt.code,
    fmt2 := o.fmt2.code, ovf := o.ovf, rnd := o.rnd.code }
  match o.scale with
  | .block => f
  | .v r => { f with sb := (vCode r).setWidth 32, low := 0x200#13 }
  | .lit v => { f with sb := v, lit := true, low := 0x200#13 }
def OpVDqmx.enc (op : BitVec 8) (o : OpVDqmx) : Fields :=
  { Fields.base op o.g with
    dst := vCode o.vd, sa := vCode o.ve, sb := (vCode o.vs).setWidth 32, fmt := o.fmt.code,
    fmt2 := o.fmt2.code, ovf := o.ovf, rnd := o.rnd.code }
def OpVRed.enc (op : BitVec 8) (o : OpVRed) : Fields :=
  { Fields.base op o.g with
    dst := o.d.code, sa := vCode o.va, fmt := o.fmt.code, ovf := o.ovf, rnd := o.rnd.code,
    low := 0#2 ++ b1 o.uns ++ 0#6 ++ kmaskBits o.mask }
def OpVSpec.enc (op : BitVec 8) (o : OpVSpec) : Fields :=
  { Fields.base op o.g with
    dst := vCode o.vd, sa := vCode o.va, fmt := o.fmt.code, ovf := o.ovf, rnd := o.rnd.code,
    low := 0#8 ++ maskBits o.mask }
def OpVPerm.enc (op : BitVec 8) (o : OpVPerm) : Fields :=
  { Fields.base op o.g with
    dst := vCode o.vd, sa := vCode o.va, sb := (vCode o.vi).setWidth 32, fmt := o.fmt.code,
    low := 0#8 ++ maskBits o.mask }
def OpVBperm.enc (op : BitVec 8) (o : OpVBperm) : Fields :=
  { Fields.base op o.g with
    dst := vCode o.vd, sa := vCode o.va, fmt := o.fmt.code,
    low := 0#4 ++ o.dist ++ maskBits o.mask }
def OpVMset.enc (op : BitVec 8) (o : OpVMset) : Fields :=
  let f : Fields := { Fields.base op o.g with dst := o.q.code, fmt := fmt64 o.w64 }
  match o.src with
  | .scalar r => { f with sa := r.code, sas := true }
  | .lit v => { f with sb := v, lit := true }
  | .v r => { f with sb := (vCode r).setWidth 32 }
def qsBits (q : Fin 4) : BitVec 2 := BitVec.ofNat 2 q.val
def OpVM2.enc (op : BitVec 8) (o : OpVM2) : Fields :=
  { Fields.base op o.g with
    dst := vCode o.vd, sa := vCode o.va, sb := o.y.sb, lit := o.y.isLit, fmt := fmt64 o.w64,
    low := qsBits o.qs ++ 0#6 ++ maskBits o.mask }
def OpVM1.enc (op : BitVec 8) (o : OpVM1) : Fields :=
  { Fields.base op o.g with
    dst := vCode o.vd, sa := vCode o.va, fmt := fmt64 o.w64,
    low := qsBits o.qs ++ 0#6 ++ maskBits o.mask }
def OpVBfly.enc (op : BitVec 8) (o : OpVBfly) : Fields :=
  { Fields.base op o.g with
    dst := vCode o.vd, sa := vCode o.va, sb := (vCode o.vb).setWidth 32, fmt := fmt64 o.w64,
    low := qsBits o.qs ++ 0#2 ++ o.dist ++ maskBits o.mask }
def OpVBflyX.enc (op : BitVec 8) (o : OpVBflyX) : Fields :=
  { Fields.base op o.g with
    dst := vCode o.vd, sa := vCode o.va, sb := (vCode o.vb).setWidth 32, sc := vCode o.vc,
    fmt := fmt64 o.w64, low := qsBits o.qs ++ 1#1 ++ 0#5 ++ maskBits o.mask }
def OpVAuto.enc (op : BitVec 8) (o : OpVAuto) : Fields :=
  { Fields.base op o.g with
    dst := vCode o.vd, sa := vCode o.va, sb := o.b.sb, lit := o.b.isLit, fmt := fmt64 o.w64,
    low := qsBits o.qs ++ 0#2 ++ o.ln ++ maskBits o.mask }
def ringBits (r : Fin 32) : BitVec 5 := BitVec.ofNat 5 r.val
def OpRingi.enc (op : BitVec 8) (o : OpRingi) : Fields :=
  { Fields.base op o.g with
    sa := o.a.code, sb := o.cfg.sb, lit := o.cfg.isLit, low := 0#8 ++ ringBits o.ring }
def OpRing.enc (op : BitVec 8) (res : Bool) (o : OpRing) : Fields :=
  { Fields.base op o.g with dst := o.d.code, low := 0#7 ++ b1 res ++ ringBits o.ring }
def OpRpush.enc (op : BitVec 8) (o : OpRpush) : Fields :=
  { Fields.base op o.g with dst := o.d.code, sa := o.a.code, low := 0#8 ++ ringBits o.ring }
def OpRstat.enc (op : BitVec 8) (o : OpRstat) : Fields :=
  { Fields.base op o.g with dst := o.d.code, low := 0#5 ++ o.sel.code ++ ringBits o.ring }
def OpTldw.enc (op : BitVec 8) (o : OpTldw) : Fields :=
  { Fields.base op o.g with dst := o.d.code, low := 0#7 ++ b1 o.red ++ ringBits o.ring }
def OpTmma.enc (op : BitVec 8) (o : OpTmma) : Fields :=
  { (Fields.base op o.g).mem o.m with sc := o.c.code, low := 0#8 ++ ringBits o.ring }
def OpTdrain.enc (op : BitVec 8) (o : OpTdrain) : Fields :=
  { Fields.base op o.g with
    sa := o.a.code, sb := o.b.code.setWidth 32, sc := o.c.code, ovf := o.ovf,
    fmt := o.fmt.code, fmt2 := o.fmt2.code, rnd := o.rnd.code,
    low := 0#8 ++ b1 o.za ++ o.act.code ++ o.gate.code }
def OpNred.enc (op : BitVec 8) (o : OpNred) : Fields :=
  { Fields.base op o.g with
    sa := o.a.code, sb := o.y.sb, lit := o.y.isLit, sc := o.c.code, low := 0#10 ++ o.elem }
def OpNredi.enc (op : BitVec 8) (o : OpNredi) : Fields :=
  { Fields.base op o.g with
    dst := o.d.code, sa := o.a.code, sb := o.t.sb, lit := o.t.isLit, low := 0#10 ++ o.elem }
def OpTracew.enc (op : BitVec 8) (o : OpTracew) : Fields :=
  { Fields.base op o.g with
    sa := o.a.code, sb := o.b.sb, lit := o.b.isLit, low := 0#9 ++ o.chan }
def OpCntr.enc (op : BitVec 8) (o : OpCntr) : Fields :=
  { Fields.base op o.g with
    dst := o.d.code, sb := o.n.sb, lit := o.n.isLit, low := 0#12 ++ b1 o.clr }

/-- The fields of an instruction; an event row has no word. -/
def Instr.fields : Instr → Option Fields
  | .nop o => some (o.enc 0x01)
  | .br o => some (o.enc 0x02)
  | .brx o => some (o.enc 0x03)
  | .call o => some (o.enc 0x04)
  | .callx o => some (o.enc 0x05)
  | .ret o => some (o.enc 0x06)
  | .exit o => some (o.enc 0x07)
  | .breakM o => some (o.enc 0x08)
  | .fset o => some (o.enc 0x09)
  | .fputg o => some (o.enc 0x0A 0x40)
  | .fputs o => some (o.enc 0x0B 0x60)
  | .create o => some (o.enc 0x0C)
  | .sync o => some (o.enc 0x0D)
  | .fgets o => some (o.enc 0x0E)
  | .kill o => some (o.enc 0x0F)
  | .fstat o => some (o.enc 0x10)
  | .trap o => some (o.enc 0x11)
  | .bkpt o => some (o.enc 0x17)
  | .eret o => some (o.enc 0x12)
  | .mfc o => some (o.enc 0x13)
  | .mtc o => some (o.enc 0x14)
  | .yieldT o => some (o.enc 0x15)
  | .chkpt o => some (o.enc 0x16)
  | .add o => some (o.enc 0x20)
  | .sub o => some (o.enc 0x21)
  | .mul o => some (o.enc 0x22)
  | .mulhs o => some (o.enc 0x23)
  | .mulhu o => some (o.enc 0x24)
  | .madd o => some (o.enc 0x25)
  | .divs o => some (o.enc 0x26)
  | .divu o => some (o.enc 0x27)
  | .rems o => some (o.enc 0x28)
  | .remu o => some (o.enc 0x29)
  | .and o => some (o.enc 0x2A)
  | .or o => some (o.enc 0x2B)
  | .xor o => some (o.enc 0x2C)
  | .andn o => some (o.enc 0x2D)
  | .shl o => some (o.enc 0x2E)
  | .shr o => some (o.enc 0x2F)
  | .sar o => some (o.enc 0x30)
  | .rol o => some (o.enc 0x31)
  | .min o => some (o.enc 0x32)
  | .max o => some (o.enc 0x33)
  | .minu o => some (o.enc 0x34)
  | .maxu o => some (o.enc 0x35)
  | .adds o => some (o.enc 0x4E)
  | .subs o => some (o.enc 0x4F)
  | .abs o => some (o.enc 0x36)
  | .clz o => some (o.enc 0x37)
  | .ctz o => some (o.enc 0x38)
  | .popc o => some (o.enc 0x39)
  | .brev o => some (o.enc 0x3A)
  | .bswap o => some (o.enc 0x3B)
  | .bfx o => some (o.enc 0x3C)
  | .bfi o => some (o.enc 0x3D)
  | .sext o => some (o.enc 0x3E)
  | .zext o => some (o.enc 0x3F)
  | .mov o => some (o.enc 0x40)
  | .movHi o => some (o.enc 0x40)
  | .sel o => some (o.enc 0x41)
  | .lea o => some (o.enc 0x42)
  | .cmp o => some (o.enc 0x43)
  | .plog o => some (o.enc 0x44)
  | .fadd o => some (o.enc 0x45)
  | .fsub o => some (o.enc 0x46)
  | .fmul o => some (o.enc 0x47)
  | .fmin o => some (o.enc 0x49)
  | .fmax o => some (o.enc 0x4A)
  | .ffma o => some (o.enc 0x48)
  | .fcmp o => some (o.enc 0x4B)
  | .fcvt o => some (o.enc 0x4C)
  | .icvt o => some (o.enc 0x4D)
  | .ld o => some (o.enc 0x50)
  | .ldp o => some (o.enc 0x53)
  | .st o => some (o.enc 0x51)
  | .stn o => some (o.enc 0x52)
  | .take o => some (o.enc 0x54)
  | .ldf o => some (o.enc 0x56)
  | .put o => some (o.enc 0x55 false)
  | .putWait o => some (o.enc 0x55 true)
  | .tagr o => some (o.enc 0x57)
  | .tagw o => some (o.enc 0x58)
  | .fence o => some (o.enc 0x59)
  | .aadd o => some (o.enc 0x5A)
  | .aand o => some (o.enc 0x5B)
  | .aor o => some (o.enc 0x5C)
  | .axor o => some (o.enc 0x5D)
  | .amin o => some (o.enc 0x5E)
  | .amax o => some (o.enc 0x5F)
  | .aminu o => some (o.enc 0x60)
  | .amaxu o => some (o.enc 0x61)
  | .axchg o => some (o.enc 0x62)
  | .afadd o => some (o.enc 0x63)
  | .cas o => some (o.enc 0x64)
  | .pref o => some (o.enc 0x65)
  | .mona o => some (o.enc 0x66)
  | .mond o => some (o.enc 0x67)
  | .mondAll o => some (o.encAll 0x67)
  | .waitm o => some (o.enc 0x68)
  | .tset o => some (o.enc 0x69)
  | .tlook o => some (o.enc 0x6A)
  | .tclr o => some (o.enc 0x6B)
  | .bari o => some (o.enc 0x70)
  | .barr o => some (o.enc 0x71)
  | .barw o => some (o.enc 0x72)
  | .bwait o => some (o.enc 0x73)
  | .bdrop o => some (o.enc 0x74)
  | .bpois o => some (o.enc 0x75)
  | .lki o => some (o.enc 0x76)
  | .lkacq o => some (o.enc 0x77)
  | .lktry o => some (o.enc 0x78)
  | .lkrel o => some (o.enc 0x79)
  | .qi o => some (o.enc 0x7A)
  | .qpush o => some (o.enc 0x7B)
  | .qpop o => some (o.enc 0x7C)
  | .wreg o => some (o.enc 0x7D)
  | .whold o => some (o.enc 0x7E)
  | .wdrop o => some (o.enc 0x80)
  | .wwait o => some (o.enc 0x7F false)
  | .wwaitNb o => some (o.enc 0x7F true)
  | .wunreg o => some (o.enc 0x81)
  | .wqry o => some (o.enc 0x82)
  | .ofree o => some (o.enc 0x83)
  | .copy o => some (o.enc 0x88)
  | .copyt o => some (o.enc 0x89)
  | .gath o => some (o.enc 0x8A)
  | .pack o => some (o.enc 0x8B)
  | .unpack o => some (o.enc 0x8C)
  | .ccan o => some (o.enc 0x90)
  | .cstat o => some (o.enc 0x91)
  | .ebin o => some (o.enc 0x8D)
  | .eapp o => some (o.enc 0x8E)
  | .erepl o => some (o.enc 0x8F)
  | .vclaim o => some (o.enc 0x98)
  | .vrel o => some (o.enc 0x99)
  | .vyield o => some (o.enc 0x9A)
  | .vld o => some (o.enc 0x9B)
  | .vst o => some (o.enc 0x9C)
  | .vlds o => some (o.enc 0x9D)
  | .vsts o => some (o.enc 0x9E)
  | .vgath o => some (o.enc 0x9F)
  | .vscat o => some (o.enc 0xA0)
  | .vbcast o => some (o.enc 0xA1)
  | .viota o => some (o.enc 0xC4)
  | .vext o => some (o.enc 0xA2)
  | .vins o => some (o.enc 0xA3)
  | .vadd o => some (o.enc 0xA4)
  | .vsub o => some (o.enc 0xA5)
  | .vmul o => some (o.enc 0xA6)
  | .vfma o => some (o.enc 0xA7)
  | .vmin o => some (o.enc 0xA8)
  | .vmax o => some (o.enc 0xA9)
  | .vabs o => some (o.enc 0xAA)
  | .vand o => some (o.enc 0xAB)
  | .vor o => some (o.enc 0xAC)
  | .vxor o => some (o.enc 0xAD)
  | .vshl o => some (o.enc 0xAE)
  | .vshr o => some (o.enc 0xAF)
  | .vsar o => some (o.enc 0xB0)
  | .vcmp o => some (o.enc 0xB1)
  | .vsel o => some (o.enc 0xB2)
  | .klog o => some (o.enc 0xC2)
  | .kpop o => some (o.enc 0xC3)
  | .vcvt o => some (o.enc 0xB3)
  | .vqmx o => some (o.enc 0xB4)
  | .vdqmx o => some (o.enc 0xB5)
  | .vrsum o => some (o.enc 0xB6)
  | .vrmax o => some (o.enc 0xB7)
  | .vrmin o => some (o.enc 0xB8)
  | .vexp2 o => some (o.enc 0xB9)
  | .vlog2 o => some (o.enc 0xBA)
  | .vrcp o => some (o.enc 0xBB)
  | .vrsq o => some (o.enc 0xBC)
  | .vsqrt o => some (o.enc 0xBD)
  | .vtanh o => some (o.enc 0xBE)
  | .vsigm o => some (o.enc 0xBF)
  | .vperm o => some (o.enc 0xC0)
  | .vbperm o => some (o.enc 0xC1)
  | .vmset o => some (o.enc 0xD0)
  | .vmadd o => some (o.enc 0xD1)
  | .vmsub o => some (o.enc 0xD2)
  | .vmneg o => some (o.enc 0xD3)
  | .vmmul o => some (o.enc 0xD4)
  | .vmmac o => some (o.enc 0xD5)
  | .vmred o => some (o.enc 0xD6)
  | .vmto o => some (o.enc 0xD7)
  | .vmfrom o => some (o.enc 0xD8)
  | .vbfly o => some (o.enc 0xD9)
  | .vbflyX o => some (o.enc 0xD9)
  | .vibfly o => some (o.enc 0xDA)
  | .vibflyX o => some (o.enc 0xDA)
  | .vauto o => some (o.enc 0xDB)
  | .ringi o => some (o.enc 0xE0)
  | .rpushRes o => some (o.enc 0xE1 true)
  | .rpush o => some (o.enc 0xE1)
  | .rpopRes o => some (o.enc 0xE2 true)
  | .rpop o => some (o.enc 0xE2 false)
  | .rstat o => some (o.enc 0xE3)
  | .tldw o => some (o.enc 0xE4)
  | .trel o => some (o.enc 0xE5)
  | .tmma o => some (o.enc 0xE6)
  | .tzero o => some (o.enc 0xE8)
  | .tdrain o => some (o.enc 0xE7)
  | .twait o => some (o.enc 0xE9)
  | .ngrp o => some (o.enc 0xF0)
  | .nred o => some (o.enc 0xF1)
  | .nredi o => some (o.enc 0xF2)
  | .nfree o => some (o.enc 0xF3)
  | .tracew o => some (o.enc 0xF4)
  | .cntr o => some (o.enc 0xF5)
  -- events
  | .registerWrite _ => none
  | .turn _ => none
  | .fetchLineArrival _ => none
  | .memoryReply _ => none
  | .errorNotice _ => none
  | .homeOperation _ => none
  | .queuedBankAccess _ => none
  | .requestCombine _ => none
  | .deferralDelivery _ => none
  | .monitorWake _ => none
  | .waitmTimeout _ => none
  | .linkedValueArrival _ => none
  | .memberStart _ => none
  | .familyEnd _ => none
  | .phaseMarker _ => none
  | .phaseComplete _ => none
  | .packetHeaderArrival _ => none
  | .packetCloseArrival _ => none
  | .packetAcknowledge _ => none
  | .reductionPartial _ => none
  | .copyEngineStart _ => none
  | .copyComplete _ => none
  | .engineOpStart _ => none
  | .tldwLoadComplete _ => none
  | .tmmaRetire _ => none
  | .tzeroComplete _ => none
  | .tdrainComplete _ => none
  | .entrepotAppendArrival _ => none
  | .ereplComplete _ => none
  | .patrolScrub _ => none
  | .coreReset _ => none
  | .preEmpt _ => none
  | .threadRestore _ => none
  | .migrate _ => none
  | .launchAccept _ => none
  | .launchBind _ => none
  | .launchStart _ => none
  | .launchComplete _ => none
  | .launchKill _ => none
  | .sqTailWrite _ => none
  | .featureCommit _ => none
  | .translationWalkComplete _ => none
  | .faultAnswerRetry _ => none
  | .faultAnswerDeny _ => none
  | .translationInvalidate _ => none
  | .waitForInsert _ => none
  | .waitForRemove _ => none
  | .priorityPropagate _ => none
  | .deadlockScan _ => none
  | .dcmdStop _ => none
  | .dcmdResume _ => none
  | .dcmdStep _ => none
  | .clusterStopArrival _ => none
  | .clusterResumeArrival _ => none
  | .pcSample _ => none
  | .traceRecordArrival _ => none
  | .waybillSealTimeout _ => none
  | .waybillWriteComplete _ => none
  | .routeSurvey _ => none
  | .traceEnable _ => none
  | .unitClaim _ => none
  | .pmodeEnter _ => none
  | .pmodeLeave _ => none
  | .intervalClose _ => none
  | .linkRetrain _ => none
  | .gulongKeepalive _ => none
  | .gulongSilenceTimeout _ => none
  | .faultEvent _ => none
  | .fctlQuiesce _ => none
  | .quiesced _ => none
  | .fctlResume _ => none
  | .fctlPreset _ => none
  | .thermalTrip _ => none
  | .clockStep _ => none
  | .harvestUpdate _ => none
  | .packageReset _ => none
  | .attestationQuote _ => none
  | .haltedThreadKill _ => none
  | .cacheLineFill _ => none
  | .retrainComplete _ => none
  | .accessTableWrite _ => none

/-- The word of an instruction, from the encoding tables of the spec. -/
def encode (i : Instr) : Option IWord := i.fields.map Fields.pack

/-- The instruction read from a table word: bit 0 of `w` is bit 0 of the instruction word. -/
def decodeTableWord (_nbits w : Nat) : Option Instr := decode (BitVec.ofNat 96 w)

end Sys2Proof
end

