-- ==== Sys2Proof/Config.lean ====
section
/-! DEFINITION. What the spec leaves open. A constant without a body stands for any value: no proof
can see what it is. Free values and free choices are applied to counters of the state, so that
each use may differ (log 5). -/

namespace Sys2Proof.Config

/-- A word the spec gives no value for, for example TINFO0 of a cause whose rule states none
(03 R57). DESIGN CHOICE (log 5). -/
opaque freeWord : Nat → Word

/-- A choice the spec leaves to the implementation, to be reduced modulo the number of
alternatives. DESIGN CHOICE (log 5). -/
opaque pick : Nat → Nat

/-- The event that happens next when the agenda is empty and no thread is issuing: any event row
of the opcode table. DESIGN CHOICE (log 4). -/
opaque nextEvent : Nat → Instr

/-- SHAKE256 with 512 bits of output (19 R383, 20 R391), which the spec names and does not define
(log 6). -/
opaque shake256 : List Byte → BitVec 512

/-- The ML-DSA-65 signature of the device identity key (19 R383, 20 R391) (log 6). -/
opaque sign : List Byte → List Byte

/-- The certificate of the identity public key (19 R383) (log 6). -/
opaque certificate : List Byte

/-- SHAKE256 of boot image n: 0 the Factor firmware, 1 to 4 the die firmware, 5 the device OS
(19 R382, R383) (log 6). -/
opaque imageDigest : Nat → BitVec 512

/-- The measurement register that boot image n extends (19 R383), modulo 8 (log 6). -/
opaque measureNo : Nat → Nat

/-- Enabled cores less 124 of cluster n of another package, package × 48 + die × 12 + cluster, to be reduced modulo 5:
they are fuses of that package (19 Table 19.2). DESIGN CHOICE (log 79). -/
opaque farCount : Nat → Nat

end Sys2Proof.Config
end

