-- ==== Sys2Proof/Machine/State.lean ====
section
/-! DEFINITION. The state of the machine: one SD96 package as plain data. Keyed collections are
lists of pairs with rising keys; a key that is not listed stands for the default record, so equal
machines are equal data. Operations on them stand in the other files of `Sys2Proof/Machine`. -/

namespace Sys2Proof.Machine

/-! ### How a step can stop -/

/-- Why the machine would stop with a fault. -/
inductive Fault where
  /-- Raised by no meaning: every stop the spec describes is a trap taken, a wait or a report.
  Safe. -/
  | none
  deriving DecidableEq, Repr

/-- Why an instruction has no next state. -/
inductive Refusal where
  /-- Raised by an arm of `exec` whose instruction has no meaning yet. Safe. -/
  | notModelled (mnemonic : String)
  deriving DecidableEq, Repr

/-! ### Memory -/

/-- The home of a byte: offset of a core's scratchpad, or physical address of device memory
(07 Table 7.1, 19 R370). Cores are numbered (die × 12 + cluster) × 128 + logical core. -/
inductive Loc where
  | sp (core : Nat) (off : Nat)
  | dev (pa : Nat)
  deriving DecidableEq, Repr

/-- Memory: the bytes that differ from 0x00 by rising key, and the words whose tag differs from
FULL by rising word key (06 R125, R126). The key of a byte is given by `Loc.key`. -/
structure Memory where
  bytes : List Host.Cell
  tags : List (Nat × Tag)
  deriving DecidableEq, Repr

/-! ### Thread level -/

/-- A trap bank (03 R57). -/
structure Bank where
  cause : Word
  tpc : Word
  info0 : Word
  info1 : Word
  deriving DecidableEq, Repr

def Bank.zero : Bank := ⟨0, 0, 0, 0⟩

/-- The staged family description (05 Table 5.1). -/
structure Staged where
  start : Word
  limit : Word
  step : Word
  block : Word
  place : Word
  entry : Word
  window : Word
  prio : Word
  flags : Word
  g : Vector Word 16
  d : Vector Word 16
  deriving DecidableEq, Repr

/-- Table 5.1, column "At member start". -/
def Staged.initial (own : Word) : Staged :=
  ⟨0, 0, 1, 1, 0, 0, 0, own, 0, Vector.replicate 16 0, Vector.replicate 16 0⟩

/-- A held line of the line buffer (02 R40): its address, its bits, the fault or trap its read
found, and whether the line has been read again after a parity failure. -/
structure HeldLine where
  addr : Word
  bits : Line
  bad : Option (Cause × Word × Word)
  reread : Bool
  /-- The thread has issued from it, so the next line is requested. -/
  issued : Bool
  /-- Its walk found a fault that no turn has met yet: FKIND and LEVEL (18 Table 18.8). -/
  fault : Option (Nat × Nat)
  deriving DecidableEq, Repr

/-- A vector claim (09 R172, 10 R202): grant g, minimum, desired, and its registers: V, Q and W
with a word a lane, K with a byte a lane. -/
structure Claim where
  grant : Nat
  min : Nat
  des : Nat
  shrunk : Bool
  v : Vector (List Word) 32
  k : Vector (List Byte) 8
  q : Vector (List Word) 4
  w : Vector (List Word) 4
  deriving DecidableEq, Repr

/-- A monitor of a thread (07 R151, 06 R129). -/
structure Mon where
  line : Nat
  va : Word
  armed : Bool
  wake : Bool
  coarse : Bool
  deriving DecidableEq, Repr

/-- The deferred-error record (07 R138). -/
structure ErrRec where
  cause : Cause
  addr : Word
  count : BitVec 32
  deriving DecidableEq, Repr

/-- The copy-fault record (13 R259) and the redundancy record (12 R248): id or ring and array,
status or SEQ of the first, count of later ones. -/
structure LateRec where
  id : Word
  first : Word
  count : BitVec 31
  deriving DecidableEq, Repr

/-- An open packet (11 R215): its send header and the payload flits sent so far. -/
structure OpenPkt where
  header : Word
  sent : List Word
  deriving DecidableEq, Repr

/-- Where a thread is (06 Table 6.1); a saved thread holds no entry (18 R355). -/
inductive Life where
  | running (slot : Nat)
  | ready
  | waiting
  | stopped
  | halted
  | saved
  | adopting
  | ended
  deriving DecidableEq, Repr

/-- An access width, kind and rights a translation is asked for (07 R134, 18 R359). -/
structure Access where
  kind : BitVec 3
  r : Bool
  w : Bool
  x : Bool
  deriving DecidableEq, Repr

/-- The atomic functions (07 Table 7.4). -/
inductive AtomFn where
  | add | and | or | xor | min | max | minu | maxu | xchg | fadd
  deriving DecidableEq, Repr

/-- The object operations performed at a home (11 R223, R224, 17 R336 to R344). -/
inductive ObjOp where
  | bari (drop : Bool) (c : Word)
  | barr | barw | bwait | bdrop | bpois
  | lki | lkacq | lktry | lkrel
  | qi (c : Word) | qpush (v : Word) | qpop
  | wreg | whold | wdrop | wwait (e : Word) (nb : Bool) | wunreg
  | wqry (sel : WqrySel) | ofree
  deriving DecidableEq, Repr

/-- A record appended to a bin set (13 R269): index, value and operation. -/
structure BinRec where
  index : Nat
  value : Word
  op : EappOp
  deriving DecidableEq, Repr

/-- An operation performed indivisibly at the home of its word (16 R311, 06 Table 6.3). -/
inductive HomeOp where
  | read (n : Size) (sx : Bool)
  | readP
  | write (n : Size) (v : Word)
  | nib (hi : Bool) (v : Word)
  | atom (f : AtomFn) (n : Size) (x : Word)
  | cas (n : Size) (e x : Word)
  | take
  | ldf
  | put (v : Word)
  | putWait (v : Word)
  | tagr
  | tagw (nt : Tag) (v : Word)
  | mona (idx : Nat)
  | obj (op : ObjOp)
  | append (handle : Word) (r : BinRec)
  | ngrp (cfg : Word) (raddr : Nat) (sys : Bool)
  | nredi (handle : Word) (elem round : Nat)
  | nfree (handle : Word)
  deriving DecidableEq, Repr

/-- What a reply brings: two values, or a trap with its two words. -/
inductive Result where
  | ok (v0 v1 : Word)
  | trap (c : Cause) (i0 i1 : Word)
  deriving DecidableEq, Repr

/-- A phase of a core: scope (clu, dev or sys) and number (15 R297). -/
structure PhaseId where
  core : Nat
  scope : Scope
  no : Nat
  deriving DecidableEq, Repr

/-- What a slot header names (12 Table 12.2): format code, SE, K', swizzle and scale count. -/
structure SlotHdr where
  fmt : Nat
  se : BitVec 8
  kp : Nat
  swz : Nat
  scnt : Nat
  deriving DecidableEq, Repr

/-- What completes the instruction that a waiting thread holds (06 R119): the destinations its
reply is written to. -/
inductive Comp where
  | unit
  | reg (d : Dst)
  | objD (d : Dst)
  | regPred (d : Dst) (p : PredNo)
  | regTag (d : Dst) (t : Fin 64)
  | mona (idx : Nat)
  | waitm (d : Dst) (deadline : Option Nat)
  | txe
  /-- A transfer whose return PC went to TXE: the target and its TINFO0. -/
  | txeTo (pc src : Word)
  /-- A result that went to TXE: whether the conversion count advances once it is accepted. -/
  | txeRes (conv : Bool)
  /-- A handle that went to TXE: the family whose members start once it is accepted. -/
  | txeFam (fam : Nat)
  | chkpt (id : Word)
  | vload (v : VNo) (n : Size) (m : Option VMask) (need : Nat) (got : List (Nat × Result))
  | copyRec (op : Nat) (d : Dst) (a : Word)
  | ebinRec (d : Dst) (a : Word)
  | ngrpRec (d : Dst) (a : Word) (sys : Bool)
  | drainRec (o : OpTdrain) (dst acc rc : Word)
  /-- Words of a record, read by one request each, then the rest. -/
  | words (need : Nat) (got : List (Nat × Result)) (next : Comp)
  | rpush (d : Dst) (ring : Nat) (h : Word)
  | erepl (d : Dst) (handle : Word) (free : Bool)
  /-- A FENCE, with its ENG. -/
  | fence (eng : Bool)
  /-- The rest of the instruction after the release phases. -/
  | release (next : Comp) (ps : List PhaseId)
  deriving DecidableEq, Repr

/-- Why a thread waits: the stall reason (14 Table 14.7), whether the instruction is held for its
reply or reissues, and what its completion does. -/
structure Wait where
  reason : Nat
  held : Option Comp
  acq : Bool
  /-- The dependent register, object, family or arrival stamp that the wait concerns. -/
  key : Nat
  deriving DecidableEq, Repr

/-- Where the frame of a saved, adopting or halted thread lies (06 R132): its key in memory, its
KIND, its size, whether in the context store, and the key of its vector frame. -/
structure FrameRef where
  key : Nat
  kind : Nat
  size : Nat
  store : Bool
  vkey : Option Nat
  vsize : Nat
  link : Word
  deriving DecidableEq, Repr

/-- A producer's or consumer's reserved ring slot (12 R238, R239): cluster, ring, count; `use` is 0
for a reservation of RPUSH or RPOP, 1 for one that an operation in flight holds, 2 for one that stands for a TLDW
or TMMA that has still to go on, 3 for one kept for the second instruction of a pair (02 R38). -/
structure RingRes where
  cluster : Nat
  ring : Nat
  x : Nat
  use : Nat
  deriving DecidableEq, Repr

/-- A watchpoint match on an access of a thread (14 R278): address as formed, unit, whether the
access was posted, ACT, and the PC of the accessing instruction. -/
structure WatchDue where
  addr : Word
  unit : Nat
  posted : Bool
  act : Nat
  pc : Word
  deriving DecidableEq, Repr

/-- What a packet holds at its receiver (11 R217). -/
inductive PktHold where
  | entry
  | slot (launch : Nat) (n : Nat)
  | discarded
  deriving DecidableEq, Repr

/-- A packet in flight or queued: payload flits with a poison mark. -/
structure Packet where
  id : Nat
  tid : Nat
  launch : Nat
  dst : Nat
  queue : Nat
  send : Word
  header : Word
  flits : List (Word × Bool)
  arrived : Bool
  closed : Bool
  hold : PktHold
  bound : Option Nat
  taken : Nat
  ack : Option Bool
  /-- When its header and its closing flit were sent, in the order of `State.stamp` (15 R290). -/
  no : Nat
  cno : Nat
  deriving DecidableEq, Repr

/-- A thread: its context (03 R44) and its place in the machine. -/
structure Thread where
  /-- The model's name of the thread; it survives migration and adoption. -/
  tid : Nat
  /-- The key of its family in `State.families`, and its member number. -/
  fam : Nat
  k : Nat
  launch : Nat
  core : Nat
  entry : Nat
  dealt : Nat
  life : Life
  readyAt : Nat
  consec : Nat
  forfeits : Nat
  /-- The banks that the instruction it last forfeited needs (06 R124). -/
  lost : BitVec 16
  pc : Word
  preds : BitVec 8
  win : Win
  wbase : Nat
  l : Vector Word 64
  g : Vector Word 16
  sv : Vector Word 16
  dv : Vector Word 16
  dfull : BitVec 16
  swr : BitVec 16
  index : Word
  famid : Word
  parent : Word
  prio : Word
  /-- PRIO.OWN as it is in effect (04 R76). -/
  ownNow : Nat
  eprio : Nat
  status : Word
  thand : Word
  tmask : Word
  round : Word
  convcnt : Word
  rxsel : BitVec 2
  ubank : Bank
  kbank : Bank
  /-- The second cause and its PC of a halt (03 R62). -/
  halt : Option (Cause × Word)
  wait : Option Wait
  /-- When its wait on an object began, in the order of `State.stamp` (17 R330, R334). -/
  since : Nat
  /-- The second word of a pair whose first instruction has completed (02 R38). -/
  half : Option IWord
  /-- The first instruction of its pair has completed, and the second is held (02 R38). -/
  halfDone : Bool
  /-- Its instruction is held by a wait of reason 4, 8 or 15 and has not completed: once the wait ends it goes
  on before its core's next turn, in no turn of its own (02 R38, 06 R119). -/
  holds : Bool
  /-- The copy slot kept for the second instruction of its pair (02 R38). -/
  copyRes : Option Nat
  lines : List HeldLine
  /-- A transfer whose TGT check is due, with its TINFO0 (02 R25). -/
  target : Option Word
  packet : Option OpenPkt
  rxBound : Option (Nat × Nat)
  /-- What its instruction in flight has read of packets: each as it was, and whether it was bound (17 R332). -/
  rxRead : List (Packet × Bool)
  staged : Staged
  cseq : BitVec 8
  openRec : Bool
  claim : Option Claim
  copyn : Nat
  mons : List (Option Mon)
  errRec : Option ErrRec
  copyRec : Option LateRec
  redRec : Option LateRec
  mstat : Word
  ivl : BitVec 16
  prods : List RingRes
  conss : List RingRes
  /-- The object of a WWAIT.nb registration (17 R342), by its key. -/
  wreg : Option Nat
  /-- The DEADLOCK cycle record: object and family handle a pair (17 R332). -/
  cycle : List (Word × Word)
  stopPend : Bool
  /-- The slot a Stopped thread reserves (06 R122). -/
  rslot : Option Nat
  dbg : Nat
  /-- The PC at which it has resumed after a breakpoint: one issue there matches none (14 R275). -/
  suppress : Option Word
  /-- The PC at which a breakpoint trapped it, until it returns from the trap (14 R275). -/
  bpAt : Option Word
  stepping : Bool
  /-- It has been stepped, and its instruction has still to complete (14 R276, R284). -/
  stepDue : Bool
  /-- Resumed alone on a core under a stop (14 R285). -/
  alone : Bool
  /-- The slot of a Stopped thread that it would have displaced: it waits for that slot while the thread is Stopped,
  so that no other slot's turns change (06 R122). -/
  shade : Option Nat
  /-- The watchpoint matches that are due at its boundaries, in order (14 R278). -/
  watch : List WatchDue
  /-- Killed, to end at its next boundary outside a packet (05 R112). -/
  killed : Bool
  /-- A save has been asked for (18 R355, R357): KIND. -/
  savePend : Option Nat
  /-- The family it adopts, and how many adoption frames its entry holds (05 R115). -/
  adopts : Option Nat
  depth : Nat
  /-- The thread whose entry it runs in by adoption. -/
  host : Option Nat
  /-- A guest whose adopter was killed: it keeps its entry to its end (05 R112). -/
  pinned : Bool
  /-- An adopter whose entry a pre-emption has freed (18 R355). -/
  parked : Bool
  /-- Remaining timeout of a saved WAITM (06 R131). -/
  remain : Nat
  /-- DEADLOCK found while saved or stopped, due at restore or resume, with SCAN and TRUNC (17 R332, R334). -/
  dlPend : Option (Bool × Bool)
  /-- Lanes granted to its waiting request, which the reissued instruction takes (09 R174). -/
  laneRes : Option Nat
  /-- Its waiting request for lanes: minimum and desired count. -/
  laneReq : Option (Nat × Nat)
  /-- The grants held before the traps whose banks are in use, 0 without a claim (09 R175). -/
  ugrant : Nat
  kgrant : Nat
  frame : Option FrameRef
  /-- Registers, by specifier, whose code has found an uncorrectable error (06 R133). -/
  ecc : List Nat
  deriving DecidableEq, Repr

/-- No thread: every field at its least value; the issuing context of a machine that issues
nothing. -/
def Thread.idle : Thread where
  tid := 0
  fam := 0
  k := 0
  launch := 0
  core := 0
  entry := 0
  dealt := 0
  life := .ended
  readyAt := 0
  consec := 0
  forfeits := 0
  lost := 0
  pc := 0
  preds := 1
  win := ⟨0, 0, 0⟩
  wbase := 0
  l := Vector.replicate 64 0
  g := Vector.replicate 16 0
  sv := Vector.replicate 16 0
  dv := Vector.replicate 16 0
  dfull := 0
  swr := 0
  index := 0
  famid := 0
  parent := 0
  prio := 0
  ownNow := 0
  eprio := 0
  status := 0
  thand := 0
  tmask := 0
  round := 0
  convcnt := 0
  rxsel := 0
  ubank := Bank.zero
  kbank := Bank.zero
  halt := none
  wait := none
  since := 0
  half := none
  halfDone := false
  holds := false
  copyRes := none
  lines := []
  target := none
  packet := none
  rxBound := none
  rxRead := []
  staged := Staged.initial 0
  cseq := 0
  openRec := false
  claim := none
  copyn := 0
  mons := [none, none, none, none]
  errRec := none
  copyRec := none
  redRec := none
  mstat := 0
  ivl := 0
  prods := []
  conss := []
  wreg := none
  cycle := []
  stopPend := false
  rslot := none
  dbg := 0
  suppress := none
  bpAt := none
  stepping := false
  stepDue := false
  alone := false
  shade := none
  watch := []
  killed := false
  savePend := none
  adopts := none
  depth := 0
  host := none
  pinned := false
  parked := false
  remain := 0
  dlPend := none
  laneRes := none
  laneReq := none
  ugrant := 0
  kgrant := 0
  frame := none
  ecc := []

/-! ### Core level -/

/-- A release phase that has not completed (15 R297, R298): writes sent and performed a terminal,
terminals that have answered its marker, and whether it is closed. -/
structure Phase where
  id : PhaseId
  sent : List (Nat × Nat)
  done : List (Nat × Nat)
  answered : List Nat
  closed : Bool
  deriving DecidableEq, Repr

/-- A linked value kept for a member that has not started (05 R111). -/
structure LinkVal where
  fam : Nat
  k : Nat
  n : Fin 16
  v : Word
  deriving DecidableEq, Repr

/-- A monitor in the table of a home (06 R129). -/
structure MonEntry where
  line : Nat
  tid : Nat
  idx : Nat
  coarse : Bool
  deriving DecidableEq, Repr

/-- A slot of the copy table (13 R252): generation, status word, the issuing thread while in
flight. -/
structure CopySlot where
  gen : BitVec 24
  status : Word
  busy : Bool
  /-- The order in which its last copy completed. -/
  done : Nat
  tid : Nat
  deriving DecidableEq, Repr

/-- The debug registers of a core (14 Tables 14.1 to 14.6) that hold state of their own. -/
structure Debug where
  iba : Vector Word 4
  ibc : Vector Word 4
  wpa : Vector Word 4
  wpc : Vector Word 4
  dctl : Word
  dstat : Word
  dstep : Word
  wha : Word
  whs : Word
  whd : Word
  whf : Word
  sctl : Word
  spc : Word
  srec : Word
  dsel : Word
  sks : Vector Word 16
  deriving DecidableEq, Repr

/-- SCTL.PERIOD, bits 31:8, reads 16 at reset, every other field 0 (14 Table 14.6). -/
def Debug.reset : Debug where
  iba := Vector.replicate 4 0
  ibc := Vector.replicate 4 0
  wpa := Vector.replicate 4 0
  wpc := Vector.replicate 4 0
  dctl := 0
  dstat := 0
  dstep := 0
  wha := 0
  whs := 0
  whd := 0
  whf := 0
  sctl := 0x1000
  spc := 0
  srec := 0
  dsel := 0
  sks := Vector.replicate 16 0

/-- A software tag table entry (06 R130). -/
structure TagEntry where
  key : Word
  slot : BitVec 16
  deriving DecidableEq, Repr

/-- A component of a combined request (16 R314). -/
structure Part where
  tid : Nat
  fam : Nat
  launch : Nat
  src : Nat
  pos : Word
  fidIndex : Word
  va : Word
  posted : Bool
  phase : Option PhaseId
  x : Word
  who : Word
  ivl : BitVec 16
  deriving DecidableEq, Repr

/-- An access in flight to the home of its word (07 R137, 15 R293): who sent it, from which core
and terminal, what it does, and what its reply or notice completes. `elem` is the element of a
vector instruction; `held` are the phases it waits for (15 R298); `posted` asks for no reply. -/
structure Req where
  tid : Nat
  fam : Nat
  launch : Nat
  src : Nat
  /-- Position, and FAMID with INDEX, of the thread as it issued, for watchpoints (14 R278). -/
  pos : Word
  fidIndex : Word
  va : Word
  loc : Loc
  op : HomeOp
  kind : BitVec 3
  scope : Scope
  posted : Bool
  app : Bool
  elem : Nat
  /-- An element of a vector instruction (09 R190). -/
  vec : Bool
  /-- Opcode, writer and interval for the digest of paired mode (20 R395). -/
  opc : Nat
  who : Word
  ivl : BitVec 16
  phase : Option PhaseId
  held : List PhaseId
  /-- The components combined into this one by switches (16 R313), in order. -/
  parts : List Part
  deriving DecidableEq, Repr

/-- A reply on its way to the core of its thread (06 R119), with the address of its access and the
key of its home. -/
structure Reply where
  tid : Nat
  elem : Nat
  res : Result
  va : Word
  home : Nat
  /-- When it was sent, in the order of `State.stamp` (15 R290). -/
  no : Nat
  deriving DecidableEq, Repr

/-- An error notice (07 R138). -/
structure Notice where
  tid : Nat
  launch : Nat
  /-- Position of the thread as it issued. -/
  pos : Word
  cause : Cause
  addr : Word
  /-- The reason a network reduction was discarded for, 0 of another operation (16 R323). -/
  reason : Nat
  req : Option PhaseId
  term : Nat
  /-- When it was sent (15 R290). -/
  no : Nat
  deriving DecidableEq, Repr

/-- An edge of a wait-for table (17 R327): a wait edge or a hold edge between a thread and an
object, in order of arising. `side` tells a wait that is held up by consumers from one that is held
up by producers; an untracked edge is in no table (R333). -/
structure Edge where
  wait : Bool
  die : Nat
  obj : Nat
  name : Word
  tid : Nat
  side : Bool
  tracked : Bool
  deriving DecidableEq, Repr

/-- A party of a barrier (11 R221): the last phase it arrived in, its withdrawn mark, and whether
it has dropped in this phase. -/
structure Party where
  tid : Nat
  /-- FID and INDEX (11 R225). -/
  who : Word
  last : Option Nat
  withdrawn : Bool
  pend : Bool
  deriving DecidableEq, Repr

/-- What a waiter at an object waits for (11 R224, 17 R337, R339, R342). -/
inductive ObjWait where
  | barrier (phase : Nat) (arrived : Bool)
  | lock
  | push (v : Word)
  | pop
  | epoch (e : Nat)
  deriving DecidableEq, Repr

structure ObjWaiter where
  tid : Nat
  va : Word
  kind : ObjWait
  deriving DecidableEq, Repr

/-- The records of an object at its home (11 R221, 17 R328): parties, owner, producers, consumers,
holders and waiters in order of arrival, the capacity of a queue, and who poisoned or abandoned a
barrier (R225). -/
structure Obj where
  cap : Nat
  parties : List Party
  owner : Option Nat
  prods : List Nat
  conss : List Nat
  holders : List Nat
  waiters : List ObjWaiter
  who : Word
  deriving DecidableEq, Repr

def Obj.fresh : Obj where
  cap := 0
  parties := []
  owner := none
  prods := []
  conss := []
  holders := []
  waiters := []
  who := 0

/-- A home slice: its monitors (06 R129) and its two watchpoints with their hit record
(14 R279). -/
structure Slice where
  /-- Open digests by launch number × 2^16 + interval: sum and count; those marked incomplete
  (20 R395). -/
  digests : List (Nat × Word × Nat)
  missedDig : List Nat
  /-- Writes that found no open digest (20 R395). -/
  uncounted : Nat
  mons : List MonEntry
  coarse : List MonEntry
  wpa : Vector Word 2
  wpc : Vector Word 2
  wha : Word
  whs : Word
  whd : Word
  whf : Word
  deriving DecidableEq, Repr

def Slice.reset : Slice where
  digests := []
  missedDig := []
  uncounted := 0
  mons := []
  coarse := []
  wpa := Vector.replicate 2 0
  wpc := Vector.replicate 2 0
  wha := 0
  whs := 0
  whd := 0
  whf := 0

/-- A bin set of an Entrepôt (13 R267 to R272): generation, declaration, records, drop count and
the thread whose replay runs. -/
structure BinSet where
  gen : BitVec 24
  live : Bool
  launch : Nat
  asid : Nat
  desc : List Word
  recs : List BinRec
  dropped : Nat
  /-- Whether its translations are those of app privilege, and the core of its cluster. -/
  app : Bool
  core : Nat
  /-- The thread whose replay runs, whether it frees the set, whether the replay waits on a
  translation, and the regions whose translation was denied. -/
  runner : Option Nat
  /-- The family of the replay's thread, its FID and INDEX, and its interval count. -/
  runFam : Nat
  runWho : Word
  runIvl : BitVec 16
  runFree : Bool
  /-- The thread whose EREPL has found the set free and has still to start its replay. -/
  reserved : Option Nat
  paused : Bool
  skips : List Nat
  deriving DecidableEq, Repr

/-- A partial of a reduction (16 R316): the exact sum, the flags, the count of its contributions and,
for MIN and MAX, the extreme value so far; `res` is the result once formed. -/
structure RedAcc where
  v : Int
  nan : Bool
  pinf : Bool
  ninf : Bool
  nzero : Bool
  count : Nat
  ext : Option Nat
  res : Option Word
  deriving DecidableEq, Repr

/-- A reduction group at its root (16 R318, Table 16.4): its record, its results' base, CUR and the
accumulations of rounds CUR and CUR + 1, the results of round CUR − 1, which of these rounds are broken
(21 R404), the status of Table 16.5, and the threads that wait with round and element. -/
structure RedGroup where
  gen : BitVec 22
  live : Bool
  launch : Nat
  cfg : Word
  raddr : Nat
  sys : Bool
  cur : Nat
  now : List RedAcc
  next : List RedAcc
  prev : List Word
  badPrev : Bool
  badNow : Bool
  badNext : Bool
  rounds : Nat
  err : Nat
  inv : Bool
  ovf : Bool
  lost : Bool
  waiters : List (Nat × Nat × Nat)
  deriving DecidableEq, Repr

/-- A partial on its way to the root of its group: element, round, and the threads that
contributed, with their launches; `valid` tells that the handle was live as it was sent. -/
structure Partial where
  handle : Word
  elem : Nat
  round : Nat
  acc : RedAcc
  /-- Thread, launch and position of each contributor. -/
  who : List (Nat × Nat × Word)
  valid : Bool
  src : Nat
  /-- The cores whose partials have been merged into it. -/
  more : List Nat
  deriving DecidableEq, Repr

/-- The kinds of engine operation (12 R235, 13 R256): a copy with its slot, id and shape record; a
weight load; a tile product with its array's contents given by the array; a region's zeroing; a
drain with its record, taken CONVCNT and rounding mode. -/
inductive EngKind where
  | copy (op : Nat) (slot : Nat) (id : Word) (rec : List Word)
  | tldw (ring x arr : Nat) (slot : Word) (hdr : SlotHdr)
  | tmma (ring x arr : Nat) (slot : Word) (hdr : SlotHdr) (acc : Nat)
  | tzero (acc : Nat)
  | tdrain (o : OpTdrain) (dst : Word) (acc : Nat) (rec : List Word) (mode : Rnd) (srb : List Word)
  deriving DecidableEq, Repr

/-- An engine operation in flight: its ranges by key and length, how many destination words are
done (of a PACK or UNPACK 1 once its payload stands), the lowest failing one with its kind, and whether it waits on
a translation. -/
structure EngOp where
  id : Nat
  tid : Nat
  fam : Nat
  launch : Nat
  core : Nat
  app : Bool
  /-- FAMID, INDEX, interval count and position of the issuing thread, and the engine that runs it. -/
  famid : Word
  index : Word
  ivl : BitVec 16
  who : Word
  unit : Nat
  kind : EngKind
  reads : List (Nat × Nat)
  writes : List (Nat × Nat)
  started : Bool
  pos : Nat
  bad : Option (Nat × Nat)
  paused : Bool
  denied : Bool
  deriving DecidableEq, Repr

/-- A bind record (18 Table 18.4): its eight words, and the launch whose record it is. -/
structure BindRec where
  launch : Nat
  words : Vector Word 8
  /-- An error has been found in it, and the Factor has still to rewrite it (18 Table 18.10). -/
  bad : Bool
  deriving DecidableEq, Repr

/-- The parts of a die: its slot table by record number (18 R352), the overflow count of its wait-for table (17 R333), its network cycle count,
and the number of its next route survey with the cycle it is due in (20 R389). -/
structure Die where
  slots : List (Nat × BindRec)
  overflow : Nat
  survey : Nat
  surveyAt : Nat
  /-- Die network cycle count (20 R386). -/
  netTime : Nat
  deriving DecidableEq, Repr

def Die.reset : Die where
  slots := []
  overflow := 0
  survey := 0
  surveyAt := 2 ^ 20
  netTime := 0

/-- A deferred TAKE or LDF, or a queued PUT.wait, at the word's home (06 R127). -/
structure Defer where
  key : Nat
  tid : Nat
  take : Bool
  put : Option Word
  va : Word
  /-- Launch, writer, interval and opcode for the digest of paired mode (20 R395). -/
  launch : Nat
  who : Word
  ivl : BitVec 16
  opc : Nat
  deriving DecidableEq, Repr

/-- A value on its way to a deferred thread (06 R128). -/
structure Deliver where
  tid : Nat
  v : Word
  /-- The address of the deferred operation. -/
  va : Word
  /-- The key of the word that sent it, and when (15 R290). -/
  home : Nat
  no : Nat
  deriving DecidableEq, Repr

/-- A monitor wake on its way (06 R129). -/
structure Wake where
  tid : Nat
  idx : Nat
  line : Nat
  /-- When it was sent (15 R290). -/
  no : Nat
  deriving DecidableEq, Repr

/-- A thread that held or took a slot while a cluster stop was on its way (14 R282). -/
structure SkidRec where
  slot : Nat
  entry : Nat
  tid : Nat
  issued : Bool
  deriving DecidableEq, Repr

/-- A cluster stop (or, `stop` false, a resume) on its way to a core: the cycle it arrives at and
what DSTAT records of it (14 R280, R281). -/
structure StopMsg where
  due : Nat
  /-- The core's cycle at the trigger (14 R282). -/
  sent : Nat
  stop : Bool
  origin : Nat
  unit : Nat
  ocore : Nat
  /-- The threads that held a slot of the core at the trigger, or took one since. -/
  skids : List SkidRec
  deriving DecidableEq, Repr

/-- What the last turn of a core issued, for the sampler (14 R287): the thread with its entry and
FAMID[31:0], the PC of the first slot, and the reason, 0 issued or 2 forfeited. -/
structure IssueRec where
  tid : Nat
  pc : Word
  entry : Nat
  fid : Nat
  reason : Nat
  deriving DecidableEq, Repr

/-- A barrel core (06). `bankUsed` are the banks that queued accesses have taken in the current
cycle (R124); `queue` the accesses that have arrived at its banks, in order; `errs` the error
counters (R133); `stopAll` a core stop in effect and `pendStop` the cluster stops and resumes on their way, in
the order in which they arrive (14 R281, R285); `stopped` the channels of the network that the core finds
stopped: bit 0 requests, 1 messages, 2 reductions (15 R291). -/
structure Core where
  cycle : Nat
  bankUsed : BitVec 16
  /-- Words that accesses which came first still take at each bank, one in each later cycle (06 R124). -/
  bankLoad : Vector Nat 16
  queue : List Req
  tagTable : List (Nat × TagEntry)
  mons : List MonEntry
  coarse : List MonEntry
  copies : List (Nat × CopySlot)
  packets : List Packet
  rxq : List (List Nat)
  spill : List (List Nat)
  cur : Vector Nat 3
  phases : List Phase
  links : List LinkVal
  errs : Nat
  dbg : Debug
  stopAll : Bool
  pendStop : List StopMsg
  lastOcc : List (Nat × Nat)
  lastIssue : Option IssueRec
  patrol : Nat
  sampleAt : Nat
  stopped : BitVec 3
  deriving DecidableEq, Repr

/-- Core reset (06 R125). -/
def Core.reset : Core where
  cycle := 0
  bankUsed := 0
  bankLoad := Vector.replicate 16 0
  queue := []
  tagTable := []
  mons := []
  coarse := []
  copies := []
  packets := []
  rxq := [[], [], [], []]
  spill := [[], [], [], []]
  cur := Vector.replicate 3 0
  phases := []
  links := []
  errs := 0
  dbg := Debug.reset
  stopAll := false
  pendStop := []
  lastOcc := []
  lastIssue := none
  patrol := 0
  sampleAt := 0
  stopped := 0

/-! ### Families and launches -/

/-- A family (05): its description, its members by number, its break point and what its members
have left in their shareds. `fwd` holds the members (with the shared's number) that ended with
Sn unwritten before Dn arrived (03 R51). -/
structure Fam where
  launch : Nat
  record : Nat
  gen : BitVec 8
  fid : BitVec 32
  st : Staged
  prio : Nat
  ceil : Nat
  pl : BitVec 2
  thand : Word
  tmask : Word
  ivl : BitVec 16
  parent : Word
  creator : Option Nat
  place : List Nat
  n : Nat
  started : List Nat
  ended : List Nat
  adopted : Bool
  brk : Option Nat
  killed : Bool
  finals : Vector (Option Word) 16
  fwd : List (Nat × Nat)
  fin : Bool
  queued : Nat
  live : Bool
  deriving DecidableEq, Repr

/-- Where a launch stands (18). -/
inductive LaunchState where
  | waiting
  | bound
  | started
  | complete
  deriving DecidableEq, Repr

/-- A report appended to the launch state block (18 R365): event code of Table 18.11 and two
words naming what it concerns. -/
structure Report where
  event : Nat
  who : Word
  addr : Word
  /-- What else the report carries: both causes, or the fields of a record (18 Table 18.10). -/
  info : List Word
  deriving DecidableEq, Repr

/-- A launch (18 Table 18.1): its descriptor, its place, its first scratchpad offset on each core,
the members it may start, its reports and its saved-thread list. -/
structure Launch where
  desc : Vector Word 40
  state : LaunchState
  place : List Nat
  spbase : List (Nat × Nat)
  root : Nat
  gens : List (Nat × BitVec 8)
  spills : Nat
  killed : Bool
  reports : List Report
  saved : List Nat
  status : Nat
  order : Nat
  pre : List Nat
  /-- The address of its launch state block (18 Table 18.4). -/
  lstate : Word
  deriving DecidableEq, Repr

/-- Linked values between cores (05 R111), in order of sending. -/
structure LinkMsg where
  fam : Nat
  k : Nat
  n : Fin 16
  v : Word
  /-- The core that sent it, and when (15 R290). -/
  src : Nat
  no : Nat
  deriving DecidableEq, Repr

/-! ### Translation (18 R359 to R363) -/

/-- A leaf in a translation cache: address space, page (VA [55:0] div page size), log2 of the page
size, physical base, and its rights. -/
structure TlbEntry where
  asid : Nat
  page : Nat
  log : Nat
  pa : Nat
  r : Bool
  w : Bool
  x : Bool
  k : Bool
  deriving DecidableEq, Repr

/-- What waits on a walk or a fault record: SRC of Table 18.8 with the thread, copy, operation or
replay it names, its address, access and element ordinal. -/
structure Waiter where
  src : Nat
  id : Nat
  va : Word
  acc : Access
  app : Bool
  elem : Nat
  deriving DecidableEq, Repr

/-- A walk in flight for a cluster, an address space and a 64 KiB page. -/
structure Walk where
  cluster : Nat
  launch : Nat
  asid : Nat
  page : Nat
  waiters : List Waiter
  deriving DecidableEq, Repr

/-- A fault record that awaits its answer (18 R361). -/
structure FaultRec where
  token : Nat
  launch : Nat
  cluster : Nat
  who : Waiter
  fkind : Nat
  level : Nat
  deriving DecidableEq, Repr

/-- The owner of a counter bank or trace unit (19 R381): none, a hypervisor context with a guest
that it revoked, or a guest. -/
inductive Owner where
  | free
  | hyp (mid : Nat) (revoked : Option Nat)
  | guest (mid : Nat)
  deriving DecidableEq, Repr

/-- What a counter bank or trace unit answers to a claim or an access (19 Table 19.8). -/
inductive UnitAnswer where
  | granted
  | busy
  | busyHyp
  | revoked
  deriving DecidableEq, Repr

/-- An operand ring (12 R231): configuration, counts, and the counts published and released out of
order. -/
structure Ring where
  base : Word
  cfg : Word
  res : Nat
  pub : Nat
  cons : Nat
  pop : Nat
  published : List Nat
  released : List Nat
  deriving DecidableEq, Repr

/-- A matrix array (12 R228, R241, R249, R410): holder, what TLDW latched, the tile's element and
scale bytes, and the marks of a load that found POISON, EMPTY or OBJECT. -/
structure MArray where
  holder : Option Nat
  fmt : Nat
  se : BitVec 8
  kp : Nat
  swz : Nat
  red : Bool
  tile : List Byte
  poisoned : Bool
  faulted : Bool
  deriving DecidableEq, Repr

/-- The parts of a cluster: translation cache and enabled cores (19 R373), rings and arrays. -/
structure Cluster where
  tlb : List TlbEntry
  encnt : Nat
  disabled : List Nat
  /-- HCNT.DEGR. -/
  degr : Bool
  rings : List (Nat × Ring)
  arrays : List (Nat × MArray)
  counts : Vector Word 16
  csel : Vector Word 16
  owner : Owner
  deriving DecidableEq, Repr

def Cluster.reset : Cluster where
  tlb := []
  encnt := 128
  disabled := []
  degr := false
  rings := []
  arrays := []
  counts := Vector.replicate 16 0
  csel := Vector.replicate 16 0
  owner := .free

/-- A trace record (20 R386): source as word 0 [36:20], type, time, number and payload. -/
structure TraceRec where
  src : Nat
  typ : Nat
  time : Nat
  seq : Nat
  payload : List Word
  deriving DecidableEq, Repr

/-- A tap (20 R387): the next number of its source, the records it holds, and how many it dropped
since its last accepted record. -/
structure Tap where
  seq : Nat
  recs : List TraceRec
  dropped : Nat
  deriving DecidableEq, Repr

/-- A staging buffer that holds a sealed waybill (20 R392): its number, WSEQ, whether its Write is
in flight. -/
structure StageBuf where
  buf : Nat
  wseq : Nat
  sent : Bool
  deriving DecidableEq, Repr

/-- A Write command of the trace unit that its controller has still to complete (20 R392): the staging buffer and the
waybill it writes, the root port, the first of its 256 LBAs, and the address of its data. -/
structure TraceCmd where
  buf : Nat
  wseq : Nat
  port : Nat
  lba : Nat
  addr : Nat
  deriving DecidableEq, Repr

/-- The trace unit (20 Table 20.4, R390 to R392): registers, taps, the record words of the open
waybill, the chain digest, the sealed waybills, the Writes issued since TRLBA or TRLBAN was set, and those in
flight. -/
structure Trace where
  ctl : Word
  base : Word
  n : Word
  lba : Word
  lban : Word
  nonce : Word
  lost : Nat
  werr : Nat
  taps : List (Nat × Tap)
  wseq : Nat
  opened : List Word
  digest : Vector Word 8
  bufs : List StageBuf
  writes : Nat
  cmds : List TraceCmd
  owner : Owner
  deriving DecidableEq, Repr

def Trace.reset : Trace where
  ctl := 0
  base := 0
  n := 4
  lba := 0
  lban := 0
  nonce := 0
  lost := 0
  werr := 0
  taps := []
  wseq := 0
  opened := []
  digest := Vector.replicate 8 0
  bufs := []
  writes := 0
  cmds := []
  owner := .free

/-- A submission queue (19 Table 19.4): SQBASE, SQCFG, SQTAIL, SQHEAD.HEAD and SQHEAD.DROP, and the
master that wrote SQTAIL last. -/
structure SubQueue where
  base : Word
  cfg : Word
  tail : Nat
  head : Nat
  drop : Nat
  mid : Nat
  deriving DecidableEq, Repr

def SubQueue.reset : SubQueue := ⟨0, 4, 0, 0, 0, 0⟩

/-- The fault queue (18 Table 18.12): FQBASE, FQCFG, FQTAIL, FQHEAD, FQSTAT.STRAY; the records that
await room, and the number of the next TOKEN. -/
structure FaultQueue where
  base : Word
  cfg : Word
  tail : Nat
  head : Nat
  stray : Nat
  waiting : List (List Word)
  token : Nat
  deriving DecidableEq, Repr

def FaultQueue.reset : FaultQueue := ⟨0, 4, 0, 0, 0, [], 1⟩

/-- An event that the Factor has still to record (18 R365, 21 R405): its code, its launch with the launch
number, and two words. -/
structure FaultNote where
  code : Nat
  launch : Nat
  lnum : Nat
  who : Word
  addr : Word
  deriving DecidableEq, Repr

/-- An invalidation that has not completed (18 R364): ASID, the range of addresses, and the pages of the leaves that
it dropped, by base and log2 of the size. -/
structure Inval where
  asid : Nat
  lo : Nat
  hi : Nat
  pages : List (Nat × Nat)
  deriving DecidableEq, Repr

/-- An attestation quote (19 R383): the bytes signed, the signature, and the certificate. -/
structure Quote where
  body : List Byte
  sign : List Byte
  cert : List Byte
  deriving DecidableEq, Repr

/-- The parts of the package: links and routes, the trace unit, features (02 R35, 19 R378),
submission queues, fault queue, power (19 R384), boot and measurements (19 R382, R383), paired mode
(20 R394) and recovery (21 Table 21.1). -/
structure Pkg where
  /-- Failed retrains in a row of a link, 3 when it is down: die links by 32 × lower die + 4 × other
  die + k (die 4 is the H-die), Gulong ports by 1024 + port (19 R366, R368, R369, 21 R403). -/
  links : List (Nat × Nat)
  /-- Links that retrain; the Gulong ports from reset until they are trained (21 Table 21.1, GPST.UP). -/
  retrains : List Nat
  /-- GRTE entries by package (21 Table 21.1). -/
  grte : List (Nat × Word)
  /-- Reduction groups whose root another package holds: launch, handle and RADDR (16 R322, 21 R404). -/
  farGroups : List (Nat × Word × Nat)
  npkg : Nat
  trace : Trace
  /-- The last answer of each unit to a claim or to a revoked guest, with the master it went to, by unit: a
  cluster's counter bank, or 48 the trace unit (19 R381). -/
  unitAns : List (Nat × Nat × UnitAnswer)
  /-- Cores, by cluster and physical number, whose retirement would have left fewer than 124: the Factor's reports
  (19 R374). -/
  coreReports : List (Nat × Nat)
  /-- Copies that have ended with STATE 4, by launch (21 R407). -/
  cutCopies : List (Nat × Nat)
  pstat : Word
  pmode : Bool
  feat : Vector Word 4
  fadv : Vector Word 4
  acc : Vector Word 4
  committed : Bool
  num : Nat
  queues : Vector SubQueue 16
  fq : FaultQueue
  notes : List FaultNote
  /-- Slice watchpoints whose hits the Factor has heard of: twice the slice, and the watchpoint (14 R279). -/
  hits : List Nat
  invals : List Inval
  pcap : Word
  /-- The arithmetic clock in MHz. -/
  clock : Nat
  tripped : Bool
  bstat : Word
  meas : List (BitVec 512)
  quote : Option Quote
  /-- FSTAT.STATE and FSTAT.EVENTS. -/
  fstate : Nat
  events : Nat
  fcap : Word
  deriving DecidableEq, Repr

def Pkg.reset : Pkg where
  links := []
  retrains := (List.range 16).map (1024 + ·)
  grte := []
  farGroups := []
  feat := ⟨#[1, 0, 0, 0], rfl⟩
  fadv := ⟨#[0x3FF, 0xF, 0, 0], rfl⟩
  acc := ⟨#[0, 0, 0, 0], rfl⟩
  committed := false
  num := 0
  npkg := 1
  trace := Trace.reset
  unitAns := []
  coreReports := []
  cutCopies := []
  pstat := 0
  pmode := false
  queues := Vector.replicate 16 SubQueue.reset
  fq := FaultQueue.reset
  notes := []
  hits := []
  invals := []
  pcap := 5200
  clock := 850
  tripped := false
  bstat := 0
  meas := List.replicate 8 0
  quote := none
  fstate := 0
  events := 0
  fcap := 0

/-! ### The machine -/

/-- What the last issue of an instruction did, for the rules of pairs (02 R38). -/
inductive Flow where
  /-- Completed, next in sequence. -/
  | seq
  /-- Completed by a transfer of control. -/
  | jump
  /-- Held: it completes with a later event. -/
  | held
  /-- The thread has ended, or another context runs in its entry. -/
  | gone
  | trapped
  /-- Reissues when its wait of the given reason ends. -/
  | waiting (reason : Nat)
  | forfeited
  deriving DecidableEq, Repr

/-- The whole machine. `cur` is the thread whose turn it is, taken out of `threads` while `busy`;
`inTurn` tells a turn from the completion of a held instruction; `second` says that it issues the second instruction of a pair, `flow` what the last issue did;
`agenda` are the events still to happen, `choice` and `free` count the free choices and free
values taken, `stamp` the names given (log 3 to 5). -/
structure State where
  cur : Thread
  busy : Bool
  inTurn : Bool
  second : Bool
  flow : Flow
  agenda : List Instr
  choice : Nat
  free : Nat
  stamp : Nat
  mem : Memory
  threads : List (Nat × Thread)
  cores : List (Nat × Core)
  fams : List (Nat × Fam)
  launches : List (Nat × Launch)
  reqs : List Req
  replies : List Reply
  notices : List Notice
  defers : List Defer
  delivers : List Deliver
  wakes : List Wake
  linkMsgs : List LinkMsg
  pkts : List Packet
  walks : List Walk
  faults : List FaultRec
  /-- Faults of elements of vector instructions that wait to be reported with the others of their instruction
  (18 R361). -/
  elemFaults : List FaultRec
  clusters : List (Nat × Cluster)
  dies : List (Nat × Die)
  slices : List (Nat × Slice)
  /-- Access table entries by target × 256 + index (19 R380). -/
  atab : List (Nat × Word)
  objs : List (Nat × Obj)
  edges : List Edge
  /-- Engine operations in flight, in order of issue (12 R235, 13 R256). -/
  engines : List EngOp
  /-- Bin sets by die × 64 + set. -/
  bins : List (Nat × BinSet)
  /-- Reduction groups by die × 256 + group, and partials in flight (16 R316). -/
  groups : List (Nat × RedGroup)
  partials : List Partial
  /-- Operations that wait at a home slice for their line (16 R311). -/
  missed : List Req
  pkg : Pkg
  deriving DecidableEq, Repr

/-- The machine right after reset (06 R125, 02 R35, 14, 18, 19, 20, 21): no thread, family, launch
or request; memory lists nothing; every register at the value that the spec gives, or that the log
names. -/
def State.reset : State where
  cur := Thread.idle
  busy := false
  inTurn := false
  second := false
  flow := .seq
  agenda := []
  choice := 0
  free := 0
  stamp := 0
  mem := ⟨[], []⟩
  threads := []
  cores := []
  fams := []
  launches := []
  reqs := []
  replies := []
  notices := []
  defers := []
  delivers := []
  wakes := []
  linkMsgs := []
  pkts := []
  walks := []
  faults := []
  elemFaults := []
  clusters := []
  dies := []
  slices := []
  atab := []
  objs := []
  edges := []
  engines := []
  bins := []
  groups := []
  partials := []
  missed := []
  pkg := Pkg.reset

end Sys2Proof.Machine
end

