-- ==== Sys2Proof/Machine/Tab.lean ====
section
/-! DEFINITION. Keyed collections as lists of pairs with rising keys, memory as cells, and the
small helpers over bits and lists that the meanings share. -/

namespace Sys2Proof.Machine

/-- The value at a key. -/
def tabGet {α : Type} (t : List (Nat × α)) (k : Nat) : Option α :=
  match t with
  | [] => none
  | (j, v) :: r => if j = k then some v else tabGet r k

/-- Put a value at a key, in place or in key order. -/
def tabSet {α : Type} (t : List (Nat × α)) (k : Nat) (v : α) : List (Nat × α) :=
  match t with
  | [] => [(k, v)]
  | (j, u) :: r =>
    if k < j then (k, v) :: (j, u) :: r
    else if k = j then (k, v) :: r
    else (j, u) :: tabSet r k v

/-- Remove a key. -/
def tabErase {α : Type} (t : List (Nat × α)) (k : Nat) : List (Nat × α) :=
  match t with
  | [] => []
  | (j, u) :: r => if j = k then tabErase r k else (j, u) :: tabErase r k

/-- Keys strictly rising. -/
def tabSorted {α : Type} (t : List (Nat × α)) : Bool :=
  match t with
  | [] => true
  | (j, _) :: r => (match r with
      | [] => true
      | (k, _) :: _ => decide (j < k)) && tabSorted r

/-- A member put into an ascending list without repeats. -/
def setInsert (l : List Nat) (n : Nat) : List Nat :=
  match l with
  | [] => [n]
  | m :: r => if n < m then n :: m :: r else if n = m then m :: r else m :: setInsert r n

/-- The first element that satisfies `p`, with the list without it. -/
def takeFirst {α : Type} (p : α → Bool) (l : List α) : Option (α × List α) :=
  match l with
  | [] => none
  | x :: r => if p x then some (x, r) else
      match takeFirst p r with
      | some (y, r') => some (y, x :: r')
      | none => none

/-- The first `some`. -/
def firstSome {α β : Type} (f : α → Option β) (l : List α) : Option β :=
  match l with
  | [] => none
  | x :: r => match f x with
    | some y => some y
    | none => firstSome f r

/-- The `n`th element removed. -/
def removeAt {α : Type} (l : List α) (n : Nat) : List α := l.take n ++ l.drop (n + 1)

/-- The element with the least key, the earliest among equals. -/
def leastBy {α : Type} (key : α → Nat) (l : List α) : Option α :=
  match l with
  | [] => none
  | x :: r => match leastBy key r with
    | none => some x
    | some y => if key x ≤ key y then some x else some y

/-! ### Memory (06 R126, 07 R135) -/

/-- The key of a byte: device memory from 0, core scratchpads above it. -/
def Loc.key (a : Loc) : Nat :=
  match a with
  | .dev pa => pa
  | .sp core off => 2 ^ 60 + core * 2 ^ 18 + off

/-- What a byte that is not listed reads as (log 2). -/
def unlistedByte : Byte := 0

/-- The byte at a key. -/
def Memory.byte (m : Memory) (k : Nat) : Byte := (tabGet m.bytes k).getD unlistedByte

/-- Write a byte, keeping the canonical form. -/
def Memory.setByte (m : Memory) (k : Nat) (b : Byte) : Memory :=
  { m with bytes := if b = unlistedByte then tabErase m.bytes k else tabSet m.bytes k b }

/-- The tag of the word at a word key. -/
def Memory.tag (m : Memory) (k : Nat) : Tag := (tabGet m.tags k).getD .full

/-- Write a tag, keeping the canonical form. -/
def Memory.setTag (m : Memory) (k : Nat) (t : Tag) : Memory :=
  { m with tags := if t = .full then tabErase m.tags k else tabSet m.tags k t }

/-- `n` bytes from a key, little-endian. -/
def Memory.loadN (m : Memory) (k : Nat) (n : Nat) : Nat :=
  match n with
  | 0 => 0
  | j + 1 => (m.byte k).toNat + 256 * m.loadN (k + 1) j

/-- The low `n` bytes of `v` to a key, little-endian. -/
def Memory.storeN (m : Memory) (k : Nat) (n : Nat) (v : Nat) : Memory :=
  match n with
  | 0 => m
  | j + 1 => (m.setByte k (BitVec.ofNat 8 v)).storeN (k + 1) j (v / 256)

/-- The word at a key. -/
def Memory.word (m : Memory) (k : Nat) : Word := BitVec.ofNat 64 (m.loadN k 8)

/-- Write a word with its tag. -/
def Memory.setWord (m : Memory) (k : Nat) (v : Word) (t : Tag) : Memory :=
  (m.storeN k 8 v.toNat).setTag k t

/-- Memory lists its bytes and tags in canonical form. -/
def Memory.wf (m : Memory) : Bool :=
  tabSorted m.bytes && m.bytes.all (fun c => c.2 != unlistedByte) &&
    tabSorted m.tags && m.tags.all (fun c => c.2 != Tag.full)

/-! ### Bits -/

def boolWord (b : Bool) : Word := if b then 1 else 0

/-- Bits [hi:lo] as a number. -/
def bits (w : Word) (hi lo : Nat) : Nat := w.toNat / 2 ^ lo % 2 ^ (hi + 1 - lo)

/-- Bits [hi:lo] replaced. -/
def setBits (w : Word) (hi lo : Nat) (v : Nat) : Word :=
  let m := 2 ^ (hi + 1 - lo)
  BitVec.ofNat 64 (w.toNat - bits w hi lo * 2 ^ lo + v % m * 2 ^ lo)

/-- Bit `i` set or cleared. -/
def setBit (w : Word) (i : Nat) (b : Bool) : Word := setBits w i i (if b then 1 else 0)

def sizeBytes (z : Size) : Nat :=
  match z with
  | .b8 => 1
  | .b16 => 2
  | .b32 => 4
  | .b64 => 8

def sizeBits (z : Size) : Nat := 8 * sizeBytes z

/-- The low `n` bits of a word, zero-extended. -/
def zext (n : Nat) (w : Word) : Word := BitVec.ofNat 64 (w.toNat % 2 ^ n)

/-- The low `n` bits of a word, sign-extended. -/
def sext (n : Nat) (w : Word) : Word :=
  let v := w.toNat % 2 ^ n
  if v < 2 ^ (n - 1) then BitVec.ofNat 64 v else BitVec.ofNat 64 (2 ^ 64 + v - 2 ^ n)

/-- The two's-complement value of the low `n` bits. -/
def sintN (n : Nat) (w : Word) : Int :=
  let v := w.toNat % 2 ^ n
  if v < 2 ^ (n - 1) then (v : Int) else (v : Int) - (2 : Int) ^ n

/-! ### The PC (02 R22) -/

/-- Linear(pc). -/
def linear (pc : Word) : Nat := bits pc 63 6 * 5 + bits pc 2 0

/-- SlotAdd(pc, n). -/
def slotAdd (pc : Word) (n : Int) : Word :=
  let m : Int := (linear pc : Int) + n
  BitVec.ofInt 64 (m / 5 * 64) ||| BitVec.ofInt 64 (m % 5)

/-- The form check of a target (02 R24). -/
def targetFormFails (pc : Word) : Bool :=
  bits pc 5 3 != 0 || decide (4 < bits pc 2 0) || bits pc 63 56 != 0

/-- Place a number of slots in a line (02 R19): slot `i` of a line. -/
def lineSlot (l : Line) (i : Nat) : IWord := BitVec.ofNat 96 (l.toNat / 2 ^ (96 * i))

/-- The line word (02 R20). -/
def lineWord (l : Line) : BitVec 32 := BitVec.ofNat 32 (l.toNat / 2 ^ 480)

/-- Whether an odd number of the low `n` bits is set. -/
def oddOnes (v : Nat) (n : Nat) : Bool :=
  match n with
  | 0 => false
  | j + 1 => (v % 2 == 1) != oddOnes (v / 2) j

/-! ### Core numbers (03 Table 3.5, 05 R97) -/

/-- A core from die, cluster and logical core. -/
def coreNo (die cluster core : Nat) : Nat := (die * 12 + cluster) * 128 + core

/-- The cluster (die × 12 + cluster) of a core. -/
def clusterOf (c : Nat) : Nat := c / 128

def dieOf (c : Nat) : Nat := c / 1536

end Sys2Proof.Machine
end

