-- ==== Sys2Proof/Machine/Threads.lean ====
section
/-! DEFINITION. Finding and changing the parts of a machine: cores, clusters, threads, families,
launches; waking a waiting thread; free choices and free values. -/

namespace Sys2Proof.Machine

def State.core (s : State) (c : Nat) : Core := (tabGet s.cores c).getD Core.reset

def State.setCore (s : State) (c : Nat) (x : Core) : State :=
  { s with cores := tabSet s.cores c x }

def State.modCore (s : State) (c : Nat) (f : Core → Core) : State := s.setCore c (f (s.core c))

def State.cluster (s : State) (c : Nat) : Cluster := (tabGet s.clusters c).getD Cluster.reset

def State.modCluster (s : State) (c : Nat) (f : Cluster → Cluster) : State :=
  { s with clusters := tabSet s.clusters c (f (s.cluster c)) }

/-- A change of the issuing thread. -/
def State.updCur (s : State) (f : Thread → Thread) : State := { s with cur := f s.cur }

/-- A thread by its name: the issuing one or one of the table. -/
def State.thread? (s : State) (tid : Nat) : Option Thread :=
  if s.busy && s.cur.tid == tid then some s.cur else tabGet s.threads tid

def State.putThread (s : State) (t : Thread) : State :=
  if s.busy && s.cur.tid == t.tid then { s with cur := t }
  else { s with threads := tabSet s.threads t.tid t }

def State.modThread (s : State) (tid : Nat) (f : Thread → Thread) : State :=
  if s.busy && s.cur.tid == tid then { s with cur := f s.cur }
  else match tabGet s.threads tid with
    | some t => { s with threads := tabSet s.threads tid (f t) }
    | none => s

/-- Every thread. -/
def State.allThreads (s : State) : List Thread :=
  (if s.busy then [s.cur] else []) ++ s.threads.map (·.2)

/-- The threads that hold an entry of a core. -/
def State.onCore (s : State) (c : Nat) : List Thread :=
  s.allThreads.filter fun t => t.core == c && t.life != .saved && t.life != .ended

def State.fam? (s : State) (f : Nat) : Option Fam := tabGet s.fams f

def State.modFam (s : State) (f : Nat) (g : Fam → Fam) : State :=
  match tabGet s.fams f with
  | some x => { s with fams := tabSet s.fams f (g x) }
  | none => s

def State.launch? (s : State) (l : Nat) : Option Launch := tabGet s.launches l

def State.modLaunch (s : State) (l : Nat) (g : Launch → Launch) : State :=
  match tabGet s.launches l with
  | some x => { s with launches := tabSet s.launches l (g x) }
  | none => s

/-- A change of every thread of the machine. -/
def State.mapThreads (s : State) (f : Thread → Thread) : State :=
  { s with cur := if s.busy then f s.cur else s.cur
           threads := s.threads.map fun (k, t) => (k, f t) }

/-- A new name. -/
def State.fresh (s : State) : Nat × State := (s.stamp, { s with stamp := s.stamp + 1 })

/-- A free value (log 5). -/
def State.freeVal (s : State) : Word × State :=
  (Config.freeWord s.free, { s with free := s.free + 1 })

/-- A free choice below `n` (log 5). -/
def State.choose (s : State) (n : Nat) : Nat × State :=
  (Config.pick s.choice % n, { s with choice := s.choice + 1 })

/-- A free choice among the elements of a list. -/
def State.chooseFrom {α : Type} (s : State) (l : List α) : Option α × State :=
  match l with
  | [] => (none, s)
  | [x] => (some x, s)
  | _ => let (i, t) := s.choose l.length
         (l[i]?, t)

/-- The ready stamp of a thread that becomes ready at core cycle `c` (06 R120); a YIELD at `c`
comes after every thread that becomes ready at `c`. -/
def readyStamp (c : Nat) (yielded : Bool) : Nat := 2 * c + (if yielded then 1 else 0)

/-- The wait of a thread ends at the current cycle of its core: Ready from the next one
(06 R119), or Stopped if a stop is pending (14 R281); one that holds its instruction goes on first
(02 R38), and a Stopped, Halted or saved thread stays so (11 R219). -/
def State.wake (s : State) (tid : Nat) : State :=
  s.modThread tid fun t =>
    let t := { t with wait := none }
    if t.life = .waiting && t.holds then t
    else if t.life = .waiting && t.stopPend then
      { t with life := .stopped, stopPend := false, rslot := none }
    else if t.life = .waiting then
      { t with life := .ready, readyAt := readyStamp ((s.core t.core).cycle + 1) false }
    else t

/-- Wake every waiting thread that satisfies `p`. -/
def State.wakeWhere (s : State) (p : Thread → Bool) : State :=
  (s.allThreads.filter fun t => t.wait.isSome && p t).foldl (fun u t => u.wake t.tid) s

/-- A thread waits with a reason and a key. -/
def Thread.waitsFor (t : Thread) (reason key : Nat) : Bool :=
  match t.wait with
  | some w => w.reason == reason && w.key == key
  | none => false

def Thread.waitReason (t : Thread) : Nat :=
  match t.wait with
  | some w => w.reason
  | none => 0

/-- The stall reason of a thread: 14 of a Stopped one (14 Table 14.7). -/
def Thread.stall (t : Thread) : Nat := if t.life = .stopped then 14 else t.waitReason

/-- W of a window (03 R45). -/
def windowSize (w : Win) : Nat := max 8 (8 * ((w.l + w.g + 2 * w.s + 7) / 8))

/-- Threads that hold their registers: a saved or adopting thread holds none (18 R355, 05 R115). -/
def Thread.holdsWindow (t : Thread) : Bool :=
  match t.life with
  | .saved => false
  | .adopting => false
  | .ended => false
  | _ => true

/-- Threads that hold a thread entry of their own: one that runs by adoption uses its host's; one whose
adopter was killed keeps its entry to its end (05 R112), and an adopter that was pre-empted has none
(18 R355). -/
def Thread.holdsEntry (t : Thread) : Bool :=
  t.life != .ended && !t.parked && (t.pinned || (t.host.isNone && t.life != .saved))

/-- The lowest-addressed run of `w` free registers on a core (03 R46): a start that is a multiple
of 8. -/
def State.freeRun (s : State) (c w : Nat) : Option Nat :=
  let used := (s.onCore c).filterMap fun t =>
    if t.holdsWindow then some (t.wbase, windowSize t.win) else none
  ((List.range 512).map (· * 8)).find? fun b =>
    decide (b + w ≤ 4096) && used.all fun (u, n) => decide (b + w ≤ u) || decide (u + n ≤ b)

/-- Registers a launch's threads hold on a core. -/
def State.regsUsed (s : State) (c launch : Nat) : Nat :=
  ((s.onCore c).filter fun t => t.holdsWindow && t.launch == launch).foldl
    (fun n t => n + windowSize t.win) 0

/-- Thread entries a launch's threads hold on a core. -/
def State.entriesUsed (s : State) (c launch : Nat) : Nat :=
  (s.allThreads.filter fun t => t.core == c && t.holdsEntry && t.launch == launch).length

/-- The free thread entries of a core, ascending. -/
def State.freeEntries (s : State) (c : Nat) : List Nat :=
  let used := s.allThreads.filterMap fun t => if t.core == c && t.holdsEntry then some t.entry else none
  (List.range 256).filter fun e => !used.contains e

/-- Descriptor field bits (18 Table 18.1). -/
def Launch.field (l : Launch) (w hi lo : Nat) : Nat := bits (l.desc.toList.getD w 0) hi lo

def Launch.word (l : Launch) (w : Nat) : Word := l.desc.toList.getD w 0

def Launch.lnum (l : Launch) : Nat := l.field 0 31 0
def Launch.depth (l : Launch) : Nat := l.field 6 27 24
def Launch.entries (l : Launch) : Nat := l.field 8 8 0
def Launch.regs (l : Launch) : Nat := l.field 8 24 12
def Launch.asid (l : Launch) : Nat := l.field 34 11 0
def Launch.rootTable (l : Launch) : Nat := (l.word 35).toNat
def Launch.rmask (l : Launch) : Nat := l.field 14 63 32

/-- STATUS.PL (03 R53). -/
def Thread.pl (t : Thread) : Nat := bits t.status 1 0

/-- The grant of a thread's claim, 0 without one. -/
def Thread.grantNow (t : Thread) : Nat :=
  match t.claim with
  | some c => c.grant
  | none => 0

/-! ### Bind records (18 Table 18.4) -/

def BindRec.bits (r : BindRec) (w hi lo : Nat) : Nat := Machine.bits (r.words.toList.getD w 0) hi lo

/-- The record covers a core of its die. -/
def BindRec.covers (r : BindRec) (c : Nat) : Bool :=
  r.bits 0 0 0 == 1 && r.bits 0 7 4 == clusterOf c % 12 && decide (r.bits 0 14 8 ≤ c % 128) &&
    decide (c % 128 ≤ r.bits 0 14 8 + r.bits 0 22 16)

/-- The valid bind records that cover a core, lowest number first. -/
def State.bindRecs (s : State) (c : Nat) : List (Nat × BindRec) :=
  (match tabGet s.dies (dieOf c) with
    | some d => d.slots
    | none => []).filter fun (_, r) => r.covers c

/-- HOLD is set in a launch's bind record for a core (18 R355). -/
def State.held (s : State) (launch c : Nat) : Bool :=
  (s.bindRecs c).any fun (_, r) => r.launch == launch && r.bits 0 1 1 == 1

/-- HOLD of the bind records that `p` selects; one with an error keeps it (18 Table 18.10). -/
def State.setHold (s : State) (p : Nat → BindRec → Bool) (b : Bool) : State :=
  let put (r : BindRec) : BindRec := { r with
    words := r.words.set 0 (setBit (r.words.toList.getD 0 0) 1 (b || r.bad)) }
  { s with dies := s.dies.map fun (d, x) =>
      (d, { x with slots := x.slots.map fun (n, r) => (n, if p d r then put r else r) }) }

/-- The number of a core of another package p: 2^13 × (p + 1) + its number there. -/
def farCore (p c : Nat) : Nat := 2 ^ 13 * (p + 1) + c

/-- Package and number there of a core, `pkg` being the own package. -/
def coreHome (pkg c : Nat) : Nat × Nat := if c < 2 ^ 13 then (pkg, c) else (c / 2 ^ 13 - 1, c % 2 ^ 13)

/-- Position of a core in the LCORE layout (03 Table 3.5). -/
def lcoreWord (pkg c : Nat) : Word :=
  let (p, k) := coreHome pkg c
  BitVec.ofNat 64 (k % 128 + 2 ^ 7 * (k / 128 % 12) + 2 ^ 11 * (k / 1536) + 2 ^ 13 * p)

/-- A unit in the layout of Table 6.4, with ENTRY 0: a link or port by its terminal, 16 × CLUSTER + CORE
(15 Table 15.1), a die by 0; the H-die is CLUSTER 14 of die 0 (18 R362, log 74). -/
def unitWord (pkg die term : Nat) : Word :=
  if die < 4 then BitVec.ofNat 64 (2 ^ 8 * (term % 16) + 2 ^ 15 * (term / 16) + 2 ^ 19 * die + 2 ^ 21 * pkg)
  else BitVec.ofNat 64 (2 ^ 15 * 14 + 2 ^ 21 * pkg)

/-- A position in the layout of Table 6.4: entry and core. -/
def positionWord (pkg c entry : Nat) : Word :=
  BitVec.ofNat 64 (entry + 2 ^ 8 * (lcoreWord pkg c).toNat)

/-- The core that LCORE-layout fields name. -/
def lcoreCore (w : Word) : Nat := coreNo (bits w 12 11) (bits w 10 7) (bits w 6 0)

/-- The handle of a family (05 Table 5.4). -/
def Fam.handle (f : Fam) : Word :=
  BitVec.ofNat 64 (f.fid.toNat + 2 ^ 32 * (f.record % 2 ^ 24) + 2 ^ 56 * f.gen.toNat)

/-- Report an event of a launch to the Factor, with what else the report carries (18 R365). -/
def State.report (s : State) (launch event : Nat) (who addr : Word) (info : List Word) : State :=
  let lnum := match s.launch? launch with
    | some l => l.lnum
    | none => 0
  let s := s.modLaunch launch fun l => { l with reports := l.reports ++ [⟨event, who, addr, info⟩] }
  { s with pkg := { s.pkg with notes := s.pkg.notes ++ [⟨event, launch, lnum, who, addr⟩] } }

def State.reportThread (s : State) (t : Thread) (event : Nat) (addr : Word) (info : List Word) : State :=
  s.report t.launch event (positionWord s.pkg.num t.core t.entry) addr info

/-- An event of a unit of a die, with its address, for the Factor to record (18 Table 18.11). -/
def State.noteUnit (s : State) (code die term : Nat) (addr : Word) : State :=
  s.report (2 ^ 64) code (unitWord s.pkg.num die term) addr []

/-- Modify the package's registers. -/
def State.modPkg (s : State) (f : Pkg → Pkg) : State := { s with pkg := f s.pkg }

/-- The banks that n bytes from a key touch (06 R123). -/
def bankMask (k n : Nat) : BitVec 16 :=
  (List.range (min 16 ((k % 8 + n + 7) / 8))).foldl (fun m j => m ||| (1#16 <<< ((k / 8 + j) % 16))) 0

/-- The bank of a location. -/
def bankOf (l : Loc) : Nat := l.key / 8 % 16

/-- How many of the words that n bytes from a key touch lie in bank b (06 R123). -/
def bankWords (k n b : Nat) : Nat := ((k % 8 + n + 7) / 8 + 15 - (b + 16 - k / 8 % 16) % 16) / 16

/-- The banks that a thread which has forfeited three times will use in the current cycle of a core, which is its
turn (06 R124). -/
def State.bankKept (s : State) (c : Nat) : BitVec 16 :=
  (s.onCore c).foldl (fun m t =>
    if t.life == .running ((s.core c).cycle % 16) && decide (3 ≤ t.forfeits) then m ||| t.lost else m) 0

/-- An access that is no issue access takes its banks, a word a cycle each: in the current cycle of their core
where the bank is free, and in the cycles that follow (06 R124, log 70). -/
def State.useBanks (s : State) (k n : Nat) : State :=
  if k < 2 ^ 60 || n = 0 then s
  else
    let c := (k - 2 ^ 60) / 2 ^ 18
    let kept := s.bankKept c
    s.modCore c fun x =>
      let free := bankMask k n &&& ~~~ (x.bankUsed ||| kept)
      { x with
        bankUsed := x.bankUsed ||| free
        bankLoad := Vector.ofFn fun b =>
          (x.bankLoad[b]) + bankWords k n b.val - (if free.getLsbD b.val then 1 else 0) }

/-- The next cycle of a core's banks begins: those with words to serve are taken. -/
def Core.nextBanks (x : Core) : Core := { x with
  bankUsed := BitVec.ofNat 16 ((List.range 16).foldl (fun n b => if x.bankLoad.toList.getD b 0 = 0 then n else n + 2 ^ b) 0)
  bankLoad := Vector.ofFn fun b => (x.bankLoad[b]) - 1 }

/-- What accesses take of the banks of a core, now and later. -/
def Core.bankTotal (x : Core) (b : Nat) : Nat := x.bankLoad.toList.getD b 0 + (if x.bankUsed.getLsbD b then 1 else 0)

/-- Between `s` and `t` an access has taken a bank at which another still waits, which came first, or one that is
kept for an issue access (06 R124). -/
def State.bankClash (s t : State) : Bool :=
  t.cores.any fun (c, y) =>
    let x := s.core c
    let kept := s.bankKept c
    (List.range 16).any fun b => decide (x.bankTotal b < y.bankTotal b) &&
      (kept.getLsbD b || x.queue.any fun q => bankOf q.loc == b)

/-- Errors of a core are counted (06 R133). -/
def State.countErrors (s : State) (c n : Nat) : State := s.modCore c fun x => { x with errs := x.errs + n }

/-! ### Pool groups (19 R409) -/

/-- The physical core of a logical one: the enabled physical cores in ascending order
(19 R374). -/
def Cluster.phys (x : Cluster) (logical : Nat) : Nat :=
  ((List.range 128).filter fun p => !x.disabled.contains p).getD logical logical

/-- The pool group of a core, over all clusters. -/
def State.poolGroup (s : State) (c : Nat) : Nat :=
  clusterOf c * 16 + (s.cluster (clusterOf c)).phys (c % 128) / 8

/-- The cores of a cluster. -/
def clusterCores (cl : Nat) : List Nat := (List.range 128).map fun i => cl * 128 + i

/-- The enabled cores of cluster `cl` of a package: of another one a constant of its own (log 79). -/
def State.countIn (s : State) (p cl : Nat) : Nat :=
  if p = s.pkg.num then (s.cluster cl).encnt else 124 + Config.farCount (p * 48 + cl) % 5

/-- The packages of the system domain (21 Table 21.1). -/
def State.npkg (s : State) : Nat := s.pkg.npkg

/-- Whether a logical core exists and is enabled (19 R373). -/
def State.coreEnabled (s : State) (c : Nat) : Bool :=
  decide (c < 6144) && decide (c % 128 < (s.cluster (clusterOf c)).encnt)

end Sys2Proof.Machine
end

