-- ==== Sys2Proof/Machine/Tables.lean ====
section
/-! DEFINITION. Homes of device memory (19 R370 to R372) and the access tables in front of them (19 R379,
R380), with the accesses that a cluster's own machinery makes through them. -/

namespace Sys2Proof.Machine

/-- PA[44:0] (19 R370). -/
def paLocal (pa : Nat) : Nat := pa % 2 ^ 45

/-- The package that PA[56:45] names (19 R370). -/
def paPackage (pa : Nat) : Nat := pa / 2 ^ 45

/-- Paired mode is in effect (20 R394). -/
def State.paired (s : State) : Bool := s.pkg.pstat.getLsbD 0

/-- Die and slice of a local physical address (19 R371, R372). -/
def sliceOf (paired : Bool) (pa : Nat) : Nat × Nat :=
  let a := paLocal pa
  if a < 0x10000000000 then
    (a / 0x3000000000, a % 0x3000000000 / 256 % 48)
  else
    let o := a - 0x10000000000
    let q := if paired then o % 0x8000000000 else o
    (if paired then q / 4096 % 2 + 2 * (o / 0x8000000000) else q / 4096 % 4, q / 256 % 48)

/-- The number of a home slice over all dies. -/
def State.sliceNo (s : State) (pa : Nat) : Nat :=
  (sliceOf s.paired pa).1 * 48 + (sliceOf s.paired pa).2

/-! ### Access tables (19 R379, R380) -/

/-- The master of a cluster's requests. -/
def clusterMaster (c : Nat) : Nat := clusterOf c

/-- Whether a target allows a master's request: R for reads, W for writes, CTL for claims. -/
def State.tableAllows (s : State) (target mid : Nat) (r w ctl : Bool) : Bool :=
  match firstSome (fun i => match tabGet s.atab (target * 256 + i) with
      | some e => if e.getLsbD 19 && bits e 15 0 == mid then some e else none
      | none => none) (List.range 256) with
  | none => false
  | some e => (!r || e.getLsbD 16) && (!w || e.getLsbD 17) && (!ctl || e.getLsbD 18)

/-- A master may access the word at a key: a scratchpad bank has no table. -/
def State.homeAllows (s : State) (mid key : Nat) (r w : Bool) : Bool :=
  decide (2 ^ 60 ≤ key) || s.tableAllows (s.sliceNo key) mid r w false

/-- Words written from a key on, each FULL, by a master, each taking its bank: one that its home denies
stays as it is. -/
def State.writeAs (s : State) (mid key : Nat) (l : List Word) : State :=
  match l with
  | [] => s
  | w :: r =>
    (if s.homeAllows mid key false true then { s.useBanks key 8 with mem := s.mem.setWord key w .full } else s).writeAs mid (key + 8) r

/-- `n` words read from a key on by a master. DESIGN CHOICE: the spec does not say what a context or table word
reads as where its home denies the read; it is a free value (log 90). -/
def State.readAs (s : State) (mid key n : Nat) : List Word × State :=
  match n with
  | 0 => ([], s)
  | j + 1 =>
    let (w, s) := if s.homeAllows mid key true false then (s.mem.word key, s.useBanks key 8) else s.freeVal
    let (l, s) := s.readAs mid (key + 8) j
    (w :: l, s)

end Sys2Proof.Machine
end

