-- ==== Sys2Proof/Machine/Links.lean ====
section
/-! DEFINITION. Linked values between members (03 R48 to R51, 05 R111) and packets between cores
(11 R214 to R218). -/

namespace Sys2Proof.Machine

/-! ### Records of the pending area (05 R110) -/

/-- The thread of a member, if it has started and not ended. -/
def State.member? (s : State) (f k : Nat) : Option Thread :=
  s.allThreads.find? fun t => t.fam == f && t.k == k && t.life != .ended

/-- The core that member `k` is dealt to (05 R109). -/
def Fam.dealt (f : Fam) (k : Nat) : Nat :=
  f.place.getD (k / f.st.block.toNat % f.place.length) 0

/-- The values in the linked-value store of a core, by family, with those on their way to it. -/
def State.storeVals (s : State) (c : Nat) : List Nat :=
  (s.core c).links.map (·.fam) ++ (s.linkMsgs.filter fun m =>
    match s.fam? m.fam with
    | some f => f.dealt m.k == c && (s.member? m.fam m.k).isNone
    | none => false).map (·.fam)

/-- Linked values of a launch that lie beyond the 512 of their core's store, those on their way to it
among them. -/
def State.spilled (s : State) (launch : Nat) : Nat :=
  ((s.cores.map (·.1)).map fun c => (((s.storeVals c).drop 512).filter fun f =>
    match s.fam? f with
    | some f => f.launch == launch
    | none => false).length).foldl (· + ·) 0

/-- The free records of a launch: neither record 0 nor record 1, nor held by a live family, an
open record or a spill (05 R110). -/
def State.freeRecords (s : State) (launch : Nat) : Nat :=
  match s.launch? launch with
  | none => 0
  | some l =>
    let live := (s.fams.filter fun (_, f) => f.launch == launch && f.live && f.record != 1).length
    let opened := (s.allThreads.filter fun t => t.launch == launch && t.openRec).length
    l.field 10 23 0 - 2 - live - opened - (s.spilled launch + 31) / 32

/-! ### Linked values -/

/-- Dn of a saved or adopting thread fills in its frame too: its word among the window registers, and its
bit of DFULL (06 R132, Table 6.7). -/
def State.fillFrame (s : State) (t : Thread) (n : Fin 16) (v : Word) : State :=
  match t.frame with
  | none => s
  | some f =>
    if t.life = .saved || t.life = .adopting then
      let mid := clusterMaster t.core
      (s.writeAs mid (f.key + 8 * (40 + t.win.l + t.win.g + t.win.s + n.val)) [v]).writeAs mid (f.key + 8)
        [setBit (s.mem.word (f.key + 8)) (8 + n.val) true]
    else s

/-- Dn of a thread fills: a member that waits for it becomes Ready (03 R48), one that is saved or adopts
finds it when it is restored. -/
def State.fillD (s : State) (t : Thread) (n : Fin 16) (v : Word) : State :=
  let s := (s.fillFrame t n v).modThread t.tid fun x => { x with
    ecc := x.ecc.erase (0x60 + n.val), dv := x.dv.set n.val v, dfull := x.dfull ||| (1#16 <<< n.val) }
  if t.waitsFor 3 n.val then s.wake t.tid else s

/-- A linked value leaves core `c` for member `k` (15 R291, messages). -/
def State.sendLink (s : State) (f k : Nat) (n : Fin 16) (v : Word) (c : Nat) : State :=
  { s with linkMsgs := s.linkMsgs ++ [⟨f, k, n, v, c, s.stamp⟩], stamp := s.stamp + 1 }

/-- Room in the linked-value store of a core for one more value of a launch. -/
def State.linkRoom (s : State) (c launch : Nat) : Bool :=
  decide ((s.storeVals c).length < 512) || s.spilled launch % 32 != 0 || decide (0 < s.freeRecords launch)

/-- Member `k` is the one whose shareds become the final ones: the break point, or else the last
member (05 R113, R114). -/
def Fam.isFinal (f : Fam) (k : Nat) : Bool :=
  match f.brk with
  | some b => b == k
  | none => k + 1 == f.n

/-- Members after the break point are killed. -/
def Fam.beyond (f : Fam) (k : Nat) : Bool :=
  match f.brk with
  | some b => decide (b < k)
  | none => false

/-- The value of Sn of member `k`, sent from core `c`: it becomes final, reaches the successor, is
kept for it, or is passed on by one that has ended (05 R111). `none`: no room to keep it, and it need not be kept
(`must`). -/
def State.sendLinked (s : State) (fuel f k : Nat) (n : Fin 16) (v : Word) (c : Nat) (must : Bool) :
    Option State :=
  match s.fam? f with
  | none => some s
  | some x =>
    if x.killed || x.beyond k then some s
    else if x.isFinal k then
      some (s.modFam f fun y => { y with finals := y.finals.set n.val (some v) })
    else match s.member? f (k + 1) with
      | some t => if t.core = c then some (s.fillD t n v)
          else some (s.sendLink f (k + 1) n v c)
      | none =>
        if x.ended.contains (k + 1) then
          if x.fwd.contains (k + 1, n.val) then
            match fuel with
            | 0 => some s
            | j + 1 => (s.modFam f fun y => { y with fwd := y.fwd.erase (k + 1, n.val) }).sendLinked
                j f (k + 1) n v c must
          else some s
        else if must || s.linkRoom (x.dealt (k + 1)) x.launch then
          if x.dealt (k + 1) = c then
            some (s.modCore c fun y => { y with links := y.links ++ [⟨f, k + 1, n, v⟩] })
          else some (s.sendLink f (k + 1) n v c)
        else none

/-- A bound on how often a value is passed on: the members that have ended. -/
def State.linkFuel (s : State) (f : Nat) : Nat :=
  match s.fam? f with
  | some x => x.ended.length + 1
  | none => 0

/-- A linked value reaches the core of member `k` (event LINKED_VALUE_ARRIVAL), which takes it at once (11 R219).
DESIGN CHOICE: where an ended member passes it on and the store of the next one has no room, no member is left to
trap, and it is kept beyond the records of the launch (log 67); one for a member dealt to another package, which
does not start here, stays on its way (log 79). -/
def State.arriveLinked (s : State) (m : LinkMsg) : Option State :=
  match s.fam? m.fam with
  | none => some s
  | some x =>
    if x.killed || x.beyond m.k then some s
    else match s.member? m.fam m.k with
      | some t => some (s.fillD t m.n m.v)
      | none =>
        if x.ended.contains m.k then
          if x.fwd.contains (m.k, m.n.val) then
            (s.modFam m.fam fun y => { y with fwd := y.fwd.erase (m.k, m.n.val) }).sendLinked
              (s.linkFuel m.fam) m.fam m.k m.n m.v (x.dealt m.k) true
          else some s
        else if 2 ^ 13 ≤ x.dealt m.k then none
        else some (s.modCore (x.dealt m.k) fun y => { y with links := y.links ++ [⟨m.fam, m.k, m.n, m.v⟩] })

/-- Values kept for members that will never start are dropped. DESIGN CHOICE: the spec does not say what
becomes of them (log 67). -/
def State.dropLinks (s : State) (p : LinkVal → Bool) : State :=
  { s with cores := s.cores.map fun (c, x) => (c, { x with links := x.links.filter fun v => !p v }) }

/-- The values kept for a member are delivered as it starts, or forwarded to the core of its
adopter (05 R111), before those that are still on their way to it. -/
def State.takeLinks (s : State) (f k : Nat) : State :=
  match s.fam? f with
  | none => s
  | some x =>
    let d := x.dealt k
    let (mine, rest) := (s.core d).links.partition fun v => v.fam == f && v.k == k
    let s := if mine.isEmpty then s else s.modCore d fun y => { y with links := rest }
    match s.member? f k with
    | none => s
    | some t =>
      if t.core = d then
        s.putThread (mine.foldl (fun t v =>
          { t with dv := t.dv.set v.n.val v.v, dfull := t.dfull ||| (1#16 <<< v.n.val) }) t)
      else
        let sent := (mine.foldl (fun s v => s.sendLink v.fam v.k v.n v.v d) { s with linkMsgs := [] })
        { sent with linkMsgs := sent.linkMsgs ++ s.linkMsgs }

/-! ### Packets: the receiver (11 R217, R218) -/

def State.pkt? (s : State) (c id : Nat) : Option Packet :=
  (s.core c).packets.find? fun p => p.id == id

/-- Entries a queue holds: a header and the unread flits of each packet. -/
def Core.queueCount (x : Core) (q : Nat) : Nat :=
  ((x.rxq.getD q []).map fun id =>
    match x.packets.find? fun p => p.id == id with
    | some p => 1 + p.flits.length - p.taken
    | none => 0).foldl (· + ·) 0

def setQueue (l : List (List Nat)) (q : Nat) (v : List Nat) : List (List Nat) := l.set q v

/-- The head of a spill list moves to its queue while the queue has room (11 R217). -/
def Core.unspill (x : Core) (q fuel : Nat) : Core :=
  match fuel with
  | 0 => x
  | j + 1 =>
    match x.spill.getD q [] with
    | [] => x
    | id :: rest =>
      match x.packets.find? fun p => p.id == id with
      | none => x
      | some p =>
        if x.queueCount q + 1 + p.flits.length ≤ 64 then
          Core.unspill { x with
            spill := setQueue x.spill q rest
            rxq := setQueue x.rxq q (x.rxq.getD q [] ++ [id])
            packets := x.packets.map fun p' => if p'.id = id then { p' with hold := .entry, arrived := false } else p' } q j
        else x

/-- A threads wake when a queue of the core gains a packet or its head changes (11 R218). -/
def State.wakeReaders (s : State) (c : Nat) : State :=
  s.wakeWhere fun t => t.core == c && t.waitReason == 10

def State.drainQueue (s : State) (c q : Nat) : State :=
  (s.modCore c fun x => x.unspill q 64).wakeReaders c

/-- A packet leaves its queue. -/
def State.dropPacket (s : State) (c id : Nat) : State :=
  match s.pkt? c id with
  | none => s
  | some p => (s.modCore c fun x => { x with
      rxq := setQueue x.rxq p.queue ((x.rxq.getD p.queue []).filter (· != id))
      packets := x.packets.filter fun p' => p'.id != id }).drainQueue c p.queue

/-- The packet a read of RX or RXH takes: the bound one, or the head of queue SEL unless another
thread holds it (11 R218). -/
def State.rxPacket (s : State) (t : Thread) : Option Packet :=
  match t.rxBound with
  | some (_, id) => s.pkt? t.core id
  | none =>
    match (s.core t.core).rxq.getD t.rxsel.toNat [] with
    | [] => none
    | id :: _ =>
      match s.pkt? t.core id with
      | none => none
      | some p => if p.bound.isNone || p.bound == some t.tid then some p else none

/-- The packet is bound to the issuing thread. -/
def State.bindPacket (s : State) (p : Packet) : State :=
  let s := s.modCore s.cur.core fun x => { x with
    packets := x.packets.map fun p' => if p'.id = p.id then { p' with bound := some s.cur.tid } else p' }
  s.updCur fun t => { t with
    rxBound := some (p.queue, p.id)
    rxRead := if t.rxRead.any fun (q, _) => q.id == p.id then t.rxRead else t.rxRead ++ [(p, t.rxBound.isSome)] }

/-- One payload flit is consumed; the closing flit ends the binding. -/
def State.consumeFlit (s : State) (p : Packet) : State :=
  if p.taken + 1 < p.flits.length then
    (s.modCore s.cur.core fun x => { x with
      packets := x.packets.map fun p' => if p'.id = p.id then { p' with taken := p.taken + 1 } else p' }).drainQueue
      s.cur.core p.queue
  else (s.updCur fun t => { t with rxBound := none }).dropPacket s.cur.core p.id

/-- A packet that a thread has read from is as it was, at the head of its queue. -/
def Core.putBack (x : Core) (p : Packet) : Core :=
  if x.packets.any fun q => q.id == p.id then
    { x with packets := x.packets.map fun q => if q.id = p.id then p else q }
  else { x with
    packets := x.packets ++ [p]
    rxq := setQueue x.rxq p.queue (p.id :: x.rxq.getD p.queue []) }

/-- The issuing thread's instruction has no effect, or is withdrawn: what it read of packets is as it was
(06 R131, 17 R332). -/
def State.unread (s : State) : State :=
  match s.cur.rxRead with
  | [] => s
  | (p, b) :: _ =>
    let s := s.modCore s.cur.core fun x => s.cur.rxRead.foldr (fun (p, _) x => x.putBack p) x
    s.updCur fun t => { t with rxRead := [], rxBound := if b then some (p.queue, p.id) else none }

/-- RXQ (03 Table 3.7). -/
def State.rxqWord (s : State) (t : Thread) : Word :=
  let x := s.core t.core
  BitVec.ofNat 64 (x.queueCount 0 + 2 ^ 8 * x.queueCount 1 + 2 ^ 16 * x.queueCount 2 +
    2 ^ 24 * x.queueCount 3 + 2 ^ 32 * t.rxsel.toNat +
    2 ^ 34 * (if x.spill.all (·.isEmpty) then 0 else 1))

/-! ### Packets: the sender (11 R214, R215) -/

/-- The reserved bits of a send header. -/
def sendReserved (v : Word) : Bool := bits v 31 27 != 0 || bits v 63 48 != 0

/-- The destination of a send header, if it is a core of this package. -/
def sendCore (v : Word) : Nat := lcoreCore v

/-- The header as delivered, LEN and PSN apart (11 Table 11.2). -/
def deliveredHeader (pkg c : Nat) (v : Word) : Word :=
  BitVec.ofNat 64 ((lcoreWord pkg c).toNat + 2 ^ 25 * bits v 26 25 + 2 ^ 32 * bits v 47 32)

/-- A payload flit leaves; the header leaves with the first. -/
def State.sendFlit (s : State) (p : OpenPkt) (v : Word) (close : Bool) : State :=
  let t := s.cur
  let s := s.updCur fun t => { t with packet := some { p with sent := p.sent ++ [v] } }
  if p.sent.isEmpty then
    let (id, s) := s.fresh
    { s with pkts := s.pkts ++ [{
        id := id, tid := t.tid, launch := t.launch, dst := sendCore p.header, queue := bits p.header 26 25,
        send := p.header, header := deliveredHeader s.pkg.num t.core p.header, flits := [(v, false)],
        arrived := false, closed := close, hold := .entry, bound := none, taken := 0, ack := none
        no := id, cno := id }] }
  else
    let (no, s) := s.fresh
    { s with pkts := s.pkts.map fun q => if q.tid = t.tid && !q.closed then
        { q with flits := q.flits ++ [(v, false)], closed := close, cno := no } else q }

end Sys2Proof.Machine
end

