-- ==== Sys2Proof/Machine/Context.lean ====
section
/-! DEFINITION. The saved context of a thread: the frame of 06 Tables 6.5 to 6.9, the vector frame
(09 R177), the modular frame (10 R203), and the frame directory (06 R132). -/

namespace Sys2Proof.Machine

def causeCode (c : Cause) : BitVec 7 :=
  match c with
  | .illegalOpcode => 0x01 | .illegalModifier => 0x02 | .illegalOperand => 0x03
  | .illegalPair => 0x04 | .badTarget => 0x05 | .lineParity => 0x06 | .lineReserved => 0x07
  | .privilege => 0x08 | .featureAbsent => 0x09 | .misaligned => 0x10 | .translation => 0x11
  | .access => 0x12 | .poisonRead => 0x13 | .objectStore => 0x14 | .doublePut => 0x15
  | .tagMisuse => 0x16 | .registerEcc => 0x17 | .scopeRange => 0x18 | .monitorFull => 0x19
  | .reductionState => 0x1A | .linkDown => 0x1B | .doubleSharedWrite => 0x20
  | .resourceExceedsCore => 0x21 | .familyHandle => 0x22 | .packetOpen => 0x23
  | .queueOverflow => 0x24 | .placeInvalid => 0x25 | .familyField => 0x26
  | .familyAreaFull => 0x27 | .barrierAbandoned => 0x28 | .barrierPoisoned => 0x29
  | .barrierState => 0x2A | .objectState => 0x2B | .deadlock => 0x2C | .noClaim => 0x30
  | .modulusInvalid => 0x31 | .matrixFormat => 0x38 | .swizzleMismatch => 0x39
  | .scaleCount => 0x3A | .redundantMismatch => 0x3B | .ringState => 0x3C | .copyFault => 0x40
  | .copyShape => 0x41 | .copyId => 0x42 | .entrState => 0x43 | .breakpoint => 0x50
  | .watchpoint => 0x51 | .step => 0x52 | .software => 0x5F

def causesA : List Cause :=
  [.illegalOpcode, .illegalModifier, .illegalOperand, .illegalPair, .badTarget, .lineParity,
   .lineReserved, .privilege, .featureAbsent, .misaligned, .translation, .access, .poisonRead,
   .objectStore, .doublePut, .tagMisuse, .registerEcc, .scopeRange, .monitorFull]

def causesB : List Cause :=
  [.reductionState, .linkDown, .doubleSharedWrite, .resourceExceedsCore, .familyHandle,
   .packetOpen, .queueOverflow, .placeInvalid, .familyField, .familyAreaFull, .barrierAbandoned,
   .barrierPoisoned, .barrierState, .objectState, .deadlock, .noClaim, .modulusInvalid]

def causesC : List Cause :=
  [.matrixFormat, .swizzleMismatch, .scaleCount, .redundantMismatch, .ringState, .copyFault,
   .copyShape, .copyId, .entrState, .breakpoint, .watchpoint, .step, .software]

/-- Every trap cause. -/
def allCauses : List Cause := causesA ++ causesB ++ causesC

def causeOfCode (n : Nat) : Option Cause := allCauses.find? fun c => (causeCode c).toNat == n

/-- The window word of a window (05 Table 5.2). -/
def windowWord (w : Win) : Word := BitVec.ofNat 64 (w.l + 2 ^ 8 * w.g + 2 ^ 16 * w.s)

def winOfWord (v : Word) : Win := ⟨bits v 6 0, bits v 12 8, bits v 20 16⟩

/-- The window registers in order: locals, globals, shareds, dependents (03 R45). -/
def Thread.windowRegs (t : Thread) : List Word :=
  let w := t.l.toList.take t.win.l ++ t.g.toList.take t.win.g ++ t.sv.toList.take t.win.s ++
    t.dv.toList.take t.win.s
  w ++ List.replicate (windowSize t.win - w.length) 0

/-- FLAGS (06 Table 6.7). -/
def Thread.flagsWord (t : Thread) (kind : Nat) : Word :=
  BitVec.ofNat 64 ((t.preds ||| 1).toNat + 2 ^ 8 * t.dfull.toNat + 2 ^ 24 * t.swr.toNat +
    2 ^ 40 * (windowSize t.win / 8) + 2 ^ 44 * t.stall + 2 ^ 48 * kind +
    2 ^ 50 * bits t.status 1 0)

/-- A monitor word (06 Table 6.5, words 28 to 31). -/
def monWord (m : Option Mon) : Word :=
  match m with
  | none => 0
  | some m => BitVec.ofNat 64 (m.va.toNat / 64 * 64 + (if m.armed then 1 else 0) +
      (if m.wake then 2 else 0))

def errRecWords (r : Option ErrRec) : List Word :=
  match r with
  | none => [0, 0]
  | some r => [BitVec.ofNat 64 ((causeCode r.cause).toNat + 2 ^ 7 + 2 ^ 32 * r.count.toNat), r.addr]

def lateRecWords (r : Option LateRec) : List Word :=
  match r with
  | none => [0, 0]
  | some r => [BitVec.ofNat 64 (bits r.id 31 0 + 2 ^ 32 * r.count.toNat + 2 ^ 63), r.first]

/-- Word 14: the claim (09 R177); `voff` is the offset of the vector frame in 64-byte units. -/
def Thread.claimWord (t : Thread) (voff : Nat) : Word :=
  match t.claim with
  | none => 0
  | some c => BitVec.ofNat 64 (c.grant + 2 ^ 8 * c.min + 2 ^ 16 * c.des + 2 ^ 24 * voff)

/-- The 40 header and record words and the window (06 R132). -/
def frameWords (t : Thread) (pkg kind : Nat) (link : Word) (voff : Nat) : List Word :=
  [t.pc, t.flagsWord kind, windowWord t.win, t.index, t.famid, t.parent, lcoreWord pkg t.dealt,
   t.prio, t.status, t.thand, t.tmask, t.round, t.convcnt, t.rxsel.setWidth 64, t.claimWord voff,
   BitVec.ofNat 64 t.copyn, t.ubank.cause, t.ubank.tpc, t.ubank.info0, t.ubank.info1,
   t.kbank.cause, t.kbank.tpc, t.kbank.info0, t.kbank.info1,
   (match t.halt with
    | some (c, _) => (causeCode c).setWidth 64
    | none => 0),
   (match t.halt with
    | some (_, pc) => pc
    | none => 0), link, BitVec.ofNat 64 t.remain] ++
  (List.range 4).map (fun i => monWord (t.mons.getD i none)) ++
  errRecWords t.errRec ++ lateRecWords t.copyRec ++ lateRecWords t.redRec ++
  [t.mstat, t.ivl.setWidth 64] ++ t.windowRegs

/-- Eight bytes as a word, the first lowest. -/
def bytesWord (l : List Byte) : Word :=
  BitVec.ofNat 64 (l.foldr (fun b n => b.toNat + 256 * n) 0)

def chunkWords (l : List Byte) (fuel : Nat) : List Word :=
  match fuel with
  | 0 => []
  | j + 1 => if l.isEmpty then [] else bytesWord (l.take 8) :: chunkWords (l.drop 8) j

/-- The vector frame: V0 to V31 a word a lane, then K0 to K7 a byte a lane (09 R177). -/
def Claim.vectorWords (c : Claim) : List Word :=
  (c.v.toList.map fun r => r.take c.grant).flatten ++
    chunkWords (c.k.toList.map fun r => r.take c.grant).flatten (c.grant + 1)

/-- The modular frame: Q0 to Q3 then W0 to W3 (10 R203). -/
def Claim.modularWords (c : Claim) : List Word :=
  ((c.q.toList ++ c.w.toList).map fun r => r.take c.grant).flatten

/-- Words written from a key on, each FULL. -/
def Memory.writeWords (m : Memory) (k : Nat) (l : List Word) : Memory :=
  match l with
  | [] => m
  | w :: r => (m.setWord k w .full).writeWords (k + 8) r

def Memory.readWords (m : Memory) (k n : Nat) : List Word :=
  (List.range n).map fun i => m.word (k + 8 * i)

def roundUp64 (n : Nat) : Nat := (n + 63) / 64 * 64

/-- Places below `limit` at which `size` bytes fit between the taken ranges. -/
def freePlaces (taken : List (Nat × Nat)) (base size limit : Nat) : List Nat :=
  (base :: taken.map fun (k, n) => roundUp64 (k + n)).filter fun p =>
    decide (p + size ≤ limit) && taken.all fun (k, n) => decide (p + size ≤ k) || decide (k + n ≤ p)

/-- The frames of a core's frame pool as (key, size). -/
def State.poolFrames (s : State) (core : Nat) : List (Nat × Nat) :=
  s.allThreads.filterMap fun t => match t.frame with
    | some f => if t.core == core && !f.store then some (f.key, f.size) else none
    | none => none

/-- FEAT0.MODL (02 Table 2.11). -/
def State.modl (s : State) : Bool := (s.pkg.feat.toList.getD 0 0).getLsbD 6

/-- The bytes that the thread entries of a launch need for their cycle records (18 R351). -/
def Launch.cycleSize (l : Launch) : Nat := 256 * (l.entries * l.place.length)

/-- The area of a thread entry's cycle record (17 R332). DESIGN CHOICE: the spec puts it in the context store and
says no more; these areas are the store's last bytes, core after core of the place (log 16). -/
def Launch.cycleKey (l : Launch) (core entry : Nat) : Nat :=
  (l.word 11).toNat + ((l.word 12).toNat - l.cycleSize) + 256 * (l.place.idxOf core * l.entries + entry)

/-- The cycle record of a thread stands in its entry's area; without one the area keeps what it holds. -/
def State.putCycle (s : State) (tid : Nat) : State :=
  match s.thread? tid with
  | none => s
  | some t => match s.launch? t.launch with
    | none => s
    | some l => s.writeAs (clusterMaster t.core) (l.cycleKey t.core t.entry) (t.cycle.flatMap fun (n, h) => [n, h])

/-- What one saved context can need in a context store: its frame, its vector frame and its modular frame (18
R351). -/
def State.cellSize (s : State) : Nat := 1216 + 16896 + (if s.modl then 4096 else 0)

/-- The cells of a context store from `base` on that frames of its launch lie in. -/
def State.cellsTaken (s : State) (launch base : Nat) : List Nat :=
  (s.allThreads.filter fun t => t.launch == launch).flatMap fun t =>
    match t.frame with
    | none => []
    | some f =>
      (if f.store then [(f.key - base) / s.cellSize] else []) ++
      (match f.vkey with
       | some k => [(k - base) / s.cellSize]
       | none => [])

/-- A free cell of a launch's context store. DESIGN CHOICE: a frame, its vector frame and its modular frame take one
cell of the size that R351 counts for each context, so that a store of the stated size has room for all; which free
cell is a free choice (log 16). -/
def State.storeCell (s : State) (launch : Nat) : Option Nat × State :=
  match s.launch? launch with
  | none => (none, s)
  | some l =>
    let base := (l.word 11).toNat
    let taken := s.cellsTaken launch base
    let n := ((l.word 12).toNat - l.cycleSize) / s.cellSize
    let (i, s) := s.chooseFrom ((List.range (min n (taken.length + 1))).filter fun i => !taken.contains i)
    (i.map fun i => base + i * s.cellSize, s)

/-- A free place of the frame pool of a core, which of them a free choice (06 R132). -/
def State.poolPlace (s : State) (core size : Nat) : Option Nat × State :=
  s.chooseFrom (freePlaces (s.poolFrames core) (Loc.sp core 0x3C900).key size ((Loc.sp core 0).key + 0x40000))

/-- The address a frame is known by: cluster-window for the pool, physical for the store. -/
def frameAddr (f : FrameRef) (core : Nat) : Word :=
  if f.store then BitVec.ofNat 64 f.key
  else BitVec.ofNat 64 (0xFF00000000000000 + (f.key - (Loc.sp core 0).key))

/-- The frame directory word of an entry (06 Table 6.6). -/
def dirKey (core entry : Nat) : Nat := (Loc.sp core (0x3C100 + 8 * entry)).key

def dirWord (f : Option FrameRef) (core : Nat) : Word :=
  match f with
  | none => 0
  | some f => BitVec.ofNat 64 (1 + (if f.store then 2 else 0) + (frameAddr f core).toNat / 64 * 64)

/-- The frame stays with its entry: of a thread that adopts or is halted. One that is pre-empted or
migrates lies in the context store, in the saved-thread list (18 R355, R357). -/
def entryKind (kind : Nat) : Bool := kind == 1 || kind == 3

/-- The words of a claim's vector frame, the modular frame behind it where MODL is on (09 R177, 10 R203). -/
def State.claimWords (s : State) (c : Claim) : List Word :=
  c.vectorWords ++ (if s.modl then
    List.replicate ((roundUp64 (8 * c.vectorWords.length) - 8 * c.vectorWords.length) / 8) 0 ++ c.modularWords else [])

/-- Save the context of a thread into a frame of the given KIND: in the frame pool if it has room and the frame stays
with its entry, else in a cell of the context store, where its vector frame lies in any case. A frame that stays with
its entry is the one that the directory word of the entry points at (06 R132). -/
def State.saveFrame (s : State) (t : Thread) (kind : Nat) : State :=
  let size := 320 + 8 * windowSize t.win
  let mid := clusterMaster t.core
  let prev := s.mem.word (dirKey t.core t.entry)
  let link := if prev.getLsbD 0 then BitVec.ofNat 64 (prev.toNat / 64 * 64) else 0
  let (pool, s) := if entryKind kind then s.poolPlace t.core size else (none, s)
  let (cell, s) := if pool.isNone || t.claim.isSome then s.storeCell t.launch else (none, s)
  if (pool.or cell).isNone || (t.claim.isSome && cell.isNone) then s.putThread t
  else
    let key := (pool.or cell).getD 0
    let vkey := (cell.getD 0) + 1216
    let base := match s.launch? t.launch with
      | some l => (l.word 11).toNat
      | none => 0
    let vw := match t.claim with
      | none => []
      | some c => s.claimWords c
    let s := s.writeAs mid vkey vw
    let f : FrameRef := ⟨key, kind, size, pool.isNone, if vw.isEmpty then none else some vkey, 8 * vw.length, link⟩
    let s := s.writeAs mid key (frameWords t s.pkg.num kind link (if vw.isEmpty then 0 else (vkey - base) / 64))
    let s := if entryKind kind then { s with mem := s.mem.setWord (dirKey t.core t.entry) (dirWord (some f) t.core) .full }
      else s
    s.putThread { t with frame := some f }

/-- Words 32 to 38 of a frame are written from the thread's records. -/
def State.putRecords (s : State) (t : Thread) (f : FrameRef) : State :=
  s.writeAs (clusterMaster t.core) (f.key + 256)
    (errRecWords t.errRec ++ lateRecWords t.copyRec ++ lateRecWords t.redRec ++ [t.mstat])

/-- The frame in which the context of a saved, adopting or halted thread stands. -/
def Thread.savedIn (t : Thread) : Option FrameRef :=
  match t.life with
  | .saved => t.frame
  | .adopting => t.frame
  | .halted => t.frame
  | _ => none

/-- The record words of a thread whose context is saved follow its live records (06 R132). -/
def State.syncRecords (s : State) (t : Thread) : State :=
  match t.savedIn with
  | some f => s.putRecords t f
  | none => s

/-- STATUS.UNTR of a thread is set, also in its frame where its context is saved (17 R333). -/
def State.setUntr (s : State) (tid : Nat) : State :=
  match s.thread? tid with
  | none => s
  | some t =>
    let s := s.putThread { t with status := t.status ||| 0x40 }
    match t.savedIn with
    | none => s
    | some f => s.writeAs (clusterMaster t.core) (f.key + 64) [s.mem.word (f.key + 64) ||| 0x40]

/-- The records of a thread that has a frame change there as they change in the thread. -/
def State.syncFrame (s : State) (tid : Nat) : State :=
  match s.thread? tid with
  | some t => s.syncRecords t
  | none => s

def recOfWords (a b : Word) : Option LateRec :=
  if a.getLsbD 63 then some ⟨BitVec.ofNat 64 (bits a 31 0), b, BitVec.ofNat 31 (bits a 62 32)⟩ else none

/-- Registers taken from a list, the rest kept. -/
def takeRegs {n : Nat} (v : Vector Word n) (l : List Word) : Vector Word n :=
  Vector.ofFn fun i => (l[i.val]?).getD v[i]

/-- Lanes of registers read back from a frame of `g` words a register. -/
def lanesFrom {n : Nat} (ws : List Word) (g at0 : Nat) : Vector (List Word) n :=
  Vector.ofFn fun i => (ws.drop (at0 + i.val * g)).take g

def wordBytes (w : Word) (n : Nat) : List Byte :=
  (List.range n).map fun i => BitVec.ofNat 8 (w.toNat / 256 ^ i)

/-- The context read back from a frame (06 R132): words of the frame and of its vector frame. -/
def Thread.restoreFrom (t : Thread) (w vw : List Word) (modl : Bool) : Thread :=
  let g (i : Nat) : Word := w.getD i 0
  let fl := g 1
  let win := winOfWord (g 2)
  let rg := w.drop 40
  let grant := bits (g 14) 6 0
  let kb := (vw.drop (32 * grant)).flatMap fun x => wordBytes x 8
  let q0 := (roundUp64 (8 * (33 * grant))) / 8
  { t with
    pc := g 0, preds := BitVec.ofNat 8 (bits fl 7 0) ||| 1, dfull := BitVec.ofNat 16 (bits fl 23 8)
    swr := BitVec.ofNat 16 (bits fl 39 24), win := win
    index := g 3, famid := g 4, parent := g 5, dealt := if t.dealt < 2 ^ 13 then lcoreCore (g 6) else t.dealt, prio := g 7, ownNow := bits (g 7) 2 0
    status := setBits (g 8) 1 0 (bits fl 51 50), thand := g 9, tmask := g 10, round := g 11
    convcnt := g 12, rxsel := BitVec.ofNat 2 (bits (g 13) 1 0), copyn := t.copyn
    ubank := ⟨g 16, g 17, g 18, g 19⟩, kbank := ⟨g 20, g 21, g 22, g 23⟩, remain := (g 27).toNat
    mons := (List.range 4).zipWith (fun i m =>
      if (g (28 + i)).getLsbD 0 then
        some { line := (match m with
                 | some x => x.line
                 | none => 0)
               va := BitVec.ofNat 64 ((g (28 + i)).toNat / 64 * 64), armed := true
               wake := (g (28 + i)).getLsbD 1
               coarse := (match m with
                 | some x => x.coarse
                 | none => false) }
      else none) t.mons
    errRec := if (g 32).getLsbD 7 then
        (causeOfCode (bits (g 32) 6 0)).map fun c => ⟨c, g 33, BitVec.ofNat 32 (bits (g 32) 63 32)⟩
      else none
    copyRec := recOfWords (g 34) (g 35), redRec := recOfWords (g 36) (g 37), mstat := g 38
    ivl := BitVec.ofNat 16 (bits (g 39) 15 0)
    l := takeRegs t.l (rg.take win.l), g := takeRegs t.g ((rg.drop win.l).take win.g)
    sv := takeRegs t.sv ((rg.drop (win.l + win.g)).take win.s)
    dv := takeRegs t.dv ((rg.drop (win.l + win.g + win.s)).take win.s)
    claim := if grant = 0 then none else some
      { grant := grant, min := bits (g 14) 14 8, des := bits (g 14) 22 16, shrunk := false
        v := lanesFrom vw grant 0
        k := Vector.ofFn fun i => (kb.drop (i.val * grant)).take grant
        q := if modl then lanesFrom vw grant q0 else Vector.replicate 4 (List.replicate grant 0)
        w := if modl then lanesFrom vw grant (q0 + 4 * grant)
             else Vector.replicate 4 (List.replicate grant 0) } }

/-- The directory word that names the frame a LINK names. -/
def linkDir (link : Word) : Word :=
  if link = 0 then 0 else BitVec.ofNat 64 (1 + (if bits link 63 56 == 0xFF then 0 else 2) + link.toNat)

/-- Read a thread's context back from its frame, free the frame, and point the directory word at
the frame below it. -/
def State.restoreFrame (s : State) (t : Thread) : Thread × State :=
  match t.frame with
  | none => (t, s)
  | some f =>
    let mid := clusterMaster t.core
    let (vw, s) := match f.vkey with
      | some k => s.readAs mid k (f.vsize / 8)
      | none => ([], s)
    let (ws, s) := s.readAs mid f.key (f.size / 8)
    let t' := { t.restoreFrom ws vw s.modl with frame := none }
    (t', if entryKind f.kind then { s with mem := s.mem.setWord (dirKey t.core t.entry) (linkDir f.link) .full } else s)

/-- A frame is known by another address: the LINK of the frame above it follows. -/
def State.relink (s : State) (core : Nat) (old new : Word) : State :=
  match s.allThreads.find? fun u => u.core == core && (match u.frame with
      | some g => g.link != 0 && g.link == old
      | none => false) with
  | none => s
  | some u => match u.frame with
    | none => s
    | some g => (s.writeAs (clusterMaster core) (g.key + 8 * 26) [new]).putThread { u with frame := some { g with link := new } }

/-- The address that a LINK or a directory word gives a frame. -/
def FrameRef.link64 (f : FrameRef) (core : Nat) : Word := BitVec.ofNat 64 ((frameAddr f core).toNat / 64 * 64)

/-- A frame of the frame pool is copied to `k` in the context store. -/
def State.copyFrame (s : State) (t : Thread) (f : FrameRef) (k : Nat) : State :=
  let g : FrameRef := { f with key := k, store := true }
  let s := s.writeAs (clusterMaster t.core) k (s.mem.readWords f.key (f.size / 8))
  ((s.useBanks f.key f.size).putThread { t with frame := some g }).relink t.core (f.link64 t.core) (g.link64 t.core)

/-- A thread's frame that lies in the frame pool is copied to the context store (18 R355). -/
def State.storeFrame (s : State) (tid : Nat) : State :=
  match s.thread? tid with
  | none => s
  | some t => match t.frame with
    | none => s
    | some f =>
      if f.store then s
      else match f.vkey.map (· - 1216), s.storeCell t.launch with
        | some k, _ => s.copyFrame t f k
        | none, (some k, s) => s.copyFrame t f k
        | none, (none, s) => s
end Sys2Proof.Machine
end

