-- ==== Sys2Proof/Machine/Pool.lean ====
section
/-! DEFINITION. The vector pool of a pool group: grants, the queue of requests and renegotiation
(09 R172 to R176). -/

namespace Sys2Proof.Machine

/-- Lanes a thread holds: those of its claim, or those granted to its waiting request. -/
def Thread.lanes (t : Thread) : Nat :=
  match t.laneRes with
  | some n => n
  | none => match t.claim with
    | some c => if t.life = .saved ∨ t.life = .adopting then 0 else c.grant
    | none => 0

/-- The threads of a pool group. -/
def State.poolThreads (s : State) (g : Nat) : List Thread :=
  s.allThreads.filter fun t => s.poolGroup t.core == g && t.life != .ended

def State.lanesUsed (s : State) (g : Nat) : Nat :=
  (s.poolThreads g).foldl (fun n t => n + t.lanes) 0

def State.freeLanes (s : State) (g : Nat) : Nat := 64 - s.lanesUsed g

def State.claimsHeld (s : State) (g : Nat) : Nat :=
  ((s.poolThreads g).filter fun t => decide (0 < t.lanes)).length

/-- The largest power of two from 4 to 64 that is at most `n`; 0 if there is none. -/
def pow2Below (n : Nat) : Nat :=
  if 64 ≤ n then 64 else if 32 ≤ n then 32 else if 16 ≤ n then 16 else if 8 ≤ n then 8
  else if 4 ≤ n then 4 else 0

/-- What a request can be granted now (09 R174): lanes free and its own, and a claim to hold. -/
def State.canGrant (s : State) (t : Thread) (mn ds : Nat) : Option Nat :=
  let g := s.poolGroup t.core
  let avail := s.freeLanes g + t.lanes
  if (decide (s.claimsHeld g < 16) || decide (0 < t.lanes)) && decide (mn ≤ avail) then
    some (pow2Below (min ds avail))
  else none

/-- A request that waits: a thread with reason 7, or a saved one that restores. -/
def Thread.waitsLanes (t : Thread) : Bool := t.laneReq.isSome && t.laneRes.isNone

/-- The head of a pool's queue: highest effective priority, then first to arrive. -/
def State.poolHead (s : State) (g : Nat) : Option Thread :=
  leastBy (fun t => (7 - t.eprio) * 2 ^ 64 + (match t.wait with
    | some w => w.key
    | none => 0)) ((s.poolThreads g).filter (·.waitsLanes))

/-- Serve the queue until its head cannot be served. -/
def State.servePool (s : State) (g fuel : Nat) : State :=
  match fuel with
  | 0 => s
  | j + 1 =>
    match s.poolHead g with
    | none => s
    | some t =>
      match t.laneReq with
      | none => s
      | some (mn, ds) =>
        match s.canGrant t mn ds with
        | none => s
        | some n => ((s.putThread { t with laneRes := some n }).wake t.tid).servePool g j

/-- Registers at a new grant: lanes below both kept, lanes gained 0 (09 R176). -/
def resizeLanes {α : Type} (z : α) (l : List α) (n : Nat) : List α :=
  l.take n ++ List.replicate (n - l.length) z

def Claim.resize (c : Claim) (n : Nat) : Claim :=
  { c with
    grant := n
    v := c.v.map fun r => resizeLanes 0 r n
    k := c.k.map fun r => resizeLanes 0 r n
    q := c.q.map fun r => resizeLanes 0 r n
    w := c.w.map fun r => resizeLanes 0 r n }

/-- A claim as first granted: every register reads 0 (10 R202, log 12). -/
def Claim.fresh (n mn ds : Nat) : Claim where
  grant := n
  min := mn
  des := ds
  shrunk := false
  v := Vector.replicate 32 (List.replicate n 0)
  k := Vector.replicate 8 (List.replicate n 0)
  q := Vector.replicate 4 (List.replicate n 0)
  w := Vector.replicate 4 (List.replicate n 0)

/-- The grant a renegotiation point gives a claim (09 R175). DESIGN CHOICE: a blocked one gives MIN also where an earlier
cap has left the grant below it, whatever lanes are free (log 94). -/
def State.renegGrant (s : State) (t : Thread) (c : Claim) : Nat :=
  let g := s.poolGroup t.core
  let free := s.freeLanes g
  let blocked := ((s.poolThreads g).filter (·.waitsLanes)).any fun w =>
    decide (t.eprio ≤ w.eprio) && (match w.laneReq with
      | some (mn, _) => decide (free + w.lanes < mn) ||
          (decide (16 ≤ s.claimsHeld g) && w.lanes == 0)
      | none => false)
  if blocked then c.min else pow2Below (min c.des (c.grant + free))

/-- A claim after renegotiation: at ERET and restore its grant stays within `cap`, the grant held before the
trap or the save, and SHRUNK records a loss against `g` (09 R175). -/
def State.renegClaim (s : State) (t : Thread) (c : Claim) (cap : Option Nat) (g : Nat) : Claim :=
  let n := match cap with
    | some m => min (s.renegGrant t c) m
    | none => s.renegGrant t c
  { c.resize n with shrunk := cap.isSome && decide (n < g) }

/-- The grant before the trap that ERET returns from: of the bank of the current privilege; the present one
where the thread held no claim then (log 68). -/
def Thread.trapGrant (t : Thread) : Nat :=
  let g := if t.pl = 0 then t.ugrant else t.kgrant
  if g = 0 then t.grantNow else g

/-- VGRANT (09 Table 9.1). -/
def Thread.vgrant (t : Thread) : Word :=
  match t.claim with
  | none => 0
  | some c => BitVec.ofNat 64 (c.grant + 2 ^ 8 * c.min + 2 ^ 16 * c.des + (if c.shrunk then 2 ^ 23 else 0))

end Sys2Proof.Machine
end

