-- ==== Sys2Proof/Machine/WaitFor.lean ====
section
/-! DEFINITION. The wait-for tables: objects, edges, effective priority and the search for cycles
(17 R326 to R334). -/

namespace Sys2Proof.Machine

/-! ### Objects (17 R326) -/

/-- The name of an implicit object: 0xFD, its kind and its number. -/
def implicitName (kind number : Nat) : Nat := 0xFD * 2 ^ 56 + kind * 2 ^ 48 + number

/-- An object that is no word of memory. -/
def isImplicit (obj : Nat) : Bool := decide (0xFD * 2 ^ 56 ≤ obj)

def implicitKind (obj : Nat) : Nat := obj / 2 ^ 48 % 2 ^ 8
def implicitNumber (obj : Nat) : Nat := obj % 2 ^ 48

def poolObject (group : Nat) : Nat := implicitName 5 group
def arrayObject (cl : Nat) : Nat := implicitName 6 cl
def ringObject (cl ring : Nat) : Nat := implicitName 7 (cl * 32 + ring)
def launchObject (launch : Nat) : Nat := implicitName 8 launch
def binObject (set : Nat) : Nat := implicitName 9 set

/-- The die whose home holds a location. -/
def State.dieOfKey (key : Nat) : Nat :=
  if key < 2 ^ 60 then 0 else dieOf ((key - 2 ^ 60) / 2 ^ 18)

def State.homeDie (s : State) (l : Loc) : Nat :=
  match l with
  | .sp c _ => dieOf c
  | .dev pa => (sliceOf s.paired pa).1

/-- The home die of a memory key. -/
def State.keyDie (s : State) (key : Nat) : Nat :=
  if key < 2 ^ 60 then (sliceOf s.paired key).1 else dieOf ((key - 2 ^ 60) / 2 ^ 18)

/-- The table that holds the edges of an object (17 R328). -/
def State.objDie (s : State) (obj : Nat) : Nat :=
  if isImplicit obj then
    match implicitKind obj with
    | 5 => implicitNumber obj / 192
    | 6 => implicitNumber obj / 12
    | 7 => implicitNumber obj / 384
    | 9 => implicitNumber obj / 64
    | _ => 0
  else s.keyDie obj

def State.obj (s : State) (key : Nat) : Obj := (tabGet s.objs key).getD Obj.fresh

def State.setObj (s : State) (key : Nat) (o : Obj) : State :=
  { s with objs := if o = Obj.fresh then tabErase s.objs key else tabSet s.objs key o }

def State.modObj (s : State) (key : Nat) (f : Obj → Obj) : State := s.setObj key (f (s.obj key))

/-! ### Holders (17 Table 17.1) -/

/-- The threads that hold a wait up: `side` is set for a wait on a full queue or ring. -/
def State.holdersOf (s : State) (obj : Nat) (side : Bool) : List Nat :=
  if isImplicit obj then
    let n := implicitNumber obj
    match implicitKind obj with
    | 5 => ((s.poolThreads n).filter fun t => decide (0 < t.lanes)).map (·.tid)
    | 6 => ((s.cluster n).arrays.filterMap fun (_, a) => a.holder)
    | 7 => (s.allThreads.filter fun t =>
        (if side then t.conss else t.prods).any fun r => r.cluster * 32 + r.ring == n).map (·.tid)
    | 8 => (s.allThreads.filter fun t => t.launch == n && t.life != .ended).map (·.tid)
    | 9 => match tabGet s.bins n with
      | some b => b.runner.toList
      | none => []
    | _ => []
  else
    let o := s.obj obj
    let h := s.mem.word obj
    match bits h 2 0 with
    | 1 => (o.parties.filter fun p => p.last != some (bits h 15 8)).map (·.tid)
    | 2 => o.owner.toList
    | 3 => if side then o.conss else o.prods
    | 4 => o.holders
    | _ => []

/-- An object whose holders are of two sides: a queue or a ring. -/
def State.sided (s : State) (obj : Nat) : Bool :=
  if isImplicit obj then implicitKind obj == 7 else bits (s.mem.word obj) 2 0 == 3

/-- The side of a hold edge: set for a consumer, whom a wait on a full object waits for. -/
def State.holdSide (s : State) (obj : Nat) (side : Bool) : Bool := s.sided obj && side

/-- The holders whose hold edge a table holds. -/
def State.trackedHolders (s : State) (obj : Nat) (side : Bool) : List Nat :=
  (s.holdersOf obj side).filter fun t =>
    s.edges.any fun e => !e.wait && e.obj == obj && e.tid == t && e.side == s.holdSide obj side && e.tracked

/-! ### Capacity (17 R328, R333) -/

def State.tableEdges (s : State) (die : Nat) : List Edge :=
  s.edges.filter fun e => e.die == die && e.tracked

/-- Object entries of a table. -/
def State.tableObjs (s : State) (die : Nat) : List Nat :=
  (s.tableEdges die).foldl (fun l e => setInsert l e.obj) []

/-- An edge finds room in its table. -/
def State.tableRoom (s : State) (die obj : Nat) : Bool :=
  decide ((s.tableEdges die).length < 32768) &&
    ((s.tableObjs die).contains obj || decide ((s.tableObjs die).length < 8192))

def State.die (s : State) (d : Nat) : Die := (tabGet s.dies d).getD Die.reset

def State.modDie (s : State) (d : Nat) (f : Die → Die) : State :=
  { s with dies := tabSet s.dies d (f (s.die d)) }

/-! ### Effective priority (17 R329) -/

/-- PRIO.OWN (03 Table 3.6). -/
def Thread.own (t : Thread) : Nat := bits t.prio 2 0

def maxOf (l : List Nat) : Nat := l.foldl max 0

/-- The waiters of an object that lend it their priority. -/
def State.waitersOf (s : State) (obj : Nat) (side : Bool) : List Thread :=
  (s.edges.filter fun e => e.wait && e.tracked && e.obj == obj && e.side == side).filterMap
    fun e => s.thread? e.tid

/-- The objects, with the side, at which a thread holds tracked waits up. -/
def State.heldBy (s : State) (tid : Nat) : List (Nat × Bool) :=
  ((s.edges.filter fun e => e.wait && e.tracked).map fun e => (e.obj, e.side)).eraseDups.filter
    fun (o, d) => (s.trackedHolders o d).contains tid

/-- The name by which a launch that waits stands in an edge. -/
def launchWaiter (launch : Nat) : Nat := 2 ^ 40 + launch

/-- The tracked wait edges of launches on a launch (R331). -/
def State.launchEdges (s : State) (launch : Nat) : List Edge :=
  s.edges.filter fun e => e.wait && e.tracked && e.obj == launchObject launch

/-- The effective priority of a launch: its own, and those of the launches that wait for it
(R329, R331). -/
def State.launchEprio (s : State) (fuel launch : Nat) : Nat :=
  match fuel with
  | 0 => 0
  | j + 1 => maxOf ((match s.launch? launch with
      | some l => l.field 6 18 16
      | none => 0) :: (s.launchEdges launch).map fun e => s.launchEprio j (e.tid - 2 ^ 40))

/-- The priorities of launches that wait for a launch (R331). -/
def State.launchPrio (s : State) (launch : Nat) : Nat :=
  maxOf ((s.launchEdges launch).map fun e => s.launchEprio s.launches.length (e.tid - 2 ^ 40))

/-- What the launches that wait for a thread's launch lend it: through its tracked hold edges. -/
def State.launchLent (s : State) (t : Thread) : Nat :=
  maxOf (((s.launchEdges t.launch).filter fun e => s.edges.any fun x =>
    !x.wait && x.tracked && x.obj == e.obj && x.die == e.die && x.tid == t.tid).map
      fun e => s.launchEprio s.launches.length (e.tid - 2 ^ 40))

/-- Effective priority from the priorities that its other waiters have now. -/
def State.eprioOf (s : State) (t : Thread) : Nat :=
  maxOf ([t.ownNow, s.launchLent t] ++
    ((s.heldBy t.tid).flatMap fun (o, d) =>
      ((s.waitersOf o d).filter fun w => w.tid != t.tid).map (·.eprio)))

def State.refreshPrio (s : State) (tid : Nat) : State :=
  s.modThread tid fun t => { t with eprio := s.eprioOf t }

/-- The first step of a change: the holders of the object, at once. -/
def State.stepPrio (s : State) (obj : Nat) : State :=
  (s.holdersOf obj true ++ s.holdersOf obj false).foldl (fun s t => s.refreshPrio t) s

/-! ### Wait edges (17 R327) -/

/-- The implicit object of a thread that waits with reason 7 or 12 to reissue: its key carries the
side above bit 64. -/
def State.implicitWait (s : State) (t : Thread) : Option (Nat × Bool) :=
  match t.wait with
  | some w =>
    if w.reason = 7 then some (poolObject (s.poolGroup t.core), false)
    else if w.reason = 12 && w.held.isNone && isImplicit (w.key % 2 ^ 64) then
      some (w.key % 2 ^ 64, decide (2 ^ 64 ≤ w.key))
    else none
  | none => none

/-- The thread has a wait edge to an object, on one side. -/
def State.hasWaitEdge (s : State) (tid obj : Nat) (side : Bool) : Bool :=
  s.edges.any fun e => e.wait && e.tid == tid && e.obj == obj && e.side == side

/-- A wait edge of an implicit object whose thread no longer waits there; launches have edges of their own. -/
def State.staleWait (s : State) (e : Edge) : Bool :=
  e.wait && isImplicit e.obj && decide (e.tid < 2 ^ 40) && match s.thread? e.tid with
    | none => true
    | some t => match s.implicitWait t with
      | some (o, d) => o != e.obj || d != e.side
      | none => true

/-- The wait edge of a thread: its wait has not ended. -/
def State.waitOf (s : State) (p : Edge → Bool) (tid : Nat) : Option Edge :=
  s.edges.find? fun e => e.wait && e.tid == tid && p e && !s.staleWait e

/-- The wait edge of a thread in a table. -/
def State.waitEdge (s : State) (die tid : Nat) : Option Edge := s.waitOf (fun e => e.tracked && e.die == die) tid

/-! ### Cycles (17 R332) -/


/-- The holders whose waits a thread's own wait on an object depends on: a claim that waits for more lanes
of its pool does not wait for itself (09 R174, log 66). -/
def blockers (waiter obj : Nat) (l : List Nat) : List Nat :=
  if isImplicit obj && implicitKind obj == 5 then l.filter (· != waiter) else l

/-- A path from an object, on which a thread waits, back to a thread, along hold and wait edges of one
table: the objects with the thread that holds each. -/
def State.findPath (s : State) (fuel die goal waiter obj : Nat) (name : Word) (side : Bool) :
    Option (List (Word × Nat)) :=
  match fuel with
  | 0 => none
  | j + 1 => firstSome (fun h =>
      if h = goal then some [(name, h)]
      else match s.waitEdge die h with
        | none => none
        | some e => (s.findPath j die goal h e.obj e.name e.side).map fun r => (name, h) :: r)
      (blockers waiter obj (s.trackedHolders obj side))

/-- The family handle of a thread. -/
def State.handleOf (s : State) (tid : Nat) : Word :=
  match s.thread? tid with
  | some t => t.famid
  | none => 0

/-- DEADLOCK's TINFO1 (17 Table 17.3). -/
def deadlockInfo (pairs : Nat) (scan trunc : Bool) : Word :=
  BitVec.ofNat 64 (pairs + (if scan then 32 else 0) + (if trunc then 64 else 0))

/-- The cycle record of the thread: at most 16 pairs, in its entry's area too. -/
def State.recordCycle (s : State) (tid : Nat) (path : List (Word × Nat)) : State :=
  let pairs := (path.take 16).map fun (n, h) => (n, s.handleOf h)
  (s.modThread tid fun t => { t with cycle := pairs }).putCycle tid

/-! ### Inserting and removing edges -/

/-- An edge that finds no room: the relation takes place untracked (17 R333). -/
def State.untrack (s : State) (e : Edge) : State :=
  let s := s.modDie e.die fun d => { d with overflow := min (d.overflow + 1) 0xFFFFFFFF }
  let s := { s with edges := s.edges ++ [{ e with tracked := false }] }
  if e.wait then s.setUntr e.tid else s

/-- The registration of WWAIT.nb ends at the thread's next registered wait (17 R342). -/
def State.dropRegistration (s : State) (tid : Nat) : State :=
  match s.thread? tid with
  | none => s
  | some t => match t.wreg with
    | none => s
    | some o =>
      let s := { s with edges := s.edges.filter fun e => !(e.wait && e.tid == tid && e.obj == o) }
      (s.putThread { t with wreg := none }).stepPrio o

/-- A hold edge enters the table of a die, the first step of its change with it. -/
def State.holdIn (s : State) (die tid obj : Nat) (name : Word) (side : Bool) : State :=
  let e : Edge := ⟨false, die, obj, name, tid, side, true⟩
  if s.edges.any fun x => !x.wait && x.tid == tid && x.obj == obj && x.die == die && x.side == side then s
  else if s.tableRoom die obj then { s with edges := s.edges ++ [e] }.refreshPrio tid
  else s.untrack e

/-- The hold edges that an implicit object is to have in the tables (R327): none while no wait edge on it is
in a table. -/
def State.holdsDue (s : State) (obj : Nat) : List (Nat × Nat × Bool) :=
  let dies := ((s.edges.filter fun e => e.wait && e.tracked && e.obj == obj).map (·.die)).eraseDups
  let holders := ((s.holdersOf obj false).map fun t => (t, false)) ++
    (if s.sided obj then (s.holdersOf obj true).map fun t => (t, true) else [])
  dies.flatMap fun d => holders.map fun (t, b) => (d, t, b)

/-- The edges of an implicit object follow its waits and its holders (R327): a wait edge goes once its wait has ended,
and the hold edges come and go with the holders and the wait edges. The first step of the change comes with it
(R329). -/
def State.syncHolds (s : State) (obj : Nat) : State :=
  if !isImplicit obj then s
  else
    let s : State := { s with edges := s.edges.filter fun e => !(e.obj == obj && s.staleWait e) }
    let due := s.holdsDue obj
    let gone (e : Edge) : Bool := !e.wait && e.obj == obj && !due.contains (e.die, e.tid, e.side)
    let left := (s.edges.filter gone).map (·.tid)
    let s : State := { s with edges := s.edges.filter fun e => !gone e }
    let s := left.foldl (fun s t => s.refreshPrio t) s
    (due.foldl (fun s (d, t, b) => s.holdIn d t obj (BitVec.ofNat 64 obj) b) s).stepPrio obj

/-- A thread has come to hold an implicit object, or no longer holds it. -/
def State.holdChanged (s : State) (obj tid : Nat) : State := (s.syncHolds obj).refreshPrio tid

/-- Lanes of a pool have become free: its queue is served, and the hold edges of the pool follow. -/
def State.lanesFreed (s : State) (g : Nat) : State :=
  (s.servePool g (s.poolThreads g).length).syncHolds (poolObject g)

/-- The issuing thread's claim is released and its pool served (09 R186). -/
def State.releaseClaim (s : State) : State :=
  (s.updCur fun t => { t with claim := none, laneRes := none, laneReq := none }).lanesFreed
    (s.poolGroup s.cur.core)

/-- Renegotiation of the issuing thread's claim. -/
def State.renegotiate (s : State) (cap : Option Nat) : State :=
  match s.cur.claim with
  | none => s
  | some c => (s.updCur fun t => { t with claim := some (s.renegClaim s.cur c cap c.grant) }).lanesFreed
      (s.poolGroup s.cur.core)

/-- A thread begins to wait on an object: the cycle it closes, or the machine with its edge. The search goes
through the hold edges that come with the object's first wait edge. -/
def State.insertWait (s : State) (tid obj : Nat) (name : Word) (side : Bool) :
    Except (List (Word × Nat)) State :=
  let die := s.objDie obj
  let s := s.dropRegistration tid
  let e : Edge := ⟨true, die, obj, name, tid, side, true⟩
  if s.tableRoom die obj then
    let t := ({ s with edges := s.edges ++ [e] } : State).syncHolds obj
    match t.findPath 16 die tid tid obj name side with
    | some p => .error p
    | none => .ok (t.stepPrio obj)
  else .ok (s.untrack e)

/-- The wait edge of a thread on an object goes. -/
def State.removeWait (s : State) (tid obj : Nat) : State :=
  (({ s with edges := s.edges.filter fun e => !(e.wait && e.tid == tid && e.obj == obj) } : State).syncHolds obj).stepPrio obj

/-- A thread becomes a holder of a memory object; `side` marks a queue's consumer. -/
def State.insertHold (s : State) (tid obj : Nat) (name : Word) (side : Bool) : State :=
  s.holdIn (s.objDie obj) tid obj name side

def State.removeHold (s : State) (tid obj : Nat) : State :=
  { s with edges := s.edges.filter fun e => !(!e.wait && e.tid == tid && e.obj == obj) }.refreshPrio tid

/-- The wait edges of a launch on its prerequisites that are live, in the table of a die (18 R354). -/
def State.insertLaunchWaits (s : State) (launch die : Nat) (pre : List Nat) : State :=
  pre.foldl (fun s p =>
    let name : Word := BitVec.ofNat 64 (implicitName 8 (match s.launch? p with
      | some l => l.lnum
      | none => 0))
    let e : Edge := ⟨true, die, launchObject p, name, launchWaiter launch, false, true⟩
    if s.tableRoom die (launchObject p) then
      (({ s with edges := s.edges ++ [e] } : State).syncHolds (launchObject p)).stepPrio (launchObject p)
    else s.untrack e) s

/-- They go as the launch binds, or ends unbound. -/
def State.removeLaunchWaits (s : State) (launch : Nat) (pre : List Nat) : State :=
  let s : State := { s with edges := s.edges.filter fun e => !(e.wait && e.tid == launchWaiter launch) }
  pre.foldl (fun s p => (s.syncHolds (launchObject p)).stepPrio (launchObject p)) s

/-- The cycle that a new hold edge closes for a thread that holds a registration (17 R332): the
machine is the one with the hold in place. -/
def State.holdCycle (s : State) (tid : Nat) : Option (List (Word × Nat)) :=
  match s.thread? tid with
  | none => none
  | some t => match t.wreg with
    | none => none
    | some o => match s.edges.find? fun e => e.wait && e.tracked && e.tid == tid && e.obj == o with
      | none => none
      | some e => s.findPath 16 e.die tid tid o e.name e.side

/-- Every edge of an object goes (OFREE, initialisation). -/
def State.dropEdges (s : State) (obj : Nat) : State :=
  { s with edges := s.edges.filter fun e => e.obj != obj }

end Sys2Proof.Machine
end

