-- ==== Sys2Proof/Machine/Ops.lean ====
section
/-! DEFINITION. How an instruction runs: what may stop it, how it reads and writes registers, how a
trap is delivered and returned from, and how an instruction that has run is settled. -/

namespace Sys2Proof.Machine

/-! ### What stops an instruction -/

/-- What a wait leaves behind at its issue. -/
inductive Side where
  | nil
  /-- A walk for a translation that missed (18 R360). -/
  | walk (w : Walk)
  /-- Walks for the elements of a vector instruction (09 R189). -/
  | walks (l : List Walk)
  /-- A request for lanes joins the pool's queue (09 R174). -/
  | claim (mn ds : Nat)
  /-- A TLDW that waits for an array keeps its slot (12 R241). -/
  | slot (ring x : Nat)
  deriving DecidableEq, Repr

/-- Why an instruction does not complete at its issue. `none` for a trap word means that no rule
states it. -/
inductive Stop where
  /-- A trap: it ends the instruction with no further effect, and what has taken effect so far, such as a
  flit read from RX, stands (01 R14). -/
  | trap (c : Cause) (i0 i1 : Option Word) (s : State)
  /-- A wait after which the instruction reissues (06 R119). -/
  | wait (reason key : Nat) (side : Side)
  /-- A bank is lost: those that the instruction needs (06 R124). -/
  | forfeit (m : BitVec 16)
  /-- The deferred-error record of the thread is raised: the instruction has no effect (07 R138). -/
  | deferred

/-- A computation of an instruction over the machine. -/
abbrev M := StateT State (Except Stop)

/-- Trap with two stated words. -/
def trapW {α : Type} (c : Cause) (i0 i1 : Word) : M α := fun s => .error (.trap c (some i0) (some i1) s)

/-- Wait and reissue. -/
def waitR {α : Type} (reason key : Nat) : M α := fun _ => .error (.wait reason key .nil)

def getCur : M Thread := fun s => .ok (s.cur, s)

def updCur (f : Thread → Thread) : M Unit := fun s => .ok ((), s.updCur f)

def modS (f : State → State) : M Unit := fun s => .ok ((), f s)

/-- A computation whose trap leaves the machine as it was in `s0`. -/
def trapIn {α : Type} (s0 : State) (m : M α) : M α := fun s =>
  match m s with
  | .error (.trap c i0 i1 _) => .error (.trap c i0 i1 s0)
  | r => r

/-- A test that must hold, else the given trap. -/
def orTrap (b : Bool) (c : Cause) (i0 i1 : Word) : M Unit := if b then pure () else trapW c i0 i1

/-- The issuing thread has come to hold an implicit object: where its new hold edge closes a cycle, DEADLOCK
is raised in the machine as it was (17 R332). -/
def holdNow (s0 : State) (obj : Nat) : M Unit := fun s =>
  let s := s.holdChanged obj s.cur.tid
  match s.holdCycle s.cur.tid with
  | none => .ok ((), s)
  | some p =>
    let name := match p with
      | (n, _) :: _ => n
      | [] => 0
    .error (.trap .deadlock (some name) (some (deadlockInfo (min p.length 16) false false))
      (s0.unread.recordCycle s0.cur.tid p))

/-! ### Reading registers (02 R28, 03 R48, R50) -/

/-- Predicate `p`; P0 reads 1 (02 R27). -/
def Thread.pred (t : Thread) (p : PredNo) : Bool := p.val == 0 || t.preds.getLsbD p.val

/-- A read of Dn: its value, or a wait with reason 3 (03 R48). -/
def readD (n : Fin 16) : M Word := fun s =>
  if s.cur.dfull.getLsbD n.val then .ok (s.cur.dv[n], s) else .error (.wait 3 n.val .nil)

/-- A read of RXH: the delivered header (11 R218). -/
def readRxh : M Word := fun s =>
  match s.rxPacket s.cur with
  | none => .error (.wait 10 0 .nil)
  | some p => .ok (BitVec.ofNat 64 (p.header.toNat + 2 ^ 48 * p.flits.length +
      2 ^ 63 * (if p.flits.any (·.2) then 1 else 0)), s.bindPacket p)

/-- A read of RX: the next payload flit; a poisoned one traps after it is consumed
(11 R218, R227). DESIGN CHOICE: its position counts from 0 (log 95). -/
def readRx : M Word := fun s =>
  match s.rxPacket s.cur with
  | none => .error (.wait 10 0 .nil)
  | some p =>
    let t := (s.bindPacket p).consumeFlit p
    match p.flits.getD p.taken (0, false) with
    | (v, false) => .ok (v, t)
    | (_, true) =>
      let h := BitVec.ofNat 64 (p.header.toNat + 2 ^ 48 * p.flits.length + 2 ^ 63)
      .error (.trap .poisonRead (some h) (some (BitVec.ofNat 64 p.taken)) t)

/-- A register with an uncorrectable error traps REGISTER_ECC when it is read, and the error is counted (06 R133,
18 Table 18.10). -/
def eccCheck (r : SReg) : M Unit := fun s =>
  if s.cur.ecc.contains r.code.toNat then
    .error (.trap .registerEcc (some (r.code.setWidth 64)) (some 0) (s.countErrors s.cur.core 1)) else .ok ((), s)

/-- The register that a read of `r` reads: Dn for an Sn not yet written (03 R50). -/
def Thread.readReg (t : Thread) (r : SReg) : SReg :=
  match r with
  | .s n => if t.swr.getLsbD n.val then .s n else .d n
  | r => r

/-- A scalar source (02 Table 2.6). -/
def readS (r : SReg) : M Word := do
  let t ← getCur
  eccCheck (t.readReg r)
  match r with
  | .l n => fun s => .ok (s.cur.l[n], s)
  | .g n => fun s => .ok (s.cur.g[n], s)
  | .s n => fun s => if s.cur.swr.getLsbD n.val then .ok (s.cur.sv[n], s) else readD n s
  | .d n => readD n
  | .zero => pure 0
  | .rx => readRx
  | .rxh => readRxh
  | .index => fun s => .ok (s.cur.index, s)

/-! ### Writing registers (03 R49, 11 R214, R215) -/

/-- The check a destination meets before every other effect: an Sn already written (03 R49). -/
def checkDst (d : Dst) : M Unit := fun s =>
  match d with
  | .s n => if s.cur.swr.getLsbD n.val then .error (.trap .doubleSharedWrite none none s) else .ok ((), s)
  | _ => .ok ((), s)

/-- A write of TXH with a packet open, of TX or TXE with none, or of TX after 31 flits is a trap
(11 R215). -/
def portCheck (d : Dst) : M Unit := fun s =>
  match d, s.cur.packet with
  | .txh, some _ => .error (.trap .packetOpen (some 1) (some 0) s)
  | .tx, none => .error (.trap .packetOpen (some 2) (some 0) s)
  | .tx, some p => if 31 ≤ p.sent.length then .error (.trap .packetOpen (some 3) (some 0) s) else .ok ((), s)
  | .txe, none => .error (.trap .packetOpen (some 2) (some 0) s)
  | _, _ => .ok ((), s)

/-- Channels that network back-pressure stops at a core: its bits of `Core.stopped` (15 R292). -/
inductive Chan where
  | requests
  | messages
  | reductions
  deriving DecidableEq, Repr

def Chan.bit (c : Chan) : Nat :=
  match c with
  | .requests => 0
  | .messages => 1
  | .reductions => 2

/-- An operation that needs room in a channel leaves its slot while the channel is stopped, with reason 11
(07 R137, 11 R215, 16 R323). -/
def channelFree (c : Chan) : M Unit := fun s =>
  if !s.cur.halfDone && (s.core s.cur.core).stopped.getLsbD c.bit then .error (.wait 11 c.bit .nil) else .ok ((), s)

/-- The thread waits and its instruction is held until `c` completes it. -/
def holdFor (reason key : Nat) (c : Comp) (acq : Bool) : M Flow := fun s =>
  .ok (.held, s.updCur fun t => { t with life := .waiting, wait := some ⟨reason, some c, acq, key⟩ })

/-- A write of TXH: the packet opens (11 R214). -/
def writeTxh (v : Word) : M Flow := fun s =>
  let ok := !sendReserved v && decide (bits v 10 7 < 12) && decide (bits v 24 13 < s.npkg) &&
    decide (bits v 6 0 < s.countIn (bits v 24 13) (clusterOf (sendCore v)))
  if ok then .ok (.seq, s.updCur fun t => { t with packet := some ⟨v, []⟩ })
  else .error (.trap .access (some v) (some 1) s)

/-- A write of Sn (03 R49): its first, sent to the successor. -/
def writeShared (n : Fin 16) (v : Word) : M Flow := fun s =>
  let t := s.cur
  let s' := s.updCur fun t => { t with sv := t.sv.set n.val v, ecc := t.ecc.erase (0x50 + n.val), swr := t.swr ||| (1#16 <<< n.val) }
  match s'.sendLinked (s'.linkFuel t.fam) t.fam t.k n v t.core false with
  | some s' => .ok (.seq, s')
  | none => .error (.trap .familyAreaFull (some 2) none s)

/-- A scalar destination is written (02 Table 2.6). -/
def writeD (d : Dst) (v : Word) : M Flow := do
  checkDst d
  portCheck d
  match d with
  | .l n => updCur fun t => { t with l := t.l.set n.val v, ecc := t.ecc.erase n.val }; pure .seq
  | .s n => writeShared n v
  | .zero => pure .seq
  | .txh => writeTxh v
  | .tx => channelFree .messages; modS (fun s => match s.cur.packet with
      | some p => s.sendFlit p v false
      | none => s); pure .seq
  | .txe => channelFree .messages; modS (fun s => match s.cur.packet with
      | some p => s.sendFlit p v true
      | none => s); holdFor 11 0 .txe false

/-- STATUS bits are set (03 Table 3.4). -/
def raiseFlags (bitsSet : Word) : M Unit := updCur fun t => { t with status := t.status ||| bitsSet }

/-- Predicate `p` is written; a write to P0 is discarded (02 R27). -/
def writeP (p : PredNo) (b : Bool) : M Unit :=
  updCur fun t => { t with preds :=
    if p.val = 0 then t.preds
    else if b then t.preds ||| (1#8 <<< p.val) else t.preds &&& ~~~ (1#8 <<< p.val) }

/-- CONVCNT advances (08 R169). -/
def countConv : M Unit := updCur fun t => { t with convcnt := t.convcnt + 1 }

/-- A result sets its flags and is then written (04 R81), and a converting instruction advances CONVCNT: where a
write of TXE is held, once the packet is accepted (08 R169). -/
def writeRes (d : Dst) (v flags : Word) (conv : Bool) : M Flow := do
  raiseFlags flags
  let f ← writeD d v
  match f with
  | .held => holdFor 11 0 (.txeRes conv) false
  | f => do
    if conv then countConv
    pure f

def flagUNTR : Word := 0x40
def flagNV : Word := 0x80
def flagDZ : Word := 0x100
def flagOF : Word := 0x200
def flagUF : Word := 0x400
def flagNX : Word := 0x800
def flagMX : Word := 0x1000

/-! ### Transfers of control (02 R23 to R25) -/

/-- The PC moves on by `n` slots; lines that are neither of the new PC nor next are dropped
(02 R23, R40). -/
def Thread.advance (t : Thread) (n : Int) : Thread :=
  let pc := slotAdd t.pc n
  let la := BitVec.ofNat 64 (pc.toNat / 64 * 64)
  { t with pc := pc, rxRead := [], lines := t.lines.filter fun h => h.addr == la || h.addr == la + 64 }

/-- Control passes to `pc`; its line is read anew (02 R40). `src` is TINFO0 of the TGT check, none
where R25 makes none. -/
def Thread.goto (t : Thread) (pc : Word) (src : Option Word) : Thread :=
  { t with pc := pc, rxRead := [], lines := [], target := src }

/-- A transfer whose target fails the form check traps BAD_TARGET (02 R24, 04 R66). -/
def transfer (pc : Word) (src : Option Word) : M Flow := do
  orTrap (!targetFormFails pc) .badTarget pc 0
  updCur fun t => t.goto pc src
  pure .jump

/-! ### Delivering a trap (03 R57 to R62) -/

/-- The causes that TMASK may delegate (03 Table 3.9). -/
def delegable (c : Cause) : Bool :=
  match c with
  | .translation | .access | .registerEcc | .scopeRange | .monitorFull | .reductionState
  | .linkDown | .placeInvalid | .familyField | .familyAreaFull | .barrierState | .objectState
  | .copyFault | .copyShape | .copyId | .entrState | .breakpoint | .watchpoint | .step => false
  | _ => true

/-- BitOf (03 Table 3.8). -/
def tmaskBit (c : Cause) : Nat :=
  match c with
  | .software => 0
  | c => (causeCode c).toNat

/-- The bits of TMASK that can be written (03 Table 3.8). -/
def tmaskWritable : Word :=
  BitVec.ofNat 64 ((allCauses.filter delegable).foldl (fun n c => n ||| 2 ^ tmaskBit c) 0)

/-- A thread halts (03 R62): it leaves its slot, its context is saved with the second cause, and
the Factor hears of both causes. -/
def State.haltThread (s : State) (second : Cause) (pc : Word) : State :=
  let t := { s.cur with life := .halted, halt := some (second, pc), wait := none, half := none }
  let s := s.saveFrame t 3
  s.reportThread t 1 0 [BitVec.ofNat 64 (bits t.kbank.cause 6 0), BitVec.ofNat 64 (causeCode second).toNat]

/-- TCAUSE: the code, and bit 7 for the second of a pair (03 R57). -/
def tcauseWord (c : Cause) (second : Bool) : Word :=
  BitVec.ofNat 64 ((causeCode c).toNat + (if second then 128 else 0))

/-- DeliverToKernel (03 R58). -/
def State.deliverToKernel (s : State) (c : Cause) (pc i0 i1 : Word) : State :=
  let t := s.cur
  if t.status.getLsbD 5 then s.haltThread c pc
  else
    let t := { t with
      kbank := ⟨tcauseWord c s.second, pc, i0, i1⟩, kgrant := t.grantNow
      status := setBits (setBit (setBits t.status 3 2 t.pl) 5 true) 1 0 1 }
    let k := (Loc.sp t.core 0x3C000).key
    let v := s.mem.word k
    let s := if c = .registerEcc then s.reportThread t 2 i0 [] else s
    let s := s.updCur fun _ => t
    match s.mem.tag k with
    | .full =>
      if targetFormFails v then s.haltThread .badTarget pc
      else s.updCur fun t => t.goto v (some 0xFFFFFFFFFFFFFFFE)
    | .poison => s.haltThread .poisonRead pc
    | .empty => s.haltThread .tagMisuse pc
    | .object => s.haltThread .tagMisuse pc

/-- DeliverTrap (03 R58). -/
def State.deliverTrap (s : State) (c : Cause) (pc i0 i1 : Word) : State :=
  let t := s.cur
  if delegable c && t.tmask.getLsbD (tmaskBit c) && t.pl == 0 && !t.status.getLsbD 4 && t.thand != 0 then
    if targetFormFails t.thand then s.deliverToKernel .badTarget pc 0xFFFFFFFFFFFFFFFE 0
    else s.updCur fun t => { t with
      ubank := ⟨tcauseWord c s.second, pc, i0, i1⟩, ugrant := t.grantNow
      status := setBit t.status 4 true }.goto t.thand (some 0xFFFFFFFFFFFFFFFE)
  else s.deliverToKernel c pc i0 i1

/-- A trap word, or a free value where no rule states one. -/
def State.trapWord (s : State) (i : Option Word) : Word × State :=
  match i with
  | some v => (v, s)
  | none => s.freeVal

/-- The issuing thread takes a trap at its PC. -/
def State.takeTrap (s : State) (c : Cause) (i0 i1 : Option Word) : State :=
  let (v0, s) := s.trapWord i0
  let (v1, s) := s.trapWord i1
  { s.deliverTrap c s.cur.pc v0 v1 with flow := .trapped }

/-- Return from a trap (03 R61): the return PC, the thread as it returns, or PRIVILEGE. -/
def eretTarget (t : Thread) : Option (Word × Thread) :=
  if t.pl = 0 then
    if t.status.getLsbD 4 then some (t.ubank.tpc, { t with status := setBit t.status 4 false }) else none
  else if t.status.getLsbD 5 then
    some (t.kbank.tpc, { t with status := setBit (setBits t.status 1 0 (bits t.status 3 2)) 5 false })
  else none

/-! ### Settling an instruction -/

/-- Two walks of one cluster for one page of one address space are one (18 R360). -/
def joinWalk (l : List Walk) (w : Walk) : List Walk :=
  match l with
  | [] => [w]
  | x :: r => if x.cluster = w.cluster && x.asid = w.asid && x.page = w.page
      then { x with waiters := x.waiters ++ w.waiters } :: r else x :: joinWalk r w

def State.applySide (s : State) (d : Side) : State :=
  match d with
  | .nil => s
  | .walk w => { s with walks := joinWalk s.walks w }
  | .walks l => { s with walks := l.foldl joinWalk s.walks }
  | .claim mn ds => { s.updCur (fun t => { t with laneReq := some (mn, ds) }) with stamp := s.stamp + 1 }
  | .slot ring x =>
    let cl := clusterOf s.cur.core
    let s := s.modCluster cl fun c => { c with rings := c.rings.map fun (n, r) =>
      if n = ring then (n, { r with cons := x + 1 }) else (n, r) }
    (s.updCur fun t => { t with conss := t.conss ++ [⟨cl, ring, x, 2⟩] }).holdChanged (ringObject cl ring) s.cur.tid

/-- A wait on an implicit object is a registered one (17 Table 17.1). -/
def registers (reason key : Nat) : Bool := reason == 7 || (reason == 12 && isImplicit (key % 2 ^ 64))

/-- The issuing thread waits, to reissue. A registered wait ends a registration of WWAIT.nb (17 R342). -/
def State.enterWait (s : State) (reason key : Nat) (side : Side) : State :=
  let s := if registers reason key then s.dropRegistration s.cur.tid else s
  { (s.applySide side).updCur fun t => { t with
      life := .waiting, wait := some ⟨reason, none, false, key⟩, since := s.stamp, forfeits := 0 } with
    flow := .waiting reason, stamp := s.stamp + 1 }

/-- Waits that hold their instruction until it completes (02 R38). -/
def holdsInstr (reason : Nat) : Bool := reason == 4 || reason == 8 || reason == 15

/-- A wait for a reason other than send, with a packet open, is a trap (06 R131). -/
def State.waitBarred (s : State) (reason : Nat) : Bool := s.cur.packet.isSome && reason != 11

/-- The deferred-error record is raised and cleared (07 R138). -/
def State.takeDeferred (s : State) : State :=
  match s.cur.errRec with
  | none => s
  | some r => (s.updCur fun t => { t with errRec := none }).takeTrap r.cause (some r.addr)
      (some (BitVec.ofNat 64 (2 ^ 63 + r.count.toNat)))

/-- What an instruction's computation comes to. -/
def State.settle (s : State) (r : Except Stop (Flow × State)) : State :=
  match r with
  | .ok (.seq, t) => { t.updCur (fun x => { x.advance 1 with forfeits := 0 }) with flow := .seq }
  | .ok (.held, t) => if s.waitBarred t.cur.waitReason then s.takeTrap .packetOpen (some 0) (some 0)
      else { t with flow := .held }
  | .ok (f, t) => { t with flow := f }
  | .error (.trap c i0 i1 t) => t.takeTrap c i0 i1
  | .error (.wait r k d) => if s.waitBarred r then s.takeTrap .packetOpen (some 0) (some 0)
      else (s.enterWait r k d).updCur fun t => { t with holds := holdsInstr r }
  | .error .deferred => s.takeDeferred
  | .error (.forfeit m) => { s.updCur fun t => { t with forfeits := t.forfeits + 1, lost := m } with flow := .forfeited }

/-- The guard is 1 (02 R27). -/
def Thread.guardOn (t : Thread) (g : Guard) : Bool := t.pred g.pr != g.pn

/-- An instruction issues: with guard 0 it only takes its slot (02 R27). -/
def issue (g : Guard) (body : M Flow) (s : State) : Host.Outcome State Fault Refusal :=
  .next (if s.cur.guardOn g then s.settle (body s) else s.settle (.ok (.seq, s)))

/-- An event row: it happens only while no thread is issuing, and changes nothing where it is not
enabled. -/
def event (f : State → Option State) (s : State) : Host.Outcome State Fault Refusal :=
  .next (if s.busy then s else (f s).getD s)

end Sys2Proof.Machine
end

