-- ==== Sys2Proof/Machine/Operands.lean ====
section
/-! DEFINITION. Operand forms: B and C operands with their literals, memory addresses, predicates. -/

namespace Sys2Proof.Machine

/-- OperandB (04 R63): a register, or the literal sign- or zero-extended. -/
def operandB (b : SrcB) : M Word :=
  match b with
  | .reg r => readS r
  | .lit v => pure (v.signExtend 64)
  | .ulit v => pure (v.setWidth 64)

/-- A register, or the literal zero-extended (04 R74, R78, 07 R152). -/
def operandZ (b : SrcC) : M Word :=
  match b with
  | .reg r => readS r
  | .lit v => pure (v.setWidth 64)

/-- A register, or the literal sign-extended (07 R134). -/
def operandS (b : SrcC) : M Word :=
  match b with
  | .reg r => readS r
  | .lit v => pure (v.signExtend 64)

/-- The address a memory operand forms (07 R134). -/
def memAddr (m : MemOp) : M Word := do
  let a ← readS m.base
  let b ← operandS m.off
  pure (a + b)

/-- The address of a vector operand: base and literal offset (09 R188). -/
def vecAddr (a : SReg) (off : BitVec 32) : M Word := do
  let b ← readS a
  pure (b + off.signExtend 64)

end Sys2Proof.Machine
end

