-- ==== Sys2Proof/Machine/Debug.lean ====
section
/-! DEFINITION. The debug block of a core (14): its registers, stops, resumes and steps,
breakpoints and watchpoints. -/

namespace Sys2Proof.Machine

/-! ### Stops and resumes (14 R281, R285) -/

/-- A stop acts on a thread by its state. -/
def Thread.stop (t : Thread) (cause : Nat) : Thread :=
  match t.life with
  | .running n => { t with life := .stopped, rslot := some n, dbg := cause, alone := false, stepping := false }
  | .ready =>
    { t with life := .stopped, rslot := none, dbg := cause, alone := false, stepping := false, shade := none }
  | .waiting => { t with stopPend := true, dbg := cause, alone := false, stepping := false }
  | _ => t

/-- DSTAT's record of a stop: ORIGIN, UNIT, OCORE and AT (14 Table 14.4). -/
def dstatStop (d : Word) (origin unit ocore cycle : Nat) (stopped : Bool) : Word :=
  setBits (setBits (setBits (setBits (if stopped then setBit d 0 true else d) 6 4 origin) 9 8 unit)
    16 10 ocore) 63 32 cycle

/-- A stop of every thread of a core; none if one is in effect (14 R281). -/
def State.stopCore (s : State) (c origin unit ocore : Nat) : State :=
  if (s.core c).stopAll then s
  else
    let s := s.modCore c fun x => { x with
      stopAll := true
      dbg := { x.dbg with dstat := dstatStop x.dbg.dstat origin unit ocore x.cycle true } }
    (s.onCore c).foldl (fun s t => s.putThread (t.stop t.dbg)) s

/-- A WAITM that a stop took ends with STOPPED (07 R152); other waits go on. A step that has still to issue is
no step any more. -/
def State.resumeThread (s : State) (t : Thread) : State :=
  let now := (s.core t.core).cycle
  let s := if t.stepping then s.putThread { t with stepping := false } else s
  let t := { t with alone := (s.core t.core).stopAll, stepping := false }
  match t.life with
  | .stopped =>
    match t.rslot with
    | some n => s.putThread { t with life := .running n, rslot := none, dbg := 0 }
    | none => s.putThread { t with life := .ready, readyAt := readyStamp now false, dbg := 0 }
  | .waiting =>
    if t.stopPend then
      match t.wait with
      | some ⟨6, some (.waitm d _), _, _⟩ =>
        let t := { t with stopPend := false, dbg := 0, wait := some ⟨6, some (.waitm d (some 0)), true, 2048⟩ }
        s.putThread t
      | _ => s.putThread { t with stopPend := false, dbg := 0 }
    else s
  | _ => s

/-- A resume of every Stopped thread of a core; it ends the stop in effect. -/
def State.resumeCore (s : State) (c : Nat) : State :=
  let s := s.modCore c fun x => { x with
    stopAll := false, dbg := { x.dbg with dstat := setBit x.dbg.dstat 0 false } }
  (s.onCore c).foldl (fun s t => s.resumeThread t) s

/-- Who holds each slot of a core. -/
def State.holders (s : State) (c : Nat) : List SkidRec :=
  (s.onCore c).filterMap fun t =>
    match t.life with
    | .running n => some ⟨n, t.entry, t.tid, false⟩
    | _ => none

/-- Stops and resumes take effect at a core in the order in which they arrive (14 R281). -/
def insertStop (l : List StopMsg) (m : StopMsg) : List StopMsg :=
  match l with
  | [] => [m]
  | x :: r => if m.due < x.due then m :: x :: r else x :: insertStop r m

/-- A cluster stop or resume leaves its trigger core: it reaches the pool group of the origin in
4 cycles and the other cores of the cluster in 12 (14 R281). A stop finds out who holds a slot (14 R282). -/
def State.clusterCommand (s : State) (c : Nat) (stop : Bool) (origin unit : Nat) : State :=
  let g := s.poolGroup c
  ((clusterCores (clusterOf c)).filter s.coreEnabled).foldl (fun s k =>
    let lag := if s.poolGroup k = g then 4 else 12
    let h := if stop then s.holders k else []
    s.modCore k fun x => { x with
      pendStop := insertStop x.pendStop ⟨x.cycle + lag, x.cycle, stop, origin, unit, c % 128, h⟩ }) s

/-- A turn of core cycle `cycle` while a cluster stop is on its way: who had it, and whether it issued after the
cycle of the trigger (14 R282). -/
def StopMsg.noteTurn (m : StopMsg) (cycle entry tid : Nat) (issued : Bool) : StopMsg :=
  let slot := cycle % 16
  let late := issued && decide (m.sent < cycle)
  if m.skids.any fun k => k.slot == slot then
    { m with skids := m.skids.map fun k =>
        if k.slot = slot && k.tid = tid then { k with issued := k.issued || late } else k }
  else { m with skids := m.skids ++ [⟨slot, entry, tid, late⟩] }

/-- A core notes a turn for the cluster stops on their way to it. -/
def Core.noteSkid (x : Core) (entry tid : Nat) (issued : Bool) : Core :=
  { x with pendStop := x.pendStop.map fun m => m.noteTurn x.cycle entry tid issued }

/-- SKSs as a cluster stop arrives (14 Table 14.5). -/
def State.skidWord (s : State) (m : StopMsg) (slot : Nat) : Word :=
  match m.skids.find? fun k => k.slot == slot with
  | none => 0
  | some k =>
    let stall := match s.thread? k.tid with
      | some t => t.waitReason
      | none => 0
    BitVec.ofNat 64 (1 + (if k.issued then 2 else 0) + 4 * k.entry + 2 ^ 10 * stall)

/-- A cluster stop or resume arrives at a core. -/
def State.stopArrives (s : State) (c : Nat) : Option State :=
  match (s.core c).pendStop with
  | [] => none
  | m :: rest =>
    if (s.core c).cycle < m.due then none
    else
      let s' := s.modCore c fun x => { x with pendStop := rest }
      if m.stop then
        if (s.core c).stopAll then some s'
        else
          let s' := s'.modCore c fun x => { x with dbg := { x.dbg with
            sks := Vector.ofFn fun i => s.skidWord m i.val } }
          some (s'.stopCore c m.origin m.unit m.ocore)
      else some (s'.resumeCore c)

/-- A stop can act on a thread: none is in effect for it, or pending (14 R281). -/
def Thread.canStop (t : Thread) : Bool :=
  match t.life with
  | .running _ => true
  | .ready => true
  | .waiting => !t.stopPend
  | _ => false

/-- A stop of one thread; one that finds a stop in effect changes nothing (14 R281). -/
def State.stopThread (s : State) (t : Thread) (cause origin unit : Nat) : State :=
  if !t.canStop then s
  else (s.putThread (t.stop cause)).modCore t.core fun x => { x with
    dbg := { x.dbg with dstat := dstatStop x.dbg.dstat origin unit (t.core % 128) x.cycle false } }

def State.cmdErr (s : State) (c : Nat) : State :=
  s.modCore c fun x => { x with dbg := { x.dbg with dstat := setBit x.dbg.dstat 2 true } }

/-- The thread of an entry that runs in it: an adopted member rather than its adopter. -/
def State.entryThread (s : State) (c e : Nat) : Option Thread :=
  ((s.onCore c).filter fun t => t.entry == e && t.life != .adopting).head?

/-! ### Stepping (14 R284) -/

/-- The Stopped threads that DSTEP selects, in entry order. -/
def State.stepSet (s : State) (c : Nat) : List Thread :=
  let d := (s.core c).dbg.dstep
  let sel := (s.onCore c).filter fun t =>
    t.life == .stopped && bits t.famid 31 0 == bits d 31 0 &&
      (!d.getLsbD 56 || t.k == bits d 55 32)
  (List.range 256).filterMap fun e => sel.find? fun t => t.entry == e

/-- Slots that a step may hand out: empty and reserved by no Stopped thread. -/
def State.freeSlots (s : State) (c : Nat) : List Nat :=
  let taken := (s.onCore c).filterMap fun t =>
    match t.life with
    | .running n => some n
    | .stopped => t.rslot
    | _ => none
  (List.range 16).filter fun n => !taken.contains n

/-- The selected threads take their slots. -/
def State.stepTake (s : State) (l : List Thread) : State :=
  match l with
  | [] => s
  | t :: r =>
    match t.rslot with
    | some _ => (s.putThread { t with stepping := true }).stepTake r
    | none =>
      match s.freeSlots t.core with
      | n :: _ => (s.putThread { t with stepping := true, rslot := some n }).stepTake r
      | [] => (s.modCore t.core fun x => { x with
          dbg := { x.dbg with dstat := setBit x.dbg.dstat 3 true } }).stepTake r

/-- DCMD (14 Table 14.4). -/
def State.dcmd (s : State) (c : Nat) (v : Word) : State :=
  let op := bits v 2 0
  let scope := bits v 5 4
  match op, scope with
  | 1, 0 =>
    match s.entryThread c (bits v 15 8) with
    | some t => s.stopThread t 0 0 0
    | none => s.cmdErr c
  | 1, 1 => s.stopCore c 0 0 (c % 128)
  | 1, 2 => s.clusterCommand c true 0 0
  | 2, 0 =>
    match s.entryThread c (bits v 15 8) with
    | some t => s.resumeThread t
    | none => s.cmdErr c
  | 2, 1 => s.resumeCore c
  | 2, 2 => s.clusterCommand c false 0 0
  | 3, 1 =>
    match s.stepSet c with
    | [] => s.cmdErr c
    | l => s.stepTake l
  | _, _ => s.cmdErr c

/-! ### Registers (14 Table 14.1) -/

def lifeCode (l : Life) : Nat :=
  match l with
  | .running _ => 1
  | .ready => 2
  | .waiting => 3
  | .stopped => 4
  | .halted => 5
  | _ => 0

/-- DTST of a thread. -/
def Thread.dtst (t : Thread) : Word :=
  BitVec.ofNat 64 (lifeCode t.life + (if t.stopPend then 8 else 0) + 2 ^ 4 * t.stall +
    2 ^ 8 * (t.eprio % 8) + 2 ^ 11 * t.dbg + 2 ^ 32 * bits t.famid 31 0)

/-- A debug register as read (14 R273); write-only and reserved numbers read 0. -/
def State.debugRead (s : State) (c n : Nat) : Word :=
  let x := (s.core c).dbg
  let sel := s.entryThread c (bits x.dsel 7 0)
  if n < 0x44 then x.iba.toList.getD (n - 0x40) 0
  else if n < 0x48 then x.ibc.toList.getD (n - 0x44) 0
  else if n < 0x4C then x.wpa.toList.getD (n - 0x48) 0
  else if n < 0x50 then x.wpc.toList.getD (n - 0x4C) 0
  else if n = 0x50 then x.dctl
  else if n = 0x52 then x.dstat
  else if n = 0x53 then x.dstep
  else if n = 0x54 then x.wha
  else if n = 0x55 then x.whs
  else if n = 0x56 then x.whd
  else if n = 0x57 then x.whf
  else if n = 0x58 then x.sctl
  else if n = 0x59 then x.spc
  else if n = 0x5A then x.srec
  else if n = 0x5B then x.dsel
  else if n = 0x5C then (match sel with
    | some t => t.pc
    | none => 0)
  else if n = 0x5D then (match sel with
    | some t => t.dtst
    | none => 0)
  else if n = 0x5E then (match sel with
    | some t => t.index
    | none => 0)
  else if 0x60 ≤ n && n < 0x70 then x.sks.toList.getD (n - 0x60) 0
  else 0

/-- The writable bits of a register. -/
def keep (v : Word) (mask : Word) : Word := v &&& mask

def setVec {n : Nat} (v : Vector Word n) (i : Nat) (w : Word) : Vector Word n :=
  Vector.ofFn fun j => if j.val = i then w else v[j]

/-- A debug register is written field by field (14 Tables 14.2 to 14.6). -/
def State.debugWrite (s : State) (c n : Nat) (v : Word) : State :=
  let upd (f : Debug → Debug) : State := s.modCore c fun x => { x with dbg := f x.dbg }
  if n < 0x44 then upd fun d => { d with iba := setVec d.iba (n - 0x40) v }
  else if n < 0x48 then upd fun d => { d with ibc := setVec d.ibc (n - 0x44) (keep v 0xFFFFFFFFFFFF001B) }
  else if n < 0x4C then upd fun d => { d with wpa := setVec d.wpa (n - 0x48) (keep v 0x3FFF8) }
  else if n < 0x50 then upd fun d => { d with wpc := setVec d.wpc (n - 0x4C) (keep v 0xFFFF001F) }
  else if n = 0x50 then upd fun d => { d with dctl := keep v 3 }
  else if n = 0x51 then s.dcmd c v
  else if n = 0x52 then upd fun d => { d with dstat := d.dstat &&& ~~~ (v &&& 0xE) }
  else if n = 0x53 then upd fun d => { d with dstep := keep v 0x01FFFFFFFFFFFFFF }
  else if n = 0x54 then upd fun d =>
    if v = 0 then { d with wha := 0, whs := 0, whd := 0, whf := 0 } else { d with wha := keep v 0x3FFFF }
  else if n = 0x55 then upd fun d => { d with whs := keep v 0x3FFFFFFFFF }
  else if n = 0x56 then upd fun d => { d with whd := v }
  else if n = 0x57 then upd fun d => { d with whf := v }
  else if n = 0x58 then
    let p := max 16 (bits v 31 8)
    let s' := upd fun d => { d with sctl := setBits (keep v 3) 31 8 p }
    if v.getLsbD 0 && !(s.core c).dbg.sctl.getLsbD 0 then
      s'.modCore c fun x => { x with sampleAt := x.cycle }
    else s'
  else if n = 0x5B then upd fun d => { d with dsel := keep v 0xFF }
  else s

/-! ### Debug causes (14 R276, R278) -/

/-- BREAKPOINT, WATCHPOINT or STEP on the issuing thread: with DCTL.DBG the thread stops where it
is, or its cluster with SCL; else it traps to kernel with the given PC. -/
def State.debugCause (s : State) (c : Cause) (pc : Word) (i0 i1 : Option Word) (unit : Nat) : State :=
  let d := (s.core s.cur.core).dbg.dctl
  if d.getLsbD 0 then
    let s := if d.getLsbD 1 then s.clusterCommand s.cur.core true 4 unit else s
    s.stopThread s.cur (causeCode c).toNat 4 unit
  else
    let (v0, s) := s.trapWord i0
    let (v1, s) := s.trapWord i1
    s.deliverToKernel c pc v0 v1

/-- Breakpoint n matches an issue at one of `pcs` by the issuing thread (14 R275). -/
def breakHit (d : Debug) (t : Thread) (pcs : List Word) (n : Nat) : Bool :=
  let a := d.iba.toList.getD n 0
  let c := d.ibc.toList.getD n 0
  c.getLsbD 0 && !targetFormFails a && pcs.contains a &&
    (!c.getLsbD 1 || bits t.famid 31 0 == bits c 63 32)

/-- HITS rises by one and saturates (14 R274). -/
def countHit (v : Word) : Word := setBits v 31 16 (min 0xFFFF (bits v 31 16 + 1))

/-- The breakpoints that match count, and the lowest acts. `none`: the turn issues. A thread that a breakpoint
stops is under suppression as it resumes, one that traps as it returns to the PC (14 R275). -/
def State.breakpoints (s : State) (pcs : List Word) : Option State × State :=
  let t := s.cur
  let d := (s.core t.core).dbg
  if t.suppress == some t.pc then (none, s)
  else
    let hits := (List.range 4).filter (breakHit d t pcs)
    match hits with
    | [] => (none, s)
    | n :: _ =>
      let s := s.modCore t.core fun x => { x with dbg := { x.dbg with
        ibc := Vector.ofFn fun i => if hits.contains i.val then countHit (x.dbg.ibc[i]) else (x.dbg.ibc[i]) } }
      let s := { s with flow := .trapped }
      let sup := s.updCur fun t => { t with suppress := some t.pc }
      match bits (d.ibc.toList.getD n 0) 4 3 with
      | 0 =>
        let s := if d.dctl.getLsbD 0 then sup else s.updCur fun t => { t with suppress := none, bpAt := some t.pc }
        (some (s.debugCause .breakpoint t.pc (some (d.iba.toList.getD n 0)) (some (BitVec.ofNat 64 (2 ^ 63 + n))) n), s)
      | 1 =>
        let s := sup.clusterCommand t.core true 1 n
        (some (s.stopThread s.cur 0 1 n), s)
      | 2 => (some (sup.stopThread sup.cur 0 1 n), s)
      | _ => (none, s)

/-! ### Watchpoints (14 R277 to R279) -/

/-- The source of an access: a thread with the address it formed, or an engine. -/
structure WSrc where
  tid : Option Nat
  pos : Word
  kind : Nat
  posted : Bool
  addr : Word
  fidIndex : Word
  deriving DecidableEq, Repr

/-- WHS (14 Table 14.3). -/
def WSrc.whs (w : WSrc) : Word :=
  BitVec.ofNat 64 (w.pos.toNat % 2 ^ 33 + 2 ^ 33 * w.kind + (if w.tid.isNone then 2 ^ 36 else 0))

/-- A match acts on its source (14 R278): `n` is the unit, `act` ACT. -/
def State.watchAct (s : State) (w : WSrc) (n act origin cluster : Nat) : State :=
  match act with
  | 1 => if cluster < 6144 then s.clusterCommand cluster true origin n else s
  | 3 => s
  | _ =>
    match w.tid with
    | none => s
    | some tid => s.modThread tid fun t => { t with watch := t.watch ++ [⟨w.addr, n, w.posted, act, t.pc⟩] }

/-- HITS of watchpoint i counts, and the hit record is written unless ACT is 3 (14 R278). -/
def Debug.recordHit (d : Debug) (i act : Nat) (data : Word) (w : WSrc) : Debug :=
  let y := { d with wpc := setVec d.wpc i (countHit (d.wpc.toList.getD i 0)) }
  if act = 3 then y
  else if y.wha.getLsbD 2 then { y with whs := setBit y.whs 37 true }
  else { y with
    wha := BitVec.ofNat 64 (i + 4 + (d.wpa.toList.getD i 0).toNat)
    whs := w.whs
    whd := data
    whf := w.fidIndex }

/-- An access performed at a scratchpad bank is compared with the core's watchpoints: `off` and
`len` are the bytes it touched, `rd` and `ch` whether it read or changed, `data` the word after. -/
def State.watchSp (s : State) (c off len : Nat) (rd ch : Bool) (data : Word) (w : WSrc) : State :=
  let d := (s.core c).dbg
  let hit (i : Nat) : Bool :=
    let a := (d.wpa.toList.getD i 0).toNat
    let k := d.wpc.toList.getD i 0
    k.getLsbD 0 && ((rd && k.getLsbD 1) || (ch && k.getLsbD 2)) &&
      decide (a < off + len) && decide (off < a + 8)
  (List.range 4).foldl (fun s i =>
    if hit i then
      let act := bits (d.wpc.toList.getD i 0) 4 3
      let s := s.modCore c fun x => { x with dbg := x.dbg.recordHit i act data w }
      s.watchAct w i act 2 c
    else s) s

/-- The source record of a thread's access. -/
def State.threadSrc (s : State) (tid kind : Nat) (posted : Bool) (addr : Word) : WSrc :=
  match s.thread? tid with
  | none => ⟨none, 0, kind, posted, addr, 0⟩
  | some t => ⟨some tid, positionWord s.pkg.num t.core t.entry, kind, posted, addr,
      BitVec.ofNat 64 (bits t.famid 31 0 + 2 ^ 32 * bits t.index 31 0)⟩

/-- At an instruction boundary of the issuing thread a watchpoint match that is due is raised
(14 R278): after the accessing instruction for a returning access, at the instruction then due for
a posted one. A later match waits for a later boundary. -/
def State.raiseWatch (s : State) : State :=
  match s.cur.watch with
  | [] => s
  | w :: rest =>
    let s := s.updCur fun t => { t with watch := rest }
    if w.act = 2 then s.stopThread s.cur 0 (if bits w.addr 63 56 = 0 then 3 else 2) w.unit
    else s.debugCause .watchpoint (if w.posted then s.cur.pc else w.pc) (some w.addr)
      (some (BitVec.ofNat 64 (2 ^ 63 + (if w.posted then 2 ^ 62 else 0) + w.unit))) w.unit

end Sys2Proof.Machine
end

