-- ==== Sys2Proof/Machine/Access.lean ====
section
/-! DEFINITION. Addresses: decode, alignment, scope, translation and its cache (07 R134 to R136,
18 R359 to R361). -/

namespace Sys2Proof.Machine

/-! ### Rights (18 R359) -/

/-- A read or a record read. -/
def accRead : Access := ⟨0, true, false, false⟩
/-- A store. -/
def accWrite : Access := ⟨1, false, true, false⟩
/-- An atomic. -/
def accAtomic : Access := ⟨2, true, true, false⟩
/-- A tag or object operation that writes. -/
def accTag : Access := ⟨3, true, true, false⟩
/-- TAGR, and LDF: kind 3 and 0, R alone. -/
def accTagRead : Access := ⟨3, true, false, false⟩
/-- MONA. -/
def accMon : Access := ⟨4, true, false, false⟩
/-- A fetch. -/
def accFetch : Access := ⟨5, false, false, true⟩

/-- TINFO1 of an access kind (07 R134). -/
def kindWord (a : Access) : Word := a.kind.setWidth 64

/-! ### Table walks (18 R359, Tables 18.6 and 18.7) -/

/-- How a walk ends. -/
inductive WalkEnd where
  /-- A leaf: log2 of the page size, physical base, R, W, X, K. -/
  | leaf (log pa : Nat) (r w x k : Bool)
  | notPresent (level : Nat)
  /-- The home of a table word denies its read to the cluster (19 R380). -/
  | denied (level : Nat)
  | malformed (level : Nat)
  deriving DecidableEq, Repr

/-- Index of a level: its lowest bit and number of bits read. -/
def levelIndex (va level : Nat) : Nat :=
  match level with
  | 4 => va / 2 ^ 48 % 2 ^ 8
  | 3 => va / 2 ^ 39 % 2 ^ 9
  | 2 => va / 2 ^ 30 % 2 ^ 9
  | 1 => va / 2 ^ 21 % 2 ^ 9
  | _ => va / 2 ^ 16 % 2 ^ 5

def levelLog (level : Nat) : Nat :=
  match level with
  | 2 => 30
  | 1 => 21
  | _ => 16

/-- The ranges of 19 Table 19.1, in a package of the domain (21 R399); without FEAT1.LPDDR no leaf
lies in the LPDDR tier (19 Table 19.5). -/
def State.leafTierOk (s : State) (pa : Nat) : Bool :=
  let a := paLocal pa
  decide (pa / 2 ^ 45 < s.pkg.npkg) && (decide (a ≤ 0x00BFFFFFFFFF) ||
    (decide (0x010000000000 ≤ a) && decide (a ≤ 0x01FFFFFFFFFF) && (s.pkg.feat.toList.getD 1 0).getLsbD 3) ||
    (decide (0x1F0000000000 ≤ a) && decide (a ≤ 0x1F00FFFFFFFF)))

/-- Walk from a level down: each read of a table word is a request of the cluster's master. -/
def State.walkFrom (s : State) (mid va table level : Nat) : WalkEnd :=
  let e := s.mem.word (Loc.dev (table + 8 * levelIndex va level)).key
  let leaf := e.getLsbD 1
  let addr := bits e 56 8 * 256
  if !s.homeAllows mid (table + 8 * levelIndex va level) true false then .denied level
  else if !e.getLsbD 0 then .notPresent level
  else if bits e 7 6 != 0 || bits e 63 57 != 0 || (e.getLsbD 3 && !e.getLsbD 2) ||
      (decide (3 ≤ level) && leaf) || (level == 0 && !leaf) then .malformed level
  else if leaf then
    if addr % 2 ^ levelLog level != 0 || !s.leafTierOk addr then .malformed level
    else .leaf (levelLog level) addr (e.getLsbD 2) (e.getLsbD 3) (e.getLsbD 4) (e.getLsbD 5)
  else match level with
    | 0 => .malformed 0
    | l + 1 => s.walkFrom mid va addr l

/-- In paired mode a leaf of half B is mirrored, and neither half may address the other's memory. -/
def State.mirrorLeaf (s : State) (cluster : Nat) (e : WalkEnd) : WalkEnd :=
  match e with
  | .leaf log pa r w x k =>
    if !s.paired then e
    else
      let a := paLocal pa
      if (decide (0x6000000000 ≤ a) && decide (a < 0xC000000000)) || (decide (0x18000000000 ≤ a) && decide (a < 0x20000000000)) then
        .malformed (if log = 30 then 2 else if log = 21 then 1 else 0)
      else if cluster / 12 < 2 then e
      else if a < 0x6000000000 then .leaf log (pa + 0x6000000000) r w x k
      else if decide (0x10000000000 ≤ a) && decide (a < 0x18000000000) then .leaf log (pa + 0x8000000000) r w x k
      else e
  | e => e

/-- The walk of a virtual address of a launch for a cluster. -/
def State.walk (s : State) (cluster launch va : Nat) : WalkEnd :=
  match s.launch? launch with
  | none => .notPresent 4
  | some l => s.mirrorLeaf cluster (s.walkFrom cluster va l.rootTable 4)

/-- Management registers of a package (19 Table 19.1): no device memory. -/
def mgmtPage (pa : Nat) : Bool := decide (0x1F0000000000 ≤ paLocal pa)

/-- Some 64 KiB page of a range is mapped outside the device memory of this package; a page that is not mapped is
not judged (13 R268, log 77). -/
def State.mappedOutside (s : State) (cluster launch a n : Nat) : Bool :=
  (List.range ((a % 65536 + n + 65535) / 65536)).any fun j =>
    match s.walk cluster launch ((a / 65536 + j) * 65536) with
    | .leaf _ pa _ _ _ _ => paPackage pa != s.pkg.num || mgmtPage pa
    | _ => false

/-- A leaf grants an access (18 R359): at app privilege a page with K = 1 admits nothing. -/
def grants (r w x k : Bool) (a : Access) (app : Bool) : Bool :=
  (!a.r || r) && (!a.w || w) && (!a.x || x) && !(k && app)

/-- The translation cache's answer (18 R360). -/
def Cluster.lookup (c : Cluster) (asid va : Nat) (a : Access) (app : Bool) : Option Nat :=
  firstSome (fun e => if e.asid = asid && va / 2 ^ e.log == e.page && grants e.r e.w e.x e.k a app
    then some (e.pa + va % 2 ^ e.log) else none) c.tlb

/-- The launch of a thread holds its address space. -/
def State.asidOf (s : State) (launch : Nat) : Nat :=
  match s.launch? launch with
  | some l => l.asid
  | none => 0

/-- Translate a device-memory address for the issuing thread: a miss waits with reason 15 on a
walk (18 R360). `elem` is the ordinal of a vector element. -/
def translate (va : Word) (a : Access) (elem : Nat) : M Nat := fun s =>
  let t := s.cur
  let cl := clusterOf t.core
  let asid := s.asidOf t.launch
  match (s.cluster cl).lookup asid va.toNat a (t.pl == 0) with
  | some pa => .ok (pa, s)
  | none => .error (.wait 15 0 (.walk ⟨cl, t.launch, asid, va.toNat / 2 ^ 16,
      [⟨0, t.tid, va, a, t.pl == 0, elem⟩]⟩))

/-- Where an address is decoded to before translation (07 Table 7.1), or the cause it traps. -/
inductive Decoded where
  | own (off : Nat)
  | cluster (core off : Nat)
  | dev
  | bad (c : Cause)
  deriving DecidableEq, Repr

/-- Table 7.1 for a thread on core `c` with the given privilege. -/
def State.decodeAddr (s : State) (c : Nat) (app : Bool) (a : Word) : Decoded :=
  let top := bits a 63 56
  if top = 0xFF then
    if decide (0x40000 ≤ bits a 55 0) || (app && decide (0x3C000 ≤ bits a 55 0)) then .bad .access
    else .own (bits a 55 0)
  else if top = 0xFE then
    if bits a 55 25 != 0 || decide ((s.cluster (clusterOf c)).encnt ≤ bits a 24 18) ||
        (app && decide (0x3C000 ≤ bits a 17 0)) then .bad .access
    else .cluster (clusterOf c * 128 + bits a 24 18) (bits a 17 0)
  else if top = 0 then .dev
  else .bad .translation

/-- SCOPE contains the home, as far as the decode row decides it (07 R136). -/
def scopeOk (c : Nat) (d : Decoded) (sc : Scope) : Bool :=
  match sc, d with
  | .core, .own _ => true
  | .core, .cluster k _ => k == c
  | .core, .dev => false
  | .clu, .dev => false
  | _, _ => true

/-- The location an access reaches, after alignment (07 R135), decode, scope and translation. The
traps carry the address and kind; `info` adds the ordinal of a vector element (09 R189). -/
def locate (a : Word) (align : Nat) (acc : Access) (sc : Scope) (elem : Nat) : M (Loc × Bool) := do
  let s ← get
  let info : Word := kindWord acc + BitVec.ofNat 64 (elem * 2 ^ 8)
  orTrap (a.toNat % align == 0) .misaligned a info
  let d := s.decodeAddr s.cur.core (s.cur.pl == 0) a
  match d with
  | .bad c => trapW c a info
  | .own off =>
    orTrap (scopeOk s.cur.core d sc) .scopeRange a info
    pure (.sp s.cur.core off, true)
  | .cluster k off =>
    orTrap (scopeOk s.cur.core d sc) .scopeRange a info
    pure (.sp k off, false)
  | .dev =>
    orTrap (scopeOk s.cur.core d sc) .scopeRange a info
    let pa ← translate a acc elem
    orTrap (sc == .sys || paPackage pa == s.pkg.num) .scopeRange a info
    pure (.dev pa, false)

end Sys2Proof.Machine
end

