-- ==== Sys2Proof/Machine/Flags.lean ====
section
/-! DEFINITION. Conditions, predicate combinations and the flag computations of integer
arithmetic (04 Tables 4.9 to 4.14, R81, R82). Flags of floating-point operations stand in
`Sys2Proof/Machine/Rounding.lean`. -/

namespace Sys2Proof.Machine

/-- Integer conditions (04 Table 4.9). -/
def icond (c : ICond) (a b : Word) : Bool :=
  match c with
  | .eq => a == b
  | .ne => a != b
  | .lt => a.slt b
  | .le => a.sle b
  | .gt => b.slt a
  | .ge => b.sle a
  | .ltu => a.ult b
  | .leu => a.ule b
  | .gtu => b.ult a
  | .geu => b.ule a

/-- A condition combined into a predicate (04 R87). -/
def combine (m : Cmb) (old c : Bool) : Bool :=
  match m with
  | .set => c
  | .and => old && c
  | .or => old || c

/-- PLOG and KLOG: the bit of the truth table (04 R88). -/
def lutBit (lut : BitVec 4) (a b : Bool) : Bool :=
  lut.getLsbD ((if a then 2 else 0) + (if b then 1 else 0))

/-- An integer clamped to a range, with whether it was clamped. -/
def clamp (v lo hi : Int) : Int × Bool :=
  if v < lo then (lo, true) else if hi < v then (hi, true) else (v, false)

/-- The range of `n`-bit integers. -/
def intRange (n : Nat) (uns : Bool) : Int × Int :=
  if uns then (0, (2 : Int) ^ n - 1) else (-(2 : Int) ^ (n - 1), (2 : Int) ^ (n - 1) - 1)

/-- The value of the low `n` bits as an integer. -/
def intOf (n : Nat) (uns : Bool) (w : Word) : Int :=
  if uns then ((w.toNat % 2 ^ n : Nat) : Int) else sintN n w

/-- ADDS and SUBS: the clamped result and STATUS.OF (04 Table 4.14). -/
def addClamped (uns sub : Bool) (a b : Word) : Word × Word :=
  let x := intOf 64 uns a
  let y := intOf 64 uns b
  let (lo, hi) := intRange 64 uns
  let (r, c) := clamp (if sub then x - y else x + y) lo hi
  (BitVec.ofInt 64 r, if c then flagOF else 0)

/-- Division and remainder (04 R81): the result and the flags. -/
def divide (signed rem : Bool) (a b : Word) : Word × Word :=
  let x := intOf 64 (!signed) a
  let y := intOf 64 (!signed) b
  if y = 0 then
    (if rem then a else BitVec.ofInt 64 (-1), flagDZ)
  else if signed && x == -(2 : Int) ^ 63 && y == -1 then
    if rem then (0, 0) else (a, flagOF)
  else
    let q := Int.tdiv x y
    (BitVec.ofInt 64 (if rem then x - y * q else q), 0)

/-- ABS (04 R82). -/
def absWord (a : Word) : Word × Word :=
  if a = 0x8000000000000000 then (a, flagOF)
  else (if a.getLsbD 63 then -a else a, 0)

/-- Leading zeros below bit `n`. -/
def clzN (w : Word) (n : Nat) : Nat :=
  match n with
  | 0 => 0
  | j + 1 => if w.getLsbD j then 0 else 1 + clzN w j

/-- Trailing zeros from bit `i`, over `n` bits. -/
def ctzN (w : Word) (i n : Nat) : Nat :=
  match n with
  | 0 => 0
  | j + 1 => if w.getLsbD i then 0 else 1 + ctzN w (i + 1) j

/-- Ones among the low `n` bits. -/
def popN (w : Word) (n : Nat) : Nat :=
  match n with
  | 0 => 0
  | j + 1 => (if w.getLsbD j then 1 else 0) + popN w j

/-- The low `n` bits in reverse order. -/
def revN (w : Word) (n : Nat) : Nat :=
  match n with
  | 0 => 0
  | j + 1 => (if w.getLsbD j then 1 else 0) * 2 ^ (63 - j) + revN w j

/-- Byte k in byte 7 - k (04 R82). -/
def swapBytes (w : Word) : Word :=
  bytesWord (wordBytes w 8).reverse

end Sys2Proof.Machine
end

