-- ==== Sys2Proof/Machine/Formats.lean ====
section
/-! DEFINITION. Number formats (08 R154 to R161): widths, decoding to exact values, encodings of
special values. -/

namespace Sys2Proof.Machine

/-- An exact value: `num neg m e st` is ±m × 2^e, or, with `st`, a number strictly between that and
±(m + 1) × 2^e whose further digits decide nothing; m is not 0. -/
inductive FVal where
  | nan (signalling : Bool)
  | inf (neg : Bool)
  | zero (neg : Bool)
  | num (neg : Bool) (m : Nat) (e : Int) (st : Bool)
  deriving DecidableEq, Repr

/-- The number of bits of `n` within `fuel`. -/
def bitLenF (n fuel : Nat) : Nat :=
  match fuel with
  | 0 => 0
  | j + 1 => if n = 0 then 0 else 1 + bitLenF (n / 2) j

/-- The number of bits of `n`. -/
def bitLen (n : Nat) : Nat := if n = 0 then 0 else Nat.log2 n + 1

/-- floor(log2 |v|) of ±m × 2^e. -/
def topExp (m : Nat) (e : Int) : Int := (bitLen m : Int) - 1 + e

/-- Parameters of a sign, exponent, fraction format (08 Table 8.1): exponent bits, fraction bits,
bias, and whether it has Inf; E4M3 and E2M1 have none. -/
structure FPar where
  eb : Nat
  fb : Nat
  bias : Nat
  hasInf : Bool
  /-- The exponent field and fraction of the largest finite value. -/
  maxE : Nat
  maxF : Nat
  canon : Nat
  deriving DecidableEq, Repr

def fp32 : FPar := ⟨8, 23, 127, true, 254, 0x7FFFFF, 0x7FC00000⟩
def bf16 : FPar := ⟨8, 7, 127, true, 254, 0x7F, 0x7FC0⟩
def fp16 : FPar := ⟨5, 10, 15, true, 30, 0x3FF, 0x7E00⟩
def e4m3 : FPar := ⟨4, 3, 7, false, 15, 6, 0x7F⟩
def e5m2 : FPar := ⟨5, 2, 15, true, 30, 3, 0x7E⟩
/-- E2M1 has no NaN (08 Table 8.2); `canon` is not used. -/
def e2m1 : FPar := ⟨2, 1, 1, false, 3, 1, 0⟩

/-- A number format as an instruction's element. -/
inductive NFmt where
  | int (w : Nat)
  | flt (p : FPar)
  | tap (n : Nat)
  deriving DecidableEq, Repr

/-- The element format of a format code; for a block format, that of its elements (08 R157). -/
def fmtElem (f : Fmt) : NFmt :=
  match f with
  | .i8 => .int 8 | .i16 => .int 16 | .i32 => .int 32 | .i64 => .int 64
  | .fp32 => .flt fp32 | .bf16 => .flt bf16 | .fp16 => .flt fp16
  | .e4m3 => .flt e4m3 | .e5m2 => .flt e5m2 | .mxfp8 => .flt e4m3 | .mxfp4 => .flt e2m1
  | .t8 => .tap 8 | .t6 => .tap 6

def FPar.width (p : FPar) : Nat := 1 + p.eb + p.fb

/-- The width of an encoding. -/
def NFmt.width (f : NFmt) : Nat :=
  match f with
  | .int w => w
  | .flt p => p.width
  | .tap n => n

/-- Decode a sign, exponent, fraction encoding (08 R155, R156). -/
def decodeFlt (p : FPar) (x : Nat) : FVal :=
  let f := x % 2 ^ p.fb
  let e := x / 2 ^ p.fb % 2 ^ p.eb
  let neg := x / 2 ^ (p.fb + p.eb) % 2 == 1
  if p.hasInf && e == 2 ^ p.eb - 1 then
    if f = 0 then .inf neg else .nan (f < 2 ^ (p.fb - 1))
  else if p == e4m3 && e == 15 && f == 7 then .nan false
  else if e = 0 then
    if f = 0 then .zero neg else .num neg f (1 - (p.bias : Int) - p.fb) false
  else .num neg (2 ^ p.fb + f) ((e : Int) - p.bias - p.fb) false

/-- The length of the run of bit `r` that starts at bit `i` going down; the bits lie below `i + 1`. -/
def runLen (y : Nat) (r : Bool) (i fuel : Nat) : Nat :=
  match fuel with
  | 0 => 0
  | j + 1 => if (y / 2 ^ i % 2 == 1) == r then 1 + runLen y r (i - 1) j else 0

/-- DecodeT (08 R159). -/
def decodeTap (n : Nat) (x : Nat) : FVal :=
  let x := x % 2 ^ n
  if x = 0 then .zero false
  else if x = 2 ^ (n - 1) then .nan false
  else
    let neg := decide (2 ^ (n - 1) ≤ x)
    let y := if neg then 2 ^ n - x else x
    let nb := n - 1
    let r := y / 2 ^ (nb - 1) % 2 == 1
    let m := runLen y r (nb - 1) nb
    let k : Int := if r then (m : Int) - 1 else -(m : Int)
    let left := nb - min nb (m + 1)
    let rest := y % 2 ^ left
    let e := if left = 0 then 0 else rest / 2 ^ (left - 1)
    let fb := left - 1
    let f := if left = 0 then 0 else rest % 2 ^ fb
    .num neg (2 ^ fb + f) (2 * k + e - fb) false

/-- Decode an element; an integer as signed, or unsigned with `uns` (08 R154). -/
def decodeElem (f : NFmt) (uns : Bool) (x : Nat) : FVal :=
  match f with
  | .int w =>
    let v := x % 2 ^ w
    if v = 0 then .zero false
    else if uns || v < 2 ^ (w - 1) then .num false v 0 false else .num true (2 ^ w - v) 0 false
  | .flt p => decodeFlt p x
  | .tap n => decodeTap n x

/-- v × 2^k. -/
def FVal.scale (v : FVal) (k : Int) : FVal :=
  match v with
  | .num s m e st => .num s m (e + k) st
  | v => v

def FVal.isNan (v : FVal) : Bool :=
  match v with
  | .nan _ => true
  | _ => false

def FVal.isInf (v : FVal) : Bool :=
  match v with
  | .inf _ => true
  | _ => false

def FVal.isZero (v : FVal) : Bool :=
  match v with
  | .zero _ => true
  | _ => false

def FVal.isSnan (v : FVal) : Bool :=
  match v with
  | .nan s => s
  | _ => false

def FVal.isNeg (v : FVal) : Bool :=
  match v with
  | .nan _ => false
  | .inf s => s
  | .zero s => s
  | .num s _ _ _ => s

/-- NV for a signalling NaN. -/
def snanFlag (v : FVal) : Word := if v.isSnan then flagNV else 0

/-- A value from an integer multiple of 2^e, zero as +0. -/
def ofScaled (z : Int) (e : Int) : FVal :=
  if z = 0 then .zero false else .num (z < 0) z.natAbs e false

/-- A finite exact value as an integer multiple of 2^e, where `e` is not above its exponent. -/
def FVal.scaled (v : FVal) (e : Int) : Int :=
  match v with
  | .num s m k _ => (if s then -1 else 1) * (m * 2 ^ (k - e).toNat : Nat)
  | _ => 0

/-- The exponent of a finite value. -/
def FVal.exp? (v : FVal) : Option Int :=
  match v with
  | .num _ _ e _ => some e
  | _ => none

end Sys2Proof.Machine
end

