-- ==== Sys2Proof/Machine/Rounding.lean ====
section
/-! DEFINITION. Rounding, overflow, conversion and the stochastic-rounding key (08 R162 to R171,
04 R89 to R95), with the flags each sets. -/

namespace Sys2Proof.Machine

/-- How a result is rounded: the mode, OVF, and SRBits (08 R162). -/
structure RCtx where
  mode : Rnd
  ovf : Bool
  srb : Word
  deriving DecidableEq, Repr

/-- A rounded result: its encoding and the STATUS flags it sets. -/
structure Rounded where
  bits : Nat
  flags : Word
  deriving DecidableEq, Repr

/-- Away(m): d = r / 2^s, a little more with `st`; `a` odd decides a tie (08 Table 8.6). -/
def away (c : RCtx) (neg : Bool) (a r s : Nat) (st : Bool) : Bool :=
  if r = 0 && !st then false
  else match c.mode with
  | .rne => decide (2 ^ s < 2 * r) || (decide (2 * r = 2 ^ s) && (st || a % 2 == 1))
  | .rtz => false
  | .rup => !neg
  | .rdn => neg
  | .sr => decide (c.srb.toNat / 2 ^ 32 < r * 2 ^ 32 / 2 ^ s)
  | .dyn => false

/-- m × 2^e in units of 2^q: the lower neighbour, the remainder and the number of bits below the
unit. -/
def splitAt (m : Nat) (e q : Int) : Nat × Nat × Nat :=
  if e ≤ q then
    let s := (q - e).toNat
    (m / 2 ^ s, m % 2 ^ s, s)
  else (m * 2 ^ (e - q).toNat, 0, 0)

/-- Overflow of a result with the given sign (08 R163, Table 8.5, 04 Table 4.19). -/
def overflowFlt (p : FPar) (c : RCtx) (neg : Bool) : Rounded :=
  let sgn := if neg then 2 ^ (p.fb + p.eb) else 0
  let maxV := sgn + p.maxE * 2 ^ p.fb + p.maxF
  let infV := sgn + (2 ^ p.eb - 1) * 2 ^ p.fb
  let toMax := match c.mode with
    | .rtz => true
    | .rup => neg
    | .rdn => !neg
    | _ => false
  let r := if !c.ovf then maxV
    else if p.hasInf then (if toMax then maxV else infV)
    else if p == e4m3 then sgn + p.canon
    else 0
  ⟨r, flagOF ||| flagNX⟩

/-- Round a nonzero value to a floating format and encode it (08 R162, R163, R165). -/
def roundFlt (p : FPar) (c : RCtx) (neg : Bool) (m : Nat) (e : Int) (st : Bool) : Rounded :=
  let ev := topExp m e
  let emin : Int := 1 - p.bias
  let q := (if ev < emin then emin else ev) - p.fb
  let (a, r, s) := splitAt m e q
  let a' := if away c neg a r s st then a + 1 else a
  let inexact := r != 0 || st
  -- with an unbounded exponent, for tininess
  let (ua, ur, us) := splitAt m e (ev - p.fb)
  let u := if away c neg ua ur us st then ua + 1 else ua
  let tiny := decide (ev < emin) && !(decide (ev + 1 = emin) && u == 2 ^ (p.fb + 1))
  let maxM := 2 ^ p.fb + p.maxF
  let maxQ : Int := (p.maxE : Int) - p.bias - p.fb
  let big := if q ≤ maxQ then decide (maxM * 2 ^ (maxQ - q).toNat < a') else decide (maxM < a' * 2 ^ (q - maxQ).toNat)
  if big then overflowFlt p c neg
  else
    let sgn := if neg then 2 ^ (p.fb + p.eb) else 0
    let fl := if inexact then (if tiny then flagUF ||| flagNX else flagNX) else 0
    let mag := if a' < 2 ^ p.fb then a'
      else if a' = 2 ^ (p.fb + 1) then ((q + 1 + p.fb + p.bias).toNat) * 2 ^ p.fb
      else ((q + p.fb + p.bias).toNat) * 2 ^ p.fb + (a' - 2 ^ p.fb)
    ⟨sgn + mag, fl⟩

/-- EncodeT (08 R164). -/
def roundTap (n : Nat) (c : RCtx) (neg : Bool) (m : Nat) (e : Int) (st : Bool) : Rounded :=
  let e2 := topExp m e
  let top : Int := 2 * ((n : Int) - 2)
  let fix (t : Nat) : Nat := if neg then 2 ^ n - t else t
  let big := decide (top < e2) || (e2 == top && (m != 2 ^ (bitLen m - 1) || st))
  if big then ⟨if c.ovf then 2 ^ (n - 1) else fix (2 ^ (n - 1) - 1), flagOF ||| flagNX⟩
  else
    let k := e2 / 2
    let eb := (e2 % 2).toNat
    let fl := bitLen m - 1
    let f := m - 2 ^ fl
    let reg := if 0 ≤ k then 2 ^ (k.toNat + 2) - 2 else 1
    let rl := if 0 ≤ k then k.toNat + 2 else (-k).toNat + 1
    let str := (reg * 2 + eb) * 2 ^ fl + f
    let len := rl + 1 + fl
    let (t, r, s) := if n - 1 ≤ len then
        (str / 2 ^ (len - (n - 1)), str % 2 ^ (len - (n - 1)), len - (n - 1))
      else (str * 2 ^ (n - 1 - len), 0, 0)
    let t' := if away c neg t r s st then t + 1 else t
    let t'' := min (max t' 1) (2 ^ (n - 1) - 1)
    let inexact := r != 0 || st || t'' != t'
    let uf := decide (e2 < -top)
    ⟨fix t'', (if inexact then flagNX else 0) ||| (if uf then flagUF else 0)⟩

/-- What a floating value outside the range of an integer format sets: NV (04 R95), and OF and NX as every
overflow does (08 R163, R165). -/
def flagsIntOverflow : Word := flagNV ||| flagOF ||| flagNX

/-- The flags of an integer v that is outside a range with maximum hi: an overflow where its magnitude exceeds the
maximum (08 R162), else NV alone (04 R95): a small negative number to an unsigned format. -/
def clampFlags (v hi : Int) : Word := if hi < v.natAbs then flagsIntOverflow else flagNV

/-- Round to an integer of `w` bits (04 R95). -/
def roundInt (w : Nat) (uns : Bool) (c : RCtx) (neg : Bool) (m : Nat) (e : Int) (st : Bool) :
    Rounded :=
  let (a, r, s) := splitAt m e 0
  let a' := if away c neg a r s st then a + 1 else a
  let v : Int := if neg then -(a' : Int) else a'
  let (lo, hi) := intRange w uns
  let (x, cl) := clamp v lo hi
  ⟨(BitVec.ofInt 64 x).toNat, if cl then clampFlags v hi else if r != 0 || st then flagNX else 0⟩

/-- The canonical NaN of a format; NaR of a tapered one; 0 of an integer (08 R156, R166). -/
def NFmt.nan (f : NFmt) : Nat :=
  match f with
  | .int _ => 0
  | .flt p => p.canon
  | .tap n => 2 ^ (n - 1)

/-- Round an exact value to a format: the tail of Convert (08 R166), for a source that is no
integer. Integer results are sign- or zero-extended to 64 bits. -/
def roundTo (f : NFmt) (uns : Bool) (c : RCtx) (v : FVal) : Rounded :=
  match f, v with
  | .int _, .nan _ => ⟨0, flagNV⟩
  | f, .nan s => ⟨f.nan, if s then flagNV else 0⟩
  | .int w, .inf neg =>
    let (lo, hi) := intRange w uns
    ⟨(BitVec.ofInt 64 (if neg then lo else hi)).toNat, flagsIntOverflow⟩
  | .flt p, .inf neg =>
    if p.hasInf then ⟨(if neg then 2 ^ (p.fb + p.eb) else 0) + (2 ^ p.eb - 1) * 2 ^ p.fb, 0⟩
    else overflowFlt p c neg
  | .tap n, .inf neg =>
    ⟨if c.ovf then 2 ^ (n - 1) else if neg then 2 ^ (n - 1) + 1 else 2 ^ (n - 1) - 1, flagOF ||| flagNX⟩
  | .int _, .zero _ => ⟨0, 0⟩
  | .tap _, .zero _ => ⟨0, 0⟩
  | .flt p, .zero neg => ⟨if neg then 2 ^ (p.fb + p.eb) else 0, 0⟩
  | .int w, .num s m e st => roundInt w uns c s m e st
  | .flt p, .num s m e st => roundFlt p c s m e st
  | .tap n, .num s m e st => roundTap n c s m e st

/-- Integer to integer: OVF = 0 clamps and sets OF, OVF = 1 keeps the low bits (08 R154). -/
def intToInt (ws wd : Nat) (uns ovf : Bool) (x : Nat) : Rounded :=
  let v : Int := intOf ws uns (BitVec.ofNat 64 x)
  let (lo, hi) := intRange wd uns
  let (y, c) := if ovf then (v, false) else clamp v lo hi
  ⟨(BitVec.ofInt 64 y).toNat, if c then flagOF else 0⟩

/-- Convert (08 R166). Equal formats copy every value but a NaN (04 R94). -/
def convert (s d : NFmt) (uns : Bool) (c : RCtx) (x : Nat) : Rounded :=
  match s, d with
  | .int ws, .int wd => intToInt ws wd uns c.ovf x
  | s, d =>
    let v := decodeElem s uns x
    if s = d && !v.isNan then ⟨x % 2 ^ s.width, 0⟩ else roundTo d uns c v

/-! ### The stochastic-rounding key (08 R167, R168) -/

def mix64 (z : Word) : Word :=
  let z := (z ^^^ (z >>> 30)) * 0xBF58476D1CE4E5B9
  let z := (z ^^^ (z >>> 27)) * 0x94D049BB133111EB
  z ^^^ (z >>> 31)

/-- The dealt position relative to the first unit of the launch's place. -/
def relPosition (dealt first : Nat) : Nat × Nat × Nat :=
  ((dealt % 2 ^ 13 / 1536 + 4 - first % 2 ^ 13 / 1536 % 4) % 4,
   (dealt % 2 ^ 13 / 128 % 12 + 16 - first % 2 ^ 13 / 128 % 12) % 16,
   (dealt % 128 + 128 - first % 128) % 128)

/-- SRBits of element `lane` under a conversion count. -/
def srBits (famid index convcnt : Word) (dealt first lane : Nat) : Word :=
  let (d, cl, co) := relPosition dealt first
  let k0 := BitVec.ofNat 64 (bits famid 31 0 * 2 ^ 32 + d * 2 ^ 30 + cl * 2 ^ 26 + co * 2 ^ 19 +
    lane % 65536 * 8)
  mix64 (mix64 (mix64 k0 ^^^ index) ^^^ convcnt)

/-- The first core of the place a thread's launch is bound to. -/
def State.placeFirst (s : State) (launch : Nat) : Nat :=
  match s.launch? launch with
  | some l => l.place.headD 0
  | none => 0

def rndOfNat (n : Nat) : Rnd :=
  match n with
  | 1 => .rtz
  | 2 => .rup
  | 3 => .rdn
  | 4 => .sr
  | _ => .rne

/-- The rounding mode of an instruction: RND, or ROUND.MODE when RND = 7 (04 R90). -/
def Thread.mode (t : Thread) (r : Rnd) : Rnd :=
  match r with
  | .dyn => rndOfNat (bits t.round 2 0)
  | r => r

/-- The rounding context of element `lane` of the issuing instruction. -/
def State.rctx (s : State) (r : Rnd) (ovf : Bool) (lane : Nat) : RCtx :=
  ⟨s.cur.mode r, ovf,
   srBits s.cur.famid s.cur.index s.cur.convcnt s.cur.dealt (s.placeFirst s.cur.launch) lane⟩


/-! ### Exact arithmetic -/

/-- The sign of an exact zero sum of operands of opposite sign (04 Table 4.19). -/
def zeroSum (c : RCtx) (a b : Bool) : Bool :=
  if a = b then a else c.mode == .rdn

/-- x + y, with the flags of its special cases (04 Table 4.19). -/
def addVal (c : RCtx) (x y : FVal) : FVal × Word :=
  if x.isNan || y.isNan then (.nan false, snanFlag x ||| snanFlag y)
  else match x, y with
  | .inf a, .inf b => if a = b then (.inf a, 0) else (.nan false, flagNV)
  | .inf a, _ => (.inf a, 0)
  | _, .inf b => (.inf b, 0)
  | .zero a, .zero b => (.zero (zeroSum c a b), 0)
  | .zero _, y => (y, 0)
  | x, .zero _ => (x, 0)
  | .num _ _ e₁ _, .num _ _ e₂ _ =>
    let e := min e₁ e₂
    let z := x.scaled e + y.scaled e
    if z = 0 then (.zero (zeroSum c x.isNeg y.isNeg), 0) else (ofScaled z e, 0)
  | x, _ => (x, 0)

def FVal.negate (v : FVal) : FVal :=
  match v with
  | .nan s => .nan s
  | .inf s => .inf (!s)
  | .zero s => .zero (!s)
  | .num s m e st => .num (!s) m e st

/-- x × y, with the flags of its special cases. -/
def mulVal (x y : FVal) : FVal × Word :=
  if x.isNan || y.isNan then (.nan false, snanFlag x ||| snanFlag y)
  else
    let sg := x.isNeg != y.isNeg
    match x, y with
    | .inf _, .zero _ => (.nan false, flagNV)
    | .zero _, .inf _ => (.nan false, flagNV)
    | .inf _, _ => (.inf sg, 0)
    | _, .inf _ => (.inf sg, 0)
    | .zero _, _ => (.zero sg, 0)
    | _, .zero _ => (.zero sg, 0)
    | .num _ m₁ e₁ _, .num _ m₂ e₂ _ => (.num sg (m₁ * m₂) (e₁ + e₂) false, 0)
    | x, _ => (x, 0)

/-- x × y + z with one rounding (04 R92, Table 4.19): 0 × Inf + z is invalid for any z. -/
def fmaVal (c : RCtx) (x y z : FVal) : FVal × Word :=
  let sn := snanFlag x ||| snanFlag y ||| snanFlag z
  let bad := (x.isInf && y.isZero) || (x.isZero && y.isInf)
  if bad then (.nan false, flagNV ||| sn)
  else if x.isNan || y.isNan || z.isNan then (.nan false, sn)
  else addVal c (mulVal x y).1 z

/-- Whether x < y, for values that are no NaN; -0 and +0 are equal. -/
def FVal.lt (x y : FVal) : Bool :=
  match x, y with
  | .inf a, .inf b => a && !b
  | .inf a, _ => a
  | _, .inf b => !b
  | .num _ _ e₁ _, .num _ _ e₂ _ =>
    let e := min e₁ e₂
    decide (x.scaled e < y.scaled e)
  | .zero _, y => !y.isZero && !y.isNeg
  | x, .zero _ => !x.isZero && x.isNeg
  | _, _ => false

/-- FMIN and FMAX (04 R91): -0 counts as less than +0; one NaN gives the other operand. -/
def minmaxVal (f : NFmt) (max : Bool) (a b : Nat) : Rounded :=
  let x := decodeElem f false a
  let y := decodeElem f false b
  let fl := snanFlag x ||| snanFlag y
  let less := x.lt y || (x.isZero && y.isZero && x.isNeg && !y.isNeg)
  if x.isNan && y.isNan then ⟨f.nan, fl⟩
  else if x.isNan then ⟨b % 2 ^ f.width, fl⟩
  else if y.isNan then ⟨a % 2 ^ f.width, fl⟩
  else if max then ⟨if less then b % 2 ^ f.width else a % 2 ^ f.width, fl⟩
  else ⟨if less then a % 2 ^ f.width
        else if y.lt x || (x.isZero && y.isZero && y.isNeg && !x.isNeg) then b % 2 ^ f.width
        else a % 2 ^ f.width, fl⟩

/-- Floating conditions (04 Table 4.12) with the NV they set. -/
def fcond (k : FCond) (x y : FVal) : Bool × Word :=
  let un := x.isNan || y.isNan
  let sn := snanFlag x ||| snanFlag y
  let any := if un then flagNV else 0
  let eq := !un && !x.lt y && !y.lt x
  match k with
  | .eq => (eq, sn)
  | .ne => (!eq, sn)
  | .lt => (!un && x.lt y, any)
  | .le => (!un && !y.lt x, any)
  | .gt => (!un && y.lt x, any)
  | .ge => (!un && !x.lt y, any)
  | .un => (un, sn)
  | .ord => (!un, sn)

/-- A result of arithmetic, rounded: its special flags and those of rounding. -/
def roundRes (f : NFmt) (c : RCtx) (r : FVal × Word) : Rounded :=
  let x := roundTo f false c r.1
  ⟨x.bits, x.flags ||| r.2⟩

/-! ### MX blocks (08 R157, R158, R170) -/

/-- The value of a block's element under its scale byte (08 R158). -/
def mxElem (p : FPar) (scale x : Nat) : FVal :=
  if scale = 255 then .nan false
  else (decodeFlt p (x % 2 ^ p.width)).scale ((scale : Int) - 127)

/-- Whether every x × 2^-k rounds to a magnitude of at most the largest finite value: the rounding
of a nonzero element that does not set OF. -/
def mxFits (p : FPar) (cs : List RCtx) (xs : List FVal) (k : Int) : Bool :=
  (cs.zip xs).all fun (c, x) =>
    match x.scale (-k) with
    | .num s m e st => (roundFlt p { c with ovf := false } s m e st).flags &&& flagOF == 0
    | _ => true

/-- A zero element of a block is encoded as +0 (08 R170). -/
def mxZero (p : FPar) (b : Nat) : Nat := if b % 2 ^ (p.width - 1) = 0 then 0 else b

/-- QuantMX (08 R170): scale byte, elements and flags. Element `i` is rounded under context `i`. -/
def quantMx (p : FPar) (cs : List RCtx) (xs : List FVal) : Nat × List Nat × Word :=
  let sn := xs.foldl (fun f x => f ||| snanFlag x) 0
  if xs.any fun x => x.isNan || x.isInf then (255, xs.map fun _ => 0, flagMX ||| sn)
  else if xs.all (·.isZero) then (0, xs.map fun _ => 0, 0)
  else
    let k : Int := match ((List.range 255).map fun (i : Nat) => (i : Int) - 127).find? (mxFits p cs xs) with
      | some k => k
      | none => 127
    let rs := (cs.zip xs).map fun (c, x) =>
      match x.scale (-k) with
      | .num s m e st => roundFlt p c s m e st
      | _ => ⟨0, 0⟩
    ((k + 127).toNat, rs.map fun r => mxZero p r.bits,
      rs.foldl (fun f r => f ||| r.flags) 0)

/-- A block under a fixed scale byte X (09 R197, FX = 1). -/
def fixedMx (p : FPar) (scale : Nat) (cs : List RCtx) (xs : List FVal) : Nat × List Nat × Word :=
  let sn := xs.foldl (fun f x => f ||| snanFlag x) 0
  let dead : Nat × List Nat × Word := (255, xs.map fun _ => 0, flagMX ||| sn)
  if scale = 255 || xs.any (fun x => x.isNan || x.isInf) then dead
  else
    let rs := (cs.zip xs).map fun (c, x) =>
      match x.scale (127 - (scale : Int)) with
      | .num s m e st => roundFlt p c s m e st
      | _ => ⟨0, 0⟩
    let fl := rs.foldl (fun f r => f ||| r.flags) 0
    let big := (cs.zip rs).any fun (c, r) => c.ovf && (r.flags &&& flagOF != 0)
    if p == e2m1 && big then
      (255, rs.map fun r => if r.flags &&& flagOF != 0 then 0 else mxZero p r.bits, fl ||| flagMX)
    else (scale, rs.map fun r => mxZero p r.bits, fl)

end Sys2Proof.Machine
end

