-- ==== Sys2Proof/Machine/Words.lean ====
section
/-! DEFINITION. Operations on tagged words at their home (06 Table 6.3, R127 to R129): reads,
stores, atomics, deferrals, fills, tag changes and monitor wakes. -/

namespace Sys2Proof.Machine

/-- What a home answers: a result, or that the operation has joined a list or an object and is
answered later, with the stall reason of that wait. -/
inductive Ans where
  | done (r : Result)
  | wait (reason : Nat)
  deriving DecidableEq, Repr

/-- A word is written with its tag. -/
def State.putWord (s : State) (k : Nat) (v : Word) (t : Tag) : State :=
  { s with mem := s.mem.setWord k v t }

/-- Bytes of a word are written; its tag stays. -/
def State.putBytes (s : State) (k n v : Nat) : State := { s with mem := s.mem.storeN k n v }

/-- A reply leaves for a thread. -/
def State.answer (s : State) (tid elem : Nat) (r : Result) (va : Word) (home : Nat) : State :=
  { s with replies := s.replies ++ [⟨tid, elem, r, va, home, s.stamp⟩], stamp := s.stamp + 1 }

/-- Keys of homes that are no words of memory, from 2^59 on: each has a terminal of its own, on die
(key div 8) mod 8. The answers of a cluster's counter bank. -/
def bankHome (cl : Nat) : Nat := 2 ^ 59 + 2 ^ 13 + 8 * (8 * cl + cl / 12)

/-- The cycle record of a core (17 R343). -/
def cycleHome (core : Nat) : Nat := 2 ^ 59 + 2 ^ 19 + 8 * (8 * core + core / 1536)

/-- The results of the groups of a die, on the reductions channel (15 R291). -/
def redHome (die : Nat) : Nat := 2 ^ 59 + 2 ^ 22 + 8 * die

def Loc.word (l : Loc) : Loc :=
  match l with
  | .sp c off => .sp c (off / 8 * 8)
  | .dev pa => .dev (pa / 8 * 8)

/-- The location of a memory key. -/
def locOfKey (k : Nat) : Loc :=
  if k < 2 ^ 60 then .dev k else .sp ((k - 2 ^ 60) / 2 ^ 18) ((k - 2 ^ 60) % 2 ^ 18)

/-! ### Monitors (06 R129) -/

def State.slice (s : State) (n : Nat) : Slice := (tabGet s.slices n).getD Slice.reset

def State.modSlice (s : State) (n : Nat) (f : Slice → Slice) : State :=
  { s with slices := tabSet s.slices n (f (s.slice n)) }

/-- The monitors of a home: its table and those armed coarsely. -/
def State.homeMons (s : State) (l : Loc) : List MonEntry × List MonEntry :=
  match l with
  | .sp c _ => ((s.core c).mons, (s.core c).coarse)
  | .dev pa => ((s.slice (s.sliceNo pa)).mons, (s.slice (s.sliceNo pa)).coarse)

def State.setHomeMons (s : State) (l : Loc) (m c : List MonEntry) : State :=
  match l with
  | .sp k _ => s.modCore k fun x => { x with mons := m, coarse := c }
  | .dev pa => s.modSlice (s.sliceNo pa) fun x => { x with mons := m, coarse := c }

/-- A change at a word wakes the monitors of its line, and every coarse one of its home. -/
def State.changed (s : State) (key : Nat) : State :=
  let (m, c) := s.homeMons (locOfKey key)
  let hit := (m.filter fun e => e.line == key / 64) ++ c
  { s with wakes := s.wakes ++ hit.map fun e => ⟨e.tid, e.idx, e.line, s.stamp⟩
           stamp := s.stamp + 1 }

/-- A monitor is armed at the home of its line; one that finds the table full is armed coarsely.
The answer tells which. -/
def State.armAt (s : State) (l : Loc) (tid idx : Nat) : Bool × State :=
  let (m, c) := s.homeMons l
  let cap := match l with
    | .sp _ _ => 64
    | .dev _ => 4096
  let line := l.key / 64
  if m.length < cap then (false, s.setHomeMons l (m ++ [⟨line, tid, idx, false⟩]) c)
  else (true, s.setHomeMons l m (c ++ [⟨line, tid, idx, true⟩]))

/-- A monitor of a thread is disarmed at its home; wakes of it on their way are dropped. -/
def State.disarmAt (s : State) (line tid idx : Nat) : State :=
  let l := locOfKey (line * 64)
  let (m, c) := s.homeMons l
  let keep (e : MonEntry) : Bool := !(e.tid == tid && e.idx == idx)
  let s := s.setHomeMons l (m.filter keep) (c.filter keep)
  { s with wakes := s.wakes.filter fun w => !(w.tid == tid && w.idx == idx) }

/-! ### Deferred lists and put queues (06 R127, R128) -/

/-- The deferrals of a word in its list, in order. -/
def State.listOf (s : State) (k : Nat) : List Defer := s.defers.filter fun d => d.key == k && d.put.isNone

/-- The put queue of a word. -/
def State.putsOf (s : State) (k : Nat) : List Defer := s.defers.filter fun d => d.key == k && d.put.isSome

/-- A deferral reference (06 Table 6.4). -/
def State.refOf (s : State) (l : List Defer) : Word :=
  match l with
  | [] => 0
  | d :: _ => match s.thread? d.tid with
    | some t => positionWord s.pkg.num t.core t.entry
    | none => 0

/-- The word at `k` is a slot of a queue (17 R336). -/
def State.isSlot (s : State) (k : Nat) : Bool :=
  s.objs.any fun (h, o) => decide (h < k) && decide (k ≤ h + 8 * o.cap)

/-- The wait object whose guarded word is at `k` (17 R340). -/
def State.guard? (s : State) (k : Nat) : Option Nat :=
  if decide (8 ≤ k) && s.mem.tag (k - 8) == .object && bits (s.mem.word (k - 8)) 2 0 == 4 &&
      !s.isSlot (k - 8) then some (k - 8)
  else none

/-- A deferral ends: its place in the list, and the wait edge of a guarded word. -/
def State.undefer (s : State) (k tid : Nat) : State :=
  let s := { s with defers := s.defers.filter fun d => !(d.key == k && d.tid == tid) }
  match s.edges.find? fun e => e.wait && e.tid == tid && e.obj + 8 == k with
  | some e => s.removeWait tid e.obj
  | none => s

/-- A value leaves for a deferred thread. -/
def State.deliverTo (s : State) (k tid : Nat) (v : Word) : State :=
  let va := (firstSome (fun (d : Defer) => if d.key = k && d.tid == tid then some d.va else none) s.defers).getD 0
  let s := s.undefer k tid
  { s with delivers := s.delivers ++ [⟨tid, v, va, k, s.stamp⟩], stamp := s.stamp + 1 }

/-- The data of an EMPTY word is the head of its list. -/
def State.setHead (s : State) (k : Nat) : State :=
  s.putWord k (s.refOf (s.listOf k)) .empty

/-- Fill of an EMPTY word (06 R128); a TAKE that leaves its list empty lets the first PUT.wait perform. -/
def State.fill (s : State) (k : Nat) (v : Word) : State :=
  let l := s.listOf k
  let s := (l.filter fun d => !d.take).foldl (fun s d => s.deliverTo k d.tid v) s
  match l.filter (·.take) with
  | t :: r =>
    let s := (s.deliverTo k t.tid v).setHead k
    match r, s.putsOf k with
    | [], d :: _ => (s.deliverTo k d.tid 0).putWord k (d.put.getD 0) .full
    | _, _ => s
  | [] => s.putWord k v .full

/-- A TAKE has left the word EMPTY with an empty list: the first PUT.wait of its queue performs. -/
def State.servePuts (s : State) (k : Nat) : State :=
  match s.putsOf k with
  | [] => s
  | d :: _ => (s.deliverTo k d.tid 0).fill k (d.put.getD 0)

/-- A TAKE, LDF or PUT.wait defers (06 R127); on a guarded word it registers its wait
(17 R340). -/
def State.defer (s : State) (k : Nat) (q : Req) (take : Bool) (put : Option Word) : Ans × State :=
  let tid := q.tid
  let va := q.va
  let join (s : State) : Ans × State :=
    let s := { s with defers := s.defers ++ [⟨k, tid, take, put, va, q.launch, q.who, q.ivl, q.opc⟩] }
    (.wait 5, if put.isNone then s.setHead k else s)
  match s.guard? k with
  | none => join s
  | some o =>
    match s.insertWait tid o (va - 8) false with
    | .ok s => join s
    | .error p =>
      (.done (.trap .deadlock (va - 8) (deadlockInfo (min p.length 16) false false)),
        s.recordCycle tid p)

/-! ### Functions of an atomic (07 Table 7.4) -/

/-- RNE with overflow to Inf and no STATUS flag. -/
def rneCtx : RCtx := ⟨.rne, true, 0⟩

/-- Round(x + y, FP32, RNE) (07 R148). -/
def addFp32 (x y : Nat) : Nat :=
  (roundRes (.flt fp32) rneCtx (addVal rneCtx (decodeFlt fp32 x) (decodeFlt fp32 y))).bits

def atomFn (f : AtomFn) (n old x : Nat) : Nat :=
  let sg (v : Nat) : Int := sintN n (BitVec.ofNat 64 v)
  match f with
  | .add => (old + x) % 2 ^ n
  | .and => old &&& x
  | .or => old ||| x
  | .xor => old ^^^ x
  | .min => if sg old ≤ sg x then old else x
  | .max => if sg x ≤ sg old then old else x
  | .minu => Nat.min old x
  | .maxu => Nat.max old x
  | .xchg => x
  | .fadd => addFp32 old x

/-! ### Operations on one word -/

/-- Whether a tag lets an access that needs data in the word pass (06 Table 6.3): the cause it
traps otherwise. -/
def dataTag (t : Tag) (store : Bool) : Option Cause :=
  match t with
  | .full => none
  | .empty => some .tagMisuse
  | .object => some (if store then .objectStore else .tagMisuse)
  | .poison => some .poisonRead

/-- TAGW (07 R146): the cause it traps. -/
def State.tagwStop (s : State) (k : Nat) (nt : Tag) (app : Bool) : Option Cause :=
  let t := s.mem.tag k
  if (nt == .object || t == .object) && app then some .privilege
  else if t == .empty && s.mem.word k != 0 then some .tagMisuse
  else if t == .full && !(s.putsOf k).isEmpty then some .tagMisuse
  else none

/-- Every waiter of a barrier whose word becomes POISON traps POISON_READ, and its party records
are removed (11 R227). -/
def State.poisonObject (s : State) (k : Nat) : State :=
  let o := s.obj k
  let s := o.waiters.foldl (fun s w => s.answer w.tid 0 (.trap .poisonRead w.va 0) w.va k) s
  (s.dropEdges k).setObj k Obj.fresh

/-- A word operation is performed at its home, indivisibly (06 Table 6.3, 16 R312). -/
def State.wordOp (s : State) (q : Req) : Ans × State :=
  let b := q.loc.key
  let k := b / 8 * 8
  let tag := s.mem.tag k
  let bad (c : Cause) : Ans × State :=
    (.done (.trap c q.va (q.kind.setWidth 64 + BitVec.ofNat 64 (q.elem * 2 ^ 8))), s)
  let ok (v0 v1 : Word) (s : State) : Ans × State := (.done (.ok v0 v1), s)
  let put (n : Nat) (v : Nat) : State := (s.putBytes b n v).changed k
  match q.op with
  | .read n sx => match dataTag tag false with
    | some c => bad c
    | none =>
      let v := BitVec.ofNat 64 (s.mem.loadN b (sizeBytes n))
      ok (if sx then sext (sizeBits n) v else v) 0 s
  | .readP => match tag with
    | .full => ok (s.mem.word k) 0 s
    | .poison => ok 0 1 s
    | _ => bad .tagMisuse
  | .write n v =>
    if n = .b64 && tag == .poison then ok 0 0 ((s.putWord k v .full).changed k)
    else match dataTag tag true with
      | some c => bad c
      | none => ok 0 0 (put (sizeBytes n) v.toNat)
  | .nib hi v => match dataTag tag true with
    | some c => bad c
    | none =>
      let o := (s.mem.byte b).toNat
      ok 0 0 (put 1 (if hi then o % 16 + v.toNat % 16 * 16 else o / 16 * 16 + v.toNat % 16))
  | .atom f n x => match dataTag tag true with
    | some c => bad c
    | none =>
      let o := s.mem.loadN b (sizeBytes n)
      ok (BitVec.ofNat 64 o) 0 (put (sizeBytes n) (atomFn f (sizeBits n) o (x.toNat % 2 ^ sizeBits n)))
  | .cas n e x => match dataTag tag true with
    | some c => bad c
    | none =>
      let o := s.mem.loadN b (sizeBytes n)
      if o = e.toNat % 2 ^ sizeBits n then ok (BitVec.ofNat 64 o) 1 (put (sizeBytes n) x.toNat)
      else ok (BitVec.ofNat 64 o) 0 s
  | .take => match tag with
    | .full => ok (s.mem.word k) 0
        (((s.putWord k 0 .empty).servePuts k).changed k)
    | .empty => s.defer k q true none
    | .object => bad .tagMisuse
    | .poison => bad .poisonRead
  | .ldf => match tag with
    | .full => ok (s.mem.word k) 0 s
    | .empty => s.defer k q false none
    | .object => bad .tagMisuse
    | .poison => bad .poisonRead
  | .put v => match tag with
    | .full => bad .doublePut
    | .empty => ok 0 0 ((s.fill k v).changed k)
    | .object => bad .tagMisuse
    | .poison => bad .tagMisuse
  | .putWait v => match tag with
    | .full => s.defer k q false (some v)
    | .empty => ok 0 0 ((s.fill k v).changed k)
    | .object => bad .tagMisuse
    | .poison => bad .tagMisuse
  | .tagr => ok (s.mem.word k) (match tag with
      | .full => 0 | .empty => 1 | .object => 2 | .poison => 3) s
  | .tagw nt v => match s.tagwStop k nt q.app with
    | some .privilege => (.done (.trap .privilege 0 0), s)
    | some c => bad c
    | none =>
      let s := if nt = .poison && tag == .object then s.poisonObject k else s
      ok 0 0 ((s.putWord k (if nt = .empty then 0 else v) nt).changed k)
  | .mona idx =>
    let (coarse, s) := s.armAt q.loc q.tid idx
    ok (boolWord coarse) 0 s
  | .obj _ => ok 0 0 s
  | .append _ _ => ok 0 0 s
  | .ngrp _ _ _ => ok 0 0 s
  | .nredi _ _ _ => ok 0 0 s
  | .nfree _ => ok 0 0 s

/-- A completion PUT by an engine (06 Table 6.3): whether it was performed. -/
def State.enginePut (s : State) (k : Nat) (v : Word) : Bool × State :=
  match s.mem.tag k with
  | .empty => (true, (s.fill k v).changed k)
  | _ => (false, s)

/-- An engine write of a word with tag FULL or POISON: whether it was performed. -/
def State.engineWrite (s : State) (k : Nat) (v : Word) (poison : Bool) : Bool × State :=
  match s.mem.tag k with
  | .empty => (false, s)
  | .object => (false, s)
  | _ => (true, (s.putWord k (if poison then 0 else v)
      (if poison then .poison else .full)).changed k)

end Sys2Proof.Machine
end

