-- ==== Sys2Proof/Machine/Trace.lean ====
section
/-! DEFINITION. Trace records and their taps (20 R386, R387), the counters of a cluster (20 R397,
Table 20.9), checkpoints and the digests of paired mode (20 R395). -/

namespace Sys2Proof.Machine

/-! ### Sources and taps -/

/-- Bits [36:20] of word 0: kind, die, cluster and unit of a source. -/
def traceSrc (kind die cl unit : Nat) : Nat := kind + 2 ^ 4 * die + 2 ^ 6 * cl + 2 ^ 10 * unit

def coreSrc (c : Nat) : Nat := traceSrc 0 (dieOf c) (clusterOf c % 12) (c % 128)

/-- The source-local time. -/
def State.traceTime (s : State) (src : Nat) : Nat :=
  if src % 16 = 0 then (s.core (coreNo (src / 2 ^ 4 % 4) (src / 2 ^ 6 % 16) (src / 2 ^ 10))).cycle
  else (s.die (src / 2 ^ 4 % 4)).netTime

/-- TRCTL.EN with a further enable bit; bit 0 stands for EN alone. -/
def State.traceOn (s : State) (i : Nat) : Bool := s.pkg.trace.ctl.getLsbD 0 && s.pkg.trace.ctl.getLsbD i

/-- The cycle in which the next route survey of a die ends, one of those 2^20 cycles apart that lie ahead (20 R389). -/
def Die.surveyDue (x : Die) : Nat :=
  if x.netTime < x.surveyAt then x.surveyAt
  else x.surveyAt + ((x.netTime - x.surveyAt) / 2 ^ 20 + 1) * 2 ^ 20

/-- Time passes in the die network of a source by a free amount, less than to its next survey where it writes one. -/
def State.passNetTime (s : State) (src : Nat) : State :=
  if src % 16 = 0 then s
  else
    let d := src / 2 ^ 4 % 4
    let x := s.die d
    let (v, t) := s.freeVal
    let i := if s.traceOn 5 then v.toNat % (x.surveyDue - x.netTime) else v.toNat
    t.modDie d fun x => { x with netTime := x.netTime + i }

/-- A source generates a record: its tap takes it, or drops it when full; the next one that is
accepted is preceded by a drop record. -/
def State.emit (s : State) (src typ : Nat) (payload : List Word) : State :=
  let s := s.passNetTime src
  let t := s.pkg.trace
  let tap := (tabGet t.taps src).getD ⟨0, [], 0⟩
  let time := s.traceTime src
  let r : TraceRec := ⟨src, typ, time, tap.seq, payload⟩
  let need := if tap.dropped = 0 then 1 else 2
  let tap' : Tap :=
    if 64 < tap.recs.length + need then { tap with seq := tap.seq + 1, dropped := tap.dropped + 1 }
    else
      let d : List TraceRec := if tap.dropped = 0 then []
        else [⟨src, 8, time, tap.seq, [BitVec.ofNat 64 tap.dropped]⟩]
      ⟨tap.seq + 1, tap.recs ++ d ++ [r], 0⟩
  { s with pkg := { s.pkg with trace := { t with taps := tabSet t.taps src tap' } } }

/-! ### Counters (20 Table 20.9) -/

/-- An event counts in every counter of the cluster's bank that selects it and is enabled. -/
def State.countEvent (s : State) (cl code n : Nat) : State :=
  s.modCluster cl fun x =>
    let c : Vector Word 16 := Vector.ofFn fun i =>
      if bits (x.csel[i]) 8 0 = 2 ^ 8 + code then (x.counts[i]) + BitVec.ofNat 64 n else (x.counts[i])
    { x with counts := c }

/-- The source of a home's records. -/
def State.homeSrc (s : State) (l : Loc) : Nat :=
  match l with
  | .sp c _ => coreSrc c
  | .dev pa => traceSrc 2 (sliceOf s.paired pa).1 0 (sliceOf s.paired pa).2

/-- A barrier phase completes (20 Table 20.2). -/
def State.traceBarrier (s : State) (k : Nat) (va : Word) (phase count : Nat) : State :=
  if s.traceOn 4 then
    s.emit (s.homeSrc (locOfKey k)) 5 [va, BitVec.ofNat 64 phase, BitVec.ofNat 64 count]
  else s

/-! ### Checkpoints (04 R78, 20 R395) -/

/-- The marker of CHKPT: the interval count rises, and the record leaves. -/
def State.checkpoint (s : State) (id : Word) : State :=
  let t := s.cur
  let s := if s.traceOn 1 then
      s.emit (coreSrc t.core) 2 [t.famid, t.index,
        BitVec.ofNat 64 (bits id 31 0 + 2 ^ 32 * t.ivl.toNat)]
    else s
  s.updCur fun t => { t with ivl := t.ivl + 1 }

/-! ### Digests (20 R395) -/

/-- One write performed at a home slice in paired mode. -/
def Slice.addDigest (x : Slice) (key : Nat) (h : Word) : Slice :=
  match tabGet x.digests key with
  | some (d, n) => { x with digests := tabSet x.digests key (d + h, n + 1) }
  | none =>
    if x.digests.length < 256 then { x with digests := tabSet x.digests key (h, 1) }
    else { x with uncounted := x.uncounted + 1, missedDig := setInsert ((x.digests.map (·.1)).foldl setInsert x.missedDig) key }

/-- The half-A local address of a word. -/
def halfA (pa : Nat) : Nat :=
  let a := paLocal pa
  if 0x6000000000 ≤ a && a < 0xC000000000 then a - 0x6000000000
  else if 0x18000000000 ≤ a && a ≤ 0x1FFFFFFFFFF then a - 0x8000000000
  else a

/-- h of R395: address, value, writer and operation. -/
def digestWord (a v w k : Word) : Word := mix64 (mix64 (mix64 (mix64 a ^^^ v) ^^^ w) ^^^ k)

/-- Who writes a word: its launch number and interval, FID and INDEX, and the opcode. -/
structure Writer where
  lnum : Nat
  ivl : Nat
  who : Word
  opc : Nat
  deriving DecidableEq, Repr

def State.lnumOf (s : State) (k : Nat) : Nat :=
  match s.launch? k with
  | some l => l.lnum
  | none => 0

def State.writer (s : State) (launch : Nat) (ivl : BitVec 16) (who : Word) (opc : Nat) : Writer :=
  ⟨s.lnumOf launch, ivl.toNat, who, opc⟩

/-- SZ of a number of bytes (07 Table 7.2). -/
def sizeCode (n : Nat) : Nat := if n = 1 then 0 else if n = 2 then 1 else if n = 4 then 2 else 3

/-- The number of a tag (07 R145). -/
def tagCode (t : Tag) : Nat :=
  match t with
  | .full => 0
  | .empty => 1
  | .object => 2
  | .poison => 3

/-- A write of `n` bytes at a location, with its value and the tag that the operation gives the word, adds to the
digest of its writer's launch and interval. -/
def State.digest (s : State) (l : Loc) (w : Writer) (v : Word) (n : Nat) (t : Tag) : State :=
  match l with
  | .sp _ _ => s
  | .dev pa =>
    if s.paired then
      s.modSlice (s.sliceNo pa) fun x => x.addDigest (w.lnum * 2 ^ 16 + w.ivl)
        (digestWord (BitVec.ofNat 64 (halfA pa / 8 * 8)) v w.who
          (BitVec.ofNat 64 (w.opc * 2 ^ 8 + sizeCode n * 2 ^ 2 + tagCode t)))
    else s

/-! ### Watchpoints of home slices (14 R279) -/

/-- An access performed at a slice is compared with its two watchpoints; ACT 1 stops the cluster of
the source, and the Factor hears of the hit. -/
def State.watchSlice (s : State) (pa len : Nat) (rd ch : Bool) (data : Word) (w : WSrc) (src : Nat) : State :=
  let n := s.sliceNo pa
  let d := s.slice n
  let hit (i : Nat) : Bool :=
    let a := bits (d.wpa.toList.getD i 0) 56 3 * 8
    let k := d.wpc.toList.getD i 0
    k.getLsbD 0 && ((rd && k.getLsbD 1) || (ch && k.getLsbD 2)) &&
      decide (a < pa + len) && decide (pa < a + 8)
  (List.range 2).foldl (fun s i =>
    if hit i then
      let act := bits (d.wpc.toList.getD i 0) 4 3
      let s := s.modSlice n fun y =>
        let y := { y with wpc := setVec y.wpc i (countHit (y.wpc.toList.getD i 0)) }
        if act = 3 then y
        else if y.wha.getLsbD 2 then { y with whs := setBit y.whs 37 true }
        else { y with
          wha := BitVec.ofNat 64 (i + 4 + (bits (d.wpa.toList.getD i 0) 56 3) * 8)
          whs := w.whs, whd := data, whf := w.fidIndex }
      ({ s with pkg := { s.pkg with hits := setInsert s.pkg.hits (2 * n + i) } } : State).watchAct w i act 3 src
    else s) s

/-- The watchpoints of a home see an access performed there. -/
def State.observe (s : State) (l : Loc) (len : Nat) (rd ch : Bool) (w : WSrc) (src : Nat) : State :=
  if !rd && !ch then s
  else
    let data := s.mem.word (l.key / 8 * 8)
    match l with
    | .sp c off => s.watchSp c off len rd ch data w
    | .dev pa => s.watchSlice pa len rd ch data w src

/-! ### The source of a request (14 R278) -/

def HomeOp.watchKind (op : HomeOp) : Nat :=
  match op with
  | .read _ _ => 0
  | .readP => 0
  | .write _ _ => 1
  | .nib _ _ => 1
  | .atom _ _ _ => 2
  | .cas _ _ _ => 2
  | _ => 3

/-- A request's source, as it was when it issued (14 R278). -/
def Req.src? (q : Req) : WSrc := ⟨some q.tid, q.pos, q.op.watchKind, q.posted, q.va, q.fidIndex⟩

end Sys2Proof.Machine
end

