-- ==== Sys2Proof/Machine/Objects.lean ====
section
/-! DEFINITION. Barriers, locks, queues and wait objects at their homes (11 R220 to R226,
17 R335 to R346). -/

namespace Sys2Proof.Machine

/-! ### Traps and headers -/

def objTrap (c : Cause) (q : Req) (reason : Word) (s : State) : Ans × State :=
  (.done (.trap c q.va reason), s)

/-- A value for DST; `acq` tells that the return acts as an acquire. -/
def objDone (v : Word) (acq : Bool) (s : State) : Ans × State := (.done (.ok v (boolWord acq)), s)

/-- DEADLOCK of a home operation: the machine as it was, with the cycle record (17 R332). -/
def objDeadlock (s : State) (tid : Nat) (p : List (Word × Nat)) : Ans × State :=
  let name := match p with
    | (n, _) :: _ => n
    | [] => 0
  (.done (.trap .deadlock name (deadlockInfo (min p.length 16) false false)), s.recordCycle tid p)

/-- A header is written: a change under 06 R129. -/
def State.putHeader (s : State) (k : Nat) (h : Word) : State := (s.putWord k h .object).changed k

/-- FID and INDEX of a thread (11 R225). -/
def Thread.whoWord (t : Thread) : Word :=
  BitVec.ofNat 64 (bits t.index 31 0 + 2 ^ 32 * bits t.famid 31 0)

def State.whoWord (s : State) (tid : Nat) : Word :=
  match s.thread? tid with
  | some t => t.whoWord
  | none => 0

def hKind (h : Word) : Nat := bits h 2 0
def barPhase (h : Word) : Nat := bits h 15 8
def barCount (h : Word) : Nat := bits h 27 16
def barArrived (h : Word) : Nat := bits h 39 28
def barPend (h : Word) : Nat := bits h 51 40

/-- A waiter is released with a value, or by a trap. -/
def State.releaseWaiter (s : State) (k : Nat) (w : ObjWaiter) (r : Result) : State :=
  (s.removeWait w.tid k).answer w.tid 0 r w.va k

/-- The waiters that satisfy `p` leave, each answered. -/
def State.releaseWhere (s : State) (k : Nat) (p : ObjWaiter → Bool) (r : ObjWaiter → Result) : State :=
  let o := s.obj k
  let s := s.setObj k { o with waiters := o.waiters.filter fun w => !p w }
  (o.waiters.filter p).foldl (fun s w => s.releaseWaiter k w (r w)) s

/-- A thread begins to wait at an object. -/
def State.joinWait (s : State) (k tid : Nat) (va : Word) (kind : ObjWait) (side : Bool) :
    Except (List (Word × Nat)) State :=
  match s.insertWait tid k va side with
  | .error p => .error p
  | .ok s => .ok (s.modObj k fun o => { o with waiters := o.waiters ++ [⟨tid, va, kind⟩] })

/-! ### Barriers (11 R221, R224, R225) -/

/-- The address a barrier's record is known by: the cluster window for a scratchpad, else the
physical address. -/
def barAddr (k : Nat) : Word :=
  match locOfKey k with
  | .sp c off => BitVec.ofNat 64 (0xFE00000000000000 + c % 128 * 2 ^ 18 + off)
  | .dev pa => BitVec.ofNat 64 pa

/-- Complete(b). -/
def State.barComplete (s : State) (k : Nat) : State :=
  let h := s.mem.word k
  let ph := barPhase h
  let s := s.traceBarrier k (barAddr k) ph (barCount h)
  let gone := ((s.obj k).parties.filter (·.pend)).map (·.tid)
  let h := setBits (setBits (setBits (setBits h 15 8 (ph + 1)) 39 28 0) 27 16
    (barCount h - barPend h)) 51 40 0
  let s := (s.putHeader k h).modObj k fun o => { o with parties := o.parties.filter fun p => !p.pend }
  let s := gone.foldl (fun s t => s.removeHold t k) s
  (s.releaseWhere k (fun w => match w.kind with
    | .barrier p _ => p == ph
    | _ => false) (fun _ => .ok (BitVec.ofNat 64 ph) 1)).stepPrio k

/-- The phase completes if every arrival has come. -/
def State.barSettle (s : State) (k : Nat) : State :=
  let h := s.mem.word k
  if barArrived h = barCount h then s.barComplete k else s

/-- A party drops (BDROP, or an end with DROP = 1). -/
def State.barDrop (s : State) (k : Nat) (p : Party) : State :=
  let h := s.mem.word k
  let s :=
    if p.last = some (barPhase h) then
      (s.putHeader k (setBits h 51 40 (barPend h + 1))).modObj k fun o =>
        { o with parties := o.parties.map fun x => if x.tid = p.tid then { x with pend := true } else x }
    else
      ((s.putHeader k (setBits h 27 16 (barCount h - 1))).modObj k fun o =>
        { o with parties := o.parties.filter fun x => x.tid != p.tid }).removeHold p.tid k
  s.barSettle k

/-- An arrival by a party, which then waits with `wait`. -/
def State.barArrive (s : State) (k : Nat) (q : Req) (p : Party) (wait : Bool) : Ans × State :=
  let h := s.mem.word k
  let ph := barPhase h
  let h' := setBits h 39 28 (barArrived h + 1)
  let mark (wd : Bool) (s : State) : State := s.modObj k fun o =>
    { o with parties := o.parties.map fun x =>
        if x.tid = p.tid then { x with last := some ph, withdrawn := x.withdrawn || wd } else x }
  let s := (mark false (s.putHeader k h')).refreshPrio q.tid
  if barArrived h + 1 = barCount h then objDone (BitVec.ofNat 64 ph) wait (s.barComplete k)
  else if wait then
    match s.joinWait k q.tid q.va (.barrier ph true) false with
    | .ok s => (.wait 12, s)
    | .error path => objDeadlock (mark true s) q.tid path
  else objDone (BitVec.ofNat 64 ph) false s

/-- BARR, BARW, BWAIT and BDROP on a barrier that is neither poisoned nor abandoned. -/
def State.barOp (s : State) (k : Nat) (q : Req) (op : ObjOp) : Ans × State :=
  let h := s.mem.word k
  let ph := barPhase h
  let phW : Word := BitVec.ofNat 64 ph
  let o := s.obj k
  let wait (s : State) (arrived : Bool) : Ans × State :=
    match s.joinWait k q.tid q.va (.barrier ph arrived) false with
    | .ok s => (.wait 12, s)
    | .error p => objDeadlock s q.tid p
  if op = .bwait then
    if barCount h = 0 then objDone phW true s else wait s false
  else
    match o.parties.find? fun p => p.tid == q.tid with
    | none =>
      if op = .bdrop then objTrap .barrierState q 4 s
      else if barCount h ≤ o.parties.length then objTrap .barrierState q 2 s
      else
        let p : Party := ⟨q.tid, s.whoWord q.tid, none, false, false⟩
        let t := (s.modObj k fun o => { o with parties := o.parties ++ [p] }).insertHold q.tid k q.va false
        match t.holdCycle q.tid with
        | some c => objDeadlock s q.tid c
        | none => t.barArrive k q p (op == .barw)
    | some p =>
      if p.withdrawn && op = .barw then
        let t := s.modObj k fun o => { o with parties := o.parties.map fun x =>
          if x.tid = q.tid then { x with withdrawn := false } else x }
        if p.last = some ph then
          match t.joinWait k q.tid q.va (.barrier ph true) false with
          | .ok t => (.wait 12, t)
          | .error c => objDeadlock s q.tid c
        else objDone (BitVec.ofNat 64 (p.last.getD 0)) true t
      else if op = .bdrop then objDone phW false (s.barDrop k p)
      else if p.last = some ph then objTrap .barrierState q 3 s
      else s.barArrive k q p (op == .barw)

/-- Every waiter of a barrier traps (BPOIS, or a party's end with DROP = 0). DESIGN CHOICE: of two BPOIS the
later is named, of two ends the earlier (log 60). -/
def State.barTrap (s : State) (k : Nat) (c : Cause) (who : Word) : State :=
  (s.modObj k fun o => { o with who := who }).releaseWhere k (fun _ => true) fun w => .trap c w.va who

/-! ### Locks (17 R337, R338) -/

def waitDown (h : Word) (hi lo : Nat) : Word :=
  if bits h hi lo = 0xFFFF then h else setBits h hi lo (bits h hi lo - 1)

def waitUp (h : Word) (hi lo : Nat) : Word := setBits h hi lo (min 0xFFFF (bits h hi lo + 1))

/-- HandOver(l, abnd). -/
def State.handOver (s : State) (k : Nat) (abnd : Bool) : State :=
  let h := s.mem.word k
  let o := s.obj k
  let rank (w : ObjWaiter) : Nat := 7 - (match s.thread? w.tid with
    | some t => t.eprio
    | none => 0)
  match leastBy rank (o.waiters.filter fun w => w.kind == .lock) with
  | none =>
    (s.putHeader k (setBits (setBit (setBit h 3 false) 4 abnd) 63 32 0)).modObj k
      fun o => { o with owner := none }
  | some w =>
    let fid := bits (s.handleOf w.tid) 31 0
    let s := s.putHeader k (setBits (waitDown h 23 8) 63 32 fid)
    let s := s.modObj k fun o =>
      { o with owner := some w.tid, waiters := o.waiters.filter fun x => x.tid != w.tid }
    let s := (s.removeWait w.tid k).insertHold w.tid k w.va false
    (s.answer w.tid 0 (.ok (1 + (if abnd then 2 else 0)) 1) w.va k).stepPrio k

def State.lockOp (s : State) (k : Nat) (q : Req) (try_ : Bool) : Ans × State :=
  let h := s.mem.word k
  let o := s.obj k
  if h.getLsbD 3 && o.owner == some q.tid then objTrap .objectState q 3 s
  else if !h.getLsbD 3 then
    let h' := setBits (setBit (setBit h 3 true) 4 false) 63 32 (bits (s.handleOf q.tid) 31 0)
    let s' := (s.putHeader k h').modObj k fun o => { o with owner := some q.tid }
    let s' := s'.insertHold q.tid k q.va false
    match s'.holdCycle q.tid with
    | some p => objDeadlock s q.tid p
    | none => objDone (1 + (if h.getLsbD 4 then 2 else 0)) true s'
  else if try_ then objDone 0 false s
  else match s.joinWait k q.tid q.va .lock false with
    | .error p => objDeadlock s q.tid p
    | .ok s => (.wait 12, s.putHeader k (waitUp h 23 8))

def State.unlockOp (s : State) (k : Nat) (q : Req) : Ans × State :=
  let h := s.mem.word k
  if !h.getLsbD 3 || (s.obj k).owner != some q.tid then objTrap .objectState q 4 s
  else objDone 0 false ((s.removeHold q.tid k).handOver k false)

/-! ### Queues (17 R339) -/

def qCap (h : Word) : Nat := bits h 15 8
def qHead (h : Word) : Nat := bits h 23 16
def qCount (h : Word) : Nat := bits h 31 24

/-- A slot of a queue is written by a request: monitors and watchpoints of its word see the change (06 R129, 14 R277,
16 R312). -/
def State.putSlot (s : State) (k i : Nat) (v : Word) (t : Tag) (q : Req) : State :=
  let a := k + 8 * (i + 1)
  ((s.putWord a v t).changed a).observe (locOfKey a) 8 false true q.src? q.src

/-- A value enters slot (HEAD + COUNT) mod CAP. -/
def State.qStore (s : State) (k : Nat) (v : Word) (q : Req) : State :=
  let h := s.mem.word k
  let s := s.putSlot k ((qHead h + qCount h) % qCap h) v .object q
  s.putHeader k (setBits h 31 24 (qCount h + 1))

/-- The value of slot HEAD leaves. -/
def State.qTake (s : State) (k : Nat) : Word × State :=
  let h := s.mem.word k
  let v := s.mem.word (k + 8 * (qHead h + 1))
  (v, s.putHeader k (setBits (setBits h 23 16 ((qHead h + 1) % qCap h)) 31 24 (qCount h - 1)))

/-- The caller becomes a producer or consumer: a hold edge. -/
def State.qJoin (s : State) (k : Nat) (q : Req) (prod : Bool) : Except (List (Word × Nat)) State :=
  let o := s.obj k
  if (if prod then o.prods else o.conss).contains q.tid then .ok s
  else
    let s := s.modObj k fun o => if prod then { o with prods := o.prods ++ [q.tid] }
      else { o with conss := o.conss ++ [q.tid] }
    let s := s.insertHold q.tid k q.va !prod
    match s.holdCycle q.tid with
    | some p => .error p
    | none => .ok (s.stepPrio k)

def isPop (w : ObjWaiter) : Bool := w.kind == .pop

def pushValue (w : ObjWaiter) : Option Word :=
  match w.kind with
  | .push v => some v
  | _ => none

def State.dropWaiter (s : State) (k tid : Nat) : State :=
  s.modObj k fun o => { o with waiters := o.waiters.filter fun w => w.tid != tid }

def State.pushOp (s : State) (k : Nat) (q : Req) (v : Word) : Ans × State :=
  match s.qJoin k q true with
  | .error p => objDeadlock s q.tid p
  | .ok t =>
    let h := t.mem.word k
    match (t.obj k).waiters.find? isPop with
    | some w =>
      objDone 0 false (((t.dropWaiter k w.tid).putHeader k (waitDown h 63 48)).releaseWaiter k w (.ok v 1))
    | none =>
      if qCount h < qCap h then objDone 0 false (t.qStore k v q)
      else match t.joinWait k q.tid q.va (.push v) true with
        | .error p => objDeadlock s q.tid p
        | .ok t => (.wait 12, t.putHeader k (waitUp h 47 32))

def State.popOp (s : State) (k : Nat) (q : Req) : Ans × State :=
  match s.qJoin k q false with
  | .error p => objDeadlock s q.tid p
  | .ok t =>
    let h := t.mem.word k
    if qCount h = 0 then
      match t.joinWait k q.tid q.va .pop false with
      | .error p => objDeadlock s q.tid p
      | .ok t => (.wait 12, t.putHeader k (waitUp h 63 48))
    else
      let (v, s) := t.qTake k
      match (s.obj k).waiters.find? fun w => (pushValue w).isSome with
      | none => objDone v true s
      | some w =>
        let s := (s.dropWaiter k w.tid).qStore k ((pushValue w).getD 0) q
        objDone v true ((s.putHeader k (waitDown (s.mem.word k) 47 32)).releaseWaiter k w (.ok 0 0))

/-! ### Wait objects (17 R341, R342) -/

def wEpoch (h : Word) : Nat := bits h 39 24

/-- A holder leaves: HOLD falls, EPOCH advances, and waiters of another epoch are released. -/
def State.loseHolder (s : State) (k tid : Nat) (abnd : Bool) : State :=
  let s := (s.modObj k fun o => { o with holders := o.holders.filter (· != tid) }).removeHold tid k
  let h := s.mem.word k
  let h := setBits (setBits h 23 8 (min 0xFFFF (s.obj k).holders.length)) 39 24 (wEpoch h + 1)
  let h := if abnd then setBit h 3 true else h
  (s.putHeader k h).releaseWhere k (fun w => match w.kind with
    | .epoch e => e != wEpoch h
    | _ => false) (fun _ => .ok h 1)

def State.wholdOp (s : State) (k : Nat) (q : Req) : Ans × State :=
  let o := s.obj k
  if o.holders.contains q.tid then objTrap .objectState q 7 s
  else
    let h := s.mem.word k
    let s' := s.modObj k fun o => { o with holders := o.holders ++ [q.tid] }
    let s' := s'.insertHold q.tid k q.va false
    match s'.holdCycle q.tid with
    | some p => objDeadlock s q.tid p
    | none => objDone 0 false
        ((s'.putHeader k (setBits h 23 8 (min 0xFFFF (o.holders.length + 1)))).stepPrio k)

def State.wdropOp (s : State) (k : Nat) (q : Req) : Ans × State :=
  let o := s.obj k
  match hKind (s.mem.word k) with
  | 4 => if o.holders.contains q.tid then objDone 0 false (s.loseHolder k q.tid false)
      else objTrap .objectState q 4 s
  | 3 => if o.prods.contains q.tid || o.conss.contains q.tid then
      objDone 0 false ((s.modObj k fun o =>
        { o with prods := o.prods.filter (· != q.tid), conss := o.conss.filter (· != q.tid) }).removeHold q.tid k)
      else objTrap .objectState q 4 s
  | _ => objTrap .objectState q 1 s

def State.wwaitOp (s : State) (k : Nat) (q : Req) (e : Word) (nb : Bool) : Ans × State :=
  let h := s.mem.word k
  if bits e 15 0 != wEpoch h then objDone h true s
  else if nb then
    if (match s.thread? q.tid with
        | some t => t.wreg.isSome
        | none => false) then objTrap .objectState q 8 s
    else match s.insertWait q.tid k q.va false with
      | .error p => objDeadlock s q.tid p
      | .ok s => objDone h false (s.modThread q.tid fun t => { t with wreg := some k })
  else match s.joinWait k q.tid q.va (.epoch (bits e 15 0)) false with
    | .error p => objDeadlock s q.tid p
    | .ok s => (.wait 12, s)

def State.wunregOp (s : State) (k : Nat) (q : Req) : Ans × State :=
  if (match s.thread? q.tid with
      | some t => t.wreg == some k
      | none => false) then objDone 0 false (s.dropRegistration q.tid)
  else objTrap .objectState q 4 s

/-! ### Initialising, querying and freeing (11 R223, 17 R336, R343, R344) -/

/-- The deferrals registered on an object's guarded word. -/
def State.guardWaits (s : State) (k : Nat) : List Nat :=
  ((s.edges.filter fun e => e.wait && e.obj == k).map (·.tid)).filter fun t =>
    s.defers.any fun d => d.key == k + 8 && d.tid == t

/-- A waiter, a holder, a party, a registration, or a HELD lock. -/
def State.objBusy (s : State) (k : Nat) : Bool :=
  let o := s.obj k
  let h := s.mem.word k
  !o.waiters.isEmpty || !o.parties.isEmpty || o.owner.isSome || !o.prods.isEmpty || !o.conss.isEmpty ||
    !o.holders.isEmpty || (s.allThreads.any fun t => t.wreg == some k) || !(s.guardWaits k).isEmpty ||
    (hKind h == 2 && h.getLsbD 3)

/-- Every slot of a queue becomes FULL 0. -/
def State.freeSlotsOf (s : State) (k : Nat) (q : Req) : State :=
  (List.range (s.obj k).cap).foldl (fun s i => s.putSlot k i 0 .full q) s

/-- What initialising a word as an object meets: the trap, or the machine with the old object
gone. -/
def State.clearFor (s : State) (k : Nat) (q : Req) (busy : Cause) (reason : Word) :
    Except (Ans × State) State :=
  if s.mem.tag k == .object then
    if s.isSlot k then .error (objTrap .objectState q 1 s)
    else if s.objBusy k then .error (objTrap busy q reason s)
    else .ok (((s.freeSlotsOf k q).dropEdges k).setObj k Obj.fresh)
  else if s.mem.tag k == .empty then .error (objTrap .tagMisuse q (q.kind.setWidth 64) s)
  else .ok (s.setObj k Obj.fresh)

/-- BARI, LKI, WREG: the header is written. -/
def State.initOp (s : State) (k : Nat) (q : Req) (busy : Cause) (reason h : Word) : Ans × State :=
  match s.clearFor k q busy reason with
  | .error a => (a.1, s)
  | .ok s => objDone 0 false (s.putHeader k h)

/-- QI: the slots pass the same rules before anything is written. -/
def State.qiOp (s : State) (k : Nat) (q : Req) (c : Word) : Ans × State :=
  if c.toNat < 1 || 255 < c.toNat then objTrap .objectState q 5 s
  else match s.clearFor k q .objectState 2 with
    | .error a => (a.1, s)
    | .ok s1 =>
      let r : Except (Ans × State) State := (List.range c.toNat).foldl (fun r i =>
        match r with
        | .error a => .error a
        | .ok s => s.clearFor (k + 8 * (i + 1)) q .objectState 2) (.ok s1)
      match r with
      | .error a => (a.1, s)
      | .ok s2 =>
        let s3 := (List.range c.toNat).foldl (fun s i => s.putSlot k i 0 .object q) s2
        objDone 0 false ((s3.putHeader k (BitVec.ofNat 64 (3 + c.toNat * 2 ^ 8))).modObj k
          fun o => { o with cap := c.toNat })

def State.wqryOp (s : State) (k : Nat) (sel : WqrySel) : Ans × State :=
  let h := s.mem.word k
  let waiting := (s.obj k).waiters.map (·.tid) ++ s.guardWaits k
  let v : Nat := match sel with
    | .kind => hKind h
    | .holders => (s.holdersOf k true ++ s.holdersOf k false).eraseDups.length
    | .waiters => waiting.length
    | .eprio => maxOf (waiting.filterMap fun t => (s.thread? t).map (·.eprio))
    | .untr => (s.die (s.objDie k)).overflow
    | _ => 0
  objDone (BitVec.ofNat 64 v) false s

def State.ofreeOp (s : State) (k : Nat) (q : Req) : Ans × State :=
  if s.objBusy k then objTrap .objectState q 6 s
  else
    let s := ((s.freeSlotsOf k q).dropEdges k).setObj k Obj.fresh
    objDone 0 false ((s.putWord k 0 .full).changed k)

/-! ### The operation of an instruction at its object -/

/-- The KIND an operation needs, and the cause of another kind. -/
def objNeeds (op : ObjOp) : Option (Nat × Cause) :=
  match op with
  | .barr | .barw | .bwait | .bdrop | .bpois => some (1, .barrierState)
  | .lkacq | .lktry | .lkrel => some (2, .objectState)
  | .qpush _ | .qpop => some (3, .objectState)
  | .whold | .wwait _ _ | .wunreg => some (4, .objectState)
  | _ => none

/-- The initialising operations, which act on any tag. -/
def objInit (op : ObjOp) : Bool :=
  match op with
  | .bari _ _ | .lki | .qi _ | .wreg => true
  | _ => false

def State.objAct (s : State) (k : Nat) (q : Req) (op : ObjOp) : Ans × State :=
  match op with
  | .bari drop c => s.initOp k q .barrierState 5
      (BitVec.ofNat 64 (1 + (if drop then 8 else 0) + c.toNat * 2 ^ 16))
  | .lki => s.initOp k q .objectState 2 2
  | .wreg => s.initOp k q .objectState 2 4
  | .qi c => s.qiOp k q c
  | .bpois =>
    let s := s.putHeader k (setBit (s.mem.word k) 4 true)
    objDone 0 false (s.barTrap k .barrierPoisoned (s.whoWord q.tid))
  | .barr | .barw | .bwait | .bdrop =>
    let h := s.mem.word k
    if h.getLsbD 4 then objTrap .barrierPoisoned q (s.obj k).who s
    else if h.getLsbD 5 then objTrap .barrierAbandoned q (s.obj k).who s
    else s.barOp k q op
  | .lkacq => s.lockOp k q false
  | .lktry => s.lockOp k q true
  | .lkrel => s.unlockOp k q
  | .qpush v => s.pushOp k q v
  | .qpop => s.popOp k q
  | .whold => s.wholdOp k q
  | .wdrop => s.wdropOp k q
  | .wwait e nb => s.wwaitOp k q e nb
  | .wunreg => s.wunregOp k q
  | .wqry sel => s.wqryOp k sel
  | .ofree => s.ofreeOp k q

/-- A barrier or object instruction is performed at its object's home (11 R222, 17 R335). One whose
thread has ended meanwhile has no effect. -/
def State.objOp (s : State) (q : Req) (op : ObjOp) : Ans × State :=
  let k := q.loc.key
  if (s.thread? q.tid).isNone then objDone 0 false s
  else if objInit op then s.objAct k q op
  else match s.mem.tag k with
    | .full => objTrap .tagMisuse q (q.kind.setWidth 64) s
    | .empty => objTrap .tagMisuse q (q.kind.setWidth 64) s
    | .poison => objTrap .poisonRead q (q.kind.setWidth 64) s
    | .object =>
      if s.isSlot k then objTrap .objectState q 1 s
      else match objNeeds op with
        | some (kind, c) => if hKind (s.mem.word k) = kind then s.objAct k q op else objTrap c q 1 s
        | none => s.objAct k q op

/-! ### Ends and saves (11 R225, R226, 17 R345, R346) -/

/-- A wait at an object is withdrawn: its place in the waiter order and its edge. -/
def State.withdrawAt (s : State) (k tid : Nat) : State :=
  match (s.obj k).waiters.find? fun w => w.tid == tid with
  | none => s
  | some w =>
    let h := s.mem.word k
    let s := (s.dropWaiter k tid).removeWait tid k
    match w.kind with
    | .lock => s.putHeader k (waitDown h 23 8)
    | .push _ => s.putHeader k (waitDown h 47 32)
    | .pop => s.putHeader k (waitDown h 63 48)
    | .barrier _ true => s.modObj k fun o => { o with parties := o.parties.map fun p =>
        if p.tid = tid then { p with withdrawn := true } else p }
    | _ => s

/-- A waiting thread's deferral, or wait at an object, is withdrawn (06 R127). -/
def State.withdrawWait (s : State) (tid : Nat) : State :=
  let s : State := match s.defers.find? fun d => d.tid == tid with
    | some d =>
      let s := s.undefer d.key tid
      if d.put.isNone && s.mem.tag d.key == .empty then s.setHead d.key else s
    | none => s
  let s := (s.objs.map (·.1)).foldl (fun s k => s.withdrawAt k tid) s
  match s.edges.find? fun e => e.wait && e.tid == tid && isImplicit e.obj with
  | some e => s.removeWait tid e.obj
  | none => s

/-- A party's end at a barrier (11 R225): the traps name the party whose end abandoned it (log 60). -/
def State.barEnd (s : State) (k tid : Nat) : State :=
  match (s.obj k).parties.find? fun p => p.tid == tid with
  | none => s
  | some p =>
    if p.pend then s
    else if (s.mem.word k).getLsbD 3 then s.barDrop k p
    else
      let h := s.mem.word k
      let s := (s.modObj k fun o => { o with parties := o.parties.filter fun x => x.tid != tid }).removeHold tid k
      let s := s.putHeader k (setBit h 5 true)
      if h.getLsbD 4 || h.getLsbD 5 then s else s.barTrap k .barrierAbandoned p.who

/-- The party record of a thread is in no table: its end is found by the Factor's scan (11 R225). -/
def State.partyUntracked (s : State) (k tid : Nat) : Bool :=
  s.edges.any fun e => !e.wait && e.obj == k && e.tid == tid && !e.tracked

/-- The ended parties that a scan finds at the homes settle (11 R225, 17 R334). -/
def State.scanParties (s : State) : State :=
  (s.objs.flatMap fun (k, o) => if hKind (s.mem.word k) = 1 then
      (o.parties.filter fun p => (s.thread? p.tid).isNone).map fun p => (k, p.tid) else []).foldl
    (fun s (k, tid) => s.barEnd k tid) s

/-- A thread's end settles at one object. -/
def State.endAt (s : State) (tid k : Nat) : State :=
  match hKind (s.mem.word k) with
  | 1 => if s.partyUntracked k tid then s else s.barEnd k tid
  | 2 => if (s.obj k).owner = some tid then (s.removeHold tid k).handOver k true else s
  | 3 => (s.modObj k fun o =>
      { o with prods := o.prods.filter (· != tid), conss := o.conss.filter (· != tid) }).removeHold tid k
  | 4 => if (s.obj k).holders.contains tid then s.loseHolder k tid true else s
  | _ => s

/-- A thread ends: its relations settle at each home (17 R345). -/
def State.endRelations (s : State) (tid : Nat) : State :=
  let s := (s.withdrawWait tid).dropRegistration tid
  let s := (s.objs.map (·.1)).foldl (fun s k => s.endAt tid k) s
  { s with edges := s.edges.filter fun e => e.tid != tid }

end Sys2Proof.Machine
end

