-- ==== Sys2Proof/Machine/Collect.lean ====
section
/-! DEFINITION. The watchpoints of homes (14 R277, R279), and what collects at a die: the records
appended to bin sets (13 R267 to R269) and the contributions to reduction groups (16 R316 to R325). -/

namespace Sys2Proof.Machine

/-! ### Terminals (15 R289, R290) -/

/-- The cluster port of a core, over all dies. -/
def State.portOf (s : State) (c : Nat) : Nat :=
  dieOf c * 256 + 16 * (clusterOf c % 12) + s.poolGroup c % 16

/-- The terminal to which an operation travels; from 2^59 stand the homes that are no words of memory, as the
Entrepôts and the roots of reduction groups (13 R269, 16 R322); a system-scope one to device memory
goes to the fabric port of the home, as every one to another package (07 R136, 21 R401). -/
def State.destOf (s : State) (l : Loc) (sc : Scope) : Nat :=
  match l with
  | .sp c _ => s.portOf c
  | .dev pa =>
    if 2 ^ 59 ≤ pa then 2 ^ 21 + (pa - 2 ^ 59) / 8
    else if sc = .sys || paPackage pa != s.pkg.num then
      2 ^ 24 + 2 ^ 10 * paPackage pa + 256 * (sliceOf s.paired pa).1 + (sliceOf s.paired pa).2 % 4
    else (sliceOf s.paired pa).1 * 256 + 192 + (sliceOf s.paired pa).2

/-- The terminal of the Gulong port through which what is for another package leaves (21 R400). -/
def State.portFor (s : State) (p : Nat) : Nat :=
  let n := match tabGet s.pkg.grte p with
    | some g => bits g 3 0
    | none => 0
  n / 4 * 256 + 240 + n % 4

/-- Where flits for a terminal go in this package: for one of another package, the port they leave through. -/
def State.outTerm (s : State) (t : Nat) : Nat :=
  if 2 ^ 24 ≤ t && decide (t < 2 ^ 30) && (t - 2 ^ 24) / 2 ^ 10 != s.pkg.num then s.portFor ((t - 2 ^ 24) / 2 ^ 10) else t

/-- The destination terminal under which a posted write is counted: of one to another package, the port through
which it leaves (15 R297, 21 R402). -/
def State.termOf (s : State) (l : Loc) (sc : Scope) : Nat := s.outTerm (s.destOf l sc)

/-- Word k of a record in memory. -/
def recW (rec : List Word) (k : Nat) : Word := rec.getD k 0

/-- GEN advances modulo 2^24 with 0 skipped. -/
def nextGen (g : BitVec 24) : BitVec 24 := if g + 1 = 0 then 1 else g + 1

/-! ### What engines fill (14 R277, R278) -/

/-- An engine source that is no unit of a cluster, the root of a reduction group or the Factor: recorded as the
Entrepôt of its die is (14 R278, log 76). -/
def dieSrc (pkg die : Nat) (addr : Word) : WSrc := ⟨none, positionWord pkg (die * 1536) 0x20, 4, false, addr, 0⟩

/-- No core: a source that is in no cluster. -/
def noCore : Nat := 6144

/-- Deferred operations that a fill has ended in `t` since `s` were performed at their home: TAKE and LDF read
the word, a queued PUT.wait changed it (06 R128, 14 R277). -/
def State.observeFills (t s : State) : State :=
  (t.delivers.drop s.delivers.length).foldl (fun t d =>
    match s.defers.find? fun x => x.key == d.home && x.tid == d.tid with
    | none => t
    | some x =>
      let c := match t.thread? d.tid with
        | some u => u.core
        | none => 0
      let t := if x.put.isSome || x.take then t.digest (locOfKey d.home) (t.writer x.launch x.ivl x.who x.opc)
          (x.put.getD 0) 8 (if x.take then .empty else .full) else t
      t.observe (locOfKey d.home) 8 x.put.isNone (x.put.isSome || (x.take && decide (d.home < 2 ^ 60)))
        (t.threadSrc d.tid 3 false x.va) c) t

/-- A completion PUT or result of `by_` is performed at its home: watchpoints see it and what it fills
(14 R277, R279, 16 R312), and it adds to a digest (20 R395). -/
def State.enginePutAt (s : State) (k : Nat) (v : Word) (w : WSrc) (src : Nat) (by_ : Writer) : Bool × State :=
  match (s.useBanks k 8).enginePut k v with
  | (false, t) => (false, t)
  | (true, t) => (true, ((t.digest (locOfKey k) by_ v 8 .full).observe (locOfKey k) 8 false true w src).observeFills s)

/-! ### Bin sets -/

/-- The fields of a bin-set record. -/
def binFmt (rec : List Word) : Nat := bits (recW rec 2) 3 0
def binUns (rec : List Word) : Bool := (recW rec 2).getLsbD 4
def binRlog (rec : List Word) : Nat := bits (recW rec 2) 12 8
def binRegs (rec : List Word) : Nat := bits (recW rec 2) 28 16
def binSize (rec : List Word) : Nat := bits (recW rec 3) 39 0

/-- Element bytes. -/
def binBytes (rec : List Word) : Nat := if binFmt rec = 3 then 8 else 4

/-- The number of elements that a set covers. -/
def binElems (rec : List Word) : Nat := binRegs rec * (2 ^ binRlog rec / binBytes rec)

/-- Records that the pool holds at least; this model holds no more (log 40). -/
def binCapacity (rec : List Word) : Nat := (binSize rec - 64 * binRegs rec) / 16

/-- A handle of a bin set. -/
def binHandle (die set : Nat) (g : BitVec 24) : Word :=
  BitVec.ofNat 64 (set + 2 ^ 6 * die + 2 ^ 8 * g.toNat)

/-- The live set that a handle names, by its key. -/
def State.binSet? (s : State) (h : Word) : Option (Nat × BinSet) :=
  let k := bits h 7 6 * 64 + bits h 5 0
  match tabGet s.bins k with
  | some b => if b.live && b.gen.toNat == bits h 31 8 && bits h 63 32 == 0 then some (k, b) else none
  | none => none

/-- Where the appends of a die's Entrepôt go; no word of memory lies there. -/
def entrLoc (die : Nat) : Loc := .dev (2 ^ 59 + 8 * die)

/-- A record reaches its bin set (13 R269): binned, or discarded and counted; an invalid handle is
an error. -/
def State.appendRecord (s : State) (h : Word) (r : BinRec) : Result × State :=
  match s.binSet? h with
  | none => (.trap .entrState h 1, s)
  | some (k, b) =>
    let b := if decide (r.index < binElems b.desc) && decide (b.recs.length < binCapacity b.desc) then
        { b with recs := b.recs ++ [r] }
      else { b with dropped := b.dropped + 1 }
    (.ok 0 0, { s with bins := tabSet s.bins k b })

/-! ### Reduction groups: partials (16 R316, R317, R319) -/

def redCount (cfg : Word) : Nat := bits cfg 23 0
def redFlt (cfg : Word) : Bool := bits cfg 27 24 == 4
def redOp (cfg : Word) : Nat := bits cfg 29 28
def redUns (cfg : Word) : Bool := cfg.getLsbD 30
def redElems (cfg : Word) : Nat := bits cfg 34 32 + 1

def RedAcc.zero : RedAcc := ⟨0, false, false, false, true, 0, none, none⟩

/-- The value of an I64 contribution. -/
def redInt (cfg x : Word) : Int := if redUns cfg && redOp cfg != 0 then x.toNat else x.toInt

/-- One contribution. -/
def redOne (cfg x : Word) : RedAcc :=
  if redFlt cfg then
    let v := decodeFlt fp32 (bits x 31 0)
    let pos := v.isInf && !v.isNeg
    let neg := v.isInf && v.isNeg
    { v := if v.isNan || v.isInf then 0 else v.scaled (-149)
      nan := v.isNan, pinf := pos, ninf := neg, nzero := v.isZero && v.isNeg, count := 1
      ext := some (bits x 31 0), res := none }
  else ⟨redInt cfg x, false, false, false, false, 1, some x.toNat, none⟩

/-- The smaller or larger of two contributions. -/
def redPick (cfg : Word) (a b : Nat) : Nat :=
  let mx := redOp cfg == 2
  if redFlt cfg then (minmaxVal (.flt fp32) mx a b).bits
  else
    let x := redInt cfg (BitVec.ofNat 64 a)
    let y := redInt cfg (BitVec.ofNat 64 b)
    if mx then (if y ≤ x then a else b) else (if x ≤ y then a else b)

/-- Two partials merge. -/
def redMerge (cfg : Word) (a b : RedAcc) : RedAcc where
  v := a.v + b.v
  nan := a.nan || b.nan
  pinf := a.pinf || b.pinf
  ninf := a.ninf || b.ninf
  nzero := a.nzero && b.nzero
  count := a.count + b.count
  ext := match a.ext, b.ext with
    | some x, some y => some (redPick cfg x y)
    | some x, none => some x
    | none, y => y
  res := a.res

/-- The result, and whether it sets INV and OVF. -/
def redResult (cfg : Word) (a : RedAcc) : Word × Bool × Bool :=
  if redOp cfg != 0 then
    let x := a.ext.getD 0
    if redFlt cfg then
      if (decodeFlt fp32 x).isNan then (0x7FC00000, true, false) else (BitVec.ofNat 64 x, false, false)
    else (BitVec.ofNat 64 x, false, false)
  else if redFlt cfg then
    if a.nan || (a.pinf && a.ninf) then (0x7FC00000, true, false)
    else if a.pinf then (0x7F800000, false, false)
    else if a.ninf then (0xFF800000, false, false)
    else if a.v = 0 then (if a.nzero then 0x80000000 else 0, false, false)
    else
      let r := (roundTo (.flt fp32) false rneCtx (ofScaled a.v (-149))).bits
      (BitVec.ofNat 64 r, false, (decodeFlt fp32 r).isInf)
  else (BitVec.ofInt 64 a.v, false, decide (a.v < -(2 ^ 63)) || decide (2 ^ 63 - 1 < a.v))

/-! ### Reduction groups: the root (16 R318, R320, R322 to R325) -/

/-- Where the operations of a die's groups go; no word of memory lies there. -/
def redLoc (die : Nat) : Loc := .dev (2 ^ 59 + 64 + 8 * die)

/-- Where a declaration goes: the die of RADDR's home slice, or the other package that holds RADDR. -/
def State.rootLoc (s : State) (pa : Nat) : Loc :=
  if paPackage pa = s.pkg.num then redLoc (sliceOf s.paired pa).1 else .dev pa

/-- A word waits for its line at its home: no later operation passes those that wait for it (16 R311). -/
def State.lineWaits (s : State) (k : Nat) : Bool := s.missed.any fun r => r.loc.key / 8 == k / 8

def redHandle (die n : Nat) (g : BitVec 22) : Word :=
  BitVec.ofNat 64 (n + 2 ^ 8 * die + 2 ^ 10 * g.toNat)

/-- The live group of a launch that a handle names, by its key. -/
def State.group? (s : State) (h : Word) (launch : Nat) : Option (Nat × RedGroup) :=
  let k := bits h 9 8 * 256 + bits h 7 0
  match tabGet s.groups k with
  | some g => if g.live && g.launch == launch && g.gen.toNat == bits h 31 10 && bits h 63 32 == 0 then some (k, g)
      else none
  | none => none

/-- The root of a group in another package that a handle of a launch names: the location of its first result. -/
def State.farRoot? (s : State) (h : Word) (launch : Nat) : Option Loc :=
  firstSome (fun (l, x, pa) => if l = launch && x == h then some (.dev pa) else none) s.pkg.farGroups

/-- Where the operations of a group go: its root's die, or the package that holds it (16 R322, 21 R404). -/
def State.rootOf (s : State) (h : Word) (launch : Nat) : Loc :=
  match s.group? h launch, s.farRoot? h launch with
  | none, some l => l
  | _, _ => redLoc (bits h 9 8)

def RedGroup.fresh (cfg : Word) : List RedAcc := List.replicate (redElems cfg) RedAcc.zero

/-- Threads that wait for an element of a round are answered by the group's root, on die `die`. -/
def State.answerWaiters (s : State) (die : Nat) (g : RedGroup) (p : Nat × Nat → Bool) (r : Result) : State × RedGroup :=
  ((g.waiters.filter fun w => p w.2).foldl (fun s w => s.answer w.1 0 r 0 (redHome die)) s,
   { g with waiters := g.waiters.filter fun w => !p w.2 })

/-- The round CUR ends and CUR advances, while it is complete or broken (R318, 21 R404). -/
def RedGroup.turnRounds (g : RedGroup) (fuel : Nat) : RedGroup :=
  match fuel with
  | 0 => g
  | j + 1 =>
    if g.badNow || g.now.all fun a => a.res.isSome then
      RedGroup.turnRounds { g with
        cur := (g.cur + 1) % 256
        prev := g.now.map fun a => a.res.getD 0
        badPrev := g.badNow
        now := g.next, badNow := g.badNext
        next := RedGroup.fresh g.cfg, badNext := false
        rounds := (g.rounds + 1) % 65536 } j
    else g

/-- An element of round CUR (`later` 0) or CUR + 1 takes a partial; once its count reaches COUNT its
result is formed, its word filled and its waiters answered. -/
def State.redAccept (s : State) (k : Nat) (g : RedGroup) (later elem : Nat) (p : RedAcc) : State :=
  let l := if later = 0 then g.now else g.next
  let a := l.getD elem RedAcc.zero
  if a.res.isSome then s
  else
    let a := if a.count = 0 then p else redMerge g.cfg a p
    let put (g : RedGroup) (a : RedAcc) : RedGroup :=
      if later = 0 then { g with now := g.now.set elem a } else { g with next := g.next.set elem a }
    if a.count < redCount g.cfg then { s with groups := tabSet s.groups k (put g a) }
    else
      let (v, inv, ovf) := redResult g.cfg a
      let (ok, s) := s.enginePutAt (g.raddr + 8 * elem) v (dieSrc s.pkg.num (k / 256) (BitVec.ofNat 64 (g.raddr + 8 * elem))) noCore
        ⟨s.lnumOf g.launch, 0, 0, 0xF1⟩
      let g := put g { a with res := some v }
      let g := { g with inv := g.inv || inv, ovf := g.ovf || ovf, lost := g.lost || !ok }
      let (s, g) := s.answerWaiters (k / 256) g (fun w => w == ((g.cur + later) % 256, elem)) (.ok v 0)
      { s with groups := tabSet s.groups k (g.turnRounds 2) }

/-- The senders of a discarded partial receive notices with a reason (R318, R323). -/
def State.redNotice (s : State) (p : Partial) (reason : Nat) : State :=
  { s with
    notices := s.notices ++ p.who.map fun (t, l, w) =>
      ⟨t, l, w, .reductionState, p.handle, reason, none, s.termOf (redLoc (bits p.handle 9 8)) .dev, s.stamp⟩
    stamp := s.stamp + 1 }

/-- The launch of a partial's contributors. -/
def Partial.launch (p : Partial) : Nat := (p.who.head?.map (·.2.1)).getD 0

/-- A partial reaches the root of a live group: it is accepted, or discarded. -/
def State.redAt (s : State) (k : Nat) (g : RedGroup) (p : Partial) : State :=
  let d := (p.round + 256 - g.cur) % 256
  if redElems g.cfg ≤ p.elem then s.redNotice p 4
  else if d = 0 && !g.badNow then s.redAccept k g 0 p.elem p.acc
  else if d = 1 && !g.badNext then s.redAccept k g 1 p.elem p.acc
  else
    let n := if p.who.isEmpty then 1 else p.who.length
    let s := { s with groups := tabSet s.groups k { g with err := min (2 ^ 24 - 1) (g.err + n) } }
    if d ≤ 1 then s else s.redNotice p 5

/-- A partial reaches the root of its group. One whose handle was not live as it was sent has come as raw bits, which
the group's format now gives a value (16 R323). -/
def State.redArrive (s : State) (p : Partial) : State :=
  match s.group? p.handle p.launch with
  | none => if p.valid then s else s.redNotice p 1
  | some (k, g) =>
    s.redAt k g (if p.valid then p else { p with acc := redOne g.cfg (BitVec.ofNat 64 (p.acc.ext.getD 0)) })

/-- A partial that no link carries on is lost: its contributors receive notices with LINK_DOWN (19 R369, 21 R403). -/
def State.redLost (s : State) (p : Partial) : State :=
  { s with
    notices := s.notices ++ p.who.map fun (t, l, w) =>
      ⟨t, l, w, .linkDown, p.handle, 0, none, s.portOf p.src, s.stamp⟩
    stamp := s.stamp + 1 }

/-- The result word that a partial completes waits for its line: the partial waits behind it (16 R311). -/
def State.redHeld (s : State) (p : Partial) : Bool :=
  match s.group? p.handle p.launch with
  | none => false
  | some (_, g) => s.lineWaits (g.raddr + 8 * p.elem)

/-- A partial that no link carries to its root is lost. DEDUCED: the round that it names is broken, as R404 has it
of a Gulong link (log 52): its waiters trap with reason 7. -/
def State.redBreak (s : State) (p : Partial) : State :=
  let s := s.redLost p
  match s.group? p.handle p.launch with
  | none => s
  | some (k, g) =>
    let d := (p.round + 256 - g.cur) % 256
    if 1 < d then s
    else
      let (s, g) := s.answerWaiters (k / 256) g (fun w => w.1 == p.round) (.trap .reductionState p.handle 7)
      let g := if d = 0 then { g with badNow := true } else { g with badNext := true }
      { s with groups := tabSet s.groups k (g.turnRounds 2) }

/-- NGRP at the die of its root (R322). -/
def State.ngrpOp (s : State) (q : Req) (cfg : Word) (raddr : Nat) (sys : Bool) : Ans × State :=
  let die := (sliceOf s.paired raddr).1
  match (List.range 256).find? fun i => match tabGet s.groups (die * 256 + i) with
      | some g => !g.live
      | none => true with
  | none => (.done (.trap .reductionState q.va 3), s)
  | some i =>
    let old := tabGet s.groups (die * 256 + i)
    let gen := (old.map (·.gen)).getD 0 + 1
    let g : RedGroup := {
      gen := gen, live := true, launch := q.launch, cfg := cfg, raddr := raddr, sys := sys, cur := 0
      now := RedGroup.fresh cfg, next := RedGroup.fresh cfg, prev := [], badPrev := false, badNow := false
      badNext := false, rounds := 0, err := 0, inv := false, ovf := false, lost := false, waiters := [] }
    (.done (.ok (redHandle die i gen) 0), { s with groups := tabSet s.groups (die * 256 + i) g })

/-- NREDI at the root (R324). -/
def State.nrediOp (s : State) (q : Req) (h : Word) (elem t : Nat) : Ans × State :=
  let trap (reason : Word) : Ans × State := (.done (.trap .reductionState h reason), s)
  match s.group? h q.launch with
  | none => trap 1
  | some (k, g) =>
    let d := (t + 256 - g.cur) % 256
    if redElems g.cfg ≤ elem then trap 4
    else if d = 255 && !g.prev.isEmpty then
      if g.badPrev then trap 7 else (.done (.ok (g.prev.getD elem 0) 0), s)
    else if d ≤ 1 then
      if (if d = 0 then g.badNow else g.badNext) then trap 7
      else match ((if d = 0 then g.now else g.next).getD elem RedAcc.zero).res with
        | some v => (.done (.ok v 0), s)
        | none => (.wait 12, { s with groups := tabSet s.groups k { g with waiters := g.waiters ++ [(q.tid, t, elem)] } })
    else trap 5

/-- The status word (Table 16.5). -/
def RedGroup.status (g : RedGroup) : Word :=
  let b (x : Bool) : Nat := if x then 1 else 0
  BitVec.ofNat 64 (g.rounds + 2 ^ 16 * g.err + 2 ^ 40 * b g.inv + 2 ^ 41 * b g.ovf + 2 ^ 42 * b g.lost)

/-- A group is freed: those that wait trap with reason 6. -/
def State.redFree (s : State) (k : Nat) (g : RedGroup) (h : Word) : State :=
  let (s, g) := s.answerWaiters (k / 256) g (fun _ => true) (.trap .reductionState h 6)
  { s with groups := tabSet s.groups k { g with live := false } }

/-- NFREE at the root (R325). -/
def State.nfreeOp (s : State) (q : Req) (h : Word) : Ans × State :=
  match s.group? h q.launch with
  | none => (.done (.trap .reductionState h 1), s)
  | some (k, g) => (.done (.ok g.status 0), s.redFree k g h)

/-- A thread no longer waits at any group (R324). -/
def State.leaveGroups (s : State) (tid : Nat) : State :=
  { s with groups := s.groups.map fun (k, g) => (k, { g with waiters := g.waiters.filter fun w => w.1 != tid }) }

end Sys2Proof.Machine
end

