-- ==== Sys2Proof/Machine/Registers.lean ====
section
/-! DEFINITION. The management registers of the H-die as they read (19 R385, Table 19.9) and the access
tables in front of them (19 R380). -/

namespace Sys2Proof.Machine

/-! ### Links (19 R366 to R369, 21 R400, R403) -/

/-- The name of die link k between two dies; die 4 is the H-die. -/
def dieLink (a b k : Nat) : Nat := 32 * min a b + 4 * max a b + k

/-- The name of the link of a Gulong port. -/
def gulongLink (port : Nat) : Nat := 1024 + port

/-- Failed retrains in a row of a link. -/
def State.linkFails (s : State) (id : Nat) : Nat := (tabGet s.pkg.links id).getD 0

/-- A link that failed three retrains in a row is down. -/
def State.linkIsDown (s : State) (id : Nat) : Bool := decide (3 ≤ s.linkFails id)

/-! ### Targets of access tables (19 R380) -/

/-- Home slices stand from 0; the other targets by kind after them. -/
def targetBank (cl : Nat) : Nat := 0x1000 + cl
def targetTrace : Nat := 0x2000
def targetCopy (cl : Nat) : Nat := 0x3000 + cl
def targetRoot (port : Nat) : Nat := 0x4000 + port
def targetQueue (n : Nat) : Nat := 0x5000 + n
def targetFactor : Nat := 0x6000
def targetDebug (cl : Nat) : Nat := 0x8000 + cl

/-! ### The map (19 Table 19.9) -/

/-- An offset as its block sees it. -/
inductive MReg where
  | fadv (i : Nat)
  | acc (i : Nat)
  | acommit
  | bstat
  | queue (q i : Nat)
  | fault (i : Nat)
  | pcap
  | pmode
  | pstat
  | fdom
  | fctl
  | fstat
  | fcap
  | gpst (n : Nat)
  | grte (p : Nat)
  | trace (i : Nat)
  | hmap (cl i : Nat)
  | hcnt (cl : Nat)
  | lpt (cl i : Nat)
  | cntsel (cl i : Nat)
  | count (cl i : Nat)
  | dbg (core m : Nat)
  | none
  deriving DecidableEq, Repr

/-- Registers of the harvest and counter blocks: `r` is the offset within die d's 64 KiB. -/
def mregCluster (d r : Nat) : MReg :=
  if r < 0x6000 then
    let cl := d * 12 + r / 0x800
    let x := r % 0x800
    if x < 0x10 then .hmap cl (x / 8)
    else if x = 0x10 then .hcnt cl
    else if 0x400 ≤ x then .lpt cl ((x - 0x400) / 8)
    else .none
  else if 0x8000 ≤ r ∧ r < 0x8C00 then
    let cl := d * 12 + (r - 0x8000) / 0x100
    let x := r % 0x100
    if x < 0x80 then .cntsel cl (x / 8) else .count cl ((x - 0x80) / 8)
  else .none

/-- The register at an 8-byte-aligned offset. -/
def mregOf (o : Nat) : MReg :=
  if o < 0x20 then .fadv (o / 8)
  else if o < 0x40 then .acc (o / 8 - 4)
  else if o = 0x40 then .acommit
  else if o = 0x800 then .bstat
  else if 0x1000 ≤ o ∧ o < 0x1400 then
    (if o % 0x40 < 0x20 then .queue ((o - 0x1000) / 0x40) (o % 0x40 / 8) else .none)
  else if 0x2000 ≤ o ∧ o < 0x2030 then .fault ((o - 0x2000) / 8)
  else if o = 0x3000 then .pcap
  else if o = 0x3008 then .pmode
  else if o = 0x3010 then .pstat
  else if o = 0x4000 then .fdom
  else if o = 0x4008 then .fctl
  else if o = 0x4010 then .fstat
  else if o = 0x4018 then .fcap
  else if 0x4100 ≤ o ∧ o < 0x4180 then .gpst ((o - 0x4100) / 8)
  else if 0x8000 ≤ o ∧ o < 0x10000 then .grte ((o - 0x8000) / 8)
  else if 0x10000 ≤ o ∧ o < 0x10038 then .trace ((o - 0x10000) / 8)
  else if 0x100000 ≤ o ∧ o < 0x140000 then mregCluster ((o - 0x100000) / 0x10000) (o % 0x10000)
  else if 0x1000000 ≤ o ∧ o < 0x1600000 then
    let x := o % 0x20000
    if x % 0x400 < 0x200 then
      .dbg ((o - 0x1000000) / 0x20000 * 128 + x / 0x400) (0x40 + x % 0x400 / 8)
    else .none
  else .none

/-- The target whose access table stands before a register; an unassigned offset counts to the Factor
block. -/
def MReg.target (r : MReg) : Nat :=
  match r with
  | .queue q _ => targetQueue q
  | .trace _ => targetTrace
  | .cntsel cl _ => targetBank cl
  | .count cl _ => targetBank cl
  | .dbg c _ => targetDebug (clusterOf c)
  | _ => targetFactor

/-- A submission queue's registers as read (19 Table 19.4). -/
def SubQueue.read (q : SubQueue) (i : Nat) : Word :=
  match i with
  | 0 => q.base
  | 1 => q.cfg
  | 2 => BitVec.ofNat 64 q.tail
  | _ => BitVec.ofNat 64 (q.head + 2 ^ 32 * q.drop)

/-- The fault queue's registers as read (18 Table 18.12): FANS is write-only. -/
def FaultQueue.read (q : FaultQueue) (i : Nat) : Word :=
  match i with
  | 0 => q.base
  | 1 => q.cfg
  | 2 => BitVec.ofNat 64 q.tail
  | 3 => BitVec.ofNat 64 q.head
  | 4 => 0
  | _ => BitVec.ofNat 64 (q.stray + 2 ^ 32 * q.waiting.length)

/-- The trace unit's registers as read (20 Table 20.4). -/
def Trace.read (t : Trace) (i : Nat) : Word :=
  match i with
  | 0 => t.ctl
  | 1 => t.base
  | 2 => t.n
  | 3 => t.lba
  | 4 => t.lban
  | 5 => t.nonce
  | _ => BitVec.ofNat 64 (min t.lost 0xFFFFFFFF + 2 ^ 32 * min t.werr 0xFFFF)

/-- GPST of a port (21 Table 21.1). -/
def State.gpst (s : State) (n : Nat) : Word :=
  let id := gulongLink n
  let down := s.linkIsDown id
  BitVec.ofNat 64 ((if down || s.pkg.retrains.contains id then 0 else 1) + 2 * min 3 (s.linkFails id) +
    (if down then 8 else 0))

/-- HMAP_LO and HMAP_HI of a cluster (19 Table 19.2). -/
def Cluster.hmap (x : Cluster) (i : Nat) : Word :=
  BitVec.ofNat 64 ((List.range 64).foldl (fun n p => if x.disabled.contains (64 * i + p) then n else n + 2 ^ p) 0)

/-- A management register as read. -/
def State.mregRead (s : State) (r : MReg) : Word :=
  match r with
  | .fadv i => s.pkg.fadv.toList.getD i 0
  | .acc i => s.pkg.acc.toList.getD i 0
  | .acommit => 0
  | .bstat => s.pkg.bstat
  | .queue q i => match s.pkg.queues.toList[q]? with
    | some x => x.read i
    | none => 0
  | .fault i => s.pkg.fq.read i
  | .pcap => s.pkg.pcap
  | .pmode => if s.pkg.pmode then 1 else 0
  | .pstat => s.pkg.pstat
  | .fdom => BitVec.ofNat 64 s.pkg.npkg
  | .fctl => 0
  | .fstat => BitVec.ofNat 64 (s.pkg.fstate + 2 ^ 32 * s.pkg.events)
  | .fcap => s.pkg.fcap
  | .gpst n => s.gpst n
  | .grte p => (tabGet s.pkg.grte p).getD 0
  | .trace i => s.pkg.trace.read i
  | .hmap cl i => (s.cluster cl).hmap i
  | .hcnt cl => BitVec.ofNat 64 ((s.cluster cl).encnt + (if (s.cluster cl).degr then 256 else 0))
  | .lpt cl i => if i < (s.cluster cl).encnt then BitVec.ofNat 64 ((s.cluster cl).phys i + 128) else 0
  | .cntsel cl i => (s.cluster cl).csel.toList.getD i 0
  | .count cl i => (s.cluster cl).counts.toList.getD i 0
  | .dbg c m => s.debugRead c m
  | .none => 0

/-- The offset of a management register's address in this package. -/
def State.mgmtOff (s : State) (pa : Nat) : Option Nat :=
  if decide (pa / 2 ^ 45 = s.pkg.num) && decide (0x1F0000000000 ≤ paLocal pa) && decide (paLocal pa ≤ 0x1F00FFFFFFFF) then
    some (paLocal pa - 0x1F0000000000)
  else none

/-- The management register that a request is for. -/
def State.mgmtOf (s : State) (l : Loc) : Option Nat :=
  match l with
  | .dev pa => s.mgmtOff pa
  | .sp _ _ => none

/-! ### Ownership of units (19 R381) -/

/-- A master that claims as a hypervisor: an application core in hypervisor or machine mode. -/
def isHyp (mid : Nat) : Bool := mid / 2 ^ 12 == 1

/-- A claim settles (19 Table 19.8): the owner after, whether it is new, and the answer. A revoked guest's claim is
its next access: the mark is cleared. DESIGN CHOICE: a claim by the owner itself is GRANTED and changes nothing
(log 56). -/
def Owner.claim (o : Owner) (mid : Nat) : Owner × Bool × UnitAnswer :=
  match o with
  | .free => (if isHyp mid then .hyp mid none else .guest mid, true, .granted)
  | .hyp m r => if r == some mid then (.hyp m none, false, .revoked)
      else (.hyp m r, false, if m = mid then .granted else if isHyp mid then .busy else .busyHyp)
  | .guest a => if isHyp mid then (.hyp mid (some a), true, .granted)
      else (.guest a, false, if a = mid then .granted else .busy)

/-- An access by a master: whether it may have an effect, and the owner after; none where it is answered REVOKED. -/
def Owner.access (o : Owner) (mid : Nat) : Option Bool × Owner :=
  match o with
  | .free => (some false, .free)
  | .hyp m r => if r == some mid then (none, .hyp m none) else (some (m == mid), .hyp m r)
  | .guest a => (some (a == mid), .guest a)

/-- The unit whose owner a register belongs to: a cluster's counter bank, or 48 the trace unit. -/
def MReg.unit? (r : MReg) : Option Nat :=
  match r with
  | .trace _ => some 48
  | .cntsel cl _ => some cl
  | .count cl _ => some cl
  | _ => .none

def State.unitOwner (s : State) (u : Nat) : Owner := if u = 48 then s.pkg.trace.owner else (s.cluster u).owner

def State.setOwner (s : State) (u : Nat) (o : Owner) : State :=
  if u = 48 then { s with pkg := { s.pkg with trace := { s.pkg.trace with owner := o } } }
  else s.modCluster u fun x => { x with owner := o }

/-- The answer of a unit to a master. -/
def State.answerUnit (s : State) (u mid : Nat) (a : UnitAnswer) : State :=
  s.modPkg fun p => { p with unitAns := tabSet p.unitAns u (mid, a) }

/-- An access to a register by a master goes on; one that its unit answers REVOKED does not, which clears the mark. -/
def State.mregAccess (s : State) (mid : Nat) (r : MReg) : Bool × State :=
  match r.unit? with
  | none => (true, s)
  | some u => match (s.unitOwner u).access mid with
    | (none, o) => (false, (s.setOwner u o).answerUnit u mid .revoked)
    | (some _, _) => (true, s)

/-- A master owns the unit of a register, or it belongs to none. -/
def State.ownsReg (s : State) (mid : Nat) (r : MReg) : Bool :=
  match r.unit? with
  | none => true
  | some u => ((s.unitOwner u).access mid).1 == some true

/-- The access table in front of a register allows a read or a write; a write that configures a trace unit or a
counter bank needs CTL too (19 R380, log 10). -/
def State.mregAllows (s : State) (mid : Nat) (r : MReg) (rd wr : Bool) : Bool :=
  s.tableAllows r.target mid rd wr (wr && r.unit?.isSome)

/-- REGISTER_WRITE's number: the master, the offset and the value. -/
def regWriteNo (mid off : Nat) (v : Word) : Nat := mid + 2 ^ 16 * off + 2 ^ 48 * v.toNat

/-- A write of a register by a core or an engine, which acts as its event ends, in order with the others. -/
def State.sendRegWrite (s : State) (mid off : Nat) (v : Word) : State :=
  { s with agenda := s.agenda ++ [.registerWrite (regWriteNo mid off v)] }

end Sys2Proof.Machine
end

