-- ==== Sys2Proof/Machine/Home.lean ====
section
/-! DEFINITION. Accesses on their way to their homes: release phases (15 R297, R298), access tables
(19 R380), the order in which homes take requests (15 R290, R295, 16 R311), the performance of a
request and its reply or notice (07 R137, R138), and combining (16 R313 to R315). -/

namespace Sys2Proof.Machine

/-- Source terminals of a request; a combined one has those of its components. -/
def State.srcTerms (s : State) (q : Req) : List Nat :=
  if q.parts.isEmpty then [s.portOf q.src] else q.parts.map fun p => s.portOf p.src

/-- Threads of a request. -/
def Req.tids (q : Req) : List Nat := if q.parts.isEmpty then [q.tid] else q.parts.map (·.tid)

/-- Two requests touch one word. -/
def Req.sameWord (q r : Req) : Bool := q.loc.key / 8 == r.loc.key / 8

/-! ### Routes (15 R289, 19 R366) -/

/-- The number of die `b` among the neighbours of die `a`; the H-die, 4, is the last. -/
def neighbourNo (a b : Nat) : Nat := if b = 4 then 3 else if b < a then b else b - 1

/-- The link that flits from a source terminal take between two dies: number (terminal mod 3), or the next
that is up (19 R366, R369). -/
def State.routeLink (s : State) (a b term : Nat) : Option Nat :=
  ((List.range 3).map fun i => (term + i) % 3).find? fun k => !s.linkIsDown (dieLink a b k)

/-- The die whose network a terminal of this package belongs to. -/
def termDie (t : Nat) : Nat :=
  if 2 ^ 24 ≤ t then (t - 2 ^ 24) % 2 ^ 10 / 256 else if 2 ^ 21 ≤ t then (t - 2 ^ 21) % 8 else t / 256

/-- The stage at which flits of two terminals of one network meet on their way to one terminal, and the input of
the second: the last of the bits that the stages consume, bit 0 first and then 7 to 1, in which they differ
(15 R289, log 75). -/
def meetBit (x y : Nat) : Option (Nat × Bool) :=
  (([1, 2, 3, 4, 5, 6, 7, 0] : List Nat).find? fun b => x.testBit b != y.testBit b).map fun b => (b, y.testBit b)

/-- Where requests of two source terminals for a terminal of die `h` meet: the die, the stage, and whether the
second is at the lower input; nowhere if no link carries one of them there. -/
def State.meetAt (s : State) (x y h : Nat) : Option (Nat × Nat × Bool) :=
  let dx := x / 256
  let dy := y / 256
  let at_ (d a b : Nat) : Option (Nat × Nat × Bool) := (meetBit a b).map fun (i, l) => (d, i, l)
  if dx = h && dy = h then at_ h (x % 256) (y % 256)
  else
    let link (d t : Nat) : Option Nat := if d = h then some 0 else s.routeLink d h t
    let port (d k t : Nat) : Nat := if d = h then t else 244 + 3 * neighbourNo h d + k
    match link dx (x % 256), link dy (y % 256) with
    | some kx, some ky =>
      if dx = dy && kx = ky then at_ dx (x % 256) (y % 256)
      else at_ h (port dx kx (x % 256)) (port dy ky (y % 256))
    | _, _ => none

/-! ### Links (19 R366 to R369, 21 R400, R403) -/

/-- Some link joins two dies; die 4 is the H-die. -/
def State.dieReach (s : State) (a b : Nat) : Bool :=
  a == b || (List.range 3).any fun k => !s.linkIsDown (dieLink a b k)

/-- A home is reached from a core: over the die links, with the LPDDR behind the H-die, or through
the port that leads to its package. -/
def State.reaches (s : State) (src : Nat) (l : Loc) : Bool :=
  match l with
  | .sp _ _ => true
  | .dev pa =>
    if 2 ^ 59 ≤ pa then s.dieReach (dieOf src) ((pa - 2 ^ 59) / 8 % 8)
    else if paPackage pa = s.pkg.num then
      let h := (sliceOf s.paired pa).1
      s.dieReach (dieOf src) h && (decide (paLocal pa < 2 ^ 40) || s.dieReach h 4)
    else match tabGet s.pkg.grte (paPackage pa) with
      | some g => g.getLsbD 4 && s.dieReach (dieOf src) (bits g 3 0 / 4) &&
          !s.linkIsDown (gulongLink (bits g 3 0))
      | none => false

/-- The links that flits cross on their way between two terminals: that between their dies, and the Gulong link of
the port at which they leave or arrive (19 R366, 21 R400). -/
def State.linksBetween (s : State) (x y : Nat) : List Nat :=
  let x := s.outTerm x
  let y := s.outTerm y
  let port (t : Nat) : List Nat := if t < 2 ^ 20 && 240 ≤ t % 256 && t % 256 < 244 then
    [gulongLink (t / 256 * 4 + (t % 256 - 240))] else []
  (if termDie x = termDie y then [] else match s.routeLink (termDie x) (termDie y) (x % 256) with
    | some k => [dieLink (termDie x) (termDie y) k]
    | none => []) ++ port x ++ port y

/-- A link holds up what is to cross it: it retrains (19 R368), or in state 2 injection stops at the Gulong ports
(21 R406). One that is down holds up nothing. -/
def State.linkHolds (s : State) (i : Nat) : Bool :=
  !s.linkIsDown i && (s.pkg.retrains.contains i || (decide (1024 ≤ i) && s.pkg.fstate == 2))

/-- The way between two terminals is held up. -/
def State.stopped (s : State) (x y : Nat) : Bool := (s.linksBetween x y).any s.linkHolds

/-- The home of a device-memory word lies in another package: what is performed there is no part of this
machine (log 1). -/
def State.elsewhere (s : State) (l : Loc) : Bool :=
  match l with
  | .sp _ _ => false
  | .dev pa => decide (pa < 2 ^ 59) && paPackage pa != s.pkg.num

/-! ### Flits on their way (15 R290, R291) -/

/-- A flit: when it was sent, its source terminal, and its destination terminal. -/
abbrev Flit := Nat × Nat × Nat

/-- The terminal of a thread; one that has ended has a number of its own. -/
def State.threadPort (s : State) (tid : Nat) : Nat :=
  match s.thread? tid with
  | some t => s.portOf t.core
  | none => 2 ^ 30 + tid

/-- The terminal of a home, by key. -/
def State.keyPort (s : State) (key : Nat) : Nat := s.destOf (locOfKey key) .dev

def State.replyFlit (s : State) (r : Reply) : Flit := (r.no, s.keyPort r.home, s.threadPort r.tid)

def State.noticeFlit (s : State) (n : Notice) : Flit := (n.no, n.term, s.threadPort n.tid)

/-- The replies channel: replies and error notices. -/
def State.replyFlow (s : State) : List Flit := s.replies.map s.replyFlit ++ s.notices.map s.noticeFlit

def State.linkFlit (s : State) (m : LinkMsg) : Flit :=
  (m.no, s.portOf m.src, match s.member? m.fam m.k, s.fam? m.fam with
    | some t, _ => s.portOf t.core
    | none, some f => s.portOf (f.dealt m.k)
    | none, none => 2 ^ 30)

def State.deliverFlit (s : State) (d : Deliver) : Flit := (d.no, s.keyPort d.home, s.threadPort d.tid)

def State.wakeFlit (s : State) (w : Wake) : Flit := (w.no, s.keyPort (w.line * 64), s.threadPort w.tid)

/-- The terminal a packet goes to; another package's is a number of its own. -/
def State.packetPort (s : State) (p : Packet) : Nat :=
  if bits p.send 24 13 = s.pkg.num then s.portOf p.dst else 2 ^ 31 + bits p.send 24 0

/-- Header and closing flit of a packet, the flit sent at `n`. -/
def State.packetFlit (s : State) (p : Packet) (n : Nat) : Flit :=
  (n, s.portOf (lcoreCore p.header), s.packetPort p)

/-- The messages channel: packets, linked values, deliveries and wakes. -/
def State.msgFlow (s : State) : List Flit :=
  s.linkMsgs.map s.linkFlit ++ s.delivers.map s.deliverFlit ++ s.wakes.map s.wakeFlit ++
    s.pkts.flatMap fun p => (if p.arrived || p.ack.isSome then [] else [s.packetFlit p p.no]) ++
      (if p.closed && p.ack.isNone then [s.packetFlit p p.cno] else [])

/-- No flit of the channel with the same source and destination was sent before (15 R290). -/
def firstFlit (flow : List Flit) (x : Flit) : Bool := flow.all fun y => !(decide (y.1 < x.1) && y.2 == x.2)

/-- A flit may arrive: it is the first of its source and destination, and no link holds it up. -/
def State.flitReady (s : State) (flow : List Flit) (x : Flit) : Bool := firstFlit flow x && !s.stopped x.2.1 x.2.2

/-- The place in a list of the nth of its flits that may arrive. -/
def State.nextFlit (s : State) (flow mine : List Flit) (n : Nat) : Option Nat :=
  let l := (List.range mine.length).filter fun i => match mine[i]? with
    | some x => s.flitReady flow x
    | none => false
  l[n % l.length]?

/-- The nth linked value that may arrive: the first of its source and destination (15 R290), and of those for its
member, which are in the order their predecessor sent them in, the first (05 R111). -/
def State.nextLinked (s : State) (n : Nat) : Option Nat :=
  let first (i : Nat) : Bool := match s.linkMsgs[i]? with
    | some m => s.flitReady s.msgFlow (s.linkFlit m) &&
        (s.linkMsgs.take i).all fun x => !(x.fam == m.fam && x.k == m.k)
    | none => false
  let l := (List.range s.linkMsgs.length).filter first
  l[n % l.length]?

/-! ### Release phases (15 R297 to R299) -/

/-- The counter set of a scope: core scope counts as clu. -/
def scopeNo (sc : Scope) : Nat :=
  match sc with
  | .core => 0
  | .clu => 0
  | .dev => 1
  | .sys => 2

def noScope (n : Nat) : Scope :=
  match n with
  | 0 => .clu
  | 1 => .dev
  | _ => .sys

/-- The current phase of a scope. -/
def State.curPhase (s : State) (c n : Nat) : PhaseId := ⟨c, noScope n, (s.core c).cur.toList.getD n 0⟩

def bumpCount (l : List (Nat × Nat)) (t : Nat) : List (Nat × Nat) := tabSet l t ((tabGet l t).getD 0 + 1)

/-- A posted write is sent in the current phase of its scope. -/
def State.countSent (s : State) (c : Nat) (sc : Scope) (term : Nat) : PhaseId × State :=
  let p := s.curPhase c (scopeNo sc)
  let ps := (s.core c).phases
  let ps := if ps.any fun x => x.id == p then ps else ps ++ [⟨p, [], [], [], false⟩]
  (p, s.modCore c fun x => { x with
    phases := ps.map fun y => if y.id = p then { y with sent := bumpCount y.sent term } else y })

/-- A home has performed a write of a phase. -/
def State.countDone (s : State) (p : Option PhaseId) (term : Nat) : State :=
  match p with
  | none => s
  | some p => s.modCore p.core fun x => { x with
      phases := x.phases.map fun y => if y.id = p then { y with done := bumpCount y.done term } else y }

/-- Closed phases of a scope that have not completed. -/
def State.closedOf (s : State) (c n : Nat) : List PhaseId :=
  ((s.core c).phases.filter fun y => y.id.scope == noScope n && y.closed).map (·.id)

/-- The current phase of scope number n has sent writes. -/
def State.curSent (s : State) (c n : Nat) : Bool :=
  (s.core c).phases.any fun y => y.id == s.curPhase c n

def State.closeOne (s : State) (c n : Nat) : State :=
  if s.curSent c n then
    let p := s.curPhase c n
    s.modCore c fun x => { x with
      phases := x.phases.map fun y => if y.id = p then { y with closed := true } else y
      cur := Vector.ofFn fun i => if i.val = n then ((x.cur[i]) + 1) % 4 else (x.cur[i]) }
  else s

/-- A release at a scope closes the current phase there and at every narrower scope; the phases it
waits for, or `none` if a fourth would be outstanding. -/
def State.closePhases (s : State) (c : Nat) (sc : Scope) : Option (List PhaseId × State) :=
  let ns := (List.range 3).filter fun n => decide (n ≤ scopeNo sc)
  if ns.any fun n => s.curSent c n && decide (2 ≤ (s.closedOf c n).length) then none
  else
    let s := ns.foldl (fun s n => s.closeOne c n) s
    some (ns.flatMap fun n => s.closedOf c n, s)

/-! ### Access tables (19 R379, R380) -/

/-- The rights a home operation needs: reads, writes. -/
def HomeOp.needs (op : HomeOp) : Bool × Bool :=
  match op with
  | .read _ _ => (true, false)
  | .readP => (true, false)
  | .write _ _ => (false, true)
  | .nib _ _ => (false, true)
  | .append _ _ => (false, true)
  | .ldf => (true, true)
  | .tagr => (true, true)
  | .mona _ => (true, false)
  | _ => (true, true)

/-- A home slice denies a request of a cluster; a scratchpad bank denies none. The management registers
take only whole single words, which `mgmtOp` performs; any other request for them is in error. -/
def State.denies (s : State) (l : Loc) (src : Nat) (r w : Bool) : Bool :=
  match l with
  | .sp _ _ => false
  | .dev pa => decide (pa < 2 ^ 59) &&
      ((s.mgmtOff pa).isSome || !s.tableAllows (s.sliceNo pa) (clusterMaster src) r w false)

/-! ### What a performed operation did (14 R277) -/

/-- Whether an operation that was performed read the word, and whether it changed it (14 R277). -/
def HomeOp.effect (op : HomeOp) (r : Result) : Bool × Bool :=
  match op, r with
  | _, .trap _ _ _ => (false, false)
  | .read _ _, _ => (true, false)
  | .readP, _ => (true, false)
  | .ldf, _ => (true, false)
  | .tagr, _ => (true, false)
  | .take, _ => (true, true)
  | .cas _ _ _, .ok _ v => (v == 0, v != 0)
  | .mona _, _ => (false, false)
  | .append _ _, _ => (false, false)
  | .ngrp _ _ _, _ => (false, false)
  | .nredi _ _ _, _ => (false, false)
  | .nfree _, _ => (false, false)
  | _, _ => (false, true)

def HomeOp.len (op : HomeOp) : Nat :=
  match op with
  | .read n _ => sizeBytes n
  | .write n _ => sizeBytes n
  | .nib _ _ => 1
  | .atom _ n _ => sizeBytes n
  | .cas n _ _ => sizeBytes n
  | _ => 8

/-- A TAKE is a read alone at a scratchpad (14 R277), and a read and a change at a slice (16 R312). -/
def takeChange (l : Loc) (op : HomeOp) (ch : Bool) : Bool :=
  match l, op with
  | .sp _ _, .take => false
  | _, _ => ch

/-! ### Error notices (07 R138) -/

/-- A notice reaches the deferred-error record of its thread, or the Factor if it has ended. -/
def State.noteError (s : State) (tid launch : Nat) (pos : Word) (c : Cause) (addr : Word) : State :=
  match s.thread? tid with
  | none => s.report launch 3 pos addr [BitVec.ofNat 64 (causeCode c).toNat, 0]
  | some t => (s.putThread { t with errRec := some (match t.errRec with
      | none => ⟨c, addr, 0⟩
      | some r => { r with count := r.count + 1 }) }).syncFrame tid

/-- The deferred-error record is raised where there is one (07 R138). -/
def raiseDeferred : M Unit := fun s =>
  match s.cur.errRec with
  | none => .ok ((), s)
  | some _ => .error .deferred

/-! ### Performing a request -/

/-- Operand, and new tag, of an object operation that writes its word; none of one that only looks, or that failed
to take a lock. DESIGN CHOICE: each counts once, as it is performed, on its header word (log 54). -/
def ObjOp.digestOf (op : ObjOp) (v0 : Word) : Option (Word × Tag) :=
  match op with
  | .bari _ c => some (c, .object)
  | .qi c => some (c, .object)
  | .qpush v => some (v, .object)
  | .wwait e _ => some (e, .object)
  | .wqry _ => none
  | .bwait => none
  | .lktry => if v0 = 0 then none else some (0, .object)
  | .ofree => some (0, .full)
  | _ => some (0, .object)

/-- The value, size and new tag of a write, for the digest (20 R395); none where nothing is
written. -/
def HomeOp.digestOf (op : HomeOp) (r : Result) : Option (Word × Nat × Tag) :=
  match op, r with
  | _, .trap _ _ _ => none
  | .write n v, _ => some (v, sizeBytes n, .full)
  | .nib _ v, _ => some (v, 1, .full)
  | .atom _ n x, _ => some (x, sizeBytes n, .full)
  | .cas n _ x, .ok _ v => if v = 0 then none else some (x, sizeBytes n, .full)
  | .take, _ => some (0, 8, .empty)
  | .put v, _ => some (v, 8, .full)
  | .putWait v, _ => some (v, 8, .full)
  | .tagw nt v, _ => some (if nt = .empty then 0 else v, 8, nt)
  | .obj o, .ok v _ => (o.digestOf v).map fun (x, t) => (x, 8, t)
  | _, _ => none

/-- The digest of a request that has been performed, one component at a time (16 R314). -/
def State.digestReq (s : State) (q : Req) (r : Result) : State :=
  match q.op.digestOf r with
  | none => s
  | some (v, n, tag) =>
    if q.parts.isEmpty then s.digest q.loc (s.writer q.launch q.ivl q.who q.opc) v n tag
    else q.parts.foldl (fun s p => s.digest q.loc (s.writer p.launch p.ivl p.who q.opc) p.x n tag) s

/-- A request for a management register (19 R385): a whole word, behind its access table. -/
def State.mgmtOp (s : State) (q : Req) (off : Nat) : Ans × State :=
  let mid := clusterMaster q.src
  let r := mregOf off
  let bad : Ans := .done (.trap .access q.va (q.kind.setWidth 64 + BitVec.ofNat 64 (q.elem * 2 ^ 8)))
  let with_ (rd wr : Bool) (f : State → Word × State) : Ans × State :=
    if !s.mregAllows mid r rd wr then (bad, s)
    else match s.mregAccess mid r with
      | (true, s) => let (v, s) := f s
          (.done (.ok v 0), s)
      | (false, s) => (bad, s)
  match q.op with
  | .read .b64 _ => with_ true false fun s => (s.mregRead r, s)
  | .write .b64 v => with_ false true fun s => (0, s.sendRegWrite mid off v)
  | _ => (bad, s)

def isObj (op : HomeOp) : Bool :=
  match op with
  | .obj _ => true
  | _ => false

/-- A request that is not combined is performed: the answer of its home. An object operation that waits may have
changed its word. -/
def State.performOne (s : State) (q : Req) : Ans × State :=
  let (r, w) := q.op.needs
  match s.mgmtOf q.loc with
  | some off => s.mgmtOp q off
  | none =>
  if s.denies q.loc q.src r w then
    (.done (.trap .access q.va (q.kind.setWidth 64 + BitVec.ofNat 64 (q.elem * 2 ^ 8))), s)
  else
    let s0 := s
    let (a, s) : Ans × State := match q.op with
      | .obj op => s.objOp q op
      | .append h r => let (r, s) := s.appendRecord h r
          (.done r, s)
      | .ngrp cfg raddr sys => s.ngrpOp q cfg raddr sys
      | .nredi h e t => s.nrediOp q h e t
      | .nfree h => s.nfreeOp q h
      | _ => s.wordOp q
    match a with
    | .done res =>
      let (rd, ch) := q.op.effect res
      (a, ((s.digestReq q res).observe q.loc q.op.len rd (takeChange q.loc q.op ch) q.src? q.src).observeFills s0)
    | .wait _ =>
      let ch := isObj q.op && (s.mem.word q.loc.key != s0.mem.word q.loc.key || s.mem.tag q.loc.key != s0.mem.tag q.loc.key)
      let s := if isObj q.op then s.digestReq q (.ok 0 0) else s
      (a, s.observe q.loc q.op.len false ch q.src? q.src)

/-- The key under which an answer travels: that of an NREDI is on the reductions channel (15 R291). -/
def HomeOp.replyHome (op : HomeOp) (l : Loc) : Nat :=
  match op with
  | .nredi _ _ _ => if 2 ^ 59 ≤ l.key then redHome (l.key / 8 % 8) else l.key
  | _ => l.key

/-- The answer travels: a reply, a changed stall reason, or a notice. -/
def State.answerReq (s : State) (q : Req) (term : Nat) (a : Ans) : State :=
  if q.posted then
    let s : State := match a with
      | .done (.trap c i0 _) => { s with
          notices := s.notices ++ [⟨q.tid, q.launch, q.pos, c, i0, 0, q.phase, term, s.stamp⟩], stamp := s.stamp + 1 }
      | _ => s
    s.countDone q.phase term
  else match a with
    | .done r => s.answer q.tid q.elem r q.va (q.op.replyHome q.loc)
    | .wait reason =>
      let (n, s) := s.fresh
      s.modThread q.tid fun t => { t with since := n, wait := t.wait.map fun w => { w with reason := reason } }

/-- The operand of an AADD. -/
def HomeOp.addend (op : HomeOp) : Nat :=
  match op with
  | .atom .add _ x => x.toNat
  | _ => 0

def HomeOp.width (op : HomeOp) : Nat := 8 * op.len

/-- A combined request answers its components in order (16 R315). -/
def State.answerParts (s : State) (q : Req) (term : Nat) (a : Ans) (ps : List Part) (sum : Nat) : State :=
  match ps with
  | [] => s
  | p :: r =>
    let one : Req := { q with
      tid := p.tid, fam := p.fam, launch := p.launch, src := p.src, pos := p.pos, va := p.va, posted := p.posted
      phase := p.phase, parts := [] }
    let a' : Ans := match a with
      | .done (.ok v _) => .done (.ok (BitVec.ofNat 64 ((v.toNat + sum) % 2 ^ q.op.width)) 0)
      | .done (.trap c _ i1) => .done (.trap c p.va i1)
      | a => a
    (s.answerReq one term a').answerParts q term a r (sum + p.x.toNat)

/-- A wait of a thread on its own work that may now end: it reissues and looks again. -/
def State.nudge (s : State) (tid : Nat) : State :=
  match s.thread? tid with
  | none => s
  | some t => match t.wait with
    | some w => if w.held.isNone && (w.reason == 8 || (w.reason == 4 && w.key == 5)) then s.wake tid else s
    | none => s

/-- A request over a link that is down is answered without being performed (19 R369, 21 R403): a
poison reply, or a notice with LINK_DOWN. DESIGN CHOICE: TINFO1 of the poison reply is 0, also of a vector element
(log 95). -/
def Req.unreached (q : Req) : Ans :=
  .done (.trap (if q.posted then .linkDown else .poisonRead) q.va 0)

/-- The components that `out` names are answered so, one by one; the request of the others, none where no component
is left (16 R315). -/
def State.dropParts (s : State) (q : Req) (term : Nat) (out : Part → Bool) (a : Part → Ans) : Option Req × State :=
  if q.parts.isEmpty then (some q, s)
  else
    let (no, yes) := q.parts.partition out
    let s := no.foldl (fun s p => s.answerParts q term (a p) [p] 0) s
    match yes with
    | [] => (none, s)
    | p :: _ =>
      let n : Size := match q.op with
        | .atom _ n _ => n
        | _ => .b64
      (some { q with
        tid := p.tid, fam := p.fam, launch := p.launch, src := p.src, pos := p.pos, fidIndex := p.fidIndex, va := p.va
        posted := p.posted, phase := p.phase, parts := yes
        op := .atom .add n (BitVec.ofNat 64 (yes.foldl (fun x p => x + p.x.toNat) 0 % 2 ^ q.op.width)) }, s)

/-- Components that the home's access table denies are answered so (16 R315). -/
def State.denyParts (s : State) (q : Req) (term : Nat) : Option Req × State :=
  s.dropParts q term (fun p => s.denies q.loc p.src true true) fun _ => .done (.trap .access q.va (q.kind.setWidth 64))

/-- What no link carries to the home any more is answered so, of a combined request each component from its own die
(19 R369, 21 R403); the request that is left. -/
def State.dropCut (s : State) (q : Req) (term : Nat) : Option Req × State :=
  if q.parts.isEmpty then
    if s.reaches q.src q.loc then (some q, s) else (none, s.answerReq q term q.unreached)
  else s.dropParts q term (fun p => !s.reaches p.src q.loc) fun p => ({ q with posted := p.posted } : Req).unreached

/-- A request, or each of its components, is answered. -/
def State.answerAll (s : State) (q : Req) (term : Nat) (a : Ans) : State :=
  if q.parts.isEmpty then s.answerReq q term a else s.answerParts q term a q.parts 0

/-- A request is performed at its home and answered. -/
def State.performReq (s : State) (q : Req) : State :=
  let term := s.termOf q.loc q.scope
  let s := match s.dropCut q term with
    | (none, s) => s
    | (some q, s) => match s.denyParts q term with
      | (none, s) => s
      | (some q, s) =>
        let (a, s) := s.performOne q
        s.answerAll q term a
  q.tids.foldl (fun s t => s.nudge t) s

/-! ### Requests to other packages (21 R400 to R404, log 1) -/

/-- What the home of another package answers is a free choice among what its word may hold, with any tag, or the
denial of its access table; of an object or a group, any result. An operation that would wait there is performed
later. -/
def State.performAway (s : State) (q : Req) : Ans × State :=
  let (v, s) := s.freeVal
  let (t, s) := s.choose 6
  let k := q.loc.key / 8 * 8
  let on (tag : Tag) : Ans := ((s.putWord k v tag).wordOp q).1
  let any_ (c : Cause) (i0 i1 : Word) : Ans := if t = 0 then .done (.ok v 0) else .done (.trap c i0 i1)
  match q.op with
  | .ngrp _ _ _ =>
    let h := v &&& 0xFFFFFFFF
    if t = 0 then (.done (.ok h 0), { s with pkg := { s.pkg with
      farGroups := s.pkg.farGroups ++ [(q.launch, h, q.loc.key)] } })
    else (.done (.trap .reductionState q.va 3), s)
  | .nredi h _ _ => (if t = 5 then .wait 12 else any_ .reductionState h
      (if t = 1 then 1 else if t = 2 then 4 else if t = 3 then 5 else 7), s)
  | .nfree h =>
    (any_ .reductionState h 1, { s with pkg := { s.pkg with
      farGroups := s.pkg.farGroups.filter fun g => !(g.1 == q.launch && g.2.1 == h) } })
  | .obj _ => (if t = 5 then .wait 12 else any_ (if t = 1 then .tagMisuse else if t = 2 then .poisonRead else .access) q.va
      (if t = 3 then q.kind.setWidth 64 else 0), s)
  | _ => (if t = 0 then on .empty else if t = 1 then on .object else if t = 2 then on .poison
      else if t = 3 then .done (.trap .access q.va (q.kind.setWidth 64 + BitVec.ofNat 64 (q.elem * 2 ^ 8))) else on .full, s)

/-- A request reaches the port of another package and is performed there; none where it waits there. -/
def State.awayArrives (s : State) (q : Req) : Option State :=
  let term := s.termOf q.loc q.scope
  match s.dropCut q term with
  | (none, s) => some (q.tids.foldl (fun s t => s.nudge t) s)
  | (some r, s) => match s.performAway r with
    | (.wait _, _) => none
    | (a, s) => some (q.tids.foldl (fun s t => s.nudge t) (s.answerAll r term a))

/-! ### The order in which homes take requests -/

/-- A write of SQTAIL by a core, which is a release at device scope (19 R377). -/
def State.isTailWrite (s : State) (q : Req) : Bool :=
  match q.op, s.mgmtOf q.loc with
  | .write .b64 _, some off => (match mregOf off with
      | .queue _ i => i == 2
      | _ => false)
  | _, _ => false

/-- A write that a core has posted, at most at device scope, stands among some requests. -/
def postedBy (c : Nat) (l : List Req) : Bool :=
  l.any fun r => r.scope != .sys && (if r.parts.isEmpty then r.posted && r.src == c else r.parts.any fun p => p.posted && p.src == c)

/-- What a write of SQTAIL releases has still to be performed: the posted writes that its core sent before it. -/
def State.tailWaits (s : State) (before : List Req) (q : Req) : Bool :=
  s.isTailWrite q && (postedBy q.src before || postedBy q.src s.missed || s.cores.any fun (_, x) => postedBy q.src x.queue)

/-- A request may arrive: its phases have completed, no link holds it up, and
nothing that it must follow is before it (15 R290, R295). -/
def State.reqReady (s : State) (before : List Req) (q : Req) : Bool :=
  q.held.isEmpty && (!s.reaches q.src q.loc || (s.srcTerms q).all fun t => !s.stopped t (s.termOf q.loc q.scope)) &&
  before.all (fun r =>
    !(r.held.isEmpty && s.destOf r.loc r.scope == s.destOf q.loc q.scope &&
      (s.srcTerms r).any fun t => (s.srcTerms q).contains t) &&
    !(r.sameWord q && r.tids.any fun t => q.tids.contains t)) &&
  (s.missed.all fun r => !r.sameWord q) && !s.tailWaits before q

/-- The numbers of the requests that may arrive now, in the order of the list. -/
def State.readyReqs (s : State) (p : Req → Bool) : List Nat :=
  (List.range s.reqs.length).filter fun i =>
    match s.reqs[i]? with
    | some q => p q && s.reqReady (s.reqs.take i) q
    | none => false

def isAppend (q : Req) : Bool :=
  match q.op with
  | .append _ _ => true
  | _ => false

def isSp (l : Loc) : Bool :=
  match l with
  | .sp _ _ => true
  | .dev _ => false

/-- A request arrives at its home (16 R311): at a slice it is performed, or waits for its line; at
a scratchpad it joins the queue of its bank; one for another package is performed there. -/
def State.homeArrives (s : State) (n : Nat) : Option State :=
  let l := s.readyReqs fun q => !isAppend q
  if l.isEmpty then none
  else
    let i := l.getD (n % l.length) 0
    match s.reqs[i]? with
    | none => none
    | some q =>
      let s := { s with reqs := removeAt s.reqs i }
      match q.loc with
      | .sp c _ => some (s.modCore c fun x => { x with queue := x.queue ++ [q] })
      | .dev _ =>
        if s.elsewhere q.loc then s.awayArrives q
        else if (s.mgmtOf q.loc).isSome then some (s.performReq q)
        else
          let (absent, s) := s.choose 2
          if absent = 1 then some { s with missed := s.missed ++ [q] } else some (s.performReq q)

/-- The link over which a slice's line of LPDDR comes from the H-die; of HBM none, which 0 stands for. -/
def State.lineLink (s : State) (key : Nat) : Nat :=
  let (h, n) := sliceOf s.paired key
  if 2 ^ 59 ≤ key ∨ paLocal key < 2 ^ 40 then 0
  else match s.routeLink h 4 (192 + n) with
    | some k => dieLink h 4 k
    | none => 0

/-- The line of a waiting operation arrives: every operation that waits for it is performed, in
order (16 R311). -/
def State.lineFills (s : State) (n : Nat) : Option State :=
  if s.missed.isEmpty then none
  else match s.missed[n % s.missed.length]? with
    | none => none
    | some q =>
      if s.linkHolds (s.lineLink q.loc.key) then none
      else
      let line := q.loc.key / 64
      let (now, later) := s.missed.partition fun r => r.loc.key / 64 == line
      some (now.foldl (fun s r => s.performReq r) { s with missed := later })

/-- A queued access can be served in the current cycle of core `c`: its bank is free and not kept (06 R124). -/
def State.bankFree (s : State) (c : Nat) (q : Req) : Bool :=
  !((s.core c).bankUsed ||| s.bankKept c).getLsbD (bankOf q.loc)

/-- A queued access is still to win its bank in the current cycle of core `c`, before its turn. -/
def State.bankDue (s : State) (c : Nat) : Bool := (s.core c).queue.any fun q => s.bankFree c q

/-- A queued access wins its bank in the current cycle of core `c` (06 R124): the first whose bank
is free. The cycle ends with the turn's own accesses. -/
def State.bankServes (s : State) (c : Nat) : Option State :=
  match takeFirst (fun q => s.bankFree c q) (s.core c).queue with
  | none => none
  | some (q, rest) =>
    let s := s.modCore c fun x => { x with
      queue := rest, bankUsed := x.bankUsed ||| (1#16 <<< bankOf q.loc) }
    some (s.performReq q)

/-! ### Combining (16 R313, R314) -/

def Req.asParts (q : Req) : List Part :=
  if q.parts.isEmpty then
    [⟨q.tid, q.fam, q.launch, q.src, q.pos, q.fidIndex, q.va, q.posted, q.phase, BitVec.ofNat 64 q.op.addend, q.who,
      q.ivl⟩]
  else q.parts

def isAdd (q : Req) : Bool :=
  match q.op with
  | .atom .add _ _ => true
  | _ => false

/-- The switch at which two requests meet, components and all, and whether the second is at its lower input; none
where some of them share a path before it. -/
def State.meeting (s : State) (a b : Req) : Option (Nat × Nat × Bool) :=
  let h := termDie (s.termOf a.loc a.scope)
  match ((s.srcTerms a).flatMap fun x => (s.srcTerms b).map fun y => s.meetAt x y h).eraseDups with
  | [m] => m
  | _ => none

/-- Two requests that a switch may combine: AADD of one word, size and scope at the heads of its two inputs. The
second is at the lower input. -/
def State.combinable (s : State) (a b : Req) : Bool :=
  isAdd a && isAdd b && a.loc == b.loc && a.op.len == b.op.len && a.scope == b.scope &&
    decide (a.asParts.length + b.asParts.length ≤ 8) &&
    (match s.meeting a b with
     | some (_, _, lower) => lower
     | none => false) &&
    (match a.loc with
     | .dev _ => true
     | .sp c _ => (s.srcTerms a ++ s.srcTerms b).all fun t => t != s.portOf c)

/-- The combined request carries the sum of the addends. -/
def Req.combine (a b : Req) : Req :=
  let z (o : HomeOp) : Size := match o with
    | .atom _ n _ => n
    | _ => .b64
  { a with
    op := .atom .add (z a.op) (BitVec.ofNat 64 ((a.op.addend + b.op.addend) % 2 ^ a.op.width))
    parts := a.asParts ++ b.asParts }

/-- A switch combines the `n`th pair of requests that may meet at one: that of input 0 is first (16 R313). -/
def State.combineAt (s : State) (n : Nat) : Option State :=
  let l := s.readyReqs isAdd
  let pairs := l.flatMap fun i => l.filterMap fun j => match s.reqs[i]?, s.reqs[j]? with
    | some a, some b => if s.combinable a b then some (i, j, a.combine b) else none
    | _, _ => none
  match pairs[n % pairs.length]? with
  | none => none
  | some (i, j, q) => some { s with reqs := removeAt (s.reqs.set (min i j) q) (max i j) }

/-! ### Markers and completion (15 R298) -/

/-- Closed phases with a terminal that can answer its marker: it has performed every write. -/
def Phase.answerable (y : Phase) : List Nat :=
  (y.sent.filter fun (t, k) => !y.answered.contains t && decide (k ≤ (tabGet y.done t).getD 0)).map (·.1)

/-- A terminal is reached from a core: its die, and of a Gulong port its link (19 R369, 21 R402). -/
def State.termReached (s : State) (c t : Nat) : Bool :=
  s.dieReach (dieOf c) (termDie t) && (s.linksBetween (s.portOf c) t).all fun i => !s.linkIsDown i

/-- The terminals that can answer the marker of a closed phase of a core and to which no link holds it up. -/
def State.markersDue (s : State) (c : Nat) (y : Phase) : List Nat :=
  if y.closed then y.answerable.filter fun t => !s.stopped (s.portOf c) t else []

/-- The threads whose release waits on a phase, each with its launch and position. -/
def State.releasing (s : State) (p : PhaseId) : List (Nat × Nat × Word) :=
  (s.allThreads.filter fun t => match t.wait with
    | some ⟨_, some (.release _ ps), _, _⟩ => ps.contains p
    | _ => false).map (fun t => (t.tid, t.launch, positionWord s.pkg.num t.core t.entry)) ++
  (s.reqs.filter fun q => q.held.contains p).map fun q => (q.tid, q.launch, q.pos)

/-- A port answers a marker with LINK_DOWN: the deferred-error records of those who wait for the phase
are set, their address a free value. -/
def State.markerLost (s : State) (p : PhaseId) : State :=
  (s.releasing p).foldl (fun s (tid, launch, pos) =>
    let (a, s) := s.freeVal
    s.noteError tid launch pos .linkDown a) s

/-- The marker of a phase has its answer from a terminal. -/
def State.answerMarker (s : State) (p : PhaseId) (t : Nat) : State :=
  s.modCore p.core fun x => { x with phases := x.phases.map fun z =>
    if z.id = p then { z with answered := z.answered ++ [t] } else z }

/-- A marker reaches a terminal of a closed phase of core `c` and is answered, or is answered by the
port of a link that is down. -/
def State.markerAnswered (s : State) (c : Nat) : Option State :=
  firstSome (fun y => match s.markersDue c y with
    | [] => none
    | t :: _ => some ((if s.termReached c t then s else s.markerLost y.id).answerMarker y.id t)) (s.core c).phases

/-- A phase is no longer waited for: by a request, or by a thread. -/
def Comp.dropPhase (k : Comp) (p : PhaseId) : Comp :=
  match k with
  | .release c ps => .release c (ps.filter (· != p))
  | k => k

/-- Held requests that are free now leave after those sent before them, and take with them the later ones of
their thread to the same word (15 R290, R295, R298). -/
def lateReqs (free : Req → Bool) (drop : Req → Req) (kept late l : List Req) : List Req :=
  match l with
  | [] => kept ++ late
  | q :: r =>
    if free q || late.any (fun x => x.sameWord q && x.tids.any fun t => q.tids.contains t) then
      lateReqs free drop kept (late ++ [drop q]) r
    else lateReqs free drop (kept ++ [drop q]) late r

/-- Every marker of a closed phase of core `c` has been answered, and the notices sent before the
answers have arrived: the phase completes. What it held proceeds; a thread that waits in FENCE or
CHKPT sees it in its completion. -/
def State.phaseDone (s : State) (c : Nat) : Option State :=
  match (s.core c).phases.find? fun y => y.closed && y.sent.all (fun (t, _) => y.answered.contains t) &&
      (s.notices.all fun n => n.req != some y.id) with
  | none => none
  | some y =>
    let s := s.modCore c fun x => { x with phases := x.phases.filter fun z => z.id != y.id }
    let drop (q : Req) : Req := { q with held := q.held.filter (· != y.id) }
    let free (q : Req) : Bool := !q.held.isEmpty && (drop q).held.isEmpty
    let s := { s with reqs := lateReqs free drop [] [] s.reqs }
    let s := s.mapThreads fun t => { t with wait := t.wait.map fun w => { w with
      held := w.held.map fun k => k.dropPhase y.id } }
    some (s.wakeWhere fun t => t.core == c && t.wait == some ⟨4, none, false, 4⟩)

end Sys2Proof.Machine
end

