-- ==== Sys2Proof/Machine/Send.lean ====
section
/-! DEFINITION. How an instruction sends an access to its home and what its reply completes
(07 R137, R138, 15 R294 to R300). -/

namespace Sys2Proof.Machine

/-! ### The range-overlap scoreboard (12 R235, 09 R190) -/

/-- The key of an address for range comparisons: scratchpads by core and offset, device memory by
virtual address. -/
def vkey (core : Nat) (a : Word) : Nat :=
  if bits a 63 56 = 0xFF then (Loc.sp core (bits a 17 0)).key
  else if bits a 63 56 = 0xFE then (Loc.sp (clusterOf core * 128 + bits a 24 18) (bits a 17 0)).key
  else bits a 55 0

/-- Two ranges meet once rounded out to whole lines. -/
def linesMeet (a n b m : Nat) : Bool :=
  decide (a / 64 * 64 < b + m) && decide (b / 64 * 64 < (a + n + 63) / 64 * 64) &&
    decide (0 < n) && decide (0 < m)

def anyMeet (l : List (Nat × Nat)) (a n : Nat) : Bool := l.any fun (b, m) => linesMeet b m a n

/-- An access of a thread overlaps an earlier incomplete engine operation of its own: a load meets a
write range, a store any range. -/
def State.boardBlocks (s : State) (tid a n : Nat) (store : Bool) : Bool :=
  s.engines.any fun e => e.tid == tid && (anyMeet e.writes a n || (store && anyMeet e.reads a n))

/-- Requests of a thread that are not yet performed. -/
def State.pendingReqs (s : State) (tid : Nat) : List Req :=
  let mine (q : Req) : Bool := q.tids.contains tid
  s.reqs.filter mine ++ s.missed.filter mine ++ (s.cores.flatMap fun (_, c) => c.queue.filter mine)

/-- An access overlaps a byte of an earlier vector store element of the thread. -/
def State.vecBlocks (s : State) (tid a n : Nat) : Bool :=
  (s.pendingReqs tid).any fun q => q.vec && q.posted &&
    decide (vkey q.src q.va < a + n) && decide (a < vkey q.src q.va + q.op.len)

/-- The scoreboard lets an access pass, or it waits with reason 8. -/
def boardCheck (a : Word) (n : Nat) (store : Bool) : M Unit := fun s =>
  let k := vkey s.cur.core a
  if s.boardBlocks s.cur.tid k n store || s.vecBlocks s.cur.tid k n then .error (.wait 8 0 .nil)
  else .ok ((), s)

/-! ### Acquire and release (15 R298, R300) -/

/-- An acquire empties the line buffer. -/
def acquire : M Unit := updCur fun t => { t with lines := [] }

def acquireIf (b : Bool) : M Unit := if b then acquire else pure ()

/-- A release closes its phases, or waits with reason 4 while it would need a fourth. -/
def closeAt (sc : Scope) : M (List PhaseId) := fun s =>
  match s.closePhases s.cur.core sc with
  | none => .error (.wait 4 4 .nil)
  | some (ps, s) => .ok (ps, s)

/-- The phases that an access waits for: those that a release closes. -/
def closeIf (rel : Bool) (sc : Scope) : M (List PhaseId) := if rel then closeAt sc else pure []

/-! ### What a reply completes -/

/-- The rest of an instruction whose home has answered `v0`, `v1`. -/
def finish (k : Comp) (v0 v1 : Word) (acq : Bool) : M Flow := do
  acquireIf acq
  match k with
  | .unit => pure .seq
  | .reg d => writeD d v0
  | .objD d => acquireIf (v1 != 0); writeD d v0
  | .regPred d p => writeP p (v1 != 0); writeD d v0
  | .regTag d t => updCur (fun x => { x with l := x.l.set t.val v1, ecc := x.ecc.erase t.val }); writeD d v0
  | .mona i => updCur (fun t => { t with mons := t.mons.set i ((t.mons.getD i none).map fun m =>
      { m with coarse := v1 != 0 || v0 != 0 }) }); pure .seq
  | .chkpt id => modS (fun s => s.checkpoint id); pure .seq
  | .erepl d _ _ => writeD d v0
  | _ => pure .seq

/-- A release that has its phases raises a pending deferred-error record, then does the rest
(07 R138). -/
def afterPhases (ps : List PhaseId) (next : Comp) (acq : Bool) (now : M Flow) : M Flow :=
  if ps.isEmpty then do raiseDeferred; now
  else holdFor 4 0 (.release next ps) acq

/-! ### Sending -/

/-- An access as its instruction asks for it: address, alignment, kind and rights, scope, the
operation at the home, and its roles. -/
structure Ask where
  opc : Nat
  a : Word
  align : Nat
  acc : Access
  sc : Scope
  op : HomeOp
  rel : Bool
  acq : Bool

/-- The request of the issuing thread. -/
def State.request (s : State) (k : Ask) (l : Loc) (posted vec : Bool) (elem : Nat)
    (held : List PhaseId) : Req :=
  let t := s.cur
  { tid := t.tid, fam := t.fam, launch := t.launch, src := t.core, pos := positionWord s.pkg.num t.core t.entry
    fidIndex := BitVec.ofNat 64 (bits t.famid 31 0 + 2 ^ 32 * bits t.index 31 0), va := k.a, loc := l
    op := k.op, kind := k.acc.kind, scope := k.sc, posted := posted, app := t.pl == 0, elem := elem
    vec := vec, opc := k.opc, who := t.whoWord, ivl := t.ivl, phase := none, held := held, parts := [] }

/-- A posted request leaves in the current phase of its scope (15 R297). -/
def postReq (q : Req) : M Unit := modS fun s =>
  let (p, s) := s.countSent q.src q.scope (s.termOf q.loc q.scope)
  { s with reqs := s.reqs ++ [{ q with phase := some p }] }

/-- A returning request leaves and its thread waits. -/
def launchReq (q : Req) : M Unit := modS fun s => { s with reqs := s.reqs ++ [q] }

/-- Banks of the own scratchpad in the issuing turn: lost where a queued access has one, unless the
instruction has forfeited three times (06 R124). -/
def takeBanks (m : BitVec 16) : M Unit := fun s =>
  if s.inTurn && (s.core s.cur.core).bankUsed &&& m != 0 && decide (s.cur.forfeits < 3) then .error (.forfeit m)
  else .ok ((), s)

/-- The bank of one word. -/
def takeBank (l : Loc) : M Unit := takeBanks (1#16 <<< bankOf l)

/-- The access is performed within the turn (07 R137): `k` is what it completes, none if posted. -/
def inTurn (q : Req) (k : Option Comp) (acq : Bool) : M Flow := do
  takeBank q.loc
  let s ← get
  let (a, s') := s.performOne q
  set s'
  match k, a with
  | none, .done (.trap c i0 _) => modS fun s => s.noteError s.cur.tid s.cur.launch q.pos c i0; pure .seq
  | none, _ => pure .seq
  | some k, .done (.ok v0 v1) => finish k v0 v1 acq
  | some _, .done (.trap c i0 i1) =>
    if c = .deadlock then modS State.unread
    trapW c i0 i1
  | some k, .wait r =>
    modS fun s => { s.updCur (fun t => { t with since := s.stamp }) with stamp := s.stamp + 1 }
    holdFor r 0 k acq

/-- The thread has an access to the same word that is not yet performed (15 R295). -/
def State.wordPending (s : State) (q : Req) : Bool :=
  (s.pendingReqs q.tid).any fun r => r.sameWord q

/-- Whether an operation stores, for the scoreboard. -/
def HomeOp.stores (op : HomeOp) : Bool :=
  match op with
  | .read _ _ => false
  | .readP => false
  | .ldf => false
  | .tagr => false
  | .mona _ => false
  | _ => true

/-- A release is the first of the thread to complete with a deferred-error record set (07 R138): a posted one
completes as it issues, a returning one once its phases have. -/
def raiseAt (rel now : Bool) : M Unit := if rel && now then raiseDeferred else pure ()

/-- An access of the own window: within the turn, or in the turn at which it reissues where the thread has an
earlier access to the word (15 R295); a release waits for its phases first (07 R137, 15 R294). -/
def ownAccess (q : Req) (c : Option Comp) (acq : Bool) : M Flow := do
  let s ← get
  if !q.held.isEmpty then do
    launchReq q
    holdFor 4 0 (c.getD .unit) acq
  else if s.wordPending q then waitR 4 5
  else inTurn q c acq

/-- An access is sent: within the turn on the own window, else to its home. `c` is what its reply
completes; a posted access has none, and needs room in the requests channel (07 R137). -/
def send (k : Ask) (c : Option Comp) : M Flow := do
  let (l, own) ← locate k.a k.align k.acc k.sc 0
  boardCheck k.a k.op.len k.op.stores
  if c.isNone && !own then channelFree .requests
  raiseAt k.rel (c.isNone && !own)
  let held ← closeIf k.rel k.sc
  raiseAt k.rel ((c.isSome || own) && held.isEmpty)
  let s ← get
  let q := s.request k l c.isNone false 0 held
  if own then ownAccess q c k.acq
  else match c with
    | none => postReq q; pure .seq
    | some c => launchReq q; holdFor 4 0 c k.acq

end Sys2Proof.Machine
end

