-- ==== Sys2Proof/Machine/Mem.lean ====
section
/-! DEFINITION. Memory, tag, atomic and monitor instructions and the software tag table
(07 R141 to R153). -/

namespace Sys2Proof.Machine

def ordAcq (o : Ord) : Bool := o == .acq || o == .acqrel
def ordRel (o : Ord) : Bool := o == .rel || o == .acqrel

/-! ### Loads and stores (07 R141, R142) -/

/-- LD. -/
def execLd (o : OpLd) (s : State) : Host.Outcome State Fault Refusal :=
  issue o.g (do
    checkDst o.d
    let a ← memAddr o.m
    send ⟨0x50, a, sizeBytes o.sz, accRead, o.scope, .read o.sz o.sx, false, ordAcq o.ord⟩
      (some (.reg o.d))) s

/-- LDP: the poison-aware read. -/
def execLdp (o : OpLdp) (s : State) : Host.Outcome State Fault Refusal :=
  issue o.g (do
    checkDst o.d
    let a ← memAddr o.m
    send ⟨0x53, a, 8, accRead, o.scope, .readP, false, ordAcq o.ord⟩ (some (.regPred o.d o.pd))) s

/-- ST. -/
def execSt (o : OpSt) (s : State) : Host.Outcome State Fault Refusal :=
  issue o.g (do
    let a ← memAddr o.m
    let v ← readS o.c
    send ⟨0x51, a, sizeBytes o.sz, accWrite, o.scope, .write o.sz v, ordRel o.ord, false⟩ none) s

/-- STN. -/
def execStn (o : OpStn) (s : State) : Host.Outcome State Fault Refusal :=
  issue o.g (do
    let a ← memAddr o.m
    let v ← readS o.c
    send ⟨0x52, a, 1, accWrite, o.scope, .nib o.nib v, ordRel o.ord, false⟩ none) s

/-! ### Tag instructions (07 R143 to R146) -/

/-- TAKE. -/
def execTake (o : OpTake) (s : State) : Host.Outcome State Fault Refusal :=
  issue o.g (do
    checkDst o.d
    let a ← memAddr o.m
    send ⟨0x54, a, 8, accTag, o.scope, .take, false, ordAcq o.ord⟩ (some (.reg o.d))) s

/-- LDF: R alone (18 R359). -/
def execLdf (o : OpTake) (s : State) : Host.Outcome State Fault Refusal :=
  issue o.g (do
    checkDst o.d
    let a ← memAddr o.m
    send ⟨0x56, a, 8, accTagRead, o.scope, .ldf, false, ordAcq o.ord⟩ (some (.reg o.d))) s

/-- PUT and PUT.wait. -/
def putWith (o : OpPut) (f : Word → HomeOp) (s : State) : Host.Outcome State Fault Refusal :=
  issue o.g (do
    let a ← memAddr o.m
    let v ← readS o.c
    send ⟨0x55, a, 8, accTag, o.scope, f v, ordRel o.ord, false⟩ (some .unit)) s

def execPut (o : OpPut) (s : State) := putWith o .put s
def execPutWait (o : OpPut) (s : State) := putWith o .putWait s

/-- TAGR: data to DST, tag to the local SC. -/
def execTagr (o : OpTagr) (s : State) : Host.Outcome State Fault Refusal :=
  issue o.g (do
    checkDst o.d
    let a ← memAddr o.m
    send ⟨0x57, a, 8, accTagRead, o.scope, .tagr, false, ordAcq o.ord⟩ (some (.regTag o.d o.t))) s

/-- TAGW. -/
def execTagw (o : OpTagw) (s : State) : Host.Outcome State Fault Refusal :=
  issue o.g (do
    let a ← memAddr o.m
    let v ← readS o.c
    send ⟨0x58, a, 8, accTag, o.scope, .tagw o.nt v, ordRel o.ord, false⟩ (some .unit)) s

/-! ### FENCE (07 R147, 13 R259) -/

/-- The thread has an engine operation in flight. -/
def State.engineBusy (s : State) (tid : Nat) : Bool := s.engines.any fun e => e.tid == tid

/-- The copy-fault record is raised: the trap clears it. -/
def raiseCopy : M Unit := fun s =>
  match s.cur.copyRec with
  | none => .ok ((), s)
  | some r => .error (.trap .copyFault (some r.id) (some r.first)
      (s.updCur fun t => { t with copyRec := none }))

/-- Engine operations of the thread have completed, or it waits with a reason. -/
def enginesDone (reason key : Nat) : M Unit := fun s =>
  if s.engineBusy s.cur.tid then .error (.wait reason key .nil) else .ok ((), s)

/-- A FENCE completes: a deferred-error record is raised first, then with ENG a copy-fault record
(07 R138, 13 R259). -/
def fenceNow (eng acq : Bool) : M Flow := do
  raiseDeferred
  if eng then raiseCopy
  acquireIf acq
  pure .seq

/-- FENCE. -/
def execFence (o : OpFence) (s : State) : Host.Outcome State Fault Refusal :=
  issue o.g (do
    if o.eng then enginesDone 8 0
    let ps ← closeIf (ordRel o.ord) o.scope
    afterPhases ps (.fence o.eng) (ordAcq o.ord) (fenceNow o.eng (ordAcq o.ord))) s

/-! ### Atomics (07 R148, R149) -/

/-- An atomic: posted when DST is ZERO. -/
def atomic (g : Guard) (d : Dst) (m : MemOp) (c : SReg) (z : Size) (ord : Ord) (sc : Scope) (opc : Nat)
    (f : AtomFn) (s : State) : Host.Outcome State Fault Refusal :=
  issue g (do
    checkDst d
    let a ← memAddr m
    let x ← readS c
    send ⟨opc, a, sizeBytes z, accAtomic, sc, .atom f z x, ordRel ord, ordAcq ord && d != .zero⟩
      (if d = .zero then none else some (.reg d))) s

def execAadd (o : OpAtom) (s : State) := atomic o.g o.d o.m o.c o.sz o.ord o.scope 0x5A .add s
def execAand (o : OpAtom) (s : State) := atomic o.g o.d o.m o.c o.sz o.ord o.scope 0x5B .and s
def execAor (o : OpAtom) (s : State) := atomic o.g o.d o.m o.c o.sz o.ord o.scope 0x5C .or s
def execAxor (o : OpAtom) (s : State) := atomic o.g o.d o.m o.c o.sz o.ord o.scope 0x5D .xor s
def execAmin (o : OpAtom) (s : State) := atomic o.g o.d o.m o.c o.sz o.ord o.scope 0x5E .min s
def execAmax (o : OpAtom) (s : State) := atomic o.g o.d o.m o.c o.sz o.ord o.scope 0x5F .max s
def execAminu (o : OpAtom) (s : State) := atomic o.g o.d o.m o.c o.sz o.ord o.scope 0x60 .minu s
def execAmaxu (o : OpAtom) (s : State) := atomic o.g o.d o.m o.c o.sz o.ord o.scope 0x61 .maxu s
def execAxchg (o : OpAtom) (s : State) := atomic o.g o.d o.m o.c o.sz o.ord o.scope 0x62 .xchg s

/-- AFADD: FP32. -/
def execAfadd (o : OpAfadd) (s : State) := atomic o.g o.d o.m o.c .b32 o.ord o.scope 0x63 .fadd s

/-- CAS: DST is compared, and receives the old value. -/
def execCas (o : OpCas) (s : State) : Host.Outcome State Fault Refusal :=
  issue o.g (do
    let a ← memAddr o.m
    let e ← readS (.l o.d)
    let x ← readS o.c
    send ⟨0x64, a, sizeBytes o.sz, accAtomic, o.scope, .cas o.sz e x, ordRel o.ord, ordAcq o.ord⟩
      (some (.regPred (.l o.d) o.pd))) s

/-- PREF never waits, never traps after decode, and changes no architectural state (07 R150): not even a
receive queue named by an operand. -/
def execPref (o : OpM) (s : State) : Host.Outcome State Fault Refusal := issue o.g (pure .seq) s

/-! ### Monitors (07 R151, R152) -/

/-- The armed monitor of a line, by the line's key. -/
def Thread.monOf (t : Thread) (line : Nat) : Option Nat :=
  (List.range 4).find? fun i => match t.mons.getD i none with
    | some m => m.armed && m.line == line
    | none => false

/-- The lowest free monitor. -/
def Thread.freeMon (t : Thread) : Option Nat :=
  (List.range 4).find? fun i => match t.mons.getD i none with
    | some m => !m.armed
    | none => true

/-- MONA. DESIGN CHOICE: it names no SCOPE, so any address is admitted as for sys, and the arming goes to the
home by the path of .dev (log 69). -/
def execMona (o : OpM) (s : State) : Host.Outcome State Fault Refusal :=
  issue o.g (do
    let a ← memAddr o.m
    let (l, own) ← locate a 1 accMon .sys 0
    let t ← getCur
    match t.monOf (l.key / 64) with
    | some _ => pure .seq
    | none => match t.freeMon with
      | none => trapW .monitorFull a 0
      | some i =>
        boardCheck a 1 false
        updCur fun t => { t with mons := t.mons.set i (some ⟨l.key / 64, a, true, false, false⟩) }
        let s ← get
        let q := s.request ⟨0x66, a, 1, accMon, .dev, .mona i, false, false⟩ l false false 0 []
        if own then ownAccess q (some (.mona i)) false
        else do launchReq q; holdFor 4 0 (.mona i) false) s

/-- A monitor is disarmed and its held wake discarded. -/
def State.disarm (s : State) (i : Nat) : State :=
  match s.cur.mons.getD i none with
  | none => s
  | some m => (s.disarmAt m.line s.cur.tid i).updCur fun t => { t with mons := t.mons.set i none }

/-- An address that the windows of the scratchpads or device memory take in (07 Table 7.1). -/
def namesMemory (a : Word) : Bool :=
  bits a 63 56 == 0 || (bits a 63 56 == 0xFE && bits a 55 25 == 0) || (bits a 63 56 == 0xFF && bits a 55 18 == 0)

/-- MOND: by the line of the address as formed. -/
def execMond (o : OpM) (s : State) : Host.Outcome State Fault Refusal :=
  issue o.g (do
    let a ← memAddr o.m
    modS fun s =>
      match (List.range 4).find? fun i => match s.cur.mons.getD i none with
          | some m => namesMemory a && vkey s.cur.core m.va / 64 == vkey s.cur.core a / 64
          | none => false with
      | some i => s.disarm i
      | none => s
    pure .seq) s

def execMondAll (o : OpG) (s : State) : Host.Outcome State Fault Refusal :=
  issue o.g (do
    modS fun s => (List.range 4).foldl (fun s i => s.disarm i) s
    pure .seq) s

/-- WAITM's result: held wakes are reported and cleared (07 Table 7.5). -/
def Thread.woken (t : Thread) (extra : Nat) : Word × Thread :=
  let hit := (List.range 4).filter fun i => match t.mons.getD i none with
    | some m => m.armed && m.wake
    | none => false
  let coarse := hit.any fun i => match t.mons.getD i none with
    | some m => m.coarse
    | none => false
  (BitVec.ofNat 64 (hit.foldl (fun n i => n + 2 ^ i) 0 + (if coarse then 2 ^ 9 else 0) + extra),
   { t with mons := t.mons.map fun x => x.map fun m => { m with wake := false }, remain := 0 })

/-- WAITM. -/
def execWaitm (o : OpDC) (s : State) : Host.Outcome State Fault Refusal :=
  issue o.g (do
    checkDst o.d
    let n ← operandZ o.b
    let s ← get
    let t := s.cur
    let (w, t') := t.woken 0
    if !(t.mons.any fun m => m.isSome) then writeD o.d 0x400
    else if w != 0 then do updCur fun _ => t'; writeD o.d w
    else
      let left := if t.remain = 0 then n.toNat else t.remain
      holdFor 6 0 (.waitm o.d (if left = 0 then none else some ((s.core t.core).cycle + left))) false) s

/-! ### The software tag table (06 R130, 07 R153) -/

def tagFind (l : List (Nat × TagEntry)) (key : Word) : Option (Nat × TagEntry) :=
  l.find? fun (_, e) => e.key == key

def tagFree (l : List (Nat × TagEntry)) : Option Nat :=
  (List.range 64).find? fun i => (tabGet l i).isNone

/-- TSET. -/
def execTset (o : OpTset) (s : State) : Host.Outcome State Fault Refusal :=
  issue o.g (do
    checkDst o.d
    let k ← readS o.a
    let n ← operandZ o.b
    let s ← get
    let tt := (s.core s.cur.core).tagTable
    let slot : BitVec 16 := n.setWidth 16
    let place := match tagFind tt k with
      | some (i, _) => some i
      | none => tagFree tt
    match place with
    | none => writeD o.d 0xFFFFFFFFFFFFFFFF
    | some i =>
      modS fun s => s.modCore s.cur.core fun x => { x with tagTable := tabSet x.tagTable i ⟨k, slot⟩ }
      writeD o.d (BitVec.ofNat 64 i)) s

/-- TLOOK and TCLR. -/
def tagLook (o : OpDA) (clear : Bool) (s : State) : Host.Outcome State Fault Refusal :=
  issue o.g (do
    checkDst o.d
    let k ← readS o.a
    let s ← get
    match tagFind (s.core s.cur.core).tagTable k with
    | none => writeD o.d 0xFFFFFFFFFFFFFFFF
    | some (i, e) =>
      if clear then
        modS fun s => s.modCore s.cur.core fun x => { x with tagTable := tabErase x.tagTable i }
      writeD o.d (e.slot.setWidth 64)) s

def execTlook (o : OpDA) (s : State) := tagLook o false s
def execTclr (o : OpDA) (s : State) := tagLook o true s

end Sys2Proof.Machine
end

