-- ==== Sys2Proof/Machine/ObjInstr.lean ====
section
/-! DEFINITION. Barrier and object instructions as the thread issues them (11 R220 to R224,
17 R335 to R344). -/

namespace Sys2Proof.Machine

/-- An addressed barrier or object instruction: kind 3, 8-byte aligned, returning; `rel` closes the
phases of its scope first. The home tells whether the return acquires. -/
def object (opc : Nat) (m : MemOp) (sc : Scope) (rel : Bool) (d : Dst) (op : ObjOp) : M Flow := do
  checkDst d
  let a ← memAddr m
  send ⟨opc, a, 8, accTag, sc, .obj op, rel, false⟩ (some (.objD d))

def objDMS (o : OpDMS) (opc : Nat) (rel : Bool) (op : ObjOp) (s : State) :
    Host.Outcome State Fault Refusal :=
  issue o.g (object opc o.m o.scope rel o.d op) s

def objMS (o : OpMS) (opc : Nat) (rel : Bool) (op : ObjOp) (s : State) :
    Host.Outcome State Fault Refusal :=
  issue o.g (object opc o.m o.scope rel .zero op) s

/-- BARI: a count of 0 or above 4,095 traps (11 R223). -/
def execBari (o : OpBari) (s : State) : Host.Outcome State Fault Refusal :=
  issue o.g (do
    let c ← readS o.c
    orTrap (decide (1 ≤ c.toNat) && decide (c.toNat ≤ 4095)) .illegalOperand c 5
    object 0x70 o.m o.scope false .zero (.bari o.drop c)) s

def execBarr (o : OpDMS) (s : State) := objDMS o 0x71 true .barr s
def execBarw (o : OpDMS) (s : State) := objDMS o 0x72 true .barw s
def execBwait (o : OpDMS) (s : State) := objDMS o 0x73 false .bwait s
def execBdrop (o : OpDMS) (s : State) := objDMS o 0x74 false .bdrop s
def execBpois (o : OpMS) (s : State) := objMS o 0x75 false .bpois s
def execLki (o : OpMS) (s : State) := objMS o 0x76 false .lki s
def execLkacq (o : OpDMS) (s : State) := objDMS o 0x77 false .lkacq s
def execLktry (o : OpDMS) (s : State) := objDMS o 0x78 false .lktry s
def execLkrel (o : OpMS) (s : State) := objMS o 0x79 true .lkrel s

/-- QI. -/
def execQi (o : OpMCS) (s : State) : Host.Outcome State Fault Refusal :=
  issue o.g (do
    let c ← readS o.c
    object 0x7A o.m o.scope false .zero (.qi c)) s

/-- QPUSH. -/
def execQpush (o : OpMCS) (s : State) : Host.Outcome State Fault Refusal :=
  issue o.g (do
    let v ← readS o.c
    object 0x7B o.m o.scope true .zero (.qpush v)) s

def execQpop (o : OpDMS) (s : State) := objDMS o 0x7C false .qpop s
def execWreg (o : OpMS) (s : State) := objMS o 0x7D false .wreg s
def execWhold (o : OpMS) (s : State) := objMS o 0x7E false .whold s
def execWdrop (o : OpMS) (s : State) := objMS o 0x80 true .wdrop s

/-- WWAIT and WWAIT.nb. -/
def wwaitWith (o : OpDMCS) (nb : Bool) (s : State) : Host.Outcome State Fault Refusal :=
  issue o.g (do
    checkDst o.d
    let e ← readS o.c
    object 0x7F o.m o.scope false o.d (.wwait e nb)) s

def execWwait (o : OpDMCS) (s : State) := wwaitWith o false s
def execWwaitNb (o : OpDMCS) (s : State) := wwaitWith o true s
def execWunreg (o : OpMS) (s : State) := objMS o 0x81 false .wunreg s
def execOfree (o : OpMS) (s : State) := objMS o 0x83 false .ofree s

/-- A value of the cycle record (17 Table 17.8). -/
def Thread.cycleWord (t : Thread) (sel : WqrySel) (k : Word) : Word :=
  match sel with
  | .clen => BitVec.ofNat 64 t.cycle.length
  | .cobj => ((t.cycle[k.toNat]?).map (·.1)).getD 0
  | .cfam => ((t.cycle[k.toNat]?).map (·.2)).getD 0
  | _ => 0

/-- The selectors of an object's home (17 R343). -/
def atHome (sel : WqrySel) : Bool :=
  match sel with
  | .clen => false
  | .cobj => false
  | .cfam => false
  | _ => true

/-- WQRY: an object's home answers, or the cycle record is read with reason 4. -/
def execWqry (o : OpWqry) (s : State) : Host.Outcome State Fault Refusal :=
  issue o.g (
    if atHome o.sel then object 0x82 o.m o.scope false o.d (.wqry o.sel)
    else do
      checkDst o.d
      let k ← readS o.m.base
      modS fun s => s.answer s.cur.tid 0 (.ok (s.cur.cycleWord o.sel k) 0) 0 (cycleHome s.cur.core)
      holdFor 4 0 (.reg o.d) false) s

end Sys2Proof.Machine
end

