-- ==== Sys2Proof/Machine/Rings.lean ====
section
/-! DEFINITION. Operand rings and matrix arrays: reservations, slot headers, and the instructions
that take and release them (12 R228, R231 to R242, R250). -/

namespace Sys2Proof.Machine

/-! ### Rings (12 R231) -/

def Ring.stride (r : Ring) : Nat := bits r.cfg 15 0 * 64
def Ring.slots (r : Ring) : Nat := bits r.cfg 22 16
def Ring.isB (r : Ring) : Bool := r.cfg.getLsbD 23
def Ring.swz (r : Ring) : Nat := bits r.cfg 25 24

/-- SlotAddress(x). -/
def Ring.slotAddr (r : Ring) (x : Nat) : Word := r.base + BitVec.ofNat 64 (x % r.slots * r.stride)

/-- A count moved over the contiguous ones of a list. -/
def advanceOver (c : Nat) (l : List Nat) (fuel : Nat) : Nat × List Nat :=
  match fuel with
  | 0 => (c, l)
  | j + 1 => if l.contains c then advanceOver (c + 1) (l.erase c) j else (c, l)

def State.setRing (s : State) (cl n : Nat) (r : Ring) : State :=
  s.modCluster cl fun c => { c with rings := tabSet c.rings n r }

def State.ring? (s : State) (cl n : Nat) : Option Ring := tabGet (s.cluster cl).rings n

/-- Slot x is published (12 R238): PUB advances, consumers that wait look again, and the hold edges of the ring
follow (17 R327). -/
def State.publish (s : State) (cl n x : Nat) : State :=
  match s.ring? cl n with
  | none => s
  | some r =>
    let (pub, l) := advanceOver r.pub (r.published ++ [x]) (r.published.length + 1)
    ((s.setRing cl n { r with pub := pub, published := l }).wakeWhere
      fun t => t.waitsFor 12 (ringObject cl n)).syncHolds (ringObject cl n)

/-- Slot x is released (12 R239): POP advances, producers that wait look again, and the hold edges follow. -/
def State.release (s : State) (cl n x : Nat) : State :=
  match s.ring? cl n with
  | none => s
  | some r =>
    let (pop, l) := advanceOver r.pop (r.released ++ [x]) (r.released.length + 1)
    ((s.setRing cl n { r with pop := pop, released := l }).wakeWhere
      fun t => t.waitsFor 12 (ringObject cl n + 2 ^ 64)).syncHolds (ringObject cl n)

/-- The first reservation of a ring in a list, of one of the uses given, and the list without
it. -/
def takeRes (l : List RingRes) (cl n : Nat) (p : Nat → Bool) : Option (RingRes × List RingRes) :=
  takeFirst (fun r => r.cluster == cl && r.ring == n && p r.use) l

/-! ### Arrays (12 R228) -/

/-- The array an engine operation uses. -/
def EngKind.array? (k : EngKind) : Option Nat :=
  match k with
  | .tldw _ _ a _ _ => some a
  | .tmma _ _ a _ _ _ => some a
  | _ => none

/-- An array of a cluster. -/
def State.array (s : State) (cl a : Nat) : MArray :=
  (tabGet (s.cluster cl).arrays a).getD ⟨none, 0, 0, 0, 0, false, [], false, false⟩

def State.setArray (s : State) (cl a : Nat) (m : MArray) : State :=
  s.modCluster cl fun c => { c with arrays := tabSet c.arrays a m }

/-- An array is free: no thread holds it and no operation on it is queued. -/
def State.arrayFree (s : State) (cl a : Nat) : Bool :=
  (s.array cl a).holder.isNone &&
    s.engines.all fun e => !(clusterOf e.core == cl && e.kind.array? == some a)

def State.freeArray (s : State) (cl : Nat) : Option Nat := (List.range 8).find? (s.arrayFree cl)

/-- The waiter that a freed array goes to: highest effective priority, then first to arrive. -/
def State.arrayHead (s : State) (cl : Nat) : Option Thread :=
  leastBy (fun t => (7 - t.eprio) * 2 ^ 64 + t.since)
    (s.allThreads.filter fun t => clusterOf t.core == cl && t.waitsFor 12 (arrayObject cl))

/-- Free arrays go to the threads that wait for one: each is held for its thread, whose reissued
TLDW takes it; K' 0 marks it so. The hold edges of the array set follow. -/
def State.serveArrays (s : State) (cl fuel : Nat) : State :=
  match fuel with
  | 0 => s.syncHolds (arrayObject cl)
  | j + 1 =>
    match s.freeArray cl, s.arrayHead cl with
    | some a, some t =>
      ((s.setArray cl a ⟨some t.tid, 0, 0, 0, 0, false, [], false, false⟩).wake t.tid).serveArrays cl j
    | _, _ => s.syncHolds (arrayObject cl)

/-! ### Slot headers (12 R232, R234) -/

/-- Scale count of a format: ceil(K' / 32) for the block formats. -/
def scaleCount (fmt kp : Nat) : Nat := if fmt = 9 ∨ fmt = 10 then (kp + 31) / 32 else 0

def fmtOfCode (n : Nat) : Option Fmt :=
  ([.i8, .i16, .i32, .i64, .fp32, .bf16, .fp16, .e4m3, .e5m2, .mxfp8, .mxfp4, .t8, .t6] : List Fmt)[n]?

/-- Element width in bits of a format code. -/
def codeWidth (n : Nat) : Nat :=
  match fmtOfCode n with
  | some f => (fmtElem f).width
  | none => 0

/-- Bytes of the element area of a slot. -/
def elemArea (b : Bool) (fmt kp : Nat) : Nat :=
  let k := 32 * ((kp + 31) / 32)
  (if b then 256 else 64) * k * codeWidth fmt / 8

/-- Bytes of a slot's tile. -/
def tileBytes (b : Bool) (fmt kp scnt : Nat) : Nat :=
  (64 + elemArea b fmt kp + scnt * (if b then 256 else 64) + 63) / 64 * 64

/-- The formats that the arrays accept (12 R229). -/
def arrayFormat (n : Nat) : Bool := [0, 5, 6, 7, 8, 9, 10, 11, 12].contains n

/-- Bits of a header that are reserved. -/
def headerReserved (h : Word) : Bool := bits h 7 4 != 0 || bits h 30 27 != 0 || bits h 63 40 != 0

/-- CheckHeader (12 Table 12.3): the trap of the first failure. -/
def headerFails (r : Ring) (n x : Nat) (h sq : Word) : Option (Cause × Word × Word) :=
  let fmt := bits h 3 0
  let kp := bits h 24 16
  let ring := BitVec.ofNat 64 n
  let sc := scaleCount fmt kp
  if h.getLsbD 31 then some (.ringState, ring, 6)
  else if sq != BitVec.ofNat 64 x then some (.ringState, ring, 4)
  else if headerReserved h then some (.ringState, ring, 9)
  else if !arrayFormat fmt then some (.matrixFormat, h, 1)
  else if bits h 15 8 != 0 && fmt != 11 && fmt != 12 then some (.matrixFormat, h, 4)
  else if kp = 0 ∨ 256 < kp then some (.matrixFormat, h, 3)
  else if r.stride < tileBytes r.isB fmt kp sc then some (.ringState, ring, 5)
  else if bits h 26 25 ≠ r.swz then some (.swizzleMismatch, h, BitVec.ofNat 64 r.swz)
  else if bits h 39 32 ≠ sc then some (.scaleCount, h, BitVec.ofNat 64 sc)
  else none

def hdrOf (h : Word) : SlotHdr :=
  ⟨bits h 3 0, BitVec.ofNat 8 (bits h 15 8), bits h 24 16, bits h 26 25, bits h 39 32⟩

/-! ### The checks that the instructions share -/

def ringTrap {α : Type} (n : Fin 32) (reason : Word) : M α := trapW .ringState (BitVec.ofNat 64 n.val) reason

/-- The ring of the issuing thread's cluster, initialised and inside its launch's mask. -/
def getRing (n : Fin 32) : M Ring := fun s =>
  let mask := match s.launch? s.cur.launch with
    | some l => l.rmask
    | none => 0
  match s.ring? (clusterOf s.cur.core) n.val with
  | some r => if mask.testBit n.val then .ok (r, s)
      else .error (.trap .ringState (some (BitVec.ofNat 64 n.val)) (some 1) s)
  | none => .error (.trap .ringState (some (BitVec.ofNat 64 n.val)) (some 1) s)

/-- A word of memory that an instruction reads or writes at a slot as it issues: its location, past
translation and the access table of its home. -/
def slotLoc (a : Word) (acc : Access) : M Loc := do
  let (l, _) ← locate a 8 acc .dev 0
  let s ← get
  orTrap (!s.denies l s.cur.core acc.r acc.w) .access a (kindWord acc)
  pure l

/-- Earlier accesses of the thread to n words from a location on have been performed, or it waits for them
(15 R295). -/
def wordsFree (l : Loc) (n : Nat) : M Unit := fun s =>
  if (s.pendingReqs s.cur.tid).any fun r =>
      decide (l.key / 8 ≤ r.loc.key / 8) && decide (r.loc.key / 8 < l.key / 8 + n) then .error (.wait 4 5 .nil)
  else .ok ((), s)

/-- Whether a thread may take one more consumer reservation for an operation (12 R239). -/
def roomForOp (n : Fin 32) : M Unit := fun s =>
  if s.cur.conss.length < 64 then .ok ((), s)
  else if s.cur.conss.any fun r => r.use != 0 then .error (.wait 8 0 .nil)
  else .error (.trap .ringState (some (BitVec.ofNat 64 n.val)) (some 10) s)

/-- At most 16 matrix operations of a thread are in flight (12 R235). -/
def isMatrix (k : EngKind) : Bool :=
  match k with
  | .copy _ _ _ _ => false
  | _ => true

def roomForMatrix : M Unit := fun s =>
  if (s.engines.filter fun e => e.tid == s.cur.tid && isMatrix e.kind).length < 16 then .ok ((), s)
  else .error (.wait 8 0 .nil)

/-- An engine operation of the issuing thread is queued. -/
def State.queueEngine (s : State) (kind : EngKind) (reads writes : List (Nat × Nat)) : State :=
  let (id, s) := s.fresh
  let t := s.cur
  { s with engines := s.engines ++ [{
      id := id, tid := t.tid, fam := t.fam, launch := t.launch, core := t.core, app := t.pl == 0
      famid := t.famid, index := t.index, ivl := t.ivl, who := positionWord s.pkg.num t.core t.entry, unit := 0, kind := kind, reads := reads, writes := writes, started := false, pos := 0, bad := none
      paused := false, denied := false }] }

/-! ### RINGI, RPUSH, RPOP, RSTAT (12 R237 to R240) -/

/-- A configuration within the rules of R237. DESIGN CHOICE: bits [63:32] of a register configuration are reserved
too (log 97). -/
def ringCfgOk (v : Word) : Bool :=
  decide (2 ≤ bits v 15 0) && decide (1 ≤ bits v 22 16) && decide (bits v 22 16 ≤ 64) && bits v 63 26 == 0

/-- Every 64 KiB page of a device range translates into the HBM of the issuing die. -/
def pagesIn (a : Word) (n : Nat) : M Unit :=
  match n with
  | 0 => pure ()
  | j + 1 => do
    pagesIn a j
    let p : Word := if j = 0 then a else BitVec.ofNat 64 ((a.toNat / 65536 + j) * 65536)
    let pa ← translate p accAtomic 0
    let s ← get
    orTrap (decide (paLocal pa < 0xC000000000) && paPackage pa == s.pkg.num &&
      (sliceOf s.paired pa).1 == dieOf s.cur.core) .access p (kindWord accAtomic)

/-- RINGI's place: one scratchpad's application range, or pages of the die's HBM. -/
def ringPlace (a : Word) (n : Nat) : M Unit := do
  let s ← get
  match s.decodeAddr s.cur.core false a with
  | .own off => orTrap (decide (off + n ≤ 0x3C000)) .access a (kindWord accAtomic)
  | .cluster _ off => orTrap (decide (off + n ≤ 0x3C000)) .access a (kindWord accAtomic)
  | .dev => pagesIn a ((a.toNat % 65536 + n + 65535) / 65536)
  | .bad c => trapW c a (kindWord accAtomic)

/-- RINGI. -/
def execRingi (o : OpRingi) (s : State) : Host.Outcome State Fault Refusal :=
  issue o.g (do
    let b ← readS o.a
    let v ← operandZ o.cfg
    orTrap (ringCfgOk v) .illegalOperand v 4
    orTrap (b.toNat % 64 == 0) .misaligned b (kindWord accAtomic)
    ringPlace b (bits v 22 16 * (bits v 15 0 * 64))
    let s ← get
    let cl := clusterOf s.cur.core
    let mask := match s.launch? s.cur.launch with
      | some l => l.rmask
      | none => 0
    if !mask.testBit o.ring.val then ringTrap o.ring 1
    let busy := match s.ring? cl o.ring.val with
      | some r => r.res != r.pop
      | none => false
    let waiter := s.allThreads.any fun t => t.waitsFor 12 (ringObject cl o.ring.val) ||
      t.waitsFor 12 (ringObject cl o.ring.val + 2 ^ 64)
    if busy || waiter then ringTrap o.ring 3
    modS fun s => s.setRing cl o.ring.val ⟨b, v, 0, 0, 0, 0, [], []⟩
    pure .seq) s

/-- RPUSH.res (12 R238): the slot kept for it as the second of a pair (02 R38), or the next one. -/
def execRpushRes (o : OpRing) (s : State) : Host.Outcome State Fault Refusal :=
  issue o.g (do
    checkDst o.d
    let r ← getRing o.ring
    let t ← getCur
    let cl := clusterOf t.core
    match takeRes t.prods cl o.ring.val (fun u => u == 3) with
    | some (p, rest) =>
      updCur fun t => { t with prods := rest ++ [{ p with use := 0 }] }
      writeD o.d (r.slotAddr p.x)
    | none =>
      let s0 ← get
      if decide (r.slots ≤ r.res - r.pop) then waitR 12 (ringObject cl o.ring.val + 2 ^ 64)
      if decide (64 ≤ t.prods.length) then ringTrap o.ring 10
      modS fun s => s.setRing cl o.ring.val { r with res := r.res + 1 }
      updCur fun t => { t with prods := t.prods ++ [⟨cl, o.ring.val, r.res, 0⟩] }
      holdNow s0 (ringObject cl o.ring.val)
      writeD o.d (r.slotAddr r.res)) s

/-- The header of a slot: word 0, SEQ, and six words of 0, each FULL. -/
def writeHeader (a h : Word) (x n : Nat) : M Unit :=
  match n with
  | 0 => pure ()
  | j + 1 => do
    writeHeader a h x j
    let w := a + BitVec.ofNat 64 (8 * j)
    let l ← slotLoc w accWrite
    let s ← get
    match dataTag (s.mem.tag l.key) true with
    | some .objectStore => trapW .objectStore w (kindWord accWrite)
    | some .tagMisuse => trapW .tagMisuse w (kindWord accWrite)
    | _ => modS fun s => (s.putWord l.key
        (if j = 0 then h else if j = 1 then BitVec.ofNat 64 x else 0) .full).changed l.key

/-- RPUSH once its release phases have completed. -/
def rpushNow (d : Dst) (ring : Nat) (h : Word) : M Flow := do
  let s ← get
  let cl := clusterOf s.cur.core
  match takeRes s.cur.prods cl ring (fun _ => true), s.ring? cl ring with
  | some (p, rest), some r =>
    writeHeader (r.slotAddr p.x) h p.x 8
    updCur fun t => { t with prods := rest }
    modS fun s => s.publish cl ring p.x
    writeD d (BitVec.ofNat 64 p.x)
  | _, _ => trapW .ringState (BitVec.ofNat 64 ring) 7

/-- RPUSH: a release at the scope of the slot's home, then the header, behind the thread's earlier accesses to its
words (09 R190, 15 R295). -/
def execRpush (o : OpRpush) (s : State) : Host.Outcome State Fault Refusal :=
  issue o.g (do
    checkDst o.d
    let r ← getRing o.ring
    let s ← get
    let cl := clusterOf s.cur.core
    match takeRes s.cur.prods cl o.ring.val (fun _ => true) with
    | none => ringTrap o.ring 7
    | some (p, _) =>
      let h ← readS o.a
      if h.getLsbD 31 || headerReserved h then ringTrap o.ring 9
      let l ← slotLoc (r.slotAddr p.x) accWrite
      boardCheck (r.slotAddr p.x) 64 true
      wordsFree l 8
      let ps ← closeAt (if bits r.base 63 56 = 0 then .dev else .clu)
      afterPhases ps (.rpush o.d o.ring.val h) false (rpushNow o.d o.ring.val h)) s

/-- RPOP.res (12 R239), as RPUSH.res. -/
def execRpopRes (o : OpRing) (s : State) : Host.Outcome State Fault Refusal :=
  issue o.g (do
    checkDst o.d
    let r ← getRing o.ring
    let t ← getCur
    let cl := clusterOf t.core
    match takeRes t.conss cl o.ring.val (fun u => u == 3) with
    | some (p, rest) =>
      updCur fun t => { t with conss := rest ++ [{ p with use := 0 }] }
      writeD o.d (r.slotAddr p.x)
    | none =>
      let s0 ← get
      if r.cons == r.pub then waitR 12 (ringObject cl o.ring.val)
      if decide (64 ≤ t.conss.length) then ringTrap o.ring 10
      modS fun s => s.setRing cl o.ring.val { r with cons := r.cons + 1 }
      updCur fun t => { t with conss := t.conss ++ [⟨cl, o.ring.val, r.cons, 0⟩] }
      holdNow s0 (ringObject cl o.ring.val)
      writeD o.d (r.slotAddr r.cons)) s

/-- RPOP: the first reservation that no operation in flight holds is released. -/
def execRpop (o : OpRing) (s : State) : Host.Outcome State Fault Refusal :=
  issue o.g (do
    checkDst o.d
    let _ ← getRing o.ring
    let t ← getCur
    let cl := clusterOf t.core
    match takeRes t.conss cl o.ring.val (fun u => u != 1) with
    | none => ringTrap o.ring 7
    | some (p, rest) =>
      updCur fun t => { t with conss := rest }
      modS fun s => s.release cl o.ring.val p.x
      writeD o.d (BitVec.ofNat 64 p.x)) s

/-- RSTAT (12 Table 12.6); an uninitialised ring, or one outside the mask, reads 0. -/
def ringStat (r : Ring) (sel : RstatSel) : Word :=
  match sel with
  | .ready => BitVec.ofNat 64 (r.pub - r.cons)
  | .free => BitVec.ofNat 64 (r.slots - (r.res - r.pop))
  | .res => BitVec.ofNat 64 r.res
  | .pub => BitVec.ofNat 64 r.pub
  | .cons => BitVec.ofNat 64 r.cons
  | .pop => BitVec.ofNat 64 r.pop
  | .cfg => r.cfg
  | .base => r.base

def execRstat (o : OpRstat) (s : State) : Host.Outcome State Fault Refusal :=
  issue o.g (do
    checkDst o.d
    let s ← get
    let mask := match s.launch? s.cur.launch with
      | some l => l.rmask
      | none => 0
    writeD o.d (match s.ring? (clusterOf s.cur.core) o.ring.val with
      | some r => if mask.testBit o.ring.val then ringStat r o.sel else 0
      | none => 0)) s

/-! ### Taking a slot (12 R241, R243) -/

/-- The header of slot x as an engine takes it: a read under Table 6.3, behind the earlier writes of the thread
that the scoreboard knows (09 R190, 12 R235). -/
def readSlotWord (a : Word) : M Word := do
  let l ← slotLoc a accRead
  boardCheck a 8 false
  wordsFree l 1
  let s ← get
  match dataTag (s.mem.tag l.key) false with
  | some c => trapW c a 0
  | none => pure (s.mem.word l.key)

/-- The issuing thread has a reservation of slot x, for `use`. -/
def State.reserved (s : State) (cl n x use : Nat) : State :=
  let s := match s.ring? cl n with
    | some r => s.setRing cl n { r with cons := max r.cons (x + 1) }
    | none => s
  s.updCur fun t => { t with conss :=
    (t.conss.filter fun p => !(p.cluster == cl && p.ring == n && p.x == x)) ++ [⟨cl, n, x, use⟩] }

/-- A reservation of slot x that stands for RPOP, as a trap leaves it (12 R234); its hold edge comes with it. -/
def State.reservedFor (s : State) (cl n x : Nat) : State :=
  (s.reserved cl n x 0).holdChanged (ringObject cl n) s.cur.tid

/-- The slot that a TLDW or TMMA takes: one that it reserved before it waited, or that was kept for it, else the
next published one (12 R241, R243, 17 R332). -/
def nextSlot (n : Fin 32) (r : Ring) : M Nat := do
  let s ← get
  let cl := clusterOf s.cur.core
  match takeRes s.cur.conss cl n.val (fun u => u == 2) with
  | some (p, _) => pure p.x
  | none =>
    if r.cons == r.pub then waitR 12 (ringObject cl n.val)
    roomForOp n
    pure r.cons

/-- The next slot of a ring is taken and its header checked; a trap keeps the reservation for RPOP (12 R234). -/
def takeSlot (n : Fin 32) (r : Ring) : M (Nat × Word) := do
  let x ← nextSlot n r
  let s ← get
  let a := r.slotAddr x
  let s' := s.reservedFor (clusterOf s.cur.core) n.val x
  let h ← trapIn s' (readSlotWord a)
  let q ← trapIn s' (readSlotWord (a + 8))
  match headerFails r n.val x h q with
  | some (c, i0, i1) => fun _ => .error (.trap c (some i0) (some i1) s')
  | none => pure (x, h)

/-- The reservation of slot x passes to an operation; where its hold edge closes a cycle it stands for the
reissue (17 R332). -/
def holdSlot (cl n x : Nat) : M Unit := do
  let s ← get
  modS fun s => s.reserved cl n x 1
  holdNow (s.reserved cl n x 2) (ringObject cl n)

/-- The scoreboard range of a slot. -/
def State.slotRange (s : State) (r : Ring) (x : Nat) : Nat × Nat := (vkey s.cur.core (r.slotAddr x), r.stride)

/-- TLDW (12 R241). -/
def execTldw (o : OpTldw) (s : State) : Host.Outcome State Fault Refusal :=
  issue o.g (do
    checkDst o.d
    let r ← getRing o.ring
    if !r.isB then ringTrap o.ring 2
    roomForMatrix
    let t ← getCur
    let cl := clusterOf t.core
    let (x, h) ← takeSlot o.ring r
    let s ← get
    if o.red && decide (128 < bits h 24 16) then
      fun _ => .error (.trap .matrixFormat (some h) (some 5) (s.reservedFor cl o.ring.val x))
    else
    let mine := (List.range 8).find? fun a => (s.array cl a).holder == some t.tid && (s.array cl a).kp == 0
    let got : Option Nat := match mine with
      | some a => some a
      | none => s.freeArray cl
    match got with
    | none =>
      let side : Side := if (takeRes t.conss cl o.ring.val fun u => u == 2).isSome then .nil else .slot o.ring.val x
      fun _ => .error (.wait 12 (arrayObject cl) side)
    | some a =>
      holdSlot cl o.ring.val x
      let s0 ← get
      modS fun s =>
        let m : MArray := ⟨some t.tid, bits h 3 0, BitVec.ofNat 8 (bits h 15 8), bits h 24 16, bits h 26 25, o.red, [],
          false, false⟩
        (s.setArray cl a m).queueEngine (.tldw o.ring.val x a (r.slotAddr x) (hdrOf h)) [s.slotRange r x] []
      holdNow (s0.reserved cl o.ring.val x 2) (arrayObject cl)
      writeD o.d (BitVec.ofNat 64 a)) s

/-- TREL (12 R242). -/
def execTrel (o : OpA) (s : State) : Host.Outcome State Fault Refusal :=
  issue o.g (do
    let a ← readS o.a
    let s ← get
    let cl := clusterOf s.cur.core
    let m := s.array cl a.toNat
    orTrap (decide (a.toNat < 8) && m.holder == some s.cur.tid && m.kp != 0) .ringState a 8
    modS fun s => (s.setArray cl a.toNat { m with holder := none }).serveArrays cl 8
    pure .seq) s

/-- An accumulator region: 64 KiB in a scratchpad of the cluster, 64-byte aligned. -/
def checkRegion (acc : Word) : M Nat := do
  orTrap (acc.toNat % 64 == 0) .misaligned acc (kindWord accWrite)
  let s ← get
  match s.decodeAddr s.cur.core true acc with
  | .own off =>
    orTrap (decide (off + 65536 ≤ 0x3C000)) .access acc (kindWord accWrite)
    pure (Loc.sp s.cur.core off).key
  | .cluster c off =>
    orTrap (decide (off + 65536 ≤ 0x3C000)) .access acc (kindWord accWrite)
    pure (Loc.sp c off).key
  | _ => trapW .access acc (kindWord accWrite)

/-- TMMA (12 R243). -/
def execTmma (o : OpTmma) (s : State) : Host.Outcome State Fault Refusal :=
  issue o.g (do
    let a0 ← memAddr o.m
    let acc ← checkRegion a0
    let a ← readS o.c
    let s ← get
    let cl := clusterOf s.cur.core
    let m := s.array cl a.toNat
    orTrap (decide (a.toNat < 8) && m.holder == some s.cur.tid && m.kp != 0) .ringState a 8
    let r ← getRing o.ring
    if r.isB then ringTrap o.ring 2
    roomForMatrix
    let (x, h) ← takeSlot o.ring r
    let s ← get
    let bad (i1 : Word) : M Flow := fun _ =>
      .error (.trap .matrixFormat (some h) (some i1) (s.reservedFor cl o.ring.val x))
    if (bits h 3 0 == 0) != (m.fmt == 0) then bad 2
    else if bits h 24 16 != m.kp then bad 3
    else
      holdSlot cl o.ring.val x
      modS fun s => s.queueEngine (.tmma o.ring.val x a.toNat (r.slotAddr x) (hdrOf h) acc)
        [s.slotRange r x, (acc, 65536)] [(acc, 65536)]
      pure .seq) s

/-- TZERO (12 R244). -/
def execTzero (o : OpM) (s : State) : Host.Outcome State Fault Refusal :=
  issue o.g (do
    let a0 ← memAddr o.m
    let acc ← checkRegion a0
    roomForMatrix
    modS fun s => s.queueEngine (.tzero acc) [] [(acc, 65536)]
    pure .seq) s

/-! ### TDRAIN and TWAIT (12 R245 to R248) -/

/-- A pending redundancy record is raised: the trap clears it (12 R248). -/
def raiseRed : M Unit := fun s =>
  match s.cur.redRec with
  | none => .ok ((), s)
  | some r => .error (.trap .redundantMismatch (some r.first)
      (some (BitVec.ofNat 64 (bits r.id 10 0 + 2 ^ 32 * r.count.toNat)))
      (s.updCur fun t => { t with redRec := none }))

/-- The thread has a matrix operation in flight that satisfies `p`. -/
def State.matrixBusy (s : State) (tid : Nat) (p : EngOp → Bool) : Bool :=
  s.engines.any fun e => e.tid == tid && isMatrix e.kind && p e

def EngOp.isTmmaInto (e : EngOp) (acc : Nat) : Bool :=
  match e.kind with
  | .tmma _ _ _ _ _ c => decide (c < acc + 65536) && decide (acc < c + 65536)
  | _ => false

/-- Units of a drain's row and the row's bytes. -/
def drainCols (o : OpTdrain) : Nat :=
  match o.gate with
  | .plain => 256
  | .bias => 256
  | .lstm => 64
  | .gru => 64

def drainRow (o : OpTdrain) : Nat := drainCols o * (fmtElem o.fmt).width / 8

def stateful (o : OpTdrain) : Bool := o.gate == .lstm || o.gate == .gru

/-- TDRAIN with its record read: `rec` is empty for ZERO. -/
def drainWith (o : OpTdrain) (dst : Word) (acc : Nat) (rec : List Word) : M Flow := do
  let bias : Word := if o.gate = .plain then 0 else rec.getD 0 0
  let st : Word := if stateful o then rec.getD 1 0 else 0
  let ds := if rec.isEmpty then drainRow o else bits (rec.getD 2 0) 23 0
  orTrap (bias.toNat % 4 == 0) .misaligned bias (kindWord accRead)
  if stateful o && st == 0 then fun s => .error (.trap .matrixFormat none (some 6) s)
  orTrap (st.toNat % 8 == 0) .misaligned st (kindWord accWrite)
  orTrap (ds % 8 == 0 && decide (drainRow o ≤ ds)) .misaligned (rec.getD 2 0) (kindWord accWrite)
  orTrap (dst.toNat % 8 == 0) .misaligned dst (kindWord accWrite)
  let s ← get
  if s.matrixBusy s.cur.tid (·.isTmmaInto acc) then waitR 8 0
  raiseRed
  let c := s.cur.core
  let rows := (List.range 64).map fun i => (vkey c (dst + BitVec.ofNat 64 (i * ds)), drainRow o)
  let reads := [(acc, 65536)] ++ (if bias = 0 then [] else [(vkey c bias, 1024)]) ++
    (if stateful o then [(vkey c st, 16384)] else [])
  let writes := rows ++ (if stateful o then [(vkey c st, 16384)] else []) ++
    (if o.za then [(acc, 65536)] else [])
  let base := [s.cur.famid, s.cur.index, s.cur.convcnt, BitVec.ofNat 64 s.cur.dealt,
    BitVec.ofNat 64 (s.placeFirst s.cur.launch)]
  modS fun s => s.queueEngine (.tdrain o dst acc [bias, st, BitVec.ofNat 64 ds] (s.cur.mode o.rnd) base) reads writes
  countConv
  pure .seq

/-- A record in the own window, read within the turn (13 R253), behind the thread's earlier accesses to its words
(15 R295): its words, or `none` where it lies elsewhere. -/
def ownRecord (a : Word) (n align : Nat) : M (Option (List Word)) := do
  let s ← get
  let rec word (k : Nat) : M (List Word) :=
    match k with
    | 0 => pure []
    | j + 1 => do
      let l ← word j
      let w := a + BitVec.ofNat 64 (8 * j)
      let (loc, _) ← locate w (if j = 0 then align else 8) accRead .dev 0
      boardCheck w 8 false
      let s ← get
      let q := s.request ⟨0x50, w, 8, accRead, .dev, .read .b64 false, false, false⟩ loc false false j []
      if s.wordPending q then waitR 4 5
      takeBanks (bankMask (bits a 17 0) (8 * n))
      let (r, s') := s.performOne q
      set s'
      match r with
      | .done (.ok v _) => pure (l ++ [v])
      | .done (.trap c i0 _) => trapW c i0 0
      | .wait _ => pure l
  match s.decodeAddr s.cur.core (s.cur.pl == 0) a with
  | .own _ => do
    let l ← word n
    pure (some l)
  | _ => pure none

/-- A thread reads a record: one request a word, held with reason 4 until all have replied. -/
def readRecord (a : Word) (n align : Nat) (next : Comp) : M Flow := do
  let rec ask (k : Nat) : M (List Req) :=
    match k with
    | 0 => pure []
    | j + 1 => do
      let l ← ask j
      let w := a + BitVec.ofNat 64 (8 * j)
      let (loc, _) ← locate w (if j = 0 then align else 8) accRead .dev 0
      boardCheck w 8 false
      let s ← get
      pure (l ++ [s.request ⟨0x50, w, 8, accRead, .dev, .read .b64 false, false, false⟩ loc false false j []])
  let qs ← ask n
  modS fun s => { s with reqs := s.reqs ++ qs }
  holdFor 4 0 (.words n [] next) false

/-- TDRAIN. -/
def execTdrain (o : OpTdrain) (s : State) : Host.Outcome State Fault Refusal :=
  issue o.g (do
    let dst ← readS o.a
    let a0 ← readS o.b
    let acc ← checkRegion a0
    roomForMatrix
    if o.c = .zero then
      drainWith o dst acc []
    else
      let r ← readS o.c
      readRecord r 4 32 (.drainRec o dst (BitVec.ofNat 64 acc) r)) s

/-- TWAIT (12 R247). -/
def execTwait (o : OpD) (s : State) : Host.Outcome State Fault Refusal :=
  issue o.g (do
    checkDst o.d
    let s ← get
    if s.matrixBusy s.cur.tid (fun _ => true) then waitR 8 0
    raiseRed
    updCur fun t => { t with mstat := 0 }
    writeD o.d s.cur.mstat) s

/-! ### The end of a thread (12 R250) -/

/-- Where a slot of device memory lies: as the translation cache holds it, else as a walk made there and then
finds it; none where the walk faults (log 77). -/
def State.slotPa (s : State) (cl launch va : Nat) : Option Nat :=
  match (s.cluster cl).lookup (s.asidOf launch) va accWrite false with
  | some pa => some pa
  | none => match s.walk cl launch va with
    | .leaf log pa r w x k => if grants r w x k accWrite false then some (pa + va % 2 ^ log) else none
    | _ => none

/-- A producer's reservation that no RPUSH has published is published void. -/
def State.publishVoid (s : State) (launch core : Nat) (p : RingRes) : State :=
  match s.ring? p.cluster p.ring with
  | none => s
  | some r =>
    let a := r.slotAddr p.x
    let key : Option Nat := match s.decodeAddr core false a with
      | .own off => some (Loc.sp core off).key
      | .cluster c off => some (Loc.sp c off).key
      | .dev => s.slotPa p.cluster launch a.toNat
      | .bad _ => none
    let s : State := match key with
      | none => s
      | some k => (List.range 8).foldl (fun s j =>
          (s.putWord (k + 8 * j) (if j = 0 then 0x80000000 else if j = 1 then BitVec.ofNat 64 p.x else 0)
            .full).changed (k + 8 * j)) s
    s.publish p.cluster p.ring p.x

/-- The matrix state of a thread that ends. -/
def State.endMatrix (s : State) (t : Thread) : State :=
  let s := t.prods.foldl (fun s p => s.publishVoid t.launch t.core p) s
  let s := (t.conss.filter fun p => p.use != 1).foldl (fun s p => s.release p.cluster p.ring p.x) s
  let cl := clusterOf t.core
  let s := s.modCluster cl fun c => { c with arrays := c.arrays.map fun (i, m) =>
    (i, if m.holder == some t.tid then { m with holder := none } else m) }
  s.serveArrays cl 8

end Sys2Proof.Machine
end

