-- ==== Sys2Proof/Machine/Ends.lean ====
section
/-! DEFINITION. The life of a thread: its end, kills, saves and restores, the start of a member and
adoption (03 R47, R51, 05 R109 to R115, 06 R131, R132, 09 R177, 18 R355). -/

namespace Sys2Proof.Machine

/-! ### Members of a family (05 R109, R110) -/

/-- A member that may still start: neither started nor ended by a break or kill. -/
def Fam.canStart (f : Fam) (k : Nat) : Bool :=
  decide (k < f.n) && !f.started.contains k && !f.beyond k && !f.killed

/-- The lowest unstarted member. -/
def Fam.lowest (f : Fam) : Option Nat := (List.range (f.started.length + 1)).find? f.canStart

/-- The lowest unstarted member dealt to a core: among the first of those dealt to it. -/
def Fam.lowestOn (f : Fam) (c : Nat) : Option Nat :=
  match f.place.findIdx? (· == c) with
  | none => none
  | some i =>
    let b := f.st.block.toNat
    ((List.range (f.started.length + 1)).map fun j =>
      j / b * (f.place.length * b) + i * b + j % b).find? f.canStart

/-- The window of a family. -/
def Fam.win (f : Fam) : Win := winOfWord f.st.window

/-- The effective priority of a family (05 R110), with those of the launches that wait for its launch
(17 R331). DEDUCED: the threads that wait on it are those that wait with reason 13; one that adopts it runs its
members and is none (log 67). -/
def State.famPrio (s : State) (fk : Nat) (f : Fam) : Nat :=
  maxOf (f.prio :: s.launchPrio f.launch :: (s.allThreads.filter fun t => t.waitsFor 13 fk).map (·.eprio))

/-- A run of registers for a member of a launch on a core, within the launch's share. -/
def State.runFor (s : State) (c launch w : Nat) : Option Nat :=
  match s.launch? launch with
  | none => none
  | some l => if s.regsUsed c launch + w ≤ l.regs then s.freeRun c w else none

/-- A thread of a launch is saved and waits for registers of a core. -/
def State.savedOn (s : State) (c launch : Nat) : Bool :=
  match s.launch? launch with
  | none => false
  | some l => l.saved.any fun i => match s.thread? i with
    | some t => t.core == c
    | none => false

/-- Room for a member of a launch on a core (05 R110): entry and base of its run. A core of another package starts
no member here (log 79). DEDUCED: while a thread of the launch that was saved there waits to be restored, no member
starts, since the core restores such threads as registers free (05 R115, log 67). -/
def State.roomOn (s : State) (c launch w : Nat) : Option (Nat × Nat) :=
  match s.launch? launch with
  | none => none
  | some l =>
    if decide (c < 2 ^ 13) && decide (s.entriesUsed c launch < l.entries) && !s.held launch c && !s.savedOn c launch then
      match s.freeEntries c, s.runFor c launch w with
      | e :: _, some b => some (e, b)
      | _, _ => none
    else none

/-- A member starts (03 Table 3.1) in an entry of a core. -/
def State.startMember (s : State) (fk k core entry wbase : Nat) (host : Option Nat) (depth : Nat) : State :=
  match s.fam? fk with
  | none => s
  | some f =>
    let (tid, s) := s.fresh
    let w := f.win
    let index := f.st.start + BitVec.ofNat 64 k * f.st.step
    let own : Word := BitVec.ofNat 64 f.prio
    let d := if k = 0 then f.st.d else Vector.replicate 16 0
    let t : Thread := { Thread.idle with
      tid := tid, fam := fk, k := k, launch := f.launch, core := core, entry := entry
      dealt := f.dealt k, life := .ready
      readyAt := readyStamp ((s.core core).cycle + 1) false
      pc := f.st.entry, win := w, wbase := wbase
      l := (Vector.replicate 64 0).set 0 index
      g := Vector.ofFn fun i => if i.val < w.g then (f.st.g[i]) else 0
      dv := Vector.ofFn fun i => if i.val < w.s then (d[i]) else 0
      dfull := if k = 0 then BitVec.ofNat 16 (2 ^ w.s - 1) else 0
      index := index, famid := f.handle, parent := f.parent
      prio := BitVec.ofNat 64 (f.prio + 16 * f.ceil), ownNow := f.prio, eprio := f.prio
      status := f.pl.setWidth 64, thand := f.thand, tmask := f.tmask
      target := some 0xFFFFFFFFFFFFFFFF, staged := Staged.initial own, ivl := f.ivl
      depth := depth, host := host }
    let s := { s with threads := tabSet s.threads tid t }
    let s := s.modFam fk fun f => { f with
      started := setInsert f.started k, adopted := f.adopted || host.isSome }
    (s.takeLinks fk k).holdChanged (launchObject f.launch) tid

/-- Start members dealt to a core while it has room. -/
def State.startOn (s : State) (fk c fuel : Nat) : State :=
  match fuel with
  | 0 => s
  | j + 1 =>
    match s.fam? fk with
    | none => s
    | some f =>
      match f.lowestOn c, s.roomOn c f.launch (windowSize f.win) with
      | some k, some (e, b) => (s.startMember fk k c e b none 0).startOn fk c j
      | _, _ => s

/-! ### Saving a thread (06 R131, R132) -/

/-- A WAITM whose timeout has elapsed, or that a resume ends (key 2048, STOPPED of Table 7.5): the bits that tell
why. -/
def State.waitmDue (s : State) (t : Thread) : Option Nat :=
  match t.wait with
  | some ⟨_, some (.waitm _ (some d)), _, key⟩ =>
    if t.life = .waiting && !t.stopPend && decide (d ≤ (s.core t.core).cycle) then
      some (if key = 2048 then 0x800 else 0x100) else none
  | _ => none

/-- Whether a thread may be saved now: at a boundary, with no packet open, and not held for a
reply, the scoreboard or a translation. -/
def Thread.savable (t : Thread) : Bool :=
  t.packet.isNone && !t.stopPend && !t.holds &&
    (t.half.isNone || (!t.halfDone && (t.waitReason == 5 || t.waitReason == 6))) &&
    (match t.life with
     | .ready => true
     | .running _ => true
     | .waiting => t.waitReason != 4 && t.waitReason != 8 && t.waitReason != 15
     | _ => false)

/-- A thread that may be saved: what it waited for has not already been answered, nor has its time come. -/
def State.canSave (s : State) (t : Thread) : Bool :=
  t.savable && (s.waitmDue t).isNone && (s.replies.all fun r => r.tid != t.tid) && (s.delivers.all fun d => d.tid != t.tid)

/-- Monitors are disarmed at their homes and kept with the thread. A wake that is on its way follows a change after
the arming, so the thread holds it (06 R129, R131). -/
def State.parkMons (s : State) (t : Thread) : State :=
  (List.range 4).foldl (fun s i => match t.mons.getD i none with
    | some m =>
      let due := s.wakes.any fun w => w.tid == t.tid && w.idx == i
      (s.disarmAt m.line t.tid i).modThread t.tid fun t => { t with
        mons := t.mons.set i (some { m with wake := m.wake || due }) }
    | none => s) s

/-- The remaining timeout of a WAITM that is withdrawn. -/
def State.remainOf (s : State) (t : Thread) : Nat :=
  match t.wait with
  | some ⟨6, some (.waitm _ (some d)), _, _⟩ => max 1 (d - (s.core t.core).cycle)
  | _ => t.remain

/-- An array that was held for a waiting TLDW is free again. -/
def State.dropArrays (s : State) (t : Thread) : State :=
  let cl := clusterOf t.core
  let kept (m : MArray) : Bool := m.holder == some t.tid && m.kp == 0
  if (s.cluster cl).arrays.any fun (_, m) => kept m then
    (s.modCluster cl fun c => { c with arrays := c.arrays.map fun (i, m) =>
      (i, if kept m then { m with holder := none } else m) }).serveArrays cl 8
  else s

/-- A copy slot that was kept is free again, and threads that wait for one look again (13 R252). -/
def State.dropCopy (s : State) (t : Thread) : State :=
  match t.copyRes with
  | none => s
  | some _ =>
    (s.modThread t.tid fun t => { t with copyRes := none }).wakeWhere fun u =>
      u.core == t.core && u.waitReason == 9

/-- A bin set that was kept is free again. -/
def State.dropBins (s : State) (t : Thread) : State :=
  (s.bins.filter fun (_, b) => b.reserved == some t.tid).foldl (fun s (k, b) =>
    ({ s with bins := tabSet s.bins k { b with reserved := none } } : State).wakeWhere fun u =>
      u.waitsFor 12 (binObject k)) s

/-- What was kept for an instruction that a thread has not come to, or has come past: an array, a copy slot, a bin
set. A slot of a ring stays reserved, for the reissue or for RPOP (12 R239, 17 R332). -/
def State.dropReserved (s : State) (t : Thread) : State := ((s.dropArrays t).dropCopy t).dropBins t

/-- A withdrawn instruction gives back what it read of packets: it reissues (06 R127, R131). -/
def State.unreadOf (s : State) (tid : Nat) : State :=
  match s.thread? tid with
  | none => s
  | some t =>
    if s.busy && s.cur.tid == tid then s.unread
    else
      let u := ({ s with cur := t } : State).unread
      ({ u with cur := s.cur } : State).putThread u.cur

/-- A savable thread is withdrawn from what it waits for and saved with KIND; `life` is what it
becomes. The suppression of a breakpoint ends (14 R275). -/
def State.saveThread (s : State) (tid kind : Nat) (life : Life) : State :=
  match s.thread? tid with
  | none => s
  | some t =>
    let left := s.remainOf t
    let s := (((s.withdrawWait tid).unreadOf tid).leaveGroups tid).parkMons t
    let s := s.dropReserved t
    match s.thread? tid with
    | none => s
    | some t =>
      let t := { t with remain := left, laneReq := none, laneRes := none, suppress := none, bpAt := none, lines := []
                        savePend := none, half := none, halfDone := false, holds := false }
      let s := (s.putThread t).saveFrame t kind
      let s := s.modThread tid fun t => { t with life := life, wait := none }
      s.lanesFreed (s.poolGroup t.core)

/-! ### Restoring (06 R132, 09 R177) -/

/-- The request for the lanes of a saved claim: nothing to wait for, or the lanes are granted. -/
def State.lanesReady (s : State) (t : Thread) : Bool × State :=
  match t.claim, t.laneRes with
  | none, _ => (true, s)
  | some _, some _ => (true, s)
  | some c, none =>
    if t.laneReq.isSome then (false, s)
    else
      let t' := { t with laneReq := some (c.min, c.grant), wait := some ⟨7, none, false, s.stamp⟩ }
      let s := { (s.dropRegistration t.tid).putThread { t' with wreg := none } with stamp := s.stamp + 1 }
      let s := s.lanesFreed (s.poolGroup t.core)
      ((match s.thread? t.tid with
        | some u => u.laneRes.isSome
        | none => false), s)

/-- Monitors are armed again at their homes; an own-window line is one of the core now. -/
def State.unparkMons (s : State) (tid : Nat) : State :=
  (List.range 4).foldl (fun s i =>
    match s.thread? tid with
    | none => s
    | some t => match t.mons.getD i none with
      | none => s
      | some m =>
        let line := if bits m.va 63 56 = 0xFF then vkey t.core m.va / 64 else m.line
        let (co, s) := s.armAt (locOfKey (line * 64)) tid i
        s.modThread tid fun t => { t with mons := t.mons.set i (some { m with line := line, coarse := co }) }) s

/-- A saved or adopting thread takes a run of registers and goes on: its claim, granted anew, is renegotiated
within the grant that was saved (09 R175, R177). -/
def State.restoreInto (s : State) (tid core entry wbase : Nat) : State :=
  match s.thread? tid with
  | none => s
  | some t0 =>
    let (t, s) := s.restoreFrame t0
    let claim : Option Claim := match t.claim, t0.laneRes with
      | some c, some n => some (c.resize n)
      | c, _ => c
    let g := t.grantNow
    let now := (s.core core).cycle
    let t := { t with
      core := core, entry := entry, wbase := wbase, life := .ready
      readyAt := readyStamp (now + 1) false, claim := claim, laneRes := none, laneReq := none
      wait := none, adopts := none }
    let s := s.putThread t
    let s := match claim with
      | some c => (s.putThread { t with claim := some (s.renegClaim t c (some g) g) }).lanesFreed
          (s.poolGroup core)
      | none => s
    (s.unparkMons tid).putCycle tid

/-! ### The saved-thread list and HOLD (18 R355) -/

/-- A thread joins the saved-thread list of its launch. -/
def State.listSaved (s : State) (t : Thread) : State :=
  s.modLaunch t.launch fun l => { l with saved := l.saved ++ [t.tid] }

/-- Some thread of a launch on a core of a bind record is saved, or is still to be. -/
def State.savedUnder (s : State) (d : Nat) (r : BindRec) : Bool :=
  let on (t : Thread) : Bool := t.launch == r.launch && dieOf t.core == d && r.covers t.core
  (match s.launch? r.launch with
    | some l => l.saved.any fun i => match s.thread? i with
      | some t => on t
      | none => false
    | none => false) || s.allThreads.any fun t => t.savePend.isSome && on t

/-- HOLD of a launch's bind record for a core is cleared once no thread of its cores is saved. -/
def State.clearHold (s : State) (launch c : Nat) : State :=
  if s.pkg.fstate = 0 then
    s.setHold (fun d r => r.launch == launch && d == dieOf c && r.covers c && !s.savedUnder d r) false
  else s

/-- Every adopter that stands under a guest in its entry, from its own up. -/
def State.hostsOf (s : State) (fuel : Nat) (h : Option Nat) : List Thread :=
  match fuel, h with
  | j + 1, some h => match s.thread? h with
    | some u => u :: s.hostsOf j u.host
    | none => []
  | _, _ => []

/-- The entry in which adopters stand is free: their frames, which go to the context store, stay stacked under the
thread that was saved (18 R355, Table 18.5). -/
def State.parkHosts (s : State) (core entry : Nat) (hs : List Thread) : State :=
  if hs.isEmpty then s
  else
    let s := hs.foldr (fun u s => (s.modThread u.tid fun u => { u with parked := true, savePend := none }).storeFrame u.tid) s
    { s with mem := s.mem.setWord (dirKey core entry) 0 .full }

/-- Adopters stand in an entry again. -/
def State.unparkHosts (s : State) (core entry : Nat) (hs : List Thread) : State :=
  match hs with
  | [] => s
  | u :: _ =>
    let s := hs.foldl (fun s u => s.modThread u.tid fun u => { u with parked := false, entry := entry }) s
    { s with mem := s.mem.setWord (dirKey core entry) (dirWord u.frame core) .full }

/-- A thread that may be saved is saved with KIND and listed; one that runs by adoption frees its entry with its
adopters. -/
def State.preemptThread (s : State) (t : Thread) (kind : Nat) : State :=
  let s := (s.saveThread t.tid kind .saved).listSaved t
  s.parkHosts t.core t.entry (s.hostsOf 16 t.host)

/-- An adopter between two members is pre-empted: its frame is saved already. -/
def State.preemptAdopter (s : State) (t : Thread) : State :=
  let s := (s.putThread { t with wait := none, laneReq := none, laneRes := none, savePend := none }).listSaved t
  (s.parkHosts t.core t.entry (s.hostsOf 16 (some t.tid))).lanesFreed (s.poolGroup t.core)

/-- Saves that were asked for are made of threads that now wait for what a save withdraws (06 R131). -/
def State.pendingSaves (s : State) : State :=
  (s.threads.filter fun (_, t) => t.savePend.isSome && t.life == .waiting && s.canSave t).foldl
    (fun s (_, t) => match s.thread? t.tid, t.savePend with
      | some t, some k => s.preemptThread t k
      | _, _ => s) s

/-- Fault records of waiters that `p` selects are withdrawn, also those that the Factor still holds (18 R361). -/
def State.dropFaults (s : State) (p : Waiter → Bool) : State :=
  let gone := (s.faults.filter fun r => p r.who).map fun r => BitVec.ofNat 64 r.token
  { s with
    faults := s.faults.filter fun r => !p r.who
    elemFaults := s.elemFaults.filter fun r => !p r.who
    pkg := { s.pkg with fq := { s.pkg.fq with
      waiting := s.pkg.fq.waiting.filter fun r => !gone.contains (r.getD 3 0) } } }

/-! ### Ending a thread (04 R72, 05 R112, 17 R345) -/

/-- A thread's frame is discarded: what named it, the directory word of its entry or the LINK of the frame above
it, names the one below (06 R132). -/
def State.dropFrame (s : State) (t : Thread) : State :=
  match t.frame with
  | none => s
  | some f =>
    if s.mem.word (dirKey t.core t.entry) = dirWord (some f) t.core then
      { s with mem := s.mem.setWord (dirKey t.core t.entry) (linkDir f.link) .full }
    else s.relink t.core (f.link64 t.core) f.link

/-- The guests above a killed adopter in its entry hold one adoption frame fewer (05 R112, R115). -/
def State.lowerGuests (s : State) (t : Thread) : State :=
  if t.life = .adopting then
    let above := (s.allThreads.filter fun u => (s.hostsOf 16 u.host).any fun h => h.tid == t.tid).map (·.tid)
    s.mapThreads fun u => if above.contains u.tid then { u with depth := u.depth - 1 } else u
  else s

/-- A record that its thread leaves behind goes to the Factor (18 Table 18.11, codes 3 and 4). -/
def State.reportRecords (s : State) (t : Thread) : State :=
  let s : State := match t.errRec with
    | some r => s.reportThread t 3 r.addr [BitVec.ofNat 64 (causeCode r.cause).toNat, r.count.setWidth 64]
    | none => s
  match t.copyRec with
  | some r => s.reportThread t 4 0 [r.id, r.first, r.count.setWidth 64]
  | none => s

/-- A family record that no thread and no run needs is free (05 R99). -/
def Fam.settleLive (f : Fam) : Fam := { f with live := !f.fin || f.creator.isSome }

/-- The creator of a family has ended. -/
def Fam.orphan (f : Fam) (tid : Nat) : Fam :=
  if f.creator == some tid then ({ f with creator := none } : Fam).settleLive else f

/-- The saved-thread list without a thread that ends: an adopter that was saved with it takes its place. -/
def State.unsaved (s : State) (t : Thread) (l : List Nat) : List Nat :=
  match t.host.bind s.thread? with
  | some h => if h.parked && !(s.allThreads.any fun u => u.tid != t.tid && u.host == some h.tid)
      then l.map fun i => if i = t.tid then h.tid else i
      else l.filter (· != t.tid)
  | none => l.filter (· != t.tid)

/-- What a thread held is settled and its entry and window are free. -/
def State.retire (s : State) (tid : Nat) : State :=
  match s.thread? tid with
  | none => s
  | some t =>
    let s := (s.reportRecords t).parkMons t
    let s : State := match t.rxBound with
      | some (_, id) => s.dropPacket t.core id
      | none => s
    let s := (((s.endRelations tid).leaveGroups tid).dropReserved t).endMatrix t
    let s := (s.dropFrame t).lowerGuests t
    let s := s.modFam t.fam fun f => { f with ended := setInsert f.ended t.k }
    let s := { s with
      fams := s.fams.map fun (i, f) => (i, Fam.orphan f tid)
      replies := s.replies.filter fun r => r.tid != tid }
    let s := s.dropFaults fun w => w.src == 0 && w.id == tid
    let s := s.mapThreads fun u => if u.host == some tid then
      { u with host := t.host, pinned := u.pinned || (t.host.isNone && !t.parked) } else u
    let s := s.modLaunch t.launch fun l => { l with saved := s.unsaved t l.saved }
    let s := s.modThread tid fun t => { t with
      life := .ended, claim := none, laneRes := none, laneReq := none, wait := none, frame := none }
    let s := if s.busy && s.cur.tid == tid then s else { s with threads := tabErase s.threads tid }
    (s.lanesFreed (s.poolGroup t.core)).clearHold t.launch t.core

/-- Kills (05 R106, R112): `tids` are threads to end, `fams` families to kill; a thread with a
packet open, or the issuing one, ends at its next boundary outside a packet, and a Halted one when the Factor kills
it (06 Table 6.1, 18 R365). -/
def State.killAll (s : State) (fuel : Nat) (fams tids : List Nat) : State :=
  match fuel with
  | 0 => s
  | j + 1 =>
    match tids with
    | t :: r =>
      match s.thread? t with
      | none => s.killAll j fams r
      | some x =>
        if x.packet.isSome || x.life == .halted || (s.busy && s.cur.tid == t) then
          (s.putThread { x with killed := true }).killAll j fams r
        else
          let made := (s.fams.filter fun (_, f) => f.creator == some t && !f.fin).map (·.1)
          (s.retire t).killAll j (fams ++ made) r
    | [] =>
      match fams with
      | [] => s
      | f :: r =>
        match s.fam? f with
        | none => s.killAll j r []
        | some x =>
          if x.fin || x.killed then s.killAll j r []
          else
            let members := (s.allThreads.filter fun t => t.fam == f && t.life != .ended).map (·.tid)
            ((s.modFam f fun y => { y with
              killed := true, brk := none, finals := Vector.replicate 16 (some 0) }).dropLinks
                fun v => v.fam == f).killAll j r members

/-- Enough turns for a kill: each thread and each family is reached at most twice. -/
def State.killFuel (s : State) : Nat := 2 * (s.threads.length + s.fams.length) + 8

def State.killFam (s : State) (f : Nat) : State := s.killAll s.killFuel [f] []

def State.killThread (s : State) (tid : Nat) : State := s.killAll s.killFuel [] [tid]

/-! ### Adoption (05 R115) -/

/-- Threads of a launch on a core that make way for an adopted member: first those neither
adopting nor adopted, then adopted members that wait, each by rising effective priority. -/
def State.victims (s : State) (core launch host : Nat) : List Thread :=
  let all := (s.onCore core).filter fun t => t.launch == launch && t.holdsWindow && t.tid != host && s.canSave t
  let byPrio (l : List Thread) : List Thread :=
    (List.range 8).flatMap fun p => l.filter fun t => t.eprio == p
  byPrio (all.filter fun t => t.host.isNone && !t.pinned) ++
    byPrio (all.filter fun t => (t.host.isSome || t.pinned) && t.life == .waiting)

/-- A run of W on a core for a launch, saving threads of it one after another as needed. -/
def State.makeRun (s : State) (core launch w : Nat) (vs : List Thread) : Option Nat × State :=
  match s.runFor core launch w with
  | some b => (some b, s)
  | none =>
    match vs with
    | [] => (none, s)
    | v :: r =>
      ((s.saveThread v.tid 0 .saved).listSaved v).makeRun core launch w r

/-- An adopter goes on: the lowest unstarted member runs in its entry, or its own context is
restored; where no run of registers forms it waits with reason 13. One whose save is due is pre-empted here, between
two members. DEDUCED: to restore the adopter's own window other threads of the launch make way as for a member's
(log 38). DESIGN CHOICE: while HOLD is set for its core an adopter waits with reason 13 and starts no member
(log 38). -/
def State.adoptStep (s : State) (host : Nat) : State :=
  match s.thread? host with
  | none => s
  | some t =>
    if t.life != .adopting || t.parked || s.allThreads.any (fun u => u.host == some host) then s
    else if t.savePend.isSome then s.preemptAdopter t
    else
      let next : Option (Nat × Nat × Fam) := match t.adopts with
        | none => none
        | some fk => match s.fam? fk with
          | none => none
          | some f => f.lowest.map fun k => (fk, k, f)
      match next with
      | some (fk, k, f) =>
        if s.held t.launch t.core then s.modThread host fun t => { t with wait := some ⟨13, none, false, 2 ^ 64⟩ }
        else match s.makeRun t.core t.launch (windowSize f.win) (s.victims t.core t.launch host) with
        | (some b, s) => s.startMember fk k t.core t.entry b (some host) t.depth
        | (none, s) => s.modThread host fun t => { t with wait := some ⟨13, none, false, 2 ^ 64⟩ }
      | none =>
        match s.makeRun t.core t.launch (windowSize t.win) (s.victims t.core t.launch host) with
        | (none, s) => s.modThread host fun t => { t with adopts := none, wait := some ⟨13, none, false, 2 ^ 64⟩ }
        | (some b, s) =>
          let (ok, s) := s.lanesReady t
          if ok then (s.restoreInto host t.core t.entry b).modThread host fun t => { t with depth := t.depth - 1 }
          else s

/-- The issuing thread, past its instruction, adopts a family. -/
def State.adopt (s : State) (fk : Nat) : State :=
  let s := s.updCur fun t => { t with adopts := some fk, depth := t.depth + 1 }
  let s := s.saveThread s.cur.tid 1 .adopting
  { s.adoptStep s.cur.tid with flow := .gone }

/-- The Factor kills a Halted thread, with the families that it created (18 R365). DESIGN CHOICE: a packet that it
has open is never closed (log 50). -/
def State.killHalted (s : State) (tid : Nat) : State :=
  (s.retire tid).killAll s.killFuel ((s.fams.filter fun (_, f) => f.creator == some tid && !f.fin).map (·.1)) []

/-- A thread ends, and what waited for its entry goes on: its adopter takes the next member. -/
def State.endThread (s : State) (tid : Nat) : State :=
  match s.thread? tid with
  | none => s
  | some t =>
    let s := s.retire tid
    match t.host with
    | some h => s.adoptStep h
    | none => s

end Sys2Proof.Machine
end

