-- ==== Sys2Proof/Machine/Family.lean ====
section
/-! DEFINITION. Family instructions, EXIT and BREAK (05 R96 to R115, 04 R72, R73). -/

namespace Sys2Proof.Machine

/-! ### Staging (05 R96, R101, R102) -/

/-- The first staging instruction takes the open record (05 R110, R115). -/
def openRecord : M Unit := fun s =>
  if s.cur.openRec then .ok ((), s)
  else if s.freeRecords s.cur.launch = 0 then .error (.trap .familyAreaFull (some 0) none s)
  else .ok ((), s.updCur fun t => { t with openRec := true })

def Staged.put (st : Staged) (f : FsetField) (v : Word) : Staged :=
  match f with
  | .start => { st with start := v }
  | .limit => { st with limit := v }
  | .step => { st with step := v }
  | .block => { st with block := v }
  | .place => { st with place := v }
  | .entry => { st with entry := v }
  | .window => { st with window := v }
  | .prio => { st with prio := zext 3 v }
  | .flags => { st with flags := v }

/-- The value FSET stages: a literal ENTRY is an offset from the FSET. -/
def fsetValue (o : OpFset) : M Word := do
  let t ← getCur
  match o.field, o.b with
  | .entry, .lit v => pure (slotAdd t.pc v.toInt)
  | _, b => operandB b

/-- FSET. -/
def execFset (o : OpFset) (s : State) : Host.Outcome State Fault Refusal :=
  issue o.g (do
    openRecord
    let v ← fsetValue o
    updCur fun t => { t with staged := t.staged.put o.field v }
    pure .seq) s

/-- FPUTG. -/
def execFputg (o : OpFput) (s : State) : Host.Outcome State Fault Refusal :=
  issue o.g (do
    openRecord
    let v ← operandB o.b
    updCur fun t => { t with staged := { t.staged with g := t.staged.g.set o.n.val v } }
    pure .seq) s

/-- FPUTS. -/
def execFputs (o : OpFput) (s : State) : Host.Outcome State Fault Refusal :=
  issue o.g (do
    openRecord
    let v ← operandB o.b
    updCur fun t => { t with staged := { t.staged with d := t.staged.d.set o.n.val v } }
    pure .seq) s

/-! ### CREATE (05 R97, R98, R100, R103, R108) -/

/-- A window word within Table 5.2. -/
def windowWordOk (v : Word) : Bool :=
  decide (bits v 6 0 ≤ 64) && bits v 7 7 == 0 && decide (bits v 12 8 ≤ 16) && bits v 15 13 == 0 &&
    decide (bits v 20 16 ≤ 16) && bits v 63 21 == 0

/-- MemberCount. -/
def memberCount (start limit step : Word) : Nat :=
  let a := start.toInt
  let b := limit.toInt
  let c := step.toInt
  if 0 < c then ((b - a + c - 1) / c).toNat else ((a - b + (-c) - 1) / (-c)).toNat

/-- The number of the first core of a package. -/
def State.firstCore (s : State) (p : Nat) : Nat := if p = s.pkg.num then 0 else farCore p 0

/-- The enabled cores of a cluster, in order. -/
def State.coresOf (s : State) (p cl : Nat) : List Nat :=
  (List.range (s.countIn p cl)).map fun i => s.firstCore p + cl * 128 + i

/-- PlaceCores (05 R97, R98): the place cores of a place word, none where it is invalid. -/
def State.placeCores (s : State) (w : Word) (dealt : Nat) : Option (List Nat) :=
  let level := bits w 2 0
  let core := bits w 10 4
  let cl := bits w 14 11
  let die := bits w 16 15
  let p := bits w 28 17
  let n := bits w 43 32 + 1
  let clusters (c k : Nat) : List Nat := (List.range k).flatMap fun i => s.coresOf p (c + i)
  if bits w 3 3 != 0 || bits w 31 29 != 0 || bits w 63 44 != 0 then none
  else if level = 0 then (if w = 0 then some [dealt] else none)
  else if s.npkg ≤ p then none
  else if level = 1 then
    if cl < 12 ∧ core + n ≤ s.countIn p (die * 12 + cl) then
      some ((List.range n).map fun i => s.firstCore p + coreNo die cl (core + i))
    else none
  else if core ≠ 0 then none
  else if level = 2 then
    if cl + n ≤ 12 then some (clusters (die * 12 + cl) n) else none
  else if cl ≠ 0 then none
  else if level = 3 then
    if die + n ≤ 4 then some (clusters (die * 12) (12 * n)) else none
  else if die ≠ 0 then none
  else if level = 4 then
    if p + n ≤ s.npkg then
      some ((List.range n).flatMap fun k => (List.range 48).flatMap fun i => s.coresOf (p + k) i)
    else none
  else none

/-- PlaceCores for CREATE: every core has entries of the launch. -/
def State.createPlace (s : State) (t : Thread) : Option (List Nat) :=
  let bound := match s.launch? t.launch with
    | some l => l.place
    | none => []
  match s.placeCores t.staged.place t.dealt with
  | some p => if !p.isEmpty && p.all bound.contains then some p else none
  | none => none

/-- The family id of a family that a thread creates (05 R100). -/
def childFid (t : Thread) : BitVec 32 :=
  let key := BitVec.ofNat 64 (bits t.famid 31 0 * 2 ^ 32 + t.k % 2 ^ 24 * 2 ^ 8 + t.cseq.toNat)
  BitVec.ofNat 32 (bits (mix64 key) 63 32)

/-- A record number for a new family: a free choice among those that no live family of the launch
holds. -/
def State.pickRecord (s : State) (launch : Nat) : Nat × State :=
  let precs := match s.launch? launch with
    | some l => l.field 10 23 0
    | none => 3
  let used := (s.fams.filter fun (_, f) => f.launch == launch && f.live).map fun (_, f) => f.record
  let (o, s) := s.choose (precs - 2)
  (((List.range (used.length + 1)).map fun i => 2 + (o + i) % (precs - 2)).find? (fun r => !used.contains r) |>.getD 2, s)

/-- The generation of a record: advanced on each reuse. -/
def State.takeGen (s : State) (launch record : Nat) : BitVec 8 × State :=
  match s.launch? launch with
  | none => (0, s)
  | some l =>
    let g : BitVec 8 := match tabGet l.gens record with
      | some g => g + 1
      | none => 0
    (g, s.modLaunch launch fun l => { l with gens := tabSet l.gens record g })

/-- The family that the issuing thread describes, not yet recorded. -/
def familyOf (t : Thread) (place : List Nat) (n : Nat) : Fam :=
  let pr := bits t.staged.prio 2 0
  let ceil := bits t.prio 6 4
  let pr := if t.pl = 0 then min pr ceil else pr
  { launch := t.launch, record := 0, gen := 0, fid := childFid t, st := t.staged, prio := pr, ceil := pr
    pl := BitVec.ofNat 2 t.pl, thand := t.thand, tmask := t.tmask, ivl := t.ivl, parent := t.famid
    creator := some t.tid, place := place, n := n, started := [], ended := [], adopted := false
    brk := none, killed := false, finals := Vector.replicate 16 none, fwd := [], fin := false
    queued := 0, live := true }

/-- Some member has room now. -/
def State.someRoom (s : State) (f : Fam) : Bool :=
  f.place.any fun c => (f.lowestOn c).isSome && (s.roomOn c f.launch (windowSize f.win)).isSome

def Launch.loww (l : Launch) : Nat := l.field 10 47 24

/-- CREATE adopts at once (05 R103). -/
def State.adoptsNow (s : State) (l : Launch) (f : Fam) : Bool :=
  f.st.flags.getLsbD 0 ||
    (decide (0 < f.n) && !s.someRoom f && decide (s.freeRecords f.launch - 1 < l.loww))

/-- A family with no member ends: its final shareds are the staged dependents. -/
def Fam.endEmpty (f : Fam) : Fam :=
  ({ f with finals := f.st.d.map some, fin := true } : Fam).settleLive

/-- Start every member that has room, over the place. -/
def State.startAll (s : State) (fk : Nat) (place : List Nat) : State :=
  place.foldl (fun s c => s.startOn fk c 256) s

/-- The checks of CREATE before a record is taken, in order: the launch, and the family. -/
def createChecks : M (Launch × Fam) := do
  let s ← get
  let t := s.cur
  let st := t.staged
  orTrap (st.step != 0) .familyField 2 st.step
  orTrap (decide (1 ≤ st.block.toNat) && decide (st.block.toNat ≤ 256)) .familyField 3 st.block
  orTrap (windowWordOk st.window) .familyField 6 st.window
  orTrap (st.flags &&& ~~~1#64 == 0) .familyField 8 st.flags
  match s.createPlace t, s.launch? t.launch with
  | some p, some l =>
    orTrap (!targetFormFails st.entry) .badTarget st.entry 0
    let w := windowSize (winOfWord st.window)
    orTrap (decide (w ≤ l.regs)) .resourceExceedsCore (BitVec.ofNat 64 w) (BitVec.ofNat 64 l.regs)
    let n := memberCount st.start st.limit st.step
    orTrap (decide (n < 2 ^ 56)) .familyField 1 st.limit
    pure (l, familyOf t p n)
  | _, _ => trapW .placeInvalid st.place 0

/-- CREATE completes: an empty family ends, another starts its members (05 R103). -/
def State.familyMade (s : State) (fk : Nat) : State :=
  match s.fam? fk with
  | some f => if f.n = 0 then s.modFam fk Fam.endEmpty else s.startAll fk f.place
  | none => s

/-- CREATE traps: it leaves no family, no record and an unchanged CSEQ (05 R103). -/
def State.unmake (s : State) (fk : Nat) : State :=
  { s with fams := tabErase s.fams fk }.updCur fun t => { t with cseq := t.cseq - 1 }

/-- The handle of this family is on its way in a packet that its CREATE closes: no member runs before it is written
(05 R103). -/
def State.unmade (s : State) (fk : Nat) : Bool :=
  s.allThreads.any fun t => match t.wait with
    | some ⟨_, some (.txeFam k), _, _⟩ => k == fk
    | _ => false

/-- CREATE. DESIGN CHOICE: one that would adopt at once while a packet is open traps PACKET_OPEN, also where DST is TXE
(log 93). -/
def execCreate (o : OpD) (s : State) : Host.Outcome State Fault Refusal :=
  issue o.g (do
    let s0 ← get
    checkDst o.d
    let (l, f) ← createChecks
    let s ← get
    let now := s.adoptsNow l f
    if now then
      if l.depth ≤ s.cur.depth then fun s => .error (.trap .familyAreaFull (some 1) none s)
      if s.cur.packet.isSome && f.n != 0 then trapW .packetOpen 0 0
    if s.freeRecords f.launch = 0 then fun s => .error (.trap .familyAreaFull (some 0) none s)
    let (r, s) := s.pickRecord f.launch
    let (g, s) := s.takeGen f.launch r
    let (fk, s) := s.fresh
    let f := { f with record := r, gen := g, queued := fk }
    set ({ s with fams := tabSet s.fams fk f }.updCur fun t => { t with cseq := t.cseq + 1 })
    match ← trapIn s0 (writeD o.d f.handle) with
    | .held => holdFor 11 0 (.txeFam fk) false
    | fl =>
      if now && f.n != 0 then do
        updCur fun t => t.advance 1
        modS fun s => s.adopt fk
        pure .gone
      else do
        modS fun s => s.familyMade fk
        pure fl) s

/-! ### SYNC, FGETS, KILL, FSTAT (05 R99, R104 to R107) -/

/-- The family of a handle: live, of the same launch. -/
def familyAt (v : Word) : M (Nat × Fam) := fun s =>
  match s.fams.find? fun (_, f) => f.live && f.launch == s.cur.launch && f.handle == v with
  | some p => .ok (p, s)
  | none => .error (.trap .familyHandle (some v) (some 0) s)

/-- END of a family (05 Table 5.9). -/
def Fam.endCode (f : Fam) : Nat := if f.killed then 2 else if f.brk.isSome then 1 else 0

/-- BK of a family. -/
def Fam.bk (f : Fam) : Nat := f.brk.getD f.n

/-- Family status as SYNC writes it. -/
def Fam.status (f : Fam) : Word :=
  BitVec.ofNat 64 (f.endCode + 2 ^ 8 * (if f.endCode = 1 then f.bk else f.n))

/-- A packet whose flit an instruction has read that is to run again stays bound to its thread (11 R218). -/
def State.keepBinding (s : State) (a : SReg) : State :=
  let bind (s : State) : State := match s.rxPacket s.cur with
    | some p => s.bindPacket p
    | none => s
  match a with
  | .rx => bind s
  | .rxh => bind s
  | _ => s

/-- Wait for a family to end; its unstarted members are adopted. Once it has ended, the rest acts
as an acquire at device scope. `s0` is the machine before the operand was read: the adopter runs its instruction
again once it is restored, so it reads the same handle. -/
def waitFamily (s0 : State) (a : SReg) (fk : Nat) (f : Fam) (rest : M Flow) : M Flow := do
  if f.fin then
    raiseDeferred
    acquire
    rest
  else if f.lowest.isSome then
    let s ← get
    if s.cur.packet.isSome then trapW .packetOpen 0 0
    let depth := match s.launch? s.cur.launch with
      | some l => l.depth
      | none => 0
    if depth ≤ s.cur.depth then fun s => .error (.trap .familyAreaFull (some 1) none s)
    set ((s0.keepBinding a).adopt fk)
    pure .gone
  else waitR 13 fk

/-- SYNC. -/
def execSync (o : OpDA) (s : State) : Host.Outcome State Fault Refusal :=
  issue o.g (do
    let s0 ← get
    checkDst o.d
    let v ← readS o.a
    let (fk, f) ← familyAt v
    waitFamily s0 o.a fk f (writeD o.d f.status)) s

/-- FGETS. -/
def execFgets (o : OpFgets) (s : State) : Host.Outcome State Fault Refusal :=
  issue o.g (do
    let s0 ← get
    checkDst o.d
    let v ← readS o.a
    let (fk, f) ← familyAt v
    orTrap (decide (o.n.val < f.win.s)) .familyField 6 (BitVec.ofNat 64 o.n.val)
    waitFamily s0 o.a fk f (writeD o.d ((f.finals[o.n]).getD 0))) s

/-- KILL. -/
def execKill (o : OpA) (s : State) : Host.Outcome State Fault Refusal :=
  issue o.g (do
    let v ← readS o.a
    let (fk, _) ← familyAt v
    modS fun s => s.killFam fk
    pure .seq) s

/-- FSTAT (05 Table 5.8). -/
def Fam.stat (f : Fam) (sel : FstatSel) : Word :=
  match sel with
  | .state => BitVec.ofNat 64 ((if f.fin then 2 + 4 * f.endCode else if f.started.isEmpty then 0 else 1) +
      (if f.adopted then 16 else 0))
  | .count => BitVec.ofNat 64 f.n
  | .started => BitVec.ofNat 64 f.started.length
  | .ended => BitVec.ofNat 64 f.ended.length
  | .bk => BitVec.ofNat 64 f.bk
  | .bkindex => f.st.start + BitVec.ofNat 64 f.bk * f.st.step
  | .fid => f.fid.setWidth 64

def execFstat (o : OpFstat) (s : State) : Host.Outcome State Fault Refusal :=
  issue o.g (do
    checkDst o.d
    let v ← readS o.a
    let (_, f) ← familyAt v
    writeD o.d (f.stat o.sel)) s

/-! ### EXIT and BREAK (03 R51, 04 R72, R73, 05 R113) -/

/-- The registers that the shareds of a thread which ends are read from, checked before any is passed on
(06 R133): Dn where Sn is unwritten and Dn full, Sn at a break. -/
def checkShareds (brk : Bool) (l : List (Fin 16)) : M Unit :=
  match l with
  | [] => pure ()
  | n :: r => do
    let t ← getCur
    if t.swr.getLsbD n.val then (if brk then eccCheck (.s n) else pure ())
    else if t.dfull.getLsbD n.val then eccCheck (.d n)
    checkShareds brk r

/-- A shared of a thread that ends: one that is unwritten passes Dn on, now or when it arrives. -/
def settleShared (brk : Bool) (n : Fin 16) : M Unit := fun s =>
  let t := s.cur
  let pass (v : Word) : Except Stop (Unit × State) :=
    match s.sendLinked (s.linkFuel t.fam) t.fam t.k n v t.core false with
    | some s => .ok ((), s)
    | none => .error (.trap .familyAreaFull (some 2) none s)
  if t.swr.getLsbD n.val then (if brk then pass t.sv[n] else .ok ((), s))
  else if t.dfull.getLsbD n.val then pass t.dv[n]
  else .ok ((), s.modFam t.fam fun f => { f with fwd := if f.fwd.contains (t.k, n.val) then f.fwd else f.fwd ++ [(t.k, n.val)] })

def settleShareds (brk : Bool) (l : List (Fin 16)) : M Unit :=
  match l with
  | [] => pure ()
  | n :: r => do
    settleShared brk n
    settleShareds brk r

/-- Member k becomes the break point, unless the family is killed or one before it has broken. -/
def Fam.breakAt (f : Fam) (k : Nat) : Fam :=
  if f.killed || f.beyond k then f
  else { f with
    brk := some k
    finals := Vector.ofFn fun i => if i.val < f.win.s then none else some 0
    fwd := f.fwd.filter fun (j, _) => decide (j ≤ k) }

/-- Started members beyond the break point are killed. DESIGN CHOICE: what the cores keep for the others, which never
start, is dropped (log 67). -/
def State.killBeyond (s : State) (fk : Nat) : State :=
  match s.fam? fk with
  | none => s
  | some f => (s.dropLinks fun v => v.fam == fk && f.beyond v.k).killAll s.killFuel []
      ((s.allThreads.filter fun t => t.fam == fk && f.beyond t.k && t.life != .ended).map (·.tid))

/-- The member ends. -/
def endMember (brk : Bool) : M Flow := do
  let t ← getCur
  if t.packet.isSome then trapW .packetOpen 0 0
  let s ← get
  let isBrk := brk && (match s.fam? t.fam with
    | some f => !f.killed && !f.beyond t.k
    | none => false)
  let shareds := (List.finRange 16).filter fun n => n.val < t.win.s
  checkShareds isBrk shareds
  if brk then modS fun s => s.modFam t.fam fun f => f.breakAt t.k
  settleShareds isBrk shareds
  if brk then modS fun s => s.killBeyond t.fam
  modS fun s => s.endThread t.tid
  pure .gone

def execExit (o : OpG) (s : State) : Host.Outcome State Fault Refusal := issue o.g (endMember false) s
def execBreakM (o : OpG) (s : State) : Host.Outcome State Fault Refusal := issue o.g (endMember true) s

/-! ### Events (05 R110, R111, R114) -/

/-- The adopters of a core in whose entry no member runs. -/
def State.idleAdopters (s : State) (c : Nat) : List Thread :=
  s.allThreads.filter fun t => t.core == c && t.life == .adopting && !t.parked &&
    !(s.allThreads.any fun u => u.host == some t.tid)

/-- Room on a core is offered to the best waiting family (05 R110). -/
def State.offerRoom (s : State) (c : Nat) : Option State :=
  let ready := s.fams.filter fun (fk, f) =>
    !f.fin && !s.unmade fk && (f.lowestOn c).isSome && (s.roomOn c f.launch (windowSize f.win)).isSome
  let key (p : Nat × Fam) : Nat :=
    ((7 - s.famPrio p.1 p.2) * 2 + (if p.2.started.isEmpty then 1 else 0)) * 2 ^ 64 + p.2.queued
  (leastBy key ready).map fun (fk, _) => s.startOn fk c 1

/-- MEMBER_START: the adopters of core n that wait for registers try again, then room on the core is offered.
DESIGN CHOICE: adopters come first (log 67). -/
def execMemberStart (n : Nat) (s : State) : Host.Outcome State Fault Refusal :=
  event (fun s =>
    let l := s.idleAdopters n
    let t := l.foldl (fun s a => s.adoptStep a.tid) s
    if l.isEmpty then s.offerRoom n else some ((t.offerRoom n).getD t)) s

/-- Every write that a member of the family has issued is performed, those of a replay that runs for one among
them (13 R271). -/
def State.writesDone (s : State) (fk : Nat) : Bool :=
  let mine (q : Req) : Bool := !isAppend q && (q.fam == fk || q.parts.any fun p => p.fam == fk)
  !s.reqs.any mine && !s.missed.any mine && !(s.cores.any fun (_, c) => c.queue.any mine) &&
    !(s.engines.any fun e => e.fam == fk) && !s.bins.any fun (_, b) => b.runner.isSome && b.runFam == fk

/-- Every member has ended or never will start, and the final shareds are settled. -/
def Fam.over (f : Fam) : Bool :=
  f.started.all f.ended.contains &&
    (f.killed || (match f.brk with
      | some b => decide ((f.ended.filter fun k => decide (k ≤ b)).length = b + 1)
      | none => decide (f.ended.length = f.n))) &&
    (List.range f.win.s).all fun i => (f.finals.toList.getD i none).isSome

/-- A family ends and its waiters look again. -/
def State.endFamily (s : State) (fk : Nat) : State :=
  (s.modFam fk fun f => ({ f with fin := true } : Fam).settleLive).wakeWhere fun t => t.waitsFor 13 fk

/-- FAMILY_END: the nth family that is over ends. -/
def execFamilyEnd (n : Nat) (s : State) : Host.Outcome State Fault Refusal :=
  event (fun s =>
    let l := (s.fams.filter fun (fk, f) => !f.fin && f.over && s.writesDone fk).map (·.1)
    match l[n % l.length]? with
    | some fk => some (s.endFamily fk)
    | none => none) s

/-- LINKED_VALUE_ARRIVAL: the nth of the linked values that may arrive does (05 R111, 15 R290). -/
def execLinkedValueArrival (n : Nat) (s : State) : Host.Outcome State Fault Refusal :=
  event (fun s =>
    match s.nextLinked n with
    | none => none
    | some i => match s.linkMsgs[i]? with
      | none => none
      | some m => { s with linkMsgs := removeAt s.linkMsgs i }.arriveLinked m) s

end Sys2Proof.Machine
end

