-- ==== Sys2Proof/Machine/Control.lean ====
section
/-! DEFINITION. Transfers of control, traps and their return, control registers, YIELD, CHKPT
(04 R66 to R78, 03 R54 to R61), TRACEW and CNTR (20 R396, R397). -/

namespace Sys2Proof.Machine

/-! ### Transfers (04 R67 to R70) -/

/-- NOP (04 R71). -/
def execNop (o : OpG) (s : State) : Host.Outcome State Fault Refusal := issue o.g (pure .seq) s

/-- BR (04 R67). -/
def execBr (o : OpBr) (s : State) : Host.Outcome State Fault Refusal :=
  issue o.g (do
    let t ← getCur
    transfer (slotAdd t.pc o.n.toNat) (some t.pc)) s

/-- BRX (04 R68): forward targets alone. -/
def execBrx (o : OpA) (s : State) : Host.Outcome State Fault Refusal :=
  issue o.g (do
    let a ← readS o.a
    let t ← getCur
    orTrap (!targetFormFails a) .badTarget a 0
    orTrap (decide (linear t.pc + 1 ≤ linear a) && decide (linear a ≤ linear t.pc + 0x7FFFFFFF))
      .badTarget a 0
    transfer a (some t.pc)) s

/-- CALL and CALLX (04 R69): the return PC, then the transfer; where TXE takes the return PC, the
transfer follows its wait. -/
def callTo (d : Dst) (t : Word) : M Flow := do
  orTrap (!targetFormFails t) .badTarget t 0
  let c ← getCur
  let f ← writeD d (slotAdd c.pc 1)
  match f with
  | .held => holdFor 11 0 (.txeTo t c.pc) false
  | _ => transfer t (some c.pc)

def execCall (o : OpCall) (s : State) : Host.Outcome State Fault Refusal :=
  issue o.g (do
    checkDst o.d
    let c ← getCur
    callTo o.d (slotAdd c.pc o.n.toInt)) s

def execCallx (o : OpDA) (s : State) : Host.Outcome State Fault Refusal :=
  issue o.g (do
    checkDst o.d
    let a ← readS o.a
    callTo o.d a) s

/-- RET (04 R70): no TGT check. -/
def execRet (o : OpA) (s : State) : Host.Outcome State Fault Refusal :=
  issue o.g (do
    let a ← readS o.a
    transfer a none) s

/-! ### Traps (04 R74, R75) -/

/-- TRAP. -/
def execTrap (o : OpAC) (s : State) : Host.Outcome State Fault Refusal :=
  issue o.g (do
    let c ← operandZ o.code
    let a ← readS o.a
    trapW .software c a) s

/-- BKPT: BREAKPOINT to kernel, or a stop where a debugger takes it (14 R276). -/
def execBkpt (o : OpAC) (s : State) : Host.Outcome State Fault Refusal :=
  issue o.g (do
    let c ← operandZ o.code
    let a ← readS o.a
    modS fun s => s.debugCause .breakpoint s.cur.pc (some c) (some a) 0
    pure .trapped) s

/-- ERET (03 R61, 04 R75): a renegotiation point (09 R175). -/
def execEret (o : OpG) (s : State) : Host.Outcome State Fault Refusal :=
  issue o.g (do
    let t ← getCur
    match eretTarget t with
    | none => trapW .privilege 0 0
    | some (pc, t') =>
      orTrap (!targetFormFails pc) .badTarget pc 0
      updCur fun _ => { t' with
        bpAt := none, suppress := if t.bpAt.isSome then (if t.bpAt = some pc then some pc else none) else t.suppress }
      modS fun s => s.renegotiate (some t.trapGrant)
      transfer pc none) s

/-! ### Control registers (03 R54 to R57, Tables 3.3 to 3.8) -/

/-- The trap bank of the current privilege (03 R57). -/
def Thread.bank (t : Thread) : Bank := if t.pl = 0 then t.ubank else t.kbank

/-- SLOT (03 Table 3.5). -/
def Thread.slotWord (t : Thread) : Word :=
  BitVec.ofNat 64 ((match t.life with
    | .running n => n
    | _ => 0) + 16 * t.entry)

/-- The value of an assigned control register. -/
def State.creg (s : State) (n : Nat) : Word :=
  let t := s.cur
  if n = 0x000 then t.index
  else if n = 0x001 then t.famid
  else if n = 0x002 then t.parent
  else if n = 0x003 then lcoreWord s.pkg.num t.core
  else if n = 0x004 then t.slotWord
  else if n = 0x005 then t.prio
  else if n = 0x006 then BitVec.ofNat 64 t.eprio
  else if n = 0x008 then t.status
  else if n = 0x009 then t.bank.cause
  else if n = 0x00A then t.bank.tpc
  else if n = 0x00B then t.bank.info0
  else if n = 0x00C then t.bank.info1
  else if n = 0x00D then t.thand
  else if n = 0x00E then t.tmask
  else if n = 0x010 then t.round
  else if n = 0x011 then t.convcnt
  else if n = 0x012 then t.vgrant
  else if n = 0x013 then BitVec.ofNat 64 t.copyn
  else if n = 0x014 then s.rxqWord t
  else if 0x020 ≤ n && n < 0x024 then s.pkg.feat.toList.getD (n - 0x020) 0
  else if n = 0x030 then BitVec.ofNat 64 (s.core t.core).cycle
  else if 0x040 ≤ n && n < 0x080 then s.debugRead t.core n
  else 0

/-- STATUS after a write (03 Table 3.4): W1C bits; PPL and KINH at kernel alone. -/
def writeStatus (old v : Word) (kernel : Bool) : Word :=
  let w := old &&& ~~~(v &&& 0x1FC0)
  if kernel then (w &&& ~~~0x2C#64) ||| (v &&& 0x2C) else w

def Thread.setTpc (t : Thread) (v : Word) : Thread :=
  if t.pl = 0 then { t with ubank := { t.ubank with tpc := v } }
  else { t with kbank := { t.kbank with tpc := v } }

/-- PRIO after a write (03 Table 3.6): CEIL at kernel alone. -/
def writePrio (t : Thread) (v : Word) : Word :=
  BitVec.ofNat 64 (bits v 2 0 + 16 * (if t.pl = 0 then bits t.prio 6 4 else bits v 6 4))

/-- A control register is written field by field; a write of a read-only one has no effect
(03 R54). -/
def writeCreg (n : Nat) (v : Word) : M Unit := do
  let t ← getCur
  let k := t.pl != 0
  if n = 0x005 then
    if !k && decide (bits t.prio 6 4 < bits v 2 0) then trapW .privilege 0 0
    updCur fun t => { t with prio := writePrio t v }
  else if n = 0x008 then updCur fun t => { t with status := writeStatus t.status v k }
  else if n = 0x00A then updCur fun t => t.setTpc v
  else if n = 0x00D then updCur fun t => { t with thand := v }
  else if n = 0x00E then updCur fun t => { t with tmask := v &&& tmaskWritable }
  else if n = 0x010 then
    if bits v 2 0 ≤ 4 then updCur fun t => { t with round := zext 3 v }
  else if n = 0x011 then updCur fun t => { t with convcnt := v }
  else if n = 0x014 then updCur fun t => { t with rxsel := BitVec.ofNat 2 (bits v 33 32) }
  else if 0x040 ≤ n && n < 0x080 then modS fun s => s.debugWrite s.cur.core n v

/-- MFC. -/
def execMfc (o : OpMfc) (s : State) : Host.Outcome State Fault Refusal :=
  issue o.g (do
    checkDst o.d
    let s ← get
    writeD o.d (s.creg o.n.toNat)) s

/-- MTC. -/
def execMtc (o : OpMtc) (s : State) : Host.Outcome State Fault Refusal :=
  issue o.g (do
    let v ← readS o.a
    writeCreg o.n.toNat v
    pure .seq) s

/-! ### YIELD and CHKPT (04 R77, R78) -/

/-- YIELD: Ready at once, after every thread of its priority (06 R120). -/
def execYieldT (o : OpG) (s : State) : Host.Outcome State Fault Refusal :=
  issue o.g (do
    modS fun s => s.updCur fun t => { t with
      life := .ready, readyAt := readyStamp (s.core t.core).cycle true }
    pure .seq) s

/-- Something that the thread issued is not yet performed, appends apart. -/
def State.ownPending (s : State) (tid : Nat) : Bool :=
  (s.pendingReqs tid).any (fun q => !isAppend q) || s.engineBusy tid

/-- CHKPT. -/
def execChkpt (o : OpC) (s : State) : Host.Outcome State Fault Refusal :=
  issue o.g (do
    let id ← operandZ o.b
    let s ← get
    if s.ownPending s.cur.tid then waitR 4 5
    let ps ← closeAt .dev
    afterPhases ps (.chkpt id) true (do
      acquire
      modS fun s => s.checkpoint id
      pure .seq)) s

/-! ### TRACEW and CNTR (20 R396, R397) -/

/-- TRACEW. -/
def execTracew (o : OpTracew) (s : State) : Host.Outcome State Fault Refusal :=
  issue o.g (do
    let v ← readS o.a
    let b ← operandZ o.b
    modS fun s =>
      let t := s.cur
      if s.traceOn 2 then
        s.emit (coreSrc t.core) 3 [t.pc, t.famid, t.index, o.chan.setWidth 64, v, b]
      else s
    pure .seq) s

/-- CNTR: the bank of the cluster answers with reason 4. -/
def execCntr (o : OpCntr) (s : State) : Host.Outcome State Fault Refusal :=
  issue o.g (do
    checkDst o.d
    let n ← operandZ o.n
    orTrap (decide (n.toNat ≤ 15)) .illegalOperand n 4
    let s ← get
    let cl := clusterOf s.cur.core
    orTrap (s.tableAllows (targetBank cl) (clusterMaster s.cur.core) true o.clr false) .access n
      (boolWord o.clr)
    modS fun s =>
      let v := (s.cluster cl).counts.toList.getD n.toNat 0
      let s := if o.clr then s.modCluster cl fun c => { c with counts := setVec c.counts n.toNat 0 } else s
      s.answer s.cur.tid 0 (.ok v 0) 0 (bankHome cl)
    holdFor 4 0 (.reg o.d) false) s

end Sys2Proof.Machine
end

