-- ==== Sys2Proof/Machine/Copy.lean ====
section
/-! DEFINITION. Copy, sparse and Entrepôt instructions as the thread issues them: shape records,
copy slots and ids, bin sets (13 R251 to R270). -/

namespace Sys2Proof.Machine

/-! ### Shape records (13 R253) -/

/-- The element size of a shape record. -/
def esize (rec : List Word) : Nat := 2 ^ bits (recW rec 3) 33 32

/-- Bytes of an entry of a sparse tile (13 R264). -/
def entryBytes (rec : List Word) : Nat := if esize rec = 4 then 8 else 4

/-- Bytes of n entries, padded to a word. -/
def entriesBytes (rec : List Word) (n : Nat) : Nat := (n * entryBytes rec + 7) / 8 * 8

/-- The number of destination words of a copy. -/
def copyTotal (op : Nat) (rec : List Word) : Nat :=
  if op = 0x88 then bits (recW rec 4) 23 0
  else if op = 0x89 then bits (recW rec 6) 31 16 * (bits (recW rec 6) 15 0 * esize rec / 8)
  else if op = 0x8A then bits (recW rec 6) 23 0 * (bits (recW rec 4) 31 0 / 8)
  else 512 * esize rec

/-- Which words of a shape record fail (13 R253, Tables 13.2 and 13.3). -/
def shapeBad (op : Nat) (rec : List Word) : List Bool :=
  let w := recW rec
  let es := esize rec
  let off (k n : Nat) : Bool := (w k).toNat % n != 0
  let res3 := bits (w 3) 63 34 != 0
  let big := decide (2 ^ 24 ≤ copyTotal op rec)
  let f (k hi lo : Nat) : Nat := bits (w k) hi lo
  if op = 0x88 then
    [off 0 8, off 1 8, off 2 8, res3 || es != 8, f 4 63 24 != 0 || f 4 23 0 == 0, w 5 != 0, w 6 != 0, w 7 != 0]
  else if op = 0x89 then
    [off 0 es, off 1 8, off 2 8, res3, f 4 31 0 == 0 || f 4 63 32 == 0, false,
     f 6 15 0 == 0 || f 6 31 16 == 0 || f 6 63 32 % es != 0 || decide (f 6 63 32 < f 4 31 0 * es) ||
       f 6 15 0 * es % 8 != 0 || big,
     f 7 63 32 != 0 || f 7 31 0 % 8 != 0 || decide (f 7 31 0 < f 6 15 0 * es)]
  else if op = 0x8A then
    [off 0 es, off 1 8, off 2 8, res3,
     decide (f 4 31 0 < 8) || decide (65536 < f 4 31 0) || f 4 31 0 % 8 != 0 || f 4 63 32 == 0, off 5 4,
     f 6 23 0 == 0 || f 6 31 24 != 0 || decide (f 6 63 32 < f 4 31 0) || f 6 63 32 % es != 0 || big,
     f 7 63 32 != 0]
  else
    let pitch := f 6 63 32 != 0 || f 6 31 0 % 8 != 0 || decide (f 6 31 0 < 64 * es)
    if op = 0x8B then
      [f 0 63 56 == 0, off 1 8, off 2 8, res3 || es == 8, off 4 8, f 5 63 44 != 0 || f 5 43 0 % 8 != 0, pitch,
       f 7 63 13 != 0 || decide (4096 < f 7 12 0)]
    else [false, off 1 8, off 2 8, res3 || es == 8, off 4 8, w 5 != 0, pitch, w 7 != 0]

/-- A signed 32-bit field. -/
def sfield (w : Word) (lo : Nat) : Int := sintN 32 (w >>> lo)

/-- Min(Max(v, 0), n − 1) (13 R254). -/
def clampTo (v : Int) (n : Nat) : Nat := min v.toNat (n - 1)

/-- Row and column of the tensor that a COPYT element reads (13 R254). -/
def tensorRow (rec : List Word) (r : Nat) : Nat :=
  clampTo (sfield (recW rec 5) 32 + r) (bits (recW rec 4) 63 32)
def tensorCol (rec : List Word) (c : Nat) : Nat :=
  clampTo (sfield (recW rec 5) 0 + c) (bits (recW rec 4) 31 0)

/-- A list of rows at a pitch. -/
def rowsAt (base : Word) (rows pitch len : Nat) : List (Word × Nat) :=
  (List.range rows).map fun r => (base + BitVec.ofNat 64 (r * pitch), len)

/-- Source ranges of a copy as the record writes them. -/
def copySrcRanges (op : Nat) (rec : List Word) : List (Word × Nat) :=
  let w := recW rec
  let es := esize rec
  if op = 0x88 then [(w 0, 8 * copyTotal op rec)]
  else if op = 0x89 then
    let tw := bits (w 6) 15 0
    let lo := tensorCol rec 0
    let hi := tensorCol rec (tw - 1)
    (List.range (bits (w 6) 31 16)).map fun r =>
      (w 0 + BitVec.ofNat 64 (tensorRow rec r * bits (w 6) 63 32 + lo * es), (hi - lo + 1) * es)
  else if op = 0x8A then
    [(w 0, (bits (w 4) 63 32 - 1) * bits (w 6) 63 32 + bits (w 4) 31 0), (w 5, 4 * bits (w 6) 23 0)]
  else if op = 0x8B then [(w 0, 63 * bits (w 6) 31 0 + 64 * es)]
  else [(w 0, 8)]

/-- Destination ranges of a copy. -/
def copyDstRanges (op : Nat) (rec : List Word) : List (Word × Nat) :=
  let w := recW rec
  if op = 0x88 then [(w 1, 8 * copyTotal op rec)]
  else if op = 0x89 then rowsAt (w 1) (bits (w 6) 31 16) (bits (w 7) 31 0) (bits (w 6) 15 0 * esize rec)
  else if op = 0x8A then rowsAt (w 1) (bits (w 6) 23 0) (bits (w 7) 31 0) (bits (w 4) 31 0)
  else if op = 0x8B then
    [(w 1, 8), (w 4 + BitVec.ofNat 64 (bits (w 5) 43 0), entriesBytes rec (bits (w 7) 12 0))]
  else rowsAt (w 1) 64 (bits (w 6) 31 0) (64 * esize rec)

/-- What UNPACK may read of its entry area, whose place the directory word gives. -/
def unpackArea (op : Nat) (rec : List Word) : List (Word × Nat) :=
  if op = 0x8C then
    let e := recW rec 4
    [(e, if bits e 63 56 = 0 then 2 ^ 44 + 2 ^ 15 else 0x40000 - bits e 17 0)]
  else []

/-- Ranges of two lists share a line, as written (13 R255). -/
def listsMeet (a b : List (Word × Nat)) : Bool :=
  a.any fun (x, n) => b.any fun (y, m) => linesMeet x.toNat n y.toNat m

/-- A range decodes: device memory, or within one scratchpad's range (13 R255). -/
def State.rangeFails (s : State) (core : Nat) (app : Bool) (lim : Nat) (a : Word) (n : Nat) : Option Cause :=
  if n = 0 then none
  else match s.decodeAddr core app a with
    | .dev => none
    | .own off => if off + n ≤ lim then none else some .access
    | .cluster _ off => if off + n ≤ lim then none else some .access
    | .bad c => some c

/-- The first range of a list that fails. -/
def checkRanges (lim : Nat) (kind : Word) (l : List (Word × Nat)) : M Unit := fun s =>
  match firstSome (fun (a, n) => (s.rangeFails s.cur.core (s.cur.pl == 0) lim a n).map fun c => (a, c)) l with
  | some (a, c) => .error (.trap c (some a) (some kind) s)
  | none => .ok ((), s)

/-! ### Copy slots and ids (13 R252) -/

/-- The slot that a copy takes: the lowest unused one, else the free one whose copy completed first, of those
that no pair keeps (02 R38). -/
def freeCopySlot (l : List (Nat × CopySlot)) (kept : List Nat) : Option Nat :=
  match (List.range 64).find? fun i => (tabGet l i).isNone && !kept.contains i with
  | some i => some i
  | none => (leastBy (fun p => p.2.done) (l.filter fun p => !p.2.busy && !kept.contains p.1)).map (·.1)

/-- A copy id. -/
def copyId (slot : Nat) (g : BitVec 24) : Word := BitVec.ofNat 64 (slot + 2 ^ 8 * g.toNat)

/-- The slot of the issuing thread's copy: the one kept for it as the second of a pair (02 R38), else a free
one. -/
def State.copySlotFor (s : State) : Option Nat :=
  match s.cur.copyRes with
  | some i => some i
  | none => freeCopySlot (s.core s.cur.core).copies ((s.onCore s.cur.core).filterMap (·.copyRes))

/-- A copy with its record is checked and issued (13 R255). -/
def copyWith (op : Nat) (d : Dst) (r : Word) (rec : List Word) : M Flow := do
  checkDst d
  match (shapeBad op rec).findIdx? id with
  | some k => trapW .copyShape r (BitVec.ofNat 64 k)
  | none => pure ()
  let t ← getCur
  let lim := if t.pl == 0 then 0x3C000 else 0x40000
  let src := copySrcRanges op rec
  let dst := copyDstRanges op rec
  checkRanges (if op = 0x8B then 0x3C000 else lim) 0 src
  if op = 0x8C then checkRanges lim 0 [(recW rec 4, 1)]
  checkRanges lim 1 (dst ++ (if recW rec 2 = 0 then [] else [(recW rec 2, 8)]))
  if listsMeet src dst then trapW .copyShape r 8
  let s ← get
  match s.copySlotFor with
  | none => waitR 9 0
  | some i =>
    let old := tabGet (s.core t.core).copies i
    let g := nextGen ((old.map (·.gen)).getD 0)
    let id := copyId i g
    let vk (l : List (Word × Nat)) : List (Nat × Nat) := l.map fun (a, n) => (vkey t.core a, n)
    modS fun s =>
      let s := s.modCore t.core fun x => { x with copies := tabSet x.copies i ⟨g, 0, true, 0, t.tid⟩ }
      s.queueEngine (.copy op i id rec) (vk (src ++ unpackArea op rec)) (vk dst)
    updCur fun t => { t with copyn := t.copyn + 1, copyRes := none }
    writeD d id

/-- An instruction that issues a copy: its record is read once, within the turn from the own
window, else with reason 4. -/
def copyIssue (o : OpDM) (op : Nat) (s : State) : Host.Outcome State Fault Refusal :=
  issue o.g (do
    checkDst o.d
    let r ← memAddr o.m
    orTrap (r.toNat % 64 == 0) .misaligned r 0
    match ← ownRecord r 8 64 with
    | some rec => copyWith op o.d r rec
    | none => readRecord r 8 64 (.copyRec op o.d r)) s

def execCopy (o : OpDM) (s : State) := copyIssue o 0x88 s
def execCopyt (o : OpDM) (s : State) := copyIssue o 0x89 s
def execGath (o : OpDM) (s : State) := copyIssue o 0x8A s
def execPack (o : OpDM) (s : State) := copyIssue o 0x8B s
def execUnpack (o : OpDM) (s : State) := copyIssue o 0x8C s

/-- The slot that a copy id names on the core of the issuing thread, if its GEN matches. -/
def copySlot (v : Word) : M (Option CopySlot) := do
  orTrap (bits v 7 6 == 0 && bits v 63 32 == 0) .copyId v 0
  let s ← get
  pure (match tabGet (s.core s.cur.core).copies (bits v 5 0) with
    | some c => if c.gen.toNat = bits v 31 8 then some c else none
    | none => none)

/-- The cookie of a copy in flight. -/
def State.cookieOf (s : State) (core : Nat) (v : Word) : Nat :=
  (firstSome (fun e => match e.kind with
    | .copy _ _ id rec => if e.core = core ∧ id = v then some (bits (recW rec 3) 31 0) else none
    | _ => none) s.engines).getD 0

/-- CSTAT. -/
def execCstat (o : OpDA) (s : State) : Host.Outcome State Fault Refusal :=
  issue o.g (do
    checkDst o.d
    let v ← readS o.a
    match ← copySlot v with
    | none => writeD o.d (BitVec.ofNat 64 (15 * 2 ^ 32))
    | some c =>
      let s ← get
      if c.busy then writeD o.d (BitVec.ofNat 64 (s.cookieOf s.cur.core v + 14 * 2 ^ 32))
      else writeD o.d c.status) s

/-! ### The Entrepôt (13 R267 to R270) -/

/-- Which words of a bin-set record are invalid (13 Table 13.7). -/
def binBad (rec : List Word) : List Bool :=
  let w := recW rec
  [(w 0).toNat % 2 ^ binRlog rec != 0, (w 1).toNat % 64 != 0,
   bits (w 2) 7 5 != 0 || bits (w 2) 15 13 != 0 || bits (w 2) 63 29 != 0 || decide (binFmt rec < 2) ||
     decide (4 < binFmt rec) || decide (binRlog rec < 12) || decide (21 < binRlog rec) ||
     decide (binRegs rec < 1) || decide (4096 < binRegs rec),
   bits (w 3) 63 40 != 0 || binSize rec % 64 != 0 || decide (binSize rec < 64 * binRegs rec),
   w 4 != 0, w 5 != 0, w 6 != 0, w 7 != 0]

/-- EBIN with its record read (13 R268): its ranges lie in the device memory of the package, as addresses and as
they are mapped. -/
def binWith (d : Dst) (r : Word) (rec : List Word) : M Flow := do
  checkDst d
  match (binBad rec).findIdx? id with
  | some k => trapW .copyShape r (BitVec.ofNat 64 k)
  | none => pure ()
  let s ← get
  let t := s.cur
  let inDev (a : Word) (n : Nat) : Bool :=
    decide (a.toNat + n ≤ 2 ^ 56) && !s.mappedOutside (clusterOf t.core) t.launch a.toNat n
  orTrap (inDev (recW rec 0) (binRegs rec * 2 ^ binRlog rec) && inDev (recW rec 1) (binSize rec))
    .entrState r 2
  let die := dieOf t.core
  match (List.range 64).find? fun i => match tabGet s.bins (die * 64 + i) with
      | some b => !b.live
      | none => true with
  | none => trapW .entrState r 3
  | some i =>
    let old := tabGet s.bins (die * 64 + i)
    let g := nextGen ((old.map (·.gen)).getD 0)
    modS fun s => { s with bins := tabSet s.bins (die * 64 + i) {
      gen := g, live := true, launch := t.launch, asid := s.asidOf t.launch, desc := rec, recs := []
      dropped := 0, app := t.pl == 0, core := t.core, runner := none, runFam := 0, runWho := 0, runIvl := 0, runFree := false, reserved := none, paused := false
      skips := [] } }
    writeD d (binHandle die i g)

/-- EBIN. -/
def execEbin (o : OpDM) (s : State) : Host.Outcome State Fault Refusal :=
  issue o.g (do
    checkDst o.d
    let r ← memAddr o.m
    orTrap (r.toNat % 64 == 0) .misaligned r 0
    match ← ownRecord r 8 64 with
    | some rec => binWith o.d r rec
    | none => readRecord r 8 64 (.ebinRec o.d r)) s

/-- EAPP: a posted operation at device scope, which needs room in the requests channel (07 R137). -/
def execEapp (o : OpEapp) (s : State) : Host.Outcome State Fault Refusal :=
  issue o.g (do
    let h ← readS o.a
    let i ← operandZ o.b
    let v ← readS o.c
    channelFree .requests
    let s ← get
    postReq (s.request ⟨0x8E, h, 8, accWrite, .dev, .append h ⟨i.toNat, v, o.op⟩, false, false⟩
      (entrLoc (bits h 7 6)) true false 0 [])
    pure .seq) s

/-- Another EREPL runs on the set, or the set is kept for another that is due (13 R270, 02 R38). -/
def BinSet.taken (b : BinSet) (tid : Nat) : Bool :=
  b.runner.isSome || (match b.reserved with
    | some t => t != tid
    | none => false)

/-- EREPL once its release phases have completed (13 R270); its hold edge on the set comes with it (17 R327). -/
def replayNow (d : Dst) (h : Word) (free : Bool) : M Flow := do
  let s ← get
  match s.binSet? h with
  | none => trapW .entrState h 1
  | some (k, b) =>
    if b.taken s.cur.tid then waitR 12 (binObject k)
    else
      modS fun s => { s with bins := tabSet s.bins k { b with
        runner := some s.cur.tid, runFam := s.cur.fam, runWho := s.cur.whoWord, runIvl := s.cur.ivl, runFree := free, reserved := none, app := s.cur.pl == 0
        core := s.cur.core, skips := [] } }
      holdNow s (binObject k)
      holdFor 8 0 (.erepl d h free) false

/-- EREPL. -/
def execErepl (o : OpErepl) (s : State) : Host.Outcome State Fault Refusal :=
  issue o.g (do
    checkDst o.d
    let h ← readS o.a
    let s ← get
    orTrap (s.binSet? h).isSome .entrState h 1
    let ps ← closeAt .dev
    afterPhases ps (.erepl o.d h o.free) false (replayNow o.d h o.free)) s

end Sys2Proof.Machine
end

