-- ==== Sys2Proof/Machine/Reduce.lean ====
section
/-! DEFINITION. The reduction group as the thread issues it (16 R321 to R325). -/

namespace Sys2Proof.Machine

/-- The fields of a group record that R322 checks. -/
def groupBad (rec : List Word) : Bool :=
  let c := recW rec 1
  (recW rec 0).toNat % 64 != 0 || redCount c == 0 || (bits c 27 24 != 3 && bits c 27 24 != 4) || redOp c == 3 ||
    (redUns c && redFlt c) || c.getLsbD 31 || bits c 63 35 != 0 ||
    ((List.range 6).any fun j => recW rec (j + 2) != 0)

/-- NGRP with its record read: its root is the home of RADDR. -/
def groupWith (d : Dst) (r : Word) (sys : Bool) (rec : List Word) : M Flow := do
  checkDst d
  let ra := recW rec 0
  orTrap (!groupBad rec && bits ra 63 56 == 0) .reductionState r 2
  let pa ← translate ra accTag 0
  let s ← get
  orTrap ((paPackage pa == s.pkg.num || (sys && decide (paPackage pa < s.npkg))) && !mgmtPage pa) .reductionState r 2
  launchReq (s.request ⟨0xF0, r, 8, accTag, .dev, .ngrp (recW rec 1) pa sys, false, false⟩
    (s.rootLoc pa) false false 0 [])
  holdFor 4 0 (.reg d) false

/-- NGRP. -/
def execNgrp (o : OpDMS) (s : State) : Host.Outcome State Fault Refusal :=
  issue o.g (do
    checkDst o.d
    let r ← memAddr o.m
    orTrap (r.toNat % 64 == 0) .misaligned r 0
    match ← ownRecord r 8 64 with
    | some rec => groupWith o.d r (o.scope == .sys) rec
    | none => readRecord r 8 64 (.ngrpRec o.d r (o.scope == .sys))) s

/-- The value of a contribution: a register, or the literal, as raw bits for an FP32 group and
sign-extended for an I64 one; the low half is the same. A contribution to a handle that is not live here leaves as
raw bits, and its root forms the value (16 R323). -/
def execNred (o : OpNred) (s : State) : Host.Outcome State Fault Refusal :=
  issue o.g (do
    let h ← readS o.a
    let v ← operandS o.y
    let t ← readS o.c
    channelFree .reductions
    modS fun s =>
      let g := s.group? h s.cur.launch
      let cfg := match g with
        | some (_, g) => g.cfg
        | none => 0
      { s with partials := s.partials ++ [{
          handle := h, elem := o.elem.toNat, round := bits t 7 0, acc := redOne cfg v
          who := [(s.cur.tid, s.cur.launch, positionWord s.pkg.num s.cur.core s.cur.entry)], valid := g.isSome
          src := s.cur.core, more := [] }] }
    pure .seq) s

/-- An operation of a thread at the root of a group. -/
def groupAsk (opc : Nat) (d : Dst) (h : Word) (op : HomeOp) : M Flow := do
  let s ← get
  launchReq (s.request ⟨opc, h, 8, accTag, .dev, op, false, false⟩ (s.rootOf h s.cur.launch) false false 0 [])
  holdFor 4 0 (.reg d) false

/-- NREDI. -/
def execNredi (o : OpNredi) (s : State) : Host.Outcome State Fault Refusal :=
  issue o.g (do
    checkDst o.d
    let h ← readS o.a
    let t ← operandZ o.t
    groupAsk 0xF2 o.d h (.nredi h o.elem.toNat (bits t 7 0))) s

/-- NFREE. -/
def execNfree (o : OpDA) (s : State) : Host.Outcome State Fault Refusal :=
  issue o.g (do
    checkDst o.d
    let h ← readS o.a
    groupAsk 0xF3 o.d h (.nfree h)) s

end Sys2Proof.Machine
end

