-- ==== Sys2Proof/Machine/Special.lean ====
section
/-! DEFINITION. The special functions (09 R200): each value is computed to so many bits that its
rounding is decided, by integer arithmetic with a bound on the error. -/

namespace Sys2Proof.Config

/-- The digits of a special function where 256 of them do not decide its rounding: by the spec's
R200 they are some number; no operand of 32 bits is known to need them (log 17). -/
opaque farDigits : Nat → Nat

end Sys2Proof.Config

namespace Sys2Proof.Machine

/-- Fixed-point precision in bits. -/
def fxBits : Nat := 320

def fxOne : Nat := 2 ^ fxBits

/-- Bits dropped from a fixed-point result: its error is below 2^40 units. -/
def fxGuard : Nat := 48

/-- floor(√n) by bits from `b` down. -/
def isqrtF (n r b : Nat) : Nat :=
  match b with
  | 0 => if (r + 1) * (r + 1) ≤ n then r + 1 else r
  | j + 1 => isqrtF n (if (r + 2 ^ (j + 1)) * (r + 2 ^ (j + 1)) ≤ n then r + 2 ^ (j + 1) else r) j

/-- floor(√n). -/
def isqrt (n : Nat) : Nat := isqrtF n 0 (bitLen n / 2 + 1)

/-- Σ z^(2i+1) / (2i+1) from term `i` on, in fixed point: atanh z for z ≤ 1/3. -/
def atanhF (zp z2 i fuel : Nat) : Nat :=
  match fuel with
  | 0 => 0
  | j + 1 => zp / (2 * i + 1) + atanhF (zp * z2 / fxOne) z2 (i + 1) j

def fxAtanh (z : Nat) : Nat := atanhF z (z * z / fxOne) 0 110

/-- ln 2 in fixed point: 2 atanh(1/3). -/
def fxLn2 : Nat := 2 * fxAtanh (fxOne / 3)

/-- Σ y^i / i! from term `i` on, in fixed point, for y < 1. -/
def expF (term y i fuel : Nat) : Nat :=
  match fuel with
  | 0 => 0
  | j + 1 => term + expF (term * y / fxOne / (i + 1)) y (i + 1) j

/-- e^y in fixed point for 0 ≤ y < 1. -/
def fxExp (y : Nat) : Nat := expF fxOne y 0 90

/-- A positive value near `x` × 2^e, from a fixed-point `x`: its leading digits with the rest
undecided; `fuel` words of a choice where the error reaches them. -/
def fxVal (neg : Bool) (x : Nat) (e : Int) : FVal :=
  let lo := (x - 2 ^ 40) / 2 ^ fxGuard
  let hi := (x + 2 ^ 40) / 2 ^ fxGuard
  let m := if lo = hi then lo else lo + Config.farDigits x % 2
  .num neg m (e + fxGuard) true

/-- A value of magnitude below every format's least, not 0. -/
def fxTiny (neg : Bool) : FVal := .num neg (2 ^ 64) (-100064) true

/-- A value of magnitude above every format's greatest. -/
def fxHuge (neg : Bool) : FVal := .num neg (2 ^ 64) 100000 true

/-- |v| of ±m × 2^e in fixed point, its low digits cut. -/
def fxOf (m : Nat) (e : Int) : Nat :=
  let k := e + fxBits
  if 0 ≤ k then m * 2 ^ k.toNat else m / 2 ^ (-k).toNat

/-- e^(-y) for y ≥ 0 in fixed point, as Q × 2^-n with Q in (1/2, 1]. -/
def fxExpNeg (y : Nat) : Nat × Nat :=
  let n := y / fxLn2
  (fxOne * fxOne / fxExp (y % fxLn2), n)

/-- 2^v (09 R200). -/
def exp2Val (neg : Bool) (m : Nat) (e : Int) : FVal :=
  if 12 < topExp m e then (if neg then fxTiny false else fxHuge false)
  else if 0 ≤ e then
    let i : Int := (m * 2 ^ e.toNat : Nat)
    .num false 1 (if neg then -i else i) false
  else
    let s := (-e).toNat
    if m % 2 ^ s = 0 then .num false 1 (if neg then -(m / 2 ^ s : Nat) else (m / 2 ^ s : Nat)) false
    else
      let i : Int := if neg then -(m / 2 ^ s : Nat) - 1 else (m / 2 ^ s : Nat)
      let f := if neg then fxOne - fxOf (m % 2 ^ s) e else fxOf (m % 2 ^ s) e
      fxVal false (fxExp (f * fxLn2 / fxOne)) (i - fxBits)

/-- log2 v for v > 0 (09 R200). -/
def log2Val (m : Nat) (e : Int) : FVal :=
  let ev := topExp m e
  if m = 2 ^ (bitLen m - 1) then ofScaled ev 0
  else
    let x := m * fxOne / 2 ^ (bitLen m - 1)
    let z := (x - fxOne) * fxOne / (x + fxOne)
    let l := 2 * fxAtanh z * fxOne / fxLn2
    let v : Int := ev * fxOne + l
    fxVal (v < 0) v.natAbs (-fxBits)

/-- 1 / v (09 R200). -/
def rcpVal (neg : Bool) (m : Nat) (e : Int) : FVal :=
  .num neg (2 ^ 200 / m) (-200 - e) (2 ^ 200 % m != 0)

/-- √v for v > 0 (09 R200). -/
def sqrtVal (m : Nat) (e : Int) : FVal :=
  let (m, e) := if e % 2 = 0 then (m, e) else (2 * m, e - 1)
  let n := m * 2 ^ 200
  let r := isqrt n
  .num false r (e / 2 - 100) (r * r != n)

/-- 1 / √v for v > 0 (09 R200). -/
def rsqVal (m : Nat) (e : Int) : FVal :=
  let (m, e) := if e % 2 = 0 then (m, e) else (2 * m, e - 1)
  let n := 2 ^ 400 / m
  let r := isqrt n
  .num false r (-(e / 2) - 200) (r * r != n || 2 ^ 400 % m != 0)

/-- tanh v (09 R200). -/
def tanhVal (neg : Bool) (m : Nat) (e : Int) : FVal :=
  let t := topExp m e
  if t < -60 then .num neg (m * 2 ^ 200 - 1) (e - 200) true
  else if 7 ≤ t then .num neg (2 ^ 200 - 1) (-200) true
  else
    let (q, n) := fxExpNeg (2 * fxOf m e)
    let q := q / 2 ^ n
    if 250 < n then .num neg (2 ^ 200 - 1) (-200) true
    else fxVal neg ((fxOne - q) * fxOne / (fxOne + q)) (-fxBits)

/-- 1 / (1 + e^-v) (09 R200). -/
def sigmVal (neg : Bool) (m : Nat) (e : Int) : FVal :=
  let t := topExp m e
  if 12 ≤ t then (if neg then fxTiny false else .num false (2 ^ 200 - 1) (-200) true)
  else
    let (q, n) := fxExpNeg (fxOf m e)
    if neg then fxVal false (q * fxOne / (fxOne + q / 2 ^ n)) (-fxBits - n)
    else if 250 < n then .num false (2 ^ 200 - 1) (-200) true
    else fxVal false (fxOne * fxOne / (fxOne + q / 2 ^ n)) (-fxBits)

/-- The special functions. -/
inductive SpecFn where
  | exp2 | log2 | rcp | rsq | sqrt | tanh | sigm
  deriving DecidableEq, Repr

/-- A special function of a value, with the flags of its special operands (09 Table 9.7). -/
def specVal (f : SpecFn) (x : FVal) : FVal × Word :=
  match f, x with
  | _, .nan s => (.nan false, if s then flagNV else 0)
  | .exp2, .inf s => (if s then .zero false else .inf false, 0)
  | .exp2, .zero _ => (.num false 1 0 false, 0)
  | .exp2, .num s m e _ => (exp2Val s m e, 0)
  | .log2, .zero _ => (.inf true, flagDZ)
  | .log2, .inf s => (if s then .nan false else .inf false, if s then flagNV else 0)
  | .log2, .num s m e _ => if s then (.nan false, flagNV) else (log2Val m e, 0)
  | .rcp, .zero s => (.inf s, flagDZ)
  | .rcp, .inf s => (.zero s, 0)
  | .rcp, .num s m e _ => (rcpVal s m e, 0)
  | .rsq, .zero s => (.inf s, flagDZ)
  | .rsq, .inf s => (if s then .nan false else .zero false, if s then flagNV else 0)
  | .rsq, .num s m e _ => if s then (.nan false, flagNV) else (rsqVal m e, 0)
  | .sqrt, .zero s => (.zero s, 0)
  | .sqrt, .inf s => (if s then .nan false else .inf false, if s then flagNV else 0)
  | .sqrt, .num s m e _ => if s then (.nan false, flagNV) else (sqrtVal m e, 0)
  | .tanh, .zero s => (.zero s, 0)
  | .tanh, .inf s => (.num s 1 0 false, 0)
  | .tanh, .num s m e _ => (tanhVal s m e, 0)
  | .sigm, .zero _ => (.num false 1 (-1) false, 0)
  | .sigm, .inf s => (if s then .zero false else .num false 1 0 false, 0)
  | .sigm, .num s m e _ => (sigmVal s m e, 0)

end Sys2Proof.Machine
end

