-- ==== Sys2Proof/Machine/Fp.lean ====
section
/-! DEFINITION. Scalar FP32 instructions and conversions (04 R89 to R95). -/

namespace Sys2Proof.Machine

/-- An FP32 operand: bits [31:0] of a register, or the literal as raw bits (04 R89). -/
def fpOperand (b : SrcC) : M Nat := do
  let w ← operandZ b
  pure (w.toNat % 2 ^ 32)

/-- The value of FP32 bits. -/
def fp32Val (x : Nat) : FVal := decodeFlt fp32 x

/-- A converting instruction writes its rounded result: DST, flags, CONVCNT, which a trap leaves as it was
(08 R169). -/
def writeConv (d : Dst) (r : Rounded) : M Flow := writeRes d (BitVec.ofNat 64 r.bits) r.flags true

/-- FADD, FSUB, FMUL (04 R91). -/
def fpArith (o : OpFp2) (f : RCtx → FVal → FVal → FVal × Word) (s : State) :
    Host.Outcome State Fault Refusal :=
  issue o.g (do
    checkDst o.d
    let a ← readS o.a
    let b ← fpOperand o.b
    let c := s.rctx o.rnd o.ovf 0
    writeConv o.d (roundRes (.flt fp32) c (f c (fp32Val (a.toNat % 2 ^ 32)) (fp32Val b)))) s

def execFadd (o : OpFp2) (s : State) := fpArith o addVal s
def execFsub (o : OpFp2) (s : State) := fpArith o (fun c x y => addVal c x y.negate) s
def execFmul (o : OpFp2) (s : State) := fpArith o (fun _ x y => mulVal x y) s

/-- FMIN, FMAX (04 R91). -/
def fpMinMax (o : OpFpMin) (max : Bool) (s : State) : Host.Outcome State Fault Refusal :=
  issue o.g (do
    checkDst o.d
    let a ← readS o.a
    let b ← fpOperand o.b
    let r := minmaxVal (.flt fp32) max (a.toNat % 2 ^ 32) b
    writeRes o.d (BitVec.ofNat 64 r.bits) r.flags false) s

def execFmin (o : OpFpMin) (s : State) := fpMinMax o false s
def execFmax (o : OpFpMin) (s : State) := fpMinMax o true s

/-- FFMA (04 R92). -/
def execFfma (o : OpFp3) (s : State) : Host.Outcome State Fault Refusal :=
  issue o.g (do
    checkDst o.d
    let a ← readS o.a
    let b ← fpOperand o.b
    let z ← readS o.c
    let c := s.rctx o.rnd o.ovf 0
    writeConv o.d (roundRes (.flt fp32) c
      (fmaVal c (fp32Val (a.toNat % 2 ^ 32)) (fp32Val b) (fp32Val (z.toNat % 2 ^ 32))))) s

/-- FCMP (04 R93). -/
def execFcmp (o : OpFcmp) (s : State) : Host.Outcome State Fault Refusal :=
  issue o.g (do
    let t ← getCur
    let a ← readS o.a
    let b ← fpOperand o.b
    let r := fcond o.cond (fp32Val (a.toNat % 2 ^ 32)) (fp32Val b)
    raiseFlags r.2
    writeP o.pd (combine o.cmb (t.pred o.pd) r.1)
    pure .seq) s

/-- FCVT (04 R94). -/
def execFcvt (o : OpFcvt) (s : State) : Host.Outcome State Fault Refusal :=
  issue o.g (do
    checkDst o.d
    let a ← readS o.a
    writeConv o.d (convert (fmtElem o.fmt2) (fmtElem o.fmt) false (s.rctx o.rnd o.ovf 0)
      (a.toNat % 2 ^ (fmtElem o.fmt2).width))) s

/-- ICVT (04 R95). -/
def execIcvt (o : OpIcvt) (s : State) : Host.Outcome State Fault Refusal :=
  issue o.g (do
    checkDst o.d
    let a ← readS o.a
    writeConv o.d (convert (fmtElem o.fmt2) (fmtElem o.fmt) o.uns (s.rctx o.rnd false 0)
      (a.toNat % 2 ^ (fmtElem o.fmt2).width))) s

end Sys2Proof.Machine
end

