-- ==== Sys2Proof/Machine/VecOps.lean ====
section
/-! DEFINITION. Vector elements, lanes and masks (09 R179 to R184, R191 to R201): the operations
that vector meanings share. -/

namespace Sys2Proof.Machine

/-! ### Elements (09 R179) -/

/-- Width of an element in a lane: T6 elements occupy 8 bits. -/
def laneWidth (f : Fmt) : Nat :=
  match f with
  | .t6 => 8
  | f => (fmtElem f).width

def isIntFmt (f : Fmt) : Bool :=
  match f with
  | .i8 => true
  | .i16 => true
  | .i32 => true
  | .i64 => true
  | _ => false

/-- Element j of a register, of width w. -/
def elemOf (r : List Word) (w j : Nat) : Nat :=
  (r.getD (j / (64 / w)) 0).toNat / 2 ^ (w * (j % (64 / w))) % 2 ^ w

/-- Lanes from elements in ordinal order. -/
def packLanes (w g : Nat) (l : List Nat) : List Word :=
  let p := 64 / w
  (List.range g).map fun i =>
    BitVec.ofNat 64 ((List.range p).foldl (fun n k => n + l.getD (i * p + k) 0 % 2 ^ w * 2 ^ (w * k)) 0)

def Claim.count (c : Claim) (w : Nat) : Nat := c.grant * (64 / w)

/-- The elements of a register. -/
def Claim.elems (c : Claim) (r : List Word) (w : Nat) : List Nat := (List.range (c.count w)).map (elemOf r w)

def Claim.vreg (c : Claim) (n : VNo) : List Word := c.v[n]
def Claim.kreg (c : Claim) (n : KNo) : List Byte := c.k[n]

/-! ### Masks (09 R179, R180) -/

/-- Bit M(j) of a mask for elements of width w. -/
def maskBit (k : List Byte) (w j : Nat) : Bool :=
  (k.getD (j / (64 / w)) 0).getLsbD (j % (64 / w))

/-- Element j is active. -/
def Claim.active (c : Claim) (m : Option KNo) (w j : Nat) : Bool :=
  match m with
  | none => true
  | some k => maskBit (c.kreg k) w j

def maskOf (m : Option VMask) : Option KNo := m.map (·.km)
def zeroing (m : Option VMask) : Bool :=
  match m with
  | some m => m.mz
  | none => false

/-- A mask register from bits in ordinal order; bits of no element are 0. -/
def packMask (w g : Nat) (l : List Bool) : List Byte :=
  let p := 64 / w
  (List.range g).map fun i =>
    BitVec.ofNat 8 ((List.range p).foldl (fun n k => n + (if l.getD (i * p + k) false then 2 ^ k else 0)) 0)

/-- Results of the active elements over the old ones, with the OR of their flags. -/
def Claim.merge (c : Claim) (old : List Word) (w : Nat) (m : Option VMask) (f : Nat → Rounded) :
    List Word × Word :=
  let rs := (List.range (c.count w)).map fun j =>
    if c.active (maskOf m) w j then f j else if zeroing m then ⟨0, 0⟩ else ⟨elemOf old w j, 0⟩
  (packLanes w c.grant (rs.map (·.bits)), rs.foldl (fun x r => x ||| r.flags) 0)

/-! ### The claim of the issuing thread (09 R184) -/

def getClaim : M Claim := fun s =>
  match s.cur.claim with
  | some c => if c.grant = 0 then .error (.trap .noClaim (some 0) (some 0) s) else .ok (c, s)
  | none => .error (.trap .noClaim (some 0) (some 0) s)

def setV (n : VNo) (r : List Word) : M Unit := updCur fun t => { t with
  claim := t.claim.map fun c => { c with v := c.v.set n.val r } }

def setK (n : KNo) (r : List Byte) : M Unit := updCur fun t => { t with
  claim := t.claim.map fun c => { c with k := c.k.set n.val r } }

/-! ### Operands (09 R183) -/

/-- A literal as an element: its low bits, or extended to 64. -/
def litElem (v : BitVec 32) (w : Nat) (uns : Bool) : Nat :=
  if w = 64 then (if uns then v.toNat else (v.signExtend 64).toNat) else v.toNat % 2 ^ w

/-- Element j of the y operand. -/
def Claim.src (c : Claim) (y : VSrc) (w : Nat) (uns : Bool) (j : Nat) : Nat :=
  match y with
  | .v r => elemOf (c.vreg r) w j
  | .lit v => litElem v w uns

/-- A value operand (09 R183). -/
def readVal (v : VVal) (w : Nat) : M Nat :=
  match v with
  | .scalar r => do
    let x ← readS r
    pure (x.toNat % 2 ^ w)
  | .lit v => pure (litElem v w false)

/-! ### Shared forms -/

/-- A vector destination from active elements; converting instructions advance CONVCNT. -/
def vecOp (g : Guard) (vd : VNo) (w : Nat) (m : Option VMask) (conv : Bool)
    (f : State → Claim → Nat → Rounded) (s : State) : Host.Outcome State Fault Refusal :=
  issue g (do
    let c ← getClaim
    let s ← get
    let (r, fl) := c.merge (c.vreg vd) w m (f s c)
    raiseFlags fl
    setV vd r
    if conv then countConv
    pure .seq) s

/-- Integer arithmetic on elements: exact, then wrapped or clamped (09 R193). -/
def intElem (w : Nat) (uns ovf : Bool) (v : Int) : Rounded :=
  let (lo, hi) := intRange w uns
  let (y, c) := if ovf then (v, false) else clamp v lo hi
  ⟨(BitVec.ofInt 64 y).toNat % 2 ^ w, if c then flagOF else 0⟩

def intVal (w : Nat) (uns : Bool) (x : Nat) : Int := intOf w uns (BitVec.ofNat 64 x)

/-- Floating or integer element functions (09 Table 9.6). -/
inductive VFn where
  | add | sub | mul | min | max | and | or | xor | shl | shr | sar
  deriving DecidableEq, Repr

def intFn (f : VFn) (w : Nat) (uns ovf : Bool) (x y : Nat) : Rounded :=
  let a := intVal w uns x
  let b := intVal w uns y
  match f with
  | .add => intElem w uns ovf (a + b)
  | .sub => intElem w uns ovf (a - b)
  | .mul => intElem w uns ovf (a * b)
  | .min => ⟨if a ≤ b then x else y, 0⟩
  | .max => ⟨if b ≤ a then x else y, 0⟩
  | .and => ⟨x &&& y, 0⟩
  | .or => ⟨x ||| y, 0⟩
  | .xor => ⟨x ^^^ y, 0⟩
  | .shl => ⟨x * 2 ^ (y % w) % 2 ^ w, 0⟩
  | .shr => ⟨x / 2 ^ (y % w), 0⟩
  | .sar => ⟨(BitVec.ofInt 64 (intVal w false x / 2 ^ (y % w))).toNat % 2 ^ w, 0⟩

def fltFn (f : VFn) (e : NFmt) (c : RCtx) (x y : Nat) : Rounded :=
  let a := decodeElem e false x
  let b := decodeElem e false y
  match f with
  | .add => roundRes e c (addVal c a b)
  | .sub => roundRes e c (addVal c a b.negate)
  | .mul => roundRes e c (mulVal a b)
  | .min => minmaxVal e false x y
  | .max => minmaxVal e true x y
  | _ => ⟨x, 0⟩

/-- VADD to VSAR but VFMA and VABS. -/
def vecAlu (o : OpVAlu) (f : VFn) (conv : Bool) (s : State) : Host.Outcome State Fault Refusal :=
  let w := laneWidth o.fmt
  vecOp o.g o.vd w o.mask (conv && !isIntFmt o.fmt) (fun s c j =>
    let x := elemOf (c.vreg o.va) w j
    let y := c.src o.y w o.uns j
    if isIntFmt o.fmt then intFn f w o.uns o.ovf x y
    else fltFn f (fmtElem o.fmt) (s.rctx o.rnd o.ovf j) x y) s

/-! ### Comparison (09 R194) -/

def fcondOf (n : Nat) : FCond :=
  match n with
  | 0 => .eq | 1 => .ne | 2 => .lt | 3 => .le | 4 => .gt | 5 => .ge | 6 => .un | _ => .ord

/-- Table 4.9 on elements, with UNS selecting the unsigned conditions. -/
def icondElem (n : Nat) (w : Nat) (uns : Bool) (x y : Nat) : Bool :=
  let u := uns || decide (6 ≤ n)
  let a := intVal w u x
  let b := intVal w u y
  match (if n < 6 then n else n - 4) with
  | 0 => x == y
  | 1 => x != y
  | 2 => decide (a < b)
  | 3 => decide (a ≤ b)
  | 4 => decide (b < a)
  | _ => decide (b ≤ a)

/-! ### Exact sums (09 R199) -/

/-- The zero of an exact sum. -/
def zeroOf (mode : Rnd) (l : List FVal) : FVal :=
  if l.all fun v => v.isZero && v.isNeg then .zero true
  else if l.all fun v => v.isZero && !v.isNeg then .zero false
  else .zero (mode == .rdn)

/-- The exact sum of a list of values, with the flags of its special cases. DESIGN CHOICE: with a NaN among them
infinities of both signs raise no NV (log 96). -/
def sumVals (mode : Rnd) (l : List FVal) : FVal × Word :=
  let sn := l.foldl (fun f v => f ||| snanFlag v) 0
  let pos := l.any fun v => v.isInf && !v.isNeg
  let neg := l.any fun v => v.isInf && v.isNeg
  if l.any (·.isNan) then (.nan false, sn)
  else if pos && neg then (.nan false, flagNV)
  else if pos || neg then (.inf neg, 0)
  else
    let e := l.foldl (fun e v => match v.exp? with
      | some k => min e k
      | none => e) 0
    let z := l.foldl (fun z v => z + v.scaled e) 0
    (if z = 0 then zeroOf mode l else ofScaled z e, 0)

/-! ### Bytes of a register (09 R197) -/

/-- The bytes of a register, the first lowest. -/
def laneBytes (r : List Word) : List Byte := r.flatMap fun w => wordBytes w 8

/-- Bytes as lanes, the rest 0. -/
def bytesLanes (g : Nat) (l : List Byte) : List Word :=
  (List.range g).map fun i => bytesWord ((l.drop (8 * i)).take 8)

/-- Elements of a block format as bytes: one a byte, or two. -/
def mxBytes (four : Bool) (l : List Nat) (fuel : Nat) : List Byte :=
  match fuel with
  | 0 => []
  | j + 1 =>
    match l with
    | [] => []
    | x :: r =>
      if four then BitVec.ofNat 8 (x % 16 + r.headD 0 % 16 * 16) :: mxBytes four (r.drop 1) j
      else BitVec.ofNat 8 x :: mxBytes four r j

/-- Element e of a block format in bytes. -/
def mxAt (four : Bool) (b : List Byte) (e : Nat) : Nat :=
  if four then (b.getD (e / 2) 0).toNat / 16 ^ (e % 2) % 16 else (b.getD e 0).toNat

def mxPar (f : Fmt) : FPar := if f = .mxfp4 then e2m1 else e4m3

end Sys2Proof.Machine
end

