-- ==== Sys2Proof/Machine/Matrix.lean ====
section
/-! DEFINITION. What the matrix arrays and the gate pipeline compute: elements of a tile, products
into an accumulator region, and drains with their gates (12 R229, R230, R232, R233, R246, 08 R158,
R160, R161). -/

namespace Sys2Proof.Machine

/-! ### Tiles (12 R232, R233) -/

/-- Byte i of the element area, past the swizzle of its chunk. -/
def tileByte (tile : List Byte) (swz i : Nat) : Nat :=
  let c := i / 64
  let sw := match swz with
    | 0 => 0
    | 1 => c % 8
    | 2 => c / 2 % 8
    | _ => c / 4 % 8
  (tile.getD (c * 64 + ((i % 64 / 8) ^^^ sw) * 8 + i % 8) 0).toNat

/-- Element number k of w bits of the element area. -/
def tileElem (tile : List Byte) (swz w k : Nat) : Nat :=
  let b := k * w
  (tileByte tile swz (b / 8) + 2 ^ 8 * tileByte tile swz (b / 8 + 1) +
    2 ^ 16 * tileByte tile swz (b / 8 + 2)) / 2 ^ (b % 8) % 2 ^ w

/-- What is needed to decode a tile: format code, SE, K′, swizzle, and whether it is a B slot. -/
structure Tile where
  fmt : Nat
  se : BitVec 8
  kp : Nat
  swz : Nat
  b : Bool
  bytes : List Byte
  deriving DecidableEq, Repr

/-- Element (i, k): row i of an A slot, or column i of a B slot, at position k along K. -/
def Tile.raw (t : Tile) (i k : Nat) : Nat :=
  let n := if t.b then k * 256 + i else i * (32 * ((t.kp + 31) / 32)) + k
  tileElem t.bytes t.swz (codeWidth t.fmt) n

/-- The scale byte of the block of position k. -/
def Tile.scale (t : Tile) (i k : Nat) : Nat :=
  let n := if t.b then k / 32 * 256 + i else i * ((t.kp + 31) / 32) + k / 32
  (t.bytes.getD (elemArea t.b t.fmt t.kp + n) 0).toNat

/-- The value of an element, exactly (08 R158, R160, R161). -/
def Tile.elem (t : Tile) (i k : Nat) : FVal :=
  let x := t.raw i k
  match fmtOfCode t.fmt with
  | some .mxfp8 => mxElem e4m3 (t.scale i k) x
  | some .mxfp4 => mxElem e2m1 (t.scale i k) x
  | some f => (decodeElem (fmtElem f) false x).scale t.se.toInt
  | none => .nan false

/-! ### Products (12 R230) -/

/-- What an operation reports (12 Table 12.9): whether a NaN and an overflow arose. -/
structure MReport where
  inv : Bool
  ovf : Bool
  deriving DecidableEq, Repr

def MReport.join (a b : MReport) : MReport := ⟨a.inv || b.inv, a.ovf || b.ovf⟩

/-- Round an FP32 result under RNE, and report. -/
def rn32 (v : FVal × Word) : Nat × MReport :=
  let r := roundTo (.flt fp32) false rneCtx v.1
  (r.bits, ⟨(decodeFlt fp32 r.bits).isNan, r.flags &&& flagOF != 0⟩)

/-- The positions of group g. -/
def groupPos (kp g : Nat) : List Nat := (List.range 16).filterMap fun j =>
  if 16 * g + j < kp then some (16 * g + j) else none

/-- One group of a floating pair onto an accumulator. -/
def groupFlt (a w : Tile) (r c g acc : Nat) : Nat × MReport :=
  let ps := (groupPos a.kp g).map fun k => (mulVal (a.elem r k) (w.elem c k)).1
  let (s, f) := rn32 (sumVals .rne ps)
  let (x, f') := rn32 (addVal rneCtx (decodeFlt fp32 acc) (decodeFlt fp32 s))
  (x, f.join f')

/-- One group of an integer pair. -/
def groupInt (a w : Tile) (r c g acc : Nat) : Nat :=
  let s := ((groupPos a.kp g).map fun k =>
    sintN 8 (BitVec.ofNat 64 (a.raw r k)) * sintN 8 (BitVec.ofNat 64 (w.raw c k))).foldl (· + ·) 0
  bits (BitVec.ofInt 64 ((acc : Int) + s)) 31 0

/-- Element (r, c) of the region after a TMMA. -/
def mmaElem (a w : Tile) (r c acc : Nat) : Nat × MReport :=
  (List.range ((a.kp + 15) / 16)).foldl (fun (x, f) g =>
    if a.fmt = 0 then (groupInt a w r c g x, f)
    else
      let (y, f') := groupFlt a w r c g x
      (y, f.join f')) (acc, ⟨false, false⟩)

/-- Element i of a list of words holding two 32-bit elements each. -/
def half32 (l : List Word) (i : Nat) : Nat := bits (l.getD (i / 2) 0) (32 * (i % 2) + 31) (32 * (i % 2))

/-- The words of a list of 32-bit elements. -/
def pack32 (l : List Nat) : List Word :=
  match l with
  | [] => []
  | [x] => [BitVec.ofNat 64 x]
  | x :: y :: r => BitVec.ofNat 64 (x + 2 ^ 32 * y) :: pack32 r

/-- The region's words after a TMMA. -/
def mmaRegion (a w : Tile) (region : List Word) : List Word × MReport :=
  let es := (List.range 16384).map fun i => mmaElem a w (i / 256) (i % 256) (half32 region i)
  (pack32 (es.map (·.1)), es.foldl (fun f e => f.join e.2) ⟨false, false⟩)

/-! ### Drains (12 R246, Table 12.8) -/

/-- Values of the gate pipeline: FP32 encodings with their report. -/
abbrev Gated := Nat × MReport

def gConst (x : Nat) : Gated := (x, ⟨false, false⟩)

/-- Rn(a + b), or a where no bias is added. -/
def gBias (a : Nat) (b : Option Nat) : Gated :=
  match b with
  | none => gConst a
  | some b => rn32 (addVal rneCtx (decodeFlt fp32 a) (decodeFlt fp32 b))

def gSpec (f : SpecFn) (x : Gated) : Gated :=
  let (y, r) := rn32 (specVal f (decodeFlt fp32 x.1))
  (y, x.2.join r)

def gMul (x y : Gated) : Gated :=
  let (z, r) := rn32 (mulVal (decodeFlt fp32 x.1) (decodeFlt fp32 y.1))
  (z, (x.2.join y.2).join r)

def gSub (x y : Gated) : Gated :=
  let (z, r) := rn32 (addVal rneCtx (decodeFlt fp32 x.1) (decodeFlt fp32 y.1).negate)
  (z, (x.2.join y.2).join r)

/-- Round(x × y + z) fused. -/
def gFma (x y z : Gated) : Gated :=
  let (v, r) := rn32 (fmaVal rneCtx (decodeFlt fp32 x.1) (decodeFlt fp32 y.1) (decodeFlt fp32 z.1))
  (v, ((x.2.join y.2).join z.2).join r)

/-- max(t, +0) with NaN kept. -/
def gRelu (x : Gated) : Gated :=
  let v := decodeFlt fp32 x.1
  (if v.isNan then x.1 else if v.isNeg || v.isZero then 0 else x.1, x.2)

def gAct (a : Act) (x : Gated) : Gated :=
  match a with
  | .identity => x
  | .relu => gRelu x
  | .sigmoid => gSpec .sigm x
  | .tanh => gSpec .tanh x

/-- Output and new state of row r, unit u. -/
def gateUnit (o : OpTdrain) (a : Nat → Nat) (b : Nat → Option Nat) (st u : Nat) : Gated × Gated :=
  let x (c : Nat) : Gated := gBias (a c) (b c)
  match o.gate with
  | .plain => (gConst (a u), gConst 0)
  | .bias => (gAct o.act (x u), gConst 0)
  | .lstm =>
    let i := gSpec .sigm (x u)
    let f := gSpec .sigm (x (64 + u))
    let g := gSpec .tanh (x (128 + u))
    let q := gSpec .sigm (x (192 + u))
    let c := gFma f (gConst st) (gMul i g)
    (gMul q (gSpec .tanh c), c)
  | .gru =>
    let rr := gSpec .sigm (x u)
    let z := gSpec .sigm (x (64 + u))
    let n := gSpec .tanh (gFma rr (x (192 + u)) (x (128 + u)))
    let h := gFma z (gSub (gConst st) n) n
    (h, h)

/-- The element format that a drain reads the region as. -/
def drainIn (o : OpTdrain) : NFmt := if o.fmt2 = .i32 then .int 32 else .flt fp32

/-- An output element: its encoding and what it reports. -/
def drainOut (o : OpTdrain) (c : RCtx) (y : Gated) : Nat × MReport :=
  let r := convert (drainIn o) (fmtElem o.fmt) false c y.1
  let nan := (decodeElem (drainIn o) false y.1).isNan
  let sat := r.flags &&& flagOF != 0 || (!nan && r.flags &&& flagNV != 0)
  (r.bits % 2 ^ (fmtElem o.fmt).width,
    ⟨y.2.inv || (decodeElem (fmtElem o.fmt) false r.bits).isNan, y.2.ovf || sat⟩)

/-- Elements of w bits as words. -/
def packBits (w : Nat) (l : List Nat) : List Word :=
  let v := l.foldr (fun x n => x + 2 ^ w * n) 0
  (List.range ((l.length * w + 63) / 64)).map fun i => BitVec.ofNat 64 (v / 2 ^ (64 * i))

/-- One row of a drain: output words, new state words, and what they report. `mode` and `srb` are
the rounding mode and the SR key's parts; `bias` is empty where none is added. -/
def drainLine (o : OpTdrain) (mode : Rnd) (srb region bias state : List Word) (r : Nat) :
    List Word × List Word × MReport :=
  let m := drainCols o
  let ctx (c : Nat) : RCtx := ⟨mode, o.ovf,
    srBits (srb.getD 0 0) (srb.getD 1 0) (srb.getD 2 0) (srb.getD 3 0).toNat (srb.getD 4 0).toNat (r * m + c)⟩
  let b (c : Nat) : Option Nat := if bias.isEmpty then none else some (half32 bias c)
  let ys := (List.range m).map fun u =>
    gateUnit o (fun c => half32 region (r * 256 + c)) b (half32 state (r * 64 + u)) u
  let outs := (List.range m).map fun u => drainOut o (ctx u) (ys.getD u (gConst 0, gConst 0)).1
  (packBits (fmtElem o.fmt).width (outs.map (·.1)), if stateful o then pack32 (ys.map fun y => y.2.1) else [],
    outs.foldl (fun f x => f.join x.2) ⟨false, false⟩)

end Sys2Proof.Machine
end

