-- ==== Sys2Proof/Machine/Engines.lean ====
section
/-! DEFINITION. Engine operations once issued: which may start, the words that copies move, the
results and status they leave, and matrix operations as they complete (12 R235, R241 to R249, R410, 13
R254 to R266, 18 R363). -/

namespace Sys2Proof.Machine

/-! ### Words read and written by an engine -/

/-- Where an engine's address lies. -/
inductive EngLoc where
  | at (l : Loc)
  | miss
  | bad
  deriving DecidableEq, Repr

def State.engLoc (s : State) (e : EngOp) (a : Word) (acc : Access) : EngLoc :=
  match s.decodeAddr e.core e.app a with
  | .own off => .at (.sp e.core off)
  | .cluster c off => .at (.sp c off)
  | .dev => match (s.cluster (clusterOf e.core)).lookup (s.asidOf e.launch) a.toNat acc e.app with
    | some pa => .at (.dev pa)
    | none => .miss
  | .bad _ => .bad

/-- What a read or write of an engine comes to: a value, a translation that is missing, or a failure
by STATE of 13 Table 13.4. -/
inductive EngVal where
  | val (v : Nat)
  | miss (a : Word) (acc : Access)
  | fail (state : Nat)
  deriving DecidableEq, Repr

/-- The source record of an engine's access (14 R278). -/
def State.engSrc (s : State) (e : EngOp) (a : Word) : WSrc :=
  ⟨none, positionWord s.pkg.num (clusterOf e.core * 128) (match e.kind with
    | .tldw _ _ n _ _ => 16 + n
    | .tmma _ _ n _ _ _ => 16 + n
    | .copy _ _ _ _ => e.unit
    | _ => 16), 4, false, a, 0⟩

/-- The opcode of the instruction that an engine operation performs. -/
def EngKind.opcode (k : EngKind) : Nat :=
  match k with
  | .copy op _ _ _ => op
  | .tldw _ _ _ _ _ => 0xE4
  | .tmma _ _ _ _ _ _ => 0xE6
  | .tdrain _ _ _ _ _ _ => 0xE7
  | .tzero _ => 0xE8

/-- The writer of an engine's words: its issuing thread (20 R395). -/
def State.engWriter (s : State) (e : EngOp) : Writer :=
  s.writer e.launch e.ivl (BitVec.ofNat 64 (bits e.index 31 0 + 2 ^ 32 * bits e.famid 31 0)) e.kind.opcode

/-- A home denies an engine's access to n bytes at a location; a management register takes whole aligned words
(19 R380, R385). -/
def State.engDenied (s : State) (e : EngOp) (l : Loc) (n : Nat) (r w : Bool) : Bool :=
  match s.mgmtOf l with
  | some off => l.key % 8 != 0 || n != 8 || !s.mregAllows (clusterMaster e.core) (mregOf off) r w
  | none => s.denies l e.core r w

/-- The engine row of 06 Table 6.3, for a read: EMPTY and OBJECT words hold no data. -/
def tagState (t : Tag) : Nat :=
  match t with
  | .full => 0
  | .poison => 2
  | _ => 5

/-- An engine reads n bytes of one word. What a word of another package holds, and whether its home denies it, is a
free choice (log 1). -/
def State.engRead (s : State) (e : EngOp) (a : Word) (n : Nat) : EngVal × State :=
  match s.engLoc e a accRead with
  | .miss => (.miss a accRead, s)
  | .bad => (.fail 1, s)
  | .at l =>
    if !s.reaches e.core l then (.fail 4, s)
    else if s.elsewhere l then
      let (v, s) := s.freeVal
      let (i, s) := s.choose 4
      (if i = 0 then .fail 2 else if i = 1 then .fail 5 else if i = 2 then .fail 1 else .val (v.toNat % 2 ^ (8 * n)), s)
    else if s.engDenied e l n true false then (.fail 1, s)
    else match s.mgmtOf l with
    | some off => match s.mregAccess (clusterMaster e.core) (mregOf off) with
      | (true, s) => (.val (s.mregRead (mregOf off)).toNat, s)
      | (false, s) => (.fail 1, s)
    | none =>
      let st := tagState (s.mem.tag (l.key / 8 * 8))
      if st != 0 then (.fail st, s)
      else (.val (s.mem.loadN l.key n), (s.useBanks l.key n).observe l n true false (s.engSrc e a) e.core)

def EngOp.isCopy (e : EngOp) : Bool :=
  match e.kind with
  | .copy _ _ _ _ => true
  | _ => false

/-- An engine writes a word at a location, with tag FULL or POISON; a destination word that a copy writes is counted
(20 Table 20.9). DEDUCED: a management register, which has no tag, takes no POISON word (log 86). -/
def State.engPutAt (s : State) (e : EngOp) (a : Word) (l : Loc) (v : Word) (poison : Bool) : EngVal × State :=
  let count (s : State) : State := if e.isCopy then s.countEvent (clusterOf e.core) 0x20 1 else s
  if !s.reaches e.core l then (.fail 4, s)
  else if s.elsewhere l then
    let (i, s) := s.choose 3
    if i = 0 then (.fail 5, s) else if i = 1 then (.fail 1, s) else (.val 0, count s)
  else if s.engDenied e l 8 false true then (.fail 1, s)
  else match s.mgmtOf l with
  | some off =>
    if poison then (.fail 1, s)
    else match s.mregAccess (clusterMaster e.core) (mregOf off) with
      | (true, s) => (.val 0, count (s.sendRegWrite (clusterMaster e.core) off v))
      | (false, s) => (.fail 1, s)
  | none =>
    let (ok, t) := (s.useBanks l.key 8).engineWrite (l.key / 8 * 8) v poison
    if ok then
      let t := t.digest l (s.engWriter e) (if poison then 0 else v) 8 (if poison then .poison else .full)
      (.val 0, count (t.observe l 8 false true (s.engSrc e a) e.core))
    else (.fail 5, t)

/-- Where an engine's address lies, found by a walk made there and then where the cache misses. -/
def State.engLocNow (s : State) (e : EngOp) (a : Word) (acc : Access) : EngLoc :=
  match s.engLoc e a acc with
  | .miss => match s.walk (clusterOf e.core) e.launch a.toNat with
    | .leaf log pa r w x k => if grants r w x k acc e.app then .at (.dev (pa + a.toNat % 2 ^ log)) else .miss
    | _ => .miss
  | l => l

/-- An engine writes a word, with tag FULL or POISON. -/
def State.engPut (s : State) (e : EngOp) (a : Word) (v : Word) (poison : Bool) : EngVal × State :=
  match s.engLoc e a accWrite with
  | .miss => (.miss a accWrite, s)
  | .bad => (.fail 1, s)
  | .at l => s.engPutAt e a l v poison

/-- After a denial a word becomes POISON where it may be written; no further fault is reported
(13 R257, R260, log 61). -/
def State.engPoison (s : State) (e : EngOp) (a : Word) : EngVal × State :=
  match s.engLocNow e a accWrite with
  | .at l => s.engPutAt e a l 0 true
  | _ => (.fail 1, s)

/-- The words of a list of ranges are written POISON where they may be; whether one is EMPTY or OBJECT, which is not
written (06 Table 6.3). -/
def State.poisonAll (s : State) (e : EngOp) (l : List Word) : Bool × State :=
  l.foldl (fun (f, s) a =>
    let (x, s) := s.engPoison e a
    (f || x == .fail 5, s)) (false, s)

/-- FAULT, LINK, POISON, TAG: the order in which kinds apply (13 R257). -/
def kindRank (state : Nat) : Nat :=
  match state with
  | 1 => 0
  | 4 => 1
  | 2 => 2
  | _ => 3

/-- The outcome of two reads: a missing translation first, then the first kind of failure. -/
def worseOf (a b : EngVal) : EngVal :=
  match a, b with
  | .miss x acc, _ => .miss x acc
  | _, .miss x acc => .miss x acc
  | .fail x, .fail y => .fail (if kindRank x ≤ kindRank y then x else y)
  | .fail x, _ => .fail x
  | _, b => b

/-- An engine reads a list of pieces: their values joined, the first lowest. -/
def State.engReadAll (s : State) (e : EngOp) (l : List (Word × Nat)) : EngVal × State :=
  match l with
  | [] => (.val 0, s)
  | (a, n) :: r =>
    let (x, s) := s.engRead e a n
    let (y, s) := s.engReadAll e r
    match x, y with
    | .val v, .val w => (.val (v + 2 ^ (8 * n) * w), s)
    | x, y => (worseOf x y, s)

def State.setEng (s : State) (e : EngOp) : State :=
  { s with engines := s.engines.map fun x => if x.id = e.id then e else x }

/-- An engine operation pauses on a translation (13 R260, 18 R363). -/
def State.pauseEng (s : State) (e : EngOp) (a : Word) (acc : Access) : State :=
  let w : Walk := ⟨clusterOf e.core, e.launch, s.asidOf e.launch, a.toNat / 2 ^ 16,
    [⟨if e.isCopy then 1 else 2, e.id, a, acc, e.app, 0⟩]⟩
  ({ s with walks := joinWalk s.walks w }.setEng { e with paused := true }).countEvent (clusterOf e.core) 0x22 1

/-- An engine operation is over: later ones and its thread look again. -/
def State.dropEng (s : State) (e : EngOp) : State :=
  { s with engines := s.engines.filter fun x => x.id != e.id }.nudge e.tid

/-! ### Starting (12 R235, 13 R256) -/

def rangesMeet (a b : List (Nat × Nat)) : Bool := a.any fun (x, n) => anyMeet b x n

/-- Two operations conflict: a write range of one meets a range of the other. -/
def EngOp.conflicts (a b : EngOp) : Bool :=
  rangesMeet a.writes (b.reads ++ b.writes) || rangesMeet b.writes a.reads

/-- An earlier store of the thread to one of an operation's ranges is not yet performed; a later one waits for the
operation (12 R235, 15 R302). -/
def State.storePending (s : State) (e : EngOp) : Bool :=
  (s.pendingReqs e.tid).any fun q => q.op.stores && anyMeet (e.reads ++ e.writes) (vkey q.src q.va) q.op.len

/-- An operation may start: not before a conflicting earlier one of its thread, nor before such a
store. -/
def State.engReady (s : State) (e : EngOp) : Bool :=
  !e.started && !s.storePending e &&
    (s.engines.takeWhile fun x => x.id != e.id).all fun x => !(x.tid == e.tid && x.conflicts e)

/-- The trace record of a copy (20 Table 20.2). -/
def State.traceCopy (s : State) (e : EngOp) (id status : Word) : State :=
  if s.traceOn 3 then
    s.emit (traceSrc 1 (dieOf e.core) (clusterOf e.core % 12) e.unit) 4 [id, e.famid, e.index, status]
  else s

/-- COPY_ENGINE_START: an engine of a cluster takes the queued copy of the highest effective
priority, the earliest of equals. DEDUCED: a copy whose cluster has no W in the engine's access table ends as a fault
at its first word (19 R380, log 10). -/
def State.copyStart (s : State) (cl : Nat) : Option State :=
  let mine := s.engines.filter fun e => e.isCopy && clusterOf e.core == cl
  let busy := (mine.filter (·.started)).map (·.unit)
  match (List.range 4).find? fun u => !busy.contains u with
  | none => none
  | some u =>
    match leastBy (fun e => 7 - ((s.thread? e.tid).map (·.eprio)).getD 0) (mine.filter s.engReady) with
    | none => none
    | some e =>
      let allowed := s.tableAllows (targetCopy cl) (clusterMaster e.core) false true false
      let e : EngOp := { e with started := true, unit := u, bad := if allowed then e.bad else some (0, 1) }
      match e.kind with
      | .copy _ _ id rec => some ((s.setEng e).traceCopy e id
          (BitVec.ofNat 64 (bits (recW rec 3) 31 0 + 14 * 2 ^ 32)))
      | _ => none

/-- ENGINE_OP_START: the `n`th matrix operation that may start does; a TMMA waits for the load of its
array, and operations of one thread on it keep their order. -/
def State.engStart (s : State) (n : Nat) : Option State :=
  let blocked (e : EngOp) : Bool := match e.kind.array? with
    | some a => (s.engines.takeWhile fun x => x.id != e.id).any fun x =>
        clusterOf x.core == clusterOf e.core && x.kind.array? == some a
    | none => false
  let l := s.engines.filter fun e => !e.isCopy && s.engReady e && !blocked e
  match l[n % l.length]? with
  | none => none
  | some e => some (s.setEng { e with started := true })

/-! ### The words of COPY, COPYT and GATH (13 R254) -/

/-- Where destination word d of a copy lies. -/
def copyDst (op : Nat) (rec : List Word) (d : Nat) : Word :=
  let w := recW rec
  let row (n : Nat) : Word := w 1 + BitVec.ofNat 64 (d / n * bits (w 7) 31 0 + d % n * 8)
  if op = 0x89 then row (bits (w 6) 15 0 * esize rec / 8)
  else if op = 0x8A then row (bits (w 4) 31 0 / 8)
  else w 1 + BitVec.ofNat 64 (8 * d)

/-- The source pieces of destination word d; `idx` is the row index of a GATH. -/
def copyPieces (op : Nat) (rec : List Word) (d idx : Nat) : List (Word × Nat) :=
  let w := recW rec
  let es := esize rec
  let n := 8 / es
  if op = 0x89 then
    let k := bits (w 6) 15 0 * es / 8
    (List.range n).map fun j => (w 0 + BitVec.ofNat 64
      (tensorRow rec (d / k) * bits (w 6) 63 32 + tensorCol rec (d % k * n + j) * es), es)
  else if op = 0x8A then
    let k := bits (w 4) 31 0 / 8
    let row := min idx (bits (w 4) 63 32 - 1)
    (List.range n).map fun j => (w 0 + BitVec.ofNat 64 (row * bits (w 6) 63 32 + d % k * 8 + j * es), es)
  else [(w 0 + BitVec.ofNat 64 (8 * d), 8)]

/-- The value of destination word d. -/
def State.copyValue (s : State) (e : EngOp) (op : Nat) (rec : List Word) (d : Nat) : EngVal × State :=
  if op = 0x8A then
    let r := d / (bits (recW rec 4) 31 0 / 8)
    match s.engRead e (recW rec 5 + BitVec.ofNat 64 (4 * r)) 4 with
    | (.val i, s) => s.engReadAll e (copyPieces op rec d i)
    | x => x
  else s.engReadAll e (copyPieces op rec d 0)

/-- The word past the fault point of a denied copy: a fault at the fault point itself takes its kind (13 R257); the
denial holds for the words that are left. -/
def EngOp.deniedNext (e : EngOp) (total : Nat) : EngOp :=
  { e with
    pos := e.pos + 1
    denied := decide (e.pos + 1 < total)
    bad := e.bad.map fun (c, k) => (c, if c = e.pos && k != 3 then 1 else k) }

/-- One destination word: it takes its data, or from the fault point on becomes POISON, after a denial where it may
be written, with no further fault; `false` where the copy pauses. -/
def State.copyWord (s : State) (e : EngOp) (op : Nat) (rec : List Word) : EngOp × State × Bool :=
  let a := copyDst op rec e.pos
  let next (e : EngOp) : EngOp := { e with pos := e.pos + 1, denied := false }
  match e.bad with
  | some (_, 1) => (next e, (s.engPoison e a).2, true)
  | some _ =>
    if e.denied then (e.deniedNext (copyTotal op rec), (s.engPoison e a).2, true)
    else match s.engPut e a 0 true with
      | (.miss x acc, s') => (e, s'.pauseEng e x acc, false)
      | (_, s') => (next e, s', true)
  | none =>
    let (v, s') := s.copyValue e op rec e.pos
    let dst : EngVal := match s'.engLoc e a accWrite with
      | .miss => .miss a accWrite
      | .bad => .fail 1
      | .at l => if !s'.reaches e.core l then .fail 4
          else if s'.engDenied e l 8 false true then .fail 1
          else
            let t := s'.mem.tag (l.key / 8 * 8)
            if t == .empty || t == .object then .fail 5 else .val 0
    let fail (e : EngOp) (k : Nat) : EngOp := { e with bad := some (e.pos, k), denied := false }
    match v, worseOf v dst with
    | _, .miss x acc => if e.denied then (fail e 1, s', true) else (e, s'.pauseEng e x acc, false)
    | _, .fail k => (fail e k, s', true)
    | .val n, .val _ =>
      match s'.engPut e a (BitVec.ofNat 64 n) false with
      | (.fail k, s') => (fail e k, s', true)
      | (_, s') => (next e, s', true)
    | _, _ => (e, s', false)

/-- Up to `fuel` words of a copy; a write of a management register acts before the next word. -/
def State.copyWords (s : State) (e : EngOp) (op : Nat) (rec : List Word) (fuel : Nat) : EngOp × State × Bool :=
  match fuel with
  | 0 => (e, s, true)
  | j + 1 =>
    if copyTotal op rec ≤ e.pos then (e, s, true)
    else match s.copyWord e op rec with
      | (e, s, true) => if s.agenda.isEmpty then s.copyWords e op rec j else (e, s, true)
      | r => r

/-! ### The end of a copy (13 R256 to R260) -/

/-- The copy-fault record of a thread takes a copy, also in its frame where it is saved (06 R132); one that has
ended reports it. -/
def State.noteCopy (s : State) (e : EngOp) (id status : Word) : State :=
  match s.thread? e.tid with
  | none => s.report e.launch 4 e.who 0 [id, status, 0]
  | some t => (s.putThread { t with copyRec := some (match t.copyRec with
      | none => ⟨id, status, 0⟩
      | some r => { r with count := r.count + 1 }) }).syncFrame e.tid

/-- A copy ends with COUNT and STATE: the completion PUT where CADDR lies, which waits behind an earlier operation
on the word (16 R311), the slot's status, the record of a copy that failed unseen. -/
def State.copyEndAt (s : State) (e : EngOp) (loc : EngLoc) (slot : Nat) (id : Word) (rec : List Word)
    (count state : Nat) : State :=
  let ca := recW rec 2
  let status : Word := BitVec.ofNat 64 (bits (recW rec 3) 31 0 + 2 ^ 32 * state + 2 ^ 40 * count)
  let finish (s : State) (lost : Bool) : State :=
    let full := setBit status 36 lost
    let s := if lost || (state != 0 && ca == 0) then s.noteCopy e id status else s
    let s := s.modCore e.core fun x => { x with copies := match tabGet x.copies slot with
      | some c => tabSet x.copies slot { c with status := full, busy := false, done := s.stamp }
      | none => x.copies }
    let s := { s with stamp := s.stamp + 1 }
    let s := if state = 4 then s.modPkg fun p => { p with
      cutCopies := tabSet p.cutCopies e.launch ((tabGet p.cutCopies e.launch).getD 0 + 1) } else s
    let s := s.modThread e.tid fun t => { t with copyn := t.copyn - 1 }
    let s := (s.traceCopy e id status).dropEng e
    s.wakeWhere fun t => t.core == e.core && t.waitReason == 9
  if ca = 0 then finish s false
  else match loc with
    | .miss => if e.denied then finish s true else s.pauseEng e ca accWrite
    | .bad => finish s true
    | .at l =>
      if !s.reaches e.core l || s.denies l e.core false true then finish s true
      else if s.elsewhere l then
        let (i, s) := s.choose 2
        finish s (i == 0)
      else if s.lineWaits l.key then s.setEng e
      else
        let (ok, s) := s.enginePutAt l.key status (s.engSrc e ca) e.core (s.engWriter e)
        finish s (!ok)

/-- The end of a copy whose translations are those of its cluster's cache. -/
def State.copyEnd (s : State) (e : EngOp) (slot : Nat) (id : Word) (rec : List Word) (count state : Nat) : State :=
  s.copyEndAt e (s.engLoc e (recW rec 2) accWrite) slot id rec count state

/-- The payload of a PACK or UNPACK stands, or its failure: what is left is the end. A denied payload access says
nothing of CADDR (13 R258, R260). -/
def State.wholeEnd (s : State) (e : EngOp) (slot : Nat) (id : Word) (rec : List Word) (count state : Nat) : State :=
  s.copyEnd { e with pos := 1, bad := some (count, state), denied := false } slot id rec count state

/-! ### PACK and UNPACK (13 R264 to R266) -/

/-- Row and column of a Morton index. -/
def mortonCol (m : Nat) : Nat := (List.range 6).foldl (fun n i => n + m / 2 ^ (2 * i) % 2 * 2 ^ i) 0
def mortonRow (m : Nat) : Nat := mortonCol (m / 2)

/-- Where a PACK or UNPACK holds its dense tile, and element (r, c) of it. -/
def tileAddr (base : Word) (rec : List Word) (r c : Nat) : Word :=
  base + BitVec.ofNat 64 (r * bits (recW rec 6) 31 0 + c * esize rec)

/-- The words of a list of entries (13 R264). -/
def entryWords (rec : List Word) (l : List (Nat × Nat)) : List Word :=
  if esize rec = 4 then l.map fun (m, v) => BitVec.ofNat 64 (m + 2 ^ 32 * v)
  else pack32 (l.map fun (m, v) => m + 2 ^ 16 * v)

/-- The kind of failure that applies of two, none where both went well. -/
def worseKind (a b : Option Nat) : Option Nat :=
  match a, b with
  | some x, some y => some (if kindRank x ≤ kindRank y then x else y)
  | some x, none => some x
  | none, b => b

/-- How a write failed, a missing translation as a fault. -/
def EngVal.failure (x : EngVal) : Option Nat :=
  match x with
  | .val _ => none
  | .fail k => some k
  | .miss _ _ => some 1

/-- Words to write at an address, in order; the kind of failure that applies. -/
def State.engPuts (s : State) (e : EngOp) (a : Word) (l : List Word) (poison : Bool) : Option Nat × State :=
  match l with
  | [] => (none, s)
  | v :: r =>
    let (x, s) := s.engPut e a v poison
    let (f, s) := s.engPuts e (a + 8) r poison
    (worseKind x.failure f, s)

/-- The first of a list of addresses whose translation is missing. -/
def State.engMissing (s : State) (e : EngOp) (acc : Access) (l : List Word) : Option (Word × Access) :=
  firstSome (fun a => if s.engLoc e a acc = .miss then some (a, acc) else none) l

def wordsAt (a : Word) (n : Nat) : List Word := (List.range n).map fun j => a + BitVec.ofNat 64 (8 * j)

/-- The elements of the dense tile in Morton order, nonzero ones only, or how it fails. -/
def State.packRead (s : State) (e : EngOp) (rec : List Word) (m fuel : Nat) : Option Nat × List (Nat × Nat) × State :=
  match fuel with
  | 0 => (none, [], s)
  | j + 1 =>
    let (x, s) := s.engRead e (tileAddr (recW rec 0) rec (mortonRow m) (mortonCol m)) (esize rec)
    let (f, l, s) := s.packRead e rec (m + 1) j
    match x with
    | .val v => (f, if v = 0 then l else (m, v) :: l, s)
    | x => (worseKind x.failure f, l, s)

/-- The payload of PACK (13 R265): what it is to write follows from the tile, which is read once the translations
of that are there. -/
def State.packPayload (s : State) (e : EngOp) (slot : Nat) (id : Word) (rec : List Word) : State :=
  let dir := recW rec 1
  let cap := bits (recW rec 7) 12 0
  let area := recW rec 4 + BitVec.ofNat 64 (bits (recW rec 5) 43 0)
  let poison (s : State) (count state : Nat) : State :=
    (s.engPoison e dir).2.wholeEnd e slot id rec count state
  match e.bad with
  | some (_, k) => poison s 0 k
  | none =>
    let (f, l, s') := s.packRead e rec 0 4096
    let n := if f.isSome then 0 else min cap l.length
    match s.engMissing e accWrite (dir :: wordsAt area (entriesBytes rec n / 8)), f with
    | some (a, acc), _ => if e.denied then poison s 0 1 else s.pauseEng e a acc
    | none, some k => poison s' 0 k
    | none, none =>
      let (bad, s) := s'.engPuts e area (entryWords rec (l.take cap)) false
      match bad with
      | some k => poison s 0 k
      | none =>
        if cap < l.length then poison s l.length 6
        else
          let (x, s) := s.engPut e dir (BitVec.ofNat 64 (bits (recW rec 5) 43 0 + 2 ^ 44 * l.length)) false
          match x.failure with
          | none => s.wholeEnd e slot id rec l.length 0
          | some k => s.wholeEnd e slot id rec 0 k

/-- A PACK or UNPACK whose payload stands only ends. -/
def State.wholeAgain (s : State) (e : EngOp) (slot : Nat) (id : Word) (rec : List Word) : State :=
  match e.bad with
  | some (c, k) => s.copyEnd e slot id rec c k
  | none => s.copyEnd e slot id rec 0 0

/-- PACK. -/
def State.packRun (s : State) (e : EngOp) (slot : Nat) (id : Word) (rec : List Word) : State :=
  if e.pos = 0 then s.packPayload e slot id rec else s.wholeAgain e slot id rec

/-- The entries that a list of words holds. -/
def entriesOf (rec : List Word) (n : Nat) (l : List Word) : List (Nat × Nat × Bool) :=
  (List.range n).map fun i =>
    if esize rec = 4 then
      let w := l.getD i 0
      (bits w 15 0, bits w 63 32, bits w 31 16 == 0)
    else
      let w := half32 l i
      (w % 2 ^ 16, w / 2 ^ 16 % 2 ^ (8 * esize rec), esize rec != 1 || w / 2 ^ 24 == 0)

/-- Indices rise strictly and stay below 4,096. -/
def risingIdx (l : List (Nat × Nat × Bool)) : Bool :=
  match l with
  | [] => true
  | (m, _, z) :: r => decide (m < 4096) && z && (match r with
      | [] => true
      | (m', _, _) :: _ => decide (m < m')) && risingIdx r

/-- The dense tile's words by rows, from its entries. -/
def denseWord (rec : List Word) (l : List (Nat × Nat × Bool)) (r v : Nat) : Word :=
  let n := 8 / esize rec
  BitVec.ofNat 64 ((l.filter fun (m, _, _) => mortonRow m == r && mortonCol m / n == v).foldl
    (fun x (m, y, _) => x + 2 ^ (8 * esize rec * (mortonCol m % n)) * y) 0)

/-- Write the tile: the number of the first word that was not written, with the kind of failure that applies. -/
def State.tileWrite (s : State) (e : EngOp) (rec : List Word) (f : Nat → Nat → Word) (d fuel : Nat) :
    Option (Nat × Nat) × State :=
  match fuel with
  | 0 => (none, s)
  | j + 1 =>
    let n := 8 * esize rec
    let a := recW rec 1 + BitVec.ofNat 64 (d / n * bits (recW rec 6) 31 0 + 8 * (d % n))
    let (x, s) := s.engPut e a (f (d / n) (d % n)) false
    let (r, s) := s.tileWrite e rec f (d + 1) j
    match x.failure with
    | none => (r, s)
    | some k => (some (d, (worseKind (some k) (r.map (·.2))).getD k), s)

/-- The payload of UNPACK (13 R266). -/
def State.unpackPayload (s : State) (e : EngOp) (slot : Nat) (id : Word) (rec : List Word) : State :=
  let total := 512 * esize rec
  let n := 8 * esize rec
  let tile := (List.range total).map fun d =>
    recW rec 1 + BitVec.ofNat 64 (d / n * bits (recW rec 6) 31 0 + 8 * (d % n))
  let poison (s : State) (state : Nat) : State :=
    (s.poisonAll e tile).2.wholeEnd e slot id rec 0 state
  match s.engMissing e accWrite tile with
  | some (a, acc) => if e.denied then poison s 1 else s.pauseEng e a acc
  | none =>
    match e.bad with
    | some (_, k) => poison s k
    | none => match s.engRead e (recW rec 0) 8 with
      | (.miss a acc, s') => if e.denied then poison s' 1 else s'.pauseEng e a acc
      | (.fail k, s') => poison s' k
      | (.val dw, s') =>
        let w : Word := BitVec.ofNat 64 dw
        let cnt := bits w 56 44
        if bits w 63 57 != 0 || decide (4096 < cnt) then poison s' 7
        else
          let area := recW rec 4 + BitVec.ofNat 64 (bits w 43 0)
          let ws := wordsAt area (entriesBytes rec cnt / 8)
          match s'.engMissing e accRead ws with
          | some (a, acc) => if e.denied then poison s' 1 else s'.pauseEng e a acc
          | none => match s'.engReadAll e (ws.map fun a => (a, 8)) with
            | (.val v, s') =>
              let l := entriesOf rec cnt ((List.range ws.length).map fun i => BitVec.ofNat 64 (v / 2 ^ (64 * i)))
              if !risingIdx l then poison s' 7
              else
                let (miss, s') := s'.tileWrite e rec (denseWord rec l) 0 total
                match miss with
                | none => s'.wholeEnd e slot id rec total 0
                | some (d, 5) => s'.wholeEnd e slot id rec d 5
                | some (_, k) => poison s' k
            | (.fail k, s') => poison s' k
            | (.miss _ _, s') => poison s' 1

/-- UNPACK. -/
def State.unpackRun (s : State) (e : EngOp) (slot : Nat) (id : Word) (rec : List Word) : State :=
  if e.pos = 0 then s.unpackPayload e slot id rec else s.wholeAgain e slot id rec

/-- A copy moves on by up to k words; past the last it ends. -/
def State.copyGo (s : State) (e : EngOp) (k : Nat) : Option State :=
  match e.kind with
  | .copy op slot id rec =>
    if op = 0x8B then some (s.packRun e slot id rec)
    else if op = 0x8C then some (s.unpackRun e slot id rec)
    else
      let total := copyTotal op rec
      let (e, s, go) := s.copyWords e op rec k
      if !go then some s
      else
        let s := s.setEng e
        if e.pos < total then some s
        else match e.bad with
          | some (c, k) => some (s.copyEnd e slot id rec c k)
          | none => some (s.copyEnd e slot id rec total 0)
  | _ => none

/-- The destination words that a copy has still to write. -/
def EngOp.wordsLeft (e : EngOp) : Nat :=
  match e.kind with
  | .copy op _ _ rec => copyTotal op rec - e.pos
  | _ => 0

/-- COPY_COMPLETE: a started copy moves on by a free number of words; past the last it ends. -/
def State.copyRun (s : State) (n : Nat) : Option State :=
  let l := s.engines.filter fun e => e.isCopy && e.started && !e.paused
  match l[n % l.length]? with
  | none => none
  | some e =>
    let (k, s) := s.choose (e.wordsLeft + 1)
    s.copyGo e (k + 1)

/-- The destination words of a copy: of PACK its directory word, which alone makes its entries part of a tile. -/
def copyWordsOf (op : Nat) (rec : List Word) : List Word :=
  if op = 0x8B then [recW rec 1]
  else if op = 0x8C then
    let n := 8 * esize rec
    (List.range (512 * esize rec)).map fun d =>
      recW rec 1 + BitVec.ofNat 64 (d / n * bits (recW rec 6) 31 0 + 8 * (d % n))
  else (List.range (copyTotal op rec)).map (copyDst op rec)

/-- A copy in flight is cancelled (13 R262). One that runs has STATE 3 at the lowest word not yet performed, and its
words from there upward become POISON as it ends; one still queued ends at once, with COUNT 0. -/
def State.cancelCopy (s : State) (e : EngOp) : State :=
  match e.kind with
  | .copy op slot id rec =>
    if e.started then s.setEng { e with bad := some (match e.bad with
      | some (c, _) => (c, 3)
      | none => (e.pos, 3)) }
    else
      let x : EngOp := { e with
        started := true, pos := if op = 0x8B ∨ op = 0x8C then 1 else copyTotal op rec, bad := some (0, 3) }
      ((s.setEng x).poisonAll x (copyWordsOf op rec)).2.copyEndAt x (s.engLocNow x (recW rec 2) accWrite) slot id rec 0 3
  | _ => s

/-- CCAN. -/
def execCcan (o : OpA) (s : State) : Host.Outcome State Fault Refusal :=
  issue o.g (do
    let v ← readS o.a
    match ← copySlot v with
    | none => pure .seq
    | some _ =>
      modS fun s => match s.engines.find? fun e => match e.kind with
          | .copy _ _ id _ => e.core == s.cur.core && id == v
          | _ => false with
        | some e => s.cancelCopy e
        | none => s
      pure .seq) s

/-! ### Matrix operations as they complete (12 R241, R243 to R249, R410) -/

/-- What the source of a matrix operation comes to. -/
inductive Gather where
  | all (l : List Word)
  /-- POISON, or a denied access: the operation is cancelled. -/
  | cancel
  /-- EMPTY or OBJECT: nothing is written. -/
  | fault
  | pause
  deriving DecidableEq, Repr

/-- An operation reads the words at a list of addresses; one whose translation was denied is
cancelled. -/
def State.gather (s : State) (e : EngOp) (l : List Word) : Gather × State :=
  match s.engMissing e accRead l with
  | some (a, acc) => if e.denied then (.cancel, s) else (.pause, s.pauseEng e a acc)
  | none => match s.engReadAll e (l.map fun a => (a, 8)) with
    | (.val v, s) => (.all ((List.range l.length).map fun i => BitVec.ofNat 64 (v / 2 ^ (64 * i))), s)
    | (.fail k, s) => (if k = 5 then .fault else .cancel, s)
    | (.miss _ _, s) => (.cancel, s)

/-- MSTAT of the issuing thread takes a report (12 Table 12.9), also in its frame where it is saved. -/
def State.noteMatrix (s : State) (e : EngOp) (poisoned fault : Bool) (r : MReport) : State :=
  (s.modThread e.tid fun t =>
    let m := t.mstat
    let m := if poisoned then setBits (setBit m 0 true) 15 8 (min 255 (bits m 15 8 + 1)) else m
    let m := if fault then setBit m 1 true else m
    let m := if r.inv then setBit m 2 true else m
    { t with mstat := if r.ovf then setBit m 3 true else m }).syncFrame e.tid

/-- The consumer reservation of an operation's slot is released. -/
def State.freeSlot (s : State) (e : EngOp) (ring x : Nat) : State :=
  let cl := clusterOf e.core
  (s.modThread e.tid fun t => { t with
    conss := t.conss.filter fun p => !(p.cluster == cl && p.ring == ring && p.x == x) }).release cl ring x

/-- A matrix operation retires. -/
def State.retireEng (s : State) (e : EngOp) : State :=
  ((s.dropEng e).countEvent (clusterOf e.core) 0x21 1).serveArrays (clusterOf e.core) 8

def keyAddr (core key : Nat) : Word :=
  BitVec.ofNat 64 (0xFE * 2 ^ 56 + (key - 2 ^ 60 - clusterOf core * 128 * 2 ^ 18))

/-- The address of a region by its key, through the cluster window, and its words. -/
def regionWords (e : EngOp) (acc : Nat) : List Word := wordsAt (keyAddr e.core acc) 8192

/-- The started operation of a list that an event concerns. -/
def State.engAt (s : State) (p : EngKind → Bool) (n : Nat) : Option EngOp :=
  let l := s.engines.filter fun e => e.started && !e.paused && p e.kind
  l[n % l.length]?

/-- TLDW_LOAD_COMPLETE. -/
def State.tldwDone (s : State) (n : Nat) : Option State :=
  match s.engAt (fun k => match k with
      | .tldw _ _ _ _ _ => true
      | _ => false) n with
  | none => none
  | some e => match e.kind with
    | .tldw ring x a slot h =>
      let cl := clusterOf e.core
      let len := tileBytes true h.fmt h.kp h.scnt - 64
      let finish (s : State) (f : MArray → MArray) (p b : Bool) : State :=
        let s := s.setArray cl a (f (s.array cl a))
        ((s.noteMatrix e p b ⟨false, false⟩).freeSlot e ring x).retireEng e
      match s.gather e (wordsAt (slot + 64) (len / 8)) with
      | (.all l, s) => some (finish s (fun m => { m with tile := l.flatMap fun w => wordBytes w 8 }) false false)
      | (.cancel, s) => some (finish s (fun m => { m with poisoned := true }) true false)
      | (.fault, s) => some (finish s (fun m => { m with faulted := true }) false true)
      | (.pause, s) => some s
    | _ => none

/-- The redundancy record takes a tile whose two sums differ (12 R248), as noteCopy does. -/
def State.noteRed (s : State) (e : EngOp) (ring x a : Nat) : State :=
  (s.modThread e.tid fun t => { t with redRec := some (match t.redRec with
    | none => ⟨BitVec.ofNat 64 (ring + 2 ^ 8 * a), BitVec.ofNat 64 x, 0⟩
    | some r => { r with count := r.count + 1 }) }).syncFrame e.tid

/-- A cancelled operation: its write range becomes POISON, and FAULT is set where a word of it is EMPTY or OBJECT
(12 R245, R249, Table 12.9). -/
def State.cancelInto (s : State) (e : EngOp) (range : List Word) : State :=
  let (f, s) := s.poisonAll e range
  s.noteMatrix e true f ⟨false, false⟩

/-- How a matrix operation whose writes failed ends: denied or cut off it is cancelled, its range POISON (12 R249,
18 R363); an EMPTY or OBJECT word counts as a fault. -/
def State.noteWrites (s : State) (e : EngOp) (range : List Word) (bad : Option Nat) (r : MReport) : State :=
  match bad with
  | none => s.noteMatrix e false false r
  | some k => if k = 5 then s.noteMatrix e false true r
    else s.cancelInto e range

/-- TMMA_RETIRE. In redundant mode whether the two sums of some element differ is the hardware's: a
free choice. -/
def State.tmmaDone (s : State) (n : Nat) : Option State :=
  match s.engAt (fun k => match k with
      | .tmma _ _ _ _ _ _ => true
      | _ => false) n with
  | none => none
  | some e => match e.kind with
    | .tmma ring x a slot h acc =>
      let cl := clusterOf e.core
      let m := s.array cl a
      let len := tileBytes false h.fmt h.kp h.scnt - 64
      let region := regionWords e acc
      let finish (s : State) (p b : Bool) (r : MReport) : State :=
        ((s.noteMatrix e p b r).freeSlot e ring x).retireEng e
      let cancel (s : State) : State := ((s.cancelInto e region).freeSlot e ring x).retireEng e
      if m.poisoned then some (cancel s)
      else match s.gather e (wordsAt (slot + 64) (len / 8) ++ region) with
        | (.pause, s) => some s
        | (.cancel, s) => some (cancel s)
        | (.fault, s) => some (finish s false true ⟨false, false⟩)
        | (.all l, s) =>
          if m.faulted then some (finish s false true ⟨false, false⟩)
          else
            let at_ : Tile := ⟨h.fmt, h.se, h.kp, h.swz, false, (l.take (len / 8)).flatMap fun w => wordBytes w 8⟩
            let wt : Tile := ⟨m.fmt, m.se, m.kp, m.swz, true, m.tile⟩
            let (out, rep) := mmaRegion at_ wt (l.drop (len / 8))
            let (bad, s) := s.engPuts e (keyAddr e.core acc) out false
            let (d, s) := if m.red then s.choose 2 else (0, s)
            let s := if d = 1 then s.noteRed e ring x a else s
            some (((s.noteWrites e region bad rep).freeSlot e ring x).retireEng e)
    | _ => none

/-- TZERO_COMPLETE. -/
def State.tzeroDone (s : State) (n : Nat) : Option State :=
  match s.engAt (fun k => match k with
      | .tzero _ => true
      | _ => false) n with
  | none => none
  | some e => match e.kind with
    | .tzero acc =>
      let (bad, s) := s.engPuts e (keyAddr e.core acc) (List.replicate 8192 0) false
      some ((s.noteWrites e (regionWords e acc) bad ⟨false, false⟩).retireEng e)
    | _ => none

/-- Words of a drain's rows. -/
def drainWords (o : OpTdrain) (dst : Word) (ds : Nat) : List Word :=
  (List.range 64).flatMap fun r => wordsAt (dst + BitVec.ofNat 64 (r * ds)) (drainRow o / 8)

/-- Rows written, and the kind of failure that applies. -/
def State.drainRows (s : State) (e : EngOp) (dst st : Word) (ds : Nat) (l : List (List Word × List Word × MReport))
    (r : Nat) : Option Nat × State :=
  match l with
  | [] => (none, s)
  | (out, state, _) :: rest =>
    let (a, s) := s.engPuts e (dst + BitVec.ofNat 64 (r * ds)) out false
    let (b, s) := s.engPuts e (st + BitVec.ofNat 64 (r * 256)) state false
    let (c, s) := s.drainRows e dst st ds rest (r + 1)
    (worseKind a (worseKind b c), s)

/-- TDRAIN_COMPLETE. -/
def State.tdrainDone (s : State) (n : Nat) : Option State :=
  match s.engAt (fun k => match k with
      | .tdrain _ _ _ _ _ _ => true
      | _ => false) n with
  | none => none
  | some e => match e.kind with
    | .tdrain o dst acc rec mode srb =>
      let bias := recW rec 0
      let st := recW rec 1
      let ds := (recW rec 2).toNat
      let region := regionWords e acc
      let outs := drainWords o dst ds
      let stw := if stateful o then wordsAt st 2048 else []
      let lo : Word := BitVec.ofNat 64 (bias.toNat / 8 * 8)
      let bw := if bias = 0 then [] else wordsAt lo (if bias.toNat % 8 = 0 then 128 else 129)
      let all := outs ++ stw ++ (if o.za then region else [])
      let cancel (s : State) : State := (s.cancelInto e all).retireEng e
      match s.engMissing e accWrite all with
      | some (a, acc) => if e.denied then some (cancel s) else some (s.pauseEng e a acc)
      | none => match s.gather e (region ++ bw ++ stw) with
        | (.pause, s) => some s
        | (.cancel, s) => some (cancel s)
        | (.fault, s) => some ((s.noteMatrix e false true ⟨false, false⟩).retireEng e)
        | (.all l, s) =>
          let bl := (l.drop 8192).take bw.length
          let bv := if bias.toNat % 8 = 0 then bl else pack32 ((List.range 256).map fun i => half32 bl (i + 1))
          let rows := (List.range 64).map (drainLine o mode srb (l.take 8192) bv (l.drop (8192 + bw.length)))
          let (bad, s) := s.drainRows e dst st ds rows 0
          let (bad', s) := if o.za then s.engPuts e (keyAddr e.core acc) (List.replicate 8192 0) false else (none, s)
          let rep := rows.foldl (fun f x => f.join x.2.2) ⟨false, false⟩
          some ((s.noteWrites e all (worseKind bad bad') rep).retireEng e)
    | _ => none

/-- The starts of engine operations. -/
def execCopyEngineStart (n : Nat) (s : State) := event (fun s => s.copyStart (n % 48)) s
def execEngineOpStart (n : Nat) (s : State) := event (fun s => s.engStart n) s

end Sys2Proof.Machine
end

