-- ==== Sys2Proof/Machine/Replay.lean ====
section
/-! DEFINITION. Replays of bin sets, the arrival of appended records, and the partials of reductions
on their way (13 R269 to R272, 16 R316, 18 R363, 21 R404). -/

namespace Sys2Proof.Machine

/-! ### Combine (13 R270, R271) -/

/-- What a Combine reports besides its value: INV and OVF. -/
structure Combined where
  v : Nat
  inv : Bool
  ovf : Bool
  deriving DecidableEq, Repr

/-- MIN or MAX of two elements of a set. -/
def binPick (rec : List Word) (mx : Bool) (a b : Nat) : Nat :=
  if binFmt rec = 4 then (minmaxVal (.flt fp32) mx a b).bits
  else
    let w := 8 * binBytes rec
    let x := intVal w (binUns rec) a
    let y := intVal w (binUns rec) b
    if mx then (if y ≤ x then a else b) else (if x ≤ y then a else b)

/-- Step 1: the exact sum, rounded once. -/
def binAdd (rec : List Word) (v : Nat) (l : List Nat) : Combined :=
  if l.isEmpty then ⟨v, false, false⟩
  else if binFmt rec = 4 then
    let x := sumVals .rne ((v :: l).map (decodeFlt fp32))
    let r := roundTo (.flt fp32) false rneCtx x.1
    ⟨r.bits, x.1.isNan, r.flags &&& flagOF != 0⟩
  else ⟨l.foldl (· + ·) v % 2 ^ (8 * binBytes rec), false, false⟩

/-- The records of one element apply: ADD, MIN, MAX, OR. -/
def binCombine (rec : List Word) (v : Nat) (l : List BinRec) : Combined :=
  let vals (o : EappOp) : List Nat := (l.filter fun r => r.op == o).map fun r =>
    r.value.toNat % 2 ^ (8 * binBytes rec)
  let c := binAdd rec v (vals .add)
  let ext := !(vals .min).isEmpty || !(vals .max).isEmpty
  let x := (vals .min).foldl (binPick rec false) c.v
  let x := (vals .max).foldl (binPick rec true) x
  let nan := ext && binFmt rec == 4 && (decodeFlt fp32 x).isNan
  { c with v := (vals .or).foldl (· ||| ·) x, inv := c.inv || nan }

/-- The result of a replay so far (13 Table 13.8). -/
structure Replayed where
  count : Nat
  inv : Bool
  ovf : Bool
  skip : Bool
  deriving DecidableEq, Repr

/-- Where element i of a set lies, and its region. -/
def binAddr (rec : List Word) (i : Nat) : Word := recW rec 0 + BitVec.ofNat 64 (i * binBytes rec)
def binRegion (rec : List Word) (i : Nat) : Nat := i / (2 ^ binRlog rec / binBytes rec)

/-- The translation of an element. -/
def State.binLoc (s : State) (b : BinSet) (i : Nat) : Option Nat :=
  (s.cluster (clusterOf b.core)).lookup b.asid (binAddr b.desc i).toNat accWrite b.app

/-- One element with its records: combined at its home, or left unchanged. -/
def State.combineAtHome (s : State) (die : Nat) (b : BinSet) (i : Nat) (r : Replayed) : Replayed × State :=
  let l := b.recs.filter fun x => x.index == i
  let skip : Replayed × State := ({ r with skip := true }, s)
  if b.skips.contains (binRegion b.desc i) then skip
  else match s.binLoc b i with
    | none => skip
    | some pa =>
      let loc := Loc.dev pa
      let k := pa / 8 * 8
      if !s.tableAllows (s.sliceNo pa) (0x8000 + die) true true false || !s.reaches (die * 1536) loc then skip
      else match s.mem.tag k with
        | .full =>
          let n := binBytes b.desc
          let c := binCombine b.desc (s.mem.loadN pa n) l
          let s := ((s.putBytes pa n c.v).changed k).digest loc (s.writer b.launch b.runIvl b.runWho 0x8F)
            (BitVec.ofNat 64 c.v) n .full
          let src : WSrc := ⟨none, positionWord s.pkg.num (die * 1536) 0x20, 4, false, binAddr b.desc i, 0⟩
          ({ r with count := r.count + l.length, inv := r.inv || c.inv, ovf := r.ovf || c.ovf },
            s.observe loc n false true src (die * 1536))
        | _ => skip

def State.combineAll (s : State) (die : Nat) (b : BinSet) (l : List Nat) (r : Replayed) : Replayed × State :=
  match l with
  | [] => (r, s)
  | i :: rest =>
    let (r, s) := s.combineAtHome die b i r
    s.combineAll die b rest r

/-- The replay status (13 Table 13.8). -/
def replayStatus (r : Replayed) (dropped : Nat) : Word :=
  let b (x : Bool) : Nat := if x then 1 else 0
  BitVec.ofNat 64 (min r.count (2 ^ 32 - 1) + 2 ^ 32 * min dropped (2 ^ 24 - 1) + 2 ^ 56 * b r.inv +
    2 ^ 57 * b r.ovf + 2 ^ 58 * b r.skip)

/-- An element's word waits for its line at its home (16 R311). -/
def State.binWaits (s : State) (b : BinSet) (i : Nat) : Bool :=
  match s.binLoc b i with
  | some pa => s.lineWaits pa
  | none => false

/-- EREPL_COMPLETE: the replay of a set performs every Combine, once no earlier operation on their words waits, and
answers, or pauses on a translation. -/
def State.replayRun (s : State) (n : Nat) : Option State :=
  let l := s.bins.filter fun (_, b) => b.runner.isSome && !b.paused
  match l[n % l.length]? with
  | none => none
  | some (k, b) =>
    let die := k / 64
    let idx := (b.recs.map (·.index)).foldl setInsert []
    match idx.find? fun i => !b.skips.contains (binRegion b.desc i) && (s.binLoc b i).isNone with
    | some i =>
      let a := binAddr b.desc i
      let w : Walk := ⟨clusterOf b.core, b.launch, b.asid, a.toNat / 2 ^ 16,
        [⟨3, k, a, accWrite, b.app, binRegion b.desc i⟩]⟩
      some ({ s with walks := joinWalk s.walks w, bins := tabSet s.bins k { b with paused := true } })
    | none =>
      if idx.any (s.binWaits b) then none
      else
      let (r, s) := s.combineAll die b idx ⟨0, false, false, false⟩
      let s := { s with bins := tabSet s.bins k { b with
        recs := [], dropped := 0, runner := none, skips := [], live := !b.runFree } }
      let s := (s.wakeWhere fun t => t.waitsFor 12 (binObject k)).syncHolds (binObject k)
      match b.runner with
      | some tid => match s.thread? tid with
        | some _ => some (s.answer tid 0 (.ok (replayStatus r b.dropped) 0) 0 (entrLoc die).key)
        | none => some s
      | none => some s

def execEreplComplete (n : Nat) (s : State) := event (fun s => s.replayRun n) s

/-- ENTREPOT_APPEND_ARRIVAL: an appended record that may arrive reaches its set. -/
def State.appendArrives (s : State) (n : Nat) : Option State :=
  let l := s.readyReqs isAppend
  match l[n % l.length]? with
  | none => none
  | some i => match s.reqs[i]? with
    | none => none
    | some q => some ({ s with reqs := removeAt s.reqs i }.performReq q)

def execEntrepotAppendArrival (n : Nat) (s : State) := event (fun s => s.appendArrives n) s

/-- The cores whose contributions a partial holds. -/
def Partial.srcs (p : Partial) : List Nat := p.src :: p.more

/-- The partials that may move: the first of each of their sources to their root (15 R290), on a way that no link
holds up. -/
def State.partialsFree (s : State) : List Nat :=
  (List.range s.partials.length).filter fun i => match s.partials[i]? with
    | none => false
    | some p =>
      let root := s.destOf (s.rootOf p.handle p.launch) .dev
      ((s.partials.take i).all fun x => !(s.destOf (s.rootOf x.handle x.launch) .dev == root &&
        x.srcs.any fun c => p.srcs.contains c)) && p.srcs.all fun c => !s.stopped (s.portOf c) root

/-- Two partials of one group, element and round may merge where they meet. -/
def Partial.meets (p x : Partial) : Bool :=
  x.handle == p.handle && x.elem == p.elem && x.round == p.round && x.valid && p.valid && x.launch == p.launch

/-- A partial reaches its root, or that of another package, or is lost where no link carries it there. -/
def State.partialEnds (s : State) (p : Partial) : State :=
  match s.rootOf p.handle p.launch with
  | .dev pa =>
    if 2 ^ 59 ≤ pa then
      if s.dieReach (dieOf p.src) (bits p.handle 9 8) then s.redArrive p else s.redBreak p
    else if s.reaches p.src (.dev pa) then s else s.redLost p
  | .sp _ _ => s

/-- The nth of the partials that may move is merged with another that may, or reaches its root; which is a free
choice. -/
def State.partialMoves (s : State) (n : Nat) : Option State :=
  let l := s.partialsFree
  match l[n % l.length]? with
  | none => none
  | some i => match s.partials[i]? with
    | none => none
    | some p =>
      let (m, s) := s.choose 2
      let other := (l.filter (· != i)).find? fun j => (s.partials[j]?.map p.meets).getD false
      match m, other.bind fun j => (s.partials[j]?).map fun x => (j, x) with
      | 1, some (j, x) =>
        let cfg := match s.group? p.handle p.launch with
          | some (_, g) => g.cfg
          | none => 0
        let y : Partial := { x with acc := redMerge cfg x.acc p.acc, who := x.who ++ p.who, more := x.more ++ p.srcs }
        some { s with partials := y :: removeAt (removeAt s.partials (max i j)) (min i j) }
      | _, _ =>
        if s.redHeld p then none
        else some ({ s with partials := removeAt s.partials i }.partialEnds p)

/-- A contribution from another package reaches the root of a sys group here (21 R404): its element, round and value
are what that package sent, a free choice. -/
def State.farPartial (s : State) (k : Nat) : Option State :=
  match tabGet s.groups k with
  | none => none
  | some g =>
    if !g.live || !g.sys || s.pkg.npkg ≤ 1 then none
    else
      let (elem, s) := s.choose 8
      let (round, s) := s.choose 256
      let (v, s) := s.freeVal
      if s.lineWaits (g.raddr + 8 * elem) then none
      else some (s.redAt k g ⟨redHandle (k / 256) (k % 256) g.gen, elem, round, redOne g.cfg v, [], true, noCore, []⟩)

/-- REDUCTION_PARTIAL: of the partials on their way the nth moves; from n = 2^16 on, one arrives from another package
at group n div 2^16 - 1. -/
def execReductionPartial (n : Nat) (s : State) :=
  event (fun s => if n < 2 ^ 16 then s.partialMoves n else s.farPartial (n / 2 ^ 16 - 1)) s

end Sys2Proof.Machine
end

