-- ==== Sys2Proof/Machine/Faults.lean ====
section
/-! DEFINITION. The Factor's accesses to memory (00 R6, 19 R379), and its fault queue (18 R361, R362). -/

namespace Sys2Proof.Machine

/-! ### The Factor as a master (00 R6, 19 R379, R380) -/

/-- The access tables of the homes of n words let the Factor, master 0x3000, read or write them. One that is denied
has no effect (log 78). -/
def State.factorMay (s : State) (a n : Nat) (w : Bool) : Bool :=
  (List.range n).all fun j => s.tableAllows (s.sliceNo (a + 8 * j)) 0x3000 (!w) w false

/-! ### The fault queue (18 R362) -/

def State.modFq (s : State) (f : FaultQueue → FaultQueue) : State := { s with pkg := { s.pkg with fq := f s.pkg.fq } }

/-- log₂ of the entry count of a queue's ring, within 4 to 16. DESIGN CHOICE: a LOG outside that range is kept as
written and acts as the nearest bound, in SQCFG and FQCFG (log 83). -/
def ringLog (cfg : Word) : Nat := min 16 (max 4 (bits cfg 4 0))

/-- Where the next record goes. -/
def FaultQueue.place (q : FaultQueue) : Nat := q.base.toNat + 32 * (q.tail % 2 ^ ringLog q.cfg)

/-- The ring has room and is enabled. -/
def FaultQueue.room (q : FaultQueue) : Bool :=
  q.cfg.getLsbD 5 && decide ((q.tail + 2 ^ 32 - q.head) % 2 ^ 32 < 2 ^ ringLog q.cfg)

/-- A record may be written: there is room, and the access table of its home lets the Factor write. -/
def State.faultRoom (s : State) : Bool := s.pkg.fq.room && s.factorMay s.pkg.fq.place 4 true

/-- A record is written at the tail. -/
def State.writeFault (s : State) (ws : List Word) : State :=
  ({ s with mem := s.mem.writeWords s.pkg.fq.place ws } : State).modFq fun q => { q with tail := (q.tail + 1) % 2 ^ 32 }

/-- Records that the Factor holds are written while they may be. -/
def State.flushFaults (s : State) (fuel : Nat) : State :=
  match fuel with
  | 0 => s
  | j + 1 => match s.pkg.fq.waiting with
    | [] => s
    | r :: rest => if s.faultRoom then
        ((s.modFq fun q => { q with waiting := rest }).writeFault r).flushFaults j else s

/-- The Factor writes a record, or holds it behind those it holds. -/
def State.recordFault (s : State) (ws : List Word) : State :=
  let s := s.modFq fun q => { q with waiting := q.waiting ++ [ws] }
  s.flushFaults s.pkg.fq.waiting.length

/-- WHO of a fault record (18 Table 18.8). -/
def State.faultWho (s : State) (w : Waiter) : Word :=
  let pos (tid : Nat) : Word := match s.thread? tid with
    | some t => positionWord s.pkg.num t.core t.entry
    | none => 0
  match w.src with
  | 0 => pos w.id
  | 3 => positionWord s.pkg.num (w.id / 64 * 1536) 0x20 + BitVec.ofNat 64 (w.id % 64 * 2 ^ 33)
  | _ => match s.engines.find? fun e => e.id == w.id with
    | some e => match e.kind with
      | .copy _ slot id _ => positionWord s.pkg.num e.core slot + BitVec.ofNat 64 (bits id 31 8 * 2 ^ 33)
      | _ => pos e.tid
    | none => 0

/-- The fault of one waiter is recorded (18 R361). -/
def State.faultOf (s : State) (cluster launch fkind level : Nat) (w : Waiter) : State :=
  let tok := s.pkg.fq.token
  let s := s.modFq fun q => { q with token := (q.token + 1) % 2 ^ 63 }
  let s : State := { s with faults := s.faults ++ [⟨tok, launch, cluster, w, fkind, level⟩] }
  s.recordFault [w.va, BitVec.ofNat 64 (w.src + 2 ^ 3 * w.acc.kind.toNat + 2 ^ 6 * fkind + 2 ^ 8 * level +
    2 ^ 32 * s.lnumOf launch), s.faultWho w, BitVec.ofNat 64 tok]

/-! ### Faults of the elements of a vector instruction (18 R361) -/

/-- Walks of a thread's accesses are still to end, fetches apart. -/
def State.walksLeft (s : State) (tid : Nat) : Bool :=
  s.walks.any fun w => w.waiters.any fun x => x.src == 0 && x.id == tid && x.acc.kind != 5

/-- The faults kept for a thread are recorded together, in the order of their ordinals, once none of its walks is
left. -/
def State.flushElems (s : State) (tid : Nat) : State :=
  let mine (f : FaultRec) : Bool := f.who.id == tid
  if s.walksLeft tid then s
  else
    let l := s.elemFaults.filter mine
    let ords := (l.map (·.who.elem)).foldl setInsert []
    let s : State := { s with elemFaults := s.elemFaults.filter fun f => !mine f }
    (ords.flatMap fun n => l.filter fun f => f.who.elem == n).foldl
      (fun s f => s.faultOf f.cluster f.launch f.fkind f.level f.who) s

/-- A walk for a thread's access ends in a fault, which waits for the other walks of its instruction. -/
def State.elemFault (s : State) (cluster launch fkind level : Nat) (w : Waiter) : State :=
  ({ s with elemFaults := s.elemFaults ++ [⟨0, launch, cluster, w, fkind, level⟩] } : State).flushElems w.id

end Sys2Proof.Machine
end

