-- ==== Sys2Proof/Machine/Vector.lean ====
section
/-! DEFINITION. Vector instructions: claims, moves, arithmetic, masks, conversion, reductions,
special functions, permutations (09 R185 to R201). -/

namespace Sys2Proof.Machine

/-! ### Claims (09 R174, R185 to R187) -/

/-- A count of lanes: a power of two from 4 to 64. -/
def laneCount (n : Nat) : Bool := n == 4 || n == 8 || n == 16 || n == 32 || n == 64

def countsOk (v : Word) : Bool :=
  laneCount (bits v 6 0) && bits v 7 7 == 0 && laneCount (bits v 14 8) && bits v 63 15 == 0 &&
    decide (bits v 6 0 ≤ bits v 14 8)

/-- A waiter of equal or higher effective priority is queued ahead. -/
def State.poolAhead (s : State) (t : Thread) : Bool :=
  (s.poolThreads (s.poolGroup t.core)).any fun u => u.tid != t.tid && u.waitsLanes && decide (t.eprio ≤ u.eprio)

/-- The grant that a request of the issuing thread finds, or its wait in the pool's queue. -/
def grantLanes (mn ds : Nat) : M Nat := fun s =>
  match s.cur.laneRes with
  | some n => .ok (n, s)
  | none =>
    let now := if s.poolAhead s.cur then none else s.canGrant s.cur mn ds
    match now with
    | some n => .ok (n, s)
    | none => .error (.wait 7 s.stamp (.claim mn ds))

/-- The issuing thread's claim at a grant (09 R176, R185). -/
def State.setGrant (s : State) (n mn ds : Nat) : State :=
  let c : Claim := match s.cur.claim with
    | some c => { c.resize n with min := mn, des := ds, shrunk := false }
    | none => Claim.fresh n mn ds
  (s.updCur fun t => { t with claim := some c, laneRes := none, laneReq := none }).lanesFreed
    (s.poolGroup s.cur.core)

/-- A grant is taken, and the hold edge on the pool comes with it (17 R327). -/
def takeGrant (n mn ds : Nat) : M Unit := do
  let s ← get
  modS fun s => s.setGrant n mn ds
  holdNow s (poolObject (s.poolGroup s.cur.core))

/-- VCLAIM. -/
def execVclaim (o : OpDC) (s : State) : Host.Outcome State Fault Refusal :=
  issue o.g (do
    checkDst o.d
    let v ← operandZ o.b
    orTrap (countsOk v) .illegalOperand v 4
    let n ← grantLanes (bits v 6 0) (bits v 14 8)
    takeGrant n (bits v 6 0) (bits v 14 8)
    writeD o.d (BitVec.ofNat 64 n)) s

/-- VREL. -/
def execVrel (o : OpG) (s : State) : Host.Outcome State Fault Refusal :=
  issue o.g (do
    modS State.releaseClaim
    pure .seq) s

/-- VYIELD. -/
def execVyield (o : OpD) (s : State) : Host.Outcome State Fault Refusal :=
  issue o.g (do
    checkDst o.d
    modS fun s => s.renegotiate none
    let t ← getCur
    writeD o.d (match t.claim with
      | some c => BitVec.ofNat 64 c.grant
      | none => 0)) s

/-! ### Moves (09 R191, R192) -/

def vecFill (o : OpVFill) (step : Bool) (s : State) : Host.Outcome State Fault Refusal :=
  let w := laneWidth o.fmt
  issue o.g (do
    let c ← getClaim
    let v ← readVal o.val w
    let (r, _) := c.merge (c.vreg o.v) w o.mask fun j => ⟨(v + (if step then j else 0)) % 2 ^ w, 0⟩
    setV o.v r
    pure .seq) s

def execVbcast (o : OpVFill) (s : State) := vecFill o false s
def execViota (o : OpVFill) (s : State) := vecFill o true s

/-- A result element as a scalar: integers extended, floating values zero-extended. -/
def scalarOf (f : Fmt) (uns : Bool) (x : Nat) : Word :=
  if isIntFmt f && !uns then sext (laneWidth f) (BitVec.ofNat 64 x) else BitVec.ofNat 64 x

/-- VEXT. -/
def execVext (o : OpVExt) (s : State) : Host.Outcome State Fault Refusal :=
  issue o.g (do
    checkDst o.d
    let c ← getClaim
    let j ← operandZ o.idx
    let w := laneWidth o.fmt
    orTrap (decide (j.toNat < c.count w)) .illegalOperand j 4
    writeD o.d (scalarOf o.fmt o.uns (elemOf (c.vreg o.va) w j.toNat))) s

/-- VINS. -/
def execVins (o : OpVIns) (s : State) : Host.Outcome State Fault Refusal :=
  issue o.g (do
    let c ← getClaim
    let a ← readS o.a
    let j ← operandZ o.idx
    let w := laneWidth o.fmt
    orTrap (decide (j.toNat < c.count w)) .illegalOperand j 4
    setV o.v (packLanes w c.grant ((c.elems (c.vreg o.v) w).set j.toNat (a.toNat % 2 ^ w)))
    pure .seq) s

/-! ### Arithmetic (09 R193) -/

def execVadd (o : OpVAlu) (s : State) := vecAlu o .add true s
def execVsub (o : OpVAlu) (s : State) := vecAlu o .sub true s
def execVmul (o : OpVAlu) (s : State) := vecAlu o .mul true s
def execVmin (o : OpVAlu) (s : State) := vecAlu o .min false s
def execVmax (o : OpVAlu) (s : State) := vecAlu o .max false s
def execVand (o : OpVAlu) (s : State) := vecAlu o .and false s
def execVor (o : OpVAlu) (s : State) := vecAlu o .or false s
def execVxor (o : OpVAlu) (s : State) := vecAlu o .xor false s
def execVshl (o : OpVAlu) (s : State) := vecAlu o .shl false s
def execVshr (o : OpVAlu) (s : State) := vecAlu o .shr false s
def execVsar (o : OpVAlu) (s : State) := vecAlu o .sar false s

/-- VFMA. -/
def execVfma (o : OpVFma) (s : State) : Host.Outcome State Fault Refusal :=
  let w := laneWidth o.fmt
  vecOp o.g o.vd w o.mask (!isIntFmt o.fmt) (fun s c j =>
    let x := elemOf (c.vreg o.va) w j
    let y := c.src o.y w o.uns j
    let z := elemOf (c.vreg o.vc) w j
    if isIntFmt o.fmt then
      intElem w o.uns o.ovf (intVal w o.uns x * intVal w o.uns y + intVal w o.uns z)
    else
      let e := fmtElem o.fmt
      let k := s.rctx o.rnd o.ovf j
      roundRes e k (fmaVal k (decodeElem e false x) (decodeElem e false y) (decodeElem e false z))) s

/-- VABS. -/
def execVabs (o : OpVAbs) (s : State) : Host.Outcome State Fault Refusal :=
  let w := laneWidth o.fmt
  vecOp o.g o.vd w o.mask false (fun _ c j =>
    let x := elemOf (c.vreg o.va) w j
    if isIntFmt o.fmt then intElem w o.uns o.ovf (intVal w o.uns x).natAbs
    else
      let v := decodeElem (fmtElem o.fmt) false x
      if v.isNan then ⟨(fmtElem o.fmt).nan, snanFlag v⟩ else ⟨x % 2 ^ (w - 1), 0⟩) s

/-! ### Compare, select, masks (09 R194, R195) -/

/-- VCMP. -/
def execVcmp (o : OpVCmp) (s : State) : Host.Outcome State Fault Refusal :=
  let w := laneWidth o.fmt
  issue o.g (do
    let c ← getClaim
    let old := c.kreg o.kd
    let e := fmtElem o.fmt
    let rs := (List.range (c.count w)).map fun j =>
      if c.active (maskOf o.mask) w j then
        let x := elemOf (c.vreg o.va) w j
        let y := c.src o.y w o.uns j
        if isIntFmt o.fmt then (icondElem o.cond.toNat w o.uns x y, (0 : Word))
        else fcond (fcondOf o.cond.toNat) (decodeElem e false x) (decodeElem e false y)
      else (!zeroing o.mask && maskBit old w j, 0)
    raiseFlags (rs.foldl (fun f r => f ||| r.2) 0)
    setK o.kd (packMask w c.grant (rs.map (·.1)))
    pure .seq) s

/-- VSEL. -/
def execVsel (o : OpVSel) (s : State) : Host.Outcome State Fault Refusal :=
  let w := laneWidth o.fmt
  vecOp o.g o.vd w o.mask false (fun _ c j =>
    ⟨if maskBit (c.kreg o.kc) w j then elemOf (c.vreg o.va) w j else c.src o.y w false j, 0⟩) s

/-- KLOG: all eight bits of every lane's byte. -/
def execKlog (o : OpKlog) (s : State) : Host.Outcome State Fault Refusal :=
  issue o.g (do
    let c ← getClaim
    let byteOf (a b : Byte) : Byte := BitVec.ofNat 8 ((List.range 8).foldl (fun n i =>
      n + (if lutBit o.lut (a.getLsbD i) (b.getLsbD i) then 2 ^ i else 0)) 0)
    setK o.kd ((List.range c.grant).map fun i =>
      byteOf ((c.kreg o.ka).getD i 0) ((c.kreg o.kb).getD i 0))
    pure .seq) s

/-- KPOP. -/
def execKpop (o : OpKpop) (s : State) : Host.Outcome State Fault Refusal :=
  issue o.g (do
    checkDst o.d
    let c ← getClaim
    let w := laneWidth o.fmt
    writeD o.d (BitVec.ofNat 64
      ((List.range (c.count w)).filter fun j => maskBit (c.kreg o.ka) w j).length)) s

/-! ### Conversion (09 R196 to R198) -/

/-- VCVT. DEDUCED: R180 comes before R196, so with a wider source an element outside the part converted whose mask bit
is clear is zeroed under MZ (log 85). -/
def execVcvt (o : OpVCvt) (s : State) : Host.Outcome State Fault Refusal :=
  let ws := laneWidth o.fmt2
  let wd := laneWidth o.fmt
  vecOp o.g o.vd wd o.mask true (fun s c j =>
    let n := c.grant * 64 / max ws wd
    let part := o.part.toNat
    let conv (i : Nat) : Rounded :=
      convert (fmtElem o.fmt2) (fmtElem o.fmt) o.uns (s.rctx o.rnd o.ovf j) (elemOf (c.vreg o.va) ws i)
    if ws ≤ wd then conv (part * n + j)
    else if part * n ≤ j ∧ j < part * n + n then conv (j - part * n)
    else ⟨elemOf (c.vreg o.vd) wd j, 0⟩) s

/-- A grant too small for a block of 32 elements. -/
def blockGrant (c : Claim) (w : Nat) : M Unit :=
  orTrap (decide (w / 2 ≤ c.grant)) .noClaim (BitVec.ofNat 64 (w / 2)) 0

/-- The fixed scale of block b. -/
def Claim.scaleByte (c : Claim) (x : VScale) (b : Nat) : Option Nat :=
  match x with
  | .block => none
  | .v r => some ((laneBytes (c.vreg r)).getD b 0).toNat
  | .lit v => some (v.toNat % 256)

/-- VQMX. DESIGN CHOICE: where DST and SC name one register the scales, written last, stand in it (log 96). -/
def execVqmx (o : OpVQmx) (s : State) : Host.Outcome State Fault Refusal :=
  issue o.g (do
    let c ← getClaim
    let ws := laneWidth o.fmt2
    blockGrant c ws
    let s ← get
    let p := mxPar o.fmt
    let xs := (c.elems (c.vreg o.va) ws).map (decodeElem (fmtElem o.fmt2) false)
    let rs := (List.range (2 * c.grant / ws)).map fun b =>
      let cs := (List.range 32).map fun i => s.rctx o.rnd o.ovf (32 * b + i)
      let es := (xs.drop (32 * b)).take 32
      match c.scaleByte o.scale b with
      | none => quantMx p cs es
      | some x => fixedMx p x cs es
    let es := rs.flatMap fun r => r.2.1
    raiseFlags (rs.foldl (fun f r => f ||| r.2.2) 0)
    setV o.ve (bytesLanes c.grant (mxBytes (o.fmt == .mxfp4) es (es.length + 1)))
    setV o.vs (bytesLanes c.grant (rs.map fun r => BitVec.ofNat 8 r.1))
    countConv
    pure .seq) s

/-- VDQMX. -/
def execVdqmx (o : OpVDqmx) (s : State) : Host.Outcome State Fault Refusal :=
  issue o.g (do
    let c ← getClaim
    let wd := laneWidth o.fmt
    blockGrant c wd
    let s ← get
    let p := mxPar o.fmt2
    let eb := laneBytes (c.vreg o.ve)
    let sb := laneBytes (c.vreg o.vs)
    let rs := (List.range (c.count wd)).map fun e =>
      roundTo (fmtElem o.fmt) false (s.rctx o.rnd o.ovf e)
        (mxElem p (sb.getD (e / 32) 0).toNat (mxAt (o.fmt2 == .mxfp4) eb e))
    raiseFlags (rs.foldl (fun f r => f ||| r.flags) 0)
    setV o.vd (packLanes wd c.grant (rs.map (·.bits)))
    countConv
    pure .seq) s

/-! ### Reductions (09 R199) -/

/-- The active elements. -/
def Claim.actives (c : Claim) (r : List Word) (m : Option KNo) (w : Nat) : List Nat :=
  ((List.range (c.count w)).filter (c.active m w)).map (elemOf r w)

/-- VRSUM. -/
def execVrsum (o : OpVRed) (s : State) : Host.Outcome State Fault Refusal :=
  issue o.g (do
    checkDst o.d
    let c ← getClaim
    let w := laneWidth o.fmt
    let xs := c.actives (c.vreg o.va) o.mask w
    if isIntFmt o.fmt then
      writeD o.d (BitVec.ofInt 64 (xs.foldl (fun z x => z + intVal w o.uns x) 0))
    else
      let s ← get
      let k := s.rctx o.rnd o.ovf 0
      let e := fmtElem o.fmt
      let r : Rounded := if xs.isEmpty then ⟨0, 0⟩
        else roundRes e k (sumVals k.mode (xs.map (decodeElem e false)))
      writeConv o.d r) s

/-- VRMAX and VRMIN of no element: the least or greatest value of the format. -/
def extremeOf (f : Fmt) (uns max : Bool) : Word :=
  if isIntFmt f then
    let (lo, hi) := intRange (laneWidth f) uns
    BitVec.ofInt 64 (if max then lo else hi)
  else match fmtElem f with
    | .flt p => BitVec.ofNat 64 ((if max then 2 ^ (p.fb + p.eb) else 0) + (2 ^ p.eb - 1) * 2 ^ p.fb)
    | _ => 0

/-- An element as VMAX and VMIN return it: a NaN becomes the canonical one, a signalling one with NV
(08 R156). -/
def minmaxOne (f : Fmt) (x : Nat) : Rounded :=
  if isIntFmt f then ⟨x, 0⟩ else minmaxVal (fmtElem f) false x x

/-- The elements folded by VMAX or VMIN. -/
def foldMinMax (f : Fmt) (uns max : Bool) (l : List Nat) : Option Rounded :=
  match l with
  | [] => none
  | x :: r => some (r.foldl (fun a y =>
      let b := if isIntFmt f then intFn (if max then .max else .min) (laneWidth f) uns true a.bits y
        else minmaxVal (fmtElem f) max a.bits y
      ⟨b.bits, a.flags ||| b.flags⟩) (minmaxOne f x))

def vecMinMax (o : OpVRed) (max : Bool) (s : State) : Host.Outcome State Fault Refusal :=
  issue o.g (do
    checkDst o.d
    let c ← getClaim
    match foldMinMax o.fmt o.uns max (c.actives (c.vreg o.va) o.mask (laneWidth o.fmt)) with
    | none => writeD o.d (extremeOf o.fmt o.uns max)
    | some r => writeRes o.d (scalarOf o.fmt o.uns r.bits) r.flags false) s

def execVrmax (o : OpVRed) (s : State) := vecMinMax o true s
def execVrmin (o : OpVRed) (s : State) := vecMinMax o false s

/-! ### Special functions (09 R200) -/

def vecSpec (o : OpVSpec) (f : SpecFn) (s : State) : Host.Outcome State Fault Refusal :=
  let w := laneWidth o.fmt
  vecOp o.g o.vd w o.mask true (fun s c j =>
    roundRes (fmtElem o.fmt) (s.rctx o.rnd o.ovf j)
      (specVal f (decodeElem (fmtElem o.fmt) false (elemOf (c.vreg o.va) w j)))) s

def execVexp2 (o : OpVSpec) (s : State) := vecSpec o .exp2 s
def execVlog2 (o : OpVSpec) (s : State) := vecSpec o .log2 s
def execVrcp (o : OpVSpec) (s : State) := vecSpec o .rcp s
def execVrsq (o : OpVSpec) (s : State) := vecSpec o .rsq s
def execVsqrt (o : OpVSpec) (s : State) := vecSpec o .sqrt s
def execVtanh (o : OpVSpec) (s : State) := vecSpec o .tanh s
def execVsigm (o : OpVSpec) (s : State) := vecSpec o .sigm s

/-! ### Permutations (09 R201) -/

/-- VPERM. -/
def execVperm (o : OpVPerm) (s : State) : Host.Outcome State Fault Refusal :=
  let w := laneWidth o.fmt
  vecOp o.g o.vd w o.mask false (fun _ c j =>
    let t := elemOf (c.vreg o.vi) w j
    ⟨if t < c.count w then elemOf (c.vreg o.va) w t else 0, 0⟩) s

/-- VBPERM. -/
def execVbperm (o : OpVBperm) (s : State) : Host.Outcome State Fault Refusal :=
  let w := laneWidth o.fmt
  issue o.g (do
    let c ← getClaim
    orTrap (decide (2 ^ o.dist.toNat < c.count w)) .illegalOperand (o.dist.setWidth 64) 7
    let (r, _) := c.merge (c.vreg o.vd) w o.mask fun j => ⟨elemOf (c.vreg o.va) w (j ^^^ 2 ^ o.dist.toNat), 0⟩
    setV o.vd r
    pure .seq) s

end Sys2Proof.Machine
end

