-- ==== Sys2Proof/Machine/Modular.lean ====
section
/-! DEFINITION. Modular lanes: moduli, Montgomery products, butterflies and ring automorphisms
(10 R202 to R212). -/

namespace Sys2Proof.Machine

/-! ### Arithmetic (10 R204) -/

/-- v / 2^n mod q for an odd q. -/
def halveMod (v q n : Nat) : Nat :=
  match n with
  | 0 => v
  | j + 1 => halveMod (if v % 2 = 0 then v / 2 else (v + q) / 2) q j

/-- Rinv(q), R = 2^w. -/
def rinv (w q : Nat) : Nat := halveMod (1 % q) q w

/-- Red. -/
def redMod (v : Int) (q : Nat) : Nat := (v % (q : Int)).toNat

/-- MontMul. -/
def montMul (w : Nat) (x y : Int) (q : Nat) : Nat := redMod (x * y * rinv w q) q

def modWidth (w64 : Bool) : Nat := if w64 then 64 else 32

/-- A valid q (10 Table 10.1). -/
def validQ (w q : Nat) : Bool := q % 2 == 1 && decide (3 ≤ q) && decide (q < 2 ^ (w - 2))

/-- The W condition. -/
def validW (w q c : Nat) : Bool := (q * c + 1) % 2 ^ w == 0

/-! ### Sets (10 R202, R205) -/

def Claim.qreg (c : Claim) (n : Fin 4) : List Word := c.q[n]
def Claim.wreg (c : Claim) (n : Fin 4) : List Word := c.w[n]

/-- The check of the moduli of the ordinals that an instruction uses. -/
def checkModuli (c : Claim) (w : Nat) (n : Fin 4) (useW : Bool) (l : List Nat) : M Unit :=
  let q (j : Nat) : Nat := elemOf (c.qreg n) w j
  let bad (j : Nat) : Bool :=
    !validQ w (q j) || (useW && !validW w (q j) (elemOf (c.wreg n) w j))
  match l.find? bad with
  | none => pure ()
  | some j => trapW .modulusInvalid (BitVec.ofNat 64 (q j))
      (BitVec.ofNat 64 (n.val + (if validQ w (q j) then 4 else 0) + j * 2 ^ 8))

/-- The active ordinals. -/
def Claim.activeList (c : Claim) (m : Option VMask) (w : Nat) : List Nat :=
  (List.range (c.count w)).filter (c.active (maskOf m) w)

/-! ### VMSET (10 R208) -/

def execVmset (o : OpVMset) (s : State) : Host.Outcome State Fault Refusal :=
  issue o.g (do
    let c ← getClaim
    let w := modWidth o.w64
    let val ← (match o.src with
      | .scalar r => do
        let x ← readS r
        pure fun (_ : Nat) => x.toNat % 2 ^ w
      | .lit v => pure fun _ => v.toNat % 2 ^ w
      | .v r => pure fun j => elemOf (c.vreg r) w j)
    let r := packLanes w c.grant ((List.range (c.count w)).map val)
    updCur fun t => { t with claim := t.claim.map fun c => match o.q with
      | .q n => { c with q := c.q.set n.val r }
      | .w n => { c with w := c.w.set n.val r } }
    pure .seq) s

/-! ### Element operations (10 R209) -/

/-- A modular element operation: F of x, y, d and q. -/
def modOp (g : Guard) (vd va : VNo) (y : VSrc) (w64 : Bool) (qs : Fin 4) (m : Option VMask) (useW : Bool)
    (f : Nat → Nat → Nat → Nat → Nat → Nat) (s : State) : Host.Outcome State Fault Refusal :=
  issue g (do
    let c ← getClaim
    let w := modWidth w64
    checkModuli c w qs useW (c.activeList m w)
    let (r, _) := c.merge (c.vreg vd) w m fun j =>
      ⟨f w (elemOf (c.vreg va) w j) (c.src y w true j) (elemOf (c.vreg vd) w j) (elemOf (c.qreg qs) w j), 0⟩
    setV vd r
    pure .seq) s

def mod2 (o : OpVM2) (useW : Bool) (f : Nat → Nat → Nat → Nat → Nat → Nat) (s : State) :=
  modOp o.g o.vd o.va o.y o.w64 o.qs o.mask useW f s

def mod1 (o : OpVM1) (useW : Bool) (f : Nat → Nat → Nat → Nat) (s : State) :=
  modOp o.g o.vd o.va (.lit 0) o.w64 o.qs o.mask useW (fun w x _ _ q => f w x q) s

def execVmadd (o : OpVM2) (s : State) := mod2 o false (fun _ x y _ q => redMod (x + y) q) s
def execVmsub (o : OpVM2) (s : State) := mod2 o false (fun _ x y _ q => redMod ((x : Int) - y) q) s
def execVmmul (o : OpVM2) (s : State) := mod2 o true (fun w x y _ q => montMul w x y q) s
def execVmmac (o : OpVM2) (s : State) :=
  mod2 o true (fun w x y d q => redMod ((d : Int) + montMul w x y q) q) s
def execVmneg (o : OpVM1) (s : State) := mod1 o false (fun _ x q => redMod (-(x : Int)) q) s
def execVmred (o : OpVM1) (s : State) := mod1 o false (fun _ x q => redMod x q) s
def execVmto (o : OpVM1) (s : State) := mod1 o false (fun w x q => redMod ((x : Int) * 2 ^ w) q) s
def execVmfrom (o : OpVM1) (s : State) := mod1 o true (fun w x q => montMul w x 1 q) s

/-! ### Butterflies (10 R210, R211) -/

/-- Top and bottom of a butterfly. -/
def butterfly (inv : Bool) (w x y z q : Nat) : Nat × Nat :=
  if inv then (redMod (x + y) q, montMul w z ((x : Int) - y) q)
  else
    let t := montMul w z y q
    (redMod (x + t) q, redMod ((x : Int) - t) q)

def bflyIn (o : OpVBfly) (inv : Bool) (s : State) : Host.Outcome State Fault Refusal :=
  issue o.g (do
    let c ← getClaim
    let w := modWidth o.w64
    let d := o.dist.toNat
    orTrap (decide (2 ^ d < c.count w)) .illegalOperand (BitVec.ofNat 64 d) 7
    let top (j : Nat) : Bool := !Nat.testBit j d
    checkModuli c w o.qs true ((c.activeList o.mask w).filter top)
    let old := c.vreg o.vd
    let r := (List.range (c.count w)).map fun j =>
      let t := if top j then j else j - 2 ^ d
      if c.active (maskOf o.mask) w t then
        let p := butterfly inv w (elemOf (c.vreg o.va) w t) (elemOf (c.vreg o.va) w (t + 2 ^ d))
          (elemOf (c.vreg o.vb) w t) (elemOf (c.qreg o.qs) w t)
        if top j then p.1 else p.2
      else if zeroing o.mask then 0 else elemOf old w j
    setV o.vd (packLanes w c.grant r)
    pure .seq) s

def execVbfly (o : OpVBfly) (s : State) := bflyIn o false s
def execVibfly (o : OpVBfly) (s : State) := bflyIn o true s

def bflyCross (o : OpVBflyX) (inv : Bool) (s : State) : Host.Outcome State Fault Refusal :=
  issue o.g (do
    let c ← getClaim
    let w := modWidth o.w64
    checkModuli c w o.qs true (c.activeList o.mask w)
    let p (j : Nat) : Nat × Nat := butterfly inv w (elemOf (c.vreg o.va) w j) (elemOf (c.vreg o.vc) w j)
      (elemOf (c.vreg o.vb) w j) (elemOf (c.qreg o.qs) w j)
    let (top, _) := c.merge (c.vreg o.vd) w o.mask fun j => ⟨(p j).1, 0⟩
    let (bot, _) := c.merge (c.vreg (o.vd + 1)) w o.mask fun j => ⟨(p j).2, 0⟩
    setV o.vd top
    setV (o.vd + 1) bot
    pure .seq) s

def execVbflyX (o : OpVBflyX) (s : State) := bflyCross o false s
def execVibflyX (o : OpVBflyX) (s : State) := bflyCross o true s

/-! ### VAUTO (10 R212) -/

def execVauto (o : OpVAuto) (s : State) : Host.Outcome State Fault Refusal :=
  issue o.g (do
    let c ← getClaim
    let w := modWidth o.w64
    let gw ← operandZ o.b
    let g := gw.toNat
    let n := 2 ^ o.ln.toNat
    orTrap (g % 2 == 1 && decide (g < 2 * n)) .illegalOperand gw 4
    orTrap (decide (n ≤ c.count w)) .illegalOperand (o.ln.setWidth 64) 7
    checkModuli c w o.qs false (c.activeList o.mask w)
    let (r, _) := c.merge (c.vreg o.vd) w o.mask fun j =>
      let p := j / n * n
      let i := ((List.range n).find? fun i => i * g % (2 * n) % n == j % n).getD 0
      let x : Int := elemOf (c.vreg o.va) w (p + i)
      ⟨redMod (if i * g % (2 * n) < n then x else -x) (elemOf (c.qreg o.qs) w j), 0⟩
    setV o.vd r
    pure .seq) s

end Sys2Proof.Machine
end

