-- ==== Sys2Proof/Machine/VecMem.lean ====
section
/-! DEFINITION. Vector loads and stores (09 R188 to R190). -/

namespace Sys2Proof.Machine

/-- An active element: ordinal and address. -/
structure VElem where
  j : Nat
  a : Word
  deriving DecidableEq, Repr

/-- Trap information of an element (09 R189). -/
def elemInfo (acc : Access) (j : Nat) : Word := kindWord acc + BitVec.ofNat 64 (j * 2 ^ 8)

/-- Alignment of every active element. -/
def vecAlign (acc : Access) (n : Nat) (l : List VElem) : M Unit :=
  match l.find? fun e => e.a.toNat % n != 0 with
  | some e => trapW .misaligned e.a (elemInfo acc e.j)
  | none => pure ()

/-- What the checks of the elements have found, in ascending ordinal: the locations, the walks of the pages that
miss, and the first trap, after which no element is checked. -/
structure VFound where
  locs : List (Nat × Loc)
  walks : List Walk
  trap : Option Stop

/-- One more element is checked. -/
def VFound.add (acc : Access) (n : Nat) (sc : Scope) (s : State) (f : VFound) (e : VElem) : VFound :=
  match f.trap, locate e.a n acc sc e.j s with
  | some _, _ => f
  | none, .ok ((loc, _), _) => { f with locs := f.locs ++ [(e.j, loc)] }
  | none, .error (.wait 15 _ (.walk w)) => { f with walks := joinWalk f.walks w }
  | none, .error x => { f with trap := some x }

/-- Locations of the elements. The lowest failing ordinal traps: a trap is raised only where no lower element's page
misses, else the thread waits for those walks, which may fail (09 R189). -/
def vecLocate (acc : Access) (n : Nat) (sc : Scope) (l : List VElem) : M (List (Nat × Loc)) := fun s =>
  let f := l.foldl (VFound.add acc n sc s) ⟨[], [], none⟩
  match f.walks, f.trap with
  | [], none => .ok (f.locs, s)
  | [], some x => .error x
  | ws, _ => .error (.wait 15 0 (.walks ws))

/-- The scoreboard lets every element pass. -/
def vecBoard (n : Nat) (store : Bool) (l : List VElem) : M Unit :=
  match l with
  | [] => pure ()
  | e :: r => do
    boardCheck e.a n store
    vecBoard n store r

/-- The active elements of a memory form with their addresses. -/
def Claim.memElems (c : Claim) (m : Option KNo) (w : Nat) (addr : Nat → Word) : List VElem :=
  ((List.range (c.count w)).filter (c.active m w)).map fun j => ⟨j, addr j⟩

/-- A vector load: an element a request, complete when all have replied. -/
def vecLoad (opc : Nat) (v : VNo) (sz : Size) (ord : Ord) (sc : Scope) (m : Option VMask)
    (addr : Claim → Nat → Word) : M Flow := do
  let c ← getClaim
  let n := sizeBytes sz
  let es := c.memElems (maskOf m) (sizeBits sz) (addr c)
  vecAlign accRead n es
  let ls ← vecLocate accRead n sc es
  vecBoard n false es
  let s ← get
  let qs := (es.zip ls).map fun (e, l) =>
    s.request ⟨opc, e.a, n, accRead, sc, .read sz false, false, false⟩ l.2 false true e.j []
  if qs.isEmpty then
    let (r, _) := c.merge (c.vreg v) (sizeBits sz) m fun _ => ⟨0, 0⟩
    setV v r
    acquireIf (ordAcq ord)
    pure .seq
  else
    modS fun s => { s with reqs := s.reqs ++ qs }
    holdFor 4 0 (.vload v sz m qs.length []) (ordAcq ord)

/-- Posted elements leave in ascending ordinal. -/
def postAll (l : List Req) : M Unit :=
  match l with
  | [] => pure ()
  | q :: r => do
    postReq q
    postAll r

/-- A location outside the scratchpad of a core. -/
def Loc.far (l : Loc) (core : Nat) : Bool :=
  match l with
  | .sp c _ => c != core
  | .dev _ => true

/-- A vector store: an element a posted request. Elements outside the own scratchpad need room in the requests
channel (07 R137). -/
def vecStore (opc : Nat) (v : VNo) (sz : Size) (ord : Ord) (sc : Scope) (m : Option KNo)
    (addr : Claim → Nat → Word) : M Flow := do
  let c ← getClaim
  let n := sizeBytes sz
  let w := sizeBits sz
  let es := c.memElems m w (addr c)
  vecAlign accWrite n es
  let ls ← vecLocate accWrite n sc es
  vecBoard n true es
  let core := (← getCur).core
  if ls.any fun (_, l) => l.far core then channelFree .requests
  if ordRel ord then raiseDeferred
  let held ← closeIf (ordRel ord) sc
  let s ← get
  postAll ((es.zip ls).map fun (e, l) =>
    s.request ⟨opc, e.a, n, accWrite, sc, .write sz (BitVec.ofNat 64 (elemOf (c.vreg v) w e.j)), false, false⟩
      l.2 true true e.j held)
  pure .seq

/-- Addresses at consecutive elements. -/
def unitAddr (a : Word) (sz : Size) (j : Nat) : Word := a + BitVec.ofNat 64 (j * sizeBytes sz)

/-- Addresses at a stride. -/
def strideAddr (a st : Word) (j : Nat) : Word := a + BitVec.ofNat 64 j * st

/-- Addresses by index elements. -/
def indexAddr (c : Claim) (a : Word) (vi : VNo) (sz : Size) (uns : Bool) (j : Nat) : Word :=
  a + BitVec.ofInt 64 (intVal (sizeBits sz) uns (elemOf (c.vreg vi) (sizeBits sz) j)) *
    BitVec.ofNat 64 (sizeBytes sz)

def execVld (o : OpVLd) (s : State) : Host.Outcome State Fault Refusal :=
  issue o.g (do
    let _ ← getClaim
    let a ← vecAddr o.a o.off
    vecLoad 0x9B o.v o.sz o.ord o.scope o.mask (fun _ => unitAddr a o.sz)) s

def execVst (o : OpVSt) (s : State) : Host.Outcome State Fault Refusal :=
  issue o.g (do
    let _ ← getClaim
    let a ← vecAddr o.a o.off
    vecStore 0x9C o.v o.sz o.ord o.scope o.mask (fun _ => unitAddr a o.sz)) s

def execVlds (o : OpVLds) (s : State) : Host.Outcome State Fault Refusal :=
  issue o.g (do
    let _ ← getClaim
    let a ← vecAddr o.a o.off
    let st ← readS o.c
    vecLoad 0x9D o.v o.sz o.ord o.scope o.mask (fun _ => strideAddr a st)) s

def execVsts (o : OpVSts) (s : State) : Host.Outcome State Fault Refusal :=
  issue o.g (do
    let _ ← getClaim
    let a ← vecAddr o.a o.off
    let st ← readS o.c
    vecStore 0x9E o.v o.sz o.ord o.scope o.mask (fun _ => strideAddr a st)) s

def execVgath (o : OpVGath) (s : State) : Host.Outcome State Fault Refusal :=
  issue o.g (do
    let _ ← getClaim
    let a ← readS o.a
    vecLoad 0x9F o.v o.sz o.ord o.scope o.mask (fun c => indexAddr c a o.vi o.sz o.uns)) s

def execVscat (o : OpVScat) (s : State) : Host.Outcome State Fault Refusal :=
  issue o.g (do
    let _ ← getClaim
    let a ← readS o.a
    vecStore 0xA0 o.v o.sz o.ord o.scope o.mask (fun c => indexAddr c a o.vi o.sz o.uns)) s

/-- The replies of a vector load are in: the trap of the lowest element, or the register. -/
def finishVload (v : VNo) (sz : Size) (m : Option VMask) (got : List (Nat × Result)) : M Flow := do
  let s ← get
  let trapped := got.filterMap fun (j, r) => match r with
    | .trap c i0 i1 => some (j, c, i0, i1)
    | .ok _ _ => none
  match leastBy (fun x => x.1) trapped with
  | some (_, c, i0, i1) => trapW c i0 i1
  | none =>
    match s.cur.claim with
    | none => pure .seq
    | some c =>
      let (r, _) := c.merge (c.vreg v) (sizeBits sz) m fun j =>
        match got.find? fun (i, _) => i == j with
        | some (_, .ok x _) => ⟨x.toNat, 0⟩
        | _ => ⟨0, 0⟩
      setV v r
      pure .seq

end Sys2Proof.Machine
end

