-- ==== Sys2Proof/Machine/Boundary.lean ====
section
/-! DEFINITION. The instruction boundary of the thread that is checked out (06 R131, 14 R276 to R284,
05 R112), and the completion of a held instruction by its reply or event (06 R119, 02 R38). -/

namespace Sys2Proof.Machine

/-! ### Checking a thread out and in (log 3) -/

/-- A thread is taken out of its table, for a turn or to complete what it holds. -/
def State.checkOut (s : State) (t : Thread) (turn : Bool) : State :=
  { s with
    cur := { t with holds := false }, busy := true, inTurn := turn, second := t.halfDone, flow := .seq
    threads := tabErase s.threads t.tid }

/-- It goes back; one that has ended is gone. -/
def State.checkIn (s : State) : State :=
  let t := s.cur
  let s := { s with cur := Thread.idle, busy := false, inTurn := false, second := false, flow := .seq }
  if t.life = .ended then s else { s with threads := tabSet s.threads t.tid t }

/-! ### What happens at a boundary -/

/-- The instruction has completed, or its trap is taken. -/
def Flow.complete (f : Flow) : Bool :=
  match f with
  | .seq => true
  | .jump => true
  | .trapped => true
  | _ => false

/-- The checked-out thread stops where it is, with its slot reserved, or once its wait ends. -/
def Thread.stopHere (t : Thread) : Thread := t.stop t.dbg

/-- The instruction of a stepped thread has run: STEP is raised (14 R276, R284), unless it trapped or has halted its
thread (03 R62). -/
def State.raiseStep (s : State) : State :=
  if s.cur.life = .halted then s
  else match s.flow with
    | .seq => s.debugCause .step s.cur.pc none none 0
    | .jump => s.debugCause .step s.cur.pc none none 0
    | _ => s

/-- The turn issued nothing: a bank was lost, or the thread waits for its line (02 R40, 06 R124). -/
def State.noIssue (s : State) : Bool :=
  match s.flow with
  | .forfeited => true
  | .waiting r => !s.cur.holds && (r == 4 || r == 15)
  | _ => false

/-- A stepped thread has issued (14 R284): it is Stopped again, or stops as its wait ends. STEP follows its
instruction, where that is held as it completes. -/
def State.stepOver (s : State) : State :=
  if s.cur.stepping && !s.noIssue then
    let c := s.cur.core
    let s := s.updCur fun t => { t with stepping := false, stepDue := s.flow == .held || t.holds }
    let s := s.raiseStep.updCur Thread.stopHere
    if s.allThreads.any fun t => t.core == c && t.stepping then s
    else s.modCore c fun x => { x with dbg := { x.dbg with dstat := setBit x.dbg.dstat 1 true } }
  else if s.cur.stepDue && s.flow.complete then (s.updCur fun t => { t with stepDue := false }).raiseStep
  else s

/-- A stop that was pending on a running thread takes effect (14 R281). -/
def State.stopOver (s : State) : State :=
  match s.cur.life with
  | .running n => if s.cur.stopPend then
      s.updCur fun t => { t with life := .stopped, stopPend := false, rslot := some n } else s
  | _ => s

/-- A killed thread ends outside a packet (05 R112); so do the families it created. -/
def State.killOver (s : State) : State :=
  let t := s.cur
  if t.killed && t.packet.isNone && t.life != .ended then
    let made := (s.fams.filter fun (_, f) => f.creator == some t.tid && !f.fin).map (·.1)
    (s.killAll s.killFuel made []).endThread t.tid
  else s

/-- A save that was asked for is made (18 R355, R357): the thread is at a boundary, or waits for what a save
withdraws (06 R131). -/
def State.saveOver (s : State) : State :=
  match s.cur.savePend with
  | some k => if s.canSave s.cur then s.preemptThread s.cur k else s
  | none => s

/-- After its 256th consecutive turn in its slot, lost ones with it, an occupant makes way if at that turn a thread
of at least its priority is Ready (06 R121). DESIGN CHOICE: it is Ready from the next cycle, where an occupant
that a higher priority displaces is Ready from this one (log 23). -/
def State.turnOver (s : State) : State :=
  let t := s.cur
  let now := (s.core t.core).cycle
  let heir (u : Thread) : Bool := u.life == .ready && decide (u.readyAt / 2 ≤ now) && decide (t.eprio ≤ u.eprio)
  match t.life with
  | .running _ =>
    if t.consec == 256 && (s.onCore t.core).any heir then
      s.updCur fun t => { t with
        life := .ready, readyAt := readyStamp ((s.core t.core).cycle + 1) false, consec := 0 }
    else s
  | _ => s

/-- The stall reason that a turn counts as: 0 issued. -/
def Flow.reason (f : Flow) : Nat :=
  match f with
  | .waiting r => r
  | .forfeited => 2
  | _ => 0

/-- The channels that carry something a core has sent: those that can press back on it (15 R291, R292). -/
def State.chansBusy (s : State) (c : Nat) : Nat :=
  (if s.reqs.any fun q => q.src == c then 1 else 0) + (if s.pkts.isEmpty && s.linkMsgs.isEmpty then 0 else 2) +
    (if s.partials.any fun p => p.src == c then 4 else 0)

/-- Which of these channels a core finds stopped in its next cycle is the network's: a free choice (log 72). A
thread that waits to send looks again once its channel goes on (06 R119). -/
def State.drawStopped (s : State) (c : Nat) : State :=
  let busy := s.chansBusy c
  let (n, s) := if busy = 0 then (0, s) else s.choose 8
  let stopped := BitVec.ofNat 3 (n &&& busy)
  let s := s.modCore c fun x => { x with stopped := stopped }
  let goes (t : Thread) : Bool := t.core == c && (match t.wait with
    | some ⟨11, none, _, k⟩ => !stopped.getLsbD k
    | _ => false)
  if s.threads.any fun (_, t) => goes t then s.wakeWhere goes else s

/-- The cycle of a turn is over: the banks serve the next words, the turn is counted (20 Table 20.9). -/
def State.endCycle (s : State) (c reason : Nat) : State :=
  let cl := clusterOf c
  let s := (s.drawStopped c).modCore c fun x => { x.nextBanks with cycle := x.cycle + 1 }
  let s := if c % 128 = 0 then s.countEvent cl 0 1 else s
  if reason = 0 then s.countEvent cl 1 1
  else
    let s := s.countEvent cl (0x10 + reason) 1
    if reason = 15 then s.countEvent cl 0x22 1 else s

/-- What the sampler and the skid records keep of a turn: its issue, unless it forfeited or is to issue again
(14 R282, R287). -/
def Core.noteTurn (x : Core) (f : Flow) (held : Bool) : Core :=
  match x.lastIssue, f with
  | none, _ => x
  | some r, .forfeited => { x with lastIssue := some { r with reason := 2 } }
  | some r, .waiting _ => if held then x.noteSkid r.entry r.tid true else { x with lastIssue := none }
  | some r, _ => x.noteSkid r.entry r.tid true

/-- The turn is noted; the suppression of a breakpoint is over once its PC has issued (14 R275). -/
def State.noteTurn (s : State) (c : Nat) : State :=
  let x := (s.core c).noteTurn s.flow s.cur.holds
  (s.setCore c x).updCur fun t => match x.lastIssue with
    | some r => if r.reason = 0 && t.suppress == some r.pc then { t with suppress := none } else t
    | none => t

/-- Nothing stays kept for the second instruction of a pair. -/
def State.dropPair (s : State) : State :=
  let s := s.updCur fun t => { t with half := none, halfDone := false }
  let s := s.dropReserved s.cur
  if s.cur.laneRes.isSome && s.flow != .gone then
    (s.updCur fun t => { t with laneRes := none, laneReq := none }).lanesFreed (s.poolGroup s.cur.core)
  else s

/-- A pair leaves nothing behind once its instruction has completed. -/
def State.closePair (s : State) : State := if s.flow.complete || s.flow == .gone then s.dropPair else s

/-- The boundary after an instruction or a pair: watchpoint, step, stop, kill, the end of its wait,
save; then the thread goes back and the cycle of a turn ends. -/
def State.boundary (s : State) : State :=
  let c := s.cur.core
  let s := s.closePair
  let f := s.flow
  let s := if f.complete && s.cur.life != .halted then s.raiseWatch else s
  let s := s.stepOver.stopOver.killOver
  let s := if s.cur.life = .waiting && (f.complete || f == .forfeited) then s.wake s.cur.tid else s
  let s := s.saveOver
  let s := if f.complete || f == .forfeited then s.turnOver else s
  let s := { s with flow := f }
  if s.inTurn then ((s.noteTurn c).checkIn).endCycle c f.reason else s.checkIn

/-! ### Completing a held instruction -/

/-- The thread completes its held instruction by `body`. If it was the first of a pair, the second is
due in the next step (02 R38). -/
def State.withThread (s : State) (tid : Nat) (body : M Flow) : State :=
  match tabGet s.threads tid with
  | none => s
  | some t =>
    let s := s.checkOut { t with wait := none } false
    let s := s.settle (body s)
    if s.flow == .seq && s.cur.half.isSome && !s.cur.halfDone then
      { s.updCur (fun t => { t with halfDone := true }) with second := true }
    else s.boundary

/-- The words of a record in order, or the lowest one's trap. -/
def gotWords (n : Nat) (got : List (Nat × Result)) : Except (Cause × Word) (List Word) :=
  match n with
  | 0 => .ok []
  | j + 1 => match gotWords j got with
    | .error e => .error e
    | .ok l => match got.find? fun (i, _) => i == j with
      | some (_, .ok v _) => .ok (l ++ [v])
      | some (_, .trap c i0 _) => .error (c, i0)
      | none => .ok (l ++ [0])

/-- An instruction whose record has been read goes on. -/
def recordRead (next : Comp) (rec : List Word) : M Flow :=
  match next with
  | .copyRec op d a => copyWith op d a rec
  | .ebinRec d a => binWith d a rec
  | .ngrpRec d a sys => groupWith d a sys rec
  | .drainRec o dst acc _ => drainWith o dst acc.toNat rec
  | k => finish k 0 0 false

/-- A MONA whose home refuses it arms nothing (07 R151). -/
def Thread.unarmed (t : Thread) (k : Comp) : Thread :=
  match k with
  | .mona i => { t with mons := t.mons.set i none }
  | _ => t

/-- A reply of one access completes what the thread holds; DEADLOCK has no other effect (17 R332). -/
def replied (k : Comp) (r : Result) (acq : Bool) : M Flow :=
  match r with
  | .ok v0 v1 => finish k v0 v1 acq
  | .trap c i0 i1 => fun s =>
    .error (.trap c (some i0) (some i1) ((if c = .deadlock then s.unread else s).updCur fun t => t.unarmed k))

/-- A reply reaches the context of its thread (06 R119): an instruction that awaits several
completes with the last. -/
def State.reply (s : State) (tid elem : Nat) (r : Result) : State :=
  match tabGet s.threads tid with
  | none => s
  | some t =>
    match t.wait with
    | some ⟨reason, some (.vload v z m need got), acq, key⟩ =>
      let got := got ++ [(elem, r)]
      if got.length < need then
        s.modThread tid fun t => { t with wait := some ⟨reason, some (.vload v z m need got), acq, key⟩ }
      else s.withThread tid (do acquireIf acq; finishVload v z m got)
    | some ⟨reason, some (.words need got next), acq, key⟩ =>
      let got := got ++ [(elem, r)]
      if got.length < need then
        s.modThread tid fun t => { t with wait := some ⟨reason, some (.words need got next), acq, key⟩ }
      else s.withThread tid (match gotWords need got with
        | .ok l => recordRead next l
        | .error (c, a) => trapW c a 0)
    | some ⟨_, some k, acq, _⟩ => s.withThread tid (replied k r acq)
    | _ => s

/-- MEMORY_REPLY: the nth reply that may arrive does. -/
def execMemoryReply (n : Nat) (s : State) : Host.Outcome State Fault Refusal :=
  event (fun s =>
    match s.nextFlit s.replyFlow (s.replies.map s.replyFlit) n with
    | none => none
    | some i => (s.replies[i]?).map fun r =>
        { s with replies := removeAt s.replies i }.reply r.tid r.elem r.res) s

/-- DEFERRAL_DELIVERY: the nth value that may arrive completes its TAKE, LDF or PUT.wait (06 R128). -/
def execDeferralDelivery (n : Nat) (s : State) : Host.Outcome State Fault Refusal :=
  event (fun s =>
    match s.nextFlit s.msgFlow (s.delivers.map s.deliverFlit) n with
    | none => none
    | some i => (s.delivers[i]?).map fun d =>
        { s with delivers := removeAt s.delivers i }.reply d.tid 0 (.ok d.v 0)) s

/-- ERROR_NOTICE: the nth notice that may arrive sets the deferred-error record of its thread (07 R138). -/
def execErrorNotice (n : Nat) (s : State) : Host.Outcome State Fault Refusal :=
  event (fun s =>
    match s.nextFlit s.replyFlow (s.notices.map s.noticeFlit) n with
    | none => none
    | some i => (s.notices[i]?).map fun m =>
        { s with notices := removeAt s.notices i }.noteError m.tid m.launch m.pos m.cause m.addr) s

/-! ### WAITM (07 R152, 06 R129) -/

/-- A WAITM ends: with what its thread's monitors hold, or with the bit `extra` that tells what else ended it, and
then every wake stays held for the next one (07 R152, Table 7.5). -/
def waitmWith (d : Dst) (extra : Nat) : M Flow := do
  let c ← getCur
  let (w, c') := if extra = 0 then c.woken 0 else (BitVec.ofNat 64 extra, { c with remain := 0 })
  updCur fun _ => c'
  writeD d w

def State.endWaitm (s : State) (t : Thread) (extra : Nat) : State :=
  match t.wait with
  | some ⟨_, some (.waitm d _), _, _⟩ => s.withThread t.tid (waitmWith d extra)
  | _ => s

/-- MONITOR_WAKE: the nth wake that may arrive reaches its thread; it is held, or ends a WAITM that no stop has
caught. -/
def execMonitorWake (n : Nat) (s : State) : Host.Outcome State Fault Refusal :=
  event (fun s =>
    match s.nextFlit s.msgFlow (s.wakes.map s.wakeFlit) n with
    | none => none
    | some i => (s.wakes[i]?).map fun w =>
      let s : State := { s with wakes := removeAt s.wakes i }
      let s := s.modThread w.tid fun t => { t with
        mons := t.mons.set w.idx ((t.mons.getD w.idx none).map fun m =>
          if m.armed && m.line == w.line then { m with wake := true } else m) }
      match tabGet s.threads w.tid with
      | some t => if t.life = .waiting && !t.stopPend && (t.woken 0).1 != 0 && (s.waitmDue t).isNone then
          s.endWaitm t 0 else s
      | none => s) s

/-- WAITM_TIMEOUT: the nth WAITM whose time has come ends. -/
def execWaitmTimeout (n : Nat) (s : State) : Host.Outcome State Fault Refusal :=
  event (fun s =>
    let l := s.threads.filterMap fun (_, t) => (s.waitmDue t).map fun x => (t, x)
    match l[n % l.length]? with
    | none => none
    | some (t, x) => some (s.endWaitm t x)) s

/-! ### Release phases (15 R298, R299) -/

/-- A thread whose held release has all its phases. -/
def Thread.released (t : Thread) : Option (Comp × Bool) :=
  match t.wait with
  | some ⟨_, some (.release k []), acq, _⟩ => some (k, acq)
  | _ => none

/-- The rest of an instruction after its release phases: a pending error record first. -/
def afterRelease (k : Comp) (acq : Bool) : M Flow := do
  raiseDeferred
  match k with
  | .fence eng => fenceNow eng acq
  | .rpush d ring h => rpushNow d ring h
  | .erepl d h free => replayNow d h free
  | k => finish k 0 0 acq

/-- PHASE_MARKER: a marker reaches a terminal of a closed phase of core n and is answered. -/
def execPhaseMarker (n : Nat) (s : State) : Host.Outcome State Fault Refusal :=
  event (fun s => s.markerAnswered n) s

/-- A release of the own window, for which its thread waits (15 R294). -/
def Req.ownHeld (q : Req) : Bool := !q.vec && bits q.va 63 56 == 0xFF

/-- The releases that were held in `s`, for which a thread waits, and that have their phases in `t`. -/
def State.freed (s t : State) : List Req :=
  t.reqs.filter fun b => b.held.isEmpty && (!b.posted || b.ownHeld) &&
    s.reqs.any fun a => !a.held.isEmpty && { a with held := [] } == b

/-- Those of them whose threads have a pending error record: each traps instead of leaving (07 R138,
15 R298). -/
def State.freedInError (s t : State) : List Req :=
  (s.freed t).filter fun b => match t.thread? b.tid with
    | some x => x.errRec.isSome
    | none => false

def State.raiseHeld (s : State) (l : List Req) : State :=
  match l with
  | [] => s
  | q :: r => (({ s with reqs := s.reqs.filter fun x => x != q } : State).withThread q.tid
      (do raiseDeferred; pure .seq)).raiseHeld r

/-- Releases of the own window that have their phases are performed now (15 R294). -/
def State.performOwn (s : State) (l : List Req) : State :=
  match l with
  | [] => s
  | q :: r =>
    match (tabGet s.threads q.tid).bind (·.wait) with
    | some ⟨_, some k, acq, _⟩ =>
      (({ s with reqs := s.reqs.filter fun x => x != q } : State).withThread q.tid
        (Machine.inTurn q (if q.posted then none else some k) acq)).performOwn r
    | _ => s.performOwn r

/-- PHASE_COMPLETE: a closed phase of core n with every answer completes, and the first release that
has all its phases proceeds. -/
def execPhaseComplete (n : Nat) (s : State) : Host.Outcome State Fault Refusal :=
  event (fun s =>
    let due (s : State) : Option (Nat × Comp × Bool) :=
      firstSome (fun (_, t) => if t.core = n then t.released.map fun (k, a) => (t.tid, k, a) else none) s.threads
    match due s with
    | some (tid, k, acq) => some (s.withThread tid (afterRelease k acq))
    | none => match s.phaseDone n with
      | none => none
      | some t =>
        let u := t.raiseHeld (s.freedInError t)
        let t := u.performOwn ((s.freed t).filter fun q => q.ownHeld && u.reqs.contains q)
        match due t with
        | some (tid, k, acq) => some (t.withThread tid (afterRelease k acq))
        | none => some t) s

/-! ### Packets (11 R215 to R217, R227) -/

/-- Spill slots of a launch on a core that packets hold. -/
def Core.spillHeld (x : Core) (launch : Nat) : List Nat :=
  x.packets.filterMap fun p => match p.hold with
    | .slot l n => if l = launch then some n else none
    | _ => none

/-- The launch whose spill slots a packet may take at a core (11 R217): its own where that is bound there,
else that of the core's lowest-numbered valid bind record. -/
def State.spillLaunch (s : State) (p : Packet) : Option (Nat × Launch) :=
  let recs := s.bindRecs p.dst
  let k : Option Nat := if recs.any fun (_, r) => r.launch == p.launch then some p.launch
    else recs.head?.map fun (_, r) => r.launch
  k.bind fun k => (s.launch? k).map fun l => (k, l)

/-- The key of spill slot n of a launch at a core: SPILL + m × SPILLN × 512 + n × 512, the core being place
core m (11 R217). -/
def Launch.spillKey (l : Launch) (core n : Nat) : Nat :=
  (l.word 13).toNat + (l.place.idxOf core * l.field 14 15 0 + n) * 512

/-- What a packet in a spill slot holds there. DESIGN CHOICE: the header as delivered in word 0, then the
payload flits, a poisoned one with tag POISON: the spec gives the slot and not its layout (log 71). The cluster of
the receiver writes them, where the home lets it (19 R379, R380). -/
def State.spillWrite (s : State) (p : Packet) : State :=
  match p.hold with
  | .slot k n => match s.launch? k with
    | none => s
    | some l =>
      let a := l.spillKey p.dst n
      ((p.header, false) :: p.flits).zipIdx.foldl (fun (s : State) (x : (Word × Bool) × Nat) =>
        let k := a + 8 * x.2
        if s.homeAllows (clusterMaster p.dst) k false true then
          s.putWord k (if x.1.2 then 0 else x.1.1) (if x.1.2 then .poison else .full)
        else s) s
  | _ => s

/-- A header arrives: a reassembly entry, or a spill slot, or the packet is discarded. -/
def State.headerArrives (s : State) (p : Packet) : State :=
  let x := s.core p.dst
  let p := { p with arrived := true }
  let open_ := (x.packets.filter fun q => q.arrived && q.hold == .entry).length
  let hold : PktHold :=
    if open_ < 8 then .entry
    else match s.spillLaunch p with
      | none => .discarded
      | some (i, l) =>
        match (List.range (l.field 14 15 0)).find? fun n => !(x.spillHeld i).contains n with
        | some n => .slot i n
        | none => .discarded
  let p := { p with hold := hold }
  (s.modCore p.dst fun x => { x with packets := x.packets ++ [p] }).spillWrite p

/-- A packet for another package leaves by its port; whether it is accepted is settled there. -/
def State.leaves (s : State) (p : Packet) : Bool := bits p.send 24 13 != s.pkg.num

/-- PACKET_HEADER_ARRIVAL: the nth header that may arrive does. -/
def execPacketHeaderArrival (n : Nat) (s : State) : Host.Outcome State Fault Refusal :=
  event (fun s =>
    let l := s.pkts.filter fun p => !p.arrived && p.ack.isNone && !s.leaves p
    match (s.nextFlit s.msgFlow (l.map fun p => s.packetFlit p p.no) n).bind fun i => l[i]? with
    | none => none
    | some p =>
      let s : State := { s with pkts := s.pkts.map fun q => if q.id = p.id then { q with arrived := true } else q }
      some (s.headerArrives p)) s

/-- The closing flit arrives: the packet joins its queue or its spill list and is accepted, or is
refused. -/
def State.closeArrives (s : State) (p : Packet) : State :=
  let c := p.dst
  let x := s.core c
  match x.packets.find? fun q => q.id == p.id with
  | none => { s with pkts := s.pkts.map fun r => if r.id = p.id then { r with ack := some false } else r }
  | some q =>
    let ok := q.hold != .discarded
    let s : State := { s with pkts := s.pkts.map fun r => if r.id = p.id then { r with ack := some ok } else r }
    if !ok then s.modCore c fun x => { x with packets := x.packets.filter fun r => r.id != p.id }
    else
      let q := { q with flits := p.flits, closed := true }
      let room := (x.spill.getD q.queue []).isEmpty && decide (x.queueCount q.queue + 1 + q.flits.length ≤ 64)
      let q : Packet := if room then { q with hold := .entry, arrived := false } else q
      let put (l : List (List Nat)) : List (List Nat) := setQueue l q.queue (l.getD q.queue [] ++ [q.id])
      ((s.modCore c fun x => { x with
        packets := x.packets.map fun r => if r.id = q.id then q else r
        rxq := if room then put x.rxq else x.rxq
        spill := if room then x.spill else put x.spill }).spillWrite q).wakeReaders c

/-- PACKET_CLOSE_ARRIVAL: the nth closing flit that may arrive does, its header having arrived. -/
def execPacketCloseArrival (n : Nat) (s : State) : Host.Outcome State Fault Refusal :=
  event (fun s =>
    let l := s.pkts.filter fun p => p.arrived && p.closed && p.ack.isNone
    match (s.nextFlit s.msgFlow (l.map fun p => s.packetFlit p p.cno) n).bind fun i => l[i]? with
    | none => none
    | some p => some (s.closeArrives p)) s

/-- The packet of a thread is closed; the TXE write completes, or traps QUEUE_OVERFLOW. -/
def txeDone (ok : Bool) (p : Packet) (k : Comp) : M Flow := do
  updCur fun t => { t with packet := none }
  if ok then
    modS fun s => s.countEvent (clusterOf s.cur.core) 0x23 1
    match k with
    | .txeTo pc src => transfer pc (some src)
    | .txeRes conv => do
      if conv then countConv
      pure .seq
    | .txeFam fk => do
      modS fun s => s.familyMade fk
      pure .seq
    | _ => pure .seq
  else do
    match k with
    | .txeFam fk => modS fun s => s.unmake fk
    | _ => pure ()
    fun s => .error (.trap .queueOverflow (some p.send) (some (BitVec.ofNat 64 p.flits.length)) s)

/-- The terminal through which a packet for another package leaves. -/
def State.packetOut (s : State) (p : Packet) : Nat := s.portFor (bits p.send 24 13)

/-- A packet for another package can go there: a route exists, and its port is up (21 R400). -/
def State.packetGoes (s : State) (p : Packet) : Bool :=
  match tabGet s.pkg.grte (bits p.send 24 13) with
  | some g => g.getLsbD 4 && s.dieReach (dieOf (lcoreCore p.header)) (termDie (s.packetOut p)) &&
      (s.linksBetween (s.portOf (lcoreCore p.header)) (s.packetOut p)).all fun i => !s.linkIsDown i
  | none => false

/-- A packet has its answer, or its way to another package is not held up. -/
def State.packetDue (s : State) (p : Packet) : Bool :=
  p.ack.isSome || (p.closed && s.leaves p &&
    !(s.packetGoes p && s.stopped (s.portOf (lcoreCore p.header)) (s.packetOut p)))

/-- The TXE of a packet that no port carries on is answered as R403 has a returning operation answered: POISON_READ.
DEDUCED: TINFO0 receives the send header, as no address is there (log 52). -/
def txeLost (p : Packet) (k : Comp) : M Flow := do
  updCur fun t => { t with packet := none }
  match k with
  | .txeFam fk => modS fun s => s.unmake fk
  | _ => pure ()
  fun s => .error (.trap .poisonRead (some p.send) (some 0) s)

/-- PACKET_ACKNOWLEDGE: the nth answer reaches its sender; that of another package is a free choice where the packet
can go there. -/
def execPacketAcknowledge (n : Nat) (s : State) : Host.Outcome State Fault Refusal :=
  event (fun s =>
    let l := s.pkts.filter s.packetDue
    match l[n % l.length]? with
    | none => none
    | some p =>
      let s : State := { s with pkts := s.pkts.filter fun q => q.id != p.id }
      let (ok, s) : Bool × State := match p.ack with
        | some b => (b, s)
        | none => let (i, s) := s.choose 2
                  (i == 0, s)
      some (match tabGet s.threads p.tid with
        | some t => match t.wait with
          | some ⟨11, some k, _, _⟩ =>
            s.withThread t.tid (if p.ack.isSome || s.packetGoes p then txeDone ok p k else txeLost p k)
          | _ => s
        | none => s)) s

end Sys2Proof.Machine
end

