-- ==== Sys2Proof/Machine/Pair.lean ====
section
/-! DEFINITION. Pairs of instructions (02 R34, R37): classes of opcodes, the registers that an
instruction writes and reads, and the pair rules; the feature gates of opcodes (02 R35, R36). -/

namespace Sys2Proof.Machine

/-! ### Registers by number: scalar specifiers, and predicates from 128 up -/

/-- The registers an instruction writes and reads; ZERO and P0 are never written, and reading P0
depends on nothing. -/
structure RegUse where
  w : List Nat
  r : List Nat
  deriving DecidableEq, Repr

def regUse (r : SReg) : List Nat := [r.code.toNat]

def dstUse (d : Dst) : List Nat :=
  match d with
  | .zero => []
  | d => [d.code.toNat]

def predUse (p : PredNo) : List Nat := if p.val = 0 then [] else [128 + p.val]

def srcBUse (b : SrcB) : List Nat :=
  match b with
  | .reg r => regUse r
  | _ => []

def srcCUse (b : SrcC) : List Nat :=
  match b with
  | .reg r => regUse r
  | _ => []

def vvalUse (v : VVal) : List Nat :=
  match v with
  | .scalar r => regUse r
  | _ => []

def vmsetUse (v : VMsetSrc) : List Nat :=
  match v with
  | .scalar r => regUse r
  | _ => []

/-! ### One shape at a time -/

def useG (o : OpG) : RegUse := ⟨[], predUse o.g.pr⟩
def useMfc (o : OpMfc) : RegUse := ⟨dstUse o.d, predUse o.g.pr⟩
def useAlu (o : OpAlu) : RegUse := ⟨dstUse o.d, predUse o.g.pr ++ regUse o.a ++ srcBUse o.b⟩
def useAlu3 (o : OpAlu3) : RegUse := ⟨dstUse o.d, predUse o.g.pr ++ regUse o.a ++ srcBUse o.b ++ regUse o.c⟩
def useAluU (o : OpAluU) : RegUse := ⟨dstUse o.d, predUse o.g.pr ++ regUse o.a ++ srcBUse o.b⟩
def useDA (o : OpDA) : RegUse := ⟨dstUse o.d, predUse o.g.pr ++ regUse o.a⟩
def useBfx (o : OpBfx) : RegUse := ⟨dstUse o.d, predUse o.g.pr ++ regUse o.a⟩
def useBfi (o : OpBfi) : RegUse := ⟨dstUse o.d, predUse o.g.pr ++ regUse o.a ++ regUse o.c⟩
def useExt (o : OpExt) : RegUse := ⟨dstUse o.d, predUse o.g.pr ++ regUse o.a⟩
def useMov (o : OpMov) : RegUse := ⟨dstUse o.d, predUse o.g.pr ++ srcBUse o.b⟩
def useMovHi (o : OpMovHi) : RegUse := ⟨dstUse o.d, predUse o.g.pr ++ regUse o.a⟩
def useSel (o : OpSel) : RegUse := ⟨dstUse o.d, predUse o.g.pr ++ regUse o.a ++ srcBUse o.b⟩
def useLea (o : OpLea) : RegUse := ⟨dstUse o.d, predUse o.g.pr ++ regUse o.a ++ srcBUse o.b⟩
def useCmp (o : OpCmp) : RegUse := ⟨predUse o.pd, predUse o.g.pr ++ regUse o.a ++ srcBUse o.b⟩
def usePlog (o : OpPlog) : RegUse := ⟨predUse o.pd, predUse o.g.pr⟩
def useFp2 (o : OpFp2) : RegUse := ⟨dstUse o.d, predUse o.g.pr ++ regUse o.a ++ srcCUse o.b⟩
def useFpMin (o : OpFpMin) : RegUse := ⟨dstUse o.d, predUse o.g.pr ++ regUse o.a ++ srcCUse o.b⟩
def useFp3 (o : OpFp3) : RegUse := ⟨dstUse o.d, predUse o.g.pr ++ regUse o.a ++ srcCUse o.b ++ regUse o.c⟩
def useFcmp (o : OpFcmp) : RegUse := ⟨predUse o.pd, predUse o.g.pr ++ regUse o.a ++ srcCUse o.b⟩
def useFcvt (o : OpFcvt) : RegUse := ⟨dstUse o.d, predUse o.g.pr ++ regUse o.a⟩
def useIcvt (o : OpIcvt) : RegUse := ⟨dstUse o.d, predUse o.g.pr ++ regUse o.a⟩
def useLd (o : OpLd) : RegUse := ⟨dstUse o.d, predUse o.g.pr ++ regUse o.m.base ++ srcCUse o.m.off⟩
def useLdp (o : OpLdp) : RegUse := ⟨dstUse o.d ++ predUse o.pd, predUse o.g.pr ++ regUse o.m.base ++ srcCUse o.m.off⟩
def useSt (o : OpSt) : RegUse := ⟨[], predUse o.g.pr ++ regUse o.m.base ++ srcCUse o.m.off ++ regUse o.c⟩
def useStn (o : OpStn) : RegUse := ⟨[], predUse o.g.pr ++ regUse o.m.base ++ srcCUse o.m.off ++ regUse o.c⟩
def useTake (o : OpTake) : RegUse := ⟨dstUse o.d, predUse o.g.pr ++ regUse o.m.base ++ srcCUse o.m.off⟩
def usePut (o : OpPut) : RegUse := ⟨[], predUse o.g.pr ++ regUse o.m.base ++ srcCUse o.m.off ++ regUse o.c⟩
def useTagr (o : OpTagr) : RegUse := ⟨dstUse o.d ++ [o.t.val], predUse o.g.pr ++ regUse o.m.base ++ srcCUse o.m.off⟩
def useTagw (o : OpTagw) : RegUse := ⟨[], predUse o.g.pr ++ regUse o.m.base ++ srcCUse o.m.off ++ regUse o.c⟩
def useFence (o : OpFence) : RegUse := ⟨[], predUse o.g.pr⟩
def useAtom (o : OpAtom) : RegUse := ⟨dstUse o.d, predUse o.g.pr ++ regUse o.m.base ++ srcCUse o.m.off ++ regUse o.c⟩
def useAfadd (o : OpAfadd) : RegUse := ⟨dstUse o.d, predUse o.g.pr ++ regUse o.m.base ++ srcCUse o.m.off ++ regUse o.c⟩
def useCas (o : OpCas) : RegUse := ⟨predUse o.pd ++ [o.d.val], predUse o.g.pr ++ regUse o.m.base ++ srcCUse o.m.off ++ regUse o.c ++ [o.d.val]⟩
def useM (o : OpM) : RegUse := ⟨[], predUse o.g.pr ++ regUse o.m.base ++ srcCUse o.m.off⟩
def useDC (o : OpDC) : RegUse := ⟨dstUse o.d, predUse o.g.pr ++ srcCUse o.b⟩
def useTset (o : OpTset) : RegUse := ⟨dstUse o.d, predUse o.g.pr ++ regUse o.a ++ srcCUse o.b⟩
def useDM (o : OpDM) : RegUse := ⟨dstUse o.d, predUse o.g.pr ++ regUse o.m.base ++ srcCUse o.m.off⟩
def useA (o : OpA) : RegUse := ⟨[], predUse o.g.pr ++ regUse o.a⟩
def useEapp (o : OpEapp) : RegUse := ⟨[], predUse o.g.pr ++ regUse o.a ++ srcCUse o.b ++ regUse o.c⟩
def useErepl (o : OpErepl) : RegUse := ⟨dstUse o.d, predUse o.g.pr ++ regUse o.a⟩
def useD (o : OpD) : RegUse := ⟨dstUse o.d, predUse o.g.pr⟩
def useVLd (o : OpVLd) : RegUse := ⟨[], predUse o.g.pr ++ regUse o.a⟩
def useVSt (o : OpVSt) : RegUse := ⟨[], predUse o.g.pr ++ regUse o.a⟩
def useVLds (o : OpVLds) : RegUse := ⟨[], predUse o.g.pr ++ regUse o.a ++ regUse o.c⟩
def useVSts (o : OpVSts) : RegUse := ⟨[], predUse o.g.pr ++ regUse o.a ++ regUse o.c⟩
def useVGath (o : OpVGath) : RegUse := ⟨[], predUse o.g.pr ++ regUse o.a⟩
def useVScat (o : OpVScat) : RegUse := ⟨[], predUse o.g.pr ++ regUse o.a⟩
def useVFill (o : OpVFill) : RegUse := ⟨[], predUse o.g.pr ++ vvalUse o.val⟩
def useVExt (o : OpVExt) : RegUse := ⟨dstUse o.d, predUse o.g.pr ++ srcCUse o.idx⟩
def useVIns (o : OpVIns) : RegUse := ⟨[], predUse o.g.pr ++ regUse o.a ++ srcCUse o.idx⟩
def useVAlu (o : OpVAlu) : RegUse := ⟨[], predUse o.g.pr⟩
def useVFma (o : OpVFma) : RegUse := ⟨[], predUse o.g.pr⟩
def useVAbs (o : OpVAbs) : RegUse := ⟨[], predUse o.g.pr⟩
def useVCmp (o : OpVCmp) : RegUse := ⟨[], predUse o.g.pr⟩
def useVSel (o : OpVSel) : RegUse := ⟨[], predUse o.g.pr⟩
def useKlog (o : OpKlog) : RegUse := ⟨[], predUse o.g.pr⟩
def useKpop (o : OpKpop) : RegUse := ⟨dstUse o.d, predUse o.g.pr⟩
def useVCvt (o : OpVCvt) : RegUse := ⟨[], predUse o.g.pr⟩
def useVQmx (o : OpVQmx) : RegUse := ⟨[], predUse o.g.pr⟩
def useVDqmx (o : OpVDqmx) : RegUse := ⟨[], predUse o.g.pr⟩
def useVRed (o : OpVRed) : RegUse := ⟨dstUse o.d, predUse o.g.pr⟩
def useVSpec (o : OpVSpec) : RegUse := ⟨[], predUse o.g.pr⟩
def useVPerm (o : OpVPerm) : RegUse := ⟨[], predUse o.g.pr⟩
def useVBperm (o : OpVBperm) : RegUse := ⟨[], predUse o.g.pr⟩
def useVMset (o : OpVMset) : RegUse := ⟨[], predUse o.g.pr ++ vmsetUse o.src⟩
def useVM2 (o : OpVM2) : RegUse := ⟨[], predUse o.g.pr⟩
def useVM1 (o : OpVM1) : RegUse := ⟨[], predUse o.g.pr⟩
def useVBfly (o : OpVBfly) : RegUse := ⟨[], predUse o.g.pr⟩
def useVBflyX (o : OpVBflyX) : RegUse := ⟨[], predUse o.g.pr⟩
def useVAuto (o : OpVAuto) : RegUse := ⟨[], predUse o.g.pr ++ srcCUse o.b⟩
def useRingi (o : OpRingi) : RegUse := ⟨[], predUse o.g.pr ++ regUse o.a ++ srcCUse o.cfg⟩
def useRing (o : OpRing) : RegUse := ⟨dstUse o.d, predUse o.g.pr⟩
def useRpush (o : OpRpush) : RegUse := ⟨dstUse o.d, predUse o.g.pr ++ regUse o.a⟩
def useRstat (o : OpRstat) : RegUse := ⟨dstUse o.d, predUse o.g.pr⟩
def useTldw (o : OpTldw) : RegUse := ⟨dstUse o.d, predUse o.g.pr⟩
def useTmma (o : OpTmma) : RegUse := ⟨[], predUse o.g.pr ++ regUse o.m.base ++ srcCUse o.m.off ++ regUse o.c⟩
def useTdrain (o : OpTdrain) : RegUse := ⟨[], predUse o.g.pr ++ regUse o.a ++ regUse o.b ++ regUse o.c⟩

/-- What an instruction of class first or second writes and reads; the others are in no pair. -/
def regsOf (i : Instr) : RegUse :=
  match i with
  | .nop o => useG o
  | .mfc o => useMfc o
  | .add o => useAlu o
  | .sub o => useAlu o
  | .mul o => useAlu o
  | .mulhs o => useAlu o
  | .mulhu o => useAlu o
  | .madd o => useAlu3 o
  | .divs o => useAlu o
  | .divu o => useAlu o
  | .rems o => useAlu o
  | .remu o => useAlu o
  | .and o => useAlu o
  | .or o => useAlu o
  | .xor o => useAlu o
  | .andn o => useAlu o
  | .shl o => useAlu o
  | .shr o => useAlu o
  | .sar o => useAlu o
  | .rol o => useAlu o
  | .min o => useAlu o
  | .max o => useAlu o
  | .minu o => useAlu o
  | .maxu o => useAlu o
  | .adds o => useAluU o
  | .subs o => useAluU o
  | .abs o => useDA o
  | .clz o => useDA o
  | .ctz o => useDA o
  | .popc o => useDA o
  | .brev o => useDA o
  | .bswap o => useDA o
  | .bfx o => useBfx o
  | .bfi o => useBfi o
  | .sext o => useExt o
  | .zext o => useExt o
  | .mov o => useMov o
  | .movHi o => useMovHi o
  | .sel o => useSel o
  | .lea o => useLea o
  | .cmp o => useCmp o
  | .plog o => usePlog o
  | .fadd o => useFp2 o
  | .fsub o => useFp2 o
  | .fmul o => useFp2 o
  | .fmin o => useFpMin o
  | .fmax o => useFpMin o
  | .ffma o => useFp3 o
  | .fcmp o => useFcmp o
  | .fcvt o => useFcvt o
  | .icvt o => useIcvt o
  | .ld o => useLd o
  | .ldp o => useLdp o
  | .st o => useSt o
  | .stn o => useStn o
  | .take o => useTake o
  | .ldf o => useTake o
  | .put o => usePut o
  | .putWait o => usePut o
  | .tagr o => useTagr o
  | .tagw o => useTagw o
  | .fence o => useFence o
  | .aadd o => useAtom o
  | .aand o => useAtom o
  | .aor o => useAtom o
  | .axor o => useAtom o
  | .amin o => useAtom o
  | .amax o => useAtom o
  | .aminu o => useAtom o
  | .amaxu o => useAtom o
  | .axchg o => useAtom o
  | .afadd o => useAfadd o
  | .cas o => useCas o
  | .pref o => useM o
  | .mona o => useM o
  | .mond o => useM o
  | .mondAll o => useG o
  | .waitm o => useDC o
  | .tset o => useTset o
  | .tlook o => useDA o
  | .tclr o => useDA o
  | .copy o => useDM o
  | .copyt o => useDM o
  | .gath o => useDM o
  | .pack o => useDM o
  | .unpack o => useDM o
  | .ccan o => useA o
  | .cstat o => useDA o
  | .ebin o => useDM o
  | .eapp o => useEapp o
  | .erepl o => useErepl o
  | .vclaim o => useDC o
  | .vrel o => useG o
  | .vyield o => useD o
  | .vld o => useVLd o
  | .vst o => useVSt o
  | .vlds o => useVLds o
  | .vsts o => useVSts o
  | .vgath o => useVGath o
  | .vscat o => useVScat o
  | .vbcast o => useVFill o
  | .viota o => useVFill o
  | .vext o => useVExt o
  | .vins o => useVIns o
  | .vadd o => useVAlu o
  | .vsub o => useVAlu o
  | .vmul o => useVAlu o
  | .vfma o => useVFma o
  | .vmin o => useVAlu o
  | .vmax o => useVAlu o
  | .vabs o => useVAbs o
  | .vand o => useVAlu o
  | .vor o => useVAlu o
  | .vxor o => useVAlu o
  | .vshl o => useVAlu o
  | .vshr o => useVAlu o
  | .vsar o => useVAlu o
  | .vcmp o => useVCmp o
  | .vsel o => useVSel o
  | .klog o => useKlog o
  | .kpop o => useKpop o
  | .vcvt o => useVCvt o
  | .vqmx o => useVQmx o
  | .vdqmx o => useVDqmx o
  | .vrsum o => useVRed o
  | .vrmax o => useVRed o
  | .vrmin o => useVRed o
  | .vexp2 o => useVSpec o
  | .vlog2 o => useVSpec o
  | .vrcp o => useVSpec o
  | .vrsq o => useVSpec o
  | .vsqrt o => useVSpec o
  | .vtanh o => useVSpec o
  | .vsigm o => useVSpec o
  | .vperm o => useVPerm o
  | .vbperm o => useVBperm o
  | .vmset o => useVMset o
  | .vmadd o => useVM2 o
  | .vmsub o => useVM2 o
  | .vmneg o => useVM1 o
  | .vmmul o => useVM2 o
  | .vmmac o => useVM2 o
  | .vmred o => useVM1 o
  | .vmto o => useVM1 o
  | .vmfrom o => useVM1 o
  | .vbfly o => useVBfly o
  | .vbflyX o => useVBflyX o
  | .vibfly o => useVBfly o
  | .vibflyX o => useVBflyX o
  | .vauto o => useVAuto o
  | .ringi o => useRingi o
  | .rpushRes o => useRing o
  | .rpush o => useRpush o
  | .rpopRes o => useRing o
  | .rpop o => useRing o
  | .rstat o => useRstat o
  | .tldw o => useTldw o
  | .trel o => useA o
  | .tmma o => useTmma o
  | .tzero o => useM o
  | .tdrain o => useTdrain o
  | .twait o => useD o
  | _ => ⟨[], []⟩

/-! ### Groups of opcodes (02 Table 2.10) -/

def inRange (op lo hi : Nat) : Bool := decide (lo ≤ op) && decide (op ≤ hi)

/-- Class first. -/
def firstClass (op : Nat) : Bool := op == 0x01 || op == 0x13 || inRange op 0x20 0x4F || inRange op 0x50 0x6B

/-- Class second. -/
def secondClass (op : Nat) : Bool :=
  inRange op 0x88 0x91 || inRange op 0x98 0xC4 || inRange op 0xD0 0xDB || inRange op 0xE0 0xE9

/-- The FEAT0 bit that gates an opcode. -/
def featBit (op : Nat) : Nat :=
  if inRange op 0x70 0x83 then 1
  else if inRange op 0x88 0x8A || inRange op 0x90 0x91 then 2
  else if inRange op 0x8B 0x8C then 3
  else if inRange op 0x8D 0x8F then 4
  else if inRange op 0x98 0xC4 then 5
  else if inRange op 0xD0 0xDB then 6
  else if inRange op 0xE0 0xE9 then 7
  else if inRange op 0xF0 0xF3 then 8
  else if inRange op 0xF4 0xF5 then 9
  else 0

/-- Opcodes whose MOD holds SCOPE. -/
def hasScope (op : Nat) : Bool :=
  inRange op 0x50 0x64 || inRange op 0x70 0x83 || inRange op 0x9B 0xA0 || op == 0xF0

/-- A message-port register (02 R29). -/
def isPort (r : Nat) : Bool := inRange r 0x71 0x75

/-- The rules of R37 for two decoded instructions. -/
def pairOk (opA opB : Nat) (a b : Instr) : Bool :=
  let x := regsOf a
  let y := regsOf b
  firstClass opA && secondClass opB && x.w.all (fun r => !y.r.contains r && !y.w.contains r) &&
    !((x.w ++ x.r).any isPort && (y.w ++ y.r).any isPort)

end Sys2Proof.Machine
end

