-- ==== Sys2Proof/Machine/Turn.lean ====
section
/-! DEFINITION. Turns of a core (06 R117 to R121), fetch lines (02 R40), the checks at fetch and decode
(02 R42, R43), and the issue of an instruction or a pair (02 R38). -/

namespace Sys2Proof.Machine

/-! ### The checks of Table 2.13 -/

/-- Words of a decode trap (02 R43): bits [95:32] of the word; [31:0] with the field code. -/
def decodeInfo (w : IWord) (code : Nat) : Word × Word :=
  (BitVec.ofNat 64 (w.toNat / 2 ^ 32), BitVec.ofNat 64 (w.toNat % 2 ^ 32 + code * 2 ^ 32))

/-- Check 8: the feature that a word needs is absent; its field code. -/
def State.featFails (s : State) (f : Fields) : Option Nat :=
  let op := f.op.toNat
  let f1 := s.pkg.feat.toList.getD 1 0
  if !(s.pkg.feat.toList.getD 0 0).getLsbD (featBit op) then some 10
  else if hasScope op && f.scope == 3 && !f1.getLsbD 2 then some 7
  else if op == 0xE4 && f.low.getLsbD 5 && !f1.getLsbD 1 then some 7
  else none

/-- Check 9: MFC and MTC of a debug register at app privilege (03 R54). -/
def privFails (t : Thread) (f : Fields) : Bool :=
  (f.op == 0x13 || f.op == 0x14) && t.pl == 0 && f.sb >>> 12 == 0 &&
    inRange (f.sb.toNat % 4096) 0x040 0x07F && cregAssigned (f.sb.setWidth 12)

/-- Checks 7 to 11 of one word: the instruction, or cause and field code. -/
def State.checkWord (s : State) (w : IWord) : Except (Cause × Nat) Instr :=
  let f := Fields.unpack w
  match decodeIn s.cur.win w with
  | .error ⟨.illegalOpcode, c⟩ => .error (.illegalOpcode, c.toNat)
  | r =>
    match s.featFails f with
    | some c => .error (.featureAbsent, c)
    | none =>
      if privFails s.cur f then .error (.privilege, 4)
      else match r with
        | .ok i => .ok i
        | .error e => .error (e.cause, e.field.toNat)

/-- What a turn finds in its line. -/
inductive Found where
  /-- The line is not there, or is to be read once more. -/
  | missing
  /-- The walk of its line found a fault, which is raised now: FKIND and LEVEL (02 R40). -/
  | fault (fkind level : Nat)
  | trap (c : Cause) (i0 i1 : Word)
  /-- A trap of the second word of a pair. -/
  | trap2 (c : Cause) (i0 i1 : Word)
  | one (i : Instr)
  | pair (a b : Instr) (w : IWord)
  deriving DecidableEq, Repr

/-- Address of the line of a PC. -/
def lineAddr (pc : Word) : Word := BitVec.ofNat 64 (pc.toNat / 64 * 64)

/-- The slot at the PC is the first of a pair. -/
def lineFirst (lw : BitVec 32) (slot : Nat) : Bool := decide (slot < 4) && lw.getLsbD (6 + slot)

/-- Check 3: LPAR and the SPAR bits of the issued slots. -/
def parityOk (l : Line) (slots : List Nat) : Bool :=
  let lw := lineWord l
  !oddOnes lw.toNat 32 && slots.all fun i => oddOnes (lineSlot l i).toNat 96 == lw.getLsbD i

/-- Check 5 fails: adjacent PAIR bits, or TGT on a second slot. -/
def structureFails (lw : BitVec 32) : Bool :=
  (List.range 3).any (fun j => lw.getLsbD (6 + j) && lw.getLsbD (7 + j)) ||
    (List.range 4).any fun j => lw.getLsbD (6 + j) && lw.getLsbD (11 + j)

/-- Checks 1 to 6 of a line for the issuing thread: `none` if they pass. DEDUCED: a line is read once more at most
once while it is held, whichever of its slots failed first (02 R40, log 91). -/
def lineCheck (t : Thread) (h : HeldLine) (slots : List Nat) : Option Found :=
  let lw := lineWord h.bits
  let lww := lw.setWidth 64
  match h.fault, h.bad with
  | some (k, l), _ => some (.fault k l)
  | none, some (c, i0, i1) => some (.trap c i0 i1)
  | none, none =>
    if !parityOk h.bits slots then
      some (if h.reread then .trap .lineParity h.addr (lww + 0x800000000) else .missing)
    else if lw.toNat / 2 ^ 15 != 0 then some (.trap .lineReserved lww 0x800000000)
    else if structureFails lw then some (.trap .illegalPair lww 0x800000000)
    else match t.target with
      | some src => if lw.getLsbD (10 + bits t.pc 2 0) then none else some (.trap .badTarget src 0)
      | none => none

/-- Checks 7 to 12 of the words at the PC. -/
def State.wordCheck (s : State) (l : Line) (slot : Nat) (paired : Bool) : Found :=
  let w := lineSlot l slot
  match s.checkWord w with
  | .error (c, code) => .trap c (decodeInfo w code).1 (decodeInfo w code).2
  | .ok a =>
    if !paired then .one a
    else
      let v := lineSlot l (slot + 1)
      match s.checkWord v with
      | .error (c, code) => .trap2 c (decodeInfo v code).1 (decodeInfo v code).2
      | .ok b =>
        if pairOk (Fields.unpack w).op.toNat (Fields.unpack v).op.toNat a b then .pair a b v
        else .trap .illegalPair (decodeInfo v 0).1 0x900000000

/-! ### Fetch -/

/-- The held line of the PC. -/
def Thread.lineAt (t : Thread) (a : Word) : Option HeldLine := t.lines.find? fun h => h.addr == a

/-- The line of the PC is marked. -/
def Thread.markLine (t : Thread) (f : HeldLine → HeldLine) : Thread :=
  { t with lines := t.lines.map fun h => if h.addr = lineAddr t.pc then f h else h }

/-- The issuing thread waits for its line (02 R40); key 6 asks for a second read. DEDUCED: an open packet changes
nothing here: R131 traps an instruction that would wait, and this turn issues none (log 84). -/
def State.awaitLine (s : State) (again : Bool) : State :=
  let s := if again then s.updCur fun t => t.markLine fun h => { h with reread := true } else s
  s.enterWait 4 (if again then 6 else 3) .nil

/-- The fault held with the line of the PC is recorded, and the thread waits for its answer (02 R40, 18 R361). -/
def State.lineFault (s : State) (fkind level : Nat) : State :=
  let t := s.cur
  let a := lineAddr t.pc
  let s := s.faultOf (clusterOf t.core) t.launch fkind level ⟨0, t.tid, a, accFetch, t.pl == 0, 0⟩
  (s.updCur fun t => { t with lines := t.lines.filter fun h => h.addr != a }).enterWait 15 3 .nil

/-- The core notes what its turn issues (14 R287). -/
def State.noteSlot (s : State) : State :=
  let t := s.cur
  if s.inTurn then
    s.modCore t.core fun x => { x with lastIssue := some ⟨t.tid, t.pc, t.entry, bits t.famid 31 0, 0⟩ }
  else s

/-- The turn issues: the line is used, the transfer check is done, and the core notes it. -/
def State.noteIssued (s : State) : State :=
  s.noteSlot.updCur fun t => { t.markLine fun h => { h with issued := true } with target := none }

/-- The turn of the issuing thread finds what it issues, or what it does instead. -/
def State.find (s : State) : Found × State :=
  let t := s.cur
  let slot := bits t.pc 2 0
  match t.lineAt (lineAddr t.pc) with
  | none => (.missing, s)
  | some h =>
    let paired := lineFirst (lineWord h.bits) slot
    let slots := if paired then [slot, slot + 1] else [slot]
    match lineCheck t h slots with
    | some f => (f, s)
    | none => (s.wordCheck h.bits slot paired, s)

/-- The PCs of the instructions that the turn would issue. -/
def issuePcs (t : Thread) : List Word :=
  match t.lineAt (lineAddr t.pc) with
  | none => [t.pc]
  | some h => if lineFirst (lineWord h.bits) (bits t.pc 2 0) then [t.pc, slotAdd t.pc 1] else [t.pc]

/-- Checks 1 to 6 pass. -/
def State.lineReady (s : State) : Bool :=
  let t := s.cur
  match t.lineAt (lineAddr t.pc) with
  | none => false
  | some h => (lineCheck t h ((issuePcs t).map fun p => bits p 2 0)).isNone

/-! ### Issue -/

/-- How instructions are run: `exec`. -/
abbrev Runner := Instr → State → Host.Outcome State Fault Refusal

/-- The state that an outcome goes on from. -/
def andThen (r : Host.Outcome State Fault Refusal) (f : State → Host.Outcome State Fault Refusal) :
    Host.Outcome State Fault Refusal :=
  match r with
  | .next s => f s
  | o => o

/-- A wait that makes its instruction reissue, other than those that hold it (02 R38). -/
def Flow.reissues (f : Flow) : Bool :=
  match f with
  | .waiting r => !holdsInstr r
  | .forfeited => true
  | _ => false

/-- One instruction, with its boundary. -/
def issueOne (ex : Runner) (i : Instr) (s : State) : Host.Outcome State Fault Refusal :=
  andThen (ex i s) fun t => .next t.boundary

/-! ### Pairs (02 R38) -/

/-- The machine in which the second instruction of a pair runs. -/
def State.secondTurn (s : State) : State :=
  { s.updCur (fun t => { t with half := none, halfDone := true }) with second := true }

/-- The second instruction of a pair, whose first has completed: it completes, or is still due once its wait
ends. -/
def issueSecond (ex : Runner) (b : Instr) (w : IWord) (s : State) : Host.Outcome State Fault Refusal :=
  andThen (ex b s.secondTurn) fun t =>
    match t.flow with
    | .waiting _ => .next (t.updCur fun x => { x with half := some w }).boundary
    | .forfeited => .next (t.updCur fun x => { x with half := some w }).boundary
    | _ => .next t.boundary

/-- An encoded instruction has guard 1. -/
def Thread.guardOfInstr (t : Thread) (i : Instr) : Bool :=
  match i.fields with
  | some f => (f.pr == 0 || t.preds.getLsbD f.pr.toNat) != f.pn
  | none => false

/-- The next slot of a ring is kept for the second instruction of a pair, if there is one. -/
def State.keepRing (s : State) (n : Fin 32) (push : Bool) : State :=
  let cl := clusterOf s.cur.core
  match s.ring? cl n.val with
  | none => s
  | some r =>
    let kept (l : List RingRes) : Bool := l.any fun p => p.cluster == cl && p.ring == n.val && p.use == 3
    let s := if push then
        if kept s.cur.prods then s
        else (s.setRing cl n.val { r with res := r.res + 1 }).updCur fun t =>
          { t with prods := t.prods ++ [⟨cl, n.val, r.res, 3⟩] }
      else if kept s.cur.conss then s
        else (s.setRing cl n.val { r with cons := r.cons + 1 }).updCur fun t =>
          { t with conss := t.conss ++ [⟨cl, n.val, r.cons, 3⟩] }
    s.holdChanged (ringObject cl n.val) s.cur.tid

/-- The slot of a TLDW or TMMA is kept for it. -/
def State.keepSlot (s : State) (n : Fin 32) : State :=
  let cl := clusterOf s.cur.core
  match takeRes s.cur.conss cl n.val (fun u => u == 2), s.ring? cl n.val with
  | none, some r => (s.reserved cl n.val r.cons 2).holdChanged (ringObject cl n.val) s.cur.tid
  | _, _ => s

/-- An array is kept for a TLDW. -/
def State.keepArray (s : State) : State :=
  let cl := clusterOf s.cur.core
  let tid := s.cur.tid
  if (List.range 8).any fun a => (s.array cl a).holder == some tid && (s.array cl a).kp == 0 then s
  else match s.freeArray cl with
    | none => s
    | some a => (s.setArray cl a ⟨some tid, 0, 0, 0, 0, false, [], false, false⟩).holdChanged (arrayObject cl) tid

/-- The handle that an EREPL which has issued is to replay. -/
def Thread.replayHandle (t : Thread) : Option Word :=
  match t.wait with
  | some ⟨_, some (.release (.erepl _ h _) _), _, _⟩ => some h
  | some ⟨_, some (.erepl _ h _), _, _⟩ => some h
  | _ => none

/-- The bin set of an EREPL is kept for it, or the key of one that another replay has. -/
def State.keepBin (s : State) (p : Thread) : Except Nat State :=
  match p.replayHandle.bind s.binSet? with
  | none => .ok s
  | some (k, b) =>
    if b.taken s.cur.tid then .error (binObject k)
    else .ok { s with bins := tabSet s.bins k { b with reserved := some s.cur.tid } }

/-- What the second instruction `b` of a pair passes at issue stays kept for it until it goes on (02 R38): a copy
slot, a slot of a ring, an array, lanes, a bin set, a received packet. `p` is its thread as it issued alone. An
error names a bin set that it must wait for. -/
def State.reserveSecond (s : State) (b : Instr) (p : Thread) : Except Nat State :=
  let copy : Except Nat State := .ok (s.updCur fun t => { t with copyRes := s.copySlotFor })
  if !s.cur.guardOfInstr b then .ok s
  else match b with
  | .copy _ => copy
  | .copyt _ => copy
  | .gath _ => copy
  | .pack _ => copy
  | .unpack _ => copy
  | .rpushRes o => .ok (s.keepRing o.ring true)
  | .rpopRes o => .ok (s.keepRing o.ring false)
  | .tldw o => .ok (s.keepSlot o.ring).keepArray
  | .tmma o => .ok (s.keepSlot o.ring)
  | .vclaim _ => .ok ((s.updCur fun t => { t with laneRes := p.claim.map (·.grant) }).holdChanged
      (poolObject (s.poolGroup s.cur.core)) s.cur.tid)
  | .erepl _ => s.keepBin p
  | b => if (regsOf b).r.any fun r => r == SReg.rx.code.toNat || r == SReg.rxh.code.toNat then
      match s.rxPacket s.cur with
      | some k => .ok (s.bindPacket k)
      | none => .ok s
    else .ok s

/-- The pair is suspended before either instruction takes effect: it waits, or has lost one of the banks `m`. -/
def State.suspend (s : State) (f : Flow) (key : Nat) (m : BitVec 16) : State :=
  (s.settle (.error (match f with
    | .waiting r => .wait r key .nil
    | _ => .forfeit m))).boundary

/-- The machine in which every bank of the issuing thread's core is taken. -/
def State.banksFull (s : State) : State :=
  (s.updCur fun t => { t with forfeits := 0 }).modCore s.cur.core fun x => { x with bankUsed := 0xFFFF }

/-- The banks that an instruction needs. -/
def banksOf (ex : Runner) (i : Instr) (s : State) : BitVec 16 :=
  match ex i s.banksFull with
  | .next t => if t.flow = .forfeited then t.cur.lost else 0
  | _ => 0

/-- The pair has lost a bank of either (06 R124). -/
def forfeitPair (ex : Runner) (a b : Instr) (s : State) : State :=
  s.suspend .forfeited 0 (banksOf ex a s ||| banksOf ex b s)

/-- The first of a pair issues in `s1`, where what the second needs is kept: the second follows, at once or once the
first completes or its wait of reason 4, 8 or 15 ends. A reissuing wait or a lost bank of either leaves the whole
pair without effect, and nothing kept: it is that of `s`. -/
def issueFirst (ex : Runner) (a b : Instr) (w : IWord) (s s1 : State) : Host.Outcome State Fault Refusal :=
  andThen (ex a s1) fun t =>
    match t.flow with
    | .seq => andThen (ex b t.secondTurn) fun u =>
        if u.flow = .forfeited then .next (forfeitPair ex a b s)
        else if u.flow.reissues then .next (s.suspend u.flow (match u.cur.wait with
          | some x => x.key
          | none => 0) 0)
        else match u.flow with
          | .waiting _ => .next (u.updCur fun x => { x with half := some w }).boundary
          | _ => .next u.boundary
    | .held => .next (t.updCur fun x => { x with half := some w }).boundary
    | .waiting r => if holdsInstr r then .next (t.updCur fun x => { x with half := some w }).boundary
        else andThen (ex a s) fun t => .next t.boundary
    | .forfeited => .next (forfeitPair ex a b s)
    | _ => andThen (ex a s) fun t => .next t.boundary

/-- A pair (02 R38). The second is tried alone first: a reissuing wait or a lost bank that it meets at issue
suspends the pair before either takes effect. -/
def issuePair (ex : Runner) (a b : Instr) (w : IWord) (s : State) : Host.Outcome State Fault Refusal :=
  andThen (ex b s) fun p =>
    if p.flow = .forfeited then .next (forfeitPair ex a b s)
    else if p.flow.reissues then .next p.boundary
    else if p.flow = .trapped then issueFirst ex a b w s s
    else match s.reserveSecond b p.cur with
      | .error key => .next (s.suspend (.waiting 12) key 0)
      | .ok s1 => issueFirst ex a b w s s1

/-- The second word of a pair goes on by itself: its first has completed. -/
def issueHalf (ex : Runner) (w : IWord) (s : State) : Host.Outcome State Fault Refusal :=
  match decodeIn s.cur.win w with
  | .ok b => issueSecond ex b w s
  | .error _ => .next (s.updCur fun t => { t with half := none }).boundary

/-- The first of a pair goes on once its wait of reason 4, 8 or 15 has ended: it was never withdrawn, and what the
second passed stays kept (02 R38). -/
def issueAgain (ex : Runner) (s : State) : Host.Outcome State Fault Refusal :=
  match s.find with
  | (.pair a b w, s) => issueFirst ex a b w s.dropPair s
  | (_, s) => .next (s.dropPair.awaitLine false).boundary

/-- DEADLOCK of a thread that was saved or Stopped as its cycle was found: it takes its trap, with SCAN and TRUNC as
found (17 R332, R334). -/
def State.lateDeadlock (s : State) (scan trunc : Bool) : State :=
  let t := s.cur
  let name : Word := match t.cycle with
    | (o, _) :: _ => o
    | [] => 0
  (s.unread.updCur fun t => { t with dlPend := none }).takeTrap .deadlock (some name)
    (some (deadlockInfo (min t.cycle.length 16) scan trunc))

/-- What the thread that is checked out does in this step. Breakpoints are matched by turns (14 R275). -/
def State.issueNow (ex : Runner) (s : State) : Host.Outcome State Fault Refusal :=
  match s.cur.dlPend, s.cur.half with
  | some (scan, trunc), _ => .next (s.lateDeadlock scan trunc).boundary
  | none, some w => if s.cur.halfDone then issueHalf ex w s else issueAgain ex s
  | none, none =>
    match (if s.inTurn && s.lineReady then s.breakpoints (issuePcs s.cur) else (none, s)) with
    | (some t, _) => .next t.boundary
    | (none, s) =>
      match s.find with
      | (.missing, s) => .next (s.awaitLine (s.cur.lineAt (lineAddr s.cur.pc)).isSome).boundary
      | (.fault k l, s) => .next (s.lineFault k l).boundary
      | (.trap c i0 i1, s) => .next (s.noteSlot.takeTrap c (some i0) (some i1)).boundary
      | (.trap2 c i0 i1, s) =>
        .next ({ s.noteSlot.updCur fun t => { t with pc := slotAdd t.pc 1 } with second := true }.takeTrap c
          (some i0) (some i1)).boundary
      | (.one i, s) => issueOne ex i s.noteIssued
      | (.pair a b w, s) => issuePair ex a b w s.noteIssued

/-- A thread whose held instruction goes on: its wait is over (02 R38, 06 R119). -/
def State.dueThread (s : State) : Option Thread :=
  (s.threads.find? fun (_, t) => t.life == .waiting && t.holds && t.wait.isNone).map (·.2)

/-! ### Turns (06 R117, R120, R121) -/

/-- The Ready thread that refills a slot: highest effective priority, Ready longest, lowest entry. On a core under
a stop only one that has been resumed alone, or is stepped and waited for its line (14 R284, R285). -/
def State.bestReady (s : State) (c : Nat) : Option Thread :=
  let now := (s.core c).cycle
  let stop := (s.core c).stopAll
  leastBy (fun t => ((7 - t.eprio) * 2 ^ 72 + t.readyAt) * 256 + t.entry)
    ((s.onCore c).filter fun t => t.life == .ready && t.shade.isNone && decide (t.readyAt / 2 ≤ now) &&
      (!stop || t.alone || t.stepping))

/-- The occupant of a slot. -/
def State.occupant (s : State) (c slot : Nat) : Option Thread :=
  (s.onCore c).find? fun t => t.life == .running slot

/-- The Stopped thread that reserves a slot. -/
def State.reserver (s : State) (c slot : Nat) : Option Thread :=
  (s.onCore c).find? fun t => t.life == .stopped && t.rslot == some slot

/-- The Ready thread that would have displaced the Stopped one whose slot this is (06 R122). -/
def State.shader (s : State) (c slot : Nat) : Option Thread :=
  (s.onCore c).find? fun t => t.life == .ready && t.shade == some slot

/-- The least effective priority among the occupants of a core, with the Stopped threads whose slots are reserved,
or those that would have displaced them (06 R122). -/
def State.leastPrio (s : State) (c : Nat) : Nat :=
  (s.onCore c).foldl (fun n t => match t.life with
    | .running _ => min n t.eprio
    | .stopped => match t.rslot with
      | some k => min n ((s.shader c k).getD t).eprio
      | none => n
    | _ => n) 8

/-- A thread that shaded the slot of a Stopped thread, which holds it no more, is Ready as others are. -/
def State.unshade (s : State) (c : Nat) : State :=
  let open_ (t : Thread) : Bool := match t.shade with
    | some k => t.core == c && (s.reserver c k).isNone
    | none => false
  if s.threads.any fun (_, t) => open_ t then s.mapThreads fun t => if open_ t then { t with shade := none } else t
  else s

/-- The slot that a Stopped thread reserves has its turn, which is lost. DEDUCED: a Ready thread that would have
displaced its occupant displaces no other: it stands for that occupant while the stop lasts, so that each other slot
has the turns of an unstopped run (06 R122, log 23). -/
def State.shadeTurn (s : State) (c slot : Nat) (x : Thread) : State :=
  let o := (s.shader c slot).getD x
  match s.bestReady c with
  | some t =>
    if decide (o.eprio < t.eprio) && o.eprio == s.leastPrio c then
      let s := if o.tid = x.tid then s
        else s.putThread { o with shade := none, readyAt := readyStamp (s.core c).cycle false }
      s.putThread { t with shade := some slot }
    else s
  | none => s

/-- A write of PRIO takes effect at the next turn of its thread (04 R76): of an occupant at the turn of its slot,
of any other at the core's next turn. -/
def State.takePrio (s : State) (c slot : Nat) : State :=
  (s.onCore c).foldl (fun s t =>
    let now := match t.life with
      | .running n => n == slot
      | _ => true
    if now && t.own != t.ownNow then (s.putThread { t with ownNow := t.own }).refreshPrio t.tid else s) s

/-- A thread takes the turn of a slot. -/
def State.giveTurn (s : State) (c slot : Nat) (t : Thread) (first : Bool) : State :=
  let s := s.modCore c fun x => { x with lastOcc := tabSet x.lastOcc slot t.tid, lastIssue := none }.noteSkid t.entry t.tid false
  s.checkOut { t with
    life := .running slot, rslot := none, shade := none, consec := (if first then 0 else t.consec) + 1 } true

/-- What a turn of an empty slot is lost to: the stall reason of the slot's last occupant, if that is Waiting, else 1
(14 R287, 20 Table 20.9). -/
def State.emptyReason (s : State) (c slot : Nat) : Nat × Option Thread :=
  match (tabGet (s.core c).lastOcc slot).bind s.thread? with
  | some t => if t.life = .waiting && t.wait.isSome then (t.waitReason, some t) else (1, none)
  | none => (1, none)

/-- A turn that issues nothing. -/
def State.loseTurn (s : State) (c reason : Nat) : State :=
  (s.modCore c fun x => { x with lastIssue := none }).endCycle c reason

/-- A sample of core `c` is due: the turn of its cycle is over (14 R287). -/
def Core.sampleDue (x : Core) : Bool := x.dbg.sctl.getLsbD 0 && decide (x.sampleAt < x.cycle)

/-- A stop or resume has arrived and not yet acted (14 R281). -/
def Core.commandDue (x : Core) : Bool :=
  match x.pendStop with
  | m :: _ => decide (m.due ≤ x.cycle)
  | [] => false

/-- Something is due on core `c` before its next turn: a stop or resume, a sample, a WAITM whose time has come, a
queued access that wins its bank (06 R124). -/
def State.dueFirst (s : State) (c : Nat) : Bool :=
  (s.core c).commandDue || (s.core c).sampleDue || s.bankDue c ||
    s.threads.any fun (_, t) => t.core == c && (s.waitmDue t).isSome

/-- The turn of core `c` in the current cycle. On a core under a stop the threads that are stepped or have been
resumed alone issue (14 R284, R285). -/
def State.turn (s : State) (c : Nat) : Option State :=
  let x := s.core c
  let slot := x.cycle % 16
  if !s.coreEnabled c || s.pkg.tripped || s.dueFirst c then none
  else
  let s := (s.takePrio c slot).unshade c
  match s.reserver c slot with
  | some t => some (if t.stepping then s.giveTurn c slot t false else (s.shadeTurn c slot t).loseTurn c 14)
  | none =>
    match s.occupant c slot, s.bestReady c with
      | some o, some t =>
        if x.stopAll && !(o.alone || o.stepping) then some (s.loseTurn c 14)
        else if decide (o.eprio < t.eprio) && o.eprio == s.leastPrio c then
          let s := s.putThread { o with life := .ready, readyAt := readyStamp x.cycle false, consec := 0 }
          some (s.giveTurn c slot t true)
        else some (s.giveTurn c slot o false)
      | some o, none => some (if x.stopAll && !(o.alone || o.stepping) then s.loseTurn c 14 else s.giveTurn c slot o false)
      | none, some t => some (s.giveTurn c slot t true)
      | none, none => some (s.loseTurn c (s.emptyReason c slot).1)

/-- TURN of core n. -/
def execTurn (n : Nat) (s : State) : Host.Outcome State Fault Refusal := event (fun s => s.turn n) s

/-! ### Line reads (02 R40) -/

/-- The lines that a thread has asked for: that of its PC, the next once it has issued from that, and
a second read after a parity failure. -/
def Thread.wanted (t : Thread) : List (Word × Bool) :=
  let a := lineAddr t.pc
  match t.life with
  | .saved => []
  | .adopting => []
  | .halted => []
  | .ended => []
  | _ => match t.lineAt a with
    | none => [(a, false)]
    | some h =>
      (if t.waitsFor 4 6 then [(a, true)] else []) ++
        (if h.issued && (t.lineAt (a + 64)).isNone then [(a + 64, false)] else [])

/-- What a read of a line finds: its bits, a fault or trap, or that a translation is missing. -/
inductive LineRead where
  | got (l : Line) (bad : Option (Cause × Word × Word))
  | miss
  deriving DecidableEq, Repr

def Memory.line (m : Memory) (k : Nat) : Line := BitVec.ofNat 512 (m.loadN k 64)

/-- One device-scope read of a whole line. -/
def State.readLine (s : State) (t : Thread) (a : Word) : LineRead :=
  let bad (c : Cause) : LineRead := .got 0 (some (c, a, 5))
  match s.decodeAddr t.core (t.pl == 0) a with
  | .dev =>
    match (s.cluster (clusterOf t.core)).lookup (s.asidOf t.launch) a.toNat accFetch (t.pl == 0) with
    | none => .miss
    | some pa =>
      if paPackage pa != s.pkg.num then bad .scopeRange
      else if !s.reaches t.core (.dev pa) then bad .poisonRead
      else if s.denies (.dev pa) t.core true false then bad .access
      else
        let tags := (List.range 8).map fun j => s.mem.tag (pa + 8 * j)
        if tags.contains .poison then bad .poisonRead
        else if tags.contains .empty || tags.contains .object then bad .tagMisuse
        else .got (s.mem.line pa) none
  | .bad c => bad c
  | _ => bad .access

/-- A line enters the buffer of a thread, which is Ready again if it waited for it. -/
def State.putLine (s : State) (t : Thread) (a : Word) (l : Line) (bad : Option (Cause × Word × Word))
    (again : Bool) : State :=
  let rest := t.lines.filter fun h => h.addr != a
  let issued := match t.lineAt a with
    | some h => h.issued
    | none => false
  let s := s.putThread { t with lines := rest ++ [⟨a, l, bad, again, issued, none⟩] }
  if a = lineAddr t.pc && (t.waitsFor 4 3 || t.waitsFor 15 3 || t.waitsFor 4 6) then s.wake t.tid else s

/-- FETCH_LINE_ARRIVAL: the nth line that is asked for is read and arrives, or waits on its
translation. -/
def execFetchLineArrival (n : Nat) (s : State) : Host.Outcome State Fault Refusal :=
  event (fun s =>
    let l := s.threads.flatMap fun (_, t) => t.wanted.map fun (a, r) => (t, a, r)
    match l[n % l.length]? with
    | none => none
    | some (t, a, again) =>
      match s.readLine t a with
      | .got b bad => some (s.putLine t a b bad again)
      | .miss =>
        let w : Walk := ⟨clusterOf t.core, t.launch, s.asidOf t.launch, a.toNat / 2 ^ 16,
          [⟨0, t.tid, a, accFetch, t.pl == 0, 0⟩]⟩
        let asked := s.walks.any (fun w => w.waiters.any fun x => x.src == 0 && x.id == t.tid && x.va == a) ||
          s.faults.any fun f => f.who.src == 0 && f.who.id == t.tid && f.who.va == a
        if asked then none
        else
          let s := if a = lineAddr t.pc && t.waitsFor 4 3 then
              s.putThread { t with wait := some ⟨15, none, false, 3⟩ } else s
          some ({ s with walks := joinWalk s.walks w }.countEvent (clusterOf t.core) 0x22 1)) s

end Sys2Proof.Machine
end

