-- ==== Sys2Proof/Machine/Traffic.lean ====
section
/-! DEFINITION. Requests at their homes (16 R311 to R315, 06 R124), translation walks and their faults
(18 R360 to R364). -/

namespace Sys2Proof.Machine

/-! ### Homes -/

/-- QUEUED_BANK_ACCESS: a queued access is served at a bank of core n. -/
def execQueuedBankAccess (n : Nat) (s : State) : Host.Outcome State Fault Refusal := event (fun s => (s.bankServes n).map State.pendingSaves) s

/-- REQUEST_COMBINE. -/
def execRequestCombine (n : Nat) (s : State) : Host.Outcome State Fault Refusal := event (fun s => s.combineAt n) s

/-- CACHE_LINE_FILL: the line of the nth waiting operation arrives. -/
def execCacheLineFill (n : Nat) (s : State) : Host.Outcome State Fault Refusal := event (fun s => (s.lineFills n).map State.pendingSaves) s

/-! ### The ends of walks (18 R360) -/

/-- A leaf enters the translation cache of a cluster; a full one drops a free choice. -/
def State.fillTlb (s : State) (cluster : Nat) (e : TlbEntry) : State :=
  let old := (s.cluster cluster).tlb.filter fun x => !(x.asid == e.asid && x.log == e.log && x.page == e.page)
  let (i, s) := if old.length < 1024 then (1024, s) else s.choose 1024
  s.modCluster cluster fun c => { c with tlb := removeAt old i ++ [e] }

/-- A bin set's replay pauses no longer. -/
def State.unpauseBin (s : State) (k : Nat) : State :=
  { s with bins := s.bins.map fun (i, b) => if i = k then (i, { b with paused := false }) else (i, b) }

/-- Something of the thread still waits on a translation. -/
def State.stillWalking (s : State) (tid : Nat) : Bool :=
  s.walksLeft tid || (s.elemFaults.any fun f => f.who.id == tid) ||
    s.faults.any fun f => f.who.src == 0 && f.who.id == tid && f.who.acc.kind != 5

/-- A waiter's translation is there: its access is replayed (18 R360, R363), or the faults of its other elements are
recorded. A fetch is asked for again. -/
def State.replayWaiter (s : State) (w : Waiter) : State :=
  match w.src with
  | 0 =>
    if w.acc.kind = 5 then s.modThread w.id fun t =>
      if t.waitsFor 15 3 then { t with wait := some ⟨4, none, false, 3⟩ } else t
    else
    let s := s.flushElems w.id
    if s.stillWalking w.id then s
    else match s.thread? w.id with
      | some t => if t.waitReason = 15 then s.wake w.id else s
      | none => s
  | 3 => s.unpauseBin w.id
  | _ => { s with engines := s.engines.map fun e => if e.id = w.id then { e with paused := false } else e }

/-- A waiter is still there to be answered. -/
def State.waiterLives (s : State) (w : Waiter) : Bool :=
  match w.src with
  | 0 => (s.thread? w.id).isSome
  | 3 => match tabGet s.bins w.id with
    | some b => b.runner.isSome
    | none => false
  | _ => s.engines.any fun e => e.id == w.id

/-- How a walk fails an access, by FKIND and LEVEL; none where it grants it. DEDUCED: a table word whose home denies
its read is reported as PERM, which a DENY answers with ACCESS like every denial of a thread (19 R380, log 90). -/
def WalkEnd.fault (e : WalkEnd) (a : Access) (app : Bool) : Option (Nat × Nat) :=
  match e with
  | .leaf log _ r w x k =>
    if grants r w x k a app then none else some (1, if log = 30 then 2 else if log = 21 then 1 else 0)
  | .notPresent l => some (0, l)
  | .malformed l => some (2, l)
  | .denied l => some (1, l)

/-- A fault that the read of a line finds (02 R40): that of the line a thread waits for is recorded, that of a line
read ahead is held with it. -/
def State.fetchFault (s : State) (cluster launch fkind level : Nat) (w : Waiter) : State :=
  match s.thread? w.id with
  | none => s
  | some t =>
    if w.va = lineAddr t.pc && (t.waitsFor 15 3 || t.waitsFor 4 3) then s.faultOf cluster launch fkind level w
    else s.putThread { t with lines := (t.lines.filter fun h => h.addr != w.va) ++
      [⟨w.va, 0, none, false, false, some (fkind, level)⟩] }

/-- The end of a walk for one of its waiters: it replays, or its fault is recorded. -/
def State.walkEnds (s : State) (cluster launch : Nat) (e : WalkEnd) (w : Waiter) : State :=
  if !s.waiterLives w then s
  else match e.fault w.acc w.app with
    | none => s.replayWaiter w
    | some (k, l) =>
      if w.src != 0 then s.faultOf cluster launch k l w
      else if w.acc.kind = 5 then s.fetchFault cluster launch k l w
      else s.elemFault cluster launch k l w

/-- The walks that the walkers of the dies have taken: of each die the first 32, in order of arrival (18 R360). -/
def walking (l : List Walk) (taken : List Nat) : List Bool :=
  match l with
  | [] => []
  | w :: r =>
    let d := w.cluster / 12
    decide ((taken.filter (· == d)).length < 32) :: walking r (d :: taken)

/-- TRANSLATION_WALK_COMPLETE: the nth of the walks that a walker has taken ends. -/
def execTranslationWalkComplete (n : Nat) (s : State) : Host.Outcome State Fault Refusal :=
  event (fun s =>
    let taken := (walking s.walks []).zipIdx.filterMap fun (b, i) => if b then some i else none
    match taken[n % taken.length]?.bind fun i => (s.walks[i]?).map fun w => (i, w) with
    | none => none
    | some (i, w) =>
      let s : State := { s with walks := removeAt s.walks i }
      let va := w.page * 2 ^ 16
      let e := s.walk w.cluster w.launch va
      let s := match e with
        | .leaf log pa r wr x k => s.fillTlb w.cluster ⟨w.asid, va / 2 ^ log, log, pa, r, wr, x, k⟩
        | _ => s
      some (w.waiters.foldl (fun s x => s.walkEnds w.cluster w.launch e x) s)) s

/-! ### Answers (18 R361, R363) -/

/-- The record of a token is answered. -/
def State.takeFault (s : State) (tok : Nat) : Option (FaultRec × State) :=
  match takeFirst (fun f => f.token == tok) s.faults with
  | some (f, rest) => some (f, ({ s with faults := rest } : State).modFq fun q => { q with
      waiting := q.waiting.filter fun r => r.getD 3 0 != BitVec.ofNat 64 tok })
  | none => none

/-- An answer that names no waiting record counts in FQSTAT.STRAY. -/
def State.strayAnswer (s : State) : State := s.modFq fun q => { q with stray := min (q.stray + 1) 0xFFFFFFFF }

/-- RETRY: the access walks again. -/
def State.retryFault (s : State) (f : FaultRec) : State :=
  let w : Walk := ⟨f.cluster, f.launch, s.asidOf f.launch, f.who.va.toNat / 2 ^ 16, [f.who]⟩
  { s with walks := joinWalk s.walks w }

/-- The cause of a denied fault. -/
def faultCause (fkind : Nat) : Cause := if fkind = 1 then .access else .translation

/-- DENY to a thread: its instruction traps to kernel at the lowest denied element; a denied fetch is
held with its line. -/
def State.denyThread (s : State) (f : FaultRec) : State :=
  let c := faultCause f.fkind
  let tid := f.who.id
  let info : Word := BitVec.ofNat 64 (f.who.acc.kind.toNat + f.who.elem * 2 ^ 8)
  if f.who.acc.kind = 5 then
    match s.thread? tid with
    | some t => s.putLine t f.who.va 0 (some (c, f.who.va, 5)) false
    | none => s
  else
    let mine (w : Waiter) : Bool := w.src == 0 && w.id == tid && w.acc.kind != 5
    let s : State := { s with
      walks := (s.walks.map fun w => { w with waiters := w.waiters.filter fun x => !mine x }).filter fun w =>
        !w.waiters.isEmpty }
    (s.dropFaults mine).withThread tid (trapW c f.who.va info)

/-- DENY to an engine operation or a replay. -/
def State.denyEngine (s : State) (f : FaultRec) : State :=
  match f.who.src with
  | 3 =>
    let skip (b : BinSet) : BinSet :=
      { b with paused := false, skips := b.skips ++ [f.who.elem] }
    { s with bins := s.bins.map fun (i, b) => if i = f.who.id then (i, skip b) else (i, b) }
  | _ => { s with engines := s.engines.map fun e =>
      if e.id = f.who.id then { e with paused := false, denied := true } else e }

def State.denyFault (s : State) (f : FaultRec) : State :=
  if f.who.src = 0 then s.denyThread f else s.denyEngine f

/-- FAULT_ANSWER_RETRY: FANS with DENY 0 and TOKEN n. -/
def execFaultAnswerRetry (n : Nat) (s : State) : Host.Outcome State Fault Refusal :=
  event (fun s => some (match s.takeFault n with
    | some (f, s) => if s.waiterLives f.who then s.retryFault f else s
    | none => s.strayAnswer)) s

/-- FAULT_ANSWER_DENY: FANS with DENY 1 and TOKEN n. -/
def execFaultAnswerDeny (n : Nat) (s : State) : Host.Outcome State Fault Refusal :=
  event (fun s => some (match s.takeFault n with
    | some (f, s) => if s.waiterLives f.who then s.denyFault f else s
    | none => s.strayAnswer)) s

/-! ### Invalidation (18 R364) -/

def Inval.covers (v : Inval) (e : TlbEntry) : Bool :=
  e.asid == v.asid && decide (e.page * 2 ^ e.log ≤ v.hi) && decide (v.lo < (e.page + 1) * 2 ^ e.log)

/-- An access of a launch was translated by an entry that an invalidation names or has dropped. -/
def State.invalHits (s : State) (v : Inval) (launch : Nat) (va : Word) : Bool :=
  s.asidOf launch == v.asid && ((decide (v.lo ≤ va.toNat) && decide (va.toNat ≤ v.hi)) ||
    v.pages.any fun (b, log) => va.toNat / 2 ^ log == b / 2 ^ log)

/-- Such accesses, combined ones by their components, are still to be performed, or walks of the address space to
end. -/
def State.invalPending (s : State) (v : Inval) : Bool :=
  let hit (q : Req) : Bool := s.invalHits v q.launch q.va || q.parts.any fun p => s.invalHits v p.launch p.va
  s.reqs.any hit || s.missed.any hit || s.walks.any fun w => w.asid == v.asid

/-- TRANSLATION_INVALIDATE: n holds ASID in its low 12 bits, then the first address, then the last.
The first such event drops the matching entries; the invalidation completes in a later one, once what
it waits for is done. -/
def execTranslationInvalidate (n : Nat) (s : State) : Host.Outcome State Fault Refusal :=
  event (fun s =>
    let v : Inval := ⟨n % 2 ^ 12, n / 2 ^ 12 % 2 ^ 64, n / 2 ^ 76 % 2 ^ 64, []⟩
    match s.pkg.invals.find? fun x => x.asid == v.asid && x.lo == v.lo && x.hi == v.hi with
    | some x =>
      if s.invalPending x then none
      else some { s with pkg := { s.pkg with invals := s.pkg.invals.erase x } }
    | none =>
      let gone := s.clusters.flatMap fun (_, c) => (c.tlb.filter v.covers).map fun e => (e.page * 2 ^ e.log, e.log)
      let drop (c : Cluster) : Cluster := { c with tlb := c.tlb.filter fun e => !v.covers e }
      some { s with
        clusters := s.clusters.map fun (k, c) => (k, drop c)
        pkg := { s.pkg with invals := s.pkg.invals ++ [{ v with pages := gone.eraseDups }] } }) s

end Sys2Proof.Machine
end

