-- ==== Sys2Proof/Machine/Launch.lean ====
section
/-! DEFINITION. Launches (18 R348 to R354, R358): submission, acceptance, binding, start, completion and
kill; the commitment of features (19 R378). -/

namespace Sys2Proof.Machine

/-! ### Submission queues (19 R377) -/

def State.modQueue (s : State) (q : Nat) (f : SubQueue → SubQueue) : State :=
  let qs : Vector SubQueue 16 := Vector.ofFn fun i => if i.val = q then f (s.pkg.queues[i]) else s.pkg.queues[i]
  { s with pkg := { s.pkg with queues := qs } }

/-- A master's write of SQTAIL: one that runs more than the ring ahead of SQHEAD is ignored and
counted. -/
def SubQueue.setTail (q : SubQueue) (tail mid : Nat) : SubQueue :=
  let t := tail % 2 ^ 32
  if 2 ^ ringLog q.cfg < (t + 2 ^ 32 - q.head) % 2 ^ 32 then { q with drop := (q.drop + 1) % 2 ^ 32 }
  else { q with tail := t, mid := mid }

/-- SQ_TAIL_WRITE: n holds the queue in its low 4 bits, then 32 bits of tail, then the master, which
needs W in the queue's access table. -/
def execSqTailWrite (n : Nat) (s : State) : Host.Outcome State Fault Refusal :=
  event (fun s =>
    let q := n % 16
    let mid := n / 2 ^ 36
    if s.tableAllows (targetQueue q) mid false true false then
      some (s.modQueue q fun x => x.setTail (n / 16) mid)
    else none) s

/-! ### Features (19 R378) -/

/-- FEAT0 to FEAT3 at the commit: BASE stays set; MODL needs VEC, PAIRED and REDM need MTX. -/
def commitFeatures (adv acc : Vector Word 4) : Vector Word 4 :=
  let f (i : Nat) : Word := adv.toList.getD i 0 &&& acc.toList.getD i 0
  let f0 : Word := setBit (f 0) 0 true
  let f0 := if f0.getLsbD 5 then f0 else setBit f0 6 false
  let f1 := f 1
  let f1 := if f0.getLsbD 7 then f1 else setBit (setBit f1 0 false) 1 false
  ⟨#[f0, f1, 0, 0], rfl⟩

/-- ACOMMIT is written 1; only the first write has an effect. -/
def State.commit (s : State) : State :=
  if s.pkg.committed then s
  else { s with pkg := { s.pkg with committed := true, feat := commitFeatures s.pkg.fadv s.pkg.acc } }

/-- FEATURE_COMMIT. -/
def execFeatureCommit (_n : Nat) (s : State) : Host.Outcome State Fault Refusal := event (fun s => some s.commit) s

/-! ### The completion word (18 R350) -/

/-- Launch status word (18 Table 18.3). -/
def launchStatus (status endc lnum : Nat) : Word := BitVec.ofNat 64 (status + 2 ^ 8 * endc + 2 ^ 32 * lnum)

/-- The access tables let the Factor perform a PUT on a word, which both reads and writes (19 R380). -/
def State.factorPut (s : State) (a : Nat) : Bool := s.factorMay a 1 false && s.factorMay a 1 true

/-- CWORD is filled by a PUT, unless the access table of its home denies it to the Factor (log 78). -/
def State.fillCword (s : State) (l : Launch) (status endc : Nat) : State :=
  let c := (l.word 15).toNat
  if s.factorPut c then
    (s.enginePutAt c (launchStatus status endc l.lnum) (dieSrc s.pkg.num (s.keyDie c) (l.word 15)) noCore
      ⟨l.lnum, 0, 0, 0x55⟩).2
  else s

/-- The completion word waits for its line at its home: its PUT passes no operation that waits there (16 R311). -/
def State.cwordWaits (s : State) (l : Launch) : Bool := s.lineWaits (l.word 15).toNat

/-! ### Validation (18 Table 18.2) -/

/-- An address of a word of this package's memory (19 Table 19.1). -/
def State.inMemory (s : State) (pa : Nat) : Bool :=
  let a := paLocal pa
  paPackage pa == s.pkg.num && (decide (a < 0xC000000000) || (decide (0x10000000000 ≤ a) && decide (a < 0x20000000000)))

/-- The words of a descriptor whose bits are all reserved or that hold reserved bits are zero there. -/
def Launch.reservedOk (l : Launch) : Bool :=
  l.field 6 15 9 == 0 && l.field 6 19 19 == 0 && l.field 6 23 23 == 0 && l.field 6 63 32 == 0 &&
    l.field 8 11 9 == 0 && l.field 8 31 25 == 0 && l.field 8 63 50 == 0 && l.field 10 63 48 == 0 &&
    l.field 14 31 16 == 0 && l.field 34 63 12 == 0 && l.word 36 == 0 && l.word 37 == 0 && l.word 38 == 0 &&
    l.word 39 == 0 && bits (l.word 7) 3 3 == 0 && bits (l.word 7) 31 29 == 0 && bits (l.word 7) 63 44 == 0

/-- The fields stay within the limits of Table 18.1. -/
def Launch.limitsOk (l : Launch) : Bool :=
  decide (1 ≤ l.lnum) && windowWordOk (l.word 2) && !targetFormFails (l.word 1) && l.word 5 != 0 &&
    decide (memberCount (l.word 3) (l.word 4) (l.word 5) < 2 ^ 56) &&
    decide (1 ≤ l.field 6 8 0) && decide (l.field 6 8 0 ≤ 256) && decide (l.field 6 18 16 ≤ l.field 6 22 20) &&
    decide (1 ≤ l.entries) && decide (8 ≤ l.regs) && l.regs % 8 == 0 && l.field 8 49 32 % 64 == 0 &&
    l.field 9 11 0 == 0 && decide (2 ≤ l.field 10 23 0) && decide (1 ≤ l.field 10 47 24) &&
    decide (l.field 10 47 24 < l.field 10 23 0) && l.field 11 5 0 == 0 && l.field 13 8 0 == 0 &&
    decide (16 ≤ l.field 14 15 0) && l.field 35 11 0 == 0 && decide (1 ≤ l.field 7 2 0) &&
    decide (l.field 7 2 0 ≤ 4)

/-- Scratchpad bytes of a launch's share. -/
def Launch.spad (l : Launch) : Nat := l.field 8 49 32

/-- Check 3: no core could hold the launch. -/
def Launch.tooBig (l : Launch) : Bool :=
  decide (256 < l.entries) || decide (4096 < l.regs) || decide (0x3C000 < l.spad) ||
    decide (l.regs < windowSize (winOfWord (l.word 2)))

/-- The context store that a launch needs over its place cores (R351). -/
def storeSize (l : Launch) (cores : Nat) (modl : Bool) : Nat :=
  let f := 1216 + 16896 + (if modl then 4096 else 0)
  l.entries * cores * ((l.depth + 1) * f + 256)

/-- A range of device memory passes the access tables of its homes for a master: every home of the
range, and the hole above the HBM, is among the first 192 granules after its start or after a boundary between dies or
tiers. -/
def State.rangeAllowed (s : State) (mid a n : Nat) (r w : Bool) : Bool :=
  let ends := a + n
  let starts := a :: [0x3000000000, 0x6000000000, 0x9000000000, 0xC000000000, 0x10000000000, 0x18000000000].filterMap fun b =>
    let k := a / 2 ^ 45 * 2 ^ 45 + b
    if a < k && k < ends then some k else none
  n == 0 || (s.inMemory a && s.inMemory (ends - 1) &&
    starts.all fun k => (List.range 192).all fun j =>
      let g := if j = 0 then k else k / 256 * 256 + 256 * j
      decide (ends ≤ g) || (s.inMemory g && s.tableAllows (s.sliceNo g) mid r w false))

/-- Check 6. -/
def State.launchAccess (s : State) (l : Launch) (mid cores : Nat) : Bool :=
  s.rangeAllowed mid (l.word 9).toNat (512 * l.field 10 23 0) true true &&
    s.rangeAllowed mid (l.word 11).toNat (l.word 12).toNat true true &&
    s.rangeAllowed mid (l.word 13).toNat (512 * l.field 14 15 0 * cores) true true &&
    s.rangeAllowed mid (l.word 15).toNat 8 true true &&
    s.rangeAllowed mid (l.word 35).toNat 2048 true false

/-- The prerequisites that a descriptor names. -/
def Launch.prereqs (l : Launch) : List Nat :=
  [l.field 32 31 0, l.field 32 63 32, l.field 33 31 0, l.field 33 63 32].filter (· != 0)

/-- Paired mode allows only places in dies 0 and 1 (20 R393). -/
def State.pairedPlaceBad (s : State) (l : Launch) (p : List Nat) : Bool :=
  s.paired && (l.field 7 2 0 == 4 || p.any fun c => decide (2 ≤ dieOf c))

/-- The status of the first check of Table 18.2 that fails; `none` if every check passes. -/
def State.validate (s : State) (l : Launch) (mid : Nat) : Option Nat :=
  if !(l.reservedOk && l.limitsOk) then some 2
  else if s.launches.any fun (_, x) => x.lnum == l.lnum then some 2
  else if l.tooBig then some 1
  else match s.placeCores (l.word 7) 0 with
    | none => some 2
    | some p =>
      if p.isEmpty || s.pairedPlaceBad l p then some 2
      else if (l.word 12).toNat < storeSize l p.length ((s.pkg.feat.toList.getD 0 0).getLsbD 6) then some 8
      else if !s.launchAccess l mid p.length then some 7
      else if l.prereqs.contains l.lnum then some 3
      else none

/-! ### Acceptance (18 R348, R349, R354) -/

/-- The Factor serves its queues: features are committed, the boot succeeded, nothing has tripped and
no quiescence is on. -/
def State.accepting (s : State) : Bool :=
  s.pkg.committed && s.pkg.bstat.getLsbD 0 && !s.pkg.bstat.getLsbD 1 && !s.pkg.tripped && s.pkg.fstate == 0

/-- A launch as its descriptor gives it. -/
def launchOf (d : Vector Word 40) (order : Nat) : Launch where
  desc := d
  state := .waiting
  place := []
  spbase := []
  root := 0
  gens := []
  spills := 0
  killed := false
  reports := []
  saved := []
  status := 0
  order := order
  pre := []
  lstate := 0

/-- The prerequisites of launches, and theirs. -/
def State.preOf (s : State) (fuel : Nat) (ls : List Nat) : List Nat :=
  match fuel with
  | 0 => ls
  | j + 1 => ls ++ s.preOf j (ls.flatMap fun i => match s.launch? i with
    | some l => l.pre
    | none => [])

/-- The threads of launches, and of those that these wait for, change priority with the launches that wait for them
(R331, R354). -/
def State.refreshLaunches (s : State) (ls : List Nat) : State :=
  let all := s.preOf 16 ls
  (s.allThreads.filter fun t => all.contains t.launch && t.life != .ended).foldl (fun s t => s.refreshPrio t.tid) s

/-- The die of the first core that PLACE names as written (R354). -/
def Launch.placeDie (l : Launch) : Nat := bits (l.word 7) 16 15

/-- A descriptor is dropped and counted. -/
def State.dropLaunch (s : State) (q : Nat) : State := s.modQueue q fun x => { x with drop := (x.drop + 1) % 2 ^ 32 }

/-- The launch that a descriptor at a physical address gives, where the access tables let the Factor read it and its
completion word is an aligned EMPTY word of memory (R348, log 78). -/
def State.launchAt (s : State) (a order : Nat) : Option Launch :=
  let ws := s.mem.readWords a 40
  let d : Vector Word 40 := Vector.ofFn fun i => ws.getD i.val 0
  let l := launchOf d order
  let c := (l.word 15).toNat
  if s.factorMay a 40 false && c % 8 == 0 && s.inMemory c && s.factorMay c 1 false && s.mem.tag c == .empty then some l
  else none

/-- A launch is validated for the master that submitted it: it is rejected, or waits with its prerequisite
edges. -/
def State.acceptLaunch (s : State) (l : Launch) (mid : Nat) : State :=
  match s.validate l mid with
  | some st => s.fillCword l st 3
  | none =>
    let pre := (s.launches.filter fun (_, x) => l.prereqs.contains x.lnum).map (·.1)
    let s : State := { s with launches := tabSet s.launches l.order { l with pre := pre } }
    (s.insertLaunchWaits l.order l.placeDie pre).refreshLaunches pre

/-- A descriptor at a physical address is taken from queue q; none while its completion word waits for its
line. -/
def State.acceptAt (s : State) (q a : Nat) : Option State :=
  let mid := match s.pkg.queues.toList[q]? with
    | some x => x.mid
    | none => 0
  let (order, t) := s.fresh
  match s.launchAt a order with
  | none => some (t.dropLaunch q)
  | some l => if s.cwordWaits l then none else some (t.acceptLaunch l mid)

/-- LAUNCH_ACCEPT: the Factor reads the next entry of queue n; one that it may not read is dropped (log 78). -/
def execLaunchAccept (n : Nat) (s : State) : Host.Outcome State Fault Refusal :=
  event (fun s =>
    match s.pkg.queues.toList[n]? with
    | none => none
    | some q =>
      if !s.accepting || !q.cfg.getLsbD 5 || q.head == q.tail then none
      else
        let e := q.base.toNat + 8 * (q.head % 2 ^ ringLog q.cfg)
        let t := if s.factorMay e 1 false then s.acceptAt n (s.mem.word e).toNat else some (s.dropLaunch n)
        t.map fun t => t.modQueue n fun x => { x with head := (x.head + 1) % 2 ^ 32 }) s

/-! ### Binding (18 R352) -/

/-- The launches that hold shares. -/
def State.boundLaunches (s : State) : List (Nat × Launch) :=
  s.launches.filter fun (_, l) => l.state == .bound || l.state == .started

/-- The clusters of a place, in order. -/
def placeClusters (p : List Nat) : List Nat := (p.map clusterOf).eraseDups

/-- The place cores of this package. -/
def nearCores (p : List Nat) : List Nat := p.filter fun c => decide (c < 2 ^ 13)

/-- The shares that bound launches hold of a core. -/
def State.shareOf (s : State) (c : Nat) (f : Launch → Nat) : Nat :=
  (s.boundLaunches.filter fun (_, l) => l.place.contains c).foldl (fun n (_, l) => n + f l) 0

/-- Scratchpad ranges that bound launches hold on a core. -/
def State.spadRanges (s : State) (c : Nat) : List (Nat × Nat) :=
  s.boundLaunches.filterMap fun (_, l) => (tabGet l.spbase c).map fun b => (b, l.spad)

/-- The lowest offset at which a share lies free on every core of a run. -/
def State.spadBase (s : State) (cores : List Nat) (n : Nat) : Option Nat :=
  let taken := cores.flatMap s.spadRanges
  let at_ := (0 :: taken.map fun (b, k) => b + k).filter fun b => decide (b + n ≤ 0x3C000) &&
    taken.all fun (x, k) => decide (b + n ≤ x) || decide (x + k ≤ b) || k == 0 || n == 0
  leastBy id at_

/-- Scratchpad bases of a place: one for each run within a cluster, none if a run has no room. -/
def State.spadBases (s : State) (p : List Nat) (n : Nat) : Option (List (Nat × Nat)) :=
  (placeClusters p).foldl (fun acc cl => match acc with
    | none => none
    | some l =>
      let run := p.filter fun c => clusterOf c == cl
      match s.spadBase run n with
      | none => none
      | some b => some (run.foldl (fun l c => tabSet l c b) l)) (some [])

/-- The shares of a launch are free on the cores of a place in this package (log 79), and each die has bind records
for it. -/
def State.sharesFree (s : State) (l : Launch) (place : List Nat) : Bool :=
  let p := nearCores place
  p.all (fun c => decide (s.shareOf c Launch.entries + l.entries ≤ 256) &&
    decide (s.shareOf c Launch.regs + l.regs ≤ 4096) && decide (s.shareOf c Launch.spad + l.spad ≤ 0x3C000)) &&
  (s.spadBases p l.spad).isSome &&
  (List.range 4).all fun d =>
    decide ((s.die d).slots.length + ((placeClusters p).filter fun cl => cl / 12 == d).length ≤ 512)

/-- Enabled counts of the clusters of a place, in order. -/
def State.countsOf (s : State) (p : List Nat) : List Nat := (placeClusters p).map fun cl =>
  let (k, c) := coreHome s.pkg.num (cl * 128)
  s.countIn k (clusterOf c)

/-- A place word with another first unit. -/
def movePlace (w : Word) (die cl core : Nat) : Word := setBits (setBits (setBits w 16 15 die) 14 11 cl) 10 4 core

/-- The place words that ANY lets the Factor choose among; a run of packages may begin at any of the domain. -/
def State.anyPlaces (s : State) (w : Word) : List Word :=
  match bits w 2 0 with
  | 1 => (List.range 4).flatMap fun d => (List.range 12).flatMap fun c => (List.range 128).map fun k => movePlace w d c k
  | 2 => (List.range 4).flatMap fun d => (List.range 12).map fun c => movePlace w d c 0
  | 3 => (List.range 4).map fun d => movePlace w d 0 0
  | _ => (List.range s.npkg).map fun p => setBits w 28 17 p

/-- The places that a launch may take. -/
def State.placesOf (s : State) (l : Launch) : List (List Nat) :=
  let w := l.word 7
  match s.placeCores w 0 with
  | none => []
  | some p =>
    if l.field 6 29 29 = 0 then [p]
    else (s.anyPlaces w).filterMap fun v => match s.placeCores v 0 with
      | some q => if s.countsOf q = s.countsOf p && !s.pairedPlaceBad l q then some q else none
      | none => none

/-- The mirror place of half B, PLACE with 2 added to DIE (20 R393): the same cores, or the enabled cores of the
clusters two dies on (05 R97). -/
def State.mirrorPlace (s : State) (l : Launch) (p : List Nat) : List Nat :=
  if l.field 7 2 0 = 1 then p.map fun c => c + 2 * 1536
  else (placeClusters p).flatMap fun cl => (List.range (s.cluster (cl + 24)).encnt).map fun i => (cl + 24) * 128 + i

/-- The places that a waiting launch could bind on now. -/
def State.bindable (s : State) (l : Launch) : List (List Nat) :=
  if l.state != .waiting || l.killed || l.pre.any fun p => (s.launch? p).isSome then []
  else (s.placesOf l).filter fun p => s.sharesFree l p && (!s.paired ||
    ((s.mirrorPlace l p).all s.coreEnabled && s.sharesFree l (s.mirrorPlace l p)))

/-- A waiting launch that goes before another: higher effective priority, or accepted earlier. -/
def State.goesBefore (s : State) (a b : Nat × Launch) : Bool :=
  let f := s.launches.length + 1
  decide (s.launchEprio f b.1 < s.launchEprio f a.1) ||
    (s.launchEprio f a.1 == s.launchEprio f b.1 && decide (a.2.order < b.2.order))

/-- The places that no waiting launch before this one can bind on. -/
def State.bindPlaces (s : State) (x : Nat × Launch) : List (List Nat) :=
  (s.bindable x.2).filter fun p => s.launches.all fun y =>
    y.1 == x.1 || !s.goesBefore y x || (s.bindable y.2).all fun q => q.all fun c => !p.contains c

/-- Half B's mirror of a physical address (20 R393). -/
def mirrorPa (w : Word) : Word :=
  let a := paLocal w.toNat
  if a < 0x6000000000 then w + 0x6000000000
  else if 0x10000000000 ≤ a ∧ a < 0x18000000000 then w + 0x8000000000
  else w

/-- The descriptor as half B runs it: its own completion word, pending area, context store and spill
region. -/
def mirrorDesc (d : Vector Word 40) : Vector Word 40 := Vector.ofFn fun i =>
  if i.val = 9 || i.val = 11 || i.val = 13 || i.val = 15 then mirrorPa (d[i]) else (d[i])

/-- The bind record of a run of place cores within one cluster (Table 18.4). -/
def bindRec (k : Nat) (l : Launch) (run : List Nat) (spbase : Nat) (lstate : Word) : BindRec where
  launch := k
  bad := false
  words := ⟨#[
    BitVec.ofNat 64 (1 + 2 ^ 4 * (clusterOf (run.headD 0) % 12) + 2 ^ 8 * (run.headD 0 % 128) +
      2 ^ 16 * (run.length - 1) + 2 ^ 24 * l.field 6 18 16 + 2 ^ 32 * l.lnum),
    BitVec.ofNat 64 (l.entries + 2 ^ 12 * l.regs + 2 ^ 32 * spbase),
    BitVec.ofNat 64 (l.spad + 2 ^ 32 * l.rmask),
    BitVec.ofNat 64 (l.field 0 63 32 + 2 ^ 32 * l.asid),
    lstate, 0, 0, 0], rfl⟩

/-- A bind record enters the slot table of a die at its lowest free number (log 80). -/
def State.writeBind (s : State) (d : Nat) (r : BindRec) : State :=
  s.modDie d fun x => match (List.range 512).find? fun n => (tabGet x.slots n).isNone with
    | some n => { x with slots := tabSet x.slots n r }
    | none => x

/-- A launch takes a place: a bind record for each run in this package, and its launch state block, whose address is
a free value (log 80). -/
def State.bindOn (s : State) (k : Nat) (l : Launch) (p : List Nat) : State :=
  let near := nearCores p
  let base := (s.spadBases near l.spad).getD []
  let (a, s) := s.freeVal
  let s : State := { s with launches := tabSet s.launches k { l with
    state := .bound, place := p, spbase := base, lstate := a } }
  (placeClusters near).foldl (fun s cl =>
    let run := near.filter fun c => clusterOf c == cl
    s.writeBind (cl / 12) (bindRec k l run ((tabGet base (run.headD 0)).getD 0) a)) s

/-- The bind records of a launch are free. -/
def State.freeBinds (s : State) (k : Nat) : State :=
  { s with dies := s.dies.map fun (d, x) => (d, { x with slots := x.slots.filter fun (_, r) => r.launch != k }) }

/-- Launches that wait for launch k wait for launch m as well. -/
def State.alsoWait (s : State) (k m : Nat) : State :=
  (s.launches.filter fun (_, x) => x.pre.contains k).foldl (fun s (i, x) =>
    ({ s with launches := tabSet s.launches i { x with pre := x.pre ++ [m] } } : State).insertLaunchWaits i x.placeDie
      [m]) s

/-- The launch binds; in paired mode its mirror binds with it, and whoever waits for the launch waits
for both. -/
def State.bindLaunch (s : State) (k : Nat) (l : Launch) (p : List Nat) : State :=
  let s := (s.bindOn k l p).removeLaunchWaits k l.pre
  let s : State := if s.paired then
      let (m, s) := s.fresh
      (s.bindOn m { l with desc := mirrorDesc l.desc, order := m } (s.mirrorPlace l p)).alsoWait k m
    else s
  s.refreshLaunches l.pre

/-- LAUNCH_BIND: the nth launch that can bind does. -/
def execLaunchBind (n : Nat) (s : State) : Host.Outcome State Fault Refusal :=
  event (fun s =>
    if s.pkg.tripped || s.pkg.fstate != 0 then none
    else
      let l := s.launches.filter fun x => !(s.bindPlaces x).isEmpty
      match l[n % l.length]? with
      | none => none
      | some (k, x) =>
        match s.chooseFrom (s.bindPlaces (k, x)) with
        | (some p, s) => some (s.bindLaunch k x p)
        | (none, _) => none) s

/-! ### Start (18 R353) -/

/-- The root family of a launch. -/
def rootFamily (k : Nat) (l : Launch) (queued : Nat) : Fam where
  launch := k
  record := 1
  gen := 0
  fid := BitVec.ofNat 32 (l.field 0 63 32)
  st := {
    start := l.word 3, limit := l.word 4, step := l.word 5, block := BitVec.ofNat 64 (l.field 6 8 0)
    place := l.word 7, entry := l.word 1, window := l.word 2, prio := BitVec.ofNat 64 (l.field 6 18 16), flags := 0
    g := Vector.ofFn fun i => l.word (16 + i.val), d := Vector.replicate 16 0 }
  prio := l.field 6 18 16
  ceil := l.field 6 22 20
  pl := 0
  thand := 0
  tmask := 0
  ivl := 0
  parent := 0
  creator := none
  place := l.place
  n := memberCount (l.word 3) (l.word 4) (l.word 5)
  started := []
  ended := []
  adopted := false
  brk := none
  killed := false
  finals := Vector.replicate 16 none
  fwd := []
  fin := false
  queued := queued
  live := true

/-- The kernel vector word of a core (06 Table 6.2). -/
def State.kernelVector (s : State) (c : Nat) : Word := s.mem.word (Loc.sp c 0x3C000).key

/-- The start command: the Factor holds the launch while the kernel vector word of a place core, of this package
(log 79), is 0. -/
def State.startLaunch (s : State) (k : Nat) (l : Launch) : State :=
  let hold (s : State) (b : Bool) : State := s.setHold (fun _ r => r.launch == k) b
  if (nearCores l.place).any fun c => s.kernelVector c == 0 then hold s true
  else
    let (fk, s) := (hold s false).fresh
    let f := rootFamily k l fk
    let s : State := { s with
      fams := tabSet s.fams fk f
      launches := tabSet s.launches k { l with state := .started, root := fk } }
    if f.n = 0 then s.modFam fk Fam.endEmpty else s.startAll fk l.place

/-- LAUNCH_START: the nth bound launch is started. -/
def execLaunchStart (n : Nat) (s : State) : Host.Outcome State Fault Refusal :=
  event (fun s =>
    let l := s.launches.filter fun (_, l) => l.state == .bound && !l.killed
    if s.pkg.tripped || s.pkg.fstate != 0 then none
    else match l[n % l.length]? with
      | none => none
      | some (k, x) => some (s.startLaunch k x)) s

/-! ### Completion and kill (18 R350, R352, R358) -/

/-- A launch that waited for one that did not end DONE completes PREREQ, and so on. -/
def State.failWaiters (s : State) (fuel k : Nat) : State :=
  match fuel with
  | 0 => s
  | j + 1 =>
    let hit := s.launches.filter fun (_, x) => x.state == .waiting && x.pre.contains k && x.field 6 30 30 == 0
    hit.foldl (fun s (i, x) =>
      ((({ s with launches := tabErase s.launches i } : State).removeLaunchWaits i x.pre).fillCword x 4 3).failWaiters j i) s

/-- No write of a launch is still to be performed: of its threads, appends and replays among them, of its engines,
or of a reduction's contributions. -/
def State.launchQuiet (s : State) (k : Nat) : Bool :=
  let mine (q : Req) : Bool := q.launch == k || q.parts.any fun p => p.launch == k
  !s.reqs.any mine && !s.missed.any mine && !(s.cores.any fun (_, c) => c.queue.any mine) &&
    !(s.engines.any fun e => e.launch == k) && !(s.bins.any fun (_, b) => b.launch == k && b.runner.isSome) &&
    !s.partials.any fun p => p.who.any fun x => x.2.1 == k

/-- A launch has nothing left to do. -/
def State.launchOver (s : State) (k : Nat) (l : Launch) : Bool :=
  match l.state with
  | .started => (s.fams.all fun (_, f) => f.launch != k || f.fin) && s.launchQuiet k &&
      !(s.allThreads.any fun t => t.launch == k && t.life != .ended)
  | _ => l.killed

/-- STATUS of a launch that ends. -/
def Launch.endStatus (l : Launch) : Nat := if l.killed then 5 else if l.reports.isEmpty then 0 else 6

/-- A launch completes: its completion word is filled and what it held is free. -/
def State.completeLaunch (s : State) (k : Nat) (l : Launch) : State :=
  let endc := match l.state with
    | .started => match s.fam? l.root with
      | some f => f.endCode
      | none => 3
    | _ => 3
  let s : State := (s.freeBinds k).removeLaunchWaits k l.pre
  let s : State := { s with
    launches := tabErase s.launches k
    pkg := { s.pkg with cutCopies := tabErase s.pkg.cutCopies k }
    fams := s.fams.filter fun (_, f) => f.launch != k
    bins := s.bins.map fun (i, b) => (i, if b.launch == k then { b with live := false, recs := [] } else b)
    groups := s.groups.map fun (i, g) => (i, if g.launch == k then { g with live := false } else g) }
  let s := s.fillCword l l.endStatus endc
  let s := if l.endStatus = 0 then s else s.failWaiters s.launches.length k
  s.refreshLaunches l.pre

/-- LAUNCH_COMPLETE: the nth launch that is over completes, once its completion word and those of the launches that
fail with it wait for no line. -/
def execLaunchComplete (n : Nat) (s : State) : Host.Outcome State Fault Refusal :=
  event (fun s =>
    let l := s.launches.filter fun (k, l) => s.launchOver k l && !s.cwordWaits l &&
      s.launches.all fun (_, x) => x.state != .waiting || !s.cwordWaits x
    match l[n % l.length]? with
    | none => none
    | some (k, x) => some (s.completeLaunch k x)) s

/-- The Factor kills a launch: its families, started or pending, and its saved threads. One whose last family has
ended keeps its own status (R358). -/
def State.killLaunch (s : State) (k : Nat) : State :=
  let ended := s.fams.all fun (_, f) => f.launch != k || f.fin
  let s := s.modLaunch k fun l => { l with killed := l.killed || l.state != .started || !ended, saved := [] }
  let fs := (s.fams.filter fun (_, f) => f.launch == k && !f.fin).map (·.1)
  let hs := s.allThreads.filter fun t => t.launch == k && t.life == .halted
  (hs.foldl (fun s t => s.killHalted t.tid) s).killAll s.killFuel fs []

/-- A launch and, in paired mode, its mirror are killed. -/
def State.killLnum (s : State) (lnum : Nat) : State :=
  (s.launches.filter fun (_, l) => l.lnum == lnum && !l.killed).foldl (fun s (k, _) => s.killLaunch k) s

/-- LAUNCH_KILL: the nth live launch is killed. -/
def execLaunchKill (n : Nat) (s : State) : Host.Outcome State Fault Refusal :=
  event (fun s =>
    let l := s.launches.filter fun (_, l) => !l.killed
    match l[n % l.length]? with
    | none => none
    | some (_, x) => some (s.killLnum x.lnum)) s

/-- HALTED_THREAD_KILL: the device OS, through the Factor, kills the nth Halted thread (R365). -/
def execHaltedThreadKill (n : Nat) (s : State) : Host.Outcome State Fault Refusal :=
  event (fun s =>
    let l := s.allThreads.filter fun t => t.life == .halted
    match l[n % l.length]? with
    | none => none
    | some t => some (s.killHalted t.tid)) s

end Sys2Proof.Machine
end

