-- ==== Sys2Proof/Machine/Preempt.lean ====
section
/-! DEFINITION. Pre-emption, restore and migration of threads (18 R355 to R357, Table 18.5) and
quiescence of the package (21 R406, R407). -/

namespace Sys2Proof.Machine

/-! ### Saving (18 R355) -/

/-- The Factor asks for a save with KIND: at once where the thread is at a boundary and may be saved,
else at its next one. A Halted thread stays; an adopter between two members frees its entry, and one in whose
entry a member runs is saved with that member, or as the member ends. -/
def State.askSave (s : State) (kind : Nat) (t : Thread) : State :=
  match t.life with
  | .halted => s
  | .adopting => if t.parked then s
    else if s.allThreads.any fun u => u.host == some t.tid then s.putThread { t with savePend := some kind }
    else s.preemptAdopter t
  | .saved => s
  | .ended => s
  | _ => if s.canSave t then s.preemptThread t kind
    else s.putThread { t with savePend := some kind }

/-- HOLD is set in the bind record of a launch for a core. -/
def State.holdOn (s : State) (launch c : Nat) : State :=
  s.setHold (fun d r => r.launch == launch && d == dieOf c && r.covers c) true

/-- PRE_EMPT: n holds the core in its low 13 bits, then 16 bits that tell which launch bound there,
then a bit for each thread entry of the set. HOLD does not stay where nothing is saved or to be saved. -/
def execPreEmpt (n : Nat) (s : State) : Host.Outcome State Fault Refusal :=
  event (fun s =>
    let c := n % 2 ^ 13
    let l := s.boundLaunches.filter fun (_, l) => l.place.contains c
    match l[n / 2 ^ 13 % 2 ^ 16 % l.length]? with
    | none => none
    | some (k, _) =>
      let set_ := n / 2 ^ 29
      let s := s.holdOn k c
      let s := ((s.onCore c).filter fun t => t.launch == k && (set_ / 2 ^ t.entry) % 2 == 1).foldl
        (fun s t => match s.thread? t.tid with
          | some t => s.askSave 0 t
          | none => s) s
      some (s.clearHold k c)) s

/-! ### Restoring -/

/-- The entry that a saved thread would take: any free one of its launch's share, lowest first; the entry of
its adopter, unless that was freed; or the one it keeps. -/
def State.restoreEntry (s : State) (t : Thread) (entries : Nat) : Option Nat :=
  let free := if s.entriesUsed t.core t.launch < entries then (s.freeEntries t.core).head? else none
  if t.pinned then some t.entry
  else match t.host with
    | some h => match s.thread? h with
      | some u => if u.parked then free else if u.core = t.core then some u.entry else none
      | none => none
    | none => free

/-- The entry and the run of registers that a saved thread would take; an adopter takes registers as it goes
on. -/
def State.restoreRoom (s : State) (t : Thread) : Option (Nat × Nat) :=
  match s.launch? t.launch with
  | none => none
  | some l =>
    let run := if t.life = .adopting then some 0 else s.runFor t.core t.launch (windowSize t.win)
    match s.restoreEntry t l.entries, run with
    | some e, some b => some (e, b)
    | _, _ => none

/-- It leaves the saved-thread list. -/
def State.unlist (s : State) (t : Thread) : State :=
  (s.modLaunch t.launch fun l => { l with saved := l.saved.filter (· != t.tid) }).clearHold t.launch t.core

/-- A saved thread goes on, if its claim's lanes are granted, its adopters again in its entry; an adopter takes
its next step. -/
def State.restoreSaved (s : State) (t : Thread) (e b : Nat) : State :=
  if t.life = .adopting then
    ((s.unparkHosts t.core e (s.hostsOf 16 (some t.tid))).unlist t).adoptStep t.tid
  else
    let (ok, s) := s.lanesReady t
    if !ok then s
    else
      let hs := (s.hostsOf 16 t.host).filter (·.parked)
      ((s.unparkHosts t.core e hs).restoreInto t.tid t.core e b).unlist t

/-- The saved threads of a launch on a core, in order of saving. -/
def State.savedOf (s : State) (l : Launch) (c : Nat) : List Thread :=
  (l.saved.filterMap s.thread?).filter fun t => t.core == c && (t.life == .saved || (t.life == .adopting && t.parked))

/-- The saved thread of a launch on a core that is restored next: highest effective priority, then
order of saving. -/
def State.nextSaved (s : State) (l : Launch) (c : Nat) : Option Thread :=
  leastBy (fun t => 7 - t.eprio) (s.savedOf l c)

/-- Registers are made free for a saved thread that finds none: threads of its launch on its core that wait are
saved, by rising effective priority. DEDUCED: without it two members could hold and wait for registers for ever, which
05 R116 excludes (log 67). -/
def State.restoreForced (s : State) (t : Thread) : Option State :=
  match s.launch? t.launch with
  | none => none
  | some l => match s.restoreEntry t l.entries with
    | none => none
    | some e =>
      match s.makeRun t.core t.launch (windowSize t.win)
          ((s.victims t.core t.launch t.tid).filter fun v => v.life == .waiting) with
      | (some b, s) => some (s.restoreSaved t e b)
      | (none, _) => none

/-- THREAD_RESTORE on core n. -/
def execThreadRestore (n : Nat) (s : State) : Host.Outcome State Fault Refusal :=
  event (fun s =>
    if s.pkg.fstate != 0 then none
    else
      let next := s.boundLaunches.filterMap fun (_, l) => s.nextSaved l n
      match leastBy (fun (t, _) => 7 - t.eprio) (next.filterMap fun t => (s.restoreRoom t).map fun r => (t, r)) with
      | some (t, e, b) => some (s.restoreSaved t e b)
      | none => (s.boundLaunches.flatMap fun (_, l) => s.savedOf l n).findSome? s.restoreForced) s

/-! ### Migration (18 R357) -/

/-- The thread holds an array, a ring reservation or matrix work. -/
def State.holdsMatrix (s : State) (t : Thread) : Bool :=
  !t.prods.isEmpty || !t.conss.isEmpty || (s.engines.any fun e => e.tid == t.tid && !e.isCopy) ||
    (s.cluster (clusterOf t.core)).arrays.any fun (_, m) => m.holder == some t.tid

/-- A thread may move to a core, whose share has an entry for it (18 R351). -/
def State.canMigrate (s : State) (t : Thread) (c : Nat) : Bool :=
  (match s.launch? t.launch with
    | some l => l.field 6 28 28 == 1 && l.place.contains c
    | none => false) &&
  decide ((s.entriesUsed c t.launch + (match s.launch? t.launch with
    | some l => (s.savedOf l c).length
    | none => 0)) < (match s.launch? t.launch with
    | some l => l.entries
    | none => 0)) &&
  s.pkg.fstate == 0 && t.core != c && t.host.isNone && !t.pinned && s.canSave t && t.copyn == 0 && t.rxBound.isNone &&
    (clusterOf c == clusterOf t.core || !s.holdsMatrix t)

/-- A thread is saved with KIND 2 and restored on another core of its launch's binding, at once or when
there is room. -/
def State.migrateTo (s : State) (t : Thread) (c : Nat) : State :=
  let s := (s.saveThread t.tid 2 .saved).modThread t.tid fun t => { t with core := c }
  match s.thread? t.tid with
  | none => s
  | some t =>
    let s := s.listSaved t
    match s.restoreRoom t with
    | some (e, b) => s.restoreSaved t e b
    | none => s

/-- MIGRATE: n holds the target core in its low 13 bits, then which of the threads that may move
there does. -/
def execMigrate (n : Nat) (s : State) : Host.Outcome State Fault Refusal :=
  event (fun s =>
    let c := n % 2 ^ 13
    let l := s.allThreads.filter fun t => s.canMigrate t c
    match l[n / 2 ^ 13 % l.length]? with
    | none => none
    | some t => some (s.migrateTo t c)) s

/-! ### Quiescence (21 R406, R407) -/

/-- A thread is resumed for its save if it is Stopped, then its save is asked for; a thread whose save
waits on an unanswered fault is answered DENY. -/
def State.quiesceThread (s : State) (tid : Nat) : State :=
  let s : State := match s.thread? tid with
    | some t => if t.life = .stopped || t.stopPend then s.resumeThread t else s
    | none => s
  match s.thread? tid with
  | some t => s.askSave 0 t
  | none => s

/-- FCTL.QUIESCE: HOLD is set everywhere and every thread of every live launch is saved. -/
def State.quiesce (s : State) : State :=
  let s := (s.setHold (fun _ r => r.bits 0 0 0 == 1) true).modPkg fun p => { p with fstate := 1 }
  (s.allThreads.map (·.tid)).foldl (fun s t => s.quiesceThread t) s

/-- FCTL_QUIESCE: the write that starts quiescence. -/
def execFctlQuiesce (_n : Nat) (s : State) : Host.Outcome State Fault Refusal :=
  event (fun s => if s.pkg.fstate = 0 then some s.quiesce else none) s

/-- A fault record that a thread's save waits on. -/
def State.quiesceFault (s : State) : Option FaultRec := s.faults.find? fun f => f.who.src == 0

/-- Every thread is saved, or stays in place; no copy, engine operation or replay runs; and no sys
phase is open. -/
def State.atRest (s : State) : Bool :=
  (s.allThreads.all fun t => t.life == .saved || t.life == .halted || t.life == .adopting || t.life == .ended) &&
    s.engines.isEmpty && (s.bins.all fun (_, b) => b.runner.isNone) &&
    s.cores.all fun (_, c) => c.phases.all fun p => p.id.scope != .sys ||
      (!p.closed && p.sent.all fun (t, n) => decide (n ≤ (tabGet p.done t).getD 0))

/-- A thread that quiescence still has to save, now at a boundary. -/
def State.quiesceLate (s : State) : Option Thread :=
  s.allThreads.find? fun t => t.life != .saved && t.life != .halted && t.life != .adopting && t.life != .ended &&
    (t.life == .stopped || t.stopPend || s.canSave t)

/-- Copies of a launch that ended with STATE 4. -/
def State.partialCopies (s : State) (k : Nat) : Nat := (tabGet s.pkg.cutCopies k).getD 0

/-- The capture manifest's words: for each live launch its number, the address of its launch state block, its saved
threads and its partial copies. -/
def State.manifest (s : State) : List Word :=
  s.launches.flatMap fun (k, l) =>
    [BitVec.ofNat 64 l.lnum, l.lstate, BitVec.ofNat 64 l.saved.length, BitVec.ofNat 64 (s.partialCopies k)]

/-- QUIESCED: the Factor goes on with quiescence: a late save, an unanswered fault, or, all at rest,
state 2 with the manifest written, where the access tables let the Factor write it (log 78). -/
def execQuiesced (_n : Nat) (s : State) : Host.Outcome State Fault Refusal :=
  event (fun s =>
    if s.pkg.fstate != 1 then none
    else match s.quiesceFault with
      | some f => match s.takeFault f.token with
        | some (f, s) => some (if s.waiterLives f.who then s.denyFault f else s)
        | none => none
      | none => match s.quiesceLate with
        | some t => some (s.quiesceThread t.tid)
        | none =>
          if s.atRest then
            let ws := s.manifest
            let at_ := s.pkg.fcap.toNat
            let s : State := if s.factorMay at_ ws.length true then { s with mem := s.mem.writeWords at_ ws } else s
            some { s with pkg := { s.pkg with fstate := 2 } }
          else none) s

/-- FCTL.RESUME: STATE is 0 again; the saved threads are restored by THREAD_RESTORE, and HOLD is cleared
where none is saved. -/
def State.resumeAll (s : State) : State :=
  (s.setHold (fun d r => !s.savedUnder d r) false).modPkg fun p => { p with fstate := 0 }

/-- FCTL_RESUME, in state 2. -/
def execFctlResume (_n : Nat) (s : State) : Host.Outcome State Fault Refusal :=
  event (fun s => if s.pkg.fstate = 2 then some s.resumeAll else none) s

end Sys2Proof.Machine
end

