-- ==== Sys2Proof/Machine/Deadlock.lean ====
section
/-! DEFINITION. The wait-for table's events (17 R327 to R334): waits on implicit objects, the spread of
effective priority, and the Factor's scan for deadlocks. -/

namespace Sys2Proof.Machine

/-! ### Insertion and removal (17 R327, R332) -/

/-- A waiting thread's wait is withdrawn and its instruction traps DEADLOCK; one that is caught by a
stop or a save traps as it goes on (17 R332, R334). -/
def State.trapDeadlock (s : State) (tid : Nat) (path : List (Word × Nat)) (scan : Bool) : State :=
  let name : Word := match path with
    | (n, _) :: _ => n
    | [] => 0
  let s := ((s.withdrawWait tid).modThread tid fun t => { t with laneReq := none }).recordCycle tid path
  match s.thread? tid with
  | none => s
  | some t =>
    if t.life = .waiting && !t.stopPend then
      s.withThread tid (fun s =>
        trapW .deadlock name (deadlockInfo (min path.length 16) scan (decide (16 < path.length))) s.unread)
    else (s.putThread { t with dlPend := some (scan, decide (16 < path.length)) }).wake tid

/-- A hold edge of an implicit object that its holders no longer give, or that no wait edge calls for (17 R327). -/
def State.staleHold (s : State) (e : Edge) : Bool :=
  !e.wait && isImplicit e.obj && !(s.holdsDue e.obj).contains (e.die, e.tid, e.side)

/-- The edges that a thread has left behind go before a new one of its own comes. -/
def State.dropStale (s : State) (tid : Nat) : State :=
  (s.edges.filter fun e => e.tid == tid && s.staleWait e).foldl (fun s e => s.removeWait tid e.obj) s

/-- WAIT_FOR_INSERT: the nth thread that waits on a pool, an array, a ring or a bin set enters its wait
edge. -/
def execWaitForInsert (n : Nat) (s : State) : Host.Outcome State Fault Refusal :=
  event (fun s =>
    let l := s.allThreads.filterMap fun t => match s.implicitWait t with
      | some (o, d) => if s.hasWaitEdge t.tid o d then none else some (t.tid, o, d)
      | none => none
    match l[n % l.length]? with
    | none => none
    | some (tid, o, d) => some (match (s.dropStale tid).insertWait tid o (BitVec.ofNat 64 o) d with
      | .ok s => s
      | .error p => s.trapDeadlock tid p false)) s

/-- WAIT_FOR_REMOVE: the nth stale edge leaves its table. -/
def execWaitForRemove (n : Nat) (s : State) : Host.Outcome State Fault Refusal :=
  event (fun s =>
    let l := s.edges.filter fun e => s.staleWait e || s.staleHold e
    match l[n % l.length]? with
    | none => none
    | some e => some (if e.wait then s.removeWait e.tid e.obj else s.syncHolds e.obj)) s

/-- PRIORITY_PROPAGATE: the nth thread whose effective priority is out of date takes its new one. -/
def execPriorityPropagate (n : Nat) (s : State) : Host.Outcome State Fault Refusal :=
  event (fun s =>
    let l := s.allThreads.filter fun t => s.eprioOf t != t.eprio
    match l[n % l.length]? with
    | none => none
    | some t => some (s.refreshPrio t.tid)) s

/-! ### The scan (17 R333, R334) -/

/-- Untracked edges enter their tables in the order in which they arose, while there is room. -/
def State.reenter (s : State) (l : List Edge) : State :=
  match l with
  | [] => s
  | e :: r =>
    if s.tableRoom e.die e.obj then
      let s : State := { s with edges := s.edges.map fun x => if x = e then { x with tracked := true } else x }
      ((if e.wait then (s.syncHolds e.obj).stepPrio e.obj else s.refreshPrio e.tid)).reenter r
    else s.reenter r

/-- A path from an object back to a thread along the homes' records of every die, through edges of any
table or of none. -/
def State.scanPath (s : State) (fuel goal waiter obj : Nat) (name : Word) (side : Bool) :
    Option (List (Word × Nat)) :=
  match fuel with
  | 0 => none
  | j + 1 => firstSome (fun h =>
      if h = goal then some [(name, h)]
      else match s.waitOf (fun _ => true) h with
        | none => none
        | some e => (s.scanPath j goal h e.obj e.name e.side).map fun r => (name, h) :: r)
      (blockers waiter obj (s.holdersOf obj side))

/-- The cycle through the wait of a thread. -/
def State.cycleOf (s : State) (tid : Nat) : Option (List (Word × Nat)) :=
  match s.waitOf (fun _ => true) tid with
  | none => none
  | some e => s.scanPath (s.edges.length + 1) tid tid e.obj e.name e.side

/-- The thread waits by the edge with which it stands in a cycle: that of a WWAIT.nb is a registration, and no wait
of its own (17 R342). -/
def State.waitsByEdge (s : State) (t : Thread) : Bool :=
  t.wait.isSome && match s.waitOf (fun _ => true) t.tid with
    | some e => t.wreg != some e.obj
    | none => false

/-- The victim of a cycle: the waiter of lowest effective priority, the last to begin among equals. -/
def State.victimOf (s : State) (path : List (Word × Nat)) : Option Thread :=
  leastBy (fun t => t.eprio * 2 ^ 64 + (2 ^ 64 - 1 - t.since))
    ((path.filterMap fun (_, h) => s.thread? h).filter s.waitsByEdge)

/-- The cycle through the wait of a thread, if there is one, loses its victim; one of registrations alone has
none. -/
def State.breakCycle (s : State) (tid : Nat) : State :=
  match (s.cycleOf tid).bind s.victimOf with
  | none => s
  | some t => match s.cycleOf t.tid with
    | some p => s.trapDeadlock t.tid p true
    | none => s

/-- DEADLOCK_SCAN: ended parties settle, untracked edges enter again, and of each cycle found the victim traps. -/
def execDeadlockScan (_n : Nat) (s : State) : Host.Outcome State Fault Refusal :=
  event (fun s =>
    let s := s.scanParties
    let s := s.reenter (s.edges.filter fun e => !e.tracked)
    some (((s.edges.filter fun e => e.wait && decide (e.tid < 2 ^ 40)).map (·.tid)).foldl State.breakCycle s)) s

end Sys2Proof.Machine
end

