-- ==== Sys2Proof/Machine/Command.lean ====
section
/-! DEFINITION. Commands to a core over the management plane: stops, resumes and steps (14 R280 to R285),
PC samples (14 R287), core reset (06 R125) and the patrol scrub (06 R133). -/

namespace Sys2Proof.Machine

/-! ### Debug commands (14 R280) -/

/-- A debug command by the Forette port, which needs W in the access table of the cluster's debug block:
n holds the core in its low 13 bits, then 2 bits of scope and the entry. -/
def State.portCommand (s : State) (op n : Nat) : Option State :=
  let c := n % 2 ^ 13
  if s.tableAllows (targetDebug (clusterOf c)) 0x6000 false true false then
    some (s.dcmd c (BitVec.ofNat 64 (op + 2 ^ 4 * (n / 2 ^ 13 % 4) + 2 ^ 8 * (n / 2 ^ 15 % 256))))
  else none

/-- DCMD_STOP. -/
def execDcmdStop (n : Nat) (s : State) : Host.Outcome State Fault Refusal := event (fun s => s.portCommand 1 n) s

/-- DCMD_RESUME. -/
def execDcmdResume (n : Nat) (s : State) : Host.Outcome State Fault Refusal := event (fun s => s.portCommand 2 n) s

/-- DCMD_STEP. -/
def execDcmdStep (n : Nat) (s : State) : Host.Outcome State Fault Refusal := event (fun s => s.portCommand 3 n) s

/-- The next cluster command that reaches core c is a stop, or a resume. -/
def State.nextCommand (s : State) (c : Nat) (stop : Bool) : Bool :=
  match (s.core c).pendStop with
  | m :: _ => m.stop == stop
  | [] => false

/-- CLUSTER_STOP_ARRIVAL at core n. -/
def execClusterStopArrival (n : Nat) (s : State) : Host.Outcome State Fault Refusal :=
  event (fun s => if s.nextCommand n true then s.stopArrives n else none) s

/-- CLUSTER_RESUME_ARRIVAL at core n. -/
def execClusterResumeArrival (n : Nat) (s : State) : Host.Outcome State Fault Refusal :=
  event (fun s => if s.nextCommand n false then s.stopArrives n else none) s

/-! ### PC samples (14 R287) -/

/-- What a sample of a slot finds: the reason, and PC, entry and FID of the thread. Of a pair it reports the first
slot's PC (02 R39). -/
def State.sampled (s : State) (c slot : Nat) : Nat × Option (Word × Nat × Nat) :=
  let first (t : Thread) : Word := if t.halfDone then slotAdd t.pc (-1) else t.pc
  let at_ (t : Thread) : Option (Word × Nat × Nat) := some (first t, t.entry, bits t.famid 31 0)
  match (s.core c).lastIssue with
  | some r => (r.reason, some (r.pc, r.entry, r.fid))
  | none => match s.reserver c slot with
    | some t => (14, at_ t)
    | none =>
      let (r, t) := s.emptyReason c slot
      (r, t.bind at_)

/-- SREC of a sample. -/
def srecWord (slot reason : Nat) (t : Option (Word × Nat × Nat)) : Word :=
  BitVec.ofNat 64 (slot + 2 ^ 4 * reason + (match t with
    | some (_, e, f) => 2 ^ 8 * e + 2 ^ 16 + 2 ^ 32 * f
    | none => 0))

/-- A sample of core c is taken. -/
def State.sample (s : State) (c : Nat) : State :=
  let x := s.core c
  let slot := x.sampleAt % 16
  let (reason, t) := s.sampled c slot
  let pc : Word := match t with
    | some (p, _, _) => p
    | none => 0
  let srec := srecWord slot reason t
  let s := s.modCore c fun x => { x with
    sampleAt := x.sampleAt + max 16 (bits x.dbg.sctl 31 8)
    dbg := { x.dbg with spc := pc, srec := srec } }
  if x.dbg.sctl.getLsbD 1 && s.traceOn 0 then s.emit (coreSrc c) 1 [pc, srec] else s

/-- PC_SAMPLE of core n. -/
def execPcSample (n : Nat) (s : State) : Host.Outcome State Fault Refusal :=
  event (fun s => if (s.core n).sampleDue then some (s.sample n) else none) s

/-! ### Reports of units (18 R365) -/

/-- A launch key that names none. -/
def noLaunch : Nat := 2 ^ 64

/-- The launch whose share of a core's scratchpad holds an offset. -/
def State.spadOwner (s : State) (c off : Nat) : Nat :=
  match s.boundLaunches.find? fun (_, l) => match tabGet l.spbase c with
    | some b => decide (b ≤ off) && decide (off < b + l.spad)
    | none => false with
  | some (k, _) => k
  | none => noLaunch

/-- A word with an uncorrectable error becomes POISON with data 0 (06 R133, 16 R312). -/
def State.poisonWord (s : State) (k : Nat) : State :=
  let s := if s.mem.tag k = .object then s.poisonObject k else s
  (s.putWord k 0 .poison).changed k

/-! ### Patrol scrub (06 R133) -/

/-- A register of a thread's window. -/
def windowReg (w : Win) (c : Nat) : Bool :=
  match SReg.ofCode? w (BitVec.ofNat 7 c) with
  | some (.l _) => true
  | some (.g _) => true
  | some (.s _) => true
  | some (.d _) => true
  | _ => false

/-- What the scrub of core c finds at its next row: `k` 0 nothing, 1 an error that it corrects, 2 to 17
an uncorrectable one in the row's word of bank k − 2, more an uncorrectable one in a register. -/
def State.scrub (s : State) (c k : Nat) : State :=
  let row := (s.core c).patrol % 2048
  let s := s.modCore c fun x => { x with patrol := x.patrol + 1 }
  if k = 0 then s
  else if k = 1 then s.countErrors c 1
  else if k < 18 then
    let off := (row * 16 + (k - 2)) * 8
    ((s.poisonWord (Loc.sp c off).key).countErrors c 1).report (s.spadOwner c off) 5
      (positionWord s.pkg.num c 0) (BitVec.ofNat 64 off) []
  else
    let l := (s.onCore c).filter fun t => t.holdsWindow && windowReg t.win ((k - 18) % 128)
    match l[(k - 18) / 128 % l.length]? with
    | none => s
    | some t => ((s.putThread { t with ecc := setInsert t.ecc ((k - 18) % 128) }).countErrors c 1).reportThread t 5 0 []

/-- PATROL_SCRUB: n holds the core in its low 13 bits, then what the scrub finds. -/
def execPatrolScrub (n : Nat) (s : State) : Host.Outcome State Fault Refusal :=
  event (fun s =>
    let c := n % 2 ^ 13
    let x := s.core c
    if s.coreEnabled c && decide (4096 * (x.patrol + 1) ≤ x.cycle) then some (s.scrub c (n / 2 ^ 13)) else none) s

/-! ### Core reset (06 R125, 11 R227) -/

/-- Scratchpad words of a core are FULL with data 0, and none holds an object. -/
def State.clearScratchpad (s : State) (c : Nat) : State :=
  let b := (Loc.sp c 0).key
  let mine (k : Nat) : Bool := decide (b ≤ k) && decide (k < b + 2 ^ 18)
  { s with
    mem := ⟨s.mem.bytes.filter fun x => !mine x.1, s.mem.tags.filter fun x => !mine x.1⟩
    objs := s.objs.filter fun x => !mine x.1
    edges := s.edges.filter fun e => !mine e.obj
    defers := s.defers.filter fun d => !mine d.key }

/-- An error of the cluster paths is counted at a core and reported (11 R227). DESIGN CHOICE: with code 5, as Table
18.11 names none of its own (log 81). -/
def State.pathError (s : State) (c launch : Nat) (addr : Word) : State :=
  (s.countErrors c 1).report launch 5 (positionWord s.pkg.num c 0) addr []

/-- The core's part of a reset: release phases, copies in flight and accesses that wait at its banks go on. -/
def Core.afterReset (x : Core) : Core := { Core.reset with
  queue := x.queue
  cur := x.cur
  phases := x.phases
  copies := x.copies.filter fun (_, y) => y.busy
  errs := x.errs }

/-- Every thread of the core is gone, with what it held; each packet that is discarded now, also one bound to a
thread, is counted and reported (11 R227). -/
def State.resetCore (s : State) (c : Nat) : State :=
  let s := ((s.core c).packets.filter fun p => p.hold != .discarded).foldl (fun s p => s.pathError c p.launch 0) s
  let ts := ((s.onCore c)).map (·.tid)
  let s := ts.foldl (fun s t => s.retire t) s
  (s.clearScratchpad c).modCore c Core.afterReset

/-- CORE_RESET of core n. -/
def execCoreReset (n : Nat) (s : State) : Host.Outcome State Fault Refusal :=
  event (fun s => if n < 6144 then some (s.resetCore n) else none) s

end Sys2Proof.Machine
end

