-- ==== Sys2Proof/Machine/Waybill.lean ====
section
/-! DEFINITION. The trace unit: waybills, their seals and storage (20 R390 to R392), route surveys
(20 R389), and the claims of units (19 R381). -/

namespace Sys2Proof.Machine

def State.modTrace (s : State) (f : Trace → Trace) : State := { s with pkg := { s.pkg with trace := f s.pkg.trace } }

/-! ### Waybills (20 R390, R391) -/

/-- The words of a record (20 Table 20.1). -/
def TraceRec.words (r : TraceRec) : List Word :=
  [BitVec.ofNat 64 (r.typ + 2 ^ 8 * r.payload.length + 2 ^ 20 * r.src), BitVec.ofNat 64 r.time,
    BitVec.ofNat 64 (r.seq % 2 ^ 48)] ++ r.payload

/-- Words of a waybill's record area: bytes 64 to 1,044,479. -/
def recordArea : Nat := 130552

def listBytes (l : List Word) : List Byte := l.flatMap fun w => wordBytes w 8

/-- A digest as words, its first byte lowest. -/
def digestWords (d : BitVec 512) : Vector Word 8 := Vector.ofFn fun i => BitVec.ofNat 64 (d.toNat / 2 ^ (64 * i.val))

/-- The waybill header (20 Table 20.3). -/
def State.waybillHeader (s : State) : List Word :=
  let t := s.pkg.trace
  [BitVec.ofNat 64 t.wseq, BitVec.ofNat 64 t.lost,
    BitVec.ofNat 64 (s.pkg.num + (if s.paired then 2 ^ 12 else 0)), 0, 0, 0, 0, 0]

/-- The buffer that the next waybill takes, and whether it overwrites an unsent one: the next free one of
the ring, else the oldest unsent. DESIGN CHOICE: TRN below 2 acts as 2 (log 83). -/
def Trace.nextBuf (t : Trace) : Option (Nat × Bool) :=
  let n := max 2 (bits t.n 7 0)
  let used := t.bufs.map (·.buf)
  match ((List.range n).map fun i => (t.wseq + i) % n).find? fun b => !used.contains b with
  | some b => some (b, false)
  | none => match t.bufs.find? fun b => !b.sent with
    | some b => some (b.buf, true)
    | none => none

/-- The open waybill is sealed: digest, trailer, and its place in the staging ring; `none` while every
buffer has a Write in flight. -/
def State.seal (s : State) : Option State :=
  let t := s.pkg.trace
  match t.nextBuf with
  | none => none
  | some (b, over_) =>
    let area := s.waybillHeader ++ t.opened ++ List.replicate (recordArea - t.opened.length) 0
    let d := digestWords (Config.shake256 (listBytes t.digest.toList ++ listBytes area))
    let sig : List Byte := if t.wseq % 64 = 63 then
        (Config.sign (listBytes (d.toList ++ [BitVec.ofNat 64 t.wseq])) ++ List.replicate 3309 0).take 3309
      else []
    let trailer := d.toList ++ chunkWords (sig ++ List.replicate (4032 - sig.length) 0) 504
    let a := t.base.toNat + 2 ^ 20 * b
    let s : State := if s.rangeAllowed 0x7000 a (2 ^ 20) false true then
        { s with mem := s.mem.writeWords a (area ++ trailer) } else s
    some (s.modTrace fun t => { t with
      wseq := t.wseq + 1, opened := [], digest := d, lost := if over_ then t.lost + 1 else t.lost
      bufs := (t.bufs.filter fun x => x.buf != b) ++ [⟨b, t.wseq, false⟩] })

/-- The first record of a tap goes into the open waybill, sealed first if the record does not fit. -/
def State.packRecord (s : State) (src : Nat) (tap : Tap) : Option State :=
  match tap.recs with
  | [] => none
  | r :: rest =>
    let ws := r.words
    let s? : Option State := if recordArea < s.pkg.trace.opened.length + ws.length then s.seal else some s
    s?.map fun s => s.modTrace fun t => { t with
      opened := t.opened ++ ws, taps := tabSet t.taps src { tap with recs := rest } }

/-- TRACE_RECORD_ARRIVAL: the first record of the nth tap that holds any reaches the trace unit. -/
def execTraceRecordArrival (n : Nat) (s : State) : Host.Outcome State Fault Refusal :=
  event (fun s =>
    let l := s.pkg.trace.taps.filter fun (_, t) => !t.recs.isEmpty
    match l[n % l.length]? with
    | none => none
    | some (src, tap) => s.packRecord src tap) s

/-- WAYBILL_SEAL_TIMEOUT: the open waybill has waited long enough. -/
def execWaybillSealTimeout (_n : Nat) (s : State) : Host.Outcome State Fault Refusal :=
  event (fun s => if s.pkg.trace.opened.isEmpty then none else s.seal) s

/-- The Write command of a waybill: 256 LBAs of its buffer to the controller behind TRPORT, advancing from TRLBA and
wrapping after TRLBAN waybills. DESIGN CHOICE: a TRLBAN of 0 does not wrap (log 51). -/
def Trace.command (t : Trace) (b : StageBuf) : TraceCmd where
  buf := b.buf
  wseq := b.wseq
  port := bits t.ctl 8 6
  lba := (t.lba.toNat + 256 * (t.writes % t.lban.toNat)) % 2 ^ 64
  addr := t.base.toNat + 2 ^ 20 * b.buf

/-- The next unsent waybill's Write is issued: the earliest in WSEQ order. -/
def Trace.issueWrite (t : Trace) : Option Trace :=
  (t.bufs.find? fun b => !b.sent).map fun b => { t with
    writes := t.writes + 1
    cmds := t.cmds ++ [t.command b]
    bufs := t.bufs.map fun x => if x.buf = b.buf then { x with sent := true } else x }

/-- The nth Write in flight completes, perhaps in error: its buffer is free. -/
def Trace.writeDone (t : Trace) (n : Nat) (bad : Bool) : Option Trace :=
  (t.cmds[n % t.cmds.length]?).map fun c => { t with
    cmds := t.cmds.erase c
    bufs := t.bufs.filter fun x => x.buf != c.buf
    werr := if bad then t.werr + 1 else t.werr }

/-- WAYBILL_WRITE_COMPLETE: the next unsent waybill's Write is issued (n a multiple of 3), or the
(n div 3)th Write in flight completes, with n mod 3 = 2 in error (20 R392). -/
def execWaybillWriteComplete (n : Nat) (s : State) : Host.Outcome State Fault Refusal :=
  event (fun s =>
    let t := s.pkg.trace
    (if n % 3 = 0 then t.issueWrite else t.writeDone (n / 3) (n % 3 == 2)).map fun t => s.modTrace fun _ => t) s

/-! ### Enabling (20 R387, R391, Table 20.4) -/

/-- D(−1): the digest of the nonce and the measurement registers. -/
def State.chainSeed (s : State) : Vector Word 8 :=
  digestWords (Config.shake256 (listBytes ([s.pkg.trace.nonce] ++ s.pkg.meas.flatMap fun m => (digestWords m).toList)))

/-- TRCTL is written: as EN becomes 1 an open waybill is sealed, and WSEQ, SEQ and the chain begin anew;
as SURV becomes 1 the surveys do. -/
def State.writeTrctl (s : State) (v : Word) : State :=
  let old := s.pkg.trace.ctl
  let v := v &&& 0x1FF
  let s : State := if v.getLsbD 0 && !old.getLsbD 0 then
      let s := if s.pkg.trace.opened.isEmpty then s else (s.seal.getD s)
      let seed := s.chainSeed
      s.modTrace fun t => { t with
        wseq := 0, opened := [], digest := seed
        taps := t.taps.map fun (k, x) => (k, { x with seq := 0 }) }
    else s
  let s : State := if v.getLsbD 5 && !old.getLsbD 5 then
      (List.range 4).foldl (fun s d => s.modDie d fun x => { x with survey := 0, surveyAt := x.netTime + 2 ^ 20 }) s
    else s
  s.modTrace fun t => { t with ctl := v }

/-! ### Ownership of units (19 R381) -/

/-- A new owner of the trace unit finds its configuration and counts cleared. -/
def Trace.cleared (t : Trace) (o : Owner) : Trace := { t with
  ctl := 0, base := 0, n := 4, lba := 0, lban := 0, nonce := 0, lost := 0, werr := 0, writes := 0, owner := o }

/-- A unit has a new owner, which finds its configuration and counts cleared (20 R392). -/
def State.clearUnit (s : State) (u : Nat) (o : Owner) : State :=
  if u = 48 then s.modTrace fun t => t.cleared o
  else s.modCluster u fun x => { x with owner := o, counts := Vector.replicate 16 0, csel := Vector.replicate 16 0 }

/-- A master claims a unit, which answers. -/
def State.claimUnit (s : State) (u mid : Nat) : State :=
  let (o, new, a) := (s.unitOwner u).claim mid
  (if new then s.clearUnit u o else s.setOwner u o).answerUnit u mid a

/-- UNIT_CLAIM: n holds the unit in its low 6 bits (a cluster's counter bank, or 48 the trace unit), then
the master, which needs CTL in the unit's access table. -/
def execUnitClaim (n : Nat) (s : State) : Host.Outcome State Fault Refusal :=
  event (fun s =>
    let u := n % 64
    let mid := n / 64
    if decide (48 < u) || !s.tableAllows (if u = 48 then targetTrace else targetBank u) mid false false true then none
    else some (s.claimUnit u mid)) s

/-- A master writes a register of a unit: `f` is what the write does, where the master owns it. -/
def State.unitWrite (s : State) (mid : Nat) (r : MReg) (f : State → State) : State :=
  if s.ownsReg mid r then f s else (s.mregAccess mid r).2

/-- TRACE_ENABLE: n holds the master, the unit's owner with W and CTL in its access table, then the value of
TRCTL, with EN set. -/
def execTraceEnable (n : Nat) (s : State) : Host.Outcome State Fault Refusal :=
  event (fun s =>
    let mid := n % 2 ^ 16
    let v : Word := BitVec.ofNat 64 (n / 2 ^ 16)
    if s.mregAllows mid (.trace 0) false true && v.getLsbD 0 then
      some (s.unitWrite mid (.trace 0) fun s => s.writeTrctl v)
    else none) s

/-! ### Route surveys (20 R389) -/

/-- One count of a survey, flits in the low half and stopped cycles in the high half: free values, at most one a
cycle of the interval. -/
def State.surveyWord (s : State) : Word × State :=
  let (v, s) := s.freeVal
  (BitVec.ofNat 64 (bits v 31 0 % (2 ^ 20 + 1) + 2 ^ 32 * (bits v 63 32 % (2 ^ 20 + 1))), s)

def State.surveyWords (s : State) (n : Nat) : List Word × State :=
  match n with
  | 0 => ([], s)
  | j + 1 =>
    let (l, s) := s.surveyWords j
    let (v, s) := s.surveyWord
    (l ++ [v], s)

/-- The 16 records of a survey, one for each network and stage. -/
def State.surveyRecords (s : State) (d ivl n : Nat) : State :=
  match n with
  | 0 => s
  | j + 1 =>
    let s := s.surveyRecords d ivl j
    let (ws, s) := s.surveyWords 256
    s.emit (traceSrc 3 d 0 0) 6 (BitVec.ofNat 64 (ivl % 2 ^ 48 + 2 ^ 48 * j) :: ws)

/-- ROUTE_SURVEY of die n: its interval ends. Intervals that have passed while nothing was enabled wrote none. -/
def execRouteSurvey (n : Nat) (s : State) : Host.Outcome State Fault Refusal :=
  event (fun s =>
    if decide (4 ≤ n) || !s.traceOn 5 then none
    else
      let x := s.die n
      let due := x.surveyDue
      let no := x.survey + (due - x.surveyAt) / 2 ^ 20
      let s := s.modDie n fun x => { x with netTime := due, survey := no + 1, surveyAt := due + 2 ^ 20 }
      some (s.surveyRecords n no 16)) s

end Sys2Proof.Machine
end

