-- ==== Sys2Proof/Machine/Paired.lean ====
section
/-! DEFINITION. Paired mode: entering and leaving (20 R393, R394), and the comparison of digests
(20 R395). -/

namespace Sys2Proof.Machine

/-- PMODE is written (20 Table 20.10): the mode changes while no launch is live, and entering needs
FEAT1.PAIRED; every open digest is discarded. Otherwise PSTAT.REFUSED is set. -/
def State.writePmode (s : State) (on : Bool) : State :=
  if !s.launches.isEmpty || (on && !(s.pkg.feat.toList.getD 1 0).getLsbD 0) then
    { s with pkg := { s.pkg with pstat := setBit s.pkg.pstat 1 true } }
  else
    { s with
      slices := s.slices.map fun (k, x) => (k, { x with digests := [], missedDig := [], uncounted := 0 })
      pkg := { s.pkg with pmode := on, pstat := setBit s.pkg.pstat 0 on } }

/-- PMODE_ENTER. -/
def execPmodeEnter (_n : Nat) (s : State) : Host.Outcome State Fault Refusal := event (fun s => some (s.writePmode true)) s

/-- PMODE_LEAVE. -/
def execPmodeLeave (_n : Nat) (s : State) : Host.Outcome State Fault Refusal := event (fun s => some (s.writePmode false)) s

/-- Every thread of the launches of a number has executed more than `ivl` CHKPTs, or has ended. -/
def State.intervalOver (s : State) (lnum ivl : Nat) : Bool :=
  s.allThreads.all fun t => t.life == .ended || decide (ivl < t.ivl.toNat) || s.lnumOf t.launch != lnum

/-- The digest and count of an interval at a slice, and whether it is incomplete. -/
def Slice.digestAt (x : Slice) (key : Nat) : Word × Nat × Bool :=
  match tabGet x.digests key with
  | some (d, n) => (d, n, x.missedDig.contains key)
  | none => (0, 0, x.missedDig.contains key)

/-- RESULT of a comparison: 0 equal, 1 mismatch, 2 incomplete (20 Table 20.5). -/
def digestResult (a b : Word × Nat × Bool) : Nat :=
  if a.2.2 || b.2.2 then 2 else if a.1 = b.1 ∧ a.2.1 = b.2.1 then 0 else 1

/-- The launch that a report of a launch number goes to. -/
def State.launchKey (s : State) (lnum : Nat) : Nat :=
  match s.launches.find? fun (_, l) => l.lnum == lnum with
  | some (k, _) => k
  | none => noLaunch

/-- Slice i of die d compares an interval with its partner two dies higher; half A's slice records a
divergence. -/
def State.compareSlice (s : State) (key d i : Nat) : State :=
  let a := (s.slice (d * 48 + i)).digestAt key
  let b := (s.slice ((d + 2) * 48 + i)).digestAt key
  let r := digestResult a b
  if r = 0 then s
  else
    let w0 := BitVec.ofNat 64 (key / 2 ^ 16 + 2 ^ 32 * (key % 2 ^ 16) + 2 ^ 48 * i + 2 ^ 54 * d + 2 ^ 55 * r)
    let w3 := BitVec.ofNat 64 (a.2.1 % 2 ^ 32 + 2 ^ 32 * (b.2.1 % 2 ^ 32))
    let s := s.emit (traceSrc 2 d 0 i) 7 [w0, a.1, b.1, w3]
    s.report (s.launchKey (key / 2 ^ 16)) 13 (positionWord s.pkg.num (d * 1536) 0) 0 []

/-- The interval of a launch is closed at every slice. -/
def State.closeInterval (s : State) (key : Nat) : State :=
  let s := ((List.range 2).flatMap fun d => (List.range 48).map fun i => (d, i)).foldl
    (fun s (d, i) => s.compareSlice key d i) s
  { s with slices := s.slices.map fun (k, x) =>
      (k, { x with digests := tabErase x.digests key, missedDig := x.missedDig.filter (· != key) }) }

/-- The open intervals, by launch number × 2^16 + interval. -/
def State.openIntervals (s : State) : List Nat :=
  s.slices.foldl (fun l (_, x) => (x.digests.map (·.1) ++ x.missedDig).foldl setInsert l) []

/-- INTERVAL_CLOSE: the nth open interval that is over is closed. -/
def execIntervalClose (n : Nat) (s : State) : Host.Outcome State Fault Refusal :=
  event (fun s =>
    let l := s.openIntervals.filter fun k => s.intervalOver (k / 2 ^ 16) (k % 2 ^ 16)
    if !s.paired then none
    else match l[n % l.length]? with
      | none => none
      | some k => some (s.closeInterval k)) s

end Sys2Proof.Machine
end

