-- ==== Sys2Proof/Machine/Network.lean ====
section
/-! DEFINITION. Links of the package and the fabric (19 R366 to R369, 21 R398, R403, R404), and power
(19 R384). -/

namespace Sys2Proof.Machine

/-! ### What a link that goes down does to its traffic (19 R369) -/

/-- A request that the link had in flight is answered without being performed. -/
def State.cutReq (s : State) (q : Req) : State :=
  let term := s.termOf q.loc q.scope
  let s := if q.parts.isEmpty then s.answerReq q term q.unreached else s.answerParts q term q.unreached q.parts 0
  q.tids.foldl (fun s t => s.nudge t) s

/-- Of the requests that may be on the link, a free choice tells which are. -/
def State.cutSome (s : State) (on : Req → Bool) (l : List Req) : List Req × State :=
  match l with
  | [] => ([], s)
  | q :: r =>
    if on q then
      let (i, s) := s.choose 2
      if i = 0 then (s.cutReq q).cutSome on r
      else
        let (k, s) := s.cutSome on r
        (q :: k, s)
    else
      let (k, s) := s.cutSome on r
      (q :: k, s)

/-- A request crosses a link on its way to its home or port; of one for the LPDDR, also between its slice and the
H-die. `s` is the machine before the link went down (19 R366). -/
def State.reqCrosses (s : State) (id : Nat) (q : Req) : Bool :=
  q.held.isEmpty && (((s.srcTerms q).any fun t => (s.linksBetween t (s.termOf q.loc q.scope)).contains id) ||
    (!s.elsewhere q.loc && s.lineLink q.loc.key == id))

/-- What a home sends to a thread crosses a link; the LPDDR's comes by way of the H-die. -/
def State.homeCrosses (s : State) (id home tid : Nat) : Bool :=
  (s.linksBetween (s.keyPort home) (s.threadPort tid)).contains id ||
    (paPackage home == s.pkg.num && s.lineLink home == id)

/-- Of the replies that may be on the link, a free choice tells which are: they come poisoned. -/
def State.cutReplies (s : State) (on : Reply → Bool) (l : List Reply) : List Reply × State :=
  match l with
  | [] => ([], s)
  | r :: rest =>
    if on r then
      let (i, s) := s.choose 2
      let (k, s) := s.cutReplies on rest
      ((if i = 0 then { r with res := .trap .poisonRead r.va 0 } else r) :: k, s)
    else
      let (k, s) := s.cutReplies on rest
      (r :: k, s)

/-- Of the elements of a list, those that a free choice takes among the ones that `on` names, and the others. -/
def State.takeSome {α : Type} (s : State) (on : α → Bool) (l : List α) : List α × List α × State :=
  match l with
  | [] => ([], [], s)
  | x :: r =>
    let (i, s) := if on x then s.choose 2 else (1, s)
    let (a, b, s) := s.takeSome on r
    if i = 0 then (x :: a, b, s) else (a, x :: b, s)

/-- Of the deferral deliveries that may be on the link a free choice tells which are: their operations receive a
poison reply instead. -/
def State.cutDelivers (s : State) (on : Deliver → Bool) : State :=
  let (cut, kept, s) := s.takeSome on s.delivers
  cut.foldl (fun s d => s.answer d.tid 0 (.trap .poisonRead d.va 0) d.va d.home) { s with delivers := kept }

/-- Of the partials that may be on the link a free choice tells which are: they are lost. -/
def State.cutPartials (s : State) (on : Partial → Bool) : State :=
  let (cut, kept, s) := s.takeSome on s.partials
  cut.foldl (fun s p => s.redBreak p) { s with partials := kept }

/-- Of the markers of closed phases that may be on the link a free choice tells which are: its port answers them with
LINK_DOWN. -/
def State.cutMarkers (s : State) (on : Nat → Nat → Bool) : State :=
  let open_ := s.cores.flatMap fun (c, x) => (x.phases.filter (·.closed)).flatMap fun y =>
    (y.sent.filter fun (t, _) => !y.answered.contains t).map fun (t, _) => (c, y.id, t)
  let (cut, _, s) := s.takeSome (fun (c, _, t) => on c t) open_
  cut.foldl (fun s (_, p, t) => (s.markerLost p).answerMarker p t) s

/-- The next word of a copy is read or written over a link; of a PACK or UNPACK its directory. -/
def State.copyCrosses (s : State) (id : Nat) (e : EngOp) : Bool :=
  match e.kind with
  | .copy op _ _ rec =>
    let far (a : Word) : Bool := match s.engLoc e a accRead with
      | .at l => (s.linksBetween (s.portOf e.core) (s.termOf l .dev)).contains id || s.lineLink l.key == id
      | _ => false
    if op = 0x8B then far (recW rec 1)
    else if op = 0x8C then far (recW rec 0)
    else far (copyDst op rec e.pos) || (op == 0x8A && far (recW rec 5)) ||
      (copyPieces op rec e.pos 0).any fun (a, _) => far a
  | _ => false

/-- A copy that runs may have a word in flight over the link: after a free number of words that are performed, it
then ends partial with STATE 4 (13 R257, R261). -/
def State.cutCopy (s s0 : State) (id : Nat) (e : EngOp) : State :=
  let (i, s) := s.choose 2
  if i = 1 || !e.started || e.paused || e.bad.isSome then s
  else
    let (k, s) := s.choose (e.wordsLeft + 1)
    let s := if k = 0 then s else (s.copyGo e k).getD s
    match s.engines.find? fun x => x.id == e.id with
    | some x => if x.bad.isNone && !x.paused && s0.copyCrosses id x then s.setEng { x with bad := some (x.pos, 4) } else s
    | none => s

/-- A link goes down: the traffic that was routed over it in `s0`, the machine before, is settled. -/
def State.linkCut (s s0 : State) (id : Nat) : State :=
  let (keep_, s) := s.cutSome (s0.reqCrosses id) s.reqs
  let s : State := { s with reqs := keep_ }
  let (lines, s) := s.cutSome (fun q => s0.lineLink q.loc.key == id) s.missed
  let s : State := { s with missed := lines }
  let (rs, s) := s.cutReplies (fun r => s0.homeCrosses id r.home r.tid) s.replies
  let s := (({ s with replies := rs } : State).cutDelivers fun d => s0.homeCrosses id d.home d.tid).cutPartials
    fun p => p.srcs.any fun c => (s0.linksBetween (s0.portOf c) (s0.destOf (s0.rootOf p.handle p.launch) .dev)).contains id
  let s := s.cutMarkers fun c t => (s0.linksBetween (s0.portOf c) t).contains id
  (s.engines.filter (·.isCopy)).foldl (fun s e => s.cutCopy s0 id e) s

/-- Link `k` between two dies goes down, and the Factor hears of it. -/
def State.dieLinkDown (s s0 : State) (a b k : Nat) : State :=
  (s.linkCut s0 (dieLink a b k)).noteUnit 9 a (244 + 3 * neighbourNo a b + k) 0

/-- A Gulong link goes down: partials lost on it break rounds of the sys groups whose root lies here, a
free choice which (21 R404). -/
def State.breakRounds (s : State) (l : List (Nat × RedGroup)) : State :=
  match l with
  | [] => s
  | (k, g) :: r =>
    let (i, s) := s.choose 3
    let s : State := if !g.live || !g.sys || i = 0 then s
      else
        let p := (g.cur + (i - 1)) % 256
        let (s, g) := s.answerWaiters (k / 256) g (fun w => w.1 == p) (.trap .reductionState (redHandle (k / 256) (k % 256) g.gen) 7)
        let g : RedGroup := if i = 1 then { g with badNow := true } else { g with badNext := true }
        { s with groups := tabSet s.groups k (g.turnRounds 2) }
    s.breakRounds r

/-- A Gulong port goes down. -/
def State.gulongDown (s s0 : State) (port : Nat) : State :=
  let s := s.linkCut s0 (gulongLink port)
  (s.breakRounds s.groups).noteUnit 10 (port / 4) (240 + port % 4) 0

/-- The links of the package: three between each two dies, and the Gulong ports. -/
def allLinks : List Nat :=
  ((List.range 5).flatMap fun a => (List.range 5).flatMap fun b =>
    if a < b then (List.range 3).map fun k => dieLink a b k else []) ++ (List.range 16).map gulongLink

/-- A retrain of a link has failed; the third in a row takes it down, and it retrains no more until FCTL.PRESET. -/
def State.retrainFails (s : State) (id : Nat) : State :=
  let f := s.linkFails id
  let t : State := { s with pkg := { s.pkg with links := tabSet s.pkg.links id (min 3 (f + 1)) } }
  if f = 2 then
    let t : State := { t with pkg := { t.pkg with retrains := t.pkg.retrains.filter (· != id) } }
    if id < 1024 then t.dieLinkDown s (id / 32) (id % 32 / 4) (id % 4) else t.gulongDown s (id - 1024)
  else t

/-! ### Retrains (19 R368, 21 R398) -/

/-- LINK_RETRAIN: link n starts a retrain. -/
def execLinkRetrain (n : Nat) (s : State) : Host.Outcome State Fault Refusal :=
  event (fun s =>
    if allLinks.contains n && !s.linkIsDown n && !s.pkg.retrains.contains n then
      some { s with pkg := { s.pkg with retrains := setInsert s.pkg.retrains n } }
    else none) s

/-- RETRAIN_COMPLETE: n holds the link in its low 11 bits; the retrain succeeds if the rest is 0. -/
def execRetrainComplete (n : Nat) (s : State) : Host.Outcome State Fault Refusal :=
  event (fun s =>
    let id := n % 2 ^ 11
    if !s.pkg.retrains.contains id then none
    else
      let s : State := { s with pkg := { s.pkg with retrains := s.pkg.retrains.filter (· != id) } }
      if n / 2 ^ 11 = 0 then some { s with pkg := { s.pkg with links := tabErase s.pkg.links id } }
      else some (s.retrainFails id)) s

/-- GULONG_KEEPALIVE: a link flit that carries nothing. -/
def execGulongKeepalive (_n : Nat) (s : State) : Host.Outcome State Fault Refusal := event (fun s => some s) s

/-- GULONG_SILENCE_TIMEOUT: port n has received nothing for 10 ms. -/
def execGulongSilenceTimeout (n : Nat) (s : State) : Host.Outcome State Fault Refusal :=
  event (fun s => if n < 16 ∧ !s.linkIsDown (gulongLink n) then some (s.retrainFails (gulongLink n)) else none) s

/-- FCTL.PRESET: every Gulong port that is down retrains. -/
def State.presetPorts (s : State) : State :=
  let l := (List.range 16).filter fun p => s.linkIsDown (gulongLink p)
  { s with pkg := { s.pkg with retrains := l.foldl (fun r p => setInsert r (gulongLink p)) s.pkg.retrains } }

/-- FCTL_PRESET. -/
def execFctlPreset (_n : Nat) (s : State) : Host.Outcome State Fault Refusal := event (fun s => some s.presetPorts) s

/-! ### Power and cooling (19 R384) -/

/-- THERMAL_TRIP at die n. -/
def execThermalTrip (n : Nat) (s : State) : Host.Outcome State Fault Refusal :=
  event (fun s =>
    if s.pkg.tripped || decide (4 < n) then none
    else some ((({ s with pkg := { s.pkg with tripped := true } } : State)).noteUnit 11 n 0 0)) s

/-- CLOCK_STEP: the arithmetic clock falls (n even) or rises by 25 MHz, between 425 and 850. -/
def execClockStep (n : Nat) (s : State) : Host.Outcome State Fault Refusal :=
  event (fun s =>
    let f := s.pkg.clock
    if n % 2 = 0 then (if 450 ≤ f then some { s with pkg := { s.pkg with clock := f - 25 } } else none)
    else if f + 25 ≤ 850 then some { s with pkg := { s.pkg with clock := f + 25 } } else none) s

end Sys2Proof.Machine
end

