-- ==== Sys2Proof/Machine/Factor.lean ====
section
/-! DEFINITION. The Factor and the security block: fault events (18 R365, 21 R405), register writes
(19 R385), access tables (R380), harvest (R373, R374), boot (R382) and attestation (R383). -/

namespace Sys2Proof.Machine

/-! ### Fault events (18 R362, R365, 21 R405) -/

/-- The codes that count in FSTAT.EVENTS. -/
def isFaultEvent (code : Nat) : Bool := [1, 2, 10, 11, 12].contains code

/-- Bind records have an error, or have it no more. -/
def State.markBinds (s : State) (p : Nat → BindRec → Bool) (b : Bool) : State :=
  { s with dies := s.dies.map fun (d, x) =>
      (d, { x with slots := x.slots.map fun (n, r) => (n, if p d r then { r with bad := b } else r) }) }

/-- The Factor rewrites the bind records of a launch from its launch state block: HOLD, which the error set, goes
where no thread is saved (18 Table 18.10, R352). -/
def State.rewriteBinds (s : State) (launch : Nat) : State :=
  match s.launch? launch with
  | some l =>
    let s := s.markBinds (fun _ r => r.launch == launch) false
    if s.pkg.fstate = 0 && l.state == .started then
      s.setHold (fun d r => r.launch == launch && !s.savedUnder d r) false else s
  | none => s

/-- The first event that awaits it is counted and recorded; KOF kills the launch it concerns. -/
def State.recordNote (s : State) (m : FaultNote) (rest : List FaultNote) : State :=
  let e := if isFaultEvent m.code then min 0xFFFFFFFF (s.pkg.events + 1) else s.pkg.events
  let s : State := { s with pkg := { s.pkg with notes := rest, events := e } }
  let s : State := if m.code = 6 then s.rewriteBinds m.launch else s
  let s := s.recordFault [m.addr, BitVec.ofNat 64 (2 ^ 6 * 3 + 2 ^ 11 * m.code + 2 ^ 32 * m.lnum), m.who, 0]
  match s.launch? m.launch with
  | some l => if l.field 6 31 31 = 1 && !l.killed then s.killLnum l.lnum else s
  | none => s

/-- A payload flit of a packet on its way is poisoned (11 R227). -/
def Packet.poisonFlit (p : Packet) (i : Nat) : Packet :=
  { p with flits := (List.range p.flits.length).zipWith (fun j (v, b) => (v, b || j == i)) p.flits }

/-- A packet whose send header is poisoned is discarded at its receiver. -/
def State.loseHeader (s : State) (p : Packet) : State :=
  let s : State := { s with pkts := s.pkts.map fun q => if q.id = p.id then { q with arrived := true } else q }
  s.modCore p.dst fun x => { x with packets := x.packets ++ [{ p with arrived := true, hold := .discarded }] }

/-- The core whose error counters count an error of a packet: its receiver, of one that leaves the package its
sender. -/
def State.packetCore (s : State) (p : Packet) : Nat := if s.leaves p then lcoreCore p.header else p.dst

/-- An error in a packet: a payload flit, a header, or the spill slot that holds it, whose flits are then poisoned
also where the packet is still open; it is counted and reported (11 R227). -/
def State.packetError (s : State) (kind n : Nat) : Option State :=
  match kind with
  | 1 =>
    match s.pkts[n % 256 % s.pkts.length]? with
    | none => none
    | some p => some (({ s with pkts := s.pkts.map fun q => if q.id = p.id then q.poisonFlit (n / 256) else q } :
        State).pathError (s.packetCore p) p.launch 0)
  | 2 =>
    let l := s.pkts.filter fun p => !p.arrived && p.ack.isNone && !s.leaves p
    match l[n % l.length]? with
    | none => none
    | some p => some ((s.loseHeader p).pathError p.dst p.launch 0)
  | _ =>
    let c := n % 2 ^ 13
    let l := (s.core c).packets.filter fun p => match p.hold with
      | .slot _ _ => true
      | _ => false
    match l[n / 2 ^ 13 % l.length]? with
    | none => none
    | some p =>
      let bad (q : Packet) : Packet := if q.id = p.id then { q with flits := q.flits.map fun (v, _) => (v, true) } else q
      let s : State := { s with pkts := s.pkts.map bad }
      some (((s.modCore c fun x => { x with packets := x.packets.map bad }).spillWrite (bad p)).pathError c p.launch 0)

/-- An uncorrectable error in a word at a home (06 R133, 16 R312). -/
def State.wordError (s : State) (key : Nat) : State :=
  let s := s.poisonWord key
  match locOfKey key with
  | .sp c off => (s.countErrors c 1).report (s.spadOwner c off) 5 (positionWord s.pkg.num c 0) (BitVec.ofNat 64 off) []
  | .dev pa => s.noteUnit 5 (sliceOf s.paired pa).1 (192 + (sliceOf s.paired pa).2) (BitVec.ofNat 64 pa)

/-- An uncorrectable error in a wait-for entry: it is dropped, and its edges become untracked. -/
def State.dropEntry (s : State) (e : Edge) : State :=
  let mine (x : Edge) : Bool := x.die == e.die && x.obj == e.obj && x.tracked
  let s := (s.edges.filter fun x => mine x && x.wait).foldl (fun s x =>
    s.setUntr x.tid) s
  let s : State := { s with edges := s.edges.map fun x => if mine x then { x with tracked := false } else x }
  s.noteUnit 7 e.die 0 0

/-- A reply comes poisoned. -/
def State.replyError (s : State) (i : Nat) (r : Reply) : State :=
  let s : State := { s with replies := s.replies.set i { r with res := .trap .poisonRead r.va 0 } }
  match s.thread? r.tid with
  | some t => s.pathError t.core t.launch r.va
  | none => s

/-- The bind records of the package, with their dies. -/
def State.allBinds (s : State) : List (Nat × BindRec) := s.dies.flatMap fun (d, x) => x.slots.map fun (_, r) => (d, r)

/-- A bind record with an error is held until the Factor rewrites it, and reported (18 Table 18.10). -/
def State.bindError (s : State) (d : Nat) (r : BindRec) : State :=
  ((s.markBinds (fun e x => e == d && x == r) true).setHold (fun e x => e == d && x.bad) true).report r.launch 6
    (positionWord s.pkg.num (coreNo d (r.bits 0 7 4) (r.bits 0 14 8)) 0) 0 []

/-- A register of a thread of a core has an error that nothing has found yet (06 R133). -/
def State.registerError (s : State) (c n : Nat) : Option State :=
  let l := (s.onCore c).filter fun t => t.holdsWindow && windowReg t.win (n % 128)
  (l[n / 128 % l.length]?).map fun t => s.putThread { t with ecc := setInsert t.ecc (n % 128) }

/-- An error of kind `k` that arises or is found. -/
def State.newError (s : State) (k n : Nat) : Option State :=
  match k with
  | 3 => (s.replies[n % s.replies.length]?).map fun r => s.replyError (n % s.replies.length) r
  | 5 => if n < 2 ^ 58 then some (s.wordError (8 * n)) else none
  | 6 => (s.allBinds[n % s.allBinds.length]?).map fun (d, r) => s.bindError d r
  | 7 => match s.edges[n % s.edges.length]? with
    | none => none
    | some e => if e.tracked then some (s.dropEntry e) else none
  | 8 => some (s.noteUnit 8 (n % 4) 0 0)
  | 9 => if s.coreEnabled n then some (s.countErrors n 1) else none
  | 10 => s.registerError (n % 2 ^ 13) (n / 2 ^ 13)
  | 12 => some (s.noteUnit 12 0 0 0)
  | k => if k = 1 ∨ k = 2 ∨ k = 4 then s.packetError k n else none

/-- FAULT_EVENT: n mod 16 = 0: the Factor counts and records the first event that awaits it; else an error
arises: 1 in a payload flit, 2 in a send header, 3 in a reply, 4 in a spill slot, 5 in the word at n div 16,
6 in a bind record, 7 in a wait-for entry, 8 in a control-ring flit, 9 one bit that an access of core n div 16
corrects, 10 in a register, 12 in the Factor's own state. -/
def execFaultEvent (n : Nat) (s : State) : Host.Outcome State Fault Refusal :=
  event (fun s =>
    if n % 16 = 0 then match s.pkg.notes with
      | [] => none
      | m :: rest => some (s.recordNote m rest)
    else s.newError (n % 16) (n / 16)) s

/-! ### Register writes (19 R385) -/

/-- The fabric registers may be written while no launch is live, or in state 2 (21 R399). -/
def State.fabricOpen (s : State) : Bool := s.launches.isEmpty || s.pkg.fstate == 2

/-- A fault-queue register is written (18 Table 18.12). -/
def State.writeFq (s : State) (i : Nat) (v : Word) : State :=
  let s : State := match i with
    | 0 => s.modFq fun q => { q with base := v &&& 0xFFFFFFFFFFFFFFC0 }
    | 1 => s.modFq fun q => { q with cfg := v &&& 0x3F }
    | 3 => s.modFq fun q => { q with head := bits v 31 0 }
    | 4 => match s.takeFault (bits v 62 0) with
      | some (f, t) => if t.waiterLives f.who then (if v.getLsbD 63 then t.denyFault f else t.retryFault f) else t
      | none => s.strayAnswer
    | _ => s
  s.flushFaults s.pkg.fq.waiting.length

/-- A register of a submission queue is written. -/
def State.writeSq (s : State) (q i mid : Nat) (v : Word) : State :=
  match i with
  | 0 => s.modQueue q fun x => { x with base := v &&& 0xFFFFFFFFFFFFFFC0 }
  | 1 => s.modQueue q fun x => { x with cfg := v &&& 0x3F }
  | 2 => s.modQueue q fun x => x.setTail (bits v 31 0) mid
  | _ => s

/-- A register of the trace unit is written by its owner. DESIGN CHOICE: bits [19:0] of TRBASE, which is aligned to
1 MiB, are dropped, and TRN keeps a number below 2 (log 83); a write of TRLBA or TRLBAN lets the LBAs advance from
TRLBA again (log 51). -/
def State.writeTrace (s : State) (i : Nat) (v : Word) : State :=
  match i with
  | 0 => s.writeTrctl v
  | 1 => s.modTrace fun t => { t with base := v &&& 0xFFFFFFFFFFF00000 }
  | 2 => s.modTrace fun t => { t with n := v &&& 0xFF }
  | 3 => s.modTrace fun t => { t with lba := v, writes := 0 }
  | 4 => s.modTrace fun t => { t with lban := v, writes := 0 }
  | 5 => s.modTrace fun t => { t with nonce := v }
  | _ => s

/-- FCTL is written (21 Table 21.1). -/
def State.writeFctl (s : State) (v : Word) : State :=
  let s := if v.getLsbD 0 && s.pkg.fstate == 0 then s.quiesce else s
  let s := if v.getLsbD 1 && s.pkg.fstate == 2 then s.resumeAll else s
  if v.getLsbD 2 then s.presetPorts else s

/-- A register is written by a master, field by field under the access codes. DESIGN CHOICE: a write of FDOM whose
NPKG is not 1 to 4,096 has no effect, and bits [11:0] of FCAP, which is aligned to 4,096 bytes, are dropped (log 83). -/
def State.writeReg (s : State) (mid : Nat) (r : MReg) (v : Word) : State :=
  match r with
  | .acc i => if s.pkg.committed then s else s.modPkg fun p => { p with acc := setVec p.acc i v }
  | .acommit => if v.getLsbD 0 then s.commit else s
  | .queue q i => s.writeSq q i mid v
  | .fault i => s.writeFq i v
  | .pcap => s.modPkg fun p => { p with pcap := BitVec.ofNat 64 (min 5200 v.toNat) }
  | .pmode => s.writePmode (v.getLsbD 0)
  | .pstat => s.modPkg fun p => { p with pstat := p.pstat &&& ~~~(v &&& 2) }
  | .fdom => if s.fabricOpen && decide (1 ≤ bits v 12 0) && decide (bits v 12 0 ≤ 4096) then
      s.modPkg fun p => { p with npkg := bits v 12 0 } else s
  | .fctl => s.writeFctl v
  | .fcap => if s.fabricOpen then s.modPkg fun p => { p with fcap := v &&& 0xFFFFFFFFFFFFF000 } else s
  | .grte p => if s.fabricOpen then s.modPkg fun k => { k with
      grte := if v &&& 0x1F = 0 then tabErase k.grte p else tabSet k.grte p (v &&& 0x1F) } else s
  | .trace i => s.unitWrite mid r fun s => s.writeTrace i v
  | .cntsel cl i => s.unitWrite mid r fun s => s.modCluster cl fun x => { x with csel := setVec x.csel i (v &&& 0x1FF) }
  | .dbg c m => if s.coreEnabled c then s.debugWrite c m v else s
  | _ => s

/-- The Factor writes register i of slice n, as a debugger has asked: WPA0, WPA1, WPC0, WPC1, then the hit record's
WHA, WHS, WHD, WHF (14 R279). -/
def State.writeSlice (s : State) (n i : Nat) (v : Word) : State :=
  s.modSlice n fun y =>
    if i < 2 then { y with wpa := setVec y.wpa i (keep v 0x01FFFFFFFFFFFFF8) }
    else if i < 4 then { y with wpc := setVec y.wpc (i - 2) (keep v 0xFFFF001F) }
    else if i = 4 then
      if v = 0 then { y with wha := 0, whs := 0, whd := 0, whf := 0 } else { y with wha := keep v 0x01FFFFFFFFFFFFFF }
    else if i = 5 then { y with whs := keep v 0x3FFFFFFFFF }
    else if i = 6 then { y with whd := v }
    else { y with whf := v }

/-- An aligned word access of the Forette port, master 0x6000, through the access table of the word's home slice, or
of the debug block of its cluster; it takes a bank cycle, after the accesses that came to the bank before it (00 R6,
06 R124, 14 R288, log 82). -/
def State.portAccess (s : State) (k : Nat) (write : Bool) (v : Word) : Option State :=
  let l := locOfKey k
  let target := match l with
    | .sp c _ => targetDebug (clusterOf c)
    | .dev pa => s.sliceNo pa
  let real := match l with
    | .sp c _ => s.coreEnabled c
    | .dev pa => s.inMemory pa
  let full := s.mem.tag k == .full || s.mem.tag k == .poison
  if k % 8 != 0 || !real || !s.tableAllows target 0x6000 (!write) write false then none
  else
    let t := s.useBanks k 8
    if s.bankClash t then none else some (if write && full then (t.putWord k v .full).changed k else t)

/-- The writes that no offset of Table 19.9 names: the masters 0xF000, 0xF001 and 0xF002, which no access table
knows, stand for the Factor's writes of slice registers, at 64 × slice + 8 × register, and for the writes and reads
of the Forette port, at the key above the value (log 82). -/
def State.specialWrite (s : State) (mid off key : Nat) (v : Word) : Option State :=
  if mid = 0xF000 then (if off < 192 * 64 then some (s.writeSlice (off / 64) (off % 64 / 8) v) else none)
  else s.portAccess key (mid == 0xF001) v

/-- A register write by its number: the master in its low 16 bits, then 32 bits of offset, then the value, then, of
the Forette port, the key of a word; the master needs its rights in the block's access table. -/
def State.registerWrite (s : State) (n : Nat) : Option State :=
  let mid := n % 2 ^ 16
  let off := n / 2 ^ 16 % 2 ^ 32
  let r := mregOf off
  let v : Word := BitVec.ofNat 64 (n / 2 ^ 48)
  if 0xF000 ≤ mid ∧ mid ≤ 0xF002 then s.specialWrite mid off (n / 2 ^ 112) v
  else if off % 8 = 0 ∧ s.mregAllows mid r false true then some (s.writeReg mid r v)
  else none

/-- REGISTER_WRITE. -/
def execRegisterWrite (n : Nat) (s : State) : Host.Outcome State Fault Refusal :=
  event (fun s => s.registerWrite n) s

/-- The register writes that an event has sent act, in order, before any other event. -/
def State.actWrites (s : State) : State :=
  s.agenda.foldl (fun s i => match i with
    | .registerWrite n => (s.registerWrite n).getD s
    | _ => s) { s with agenda := [] }

/-- HOME_OPERATION: the nth request that may arrive reaches its home. A thread that now waits for what a save
withdraws is saved where that was asked for (06 R131). -/
def execHomeOperation (n : Nat) (s : State) : Host.Outcome State Fault Refusal :=
  event (fun s => (s.homeArrives n).map fun t => t.actWrites.pendingSaves) s

/-- An event of the engines: their accesses come after those that wait at their banks (06 R124, log 70). -/
def engineEvent (f : State → Option State) (s : State) : Host.Outcome State Fault Refusal :=
  event (fun s => ((f s).filter fun t => !s.bankClash t).map State.actWrites) s

/-- The words and ends of engine operations. -/
def execCopyComplete (n : Nat) (s : State) := engineEvent (fun s => s.copyRun n) s
def execTldwLoadComplete (n : Nat) (s : State) := engineEvent (fun s => s.tldwDone n) s
def execTmmaRetire (n : Nat) (s : State) := engineEvent (fun s => s.tmmaDone n) s
def execTzeroComplete (n : Nat) (s : State) := engineEvent (fun s => s.tzeroDone n) s
def execTdrainComplete (n : Nat) (s : State) := engineEvent (fun s => s.tdrainDone n) s

/-- ACCESS_TABLE_WRITE: n holds the target in its low 16 bits, then 8 bits of index, then the entry. -/
def execAccessTableWrite (n : Nat) (s : State) : Host.Outcome State Fault Refusal :=
  event (fun s =>
    let k := n % 2 ^ 16 * 256 + n / 2 ^ 16 % 256
    let e : Word := BitVec.ofNat 64 (n / 2 ^ 24 % 2 ^ 20)
    some { s with atab := if e = 0 then tabErase s.atab k else tabSet s.atab k e }) s

/-! ### Harvest (19 R373, R374) -/

/-- The key of a scratchpad byte of a cluster after its logical cores are renumbered: `from_` gives the old
logical number of each new one. -/
def movedKeys (cl : Nat) (phys : Nat → Nat) (old : List Nat) (k : Nat) : Nat :=
  if k < 2 ^ 60 then k
  else
    let c := (k - 2 ^ 60) / 2 ^ 18
    if clusterOf c = cl then
      match old.findIdx? fun p => p == phys (c % 128) with
      | some j => 2 ^ 60 + (cl * 128 + j) * 2 ^ 18 + (k - 2 ^ 60) % 2 ^ 18
      | none => k
    else k

/-- A table with its keys moved. -/
def moveTab {α : Type} (f : Nat → Nat) (t : List (Nat × α)) : List (Nat × α) :=
  t.foldl (fun r (k, v) => tabSet r (f k) v) []

/-- What stands at a core moves with its physical core. -/
def State.renumber (s : State) (cl : Nat) (before after : Cluster) : State :=
  let now := (List.range after.encnt).map after.phys
  let lost (c : Nat) : Bool := clusterOf c == cl && (decide (before.encnt ≤ c % 128) || !now.contains (before.phys (c % 128)))
  let lostKey (k : Nat) : Bool := decide (2 ^ 60 ≤ k) && lost ((k - 2 ^ 60) / 2 ^ 18)
  let f := movedKeys cl before.phys now
  let g (c : Nat) : Nat := if clusterOf c = cl then (f (2 ^ 60 + c * 2 ^ 18) - 2 ^ 60) / 2 ^ 18 else c
  { s with
    mem := ⟨moveTab f (s.mem.bytes.filter fun x => !lostKey x.1), moveTab f (s.mem.tags.filter fun x => !lostKey x.1)⟩
    objs := moveTab f (s.objs.filter fun x => !lostKey x.1)
    cores := moveTab g (s.cores.filter fun x => !lost x.1) }

/-- A cluster's enabled cores as an update leaves them: physical core p is retired, or enabled again. -/
def Cluster.harvest (x : Cluster) (p : Nat) (retire : Bool) : Cluster :=
  if retire then
    if x.disabled.contains p then x
    else if x.encnt ≤ 124 then { x with degr := true }
    else { x with disabled := setInsert x.disabled p, encnt := x.encnt - 1 }
  else if x.disabled.contains p then { x with disabled := x.disabled.filter (· != p), encnt := x.encnt + 1 }
  else x

/-- HARVEST_UPDATE: n holds the cluster in its low 6 bits, then 7 bits of physical core, then 0 to retire
it or 1 to enable it; only while no bind record names the cluster. A core that cannot be retired is reported. DESIGN
CHOICE: the report is a list of the Factor's, as no event code of Table 18.11 is one of it (log 92). -/
def execHarvestUpdate (n : Nat) (s : State) : Host.Outcome State Fault Refusal :=
  event (fun s =>
    let cl := n % 64
    if decide (48 ≤ cl) || s.boundLaunches.any fun (_, l) => l.place.any fun c => clusterOf c == cl then none
    else
      let p := n / 64 % 128
      let retire := n / 2 ^ 13 % 2 == 0
      let a := s.cluster cl
      let b := a.harvest p retire
      let s : State := if retire && !a.disabled.contains p && decide (a.encnt ≤ 124) then
          s.modPkg fun k => { k with coreReports := k.coreReports ++ [(cl, p)] } else s
      some ((s.renumber cl a b).modCluster cl fun _ => b)) s

/-! ### Boot and attestation (19 R382, R383) -/

/-- The images in the order of verification: the Factor firmware, four die firmwares, the device OS; with
their numbers in BSTAT. -/
def bootImages : List (Nat × Nat) := [(0, 1), (1, 2), (2, 2), (3, 2), (4, 2), (5, 3)]

/-- A measurement register is extended with an image's digest. -/
def extendMeas (m : List (BitVec 512)) (image : Nat) : List (BitVec 512) :=
  let i := Config.measureNo image % 8
  let b (d : BitVec 512) : List Byte := listBytes (digestWords d).toList
  m.set i (Config.shake256 (b (m.getD i 0) ++ b (Config.imageDigest image)))

/-- The images verified before the one that fails: `k` names it as BSTAT does, 0 none, and `d` the die of a die
firmware. -/
def bootOk (k d : Nat) : List (Nat × Nat) :=
  bootImages.take (if k = 0 then 6 else if k = 1 then 0 else if k = 2 then 1 + d else 5)

/-- PACKAGE_RESET: everything is as after reset, then the images are verified and measured in order; n
holds in its low 2 bits the image that fails verification, 0 none, then 2 bits of die. The free values and choices
go on. -/
def execPackageReset (n : Nat) (s : State) : Host.Outcome State Fault Refusal :=
  event (fun s =>
    let r := State.reset
    let ok := bootOk (n % 4) (n / 4 % 4)
    let meas := ok.foldl (fun m (i, _) => extendMeas m i) r.pkg.meas
    let bstat : Word := if ok.length = bootImages.length then 1 else BitVec.ofNat 64 (2 + 4 * (n % 4))
    some { r with
      choice := s.choice, free := s.free, stamp := s.stamp
      pkg := { r.pkg with meas := meas, bstat := bstat, num := s.pkg.num } }) s

/-- What a quote covers: the nonce, the measurement registers, FEAT0 to FEAT3, and each cluster's count and
harvest map. -/
def State.quoteBody (s : State) (nonce : Nat) : List Byte :=
  (List.range 32).map (fun i => BitVec.ofNat 8 (nonce / 256 ^ i)) ++
    listBytes ((s.pkg.meas.flatMap fun m => (digestWords m).toList) ++ s.pkg.feat.toList ++
      (List.range 48).flatMap fun cl => [s.mregRead (.hcnt cl), s.mregRead (.hmap cl 0), s.mregRead (.hmap cl 1)])

/-- ATTESTATION_QUOTE: n is the caller's nonce. -/
def execAttestationQuote (n : Nat) (s : State) : Host.Outcome State Fault Refusal :=
  event (fun s =>
    let b := s.quoteBody n
    some { s with pkg := { s.pkg with quote := some ⟨b, Config.sign b, Config.certificate⟩ } }) s

end Sys2Proof.Machine
end

