-- ==== Sys2Proof/Machine/Scalar.lean ====
section
/-! DEFINITION. Integer, address and predicate instructions (04 R63 to R65, R79 to R88). -/

namespace Sys2Proof.Machine

/-- DST from A and B (04 R79). -/
def alu (o : OpAlu) (f : Word → Word → Word) (s : State) : Host.Outcome State Fault Refusal :=
  issue o.g (do
    checkDst o.d
    let a ← readS o.a
    let b ← operandB o.b
    writeD o.d (f a b)) s

/-- DST and sticky flags from A and B. -/
def aluFlags (g : Guard) (d : Dst) (a : SReg) (b : SrcB) (f : Word → Word → Word × Word)
    (s : State) : Host.Outcome State Fault Refusal :=
  issue g (do
    checkDst d
    let x ← readS a
    let y ← operandB b
    writeRes d (f x y).1 (f x y).2 false) s

/-- DST from A (04 R82, R83). -/
def alu1 (g : Guard) (d : Dst) (a : SReg) (f : Word → Word) (s : State) :
    Host.Outcome State Fault Refusal :=
  issue g (do
    checkDst d
    let x ← readS a
    writeD d (f x)) s

def execAdd (o : OpAlu) (s : State) := alu o (fun a b => a + b) s
def execSub (o : OpAlu) (s : State) := alu o (fun a b => a - b) s
def execMul (o : OpAlu) (s : State) := alu o (fun a b => a * b) s

/-- 04 Table 4.14, MULHS. -/
def execMulhs (o : OpAlu) (s : State) :=
  alu o (fun a b => BitVec.ofInt 64 (a.toInt * b.toInt / 2 ^ 64)) s

/-- 04 Table 4.14, MULHU. -/
def execMulhu (o : OpAlu) (s : State) :=
  alu o (fun a b => BitVec.ofNat 64 (a.toNat * b.toNat / 2 ^ 64)) s

def execAnd (o : OpAlu) (s : State) := alu o (fun a b => a &&& b) s
def execOr (o : OpAlu) (s : State) := alu o (fun a b => a ||| b) s
def execXor (o : OpAlu) (s : State) := alu o (fun a b => a ^^^ b) s
def execAndn (o : OpAlu) (s : State) := alu o (fun a b => a &&& ~~~b) s

/-- The shift count is b[5:0] (04 Table 4.14). -/
def execShl (o : OpAlu) (s : State) := alu o (fun a b => a <<< (b.toNat % 64)) s
def execShr (o : OpAlu) (s : State) := alu o (fun a b => a >>> (b.toNat % 64)) s
def execSar (o : OpAlu) (s : State) := alu o (fun a b => a.sshiftRight (b.toNat % 64)) s
def execRol (o : OpAlu) (s : State) := alu o (fun a b => a.rotateLeft (b.toNat % 64)) s
def execMin (o : OpAlu) (s : State) := alu o (fun a b => if a.sle b then a else b) s
def execMax (o : OpAlu) (s : State) := alu o (fun a b => if b.sle a then a else b) s
def execMinu (o : OpAlu) (s : State) := alu o (fun a b => if a.ule b then a else b) s
def execMaxu (o : OpAlu) (s : State) := alu o (fun a b => if b.ule a then a else b) s

def execAdds (o : OpAluU) (s : State) := aluFlags o.g o.d o.a o.b (addClamped o.uns false) s
def execSubs (o : OpAluU) (s : State) := aluFlags o.g o.d o.a o.b (addClamped o.uns true) s

/-- MADD (04 R80). -/
def execMadd (o : OpAlu3) (s : State) : Host.Outcome State Fault Refusal :=
  issue o.g (do
    checkDst o.d
    let a ← readS o.a
    let b ← operandB o.b
    let c ← readS o.c
    writeD o.d (a * b + c)) s

def execDivs (o : OpAlu) (s : State) := aluFlags o.g o.d o.a o.b (divide true false) s
def execDivu (o : OpAlu) (s : State) := aluFlags o.g o.d o.a o.b (divide false false) s
def execRems (o : OpAlu) (s : State) := aluFlags o.g o.d o.a o.b (divide true true) s
def execRemu (o : OpAlu) (s : State) := aluFlags o.g o.d o.a o.b (divide false true) s

/-- ABS (04 R82). -/
def execAbs (o : OpDA) (s : State) : Host.Outcome State Fault Refusal :=
  issue o.g (do
    checkDst o.d
    let x ← readS o.a
    writeRes o.d (absWord x).1 (absWord x).2 false) s

def execClz (o : OpDA) (s : State) := alu1 o.g o.d o.a (fun a => BitVec.ofNat 64 (clzN a 64)) s
def execCtz (o : OpDA) (s : State) := alu1 o.g o.d o.a (fun a => BitVec.ofNat 64 (ctzN a 0 64)) s
def execPopc (o : OpDA) (s : State) := alu1 o.g o.d o.a (fun a => BitVec.ofNat 64 (popN a 64)) s
def execBrev (o : OpDA) (s : State) := alu1 o.g o.d o.a (fun a => BitVec.ofNat 64 (revN a 64)) s
def execBswap (o : OpDA) (s : State) := alu1 o.g o.d o.a swapBytes s

/-- BFX (04 R83): bits POS + LEN down to POS. -/
def execBfx (o : OpBfx) (s : State) :=
  alu1 o.g o.d o.a (fun a => zext (o.len.toNat + 1) (a >>> o.pos.toNat)) s

/-- BFI (04 R83). -/
def execBfi (o : OpBfi) (s : State) : Host.Outcome State Fault Refusal :=
  issue o.g (do
    checkDst o.d
    let a ← readS o.a
    let c ← readS o.c
    writeD o.d (setBits a (o.pos.toNat + o.len.toNat) o.pos.toNat c.toNat)) s

def execSext (o : OpExt) (s : State) := alu1 o.g o.d o.a (sext (o.len.toNat + 1)) s
def execZext (o : OpExt) (s : State) := alu1 o.g o.d o.a (zext (o.len.toNat + 1)) s

/-- MOV (04 R84). -/
def execMov (o : OpMov) (s : State) : Host.Outcome State Fault Refusal :=
  issue o.g (do
    checkDst o.d
    let b ← operandB o.b
    writeD o.d b) s

/-- MOV.hi (04 R84): the literal above the low half of A. -/
def execMovHi (o : OpMovHi) (s : State) :=
  alu1 o.g o.d o.a (fun a => o.v ++ a.setWidth 32) s

/-- SEL (04 R85). -/
def execSel (o : OpSel) (s : State) : Host.Outcome State Fault Refusal :=
  issue o.g (do
    checkDst o.d
    let t ← getCur
    let a ← readS o.a
    let b ← operandB o.b
    writeD o.d (if t.pred o.psel != o.pneg then a else b)) s

/-- LEA (04 R86). -/
def execLea (o : OpLea) (s : State) : Host.Outcome State Fault Refusal :=
  issue o.g (do
    checkDst o.d
    let a ← readS o.a
    let b ← operandB o.b
    writeD o.d (a + (b <<< o.sh.toNat))) s

/-- CMP (04 R87). -/
def execCmp (o : OpCmp) (s : State) : Host.Outcome State Fault Refusal :=
  issue o.g (do
    let t ← getCur
    let a ← readS o.a
    let b ← operandB o.b
    writeP o.pd (combine o.cmb (t.pred o.pd) (icond o.cond a b))
    pure .seq) s

/-- PLOG (04 R88). -/
def execPlog (o : OpPlog) (s : State) : Host.Outcome State Fault Refusal :=
  issue o.g (do
    let t ← getCur
    writeP o.pd (lutBit o.lut (t.pred o.pa) (t.pred o.pb))
    pure .seq) s

end Sys2Proof.Machine
end

