-- ==== Sys2Proof/Machine/Dispatch.lean ====
section
/-! DEFINITION. One arm for each row of spec/opcode_table.json. -/

namespace Sys2Proof.Machine

/-- What an instruction does, or an event. -/
def exec (i : Instr) (s : State) : Host.Outcome State Fault Refusal :=
  match i with
  | .nop o => Sys2Proof.Machine.execNop o s
  | .br o => Sys2Proof.Machine.execBr o s
  | .brx o => Sys2Proof.Machine.execBrx o s
  | .call o => Sys2Proof.Machine.execCall o s
  | .callx o => Sys2Proof.Machine.execCallx o s
  | .ret o => Sys2Proof.Machine.execRet o s
  | .exit o => Sys2Proof.Machine.execExit o s
  | .breakM o => Sys2Proof.Machine.execBreakM o s
  | .fset o => Sys2Proof.Machine.execFset o s
  | .fputg o => Sys2Proof.Machine.execFputg o s
  | .fputs o => Sys2Proof.Machine.execFputs o s
  | .create o => Sys2Proof.Machine.execCreate o s
  | .sync o => Sys2Proof.Machine.execSync o s
  | .fgets o => Sys2Proof.Machine.execFgets o s
  | .kill o => Sys2Proof.Machine.execKill o s
  | .fstat o => Sys2Proof.Machine.execFstat o s
  | .trap o => Sys2Proof.Machine.execTrap o s
  | .bkpt o => Sys2Proof.Machine.execBkpt o s
  | .eret o => Sys2Proof.Machine.execEret o s
  | .mfc o => Sys2Proof.Machine.execMfc o s
  | .mtc o => Sys2Proof.Machine.execMtc o s
  | .yieldT o => Sys2Proof.Machine.execYieldT o s
  | .chkpt o => Sys2Proof.Machine.execChkpt o s
  | .add o => Sys2Proof.Machine.execAdd o s
  | .sub o => Sys2Proof.Machine.execSub o s
  | .mul o => Sys2Proof.Machine.execMul o s
  | .mulhs o => Sys2Proof.Machine.execMulhs o s
  | .mulhu o => Sys2Proof.Machine.execMulhu o s
  | .madd o => Sys2Proof.Machine.execMadd o s
  | .divs o => Sys2Proof.Machine.execDivs o s
  | .divu o => Sys2Proof.Machine.execDivu o s
  | .rems o => Sys2Proof.Machine.execRems o s
  | .remu o => Sys2Proof.Machine.execRemu o s
  | .and o => Sys2Proof.Machine.execAnd o s
  | .or o => Sys2Proof.Machine.execOr o s
  | .xor o => Sys2Proof.Machine.execXor o s
  | .andn o => Sys2Proof.Machine.execAndn o s
  | .shl o => Sys2Proof.Machine.execShl o s
  | .shr o => Sys2Proof.Machine.execShr o s
  | .sar o => Sys2Proof.Machine.execSar o s
  | .rol o => Sys2Proof.Machine.execRol o s
  | .min o => Sys2Proof.Machine.execMin o s
  | .max o => Sys2Proof.Machine.execMax o s
  | .minu o => Sys2Proof.Machine.execMinu o s
  | .maxu o => Sys2Proof.Machine.execMaxu o s
  | .adds o => Sys2Proof.Machine.execAdds o s
  | .subs o => Sys2Proof.Machine.execSubs o s
  | .abs o => Sys2Proof.Machine.execAbs o s
  | .clz o => Sys2Proof.Machine.execClz o s
  | .ctz o => Sys2Proof.Machine.execCtz o s
  | .popc o => Sys2Proof.Machine.execPopc o s
  | .brev o => Sys2Proof.Machine.execBrev o s
  | .bswap o => Sys2Proof.Machine.execBswap o s
  | .bfx o => Sys2Proof.Machine.execBfx o s
  | .bfi o => Sys2Proof.Machine.execBfi o s
  | .sext o => Sys2Proof.Machine.execSext o s
  | .zext o => Sys2Proof.Machine.execZext o s
  | .mov o => Sys2Proof.Machine.execMov o s
  | .movHi o => Sys2Proof.Machine.execMovHi o s
  | .sel o => Sys2Proof.Machine.execSel o s
  | .lea o => Sys2Proof.Machine.execLea o s
  | .cmp o => Sys2Proof.Machine.execCmp o s
  | .plog o => Sys2Proof.Machine.execPlog o s
  | .fadd o => Sys2Proof.Machine.execFadd o s
  | .fsub o => Sys2Proof.Machine.execFsub o s
  | .fmul o => Sys2Proof.Machine.execFmul o s
  | .fmin o => Sys2Proof.Machine.execFmin o s
  | .fmax o => Sys2Proof.Machine.execFmax o s
  | .ffma o => Sys2Proof.Machine.execFfma o s
  | .fcmp o => Sys2Proof.Machine.execFcmp o s
  | .fcvt o => Sys2Proof.Machine.execFcvt o s
  | .icvt o => Sys2Proof.Machine.execIcvt o s
  | .ld o => Sys2Proof.Machine.execLd o s
  | .ldp o => Sys2Proof.Machine.execLdp o s
  | .st o => Sys2Proof.Machine.execSt o s
  | .stn o => Sys2Proof.Machine.execStn o s
  | .take o => Sys2Proof.Machine.execTake o s
  | .ldf o => Sys2Proof.Machine.execLdf o s
  | .put o => Sys2Proof.Machine.execPut o s
  | .putWait o => Sys2Proof.Machine.execPutWait o s
  | .tagr o => Sys2Proof.Machine.execTagr o s
  | .tagw o => Sys2Proof.Machine.execTagw o s
  | .fence o => Sys2Proof.Machine.execFence o s
  | .aadd o => Sys2Proof.Machine.execAadd o s
  | .aand o => Sys2Proof.Machine.execAand o s
  | .aor o => Sys2Proof.Machine.execAor o s
  | .axor o => Sys2Proof.Machine.execAxor o s
  | .amin o => Sys2Proof.Machine.execAmin o s
  | .amax o => Sys2Proof.Machine.execAmax o s
  | .aminu o => Sys2Proof.Machine.execAminu o s
  | .amaxu o => Sys2Proof.Machine.execAmaxu o s
  | .axchg o => Sys2Proof.Machine.execAxchg o s
  | .afadd o => Sys2Proof.Machine.execAfadd o s
  | .cas o => Sys2Proof.Machine.execCas o s
  | .pref o => Sys2Proof.Machine.execPref o s
  | .mona o => Sys2Proof.Machine.execMona o s
  | .mond o => Sys2Proof.Machine.execMond o s
  | .mondAll o => Sys2Proof.Machine.execMondAll o s
  | .waitm o => Sys2Proof.Machine.execWaitm o s
  | .tset o => Sys2Proof.Machine.execTset o s
  | .tlook o => Sys2Proof.Machine.execTlook o s
  | .tclr o => Sys2Proof.Machine.execTclr o s
  | .bari o => Sys2Proof.Machine.execBari o s
  | .barr o => Sys2Proof.Machine.execBarr o s
  | .barw o => Sys2Proof.Machine.execBarw o s
  | .bwait o => Sys2Proof.Machine.execBwait o s
  | .bdrop o => Sys2Proof.Machine.execBdrop o s
  | .bpois o => Sys2Proof.Machine.execBpois o s
  | .lki o => Sys2Proof.Machine.execLki o s
  | .lkacq o => Sys2Proof.Machine.execLkacq o s
  | .lktry o => Sys2Proof.Machine.execLktry o s
  | .lkrel o => Sys2Proof.Machine.execLkrel o s
  | .qi o => Sys2Proof.Machine.execQi o s
  | .qpush o => Sys2Proof.Machine.execQpush o s
  | .qpop o => Sys2Proof.Machine.execQpop o s
  | .wreg o => Sys2Proof.Machine.execWreg o s
  | .whold o => Sys2Proof.Machine.execWhold o s
  | .wdrop o => Sys2Proof.Machine.execWdrop o s
  | .wwait o => Sys2Proof.Machine.execWwait o s
  | .wwaitNb o => Sys2Proof.Machine.execWwaitNb o s
  | .wunreg o => Sys2Proof.Machine.execWunreg o s
  | .wqry o => Sys2Proof.Machine.execWqry o s
  | .ofree o => Sys2Proof.Machine.execOfree o s
  | .copy o => Sys2Proof.Machine.execCopy o s
  | .copyt o => Sys2Proof.Machine.execCopyt o s
  | .gath o => Sys2Proof.Machine.execGath o s
  | .pack o => Sys2Proof.Machine.execPack o s
  | .unpack o => Sys2Proof.Machine.execUnpack o s
  | .ccan o => Sys2Proof.Machine.execCcan o s
  | .cstat o => Sys2Proof.Machine.execCstat o s
  | .ebin o => Sys2Proof.Machine.execEbin o s
  | .eapp o => Sys2Proof.Machine.execEapp o s
  | .erepl o => Sys2Proof.Machine.execErepl o s
  | .vclaim o => Sys2Proof.Machine.execVclaim o s
  | .vrel o => Sys2Proof.Machine.execVrel o s
  | .vyield o => Sys2Proof.Machine.execVyield o s
  | .vld o => Sys2Proof.Machine.execVld o s
  | .vst o => Sys2Proof.Machine.execVst o s
  | .vlds o => Sys2Proof.Machine.execVlds o s
  | .vsts o => Sys2Proof.Machine.execVsts o s
  | .vgath o => Sys2Proof.Machine.execVgath o s
  | .vscat o => Sys2Proof.Machine.execVscat o s
  | .vbcast o => Sys2Proof.Machine.execVbcast o s
  | .viota o => Sys2Proof.Machine.execViota o s
  | .vext o => Sys2Proof.Machine.execVext o s
  | .vins o => Sys2Proof.Machine.execVins o s
  | .vadd o => Sys2Proof.Machine.execVadd o s
  | .vsub o => Sys2Proof.Machine.execVsub o s
  | .vmul o => Sys2Proof.Machine.execVmul o s
  | .vfma o => Sys2Proof.Machine.execVfma o s
  | .vmin o => Sys2Proof.Machine.execVmin o s
  | .vmax o => Sys2Proof.Machine.execVmax o s
  | .vabs o => Sys2Proof.Machine.execVabs o s
  | .vand o => Sys2Proof.Machine.execVand o s
  | .vor o => Sys2Proof.Machine.execVor o s
  | .vxor o => Sys2Proof.Machine.execVxor o s
  | .vshl o => Sys2Proof.Machine.execVshl o s
  | .vshr o => Sys2Proof.Machine.execVshr o s
  | .vsar o => Sys2Proof.Machine.execVsar o s
  | .vcmp o => Sys2Proof.Machine.execVcmp o s
  | .vsel o => Sys2Proof.Machine.execVsel o s
  | .klog o => Sys2Proof.Machine.execKlog o s
  | .kpop o => Sys2Proof.Machine.execKpop o s
  | .vcvt o => Sys2Proof.Machine.execVcvt o s
  | .vqmx o => Sys2Proof.Machine.execVqmx o s
  | .vdqmx o => Sys2Proof.Machine.execVdqmx o s
  | .vrsum o => Sys2Proof.Machine.execVrsum o s
  | .vrmax o => Sys2Proof.Machine.execVrmax o s
  | .vrmin o => Sys2Proof.Machine.execVrmin o s
  | .vexp2 o => Sys2Proof.Machine.execVexp2 o s
  | .vlog2 o => Sys2Proof.Machine.execVlog2 o s
  | .vrcp o => Sys2Proof.Machine.execVrcp o s
  | .vrsq o => Sys2Proof.Machine.execVrsq o s
  | .vsqrt o => Sys2Proof.Machine.execVsqrt o s
  | .vtanh o => Sys2Proof.Machine.execVtanh o s
  | .vsigm o => Sys2Proof.Machine.execVsigm o s
  | .vperm o => Sys2Proof.Machine.execVperm o s
  | .vbperm o => Sys2Proof.Machine.execVbperm o s
  | .vmset o => Sys2Proof.Machine.execVmset o s
  | .vmadd o => Sys2Proof.Machine.execVmadd o s
  | .vmsub o => Sys2Proof.Machine.execVmsub o s
  | .vmneg o => Sys2Proof.Machine.execVmneg o s
  | .vmmul o => Sys2Proof.Machine.execVmmul o s
  | .vmmac o => Sys2Proof.Machine.execVmmac o s
  | .vmred o => Sys2Proof.Machine.execVmred o s
  | .vmto o => Sys2Proof.Machine.execVmto o s
  | .vmfrom o => Sys2Proof.Machine.execVmfrom o s
  | .vbfly o => Sys2Proof.Machine.execVbfly o s
  | .vbflyX o => Sys2Proof.Machine.execVbflyX o s
  | .vibfly o => Sys2Proof.Machine.execVibfly o s
  | .vibflyX o => Sys2Proof.Machine.execVibflyX o s
  | .vauto o => Sys2Proof.Machine.execVauto o s
  | .ringi o => Sys2Proof.Machine.execRingi o s
  | .rpushRes o => Sys2Proof.Machine.execRpushRes o s
  | .rpush o => Sys2Proof.Machine.execRpush o s
  | .rpopRes o => Sys2Proof.Machine.execRpopRes o s
  | .rpop o => Sys2Proof.Machine.execRpop o s
  | .rstat o => Sys2Proof.Machine.execRstat o s
  | .tldw o => Sys2Proof.Machine.execTldw o s
  | .trel o => Sys2Proof.Machine.execTrel o s
  | .tmma o => Sys2Proof.Machine.execTmma o s
  | .tzero o => Sys2Proof.Machine.execTzero o s
  | .tdrain o => Sys2Proof.Machine.execTdrain o s
  | .twait o => Sys2Proof.Machine.execTwait o s
  | .ngrp o => Sys2Proof.Machine.execNgrp o s
  | .nred o => Sys2Proof.Machine.execNred o s
  | .nredi o => Sys2Proof.Machine.execNredi o s
  | .nfree o => Sys2Proof.Machine.execNfree o s
  | .tracew o => Sys2Proof.Machine.execTracew o s
  | .cntr o => Sys2Proof.Machine.execCntr o s
  | .registerWrite n => Sys2Proof.Machine.execRegisterWrite n s
  | .turn n => Sys2Proof.Machine.execTurn n s
  | .fetchLineArrival n => Sys2Proof.Machine.execFetchLineArrival n s
  | .memoryReply n => Sys2Proof.Machine.execMemoryReply n s
  | .errorNotice n => Sys2Proof.Machine.execErrorNotice n s
  | .homeOperation n => Sys2Proof.Machine.execHomeOperation n s
  | .queuedBankAccess n => Sys2Proof.Machine.execQueuedBankAccess n s
  | .requestCombine n => Sys2Proof.Machine.execRequestCombine n s
  | .deferralDelivery n => Sys2Proof.Machine.execDeferralDelivery n s
  | .monitorWake n => Sys2Proof.Machine.execMonitorWake n s
  | .waitmTimeout n => Sys2Proof.Machine.execWaitmTimeout n s
  | .linkedValueArrival n => Sys2Proof.Machine.execLinkedValueArrival n s
  | .memberStart n => Sys2Proof.Machine.execMemberStart n s
  | .familyEnd n => Sys2Proof.Machine.execFamilyEnd n s
  | .phaseMarker n => Sys2Proof.Machine.execPhaseMarker n s
  | .phaseComplete n => Sys2Proof.Machine.execPhaseComplete n s
  | .packetHeaderArrival n => Sys2Proof.Machine.execPacketHeaderArrival n s
  | .packetCloseArrival n => Sys2Proof.Machine.execPacketCloseArrival n s
  | .packetAcknowledge n => Sys2Proof.Machine.execPacketAcknowledge n s
  | .reductionPartial n => Sys2Proof.Machine.execReductionPartial n s
  | .copyEngineStart n => Sys2Proof.Machine.execCopyEngineStart n s
  | .copyComplete n => Sys2Proof.Machine.execCopyComplete n s
  | .engineOpStart n => Sys2Proof.Machine.execEngineOpStart n s
  | .tldwLoadComplete n => Sys2Proof.Machine.execTldwLoadComplete n s
  | .tmmaRetire n => Sys2Proof.Machine.execTmmaRetire n s
  | .tzeroComplete n => Sys2Proof.Machine.execTzeroComplete n s
  | .tdrainComplete n => Sys2Proof.Machine.execTdrainComplete n s
  | .entrepotAppendArrival n => Sys2Proof.Machine.execEntrepotAppendArrival n s
  | .ereplComplete n => Sys2Proof.Machine.execEreplComplete n s
  | .patrolScrub n => Sys2Proof.Machine.execPatrolScrub n s
  | .coreReset n => Sys2Proof.Machine.execCoreReset n s
  | .preEmpt n => Sys2Proof.Machine.execPreEmpt n s
  | .threadRestore n => Sys2Proof.Machine.execThreadRestore n s
  | .migrate n => Sys2Proof.Machine.execMigrate n s
  | .launchAccept n => Sys2Proof.Machine.execLaunchAccept n s
  | .launchBind n => Sys2Proof.Machine.execLaunchBind n s
  | .launchStart n => Sys2Proof.Machine.execLaunchStart n s
  | .launchComplete n => Sys2Proof.Machine.execLaunchComplete n s
  | .launchKill n => Sys2Proof.Machine.execLaunchKill n s
  | .sqTailWrite n => Sys2Proof.Machine.execSqTailWrite n s
  | .featureCommit n => Sys2Proof.Machine.execFeatureCommit n s
  | .translationWalkComplete n => Sys2Proof.Machine.execTranslationWalkComplete n s
  | .faultAnswerRetry n => Sys2Proof.Machine.execFaultAnswerRetry n s
  | .faultAnswerDeny n => Sys2Proof.Machine.execFaultAnswerDeny n s
  | .translationInvalidate n => Sys2Proof.Machine.execTranslationInvalidate n s
  | .waitForInsert n => Sys2Proof.Machine.execWaitForInsert n s
  | .waitForRemove n => Sys2Proof.Machine.execWaitForRemove n s
  | .priorityPropagate n => Sys2Proof.Machine.execPriorityPropagate n s
  | .deadlockScan n => Sys2Proof.Machine.execDeadlockScan n s
  | .dcmdStop n => Sys2Proof.Machine.execDcmdStop n s
  | .dcmdResume n => Sys2Proof.Machine.execDcmdResume n s
  | .dcmdStep n => Sys2Proof.Machine.execDcmdStep n s
  | .clusterStopArrival n => Sys2Proof.Machine.execClusterStopArrival n s
  | .clusterResumeArrival n => Sys2Proof.Machine.execClusterResumeArrival n s
  | .pcSample n => Sys2Proof.Machine.execPcSample n s
  | .traceRecordArrival n => Sys2Proof.Machine.execTraceRecordArrival n s
  | .waybillSealTimeout n => Sys2Proof.Machine.execWaybillSealTimeout n s
  | .waybillWriteComplete n => Sys2Proof.Machine.execWaybillWriteComplete n s
  | .routeSurvey n => Sys2Proof.Machine.execRouteSurvey n s
  | .traceEnable n => Sys2Proof.Machine.execTraceEnable n s
  | .unitClaim n => Sys2Proof.Machine.execUnitClaim n s
  | .pmodeEnter n => Sys2Proof.Machine.execPmodeEnter n s
  | .pmodeLeave n => Sys2Proof.Machine.execPmodeLeave n s
  | .intervalClose n => Sys2Proof.Machine.execIntervalClose n s
  | .linkRetrain n => Sys2Proof.Machine.execLinkRetrain n s
  | .gulongKeepalive n => Sys2Proof.Machine.execGulongKeepalive n s
  | .gulongSilenceTimeout n => Sys2Proof.Machine.execGulongSilenceTimeout n s
  | .faultEvent n => Sys2Proof.Machine.execFaultEvent n s
  | .fctlQuiesce n => Sys2Proof.Machine.execFctlQuiesce n s
  | .quiesced n => Sys2Proof.Machine.execQuiesced n s
  | .fctlResume n => Sys2Proof.Machine.execFctlResume n s
  | .fctlPreset n => Sys2Proof.Machine.execFctlPreset n s
  | .thermalTrip n => Sys2Proof.Machine.execThermalTrip n s
  | .clockStep n => Sys2Proof.Machine.execClockStep n s
  | .harvestUpdate n => Sys2Proof.Machine.execHarvestUpdate n s
  | .packageReset n => Sys2Proof.Machine.execPackageReset n s
  | .attestationQuote n => Sys2Proof.Machine.execAttestationQuote n s
  | .haltedThreadKill n => Sys2Proof.Machine.execHaltedThreadKill n s
  | .cacheLineFill n => Sys2Proof.Machine.execCacheLineFill n s
  | .retrainComplete n => Sys2Proof.Machine.execRetrainComplete n s
  | .accessTableWrite n => Sys2Proof.Machine.execAccessTableWrite n s

end Sys2Proof.Machine
end

