-- ==== Sys2Proof/Machine/Step.lean ====
section
/-! DEFINITION. One step of the machine: the thread whose turn it is issues, or an event happens
(log 3, 4); and the thread that stands for a program that has been loaded (log 7). -/

namespace Sys2Proof.Machine

/-- An event row of the opcode table: no word encodes it. -/
def isEvent (i : Instr) : Bool := i.fields.isNone

/-- The next event: the head of the agenda, or a free choice (log 4). -/
def State.takeEvent (s : State) : Instr × State :=
  match s.agenda with
  | i :: r => (i, { s with agenda := r })
  | [] => (Config.nextEvent s.choice, { s with choice := s.choice + 1 })

/-- One step: the thread whose turn it is issues; else one whose held instruction goes on does so (02 R38); else an
event happens. A choice that names no event row does nothing. -/
def step (s : State) : Host.Outcome State Fault Refusal :=
  if s.busy then s.issueNow exec
  else match s.dueThread with
    | some t => (s.checkOut t false).issueNow exec
    | none =>
      let (i, s) := s.takeEvent
      if isEvent i then exec i s else .next s

/-! ### A loaded program -/

/-- A line with a word in one slot and zeros in the others: parity right, and every slot a target
(02 R20). -/
def lineOf (w : IWord) (slot : Nat) : Line :=
  let lw := (if oddOnes w.toNat 96 then 2 ^ slot else 0) + 31 * 2 ^ 10
  let lw := if oddOnes lw 32 then lw + 2 ^ 5 else lw
  BitVec.ofNat 512 (w.toNat * 2 ^ (96 * slot) + lw * 2 ^ 480)

/-- A thread in slot 0 of core 0 with the largest window, its dependents FULL. -/
def Thread.loaded : Thread := { Thread.idle with
  life := .running 0
  win := ⟨64, 16, 16⟩
  dfull := 0xFFFF }

/-- The turn of a thread whose line holds the word. -/
def State.withFetchWord (s : State) (_nbits w : Nat) : State :=
  let t := if s.busy then s.cur else Thread.loaded
  let a := lineAddr t.pc
  { s with
    busy := true
    inTurn := true
    second := false
    pkg := { s.pkg with feat := commitFeatures s.pkg.fadv s.pkg.fadv }
    cur := { t with
      half := none, halfDone := false, dlPend := none, target := none
      lines := [⟨a, lineOf (BitVec.ofNat 96 w) (bits t.pc 2 0), none, false, false, none⟩] } }

end Sys2Proof.Machine
end

