-- ==== Sys2Proof/Safety.lean ====
section
/-! DEFINITION. The terms that claims are stated in: when an instruction is on its way to complete,
what its rules give it from its operands, and what a step may leave unchanged. The results are
written from the spec's tables over numbers, apart from the meanings. -/

namespace Sys2Proof.Machine

/-! ### How an instruction completes -/

/-- The machine after an instruction that has run to `t` with flow `fl`: in sequence the PC is one
slot on (02 R23); one that waits for a reply, or whose transfer is taken, stands as it is. -/
def State.finished (t : State) (fl : Flow) : State :=
  match fl with
  | .seq => { t.updCur (fun x => { x.advance 1 with forfeits := 0 }) with flow := .seq }
  | fl => { t with flow := fl }

/-- STATUS bits are raised. -/
def State.flagged (s : State) (fl : Word) : State :=
  s.updCur fun t => { t with status := t.status ||| fl }

/-- A converting instruction counts itself (08 R169). -/
def State.counted (s : State) : State := s.updCur fun t => { t with convcnt := t.convcnt + 1 }

/-- The machine after a write of DST that has run to `t` with flow `fl`, where a converting instruction advances
CONVCNT: at once; or, where the write closes a packet and waits for it to leave, once the packet is accepted (08 R169,
11 R215). -/
def State.resulted (t : State) (fl : Flow) (conv : Bool) : State :=
  match fl with
  | .held => { t with
      cur := { t.cur with life := .waiting, wait := some ⟨11, some (.txeRes conv), false, 0⟩ }
      flow := .held }
  | fl => (if conv then t.counted else t).finished fl

/-- The issuing thread waits for `reason` and reissues; a wait for its line, its board or a page keeps its instruction
at issue (02 R38, 06 R119). -/
def State.suspended (s : State) (reason key : Nat) (side : Side := .nil) : State :=
  (s.enterWait reason key side).updCur fun t => { t with holds := reason == 4 || reason == 8 || reason == 15 }

/-- `c` at `s` answers `v` and leaves `t`. -/
abbrev Gives {α : Type} (c : M α) (s : State) (v : α) (t : State) : Prop := c s = .ok (v, t)

/-- An operand that an instruction may lack. -/
def readOpt {α : Type} (f : α → M Word) (o : Option α) : M Word :=
  match o with
  | some r => f r
  | none => pure 0

/-! ### Integer instructions (04 R79 to R86) -/

/-- A number from the 64 bits that a test gives. -/
def wordOf (p : Nat → Bool) : Word :=
  BitVec.ofNat 64 ((((List.range 64).filter p).map fun i => 2 ^ i).foldl (· + ·) 0)

/-- An integer instruction as its rules give it: guard, destination, whether it may set a flag, the sources in their
order, and the result with the STATUS bits it raises. -/
structure IntForm where
  g : Guard
  d : Dst
  flags : Bool
  a : Option SReg
  b : Option SrcB
  c : Option SReg
  f : Thread → Word → Word → Word → Word × Word

/-- Table 4.14 without flags. -/
def tableForm (o : OpAlu) (f : Word → Word → Word) : Option IntForm :=
  some ⟨o.g, o.d, false, some o.a, some o.b, none, fun _ a b _ => (f a b, 0)⟩

/-- An exact result clamped to a range: OF where it is outside (04 Table 4.14). -/
def saturated (lo hi x : Int) : Word × Word :=
  (BitVec.ofInt 64 (max lo (min hi x)), if lo ≤ x ∧ x ≤ hi then 0 else flagOF)

def saturatedForm (o : OpAluU) (f : Int → Int → Int) : Option IntForm :=
  some ⟨o.g, o.d, true, some o.a, some o.b, none, fun _ a b _ =>
    if o.uns then saturated 0 (2 ^ 64 - 1) (f a.toNat b.toNat)
    else saturated (-2 ^ 63) (2 ^ 63 - 1) (f a.toInt b.toInt)⟩

/-- R81: signed quotient and remainder. -/
def divSigned (rem : Bool) (x y : Int) : Word × Word :=
  if y = 0 then (if rem then BitVec.ofInt 64 x else BitVec.ofInt 64 (-1), flagDZ)
  else if x = -2 ^ 63 ∧ y = -1 then (if rem then 0 else BitVec.ofInt 64 (-2 ^ 63), if rem then 0 else flagOF)
  else (BitVec.ofInt 64 (if rem then x.tmod y else x.tdiv y), 0)

/-- R81: unsigned quotient and remainder. -/
def divUnsigned (rem : Bool) (x y : Nat) : Word × Word :=
  if y = 0 then (if rem then BitVec.ofNat 64 x else BitVec.ofNat 64 (2 ^ 64 - 1), flagDZ)
  else (BitVec.ofNat 64 (if rem then x % y else x / y), 0)

def divForm (o : OpAlu) (f : Word → Word → Word × Word) : Option IntForm :=
  some ⟨o.g, o.d, true, some o.a, some o.b, none, fun _ a b _ => f a b⟩

def unaryForm (g : Guard) (d : Dst) (a : SReg) (f : Word → Word) : Option IntForm :=
  some ⟨g, d, false, some a, none, none, fun _ a _ _ => (f a, 0)⟩

/-- The two-operand functions of Table 4.14 that set no flag. -/
def binaryForm (i : Instr) : Option IntForm :=
  match i with
  | .add o => tableForm o fun a b => BitVec.ofNat 64 (a.toNat + b.toNat)
  | .sub o => tableForm o fun a b => BitVec.ofInt 64 (a.toNat - b.toNat)
  | .mul o => tableForm o fun a b => BitVec.ofNat 64 (a.toNat * b.toNat)
  | .mulhs o => tableForm o fun a b => (BitVec.ofInt 128 (a.toInt * b.toInt)).extractLsb' 64 64
  | .mulhu o => tableForm o fun a b => (BitVec.ofNat 128 (a.toNat * b.toNat)).extractLsb' 64 64
  | .and o => tableForm o fun a b => wordOf fun i => a.getLsbD i && b.getLsbD i
  | .or o => tableForm o fun a b => wordOf fun i => a.getLsbD i || b.getLsbD i
  | .xor o => tableForm o fun a b => wordOf fun i => a.getLsbD i != b.getLsbD i
  | .andn o => tableForm o fun a b => wordOf fun i => a.getLsbD i && !b.getLsbD i
  | .shl o => tableForm o fun a b => BitVec.ofNat 64 (a.toNat * 2 ^ (b.toNat % 64))
  | .shr o => tableForm o fun a b => BitVec.ofNat 64 (a.toNat / 2 ^ (b.toNat % 64))
  | .sar o => tableForm o fun a b => BitVec.ofInt 64 (a.toInt / 2 ^ (b.toNat % 64))
  | .rol o => tableForm o fun a b => wordOf fun i => a.getLsbD ((i + 64 - b.toNat % 64) % 64)
  | .min o => tableForm o fun a b => BitVec.ofInt 64 (min a.toInt b.toInt)
  | .max o => tableForm o fun a b => BitVec.ofInt 64 (max a.toInt b.toInt)
  | .minu o => tableForm o fun a b => BitVec.ofNat 64 (min a.toNat b.toNat)
  | .maxu o => tableForm o fun a b => BitVec.ofNat 64 (max a.toNat b.toNat)
  | _ => none

/-- Integer instructions that may set a flag (04 Table 4.14, R81, R82). -/
def flaggingForm (i : Instr) : Option IntForm :=
  match i with
  | .adds o => saturatedForm o fun x y => x + y
  | .subs o => saturatedForm o fun x y => x - y
  | .divs o => divForm o fun a b => divSigned false a.toInt b.toInt
  | .rems o => divForm o fun a b => divSigned true a.toInt b.toInt
  | .divu o => divForm o fun a b => divUnsigned false a.toNat b.toNat
  | .remu o => divForm o fun a b => divUnsigned true a.toNat b.toNat
  | .abs o => some ⟨o.g, o.d, true, some o.a, none, none, fun _ a _ _ =>
      (BitVec.ofInt 64 a.toInt.natAbs, if a.toInt = -2 ^ 63 then flagOF else 0)⟩
  | _ => none

/-- The other integer instructions (04 R80, R82 to R86). -/
def plainForm (i : Instr) : Option IntForm :=
  match i with
  | .madd o => some ⟨o.g, o.d, false, some o.a, some o.b, some o.c, fun _ a b c =>
      (BitVec.ofNat 64 (a.toNat * b.toNat + c.toNat), 0)⟩
  | .clz o => unaryForm o.g o.d o.a fun a =>
      BitVec.ofNat 64 (if a = 0 then 64 else 63 - Nat.log2 a.toNat)
  | .ctz o => unaryForm o.g o.d o.a fun a => BitVec.ofNat 64 ((List.range 64).findIdx a.getLsbD)
  | .popc o => unaryForm o.g o.d o.a fun a => BitVec.ofNat 64 ((List.range 64).countP a.getLsbD)
  | .brev o => unaryForm o.g o.d o.a fun a => wordOf fun i => a.getLsbD (63 - i)
  | .bswap o => unaryForm o.g o.d o.a fun a => wordOf fun i => a.getLsbD (8 * (7 - i / 8) + i % 8)
  | .bfx o => unaryForm o.g o.d o.a fun a =>
      BitVec.ofNat 64 (a.toNat / 2 ^ o.pos.toNat % 2 ^ (o.len.toNat + 1))
  | .bfi o => some ⟨o.g, o.d, false, some o.a, none, some o.c, fun _ a _ c =>
      (wordOf fun i => if o.pos.toNat ≤ i ∧ i ≤ o.pos.toNat + o.len.toNat then c.getLsbD (i - o.pos.toNat)
        else a.getLsbD i, 0)⟩
  | .sext o => unaryForm o.g o.d o.a fun a => BitVec.ofInt 64 (Int.bmod a.toNat (2 ^ (o.len.toNat + 1)))
  | .zext o => unaryForm o.g o.d o.a fun a => BitVec.ofNat 64 (a.toNat % 2 ^ (o.len.toNat + 1))
  | .mov o => some ⟨o.g, o.d, false, none, some o.b, none, fun _ _ b _ => (b, 0)⟩
  | .movHi o => unaryForm o.g o.d o.a fun a => BitVec.ofNat 64 (o.v.toNat * 2 ^ 32 + a.toNat % 2 ^ 32)
  | .sel o => some ⟨o.g, o.d, false, some o.a, some o.b, none, fun t a b _ =>
      (if t.pred o.psel = o.pneg then b else a, 0)⟩
  | .lea o => some ⟨o.g, o.d, false, some o.a, some o.b, none, fun _ a b _ =>
      (BitVec.ofNat 64 (a.toNat + b.toNat * 2 ^ o.sh.toNat), 0)⟩
  | _ => none

/-- An integer instruction completes with what its form gives: its sources are read in order, the
flags are raised, then DST takes the result (04 R81), and the PC is one slot on. -/
def IntForm.completes (x : IntForm) (i : Instr) : Prop :=
  ∀ (s s1 s2 s3 t : State) (a b c : Word) (fl : Flow), s.cur.guardOn x.g = true →
    Gives (checkDst x.d) s () s → Gives (readOpt readS x.a) s a s1 → Gives (readOpt operandB x.b) s1 b s2 →
    Gives (readOpt readS x.c) s2 c s3 →
    Gives (writeD x.d (x.f s.cur a b c).1) (if x.flags then s3.flagged (x.f s.cur a b c).2 else s3) fl t →
    exec i s = .next (if x.flags then t.resulted fl false else t.finished fl)

/-! ### Guards (02 R27) -/

/-- The guard of an instruction; an event row has none. -/
def guardOf (i : Instr) : Option Guard :=
  match i with
  | .nop o => some o.g
  | .br o => some o.g
  | .brx o => some o.g
  | .call o => some o.g
  | .callx o => some o.g
  | .ret o => some o.g
  | .exit o => some o.g
  | .breakM o => some o.g
  | .fset o => some o.g
  | .fputg o => some o.g
  | .fputs o => some o.g
  | .create o => some o.g
  | .sync o => some o.g
  | .fgets o => some o.g
  | .kill o => some o.g
  | .fstat o => some o.g
  | .trap o => some o.g
  | .bkpt o => some o.g
  | .eret o => some o.g
  | .mfc o => some o.g
  | .mtc o => some o.g
  | .yieldT o => some o.g
  | .chkpt o => some o.g
  | .add o => some o.g
  | .sub o => some o.g
  | .mul o => some o.g
  | .mulhs o => some o.g
  | .mulhu o => some o.g
  | .madd o => some o.g
  | .divs o => some o.g
  | .divu o => some o.g
  | .rems o => some o.g
  | .remu o => some o.g
  | .and o => some o.g
  | .or o => some o.g
  | .xor o => some o.g
  | .andn o => some o.g
  | .shl o => some o.g
  | .shr o => some o.g
  | .sar o => some o.g
  | .rol o => some o.g
  | .min o => some o.g
  | .max o => some o.g
  | .minu o => some o.g
  | .maxu o => some o.g
  | .adds o => some o.g
  | .subs o => some o.g
  | .abs o => some o.g
  | .clz o => some o.g
  | .ctz o => some o.g
  | .popc o => some o.g
  | .brev o => some o.g
  | .bswap o => some o.g
  | .bfx o => some o.g
  | .bfi o => some o.g
  | .sext o => some o.g
  | .zext o => some o.g
  | .mov o => some o.g
  | .movHi o => some o.g
  | .sel o => some o.g
  | .lea o => some o.g
  | .cmp o => some o.g
  | .plog o => some o.g
  | .fadd o => some o.g
  | .fsub o => some o.g
  | .fmul o => some o.g
  | .fmin o => some o.g
  | .fmax o => some o.g
  | .ffma o => some o.g
  | .fcmp o => some o.g
  | .fcvt o => some o.g
  | .icvt o => some o.g
  | .ld o => some o.g
  | .ldp o => some o.g
  | .st o => some o.g
  | .stn o => some o.g
  | .take o => some o.g
  | .ldf o => some o.g
  | .put o => some o.g
  | .putWait o => some o.g
  | .tagr o => some o.g
  | .tagw o => some o.g
  | .fence o => some o.g
  | .aadd o => some o.g
  | .aand o => some o.g
  | .aor o => some o.g
  | .axor o => some o.g
  | .amin o => some o.g
  | .amax o => some o.g
  | .aminu o => some o.g
  | .amaxu o => some o.g
  | .axchg o => some o.g
  | .afadd o => some o.g
  | .cas o => some o.g
  | .pref o => some o.g
  | .mona o => some o.g
  | .mond o => some o.g
  | .mondAll o => some o.g
  | .waitm o => some o.g
  | .tset o => some o.g
  | .tlook o => some o.g
  | .tclr o => some o.g
  | .bari o => some o.g
  | .barr o => some o.g
  | .barw o => some o.g
  | .bwait o => some o.g
  | .bdrop o => some o.g
  | .bpois o => some o.g
  | .lki o => some o.g
  | .lkacq o => some o.g
  | .lktry o => some o.g
  | .lkrel o => some o.g
  | .qi o => some o.g
  | .qpush o => some o.g
  | .qpop o => some o.g
  | .wreg o => some o.g
  | .whold o => some o.g
  | .wdrop o => some o.g
  | .wwait o => some o.g
  | .wwaitNb o => some o.g
  | .wunreg o => some o.g
  | .wqry o => some o.g
  | .ofree o => some o.g
  | .copy o => some o.g
  | .copyt o => some o.g
  | .gath o => some o.g
  | .pack o => some o.g
  | .unpack o => some o.g
  | .ccan o => some o.g
  | .cstat o => some o.g
  | .ebin o => some o.g
  | .eapp o => some o.g
  | .erepl o => some o.g
  | .vclaim o => some o.g
  | .vrel o => some o.g
  | .vyield o => some o.g
  | .vld o => some o.g
  | .vst o => some o.g
  | .vlds o => some o.g
  | .vsts o => some o.g
  | .vgath o => some o.g
  | .vscat o => some o.g
  | .vbcast o => some o.g
  | .viota o => some o.g
  | .vext o => some o.g
  | .vins o => some o.g
  | .vadd o => some o.g
  | .vsub o => some o.g
  | .vmul o => some o.g
  | .vfma o => some o.g
  | .vmin o => some o.g
  | .vmax o => some o.g
  | .vabs o => some o.g
  | .vand o => some o.g
  | .vor o => some o.g
  | .vxor o => some o.g
  | .vshl o => some o.g
  | .vshr o => some o.g
  | .vsar o => some o.g
  | .vcmp o => some o.g
  | .vsel o => some o.g
  | .klog o => some o.g
  | .kpop o => some o.g
  | .vcvt o => some o.g
  | .vqmx o => some o.g
  | .vdqmx o => some o.g
  | .vrsum o => some o.g
  | .vrmax o => some o.g
  | .vrmin o => some o.g
  | .vexp2 o => some o.g
  | .vlog2 o => some o.g
  | .vrcp o => some o.g
  | .vrsq o => some o.g
  | .vsqrt o => some o.g
  | .vtanh o => some o.g
  | .vsigm o => some o.g
  | .vperm o => some o.g
  | .vbperm o => some o.g
  | .vmset o => some o.g
  | .vmadd o => some o.g
  | .vmsub o => some o.g
  | .vmneg o => some o.g
  | .vmmul o => some o.g
  | .vmmac o => some o.g
  | .vmred o => some o.g
  | .vmto o => some o.g
  | .vmfrom o => some o.g
  | .vbfly o => some o.g
  | .vbflyX o => some o.g
  | .vibfly o => some o.g
  | .vibflyX o => some o.g
  | .vauto o => some o.g
  | .ringi o => some o.g
  | .rpushRes o => some o.g
  | .rpush o => some o.g
  | .rpopRes o => some o.g
  | .rpop o => some o.g
  | .rstat o => some o.g
  | .tldw o => some o.g
  | .trel o => some o.g
  | .tmma o => some o.g
  | .tzero o => some o.g
  | .tdrain o => some o.g
  | .twait o => some o.g
  | .ngrp o => some o.g
  | .nred o => some o.g
  | .nredi o => some o.g
  | .nfree o => some o.g
  | .tracew o => some o.g
  | .cntr o => some o.g
  | .registerWrite _ => none
  | .turn _ => none
  | .fetchLineArrival _ => none
  | .memoryReply _ => none
  | .errorNotice _ => none
  | .homeOperation _ => none
  | .queuedBankAccess _ => none
  | .requestCombine _ => none
  | .deferralDelivery _ => none
  | .monitorWake _ => none
  | .waitmTimeout _ => none
  | .linkedValueArrival _ => none
  | .memberStart _ => none
  | .familyEnd _ => none
  | .phaseMarker _ => none
  | .phaseComplete _ => none
  | .packetHeaderArrival _ => none
  | .packetCloseArrival _ => none
  | .packetAcknowledge _ => none
  | .reductionPartial _ => none
  | .copyEngineStart _ => none
  | .copyComplete _ => none
  | .engineOpStart _ => none
  | .tldwLoadComplete _ => none
  | .tmmaRetire _ => none
  | .tzeroComplete _ => none
  | .tdrainComplete _ => none
  | .entrepotAppendArrival _ => none
  | .ereplComplete _ => none
  | .patrolScrub _ => none
  | .coreReset _ => none
  | .preEmpt _ => none
  | .threadRestore _ => none
  | .migrate _ => none
  | .launchAccept _ => none
  | .launchBind _ => none
  | .launchStart _ => none
  | .launchComplete _ => none
  | .launchKill _ => none
  | .sqTailWrite _ => none
  | .featureCommit _ => none
  | .translationWalkComplete _ => none
  | .faultAnswerRetry _ => none
  | .faultAnswerDeny _ => none
  | .translationInvalidate _ => none
  | .waitForInsert _ => none
  | .waitForRemove _ => none
  | .priorityPropagate _ => none
  | .deadlockScan _ => none
  | .dcmdStop _ => none
  | .dcmdResume _ => none
  | .dcmdStep _ => none
  | .clusterStopArrival _ => none
  | .clusterResumeArrival _ => none
  | .pcSample _ => none
  | .traceRecordArrival _ => none
  | .waybillSealTimeout _ => none
  | .waybillWriteComplete _ => none
  | .routeSurvey _ => none
  | .traceEnable _ => none
  | .unitClaim _ => none
  | .pmodeEnter _ => none
  | .pmodeLeave _ => none
  | .intervalClose _ => none
  | .linkRetrain _ => none
  | .gulongKeepalive _ => none
  | .gulongSilenceTimeout _ => none
  | .faultEvent _ => none
  | .fctlQuiesce _ => none
  | .quiesced _ => none
  | .fctlResume _ => none
  | .fctlPreset _ => none
  | .thermalTrip _ => none
  | .clockStep _ => none
  | .harvestUpdate _ => none
  | .packageReset _ => none
  | .attestationQuote _ => none
  | .haltedThreadKill _ => none
  | .cacheLineFill _ => none
  | .retrainComplete _ => none
  | .accessTableWrite _ => none

/-! ### Predicates (04 R87, R88, R93) -/

/-- Predicate `p` becomes `b`; P0 stays (02 R27). -/
def State.withPred (s : State) (p : PredNo) (b : Bool) : State :=
  s.updCur fun t => { t with preds := BitVec.ofNat 8 (((List.range 8).map fun i =>
    if i = p.val ∧ i ≠ 0 then (if b then 2 ^ i else 0) else (if t.preds.getLsbD i then 2 ^ i else 0)).foldl (· + ·) 0) }

/-- Integer conditions over numbers (04 Table 4.9). -/
def condOf (c : ICond) (a b : Word) : Bool :=
  match c with
  | .eq => decide (a.toNat = b.toNat)
  | .ne => decide (a.toNat ≠ b.toNat)
  | .lt => decide (a.toInt < b.toInt)
  | .le => decide (a.toInt ≤ b.toInt)
  | .gt => decide (b.toInt < a.toInt)
  | .ge => decide (b.toInt ≤ a.toInt)
  | .ltu => decide (a.toNat < b.toNat)
  | .leu => decide (a.toNat ≤ b.toNat)
  | .gtu => decide (b.toNat < a.toNat)
  | .geu => decide (b.toNat ≤ a.toNat)

/-- How a condition joins its predicate (04 R87). -/
def joined (m : Cmb) (old c : Bool) : Bool :=
  match m with
  | .set => c
  | .and => decide (old = true ∧ c = true)
  | .or => decide (old = true ∨ c = true)

/-! ### FP32 instructions (04 R89 to R95) -/

/-- A converting or selecting floating instruction: guard, destination, sources, whether it counts
itself, and the rounded result from the low bits of its sources. -/
structure FpForm where
  g : Guard
  d : Dst
  a : SReg
  b : Option SrcC
  c : Option SReg
  conv : Bool
  f : State → Nat → Nat → Nat → Rounded

def low32 (w : Word) : Nat := w.toNat % 2 ^ 32

/-- Round of an exact FP32 operation under the modifiers of the instruction. -/
def fpRound (s : State) (r : Rnd) (ovf : Bool) (f : RCtx → FVal × Word) : Rounded :=
  roundRes (.flt fp32) (s.rctx r ovf 0) (f (s.rctx r ovf 0))

def fpForm (i : Instr) : Option FpForm :=
  match i with
  | .fadd o => some ⟨o.g, o.d, o.a, some o.b, none, true, fun s x y _ =>
      fpRound s o.rnd o.ovf fun c => addVal c (fp32Val x) (fp32Val y)⟩
  | .fsub o => some ⟨o.g, o.d, o.a, some o.b, none, true, fun s x y _ =>
      fpRound s o.rnd o.ovf fun c => addVal c (fp32Val x) (fp32Val y).negate⟩
  | .fmul o => some ⟨o.g, o.d, o.a, some o.b, none, true, fun s x y _ =>
      fpRound s o.rnd o.ovf fun _ => mulVal (fp32Val x) (fp32Val y)⟩
  | .ffma o => some ⟨o.g, o.d, o.a, some o.b, some o.c, true, fun s x y z =>
      fpRound s o.rnd o.ovf fun c => fmaVal c (fp32Val x) (fp32Val y) (fp32Val z)⟩
  | .fmin o => some ⟨o.g, o.d, o.a, some o.b, none, false, fun _ x y _ => minmaxVal (.flt fp32) false x y⟩
  | .fmax o => some ⟨o.g, o.d, o.a, some o.b, none, false, fun _ x y _ => minmaxVal (.flt fp32) true x y⟩
  | _ => none

/-- A floating instruction completes: flags, CONVCNT where it converts, DST zero-extended. -/
def FpForm.completes (x : FpForm) (i : Instr) : Prop :=
  ∀ (s s1 s2 s3 t : State) (a b c : Word) (fl : Flow), s.cur.guardOn x.g = true →
    Gives (checkDst x.d) s () s → Gives (readS x.a) s a s1 → Gives (readOpt operandZ x.b) s1 b s2 →
    Gives (readOpt readS x.c) s2 c s3 →
    (let r := x.f s (low32 a) (low32 b) (low32 c)
     Gives (writeD x.d (BitVec.ofNat 64 r.bits)) (s3.flagged r.flags) fl t → exec i s = .next (t.resulted fl x.conv))

/-- The two instructions that convert between formats: the source format's low bits convert. -/
def convForm (i : Instr) : Option (Guard × Dst × SReg × (State → Word → Rounded)) :=
  match i with
  | .fcvt o => some (o.g, o.d, o.a, fun s a =>
      convert (fmtElem o.fmt2) (fmtElem o.fmt) false (s.rctx o.rnd o.ovf 0) (a.toNat % 2 ^ (fmtElem o.fmt2).width))
  | .icvt o => some (o.g, o.d, o.a, fun s a =>
      convert (fmtElem o.fmt2) (fmtElem o.fmt) o.uns (s.rctx o.rnd false 0) (a.toNat % 2 ^ (fmtElem o.fmt2).width))
  | _ => none

/-- The exact value of a finite number. -/
def FVal.rat (v : FVal) : ℚ :=
  match v with
  | .num neg m e _ => (if neg then -1 else 1) * (m : ℚ) * (2 : ℚ) ^ e
  | _ => 0

/-- FP32 bits that stand for a finite number. -/
def finite32 (x : Nat) : Bool := decide (x < 2 ^ 32) && decide (x / 2 ^ 23 % 256 < 255)

/-- FP32 bits that stand for a NaN, and for one that signals. -/
def nan32 (x : Nat) : Bool := decide (x / 2 ^ 23 % 256 = 255) && decide (x % 2 ^ 23 ≠ 0)
def snan32 (x : Nat) : Bool := nan32 x && decide (x % 2 ^ 23 < 2 ^ 22)
def inf32 (x : Nat) : Bool := decide (x % 2 ^ 31 = 0x7F800000)
def sign32 (x : Nat) : Bool := x.testBit 31

/-- Zero times infinity, of any signs and in either order (04 Table 4.19). -/
def zeroInf32 (x y : Nat) : Bool :=
  (decide (x % 2 ^ 31 = 0) && inf32 y) || (inf32 x && decide (y % 2 ^ 31 = 0))

/-! ### Transfers and traps (02 R22 to R25, 03 R57 to R62) -/

/-- Control passes to a PC whose line is read anew; `src` is what a failed TGT check would name. -/
def State.jumped (s : State) (pc : Word) (src : Option Word) : State :=
  { s with
    cur := { s.cur with pc := pc, lines := [], target := src }
    flow := .jump }

/-- The trap is taken by the user handler (03 R58): delegated, at app, not within a handler, with a
handler whose form is right. -/
def Delegated (s : State) (c : Cause) : Prop :=
  delegable c = true ∧ s.cur.tmask.getLsbD (tmaskBit c) = true ∧ bits s.cur.status 1 0 = 0 ∧
    s.cur.status.getLsbD 4 = false ∧ s.cur.thand ≠ 0 ∧ targetFormFails s.cur.thand = false

/-- The trap is not delegated (03 R58). -/
def ToKernel (s : State) (c : Cause) : Prop :=
  delegable c = false ∨ s.cur.tmask.getLsbD (tmaskBit c) = false ∨ bits s.cur.status 1 0 ≠ 0 ∨
    s.cur.status.getLsbD 4 = true ∨ s.cur.thand = 0

/-- The kernel vector word of the core of the issuing thread. -/
def State.vectorKey (s : State) : Nat := 2 ^ 60 + s.cur.core * 2 ^ 18 + 0x3C000

/-- A kernel handler can be entered (03 R58). -/
def KernelReady (s : State) : Prop :=
  s.cur.status.getLsbD 5 = false ∧ s.mem.tag s.vectorKey = .full ∧
    targetFormFails (s.mem.word s.vectorKey) = false

/-- What every trap leaves as it was: the registers of the window, predicates, masks and memory. -/
def TrapKeeps (s t : State) : Prop :=
  t.cur.l = s.cur.l ∧ t.cur.g = s.cur.g ∧ t.cur.sv = s.cur.sv ∧ t.cur.dv = s.cur.dv ∧
    t.cur.dfull = s.cur.dfull ∧ t.cur.swr = s.cur.swr ∧ t.cur.preds = s.cur.preds ∧
    t.cur.thand = s.cur.thand ∧ t.cur.tmask = s.cur.tmask ∧ t.cur.prio = s.cur.prio ∧
    t.cur.round = s.cur.round ∧ t.cur.convcnt = s.cur.convcnt ∧ t.cur.claim = s.cur.claim ∧
    t.mem = s.mem ∧ t.reqs = s.reqs

/-- The code of a trap in TCAUSE with the mark of a pair's second (03 R57). -/
def causeWord (s : State) (c : Cause) : Word :=
  BitVec.ofNat 64 ((causeCode c).toNat + (if s.second then 2 ^ 7 else 0))

/-- The words of memory that a value of Dn changes as it reaches a thread: those of its frame, where it is saved or
adopts (05 R111, 06 R132). -/
def Thread.fillKeys (t : Thread) (n : Fin 16) : List Nat :=
  match t.frame with
  | some f => if t.life = .saved ∨ t.life = .adopting then
      [f.key + 8, f.key + 8 * (40 + t.win.l + t.win.g + t.win.s + n.val)] else []
  | none => []

/-- Every byte and tag of memory is as before, but for the frame of a member that a value of Sn reaches. -/
def MemKept (s t : State) (n? : Option (Fin 16)) : Prop :=
  ∀ k, (∀ n, n? = some n → ∀ u ∈ s.allThreads, ∀ a ∈ u.fillKeys n, k < a ∨ a + 8 ≤ k) →
    t.mem.byte k = s.mem.byte k ∧ t.mem.tag k = s.mem.tag k

/-- The shared register that a destination names. -/
def sharedDst (d : Dst) : Option (Fin 16) :=
  match d with
  | .s n => some n
  | _ => none

/-- The scalar destination of an instruction that computes it from scalar sources alone. -/
def scalarDst (i : Instr) : Option Dst :=
  match binaryForm i, flaggingForm i, plainForm i, fpForm i, convForm i with
  | some x, _, _, _, _ => some x.d
  | none, some x, _, _, _ => some x.d
  | none, none, some x, _, _ => some x.d
  | none, none, none, some x, _ => some x.d
  | none, none, none, none, some (_, d, _, _) => some d
  | none, none, none, none, none => none

/-! ### Accesses on their way to their homes (07 R134 to R149, 11 Table 11.5, 17 Table 17.7) -/

/-- An access as its entry gives it: guard, checked destination, operands, and what is asked of the home;
`e` is the expected value of CAS. `cFirst` tells that the value operand is read before the address. -/
structure MemForm where
  g : Guard
  d : Dst
  m : MemOp
  e : Option SReg
  c : Option SReg
  cFirst : Bool
  cOk : Word → Bool
  opc : Nat
  align : Nat
  acc : Access
  sc : Scope
  op : Word → Word → HomeOp
  rel : Bool
  acq : Bool
  comp : Option Comp

def acquires (o : Ord) : Bool := o == .acq || o == .acqrel
def releases (o : Ord) : Bool := o == .rel || o == .acqrel

/-- Bytes of a size. -/
def bytesOf (z : Size) : Nat :=
  match z with
  | .b8 => 1
  | .b16 => 2
  | .b32 => 4
  | .b64 => 8

/-- A load-like access: no value operand. -/
def loadForm (g : Guard) (d : Dst) (m : MemOp) (opc align : Nat) (acc : Access) (sc : Scope) (op : HomeOp)
    (acq : Bool) (k : Comp) : Option MemForm :=
  some ⟨g, d, m, none, none, false, fun _ => true, opc, align, acc, sc, fun _ _ => op, false, acq, some k⟩

/-- A store-like access: one value operand. -/
def storeForm (g : Guard) (m : MemOp) (c : SReg) (opc align : Nat) (acc : Access) (sc : Scope)
    (op : Word → HomeOp) (rel : Bool) (k : Option Comp) : Option MemForm :=
  some ⟨g, .zero, m, none, some c, false, fun _ => true, opc, align, acc, sc, fun _ v => op v, rel, false, k⟩

/-- An atomic (07 R148): with DST = ZERO it is posted and acquires nothing. -/
def atomForm (g : Guard) (d : Dst) (m : MemOp) (c : SReg) (z : Size) (ord : Ord) (sc : Scope) (opc : Nat)
    (f : AtomFn) : Option MemForm :=
  some ⟨g, d, m, none, some c, false, fun _ => true, opc, bytesOf z, ⟨2, true, true, false⟩, sc,
    fun _ v => .atom f z v, releases ord, acquires ord && d != .zero, if d = .zero then none else some (.reg d)⟩

/-- A barrier or object instruction. -/
def objForm (g : Guard) (d : Dst) (m : MemOp) (c : Option SReg) (cOk : Word → Bool) (sc : Scope) (opc : Nat)
    (op : Word → ObjOp) (rel : Bool) : Option MemForm :=
  some ⟨g, d, m, none, c, c.isSome, cOk, opc, 8, ⟨3, true, true, false⟩, sc, fun _ v => .obj (op v), rel, false,
    some (.objD d)⟩

def memForm (i : Instr) : Option MemForm :=
  let rd : Access := ⟨0, true, false, false⟩
  let wr : Access := ⟨1, false, true, false⟩
  let tg : Access := ⟨3, true, true, false⟩
  let tr : Access := ⟨3, true, false, false⟩
  let any : Word → Bool := fun _ => true
  match i with
  | .ld o => loadForm o.g o.d o.m 0x50 (bytesOf o.sz) rd o.scope (.read o.sz o.sx) (acquires o.ord) (.reg o.d)
  | .ldp o => loadForm o.g o.d o.m 0x53 8 rd o.scope .readP (acquires o.ord) (.regPred o.d o.pd)
  | .take o => loadForm o.g o.d o.m 0x54 8 tg o.scope .take (acquires o.ord) (.reg o.d)
  | .ldf o => loadForm o.g o.d o.m 0x56 8 tr o.scope .ldf (acquires o.ord) (.reg o.d)
  | .tagr o => loadForm o.g o.d o.m 0x57 8 tr o.scope .tagr (acquires o.ord) (.regTag o.d o.t)
  | .st o => storeForm o.g o.m o.c 0x51 (bytesOf o.sz) wr o.scope (.write o.sz) (releases o.ord) none
  | .stn o => storeForm o.g o.m o.c 0x52 1 wr o.scope (.nib o.nib) (releases o.ord) none
  | .put o => storeForm o.g o.m o.c 0x55 8 tg o.scope .put (releases o.ord) (some .unit)
  | .putWait o => storeForm o.g o.m o.c 0x55 8 tg o.scope .putWait (releases o.ord) (some .unit)
  | .tagw o => storeForm o.g o.m o.c 0x58 8 tg o.scope (.tagw o.nt) (releases o.ord) (some .unit)
  | .aadd o => atomForm o.g o.d o.m o.c o.sz o.ord o.scope 0x5A .add
  | .aand o => atomForm o.g o.d o.m o.c o.sz o.ord o.scope 0x5B .and
  | .aor o => atomForm o.g o.d o.m o.c o.sz o.ord o.scope 0x5C .or
  | .axor o => atomForm o.g o.d o.m o.c o.sz o.ord o.scope 0x5D .xor
  | .amin o => atomForm o.g o.d o.m o.c o.sz o.ord o.scope 0x5E .min
  | .amax o => atomForm o.g o.d o.m o.c o.sz o.ord o.scope 0x5F .max
  | .aminu o => atomForm o.g o.d o.m o.c o.sz o.ord o.scope 0x60 .minu
  | .amaxu o => atomForm o.g o.d o.m o.c o.sz o.ord o.scope 0x61 .maxu
  | .axchg o => atomForm o.g o.d o.m o.c o.sz o.ord o.scope 0x62 .xchg
  | .afadd o => atomForm o.g o.d o.m o.c .b32 o.ord o.scope 0x63 .fadd
  | .cas o => some ⟨o.g, .zero, o.m, some (.l o.d), some o.c, false, any, 0x64, bytesOf o.sz,
      ⟨2, true, true, false⟩, o.scope, fun e v => .cas o.sz e v, releases o.ord, acquires o.ord,
      some (.regPred (.l o.d) o.pd)⟩
  | .bari o => objForm o.g .zero o.m (some o.c) (fun c => decide (1 ≤ c.toNat ∧ c.toNat ≤ 4095)) o.scope 0x70
      (.bari o.drop) false
  | .barr o => objForm o.g o.d o.m none any o.scope 0x71 (fun _ => .barr) true
  | .barw o => objForm o.g o.d o.m none any o.scope 0x72 (fun _ => .barw) true
  | .bwait o => objForm o.g o.d o.m none any o.scope 0x73 (fun _ => .bwait) false
  | .bdrop o => objForm o.g o.d o.m none any o.scope 0x74 (fun _ => .bdrop) false
  | .bpois o => objForm o.g .zero o.m none any o.scope 0x75 (fun _ => .bpois) false
  | .lki o => objForm o.g .zero o.m none any o.scope 0x76 (fun _ => .lki) false
  | .lkacq o => objForm o.g o.d o.m none any o.scope 0x77 (fun _ => .lkacq) false
  | .lktry o => objForm o.g o.d o.m none any o.scope 0x78 (fun _ => .lktry) false
  | .lkrel o => objForm o.g .zero o.m none any o.scope 0x79 (fun _ => .lkrel) true
  | .qi o => objForm o.g .zero o.m (some o.c) any o.scope 0x7A .qi false
  | .qpush o => objForm o.g .zero o.m (some o.c) any o.scope 0x7B .qpush true
  | .qpop o => objForm o.g o.d o.m none any o.scope 0x7C (fun _ => .qpop) false
  | .wreg o => objForm o.g .zero o.m none any o.scope 0x7D (fun _ => .wreg) false
  | .whold o => objForm o.g .zero o.m none any o.scope 0x7E (fun _ => .whold) false
  | .wwait o => objForm o.g o.d o.m (some o.c) any o.scope 0x7F (fun e => .wwait e false) false
  | .wwaitNb o => objForm o.g o.d o.m (some o.c) any o.scope 0x7F (fun e => .wwait e true) false
  | .wdrop o => objForm o.g .zero o.m none any o.scope 0x80 (fun _ => .wdrop) true
  | .wunreg o => objForm o.g .zero o.m none any o.scope 0x81 (fun _ => .wunreg) false
  | .wqry o => match o.sel with
    | .clen => none
    | .cobj => none
    | .cfam => none
    | s => objForm o.g o.d o.m none any o.scope 0x82 (fun _ => .wqry s) false
  | .ofree o => objForm o.g .zero o.m none any o.scope 0x83 (fun _ => .ofree) false
  | _ => none

/-- The operands of an access, read in their order: address, expected value, value. -/
def MemForm.operands (x : MemForm) : M (Word × Word × Word) := do
  if x.cFirst then do
    let c ← readOpt readS x.c
    checkDst x.d
    let a ← memAddr x.m
    pure (a, 0, c)
  else do
    checkDst x.d
    let a ← memAddr x.m
    let e ← readOpt readS x.e
    let c ← readOpt readS x.c
    pure (a, e, c)

/-- What the access asks of its home. -/
def MemForm.ask (x : MemForm) (a e c : Word) : Ask :=
  ⟨x.opc, a, x.align, x.acc, x.sc, x.op e c, x.rel, x.acq⟩

/-- Before it is sent, a releasing access has no error record to raise and closes its phases; another
changes nothing. -/
def Released (k : Ask) (s : State) (held : List PhaseId) (t : State) : Prop :=
  if k.rel = true then s.cur.errRec = none ∧ s.closePhases s.cur.core k.sc = some (held, t)
  else held = [] ∧ t = s

/-- The request leaves the turn: it goes elsewhere than the own window, with room in its channel where it is
posted, or has phases to follow. -/
def Leaves (own posted : Bool) (held : List PhaseId) (s : State) : Prop :=
  own = false ∧ (posted = true → Gives (channelFree .requests) s () s) ∨ own = true ∧ held ≠ []

/-- The thread waits for the completion `c` of its instruction. -/
def State.heldFor (s : State) (reason : Nat) (c : Comp) (acq : Bool) : State :=
  { s with
    cur := { s.cur with life := .waiting, wait := some ⟨reason, some c, acq, 0⟩ }
    flow := .held }

/-- An access is sent (07 R137): its request, in order behind those before it; a posted one in the phase
of its scope while the thread goes on, another, and any release to the own window that has phases to follow, with
the thread waiting for its reply with reason 4. -/
def MemForm.sends (x : MemForm) (i : Instr) : Prop :=
  ∀ (s s1 s2 : State) (a e c : Word) (l : Loc) (own : Bool) (held : List PhaseId),
    s.cur.guardOn x.g = true → s.cur.packet = none → Gives x.operands s (a, e, c) s1 → x.cOk c = true →
    Gives (locate a x.align x.acc x.sc 0) s1 (l, own) s1 →
    Gives (boardCheck a (x.op e c).len (x.op e c).stores) s1 () s1 → Released (x.ask a e c) s1 held s2 →
    (let q := s2.request (x.ask a e c) l x.comp.isNone false 0 held
     Leaves own x.comp.isNone held s1 →
     exec i s = match x.comp, own with
       | some k, _ => .next ({ s2 with reqs := s2.reqs ++ [q] }.heldFor 4 k x.acq)
       | none, true => .next ({ s2 with reqs := s2.reqs ++ [q] }.heldFor 4 .unit x.acq)
       | none, false =>
         let p := s2.countSent q.src q.scope (s2.termOf q.loc q.scope)
         .next ({ p.2 with reqs := p.2.reqs ++ [{ q with phase := some p.1 }] }.finished .seq))

/-- An access to the own window completes in the turn (07 R137): its bank is free or lost three times
before, the home performs it, and what it completes is written. -/
def MemForm.ownWindow (x : MemForm) (i : Instr) : Prop :=
  ∀ (s s1 s2 s3 t : State) (a e c v0 v1 : Word) (l : Loc) (fl : Flow),
    s.cur.guardOn x.g = true → Gives x.operands s (a, e, c) s1 → x.cOk c = true →
    Gives (locate a x.align x.acc x.sc 0) s1 (l, true) s1 →
    Gives (boardCheck a (x.op e c).len (x.op e c).stores) s1 () s1 → Released (x.ask a e c) s1 [] s2 →
    (let q := s2.request (x.ask a e c) l x.comp.isNone false 0 []
     s2.wordPending q = false →
     ((s2.core s2.cur.core).bankUsed.getLsbD (bankOf l) = false ∨ 3 ≤ s2.cur.forfeits) →
     s2.performOne q = (.done (.ok v0 v1), s3) →
     match x.comp with
     | none => exec i s = .next (s3.finished .seq)
     | some k => Gives (finish k v0 v1 x.acq) s3 fl t → exec i s = .next (t.finished fl))

/-- An access whose address is not a multiple of its alignment traps MISALIGNED with the address and the
kind, and has no effect (07 R135). -/
def MemForm.misaligned (x : MemForm) (i : Instr) : Prop :=
  ∀ (s s1 : State) (a e c : Word), s.cur.guardOn x.g = true → Gives x.operands s (a, e, c) s1 → x.cOk c = true →
    a.toNat % x.align ≠ 0 →
    exec i s = .next (s1.takeTrap .misaligned (some a) (some (BitVec.ofNat 64 x.acc.kind.toNat)))

/-! ### Tags and data at the home (06 Table 6.3, 07 Table 7.4) -/

/-- The trap of Table 6.3 for an operation on a word with a tag; none where it has an effect. -/
def tagTrap (op : HomeOp) (t : Tag) : Option Cause :=
  match op, t with
  | .read _ _, .empty => some .tagMisuse
  | .read _ _, .object => some .tagMisuse
  | .read _ _, .poison => some .poisonRead
  | .readP, .empty => some .tagMisuse
  | .readP, .object => some .tagMisuse
  | .write _ _, .empty => some .tagMisuse
  | .write _ _, .object => some .objectStore
  | .write n _, .poison => if n = .b64 then none else some .poisonRead
  | .nib _ _, .empty => some .tagMisuse
  | .nib _ _, .object => some .objectStore
  | .nib _ _, .poison => some .poisonRead
  | .atom _ _ _, .empty => some .tagMisuse
  | .atom _ _ _, .object => some .objectStore
  | .atom _ _ _, .poison => some .poisonRead
  | .cas _ _ _, .empty => some .tagMisuse
  | .cas _ _ _, .object => some .objectStore
  | .cas _ _ _, .poison => some .poisonRead
  | .take, .object => some .tagMisuse
  | .take, .poison => some .poisonRead
  | .ldf, .object => some .tagMisuse
  | .ldf, .poison => some .poisonRead
  | .put _, .full => some .doublePut
  | .put _, .object => some .tagMisuse
  | .put _, .poison => some .tagMisuse
  | .putWait _, .object => some .tagMisuse
  | .putWait _, .poison => some .tagMisuse
  | _, _ => none

/-- The function of an atomic on numbers of `n` bits (07 Table 7.4), AFADD apart. -/
def atomResult (f : AtomFn) (n old x : Nat) : Option Nat :=
  let sg (v : Nat) : Int := if v < 2 ^ (n - 1) then (v : Int) else (v : Int) - 2 ^ n
  match f with
  | .add => some ((old + x) % 2 ^ n)
  | .and => some (old &&& x)
  | .or => some (old ||| x)
  | .xor => some (old ^^^ x)
  | .min => some (if sg old ≤ sg x then old else x)
  | .max => some (if sg x ≤ sg old then old else x)
  | .minu => some (min old x)
  | .maxu => some (max old x)
  | .xchg => some x
  | .fadd => none

/-! ### Copies (13 R251) -/

/-- The instructions that issue a copy, with the number of their opcode. -/
def copyOp (i : Instr) : Option (OpDM × Nat) :=
  match i with
  | .copy o => some (o, 0x88)
  | .copyt o => some (o, 0x89)
  | .gath o => some (o, 0x8A)
  | .pack o => some (o, 0x8B)
  | .unpack o => some (o, 0x8C)
  | _ => none

/-! ### Vector instructions (09 R179 to R201, 10 R204 to R212) -/

/-- An instruction whose destination is a V register and whose element `j` is `f`, an inactive element
being kept or set to 0 (09 R180). -/
structure VForm where
  g : Guard
  vd : VNo
  w : Nat
  mask : Option VMask
  conv : Bool
  f : State → Claim → Nat → Rounded

/-- An exact integer as an element: wrapped, or clamped with OF (09 R193). -/
def intResult (w : Nat) (uns ovf : Bool) (v : Int) : Rounded :=
  let lo : Int := if uns then 0 else -2 ^ (w - 1)
  let hi : Int := if uns then 2 ^ w - 1 else 2 ^ (w - 1) - 1
  if ovf then ⟨(v % 2 ^ w).toNat, 0⟩
  else ⟨(max lo (min hi v) % 2 ^ w).toNat, if lo ≤ v ∧ v ≤ hi then 0 else flagOF⟩

/-- An element as a number. -/
def elemInt (w : Nat) (uns : Bool) (x : Nat) : Int :=
  if uns = true ∨ x < 2 ^ (w - 1) then (x : Int) else (x : Int) - 2 ^ w

/-- The functions of Table 9.6 of two elements: for integers over numbers, for floats rounded once. -/
def aluForm (o : OpVAlu) (conv : Bool) (fi : Nat → Nat → Nat → Rounded)
    (ff : NFmt → RCtx → Nat → Nat → Rounded) : Option VForm :=
  let w := laneWidth o.fmt
  some ⟨o.g, o.vd, w, o.mask, conv && !isIntFmt o.fmt, fun s c j =>
    let x := elemOf (c.vreg o.va) w j
    let y := c.src o.y w o.uns j
    if isIntFmt o.fmt then fi w x y else ff (fmtElem o.fmt) (s.rctx o.rnd o.ovf j) x y⟩

def intAlu (o : OpVAlu) (f : Int → Int → Int) (w x y : Nat) : Rounded :=
  intResult w o.uns o.ovf (f (elemInt w o.uns x) (elemInt w o.uns y))

/-- A function that floats lack leaves them as they are; no such word decodes (09 Table 9.5). -/
def noFloat (_ : NFmt) (_ : RCtx) (x _ : Nat) : Rounded := ⟨x, 0⟩

/-- A special function of one element, rounded once (09 R200). -/
def specForm (o : OpVSpec) (f : SpecFn) : Option VForm :=
  let w := laneWidth o.fmt
  some ⟨o.g, o.vd, w, o.mask, true, fun s c j => roundRes (fmtElem o.fmt) (s.rctx o.rnd o.ovf j)
    (specVal f (decodeElem (fmtElem o.fmt) false (elemOf (c.vreg o.va) w j)))⟩

def vecForm (i : Instr) : Option VForm :=
  match i with
  | .vadd o => aluForm o true (intAlu o fun x y => x + y) fun e c x y =>
      roundRes e c (addVal c (decodeElem e false x) (decodeElem e false y))
  | .vsub o => aluForm o true (intAlu o fun x y => x - y) fun e c x y =>
      roundRes e c (addVal c (decodeElem e false x) (decodeElem e false y).negate)
  | .vmul o => aluForm o true (intAlu o fun x y => x * y) fun e c x y =>
      roundRes e c (mulVal (decodeElem e false x) (decodeElem e false y))
  | .vmin o => aluForm o false (fun w x y => ⟨if elemInt w o.uns x ≤ elemInt w o.uns y then x else y, 0⟩)
      fun e _ x y => minmaxVal e false x y
  | .vmax o => aluForm o false (fun w x y => ⟨if elemInt w o.uns y ≤ elemInt w o.uns x then x else y, 0⟩)
      fun e _ x y => minmaxVal e true x y
  | .vand o => aluForm o false (fun _ x y => ⟨x &&& y, 0⟩) noFloat
  | .vor o => aluForm o false (fun _ x y => ⟨x ||| y, 0⟩) noFloat
  | .vxor o => aluForm o false (fun _ x y => ⟨x ^^^ y, 0⟩) noFloat
  | .vshl o => aluForm o false (fun w x y => ⟨x * 2 ^ (y % w), 0⟩) noFloat
  | .vshr o => aluForm o false (fun w x y => ⟨x / 2 ^ (y % w), 0⟩) noFloat
  | .vsar o => aluForm o false (fun w x y => ⟨(elemInt w false x / 2 ^ (y % w) % 2 ^ w).toNat, 0⟩) noFloat
  | .vfma o =>
    let w := laneWidth o.fmt
    some ⟨o.g, o.vd, w, o.mask, !isIntFmt o.fmt, fun s c j =>
      let x := elemOf (c.vreg o.va) w j
      let y := c.src o.y w o.uns j
      let z := elemOf (c.vreg o.vc) w j
      if isIntFmt o.fmt then
        intResult w o.uns o.ovf (elemInt w o.uns x * elemInt w o.uns y + elemInt w o.uns z)
      else
        let e := fmtElem o.fmt
        let k := s.rctx o.rnd o.ovf j
        roundRes e k (fmaVal k (decodeElem e false x) (decodeElem e false y) (decodeElem e false z))⟩
  | .vabs o =>
    let w := laneWidth o.fmt
    some ⟨o.g, o.vd, w, o.mask, false, fun _ c j =>
      let x := elemOf (c.vreg o.va) w j
      if isIntFmt o.fmt then intResult w o.uns o.ovf (elemInt w o.uns x).natAbs
      else if (decodeElem (fmtElem o.fmt) false x).isNan
        then ⟨(fmtElem o.fmt).nan, snanFlag (decodeElem (fmtElem o.fmt) false x)⟩
      else ⟨x % 2 ^ (w - 1), 0⟩⟩
  | .vsel o =>
    let w := laneWidth o.fmt
    some ⟨o.g, o.vd, w, o.mask, false, fun _ c j =>
      ⟨if maskBit (c.kreg o.kc) w j then elemOf (c.vreg o.va) w j else c.src o.y w false j, 0⟩⟩
  | .vcvt o =>
    let ws := laneWidth o.fmt2
    let wd := laneWidth o.fmt
    some ⟨o.g, o.vd, wd, o.mask, true, fun s c j =>
      let n := c.grant * 64 / max ws wd
      let p := o.part.toNat
      let from_ (i : Nat) : Rounded := convert (fmtElem o.fmt2) (fmtElem o.fmt) o.uns (s.rctx o.rnd o.ovf j)
        (elemOf (c.vreg o.va) ws i)
      if ws ≤ wd then from_ (p * n + j)
      else if p * n ≤ j ∧ j < (p + 1) * n then from_ (j - p * n)
      else ⟨elemOf (c.vreg o.vd) wd j, 0⟩⟩
  | .vperm o =>
    let w := laneWidth o.fmt
    some ⟨o.g, o.vd, w, o.mask, false, fun _ c j =>
      let t := elemOf (c.vreg o.vi) w j
      ⟨if t < c.count w then elemOf (c.vreg o.va) w t else 0, 0⟩⟩
  | .vexp2 o => specForm o .exp2
  | .vlog2 o => specForm o .log2
  | .vrcp o => specForm o .rcp
  | .vrsq o => specForm o .rsq
  | .vsqrt o => specForm o .sqrt
  | .vtanh o => specForm o .tanh
  | .vsigm o => specForm o .sigm
  | _ => none

/-- Element `j` of a destination: `x` where it is active, else kept or 0 (09 R180). -/
def Claim.elemAfter (c : Claim) (old : List Word) (w : Nat) (m : Option VMask) (j x : Nat) : Nat :=
  if c.active (maskOf m) w j then x % 2 ^ w else if zeroing m then 0 else elemOf old w j

/-- The claim `d` is `c` but for register `vd`. -/
def OnlyV (vd : VNo) (c d : Claim) : Prop := { d with v := d.v.set vd.val (c.vreg vd) } = c

/-- A vector instruction that reads no scalar completes within its turn (09 R184): every element of its
destination is as its form gives it, the flags of the active elements are raised, and nothing else
changes. -/
def VForm.completes (x : VForm) (i : Instr) : Prop :=
  ∀ (s : State) (c : Claim), s.cur.guardOn x.g = true → s.cur.claim = some c → c.grant ≠ 0 →
    ∃ d fl, exec i s = .next (((if x.conv then s.counted else s).flagged fl |>.updCur fun t =>
        { t with claim := some d }).finished .seq) ∧
      OnlyV x.vd c d ∧ (d.vreg x.vd).length = c.grant ∧
      (∀ j, j < c.grant * (64 / x.w) → elemOf (d.vreg x.vd) x.w j =
        c.elemAfter (c.vreg x.vd) x.w x.mask j (x.f s c j).bits) ∧
      (∀ b, fl.getLsbD b = true ↔ ∃ j, j < c.grant * (64 / x.w) ∧ c.active (maskOf x.mask) x.w j = true ∧
        (x.f s c j).flags.getLsbD b = true)

/-! ### The vector pool (09 R174 to R176) -/

/-- No thread of the pool of the issuing thread waits for lanes. -/
def PoolIdle (s : State) : Prop := ∀ t ∈ s.poolThreads (s.poolGroup s.cur.core), t.waitsLanes = false

/-- `t` is `s` but for wait-for edges, the counts of their tables, and effective priorities. -/
def EdgesMoved (s t : State) : Prop :=
  ∃ es ds th e, t = { s with edges := es, dies := ds, threads := th, cur := { s.cur with eprio := e } }

/-- The issuing thread has the claim `c` and no request for lanes. -/
def State.claimed (s : State) (c : Option Claim) : State :=
  s.updCur fun t => { t with claim := c, laneRes := none, laneReq := none }

/-- The largest count of lanes that is at most `most`. -/
def FitLanes (n most : Nat) : Prop := n ∈ [4, 8, 16, 32, 64] ∧ n ≤ most ∧ (n = 64 ∨ most < 2 * n)

/-! ### Modular lanes (10 R204 to R211) -/

/-- A modular element operation: what its result `r` below q satisfies, of x, y, the old element d, q and
R = 2^w. -/
structure ModForm where
  g : Guard
  vd : VNo
  va : VNo
  y : VSrc
  w64 : Bool
  qs : Fin 4
  mask : Option VMask
  useW : Bool
  ok : Int → Int → Int → Int → Int → Int → Prop

def modForm2 (o : OpVM2) (useW : Bool) (ok : Int → Int → Int → Int → Int → Int → Prop) : Option ModForm :=
  some ⟨o.g, o.vd, o.va, o.y, o.w64, o.qs, o.mask, useW, ok⟩

def modForm1 (o : OpVM1) (useW : Bool) (ok : Int → Int → Int → Int → Prop) : Option ModForm :=
  some ⟨o.g, o.vd, o.va, .lit 0, o.w64, o.qs, o.mask, useW, fun r x _ _ q rr => ok r x q rr⟩

def modForm (i : Instr) : Option ModForm :=
  match i with
  | .vmadd o => modForm2 o false fun r x y _ q _ => r = (x + y) % q
  | .vmsub o => modForm2 o false fun r x y _ q _ => r = (x - y) % q
  | .vmmul o => modForm2 o true fun r x y _ q rr => r * rr % q = x * y % q
  | .vmmac o => modForm2 o true fun r x y d q rr => r * rr % q = (d * rr + x * y) % q
  | .vmneg o => modForm1 o false fun r x q _ => r = -x % q
  | .vmred o => modForm1 o false fun r x q _ => r = x % q
  | .vmto o => modForm1 o false fun r x q rr => r = x * rr % q
  | .vmfrom o => modForm1 o true fun r x q rr => r * rr % q = x % q
  | _ => none

/-- A valid modulus, and one whose W register is right (10 R203, Table 10.1). -/
def GoodModulus (c : Claim) (w : Nat) (n : Fin 4) (useW : Bool) (j : Nat) : Prop :=
  let q := elemOf c.q[n] w j
  q % 2 = 1 ∧ 3 ≤ q ∧ q < 2 ^ (w - 2) ∧ (useW = true → (q * elemOf c.w[n] w j + 1) % 2 ^ w = 0)

/-- A modular operation completes within its turn where the moduli of its active elements are valid:
each result is below its modulus and satisfies its rule. -/
def ModForm.completes (x : ModForm) (i : Instr) : Prop :=
  ∀ (s : State) (c : Claim), s.cur.guardOn x.g = true → s.cur.claim = some c → c.grant ≠ 0 →
    let w := if x.w64 then 64 else 32
    (∀ j, j < c.grant * (64 / w) → c.active (maskOf x.mask) w j = true → GoodModulus c w x.qs x.useW j) →
    ∃ d, exec i s = .next ((s.updCur fun t => { t with claim := some d }).finished .seq) ∧ OnlyV x.vd c d ∧
      (∀ j, j < c.grant * (64 / w) → c.active (maskOf x.mask) w j = true →
        elemOf (d.vreg x.vd) w j < elemOf c.q[x.qs] w j ∧
        x.ok (elemOf (d.vreg x.vd) w j) (elemOf (c.vreg x.va) w j) (c.src x.y w true j)
          (elemOf (c.vreg x.vd) w j) (elemOf c.q[x.qs] w j) (2 ^ w)) ∧
      (∀ j, j < c.grant * (64 / w) → c.active (maskOf x.mask) w j = false →
        elemOf (d.vreg x.vd) w j = if zeroing x.mask then 0 else elemOf (c.vreg x.vd) w j)

/-- Top and bottom of a butterfly on x, y and the factor z below a modulus q (10 R210). -/
def Butterfly (inv : Bool) (w : Nat) (x y z q top bot : Nat) : Prop :=
  top < q ∧ bot < q ∧
    if inv then top = (x + y) % q ∧ (bot : Int) * 2 ^ w % q = z * ((x : Int) - y) % q
    else ∃ t : Nat, t < q ∧ t * 2 ^ w % q = z * y % q ∧ top = (x + t) % q ∧ (bot : Int) = ((x : Int) - t) % q

/-! ### Vector loads and stores (09 R188 to R190) -/

/-- A vector access as its entry gives it: register, size, order, scope, mask, whether it loads, its
operands, and the address of each element. -/
structure VMemForm where
  g : Guard
  v : VNo
  sz : Size
  ord : Ord
  scope : Scope
  mask : Option VMask
  load : Bool
  ops : M (Word × Word)
  addr : Claim → Word → Word → Nat → Word

/-- Base and offset, with a stride register where there is one. -/
def baseAnd (a : SReg) (off : BitVec 32) (c : Option SReg) : M (Word × Word) := do
  let b ← readS a
  let st ← readOpt readS c
  pure (b + off.signExtend 64, st)

def vmemForm (i : Instr) : Option VMemForm :=
  let keep (m : Option KNo) : Option VMask := m.map fun k => ⟨k, false⟩
  let unit (z : Size) (_ : Claim) (a _ : Word) (j : Nat) : Word := a + BitVec.ofNat 64 (j * bytesOf z)
  let stride (_ : Claim) (a st : Word) (j : Nat) : Word := BitVec.ofNat 64 (a.toNat + j * st.toNat)
  let index (vi : VNo) (z : Size) (uns : Bool) (c : Claim) (a _ : Word) (j : Nat) : Word :=
    BitVec.ofInt 64 (a.toNat + elemInt (8 * bytesOf z) uns (elemOf (c.vreg vi) (8 * bytesOf z) j) * bytesOf z)
  match i with
  | .vld o => some ⟨o.g, o.v, o.sz, o.ord, o.scope, o.mask, true, baseAnd o.a o.off none, unit o.sz⟩
  | .vst o => some ⟨o.g, o.v, o.sz, o.ord, o.scope, keep o.mask, false, baseAnd o.a o.off none, unit o.sz⟩
  | .vlds o => some ⟨o.g, o.v, o.sz, o.ord, o.scope, o.mask, true, baseAnd o.a o.off (some o.c), stride⟩
  | .vsts o => some ⟨o.g, o.v, o.sz, o.ord, o.scope, keep o.mask, false, baseAnd o.a o.off (some o.c), stride⟩
  | .vgath o => some ⟨o.g, o.v, o.sz, o.ord, o.scope, o.mask, true, baseAnd o.a 0 none, index o.vi o.sz o.uns⟩
  | .vscat o => some ⟨o.g, o.v, o.sz, o.ord, o.scope, keep o.mask, false, baseAnd o.a 0 none,
      index o.vi o.sz o.uns⟩
  | _ => none

/-- The active ordinals, rising. -/
def Claim.actives? (c : Claim) (m : Option VMask) (w : Nat) : List Nat :=
  (List.range (c.grant * (64 / w))).filter fun j => c.active (maskOf m) w j

/-- A vector access with a claim: the first misaligned active element traps MISALIGNED with its address,
kind and ordinal; where every one is aligned, located and free of the scoreboard, the elements leave as
requests in rising order, loads returning and stores posted with the data of the register, behind the
phases that a release closes, and no byte of memory changes yet; a load of no element completes at once. Stores
outside the own scratchpad need room in the requests channel. -/
def VMemForm.sends (x : VMemForm) (i : Instr) : Prop :=
  ∀ (s s1 : State) (a st : Word) (c : Claim), s.cur.guardOn x.g = true → s.cur.claim = some c →
    Gives x.ops s (a, st) s1 → s1.cur.claim = some c → c.grant ≠ 0 →
    let n := bytesOf x.sz
    let w := 8 * n
    let act := c.actives? x.mask w
    let f := x.addr c a st
    let acc : Access := if x.load then ⟨0, true, false, false⟩ else ⟨1, false, true, false⟩
    let es : List VElem := act.map fun j => ⟨j, f j⟩
    (∀ j, act.find? (fun j => (f j).toNat % n != 0) = some j →
      exec i s = .next (s1.takeTrap .misaligned (some (f j))
        (some (BitVec.ofNat 64 ((if x.load then 0 else 1) + j * 2 ^ 8))))) ∧
    ((∀ j ∈ act, (f j).toNat % n = 0) → ∀ ls, Gives (vecLocate acc n x.scope es) s1 ls s1 → ls.length = act.length →
      Gives (vecBoard n (!x.load) es) s1 () s1 →
      (x.load = true → act = [] → ∃ d, OnlyV x.v c d ∧
        (∀ j, j < c.grant * (64 / w) → elemOf (d.vreg x.v) w j = c.elemAfter (c.vreg x.v) w x.mask j 0) ∧
        exec i s = .next ((s1.updCur fun t => { t with
          claim := some d, lines := if acquires x.ord then [] else t.lines }).finished .seq)) ∧
      (x.load = true → act ≠ [] → s.cur.packet = none → ∃ qs : List Req,
        exec i s = .next ({ s1 with reqs := s1.reqs ++ qs }.heldFor 4 (.vload x.v x.sz x.mask act.length [])
          (acquires x.ord)) ∧
        qs.map (·.elem) = act ∧ qs.map (·.va) = act.map f ∧ qs.map (·.loc) = ls.map (·.2) ∧
        ∀ q ∈ qs, q.tid = s1.cur.tid ∧ q.op = .read x.sz false ∧ q.posted = false ∧ q.scope = x.scope) ∧
      (x.load = false → (ls.any (fun l => l.2.far s1.cur.core) = true → Gives (channelFree .requests) s1 () s1) →
        ∀ (held : List PhaseId) (s2 : State),
        (if releases x.ord then s1.cur.errRec = none ∧ s1.closePhases s1.cur.core x.scope = some (held, s2)
          else held = [] ∧ s2 = s1) → ∃ (t : State) (qs : List Req), exec i s = .next t ∧ t.flow = .seq ∧
        t.reqs = s2.reqs ++ qs ∧ qs.map (·.elem) = act ∧ qs.map (·.va) = act.map f ∧
        qs.map (·.loc) = ls.map (·.2) ∧
        qs.map (·.op) = act.map (fun j => .write x.sz (BitVec.ofNat 64 (elemOf (c.vreg x.v) w j))) ∧
        (∀ q ∈ qs, q.tid = s1.cur.tid ∧ q.posted = true ∧ q.scope = x.scope ∧ q.phase.isSome = true ∧
          q.held = held) ∧
        t.mem = s1.mem ∧ t.cur.l = s1.cur.l ∧ t.cur.claim = some c))

end Sys2Proof.Machine
end

