-- ==== Sys2Proof/Certificates/Slice0/Obligations.lean ====
section
/-! DEFINITION. The statements for the provers. A statement of an instruction's result says that it answers
a next state, and which, for every state and operands that meet its hypotheses; `Gives c s v t` reads: the
computation c at s answers v and leaves t. Where a statement rests on a choice of the model, its docstring
names the log entry. -/

open Sys2Proof Sys2Proof.Machine

/-! ### Encoding -/

/-- Words written out from the encodings of the spec decode to what they stand for (its worked
examples: 04 R63 and Table 4.8, 05 Table 5.6, 07 R141, 09 R190, 11 Table 11.5, 13 R255, 16 R321, 17 R335,
20 R396). -/
def Obligations.SpecWordsDecode : Prop :=
  decode 0x2E002000000000C040000000 = some (.shl ⟨⟨0, false⟩, .l 1, .l 0, .lit 3⟩) ∧
  decode 0x200078000000008000000000 = some (.add ⟨⟨0, false⟩, .l 3, .d 0, .reg (.l 2)⟩) ∧
  decode 0x430043400000044040000000 = some (.cmp ⟨⟨0, false⟩, 2, .l 13, .lit 17, .set, .eq⟩) ∧
  decode 0x022000000000008040000000 = some (.br ⟨⟨2, false⟩, 2⟩) ∧
  decode 0x070000000000000000000000 = some (.exit ⟨⟨0, false⟩⟩) ∧
  decode 0x090000000000020040000001 = some (.fset ⟨⟨0, false⟩, .limit, .lit 8⟩) ∧
  decode 0x5100100000001205E8000003 =
    some (.st ⟨⟨0, false⟩, ⟨.g 0, .lit 72⟩, .l 11, .b64, .rel, .dev⟩) ∧
  decode 0x6400608000000020E0000103 =
    some (.cas ⟨⟨0, false⟩, 3, ⟨.l 2, .lit 0⟩, .g 1, 1, .b64, .rlx, .dev⟩) ∧
  decode 0x980120000001010040000000 = some (.vclaim ⟨⟨0, false⟩, .l 9, .lit 0x404⟩) ∧
  decode 0xD90000000000004000300040 = some (.vbfly ⟨⟨0, false⟩, 0, 0, 1, 2, true, 0, none⟩) ∧
  decode 0x7000008000000001D0000001 = some (.bari ⟨⟨0, false⟩, ⟨.l 2, .lit 0⟩, .l 3, true, .clu⟩) ∧
  decode 0xE600010000000002C0000003 = some (.tmma ⟨⟨0, false⟩, ⟨.l 4, .lit 0⟩, .l 5, 3⟩) ∧
  decode 0x8800C0800000100040000000 = some (.copy ⟨⟨0, false⟩, .l 6, ⟨.l 2, .lit 64⟩⟩) ∧
  decode 0xF10000C00000010280000002 = some (.nred ⟨⟨0, false⟩, .l 3, .reg (.l 4), .l 5, 2⟩) ∧
  decode 0xF40001000000154040000003 = some (.tracew ⟨⟨0, false⟩, .l 4, .lit 0x55, 3⟩)

/-- Decoding the word that the encoder makes of a well-formed instruction gives the instruction back,
whatever its operands. An event row has no word. -/
def Obligations.DecodeOfEncode : Prop :=
  ∀ i : Instr, i.wf = true → (guardOf i).isSome = true → ∃ w : IWord, encode i = some w ∧ decode w = some i

/-- Every word that decodes is the one word of its instruction, and its instruction is well-formed:
no reserved bit is ignored. -/
def Obligations.EncodeOfDecode : Prop :=
  ∀ (w : IWord) (i : Instr), decode w = some i → i.wf = true ∧ encode i = some w

/-! ### A step -/

/-- A turn runs the instruction that the word at the PC decodes to: the thread that is checked out,
with its line at hand and the checks of Table 2.13 passed, no pair and no breakpoint, issues exactly
that instruction; then the boundary is settled. -/
def Obligations.StepRunsTheDecodedInstruction : Prop :=
  ∀ (s : State) (h : HeldLine) (i : Instr), s.busy = true → s.cur.dlPend = none → s.cur.half = none →
    s.cur.lineAt (lineAddr s.cur.pc) = some h →
    lineFirst (lineWord h.bits) (bits s.cur.pc 2 0) = false →
    lineCheck s.cur h [bits s.cur.pc 2 0] = none →
    decodeIn s.cur.win (lineSlot h.bits (bits s.cur.pc 2 0)) = .ok i →
    s.featFails (Fields.unpack (lineSlot h.bits (bits s.cur.pc 2 0))) = none →
    privFails s.cur (Fields.unpack (lineSlot h.bits (bits s.cur.pc 2 0))) = false →
    s.breakpoints [s.cur.pc] = (none, s) →
    ∃ t, exec i s.noteIssued = .next t ∧ step s = .next t.boundary

/-- A pair runs its first instruction, then its second in the state that the first left (02 R38): where
neither waits, both have issued in one turn. The second is tried alone first: what it passes at its issue is
kept for it. -/
def Obligations.StepRunsAPairInOrder : Prop :=
  ∀ (s : State) (h : HeldLine) (a b : Instr) (p s1 t u : State), s.busy = true → s.cur.dlPend = none →
    s.cur.half = none → s.cur.lineAt (lineAddr s.cur.pc) = some h →
    lineFirst (lineWord h.bits) (bits s.cur.pc 2 0) = true →
    lineCheck s.cur h [bits s.cur.pc 2 0, bits s.cur.pc 2 0 + 1] = none →
    s.checkWord (lineSlot h.bits (bits s.cur.pc 2 0)) = .ok a →
    s.checkWord (lineSlot h.bits (bits s.cur.pc 2 0 + 1)) = .ok b →
    pairOk (Fields.unpack (lineSlot h.bits (bits s.cur.pc 2 0))).op.toNat
      (Fields.unpack (lineSlot h.bits (bits s.cur.pc 2 0 + 1))).op.toNat a b = true →
    s.lineReady = true → s.breakpoints (issuePcs s.cur) = (none, s) →
    exec b s.noteIssued = .next p → p.flow.reissues = false →
    (if p.flow = .trapped then s1 = s.noteIssued else s.noteIssued.reserveSecond b p.cur = .ok s1) →
    exec a s1 = .next t → t.flow = .seq →
    exec b { t.updCur (fun x => { x with half := none, halfDone := true }) with second := true } = .next u →
    u.flow = .seq → step s = .next u.boundary

/-- While no thread issues, a thread whose wait for its line, its board or a page has ended goes on with the
instruction that it holds; with none, a step is the event at the head of the agenda; and every step of the machine
answers a next state: no instruction and no event stops it. The agenda is the model's own (log 4). -/
def Obligations.StepsRunTheAgendaAndAlwaysAnswer : Prop :=
  (∀ (s : State) (t : Thread), s.busy = false → s.dueThread = some t →
     t.life = .waiting ∧ t.holds = true ∧ t.wait = none ∧ step s = step (s.checkOut t false)) ∧
  (∀ (s : State) (i : Instr) (r : List Instr), s.busy = false → s.dueThread = none → s.agenda = i :: r →
     guardOf i = none → step s = exec i { s with agenda := r }) ∧
  (∀ s : State, ∃ t, step s = .next t)

/-- With guard 0 an instruction of any kind changes nothing: the turn is used and the PC is one slot
on. -/
def Obligations.GuardZeroHasNoEffect : Prop :=
  ∀ (i : Instr) (g : Guard) (s : State), guardOf i = some g →
    ((g.pr.val = 0 || s.cur.preds.getLsbD g.pr.val) != g.pn) = false →
    exec i s = .next (s.finished .seq)

/-! ### Registers (02 R27, R28, 03 R48 to R50, 11 R214, R215) -/

/-- What a scalar source reads, form by form: a local, global, shared or dependent register, ZERO,
INDEX; an empty dependent register suspends, and the register read, Dn for an Sn not yet written, traps REGISTER_ECC
where it has an error mark, which counts as an error of its core. RX and RXH wait with reason 10 where there is no
packet to take; RXH gives the header of the packet, its length and whether a flit of it is poisoned, and RX the next
flit; both bind the packet to the thread, which the closing flit ends; a poisoned flit traps POISON_READ with the
header and its position, which counts from 0 (log 95). -/
def Obligations.SourcesReadTheirRegisters : Prop :=
  ∀ (s : State) (r : SReg),
    let named : SReg := match r with
      | .s n => if s.cur.swr.getLsbD n.val then .s n else .d n
      | r => r
    let header (p : Packet) (psn : Bool) : Word :=
      BitVec.ofNat 64 (p.header.toNat + 2 ^ 48 * p.flits.length + (if psn then 2 ^ 63 else 0))
    (s.cur.ecc.contains named.code.toNat = true →
      readS r s = .error (.trap .registerEcc (some (named.code.setWidth 64)) (some 0) (s.countErrors s.cur.core 1))) ∧
    (s.cur.ecc.contains named.code.toNat = false →
      match r with
      | .l n => Gives (readS r) s s.cur.l[n] s
      | .g n => Gives (readS r) s s.cur.g[n] s
      | .zero => Gives (readS r) s 0 s
      | .index => Gives (readS r) s s.cur.index s
      | .d n => if s.cur.dfull.getLsbD n.val then Gives (readS r) s s.cur.dv[n] s
          else readS r s = .error (.wait 3 n.val .nil)
      | .s n => if s.cur.swr.getLsbD n.val then Gives (readS r) s s.cur.sv[n] s
          else if s.cur.dfull.getLsbD n.val then Gives (readS r) s s.cur.dv[n] s
          else readS r s = .error (.wait 3 n.val .nil)
      | .rx => match s.rxPacket s.cur with
        | none => readS r s = .error (.wait 10 0 .nil)
        | some p =>
          let Taken (t : State) : Prop := t.cur.l = s.cur.l ∧ t.cur.g = s.cur.g ∧ t.mem = s.mem ∧
            (p.taken + 1 < p.flits.length → t.cur.rxBound = some (p.queue, p.id) ∧
              ∀ q ∈ (t.core s.cur.core).packets, q.id = p.id → q.taken = p.taken + 1) ∧
            (p.flits.length ≤ p.taken + 1 → t.cur.rxBound = none ∧
              ∀ q ∈ (t.core s.cur.core).packets, q.id ≠ p.id)
          (∀ v, p.flits.getD p.taken (0, false) = (v, false) → ∃ t, Gives (readS r) s v t ∧ Taken t) ∧
          (∀ v, p.flits.getD p.taken (0, false) = (v, true) → ∃ t, readS r s =
            .error (.trap .poisonRead (some (header p true)) (some (BitVec.ofNat 64 p.taken)) t) ∧ Taken t)
      | .rxh => match s.rxPacket s.cur with
        | none => readS r s = .error (.wait 10 0 .nil)
        | some p => ∃ t, Gives (readS r) s (header p (p.flits.any (·.2))) t ∧ t.cur.rxBound = some (p.queue, p.id) ∧
          t.cur.l = s.cur.l ∧ t.cur.g = s.cur.g ∧ t.mem = s.mem ∧
          ∀ q ∈ (t.core s.cur.core).packets, q.id = p.id → q.bound = some s.cur.tid)

/-- A register of the window takes the value written and ZERO discards it, while everything else stays but
the error mark that the write clears. The first write of Sn keeps the value and marks it written; a second
traps DOUBLE_SHARED_WRITE before the instruction has any effect; memory changes at most in the frame of a saved
member that the value reaches. The send ports in the wrong state of the packet trap PACKET_OPEN: TXH within a packet,
TX and TXE outside one, a 32nd flit by TX. A header with a reserved bit, or that names no enabled core of a package of
the system domain, traps ACCESS, and any other opens a packet without a flit (how many cores another package enables:
log 79). A flit leaves
where the messages channel is free, with the thread held until its packet is accepted where TXE closes it; where the
channel is stopped the instruction waits with reason 11 (what stops it: log 72). -/
def Obligations.DestinationsAreWritten : Prop :=
  (∀ (s : State) (v : Word),
     (∀ n : Fin 64, ∃ t, Gives (writeD (.l n) v) s .seq t ∧ t.cur.l[n] = v ∧
       (∀ m : Fin 64, m ≠ n → t.cur.l[m] = s.cur.l[m]) ∧
       { t with cur := { t.cur with l := s.cur.l, ecc := s.cur.ecc } } = s) ∧
     Gives (writeD .zero v) s .seq s) ∧
  (∀ (s : State) (n : Fin 16) (v : Word),
     (s.cur.swr.getLsbD n.val = true → checkDst (.s n) s = .error (.trap .doubleSharedWrite none none s)) ∧
     (∀ fl t, Gives (writeD (.s n) v) s fl t → fl = .seq ∧ t.cur.sv[n] = v ∧ t.cur.swr.getLsbD n.val = true ∧
       (∀ m : Fin 16, m ≠ n → t.cur.sv[m] = s.cur.sv[m] ∧ t.cur.swr.getLsbD m.val = s.cur.swr.getLsbD m.val) ∧
       t.cur.l = s.cur.l ∧ t.cur.preds = s.cur.preds ∧ MemKept s t (some n))) ∧
  (∀ (s : State) (v : Word),
     (s.cur.packet.isSome = true → writeD .txh v s = .error (.trap .packetOpen (some 1) (some 0) s)) ∧
     (s.cur.packet = none → writeD .tx v s = .error (.trap .packetOpen (some 2) (some 0) s) ∧
       writeD .txe v s = .error (.trap .packetOpen (some 2) (some 0) s)) ∧
     (∀ p, s.cur.packet = some p → 31 ≤ p.sent.length →
       writeD .tx v s = .error (.trap .packetOpen (some 3) (some 0) s)) ∧
     (s.cur.packet = none →
       let bad : Prop := bits v 31 27 ≠ 0 ∨ bits v 63 48 ≠ 0 ∨ 12 ≤ bits v 10 7 ∨ s.npkg ≤ bits v 24 13 ∨
         s.countIn (bits v 24 13) (bits v 12 11 * 12 + bits v 10 7) ≤ bits v 6 0
       (bad → writeD .txh v s = .error (.trap .access (some v) (some 1) s)) ∧
       (¬ bad → Gives (writeD .txh v) s .seq { s with cur := { s.cur with packet := some ⟨v, []⟩ } })) ∧
     (∀ p, s.cur.packet = some p → p.sent.length < 31 → Gives (channelFree .messages) s () s →
       Gives (writeD .tx v) s .seq (s.sendFlit p v false)) ∧
     (∀ p, s.cur.packet = some p → Gives (channelFree .messages) s () s →
       Gives (writeD .txe v) s .held ((s.sendFlit p v true).updCur fun t =>
         { t with life := .waiting, wait := some ⟨11, some .txe, false, 0⟩ })) ∧
     (∀ p, s.cur.packet = some p → s.cur.halfDone = false →
       (s.core s.cur.core).stopped.getLsbD Chan.messages.bit = true →
       writeD .txe v s = .error (.wait 11 Chan.messages.bit .nil)))

/-! ### Integer arithmetic (04 R79 to R86) -/

/-- ADD, SUB, MUL, MULHS, MULHU, AND, OR, XOR, ANDN, SHL, SHR, SAR, ROL, MIN, MAX, MINU and MAXU write
F(a, b) of Table 4.14 to DST, and the PC is one slot on; nothing else changes but what writing DST and
reading a receive port change. -/
def Obligations.TwoOperandIntegerResults : Prop :=
  ∀ (i : Instr) (x : IntForm), binaryForm i = some x → x.completes i

/-- ADDS, SUBS, DIVS, DIVU, REMS, REMU and ABS raise OF or DZ exactly as their rules say, then write the result to
DST; no other STATUS bit changes. -/
def Obligations.ClampedAndDividedResults : Prop :=
  ∀ (i : Instr) (x : IntForm), flaggingForm i = some x → x.completes i

/-- MADD, CLZ, CTZ, POPC, BREV, BSWAP, BFX, BFI, SEXT, ZEXT, MOV, MOV.hi, SEL and LEA write their
results to DST and set no flag. -/
def Obligations.OtherIntegerResults : Prop :=
  ∀ (i : Instr) (x : IntForm), plainForm i = some x → x.completes i

/-- The frame of every instruction that writes one scalar destination from scalar sources: where it
completes, registers of the window other than DST, the shared registers other than DST, globals,
dependents, predicates, the trap banks and masks, the claim, the monitors and every byte and tag of
memory, outside the frame of a saved member that a write of Sn reaches, are as before; STATUS keeps the bits it had; CONVCNT moves only by a conversion. -/
def Obligations.ScalarFrame : Prop :=
  ∀ (i : Instr) (d : Dst) (s t : State), scalarDst i = some d → exec i s = .next t → t.flow = .seq →
    (∀ n : Fin 64, d ≠ .l n → t.cur.l[n] = s.cur.l[n]) ∧
    (∀ n : Fin 16, d ≠ .s n → t.cur.sv[n] = s.cur.sv[n] ∧ t.cur.swr.getLsbD n.val = s.cur.swr.getLsbD n.val) ∧
    t.cur.g = s.cur.g ∧ t.cur.preds = s.cur.preds ∧
    ((∀ n, d ≠ .s n) → t.cur.dv = s.cur.dv ∧ t.cur.dfull = s.cur.dfull) ∧
    t.cur.ubank = s.cur.ubank ∧ t.cur.kbank = s.cur.kbank ∧ t.cur.thand = s.cur.thand ∧
    t.cur.tmask = s.cur.tmask ∧ t.cur.prio = s.cur.prio ∧ t.cur.round = s.cur.round ∧
    t.cur.claim = s.cur.claim ∧ t.cur.mons = s.cur.mons ∧
    t.cur.status &&& s.cur.status = s.cur.status ∧
    t.cur.status &&& 0xFFFFFFFFFFFFF07F = s.cur.status &&& 0xFFFFFFFFFFFFF07F ∧
    (fpForm i = none → convForm i = none → t.cur.convcnt = s.cur.convcnt) ∧
    MemKept s t (sharedDst d)

/-! ### Predicates (04 R87, R88, R93) -/

/-- CMP joins the condition of its operands into Pd and changes nothing else, and P0 is never written; PLOG
writes the bit of its table that its two predicates select; FCMP joins the condition of two FP32 numbers
into Pd: with a NaN among them only ne and un hold, and NV is raised by any NaN for lt to ge and by a
signalling one otherwise; finite numbers compare by value, so -0 equals +0. -/
def Obligations.ComparesAndPredicateLogic : Prop :=
  (∀ (o : OpCmp) (s s1 s2 : State) (a b : Word), s.cur.guardOn o.g = true →
     Gives (readS o.a) s a s1 → Gives (operandB o.b) s1 b s2 →
     exec (.cmp o) s = .next ((s2.withPred o.pd
       (joined o.cmb (s.cur.preds.getLsbD o.pd.val || o.pd.val = 0) (condOf o.cond a b))).finished .seq)) ∧
  (∀ (o : OpPlog) (s : State), s.cur.guardOn o.g = true →
     exec (.plog o) s = .next ((s.withPred o.pd (o.lut.getLsbD
       ((if o.pa.val = 0 ∨ s.cur.preds.getLsbD o.pa.val = true then 2 else 0) +
        (if o.pb.val = 0 ∨ s.cur.preds.getLsbD o.pb.val = true then 1 else 0)))).finished .seq)) ∧
  (∀ (o : OpFcmp) (s s1 s2 : State) (a b : Word), s.cur.guardOn o.g = true →
     Gives (readS o.a) s a s1 → Gives (operandZ o.b) s1 b s2 →
     (let x := low32 a
      let y := low32 b
      let un := nan32 x || nan32 y
      let sn := snan32 x || snan32 y
      let ordered (p : ℚ → ℚ → Bool) : Bool := p (fp32Val x).rat (fp32Val y).rat
      ∃ c : Bool,
        exec (.fcmp o) s = .next (((s2.flagged (if (if o.cond = .lt ∨ o.cond = .le ∨ o.cond = .gt ∨ o.cond = .ge
            then un else sn) then flagNV else 0)).withPred o.pd
          (joined o.cmb (s.cur.preds.getLsbD o.pd.val || o.pd.val = 0) c)).finished .seq) ∧
        (un = true → c = (o.cond == .ne || o.cond == .un)) ∧
        (finite32 x = true → finite32 y = true → c = match o.cond with
          | .eq => ordered fun p q => p == q
          | .ne => ordered fun p q => p != q
          | .lt => ordered fun p q => decide (p < q)
          | .le => ordered fun p q => decide (p ≤ q)
          | .gt => ordered fun p q => decide (q < p)
          | .ge => ordered fun p q => decide (q ≤ p)
          | .un => false
          | .ord => true)))

/-! ### Floating point (04 R89 to R95, 08 R162 to R169) -/

/-- FADD, FSUB, FMUL, FMIN, FMAX and FFMA round the exact result once, raise its flags and write it zero-extended to
DST; the first three and FFMA advance CONVCNT by one. FCVT and ICVT convert the low bits of
their source, raise the flags, write DST and advance CONVCNT by one. Where DST closes a packet, CONVCNT
follows once the packet is accepted. -/
def Obligations.FloatAndConversionResults : Prop :=
  (∀ (i : Instr) (x : FpForm), fpForm i = some x → x.completes i) ∧
  (∀ (i : Instr) (g : Guard) (d : Dst) (a : SReg) (f : State → Word → Rounded), convForm i = some (g, d, a, f) →
     ∀ (s s1 t : State) (v : Word) (fl : Flow), s.cur.guardOn g = true → Gives (checkDst d) s () s →
       Gives (readS a) s v s1 →
       Gives (writeD d (BitVec.ofNat 64 (f s v).bits)) (s1.flagged (f s v).flags) fl t →
       exec i s = .next (t.resulted fl true))

/-- A finite FP32 number rounds to itself, in every mode, with no flag. The special cases of FADD, FSUB, FMUL and
FFMA (Table 4.19): a NaN among the operands gives 0x7FC00000, with NV where one signals; so do, with NV, the sum of
infinities of opposite sign in either order, the difference of infinities of one sign, zero times infinity of any
signs in either order, also as the product of FFMA whatever the number added, and FFMA's sum of an infinite product
and an infinity of the opposite sign. -/
def Obligations.RoundingAndSpecialCases : Prop :=
  (∀ (x : Nat) (c : RCtx), finite32 x = true → roundTo (.flt fp32) false c (fp32Val x) = ⟨x, 0⟩) ∧
  (∀ (c : RCtx) (x y z : Nat), x < 2 ^ 32 → y < 2 ^ 32 → z < 2 ^ 32 →
     ((nan32 x || nan32 y) = true →
       roundRes (.flt fp32) c (addVal c (fp32Val x) (fp32Val y)) =
         ⟨0x7FC00000, if snan32 x || snan32 y then flagNV else 0⟩ ∧
       roundRes (.flt fp32) c (addVal c (fp32Val x) (fp32Val y).negate) =
         ⟨0x7FC00000, if snan32 x || snan32 y then flagNV else 0⟩ ∧
       roundRes (.flt fp32) c (mulVal (fp32Val x) (fp32Val y)) =
         ⟨0x7FC00000, if snan32 x || snan32 y then flagNV else 0⟩) ∧
     ((nan32 x || nan32 y || nan32 z) = true →
       roundRes (.flt fp32) c (fmaVal c (fp32Val x) (fp32Val y) (fp32Val z)) =
         ⟨0x7FC00000, if snan32 x || snan32 y || snan32 z || zeroInf32 x y then flagNV else 0⟩) ∧
     (inf32 x = true → inf32 y = true →
       (x ≠ y → roundRes (.flt fp32) c (addVal c (fp32Val x) (fp32Val y)) = ⟨0x7FC00000, flagNV⟩) ∧
       (x = y → roundRes (.flt fp32) c (addVal c (fp32Val x) (fp32Val y).negate) = ⟨0x7FC00000, flagNV⟩)) ∧
     (zeroInf32 x y = true →
       roundRes (.flt fp32) c (mulVal (fp32Val x) (fp32Val y)) = ⟨0x7FC00000, flagNV⟩ ∧
       roundRes (.flt fp32) c (fmaVal c (fp32Val x) (fp32Val y) (fp32Val z)) = ⟨0x7FC00000, flagNV⟩) ∧
     ((inf32 x || inf32 y) = true → zeroInf32 x y = false → (nan32 x || nan32 y) = false → inf32 z = true →
       sign32 z ≠ (sign32 x != sign32 y) →
       roundRes (.flt fp32) c (fmaVal c (fp32Val x) (fp32Val y) (fp32Val z)) = ⟨0x7FC00000, flagNV⟩))

/-! ### Transfers of control (02 R22 to R25, 04 R66 to R71) -/

/-- SlotAdd moves by slots, five to a line, and its result has the form of a PC. NOP, BR, BRX, CALL, CALLX
and RET: the PC becomes the target, whose line is read anew and whose TGT bit is checked at its first turn
except after RET; a call first writes the next PC to DST, and one that closes a packet with it waits for the
packet; a target of bad form, and a BRX that does not go forward, trap BAD_TARGET with the target. Nothing
else changes. -/
def Obligations.TransfersReachTheirTargets : Prop :=
  (∀ (pc : Word) (n : Int), bits pc 5 3 = 0 → bits pc 2 0 ≤ 4 → 0 ≤ (linear pc : Int) + n →
     (linear pc : Int) + n < 5 * 2 ^ 58 →
     (linear (slotAdd pc n) : Int) = linear pc + n ∧ bits (slotAdd pc n) 5 3 = 0 ∧ bits (slotAdd pc n) 2 0 ≤ 4) ∧
  ((∀ (o : OpG) (s : State), s.cur.guardOn o.g = true → exec (.nop o) s = .next (s.finished .seq)) ∧
   (∀ (o : OpBr) (s : State), s.cur.guardOn o.g = true →
     (let t := slotAdd s.cur.pc o.n.toNat
      exec (.br o) s = if targetFormFails t then .next (s.takeTrap .badTarget (some t) (some 0))
        else .next (s.jumped t (some s.cur.pc)))) ∧
   (∀ (o : OpA) (s s1 : State) (t : Word), s.cur.guardOn o.g = true → Gives (readS o.a) s t s1 →
     exec (.brx o) s =
       if targetFormFails t then .next (s1.takeTrap .badTarget (some t) (some 0))
       else if 1 ≤ (linear t : Int) - linear s1.cur.pc ∧ (linear t : Int) - linear s1.cur.pc ≤ 0x7FFFFFFF
         then .next (s1.jumped t (some s1.cur.pc))
       else .next (s1.takeTrap .badTarget (some t) (some 0))) ∧
   (∀ (o : OpA) (s s1 : State) (t : Word), s.cur.guardOn o.g = true → Gives (readS o.a) s t s1 →
     exec (.ret o) s = if targetFormFails t then .next (s1.takeTrap .badTarget (some t) (some 0))
       else .next (s1.jumped t none)) ∧
   (∀ (o : OpCall) (s : State), s.cur.guardOn o.g = true → Gives (checkDst o.d) s () s →
     targetFormFails (slotAdd s.cur.pc o.n.toInt) = true →
     exec (.call o) s = .next (s.takeTrap .badTarget (some (slotAdd s.cur.pc o.n.toInt)) (some 0))) ∧
   (∀ (o : OpCall) (s u : State) (fl : Flow), s.cur.guardOn o.g = true →
     targetFormFails (slotAdd s.cur.pc o.n.toInt) = false → Gives (writeD o.d (slotAdd s.cur.pc 1)) s fl u →
     (fl = .seq → exec (.call o) s = .next (u.jumped (slotAdd s.cur.pc o.n.toInt) (some s.cur.pc))) ∧
     (fl = .held → ∃ v, exec (.call o) s = .next v ∧ v.flow = .held ∧ v.cur.life = .waiting ∧
       v.cur.wait = some ⟨11, some (.txeTo (slotAdd s.cur.pc o.n.toInt) s.cur.pc), false, 0⟩)) ∧
   (∀ (o : OpDA) (s s1 : State) (t : Word), s.cur.guardOn o.g = true → Gives (checkDst o.d) s () s →
     Gives (readS o.a) s t s1 → targetFormFails t = true →
     exec (.callx o) s = .next (s1.takeTrap .badTarget (some t) (some 0))) ∧
   (∀ (o : OpDA) (s s1 u : State) (t : Word) (fl : Flow), s.cur.guardOn o.g = true →
     Gives (checkDst o.d) s () s → Gives (readS o.a) s t s1 → targetFormFails t = false →
     Gives (writeD o.d (slotAdd s1.cur.pc 1)) s1 fl u →
     (fl = .seq → exec (.callx o) s = .next (u.jumped t (some s1.cur.pc))) ∧
     (fl = .held → ∃ v, exec (.callx o) s = .next v ∧ v.flow = .held ∧ v.cur.life = .waiting ∧
       v.cur.wait = some ⟨11, some (.txeTo t s1.cur.pc), false, 0⟩)))

/-! ### Traps and their return (03 R57 to R62, 04 R74, R75, 14 R276) -/

/-- A delegated trap enters the user handler: the user bank takes cause, PC and words, INH becomes 1, the PC
is THAND. A trap that is not delegated enters the kernel handler: the kernel bank takes cause, PC and words,
PPL takes PL, KINH becomes 1 and PL 1, and the PC is the kernel vector word. Every other STATUS bit, the
other bank, the registers and memory stay. -/
def Obligations.TrapsEnterTheirHandlers : Prop :=
  (∀ (s : State) (c : Cause) (i0 i1 : Word), Delegated s c →
     let t := s.takeTrap c (some i0) (some i1)
     t.cur.ubank = ⟨causeWord s c, s.cur.pc, i0, i1⟩ ∧ t.cur.status = s.cur.status ||| 0x10 ∧
       t.cur.pc = s.cur.thand ∧ t.cur.kbank = s.cur.kbank ∧ t.flow = .trapped ∧ TrapKeeps s t) ∧
  (∀ (s : State) (c : Cause) (i0 i1 : Word), ToKernel s c → KernelReady s → c ≠ .registerEcc →
     let t := s.takeTrap c (some i0) (some i1)
     t.cur.kbank = ⟨causeWord s c, s.cur.pc, i0, i1⟩ ∧
       bits t.cur.status 3 2 = bits s.cur.status 1 0 ∧ t.cur.status.getLsbD 5 = true ∧
       bits t.cur.status 1 0 = 1 ∧ t.cur.status.getLsbD 4 = s.cur.status.getLsbD 4 ∧
       bits t.cur.status 63 6 = bits s.cur.status 63 6 ∧
       t.cur.pc = s.mem.word s.vectorKey ∧ t.cur.ubank = s.cur.ubank ∧ t.flow = .trapped ∧ TrapKeeps s t)

/-- A trap to kernel that finds KINH = 1 halts the thread: it leaves its slot for good with the second
cause and its PC, and the kernel bank keeps the record of the trap being delivered. -/
def Obligations.TrapWithinTheKernelHandlerHalts : Prop :=
  ∀ (s : State) (c : Cause) (i0 i1 : Word), s.busy = true → ToKernel s c → s.cur.status.getLsbD 5 = true →
    let t := s.takeTrap c (some i0) (some i1)
    t.cur.life = .halted ∧ t.cur.halt = some (c, s.cur.pc) ∧ t.cur.kbank = s.cur.kbank ∧
      t.cur.ubank = s.cur.ubank ∧ t.cur.status = s.cur.status ∧ t.cur.l = s.cur.l

/-- TRAP raises SOFTWARE with its code and operand; BKPT, with no debugger attached, enters the kernel
handler with BREAKPOINT and the same words. With one attached the thread is Stopped at the BKPT, which its slot is
reserved for, with the cause BREAKPOINT in its debug record, and nothing else of it changes, its banks, STATUS and PC
among it; DSTAT records the stop with its origin, core and cycle; and with DCTL.SCL every enabled core of the
cluster has a stop on its way, 4 cycles off in the pool group and 12 beyond. What the two have read, a flit of RX
among it, stays read (log 41). -/
def Obligations.TrapAndBreakpointInstructions : Prop :=
  ∀ (o : OpAC) (s s1 s2 : State) (code a : Word), s.cur.guardOn o.g = true →
    Gives (operandZ o.code) s code s1 → Gives (readS o.a) s1 a s2 →
    exec (.trap o) s = .next (s2.takeTrap .software (some code) (some a)) ∧
    ((s2.core s2.cur.core).dbg.dctl.getLsbD 0 = false → KernelReady s2 →
      ∃ t, exec (.bkpt o) s = .next t ∧ t.cur.kbank = ⟨causeWord s2 .breakpoint, s2.cur.pc, code, a⟩ ∧
        t.cur.pc = s2.mem.word s2.vectorKey ∧ bits t.cur.status 1 0 = 1 ∧
        bits t.cur.status 3 2 = bits s2.cur.status 1 0 ∧ t.cur.status.getLsbD 5 = true) ∧
    (∀ n, (s2.core s2.cur.core).dbg.dctl.getLsbD 0 = true → s2.busy = true → s2.cur.life = .running n →
      let c := s2.cur.core
      ∃ t, exec (.bkpt o) s = .next t ∧ t.flow = .trapped ∧
        t.cur = { s2.cur with
          life := .stopped, rslot := some n, dbg := 0x50, alone := false, stepping := false } ∧
        bits (t.core c).dbg.dstat 6 4 = 4 ∧ bits (t.core c).dbg.dstat 9 8 = 0 ∧
        bits (t.core c).dbg.dstat 16 10 = c % 128 ∧
        bits (t.core c).dbg.dstat 63 32 = (s2.core c).cycle % 2 ^ 32 ∧ t.mem = s2.mem ∧ t.threads = s2.threads ∧
        ((s2.core c).dbg.dctl.getLsbD 1 = false → ∀ k, k ≠ c → t.core k = s2.core k) ∧
        ((s2.core c).dbg.dctl.getLsbD 1 = true → ∀ k, clusterOf k = clusterOf c → s2.coreEnabled k = true →
          ∃ m ∈ (t.core k).pendStop, m.stop = true ∧ m.origin = 4 ∧ m.unit = 0 ∧ m.ocore = c % 128 ∧
            m.due = (s2.core k).cycle + (if s2.poolGroup k = s2.poolGroup c then 4 else 12)))

/-- ERET returns from the bank of the current privilege: at app with INH = 1 the PC is the user TPC and
INH becomes 0; at kernel with KINH = 1 the PC is the kernel TPC, PL takes PPL and KINH becomes 0;
otherwise it traps PRIVILEGE. The registers, both banks and memory stay. -/
def Obligations.TrapReturnRestoresTheBank : Prop :=
  ∀ (o : OpG) (s : State), s.cur.guardOn o.g = true →
    (bits s.cur.status 1 0 = 0 → s.cur.status.getLsbD 4 = true → targetFormFails s.cur.ubank.tpc = false →
      ∃ t, exec (.eret o) s = .next t ∧ t.cur.pc = s.cur.ubank.tpc ∧
        t.cur.status = s.cur.status &&& ~~~0x10#64 ∧ t.cur.l = s.cur.l ∧ t.cur.g = s.cur.g ∧
        t.cur.preds = s.cur.preds ∧ t.cur.ubank = s.cur.ubank ∧ t.cur.kbank = s.cur.kbank ∧
        t.cur.target = none ∧ t.flow = .jump ∧ t.mem = s.mem) ∧
    (bits s.cur.status 1 0 ≠ 0 → s.cur.status.getLsbD 5 = true → targetFormFails s.cur.kbank.tpc = false →
      ∃ t, exec (.eret o) s = .next t ∧ t.cur.pc = s.cur.kbank.tpc ∧
        bits t.cur.status 1 0 = bits s.cur.status 3 2 ∧ t.cur.status.getLsbD 5 = false ∧
        bits t.cur.status 4 2 = bits s.cur.status 4 2 ∧ bits t.cur.status 63 6 = bits s.cur.status 63 6 ∧
        t.cur.l = s.cur.l ∧ t.cur.g = s.cur.g ∧ t.cur.preds = s.cur.preds ∧
        t.cur.ubank = s.cur.ubank ∧ t.cur.kbank = s.cur.kbank ∧ t.cur.target = none ∧ t.flow = .jump ∧
        t.mem = s.mem) ∧
    ((bits s.cur.status 1 0 = 0 ∧ s.cur.status.getLsbD 4 = false ∨
        bits s.cur.status 1 0 ≠ 0 ∧ s.cur.status.getLsbD 5 = false) →
      exec (.eret o) s = .next (s.takeTrap .privilege (some 0) (some 0)))

/-! ### Control registers (03 Tables 3.3 to 3.8, 04 R76) -/

/-- MFC writes the value of its register to DST: identity, core and slot, priority, status, the trap bank of the
current privilege, handler and mask, rounding mode, counts, features, and the debug registers, those of a thread by
the entry that DSEL names (0 where none holds it). MTC writes its register field by field:
THAND and CONVCNT whole; SEL of RXQ; TMASK at its delegable bits; ROUND where the mode is a mode; TPC in the bank of the
current privilege; STATUS bits 6 to 12 cleared by ones, PPL and KINH written at kernel alone; a read-only
register not at all; PRIO its own priority, and its ceiling at kernel alone, while one above the ceiling at app traps
PRIVILEGE. -/
def Obligations.ControlRegistersReadAndWrite : Prop :=
  (∀ (o : OpMfc) (s t : State) (fl : Flow), s.cur.guardOn o.g = true → Gives (checkDst o.d) s () s →
     ∀ v : Word, Gives (writeD o.d v) s fl t →
     (o.n = 0x000 ∧ v = s.cur.index ∨ o.n = 0x001 ∧ v = s.cur.famid ∨ o.n = 0x002 ∧ v = s.cur.parent ∨
       o.n = 0x005 ∧ v = s.cur.prio ∨ o.n = 0x006 ∧ v = BitVec.ofNat 64 s.cur.eprio ∨
       o.n = 0x008 ∧ v = s.cur.status ∨
       o.n = 0x009 ∧ v = (if bits s.cur.status 1 0 = 0 then s.cur.ubank else s.cur.kbank).cause ∨
       o.n = 0x00A ∧ v = (if bits s.cur.status 1 0 = 0 then s.cur.ubank else s.cur.kbank).tpc ∨
       o.n = 0x00B ∧ v = (if bits s.cur.status 1 0 = 0 then s.cur.ubank else s.cur.kbank).info0 ∨
       o.n = 0x00C ∧ v = (if bits s.cur.status 1 0 = 0 then s.cur.ubank else s.cur.kbank).info1 ∨
       o.n = 0x00D ∧ v = s.cur.thand ∨ o.n = 0x00E ∧ v = s.cur.tmask ∨ o.n = 0x010 ∧ v = s.cur.round ∨
       o.n = 0x011 ∧ v = s.cur.convcnt ∨ o.n = 0x012 ∧ v = s.cur.vgrant ∨
       o.n = 0x013 ∧ v = BitVec.ofNat 64 s.cur.copyn ∨ o.n = 0x014 ∧ v = s.rxqWord s.cur ∨
       o.n = 0x003 ∧ s.cur.core < 6144 ∧ v = BitVec.ofNat 64 (s.cur.core % 128 + 2 ^ 7 * (s.cur.core / 128 % 12) +
         2 ^ 11 * (s.cur.core / 1536) + 2 ^ 13 * s.pkg.num) ∨
       o.n = 0x004 ∧ (∃ n, s.cur.life = .running n ∧ v = BitVec.ofNat 64 (n + 16 * s.cur.entry)) ∨
       o.n = 0x020 ∧ v = s.pkg.feat[0] ∨ o.n = 0x021 ∧ v = s.pkg.feat[1] ∨
       o.n = 0x022 ∧ v = s.pkg.feat[2] ∨ o.n = 0x023 ∧ v = s.pkg.feat[3] ∨
       o.n = 0x030 ∧ v = BitVec.ofNat 64 (s.core s.cur.core).cycle ∨
       (let d := (s.core s.cur.core).dbg
        let th := s.entryThread s.cur.core (bits d.dsel 7 0)
        (∃ i : Fin 4, o.n.toNat = 0x040 + i.val ∧ v = d.iba[i] ∨ o.n.toNat = 0x044 + i.val ∧ v = d.ibc[i] ∨
          o.n.toNat = 0x048 + i.val ∧ v = d.wpa[i] ∨ o.n.toNat = 0x04C + i.val ∧ v = d.wpc[i]) ∨
        o.n = 0x050 ∧ v = d.dctl ∨ o.n = 0x052 ∧ v = d.dstat ∨ o.n = 0x053 ∧ v = d.dstep ∨
        o.n = 0x054 ∧ v = d.wha ∨ o.n = 0x055 ∧ v = d.whs ∨ o.n = 0x056 ∧ v = d.whd ∨ o.n = 0x057 ∧ v = d.whf ∨
        o.n = 0x058 ∧ v = d.sctl ∨ o.n = 0x059 ∧ v = d.spc ∨ o.n = 0x05A ∧ v = d.srec ∨
        o.n = 0x05B ∧ v = d.dsel ∨ o.n = 0x05C ∧ v = (th.map (·.pc)).getD 0 ∨
        o.n = 0x05D ∧ v = (th.map (·.dtst)).getD 0 ∨ o.n = 0x05E ∧ v = (th.map (·.index)).getD 0 ∨
        (∃ i : Fin 16, o.n.toNat = 0x060 + i.val ∧ v = d.sks[i]))) →
     exec (.mfc o) s = .next (t.finished fl)) ∧
  (∀ (o : OpMtc) (s s1 : State) (v : Word), s.cur.guardOn o.g = true → Gives (readS o.a) s v s1 →
     (o.n = 0x00D → exec (.mtc o) s = .next ((s1.updCur fun t => { t with thand := v }).finished .seq)) ∧
     (o.n = 0x011 → exec (.mtc o) s = .next ((s1.updCur fun t => { t with convcnt := v }).finished .seq)) ∧
     (o.n = 0x014 → exec (.mtc o) s =
       .next ((s1.updCur fun t => { t with rxsel := BitVec.ofNat 2 (bits v 33 32) }).finished .seq)) ∧
     (o.n = 0x050 → exec (.mtc o) s = .next ((s1.modCore s1.cur.core fun x =>
       { x with dbg := { x.dbg with dctl := v &&& 3 } }).finished .seq)) ∧
     (o.n = 0x00E → exec (.mtc o) s =
       .next ((s1.updCur fun t => { t with tmask := v &&& 0x1F03131F007903FF }).finished .seq)) ∧
     (o.n = 0x010 → exec (.mtc o) s = .next ((if v.toNat % 8 ≤ 4 then
       s1.updCur fun t => { t with round := BitVec.ofNat 64 (v.toNat % 8) } else s1).finished .seq)) ∧
     (o.n = 0x00A → exec (.mtc o) s = .next ((s1.updCur fun t =>
       if bits s1.cur.status 1 0 = 0 then { t with ubank := { t.ubank with tpc := v } }
       else { t with kbank := { t.kbank with tpc := v } }).finished .seq)) ∧
     (o.n = 0x008 → bits s1.cur.status 1 0 = 0 → exec (.mtc o) s = .next ((s1.updCur fun t =>
       { t with status := t.status &&& ~~~(v &&& 0x1FC0) }).finished .seq)) ∧
     (o.n = 0x008 → bits s1.cur.status 1 0 ≠ 0 → exec (.mtc o) s = .next ((s1.updCur fun t =>
       { t with status := (t.status &&& ~~~(v &&& 0x1FC0) &&& ~~~0x2C#64) ||| (v &&& 0x2C) }).finished .seq)) ∧
     (o.n ∈ [0x000, 0x001, 0x002, 0x003, 0x004, 0x006, 0x009, 0x00B, 0x00C, 0x012, 0x013, 0x020, 0x021, 0x022,
         0x023, 0x030] → exec (.mtc o) s = .next (s1.finished .seq)) ∧
     (o.n = 0x005 → bits s1.cur.status 1 0 = 0 → bits s1.cur.prio 6 4 < bits v 2 0 →
       exec (.mtc o) s = .next (s1.takeTrap .privilege (some 0) (some 0))) ∧
     (o.n = 0x005 → bits s1.cur.status 1 0 ≠ 0 ∨ bits v 2 0 ≤ bits s1.cur.prio 6 4 →
       exec (.mtc o) s = .next ((s1.updCur fun t => { t with prio := BitVec.ofNat 64 (v.toNat % 8 +
         16 * (if bits s1.cur.status 1 0 = 0 then bits s1.cur.prio 6 4 else bits v 6 4)) }).finished .seq)))

/-! ### YIELD, CHKPT, TRACEW, CNTR, PREF (04 R77, R78, 20 R396, R397, 07 R150) -/

/-- YIELD leaves the thread Ready behind those of its priority; CHKPT with nothing outstanding orders as
an acquire and marks its checkpoint; TRACEW adds its record where writes are traced and changes nothing
else; CNTR asks the counter bank of its cluster, which answers with the counter and clears it with CLR;
PREF changes nothing and does not wait, whatever its operands name. -/
def Obligations.HintsMarkersAndCounters : Prop :=
  (∀ (o : OpG) (s : State), s.cur.guardOn o.g = true → ∃ t, exec (.yieldT o) s = .next t ∧
    t.cur.life = .ready ∧ t.cur.readyAt = readyStamp (s.core s.cur.core).cycle true ∧
    { t with cur := { t.cur with life := s.cur.life, readyAt := s.cur.readyAt } } = s.finished .seq) ∧
  (∀ (o : OpC) (s s1 s2 : State) (id : Word), s.cur.guardOn o.g = true → Gives (operandZ o.b) s id s1 →
    s1.ownPending s1.cur.tid = false → s1.cur.errRec = none → s1.closePhases s1.cur.core .dev = some ([], s2) →
    s2.cur.errRec = none →
    exec (.chkpt o) s = .next (((s2.updCur fun t => { t with lines := [] }).checkpoint id).finished .seq)) ∧
  (∀ (o : OpTracew) (s s1 s2 : State) (v b : Word), s.cur.guardOn o.g = true → Gives (readS o.a) s v s1 →
    Gives (operandZ o.b) s1 b s2 →
    exec (.tracew o) s = .next ((if s2.traceOn 2 then s2.emit (coreSrc s2.cur.core) 3
      [s2.cur.pc, s2.cur.famid, s2.cur.index, o.chan.setWidth 64, v, b] else s2).finished .seq)) ∧
  (∀ (o : OpCntr) (s s1 : State) (n : Word) (k : Fin 16), s.cur.guardOn o.g = true →
    Gives (checkDst o.d) s () s → Gives (operandZ o.n) s n s1 → n.toNat = k.val →
    s1.tableAllows (targetBank (clusterOf s1.cur.core)) (clusterMaster s1.cur.core) true o.clr false = true →
    s1.cur.packet = none →
    ∃ t, exec (.cntr o) s = .next t ∧ t.cur.life = .waiting ∧ t.cur.wait = some ⟨4, some (.reg o.d), false, 0⟩ ∧
      t.replies = s1.replies ++ [⟨s1.cur.tid, 0, .ok ((s1.cluster (clusterOf s1.cur.core)).counts[k]) 0, 0,
        bankHome (clusterOf s1.cur.core), s1.stamp⟩] ∧
      (o.clr = true → (t.cluster (clusterOf s1.cur.core)).counts[k] = 0)) ∧
  (∀ (o : OpM) (s : State), s.cur.guardOn o.g = true → exec (.pref o) s = .next (s.finished .seq))

/-! ### Families (05 R96 to R115, 04 R72, R73) -/

/-- FSET, FPUTG and FPUTS take the open record, if they are its first, and stage one field: a literal ENTRY
counts slots from the FSET; registers, flags, memory and every other staged field stay. One that would open a
record where none of the launch is free traps FAMILY_AREA_FULL. -/
def Obligations.StagingFillsTheOpenRecord : Prop :=
  (∀ (s : State), s.cur.openRec = true ∨ s.freeRecords s.cur.launch ≠ 0 →
     let s0 := s.updCur fun t => { t with openRec := true }
     (∀ (o : OpFset) (s1 : State) (v : Word), s.cur.guardOn o.g = true →
       (∃ l, o.field = .entry ∧ o.b = .lit l ∧ v = slotAdd s.cur.pc l.toInt ∧ s1 = s0) ∨
         ((o.field ≠ .entry ∨ ∀ l, o.b ≠ .lit l) ∧ Gives (operandB o.b) s0 v s1) →
       exec (.fset o) s = .next ((s1.updCur fun t => { t with staged :=
         let x := t.staged
         match o.field with
         | .start => { x with start := v }
         | .limit => { x with limit := v }
         | .step => { x with step := v }
         | .block => { x with block := v }
         | .place => { x with place := v }
         | .entry => { x with entry := v }
         | .window => { x with window := v }
         | .prio => { x with prio := BitVec.ofNat 64 (v.toNat % 8) }
         | .flags => { x with flags := v } }).finished .seq)) ∧
     (∀ (o : OpFput) (s1 : State) (v : Word), s.cur.guardOn o.g = true → Gives (operandB o.b) s0 v s1 →
       exec (.fputg o) s = .next ((s1.updCur fun t => { t with staged :=
         { t.staged with g := t.staged.g.set o.n.val v } }).finished .seq) ∧
       exec (.fputs o) s = .next ((s1.updCur fun t => { t with staged :=
         { t.staged with d := t.staged.d.set o.n.val v } }).finished .seq))) ∧
  (∀ (s : State), s.cur.openRec = false → s.freeRecords s.cur.launch = 0 →
     (∀ o : OpFset, s.cur.guardOn o.g = true →
       exec (.fset o) s = .next (s.takeTrap .familyAreaFull (some 0) none)) ∧
     (∀ o : OpFput, s.cur.guardOn o.g = true →
       exec (.fputg o) s = .next (s.takeTrap .familyAreaFull (some 0) none) ∧
       exec (.fputs o) s = .next (s.takeTrap .familyAreaFull (some 0) none)))

/-- CREATE with valid staged fields, a free record and no need to adopt records the family: its member count,
identity, staged registers, place and creator, in a thread that otherwise only counts it; DST takes its handle, and
the thread waits for its packet where DST closes one; then an empty family has ended, with the staged dependents as
its final shareds, and another starts its members. What is out of its range traps, in this order: STEP, BLOCK, WINDOW
and FLAGS with FAMILY_FIELD and their numbers, PLACE with PLACE_INVALID, ENTRY with BAD_TARGET, a window beyond the
registers of the launch with RESOURCE_EXCEEDS_CORE, and 2^56 members or more with FAMILY_FIELD for LIMIT.
The record is a free choice (log 39). -/
def Obligations.CreateRecordsTheFamily : Prop :=
  ∀ (o : OpD) (s : State), s.cur.guardOn o.g = true → Gives (checkDst o.d) s () s →
    let st := s.cur.staged
    let m := memberCount st.start st.limit st.step
    let w := windowSize (winOfWord st.window)
    let Traps (c : Cause) (i0 i1 : Word) : Prop := exec (.create o) s = .next (s.takeTrap c (some i0) (some i1))
    let block : Prop := 1 ≤ st.block.toNat ∧ st.block.toNat ≤ 256
    (st.step = 0 → Traps .familyField 2 0) ∧
    (st.step ≠ 0 →
      (¬ block → Traps .familyField 3 st.block) ∧
      (block →
        (windowWordOk st.window = false → Traps .familyField 6 st.window) ∧
        (windowWordOk st.window = true →
          (st.flags &&& ~~~1#64 ≠ 0 → Traps .familyField 8 st.flags) ∧
          (st.flags &&& ~~~1#64 = 0 →
            (s.createPlace s.cur = none → Traps .placeInvalid st.place 0) ∧
            (∀ p l, s.createPlace s.cur = some p → s.launch? s.cur.launch = some l →
              (targetFormFails st.entry = true → Traps .badTarget st.entry 0) ∧
              (targetFormFails st.entry = false →
                (l.regs < w → Traps .resourceExceedsCore (BitVec.ofNat 64 w) (BitVec.ofNat 64 l.regs)) ∧
                (w ≤ l.regs →
                  (2 ^ 56 ≤ m → Traps .familyField 1 st.limit) ∧
                  (m < 2 ^ 56 → s.adoptsNow l (familyOf s.cur p m) = false → s.freeRecords s.cur.launch ≠ 0 →
                    ∃ s1 f, s1.fam? s.stamp = some f ∧ f.n = m ∧ f.st = st ∧ f.fid = childFid s.cur ∧
                      f.launch = s.cur.launch ∧ f.creator = some s.cur.tid ∧ f.place = p ∧ f.parent = s.cur.famid ∧
                      f.started = [] ∧ f.fin = false ∧ s1.cur = { s.cur with cseq := s.cur.cseq + 1 } ∧
                      s1.threads = s.threads ∧ s1.mem = s.mem ∧
                      (∀ u, Gives (writeD o.d f.handle) s1 .seq u →
                        exec (.create o) s = .next ((u.familyMade s.stamp).finished .seq)) ∧
                      (∀ u, Gives (writeD o.d f.handle) s1 .held u → ∃ t, exec (.create o) s = .next t ∧
                        t.flow = .held ∧ t.cur.life = .waiting ∧
                        t.cur.wait = some ⟨11, some (.txeFam s.stamp), false, 0⟩) ∧
                      (∀ n, o.d = .l n → ∃ t, exec (.create o) s = .next t ∧ t.flow = .seq) ∧
                      ∀ u : State, u.fam? s.stamp = some f →
                        (m = 0 → ∃ g, (u.familyMade s.stamp).fam? s.stamp = some g ∧ g.fin = true ∧
                          g.finals = st.d.map some ∧ g.started = []) ∧
                        (m ≠ 0 → u.familyMade s.stamp = u.startAll s.stamp p)))))))))

/-- SYNC and FGETS of a family that has ended act as an acquire and write its status, or a final
shared; of one that runs with every member started they suspend with reason 13; FSTAT writes the field it
selects at any time; KILL kills the family; a handle of no live family of the launch traps
FAMILY_HANDLE. -/
def Obligations.FamilyQueriesAndKill : Prop :=
  ∀ (s s1 : State) (v : Word) (fk : Nat) (f : Fam),
    (Gives (familyAt v) s1 (fk, f) s1 →
      (∀ (o : OpDA), s.cur.guardOn o.g = true → Gives (checkDst o.d) s () s → Gives (readS o.a) s v s1 →
        (f.fin = true → s1.cur.errRec = none → ∀ t fl,
          Gives (writeD o.d (BitVec.ofNat 64 (f.endCode + 2 ^ 8 * (if f.endCode = 1 then f.brk.getD f.n else f.n))))
            (s1.updCur fun t => { t with lines := [] }) fl t → exec (.sync o) s = .next (t.finished fl)) ∧
        (f.fin = false → f.lowest = none → s.cur.packet = none →
          exec (.sync o) s = .next (s.suspended 13 fk))) ∧
      (∀ (o : OpFgets), s.cur.guardOn o.g = true → Gives (checkDst o.d) s () s → Gives (readS o.a) s v s1 →
        (f.fin = true → s1.cur.errRec = none → o.n.val < f.win.s → ∀ t fl,
          Gives (writeD o.d ((f.finals[o.n]).getD 0)) (s1.updCur fun t => { t with lines := [] }) fl t →
          exec (.fgets o) s = .next (t.finished fl)) ∧
        (f.fin = false → f.lowest = none → o.n.val < f.win.s → s.cur.packet = none →
          exec (.fgets o) s = .next (s.suspended 13 fk)) ∧
        (f.win.s ≤ o.n.val →
          exec (.fgets o) s = .next (s1.takeTrap .familyField (some 6) (some (BitVec.ofNat 64 o.n.val))))) ∧
      (∀ (o : OpFstat) (t : State) (fl : Flow), s.cur.guardOn o.g = true → Gives (checkDst o.d) s () s →
        Gives (readS o.a) s v s1 →
        Gives (writeD o.d (match o.sel with
          | .state => BitVec.ofNat 64 ((if f.fin then 2 + 4 * f.endCode else if f.started = [] then 0 else 1) +
              (if f.adopted then 16 else 0))
          | .count => BitVec.ofNat 64 f.n
          | .started => BitVec.ofNat 64 f.started.length
          | .ended => BitVec.ofNat 64 f.ended.length
          | .bk => BitVec.ofNat 64 (f.brk.getD f.n)
          | .bkindex => f.st.start + BitVec.ofNat 64 (f.brk.getD f.n) * f.st.step
          | .fid => f.fid.setWidth 64)) s1 fl t → exec (.fstat o) s = .next (t.finished fl)) ∧
      (∀ (o : OpA), s.cur.guardOn o.g = true → Gives (readS o.a) s v s1 →
        exec (.kill o) s = .next ((s1.killFam fk).finished .seq))) ∧
    ((∀ p ∈ s1.fams, ¬ (p.2.live = true ∧ p.2.launch = s1.cur.launch ∧ p.2.handle = v)) →
      let Refused (i : Instr) : Prop := exec i s = .next (s1.takeTrap .familyHandle (some v) (some 0))
      (∀ (o : OpDA), s.cur.guardOn o.g = true → Gives (checkDst o.d) s () s → Gives (readS o.a) s v s1 →
        Refused (.sync o)) ∧
      (∀ (o : OpFgets), s.cur.guardOn o.g = true → Gives (checkDst o.d) s () s → Gives (readS o.a) s v s1 →
        Refused (.fgets o)) ∧
      (∀ (o : OpFstat), s.cur.guardOn o.g = true → Gives (checkDst o.d) s () s → Gives (readS o.a) s v s1 →
        Refused (.fstat o)) ∧
      (∀ (o : OpA), s.cur.guardOn o.g = true → Gives (readS o.a) s v s1 → Refused (.kill o)))

/-- EXIT ends the member once its unwritten shareds are settled, where no register that it passes on has an error;
BREAK besides makes it the break point of its family, unless the family is killed or an earlier member has broken, and
kills the started members beyond it; with a packet open both trap PACKET_OPEN. What ends a
member ends its thread: its claim and its wait are gone, and its family counts it among the ended. -/
def Obligations.MembersEndAndAreGone : Prop :=
  (∀ (o : OpG) (s : State), s.cur.guardOn o.g = true →
     (s.cur.packet.isSome = true →
       exec (.exit o) s = .next (s.takeTrap .packetOpen (some 0) (some 0)) ∧
       exec (.breakM o) s = .next (s.takeTrap .packetOpen (some 0) (some 0))) ∧
     (s.cur.packet = none →
       let shareds := (List.finRange 16).filter fun n => n.val < s.cur.win.s
       (∀ s1, Gives (checkShareds false shareds) s () s → Gives (settleShareds false shareds) s () s1 →
         exec (.exit o) s = .next ((s1.endThread s.cur.tid).finished .gone)) ∧
       (∀ s1 f, s.fam? s.cur.fam = some f →
         let point : Bool := !f.killed && !f.beyond s.cur.k
         Gives (checkShareds point shareds) s () s →
         Gives (settleShareds point shareds) (s.modFam s.cur.fam fun f => f.breakAt s.cur.k) () s1 →
         exec (.breakM o) s = .next (((s1.killBeyond s.cur.fam).endThread s.cur.tid).finished .gone)))) ∧
  (∀ (s : State) (f : Fam), s.busy = true → s.cur.host = none → s.fam? s.cur.fam = some f →
     (∀ p ∈ s.threads, p.2.tid ≠ s.cur.tid) →
     let t := s.endThread s.cur.tid
     t.cur.life = .ended ∧ t.cur.claim = none ∧ t.cur.wait = none ∧
       ∃ g, t.fam? s.cur.fam = some g ∧ s.cur.k ∈ g.ended)

/-! ### Memory (06 Tables 6.3 and 6.4, 07 R134 to R153, 15 R294 to R300) -/

/-- LD, LDP, ST, STN, TAKE, LDF, PUT, PUT.wait, TAGR, TAGW, the atomics, CAS, and the barrier, lock,
queue and wait instructions send their access to its home: a posted one in the phase of its scope while
the thread goes on, another while the thread waits for its reply.
The same instructions on the own window complete within the turn, with what their home answers:
loads and atomics write the value they get, LDP and CAS their predicate as well, TAGR the tag. A misaligned
address traps MISALIGNED with the address and the kind. -/
def Obligations.AccessesAreSentOrComplete : Prop :=
  (∀ (i : Instr) (x : MemForm), memForm i = some x → x.sends i) ∧
  (∀ (i : Instr) (x : MemForm), memForm i = some x → x.ownWindow i ∧ x.misaligned i)

/-- An operation on a word whose tag lets it not pass traps with the cause of Table 6.3, the address and
the kind, and changes nothing. -/
def Obligations.TagTrapsAtTheHome : Prop :=
  ∀ (s : State) (q : Req) (c : Cause), tagTrap q.op (s.mem.tag (q.loc.key / 8 * 8)) = some c →
    s.wordOp q = (.done (.trap c q.va (BitVec.ofNat 64 (q.kind.toNat + q.elem * 2 ^ 8))), s)

/-- What reads, stores, atomics and CAS do to a FULL word at its home: the bytes of the access alone
change, no tag changes, and a change wakes the monitors of the line; a read, and a CAS that compares
unequal, change nothing. -/
def Obligations.HomeDataOperations : Prop :=
  ∀ (s : State) (q : Req), s.mem.tag (q.loc.key / 8 * 8) = .full →
    let b := q.loc.key
    let Stores (t : State) (n v : Nat) : Prop := t.mem.loadN b n = v % 256 ^ n ∧
      (∀ a, a < b ∨ b + n ≤ a → t.mem.byte a = s.mem.byte a) ∧ (∀ a, t.mem.tag a = s.mem.tag a) ∧
      (∀ e ∈ (s.homeMons (locOfKey (b / 8 * 8))).1, e.line = b / 64 →
        ∃ w ∈ t.wakes, w.tid = e.tid ∧ w.idx = e.idx ∧ w.line = e.line)
    (∀ z, q.op = .read z false → s.wordOp q = (.done (.ok (BitVec.ofNat 64 (s.mem.loadN b (bytesOf z))) 0), s)) ∧
    (∀ z, q.op = .read z true → s.wordOp q =
      (.done (.ok (BitVec.ofInt 64 (Int.bmod (s.mem.loadN b (bytesOf z)) (256 ^ bytesOf z))) 0), s)) ∧
    (q.op = .readP → s.wordOp q = (.done (.ok (s.mem.word (b / 8 * 8)) 0), s)) ∧
    (∀ z v, q.op = .write z v → ∃ t, s.wordOp q = (.done (.ok 0 0), t) ∧ Stores t (bytesOf z) v.toNat) ∧
    (∀ hi v, q.op = .nib hi v → ∃ t, s.wordOp q = (.done (.ok 0 0), t) ∧
      Stores t 1 (if hi then (s.mem.byte b).toNat % 16 + 16 * (v.toNat % 16)
        else (s.mem.byte b).toNat / 16 * 16 + v.toNat % 16)) ∧
    (∀ f z x r, q.op = .atom f z x →
      atomResult f (8 * bytesOf z) (s.mem.loadN b (bytesOf z)) (x.toNat % 256 ^ bytesOf z) = some r →
      ∃ t, s.wordOp q = (.done (.ok (BitVec.ofNat 64 (s.mem.loadN b (bytesOf z))) 0), t) ∧
        Stores t (bytesOf z) r) ∧
    (∀ x, q.op = .atom .fadd .b32 x → ∃ t,
      s.wordOp q = (.done (.ok (BitVec.ofNat 64 (s.mem.loadN b 4)) 0), t) ∧
      Stores t 4 (roundRes (.flt fp32) ⟨.rne, true, 0⟩
        (addVal ⟨.rne, true, 0⟩ (fp32Val (s.mem.loadN b 4)) (fp32Val (x.toNat % 2 ^ 32)))).bits) ∧
    (∀ z e x, q.op = .cas z e x → s.mem.loadN b (bytesOf z) = e.toNat % 256 ^ bytesOf z → ∃ t,
      s.wordOp q = (.done (.ok (BitVec.ofNat 64 (s.mem.loadN b (bytesOf z))) 1), t) ∧
      Stores t (bytesOf z) x.toNat) ∧
    (∀ z e x, q.op = .cas z e x → s.mem.loadN b (bytesOf z) ≠ e.toNat % 256 ^ bytesOf z →
      s.wordOp q = (.done (.ok (BitVec.ofNat 64 (s.mem.loadN b (bytesOf z))) 0), s))

/-- What the tag operations do at the home of an unguarded word: TAKE of a FULL word leaves it EMPTY and
answers its data, TAKE and LDF of an EMPTY word join its list and wait with reason 5; PUT of an EMPTY
word fills it, gives the value to every LDF and to the first TAKE of its list, and leaves it FULL
where there is no TAKE, EMPTY where there is one; but the last TAKE of the list lets the first PUT.wait that is queued
perform, which leaves its value; PUT.wait of a FULL word queues; TAGR answers data and tag; TAGW sets both. No
byte and no tag of another word changes. -/
def Obligations.HomeTagOperations : Prop :=
  ∀ (s : State) (q : Req),
    let k := q.loc.key / 8 * 8
    let Others (t : State) : Prop := (∀ a, a < k ∨ k + 8 ≤ a → t.mem.byte a = s.mem.byte a) ∧
      (∀ a, a ≠ k → t.mem.tag a = s.mem.tag a)
    let Sent (t : State) (tid : Nat) (v : Word) : Prop := ∃ x ∈ t.delivers, x.tid = tid ∧ x.v = v ∧ x.home = k
    let Fills (t : State) (v : Word) : Prop :=
      (∀ d ∈ s.listOf k, d.take = false → Sent t d.tid v) ∧
      (∀ d, (s.listOf k).find? (·.take) = some d → Sent t d.tid v ∧
        (1 < ((s.listOf k).filter (·.take)).length ∨ s.putsOf k = [] → t.mem.tag k = .empty)) ∧
      (∀ p r, ((s.listOf k).filter (·.take)).length = 1 → s.putsOf k = p :: r →
        (∀ d ∈ s.listOf k, d.tid ≠ p.tid) →
        Sent t p.tid 0 ∧ t.mem.tag k = .full ∧ t.mem.word k = p.put.getD 0) ∧
      ((∀ d ∈ s.listOf k, d.take = false) → t.mem.tag k = .full ∧ t.mem.word k = v)
    (s.mem.tag k = .full →
      (q.op = .ldf → s.wordOp q = (.done (.ok (s.mem.word k) 0), s)) ∧
      (q.op = .take → s.putsOf k = [] → ∃ t, s.wordOp q = (.done (.ok (s.mem.word k) 0), t) ∧
        t.mem.tag k = .empty ∧ t.mem.word k = 0 ∧ Others t) ∧
      (∀ v, q.op = .putWait v → s.guard? k = none → ∃ t, s.wordOp q = (.wait 5, t) ∧
        t.defers = s.defers ++ [⟨k, q.tid, false, some v, q.va, q.launch, q.who, q.ivl, q.opc⟩] ∧ t.mem = s.mem)) ∧
    (s.mem.tag k = .empty →
      (q.op = .take ∨ q.op = .ldf → s.guard? k = none → ∃ t, s.wordOp q = (.wait 5, t) ∧
        t.defers = s.defers ++ [⟨k, q.tid, decide (q.op = .take), none, q.va, q.launch, q.who, q.ivl,
          q.opc⟩] ∧ t.mem.tag k = .empty ∧ Others t) ∧
      (∀ v, q.op = .put v ∨ q.op = .putWait v → ∃ t, s.wordOp q = (.done (.ok 0 0), t) ∧ Fills t v ∧ Others t)) ∧
    (q.op = .tagr → s.wordOp q = (.done (.ok (s.mem.word k) (match s.mem.tag k with
      | .full => 0
      | .empty => 1
      | .object => 2
      | .poison => 3)), s)) ∧
    (∀ nt v, q.op = .tagw nt v → (q.app = true → nt ≠ .object ∧ s.mem.tag k ≠ .object) →
      (s.mem.tag k = .empty → s.mem.word k = 0) → (s.mem.tag k = .full → s.putsOf k = []) →
      ∃ t, s.wordOp q = (.done (.ok 0 0), t) ∧ t.mem.tag k = nt ∧
        t.mem.word k = (if nt = .empty then 0 else v) ∧ Others t)

/-- FENCE waits for its phases where it releases. Where there are none it completes at once, as an acquire where it
acquires: with a deferred error it traps, with nothing done, and else FENCE.eng with a copy fault traps COPY_FAULT.
FENCE.eng first waits for the engine operations of its thread.
That FENCE.eng waits for engines before it closes phases is log 31. -/
def Obligations.FencesOrderTheirThread : Prop :=
  ∀ (o : OpFence) (s : State), s.cur.guardOn o.g = true → s.cur.packet = none →
    (o.eng = true → (∃ e ∈ s.engines, e.tid = s.cur.tid) → exec (.fence o) s = .next (s.suspended 8 0)) ∧
    ((o.eng = true → ∀ e ∈ s.engines, e.tid ≠ s.cur.tid) → ∀ held s1,
      (if releases o.ord then s.closePhases s.cur.core o.scope = some (held, s1) else held = [] ∧ s1 = s) →
      (held ≠ [] → exec (.fence o) s = .next (s1.heldFor 4 (.release (.fence o.eng) held) (acquires o.ord))) ∧
      (held = [] → ∀ r, s.cur.errRec = some r → exec (.fence o) s =
        .next ((s.updCur fun t => { t with errRec := none }).takeTrap r.cause (some r.addr)
          (some (BitVec.ofNat 64 (2 ^ 63 + r.count.toNat))))) ∧
      (held = [] → s.cur.errRec = none → o.eng = true → ∀ r, s1.cur.copyRec = some r → exec (.fence o) s =
        .next ((s1.updCur fun t => { t with copyRec := none }).takeTrap .copyFault (some r.id) (some r.first))) ∧
      (held = [] → s.cur.errRec = none → (o.eng = true → s1.cur.copyRec = none) → exec (.fence o) s =
        .next ((if acquires o.ord then s1.updCur fun t => { t with lines := [] } else s1).finished .seq)))

/-- MONA arms the lowest free monitor of its thread and asks the home of the line, within the turn on the own window,
or does nothing where the line is armed, or traps MONITOR_FULL; the home lists the monitor. MOND disarms the monitor of
the line that its address names in memory, if any, and MOND.all every one, and held wakes are dropped. WAITM reports and clears held wakes, writes
0x400 with no monitor, and otherwise waits with reason 6. -/
def Obligations.MonitorsAreArmedAndWaitedFor : Prop :=
  (∀ (o : OpM) (s s1 : State) (a : Word) (l : Loc) (own : Bool), s.cur.guardOn o.g = true → s.cur.packet = none →
    Gives (memAddr o.m) s a s1 → Gives (locate a 1 accMon .sys 0) s1 (l, own) s1 →
    ((s1.cur.monOf (l.key / 64)).isSome = true → exec (.mona o) s = .next (s1.finished .seq)) ∧
    (s1.cur.monOf (l.key / 64) = none →
      (s1.cur.freeMon = none → exec (.mona o) s = .next (s1.takeTrap .monitorFull (some a) (some 0))) ∧
      (∀ i, s1.cur.freeMon = some i → Gives (boardCheck a 1 false) s1 () s1 →
        let s2 := s1.updCur fun t => { t with mons := t.mons.set i (some ⟨l.key / 64, a, true, false, false⟩) }
        let q := s2.request ⟨0x66, a, 1, accMon, .dev, .mona i, false, false⟩ l false false 0 []
        (own = false → exec (.mona o) s = .next ({ s2 with reqs := s2.reqs ++ [q] }.heldFor 4 (.mona i) false)) ∧
        (own = true → s2.wordPending q = false →
          ((s2.core s2.cur.core).bankUsed.getLsbD (bankOf l) = false ∨ 3 ≤ s2.cur.forfeits) →
          ∀ v0 v1 s3, s2.performOne q = (.done (.ok v0 v1), s3) →
          exec (.mona o) s = .next ((s3.updCur fun t => { t with mons := t.mons.set i ((t.mons.getD i none).map
            fun m => { m with coarse := v1 != 0 || v0 != 0 }) }).finished .seq))))) ∧
  (∀ (s : State) (q : Req) (i : Nat), q.op = .mona i → (s.homeMons q.loc).1.length < 64 →
    ∃ t, s.wordOp q = (.done (.ok 0 0), t) ∧ ⟨q.loc.key / 64, q.tid, i, false⟩ ∈ (t.homeMons q.loc).1 ∧
      t.mem = s.mem) ∧
  (∀ (o : OpM) (s s1 : State) (a : Word) (i : Nat) (m : Mon), s.cur.guardOn o.g = true →
    Gives (memAddr o.m) s a s1 → (bits a 63 56 = 0 ∨ bits a 63 56 = 0xFE ∧ bits a 55 25 = 0 ∨
      bits a 63 56 = 0xFF ∧ bits a 55 18 = 0) → i < 4 →
    s1.cur.mons.getD i none = some m → vkey s1.cur.core m.va / 64 = vkey s1.cur.core a / 64 →
    (∀ j n, j < i → s1.cur.mons.getD j none = some n → vkey s1.cur.core n.va / 64 ≠ vkey s1.cur.core a / 64) →
    ∃ t, exec (.mond o) s = .next t ∧ t.cur.mons = s1.cur.mons.set i none ∧
      (∀ w ∈ t.wakes, w ∈ s1.wakes ∧ ¬ (w.tid = s1.cur.tid ∧ w.idx = i)) ∧ t.cur.l = s1.cur.l ∧ t.mem = s1.mem) ∧
  (∀ (o : OpM) (s s1 : State) (a : Word), s.cur.guardOn o.g = true → Gives (memAddr o.m) s a s1 →
    ¬ (bits a 63 56 = 0 ∨ bits a 63 56 = 0xFE ∧ bits a 55 25 = 0 ∨ bits a 63 56 = 0xFF ∧ bits a 55 18 = 0) →
    exec (.mond o) s = .next (s1.finished .seq)) ∧
  (∀ (o : OpG) (s : State), s.cur.guardOn o.g = true → ∃ t, exec (.mondAll o) s = .next t ∧
    (∀ i, i < 4 → t.cur.mons.getD i none = none) ∧ t.cur.l = s.cur.l ∧ t.mem = s.mem) ∧
  (∀ (o : OpDC) (s s1 : State) (n : Word), s.cur.guardOn o.g = true → Gives (checkDst o.d) s () s →
    Gives (operandZ o.b) s n s1 →
    (s1.cur.mons = [none, none, none, none] → ∀ t fl, Gives (writeD o.d 0x400) s1 fl t →
      exec (.waitm o) s = .next (t.finished fl)) ∧
    (∀ i m, i < 4 → s1.cur.mons.getD i none = some m → m.armed = true → m.wake = true →
      ∃ v : Word, (∀ j, j < 4 → (v.getLsbD j = true ↔
          ∃ m, s1.cur.mons.getD j none = some m ∧ m.armed = true ∧ m.wake = true)) ∧
        ∀ t fl, Gives (writeD o.d v) (s1.updCur fun t => { t with
            mons := t.mons.map fun x => x.map fun m => { m with wake := false }
            remain := 0 }) fl t → exec (.waitm o) s = .next (t.finished fl)) ∧
    (s.cur.packet = none → s1.cur.mons.any (·.isSome) = true →
      (∀ m ∈ s1.cur.mons, ∀ x, m = some x → x.wake = false) →
      ∃ t e, exec (.waitm o) s = .next t ∧ t.cur.life = .waiting ∧
        t.cur.wait = some ⟨6, some (.waitm o.d e), false, 0⟩ ∧ t.cur.mons = s1.cur.mons))

/-- TSET writes the slot of its key, in the entry that has the key or else in the lowest free one, and
DST takes the entry's number, or all ones where there is none; TLOOK answers the slot of a key and TCLR
removes it besides. WQRY of the cycle record answers its length, its objects and its families. -/
def Obligations.TagTableAndCycleRecord : Prop :=
  (∀ (o : OpTset) (s s1 s2 : State) (k n : Word), s.cur.guardOn o.g = true → Gives (checkDst o.d) s () s →
    Gives (readS o.a) s k s1 → Gives (operandZ o.b) s1 n s2 →
    let tt := (s2.core s2.cur.core).tagTable
    (∀ i, (∃ e, tagFind tt k = some (i, e)) ∨ (tagFind tt k = none ∧ tagFree tt = some i) → ∀ t fl,
      Gives (writeD o.d (BitVec.ofNat 64 i)) (s2.modCore s2.cur.core fun x =>
        { x with tagTable := tabSet x.tagTable i ⟨k, n.setWidth 16⟩ }) fl t → exec (.tset o) s = .next (t.finished fl)) ∧
    (tagFind tt k = none → tagFree tt = none → ∀ t fl, Gives (writeD o.d (-1)) s2 fl t →
      exec (.tset o) s = .next (t.finished fl))) ∧
  (∀ (o : OpDA) (s s1 : State) (k : Word), s.cur.guardOn o.g = true → Gives (checkDst o.d) s () s →
    Gives (readS o.a) s k s1 →
    let tt := (s1.core s1.cur.core).tagTable
    (∀ i e, tagFind tt k = some (i, e) → ∀ t fl,
      (Gives (writeD o.d (e.slot.setWidth 64)) s1 fl t → exec (.tlook o) s = .next (t.finished fl)) ∧
      (Gives (writeD o.d (e.slot.setWidth 64)) (s1.modCore s1.cur.core fun x =>
        { x with tagTable := tabErase x.tagTable i }) fl t → exec (.tclr o) s = .next (t.finished fl))) ∧
    (tagFind tt k = none → ∀ t fl, Gives (writeD o.d (-1)) s1 fl t →
      exec (.tlook o) s = .next (t.finished fl) ∧ exec (.tclr o) s = .next (t.finished fl))) ∧
  (∀ (o : OpWqry) (s s1 : State) (k v : Word), s.cur.guardOn o.g = true → Gives (checkDst o.d) s () s →
    s.cur.packet = none → Gives (readS o.m.base) s k s1 →
    (o.sel = .clen ∧ v = BitVec.ofNat 64 s1.cur.cycle.length ∨
      o.sel = .cobj ∧ v = ((s1.cur.cycle[k.toNat]?).map (·.1)).getD 0 ∨
      o.sel = .cfam ∧ v = ((s1.cur.cycle[k.toNat]?).map (·.2)).getD 0) →
    exec (.wqry o) s =
      .next ((s1.answer s1.cur.tid 0 (.ok v 0) 0 (cycleHome s1.cur.core)).heldFor 4 (.reg o.d) false))

/-! ### Copies, the Entrepôt and reductions (13 R251 to R270, 16 R321 to R325) -/

/-- COPY, COPYT, GATH, PACK and UNPACK, with their record in the own window, trap COPY_SHAPE at the
first word of the record that fails; with a record that passes and ranges that decode and do not meet
they take a slot, the one kept for them or else a free one, count one copy in flight, queue the operation and write its id, and move nothing yet;
with all slots busy they wait with reason 9. CSTAT answers the state of an id, in flight, ended or
unknown, and traps COPY_ID where reserved bits are set; CCAN of a started copy cancels it from its first
word not yet performed on. -/
def Obligations.CopiesAreIssuedAndWatched : Prop :=
  (∀ (i : Instr) (o : OpDM) (op : Nat) (s s1 s2 : State) (r : Word) (rec : List Word), copyOp i = some (o, op) →
    s.cur.guardOn o.g = true → Gives (checkDst o.d) s () s → Gives (memAddr o.m) s r s1 → r.toNat % 64 = 0 →
    Gives (ownRecord r 8 64) s1 (some rec) s2 → Gives (checkDst o.d) s2 () s2 →
    (∀ k, (shapeBad op rec).findIdx? id = some k →
      exec i s = .next (s2.takeTrap .copyShape (some r) (some (BitVec.ofNat 64 k)))) ∧
    ((shapeBad op rec).findIdx? id = none →
      let src := copySrcRanges op rec
      let dst := copyDstRanges op rec
      let lim := if s2.cur.pl = 0 then 0x3C000 else 0x40000
      Gives (checkRanges (if op = 0x8B then 0x3C000 else lim) 0 src) s2 () s2 →
      (op = 0x8C → Gives (checkRanges lim 0 [(recW rec 4, 1)]) s2 () s2) →
      Gives (checkRanges lim 1 (dst ++ (if recW rec 2 = 0 then [] else [(recW rec 2, 8)]))) s2 () s2 →
      (listsMeet src dst = true → exec i s = .next (s2.takeTrap .copyShape (some r) (some 8))) ∧
      (listsMeet src dst = false →
        (s2.copySlotFor = none → s.cur.packet = none →
          exec i s = .next (s.suspended 9 0)) ∧
        (∀ slot n, s2.copySlotFor = some slot → o.d = .l n →
          let g := nextGen (((tabGet (s2.core s2.cur.core).copies slot).map (·.gen)).getD 0)
          ∃ t, exec i s = .next t ∧ t.flow = .seq ∧
            t.cur.l[n] = BitVec.ofNat 64 (slot + 2 ^ 8 * g.toNat) ∧ t.cur.copyn = s2.cur.copyn + 1 ∧
            tabGet (t.core s2.cur.core).copies slot = some ⟨g, 0, true, 0, s2.cur.tid⟩ ∧
            (∃ e ∈ t.engines, e.tid = s2.cur.tid ∧
              e.kind = .copy op slot (BitVec.ofNat 64 (slot + 2 ^ 8 * g.toNat)) rec ∧ e.started = false ∧
              e.pos = 0 ∧ e.bad = none) ∧
            t.mem = s2.mem)))) ∧
  (∀ (o : OpDA) (s s1 : State) (v : Word), s.cur.guardOn o.g = true → Gives (checkDst o.d) s () s →
    Gives (readS o.a) s v s1 →
    (bits v 7 6 ≠ 0 ∨ bits v 63 32 ≠ 0 → exec (.cstat o) s = .next (s1.takeTrap .copyId (some v) (some 0))) ∧
    (bits v 7 6 = 0 → bits v 63 32 = 0 →
      let slot := tabGet (s1.core s1.cur.core).copies (bits v 5 0)
      (∀ t fl, (∀ c, slot = some c → c.gen.toNat ≠ bits v 31 8) →
        Gives (writeD o.d 0xF00000000) s1 fl t → exec (.cstat o) s = .next (t.finished fl)) ∧
      (∀ c t fl, slot = some c → c.gen.toNat = bits v 31 8 → c.busy = false →
        Gives (writeD o.d c.status) s1 fl t → exec (.cstat o) s = .next (t.finished fl)) ∧
      (∀ c t fl, slot = some c → c.gen.toNat = bits v 31 8 → c.busy = true →
        Gives (writeD o.d (BitVec.ofNat 64 (s1.cookieOf s1.cur.core v + 14 * 2 ^ 32))) s1 fl t →
        exec (.cstat o) s = .next (t.finished fl)))) ∧
  (∀ (o : OpA) (s s1 : State) (v : Word), s.cur.guardOn o.g = true → Gives (readS o.a) s v s1 →
    bits v 7 6 = 0 → bits v 63 32 = 0 →
    (tabGet (s1.core s1.cur.core).copies (bits v 5 0) = none → exec (.ccan o) s = .next (s1.finished .seq)) ∧
    (∀ c e, tabGet (s1.core s1.cur.core).copies (bits v 5 0) = some c → c.gen.toNat = bits v 31 8 →
      s1.engines.find? (fun e => match e.kind with
        | .copy _ _ id _ => e.core == s1.cur.core && id == v
        | _ => false) = some e → e.started = true → e.bad = none →
      ∃ t, exec (.ccan o) s = .next t ∧ { e with bad := some (e.pos, 3) } ∈ t.engines ∧
        t.cur.l = s1.cur.l ∧ t.mem = s1.mem))

/-- EBIN makes a bin set of its record in the lowest free place of its die and writes the handle, or
traps COPY_SHAPE or ENTR_STATE; EAPP posts its record to the Entrepôt of the handle; EREPL of a set at
rest starts its replay, which its thread then holds, and waits with reason 8, and of a set in replay, or kept for
another thread, waits with reason 12. NGRP asks the die of its root for a group, or traps REDUCTION_STATE; NRED sends
one contribution and goes on;
NREDI and NFREE ask the root and wait for its answer. -/
def Obligations.EntrepotAndReductionRequests : Prop :=
  (∀ (o : OpDM) (s s1 s2 : State) (r : Word) (rec : List Word), s.cur.guardOn o.g = true →
    Gives (checkDst o.d) s () s → Gives (memAddr o.m) s r s1 → r.toNat % 64 = 0 →
    Gives (ownRecord r 8 64) s1 (some rec) s2 → Gives (checkDst o.d) s2 () s2 →
    (∀ k, (binBad rec).findIdx? id = some k →
      exec (.ebin o) s = .next (s2.takeTrap .copyShape (some r) (some (BitVec.ofNat 64 k)))) ∧
    ((binBad rec).findIdx? id = none →
      (recW rec 0).toNat + binRegs rec * 2 ^ binRlog rec ≤ 2 ^ 56 → (recW rec 1).toNat + binSize rec ≤ 2 ^ 56 →
      s2.mappedOutside (clusterOf s2.cur.core) s2.cur.launch (recW rec 0).toNat (binRegs rec * 2 ^ binRlog rec) = false →
      s2.mappedOutside (clusterOf s2.cur.core) s2.cur.launch (recW rec 1).toNat (binSize rec) = false →
      ∀ i : Nat, i < 64 → (∀ b, tabGet s2.bins (dieOf s2.cur.core * 64 + i) = some b → b.live = false) →
        (∀ j, j < i → ∃ b, tabGet s2.bins (dieOf s2.cur.core * 64 + j) = some b ∧ b.live = true) →
        ∀ n, o.d = .l n → ∃ t b g, exec (.ebin o) s = .next t ∧ t.flow = .seq ∧
          t.cur.l[n] = binHandle (dieOf s2.cur.core) i g ∧
          tabGet t.bins (dieOf s2.cur.core * 64 + i) = some b ∧ b.gen = g ∧ b.live = true ∧ b.desc = rec ∧
          b.recs = [] ∧ b.launch = s2.cur.launch ∧ b.runner = none ∧ t.mem = s2.mem)) ∧
  (∀ (o : OpEapp) (s s1 s2 s3 : State) (h i v : Word), s.cur.guardOn o.g = true → Gives (readS o.a) s h s1 →
    Gives (operandZ o.b) s1 i s2 → Gives (readS o.c) s2 v s3 → Gives (channelFree .requests) s3 () s3 →
    ∃ t q, exec (.eapp o) s = .next t ∧ t.flow = .seq ∧ t.reqs = s3.reqs ++ [q] ∧ q.posted = true ∧
      q.tid = s3.cur.tid ∧ q.op = .append h ⟨i.toNat, v, o.op⟩ ∧ q.loc = entrLoc (bits h 7 6) ∧
      q.phase.isSome = true ∧ t.mem = s3.mem ∧ t.cur.l = s3.cur.l) ∧
  (∀ (o : OpErepl) (s s1 s2 : State) (h : Word) (k : Nat) (b : BinSet), s.cur.guardOn o.g = true →
    s.cur.packet = none → Gives (checkDst o.d) s () s → Gives (readS o.a) s h s1 → s1.binSet? h = some (k, b) →
    s1.closePhases s1.cur.core .dev = some ([], s2) → s2.cur.errRec = none → s2.binSet? h = some (k, b) →
    (b.runner.isSome = true ∨ (∃ t, b.reserved = some t ∧ t ≠ s2.cur.tid) →
      exec (.erepl o) s = .next (s.suspended 12 (binObject k))) ∧
    (b.runner = none → (∀ t, b.reserved = some t → t = s2.cur.tid) → ∀ s3,
      Gives (holdNow s2 (binObject k)) { s2 with bins := tabSet s2.bins k { b with
        runner := some s2.cur.tid, runFam := s2.cur.fam, runWho := s2.cur.whoWord, runIvl := s2.cur.ivl
        runFree := o.free, reserved := none, app := decide (s2.cur.pl = 0), core := s2.cur.core, skips := [] } } () s3 →
      exec (.erepl o) s = .next (s3.heldFor 8 (.erepl o.d h o.free) false))) ∧
  (∀ (o : OpDMS) (s s1 s2 : State) (r : Word) (rec : List Word), s.cur.guardOn o.g = true →
    s.cur.packet = none → Gives (checkDst o.d) s () s → Gives (memAddr o.m) s r s1 → r.toNat % 64 = 0 →
    Gives (ownRecord r 8 64) s1 (some rec) s2 → Gives (checkDst o.d) s2 () s2 →
    (groupBad rec = true → exec (.ngrp o) s = .next (s2.takeTrap .reductionState (some r) (some 2))) ∧
    (∀ pa, groupBad rec = false → bits (recW rec 0) 63 56 = 0 → Gives (translate (recW rec 0) accTag 0) s2 pa s2 →
      (o.scope = .sys ∧ paPackage pa < s2.npkg ∨ paPackage pa = s2.pkg.num) → mgmtPage pa = false →
      ∃ t q, exec (.ngrp o) s = .next t ∧ t.reqs = s2.reqs ++ [q] ∧ q.posted = false ∧ q.tid = s2.cur.tid ∧
        q.op = .ngrp (recW rec 1) pa (decide (o.scope = .sys)) ∧ q.loc = s2.rootLoc pa ∧
        t.cur.life = .waiting ∧ t.cur.wait = some ⟨4, some (.reg o.d), false, 0⟩)) ∧
  (∀ (o : OpNred) (s s1 s2 s3 : State) (h v rd : Word) (k : Nat) (g : RedGroup), s.cur.guardOn o.g = true →
    Gives (readS o.a) s h s1 → Gives (operandS o.y) s1 v s2 → Gives (readS o.c) s2 rd s3 →
    s3.group? h s3.cur.launch = some (k, g) → Gives (channelFree .reductions) s3 () s3 →
    exec (.nred o) s = .next ({ s3 with partials := s3.partials ++ [({
      handle := h, elem := o.elem.toNat, round := rd.toNat % 256, acc := redOne g.cfg v
      who := [(s3.cur.tid, s3.cur.launch, positionWord s3.pkg.num s3.cur.core s3.cur.entry)]
      valid := true, src := s3.cur.core, more := [] } : Partial)] }.finished .seq)) ∧
  (∀ (o : OpNredi) (s s1 s2 : State) (h rd : Word), s.cur.guardOn o.g = true → s.cur.packet = none →
    Gives (checkDst o.d) s () s → Gives (readS o.a) s h s1 → Gives (operandZ o.t) s1 rd s2 →
    ∃ t q, exec (.nredi o) s = .next t ∧ t.reqs = s2.reqs ++ [q] ∧ q.posted = false ∧ q.tid = s2.cur.tid ∧
      q.op = .nredi h o.elem.toNat (rd.toNat % 256) ∧ q.loc = s2.rootOf h s2.cur.launch ∧
      t.cur.wait = some ⟨4, some (.reg o.d), false, 0⟩) ∧
  (∀ (o : OpDA) (s s1 : State) (h : Word), s.cur.guardOn o.g = true → s.cur.packet = none →
    Gives (checkDst o.d) s () s → Gives (readS o.a) s h s1 →
    ∃ t q, exec (.nfree o) s = .next t ∧ t.reqs = s1.reqs ++ [q] ∧ q.posted = false ∧ q.tid = s1.cur.tid ∧
      q.op = .nfree h ∧ q.loc = s1.rootOf h s1.cur.launch ∧ t.cur.wait = some ⟨4, some (.reg o.d), false, 0⟩)

/-! ### Vector lanes (09 R172 to R201, 10 R202 to R212) -/

/-- A first claim reads 0 in every register (log 12). VCLAIM with bad counts traps ILLEGAL_OPERAND. It waits with reason 7 behind a waiter of its priority or above,
below its minimum, and with 16 claims held and none its own; else, with nobody waiting in the pool, it takes the largest
count of lanes that the pool and the desired count allow and writes it, and a waiting one takes what it was granted; a
hold edge that closes a cycle apart, which only a thread with a registration can meet. Another grant keeps the lanes
below both grants and gains lanes of 0. VREL drops the claim. VYIELD settles
it anew, at its minimum where a waiter of its priority or above cannot be served, and writes the grant, 0 without one.
Every instruction of the vector and modular groups but these three traps NO_CLAIM with 0 and 0 where its thread has no
claim. -/
def Obligations.ClaimsAreGrantedAndReleased : Prop :=
  (∀ (o : OpDC) (s s1 : State) (v : Word), s.cur.guardOn o.g = true → Gives (checkDst o.d) s () s →
     Gives (operandZ o.b) s v s1 →
     let mn := bits v 6 0
     let ds := bits v 14 8
     let good := mn ∈ [4, 8, 16, 32, 64] ∧ ds ∈ [4, 8, 16, 32, 64] ∧ mn ≤ ds ∧ v.toNat = mn + 2 ^ 8 * ds
     let g := s1.poolGroup s1.cur.core
     let free := s1.freeLanes g + s1.cur.lanes
     let Takes (n : Nat) : Prop := ∀ u, Gives (takeGrant n mn ds) s1 () u →
       ∀ t fl, Gives (writeD o.d (BitVec.ofNat 64 n)) u fl t → exec (.vclaim o) s = .next (t.finished fl)
     (¬ good → exec (.vclaim o) s = .next (s1.takeTrap .illegalOperand (some v) (some 4))) ∧
     (good → s1.cur.laneRes = none → s.cur.packet = none →
       ((∃ w ∈ s1.poolThreads g, w.tid ≠ s1.cur.tid ∧ w.waitsLanes = true ∧ s1.cur.eprio ≤ w.eprio) ∨ free < mn ∨
         (16 ≤ s1.claimsHeld g ∧ s1.cur.lanes = 0)) →
       exec (.vclaim o) s = .next (s.suspended 7 s1.stamp (.claim mn ds))) ∧
     (good → s1.cur.laneRes = none → PoolIdle s1 → mn ≤ free → (s1.claimsHeld g < 16 ∨ 0 < s1.cur.lanes) →
       ∃ n, FitLanes n (min ds free) ∧ Takes n ∧ (s1.busy = true → s1.cur.wreg = none → ∀ k, o.d = .l k →
         ∃ t, exec (.vclaim o) s = .next t ∧ t.flow = .seq ∧ t.cur.l[k] = BitVec.ofNat 64 n)) ∧
     (good → ∀ n, s1.cur.laneRes = some n → Takes n)) ∧
  (∀ (s : State) (n mn ds : Nat), PoolIdle s →
     (∀ u, Gives (takeGrant n mn ds) s () u → EdgesMoved (s.claimed (some (match s.cur.claim with
       | some c => { c.resize n with min := mn, des := ds, shrunk := false }
       | none => Claim.fresh n mn ds))) u) ∧
     (s.busy = true → s.cur.wreg = none → ∃ u, Gives (takeGrant n mn ds) s () u)) ∧
  (∀ (n mn ds : Nat) (r : VNo) (i : Nat), ((Claim.fresh n mn ds).vreg r).getD i 0 = 0) ∧
  (∀ (c : Claim) (n : Nat) (r : VNo) (i : Nat), (c.vreg r).length = c.grant →
     ((c.resize n).vreg r).length = n ∧ ((c.resize n).vreg r).getD i 0 = if i < n then (c.vreg r).getD i 0 else 0) ∧
  (∀ (o : OpG) (s : State), s.cur.guardOn o.g = true →
     exec (.vrel o) s = .next (s.releaseClaim.finished .seq) ∧
     (PoolIdle s → EdgesMoved (s.claimed none) s.releaseClaim)) ∧
  (∀ (o : OpD) (s : State), s.cur.guardOn o.g = true → Gives (checkDst o.d) s () s →
     (s.cur.claim = none → ∀ t fl, Gives (writeD o.d 0) s fl t → exec (.vyield o) s = .next (t.finished fl)) ∧
     (∀ c, s.cur.claim = some c → ∀ t fl,
       let u := s.renegotiate none
       Gives (writeD o.d (BitVec.ofNat 64 u.cur.grantNow)) u fl t → exec (.vyield o) s = .next (t.finished fl))) ∧
  (∀ (s : State) (c : Claim), s.cur.claim = some c →
     let g := s.poolGroup s.cur.core
     let d := s.renegClaim s.cur c none c.grant
     ((∃ w ∈ s.poolThreads g, w.waitsLanes = true ∧ s.cur.eprio ≤ w.eprio ∧ ∃ mn ds, w.laneReq = some (mn, ds) ∧
         (s.freeLanes g + w.lanes < mn ∨ 16 ≤ s.claimsHeld g ∧ w.lanes = 0)) →
       d = { c.resize c.min with shrunk := false }) ∧
     (PoolIdle s → 4 ≤ c.des → 4 ≤ c.grant → (∃ n, FitLanes n (min c.des (c.grant + s.freeLanes g)) ∧
         d = { c.resize n with shrunk := false }) ∧
       EdgesMoved (s.updCur fun t => { t with claim := some d }) (s.renegotiate none))) ∧
  (∀ (s : State), s.cur.claim = none →
     let trap (g : Guard) (i : Instr) : Prop := s.cur.guardOn g = true →
       exec i s = .next (s.takeTrap .noClaim (some 0) (some 0))
     let trapD (g : Guard) (d : Dst) (i : Instr) : Prop := Gives (checkDst d) s () s → trap g i
     (∀ (i : Instr) (x : VForm), vecForm i = some x → trap x.g i) ∧
     (∀ (i : Instr) (x : ModForm), modForm i = some x → trap x.g i) ∧
     (∀ (i : Instr) (x : VMemForm), vmemForm i = some x → trap x.g i) ∧
     (∀ o : OpVFill, trap o.g (.vbcast o) ∧ trap o.g (.viota o)) ∧
     (∀ o : OpVIns, trap o.g (.vins o)) ∧ (∀ o : OpVExt, trapD o.g o.d (.vext o)) ∧
     (∀ o : OpVCmp, trap o.g (.vcmp o)) ∧ (∀ o : OpKlog, trap o.g (.klog o)) ∧
     (∀ o : OpKpop, trapD o.g o.d (.kpop o)) ∧ (∀ o : OpVQmx, trap o.g (.vqmx o)) ∧
     (∀ o : OpVDqmx, trap o.g (.vdqmx o)) ∧ (∀ o : OpVBperm, trap o.g (.vbperm o)) ∧
     (∀ o : OpVRed, trapD o.g o.d (.vrsum o) ∧ trapD o.g o.d (.vrmax o) ∧ trapD o.g o.d (.vrmin o)) ∧
     (∀ o : OpVMset, trap o.g (.vmset o)) ∧ (∀ o : OpVBfly, trap o.g (.vbfly o) ∧ trap o.g (.vibfly o)) ∧
     (∀ o : OpVBflyX, trap o.g (.vbflyX o) ∧ trap o.g (.vibflyX o)) ∧ (∀ o : OpVAuto, trap o.g (.vauto o)))

/-- VADD to VSAR, VFMA, VABS, VSEL, VCVT, VPERM and the special functions complete within their turn:
every active element of the destination is F of its operands, rounded once where it is a float, an
inactive one is kept or 0, and the flags of the active elements are raised; no other register of the
claim or of the window, and no byte of memory, changes. -/
def Obligations.ElementwiseVectorResults : Prop :=
  ∀ (i : Instr) (x : VForm), vecForm i = some x → x.completes i

/-- Fills, moves between lanes and registers, comparisons and mask logic: VBCAST, VIOTA, VEXT, VINS,
VBPERM, VCMP, KLOG and KPOP give every element, bit or count its value by its rule, and an index or
distance outside the register traps ILLEGAL_OPERAND. -/
def Obligations.VectorMovesAndMasks : Prop :=
  (∀ (o : OpVFill) (s s1 : State) (c : Claim) (v : Nat), s.cur.guardOn o.g = true → s.cur.claim = some c →
    c.grant ≠ 0 → Gives (readVal o.val (laneWidth o.fmt)) s v s1 → s1.cur.claim = some c →
    let w := laneWidth o.fmt
    let Fills (i : Instr) (step : Nat) : Prop := ∃ d, OnlyV o.v c d ∧
      exec i s = .next ((s1.updCur fun t => { t with claim := some d }).finished .seq) ∧
      ∀ j, j < c.grant * (64 / w) → elemOf (d.vreg o.v) w j = c.elemAfter (c.vreg o.v) w o.mask j (v + j * step)
    Fills (.vbcast o) 0 ∧ Fills (.viota o) 1) ∧
  (∀ (o : OpVExt) (s s1 : State) (c : Claim) (k : Word), s.cur.guardOn o.g = true → Gives (checkDst o.d) s () s →
    s.cur.claim = some c → c.grant ≠ 0 → Gives (operandZ o.idx) s k s1 →
    let w := laneWidth o.fmt
    let x := elemOf (c.vreg o.va) w k.toNat
    (c.grant * (64 / w) ≤ k.toNat → exec (.vext o) s = .next (s1.takeTrap .illegalOperand (some k) (some 4))) ∧
    (k.toNat < c.grant * (64 / w) → ∀ t fl, Gives (writeD o.d (if isIntFmt o.fmt = true ∧ o.uns = false
        then BitVec.ofInt 64 (elemInt w false x) else BitVec.ofNat 64 x)) s1 fl t →
      exec (.vext o) s = .next (t.finished fl))) ∧
  (∀ (o : OpVIns) (s s1 s2 : State) (c : Claim) (a k : Word), s.cur.guardOn o.g = true → s.cur.claim = some c →
    c.grant ≠ 0 → Gives (readS o.a) s a s1 → Gives (operandZ o.idx) s1 k s2 → s2.cur.claim = some c →
    let w := laneWidth o.fmt
    (c.grant * (64 / w) ≤ k.toNat → exec (.vins o) s = .next (s2.takeTrap .illegalOperand (some k) (some 4))) ∧
    (k.toNat < c.grant * (64 / w) → ∃ d, OnlyV o.v c d ∧
      exec (.vins o) s = .next ((s2.updCur fun t => { t with claim := some d }).finished .seq) ∧
      ∀ j, j < c.grant * (64 / w) → elemOf (d.vreg o.v) w j =
        if j = k.toNat then a.toNat % 2 ^ w else elemOf (c.vreg o.v) w j)) ∧
  (∀ (o : OpVBperm) (s : State) (c : Claim), s.cur.guardOn o.g = true → s.cur.claim = some c → c.grant ≠ 0 →
    let w := laneWidth o.fmt
    (c.grant * (64 / w) ≤ 2 ^ o.dist.toNat →
      exec (.vbperm o) s = .next (s.takeTrap .illegalOperand (some (o.dist.setWidth 64)) (some 7))) ∧
    (2 ^ o.dist.toNat < c.grant * (64 / w) → ∃ d, OnlyV o.vd c d ∧
      exec (.vbperm o) s = .next ((s.updCur fun t => { t with claim := some d }).finished .seq) ∧
      ∀ j, j < c.grant * (64 / w) → elemOf (d.vreg o.vd) w j =
        c.elemAfter (c.vreg o.vd) w o.mask j (elemOf (c.vreg o.va) w (j ^^^ 2 ^ o.dist.toNat)))) ∧
  (∀ (o : OpVCmp) (s : State) (c : Claim), (Instr.vcmp o).wf = true → s.cur.guardOn o.g = true →
    s.cur.claim = some c → c.grant ≠ 0 →
    let w := laneWidth o.fmt
    let e := fmtElem o.fmt
    let x (j : Nat) : Nat := elemOf (c.vreg o.va) w j
    let y (j : Nat) : Nat := c.src o.y w o.uns j
    let fc (j : Nat) : Bool × Word := fcond (fcondOf o.cond.toNat) (decodeElem e false (x j)) (decodeElem e false (y j))
    let sg (j : Nat) : Int × Int :=
      let u : Bool := o.uns || decide (6 ≤ o.cond.toNat)
      (elemInt w u (x j), elemInt w u (y j))
    let holds (j : Nat) : Bool := if isIntFmt o.fmt then
        (match o.cond.toNat with
        | 0 => decide (x j = y j)
        | 1 => decide (x j ≠ y j)
        | 2 => decide ((sg j).1 < (sg j).2)
        | 3 => decide ((sg j).1 ≤ (sg j).2)
        | 4 => decide ((sg j).2 < (sg j).1)
        | 5 => decide ((sg j).2 ≤ (sg j).1)
        | 6 => decide ((sg j).1 < (sg j).2)
        | 7 => decide ((sg j).1 ≤ (sg j).2)
        | 8 => decide ((sg j).2 < (sg j).1)
        | _ => decide ((sg j).2 ≤ (sg j).1))
      else (fc j).1
    ∃ d fl, exec (.vcmp o) s = .next (((s.flagged fl).updCur fun t => { t with claim := some d }).finished .seq) ∧
      { d with k := d.k.set o.kd.val (c.kreg o.kd) } = c ∧
      (∀ j, j < c.grant * (64 / w) → maskBit (d.kreg o.kd) w j =
        if c.active (maskOf o.mask) w j then holds j else !zeroing o.mask && maskBit (c.kreg o.kd) w j) ∧
      (∀ l b, l < c.grant → 64 / w ≤ b → ((d.kreg o.kd).getD l 0).getLsbD b = false) ∧
      (isIntFmt o.fmt = true → fl = 0)) ∧
  (∀ (o : OpKlog) (s : State) (c : Claim), s.cur.guardOn o.g = true → s.cur.claim = some c → c.grant ≠ 0 →
    ∃ d, exec (.klog o) s = .next ((s.updCur fun t => { t with claim := some d }).finished .seq) ∧
      { d with k := d.k.set o.kd.val (c.kreg o.kd) } = c ∧
      ∀ l b, l < c.grant → b < 8 → ((d.kreg o.kd).getD l 0).getLsbD b = o.lut.getLsbD
        ((if ((c.kreg o.ka).getD l 0).getLsbD b then 2 else 0) + (if ((c.kreg o.kb).getD l 0).getLsbD b then 1 else 0))) ∧
  (∀ (o : OpKpop) (s : State) (c : Claim), s.cur.guardOn o.g = true → Gives (checkDst o.d) s () s →
    s.cur.claim = some c → c.grant ≠ 0 → ∀ t fl,
    let w := laneWidth o.fmt
    Gives (writeD o.d (BitVec.ofNat 64 ((List.range (c.grant * (64 / w))).countP fun j => maskBit (c.kreg o.ka) w j)))
      s fl t → exec (.kpop o) s = .next (t.finished fl))

/-- VRSUM, VRMAX and VRMIN reduce the active elements: an integer sum wraps at 64 bits, a float sum is
exact and rounded once, and is counted; of no element the sum is 0 and the extreme the least or greatest
value of the format, and of one float it is that float, or the canonical NaN. The flags are raised before DST is written. VQMX writes elements and scales of its blocks by the block rule or the fixed scale,
and VDQMX the elements times their scales, rounded once; a grant below a block traps NO_CLAIM.
The integer sum takes OVF by log 20, the extreme folds from the first active element by log 33, and scales that go
to the register of the elements are written over them by log 96. -/
def Obligations.VectorReductionsAndBlocks : Prop :=
  (∀ (o : OpVRed) (s : State) (c : Claim), s.cur.guardOn o.g = true → Gives (checkDst o.d) s () s →
    s.cur.claim = some c → c.grant ≠ 0 → ∀ (t : State) (fl : Flow),
    let w := laneWidth o.fmt
    let e := fmtElem o.fmt
    let xs := ((List.range (c.grant * (64 / w))).filter (c.active o.mask w)).map (elemOf (c.vreg o.va) w)
    let k := s.rctx o.rnd o.ovf 0
    let r : Rounded := if xs = [] then ⟨0, 0⟩ else roundRes e k (sumVals k.mode (xs.map (decodeElem e false)))
    let ext (b : Nat) : Word := if isIntFmt o.fmt = true ∧ o.uns = false then BitVec.ofInt 64 (elemInt w false b)
      else BitVec.ofNat 64 b
    (isIntFmt o.fmt = true → Gives (writeD o.d (BitVec.ofInt 64 (xs.map (elemInt w o.uns)).sum)) s fl t →
      exec (.vrsum o) s = .next (t.finished fl)) ∧
    (isIntFmt o.fmt = false → Gives (writeD o.d (BitVec.ofNat 64 r.bits)) (s.flagged r.flags) fl t →
      exec (.vrsum o) s = .next (t.resulted fl true)) ∧
    (isIntFmt o.fmt = true → ∀ b ∈ xs, (∀ y ∈ xs, elemInt w o.uns y ≤ elemInt w o.uns b) →
      Gives (writeD o.d (ext b)) s fl t → exec (.vrmax o) s = .next (t.resulted fl false)) ∧
    (isIntFmt o.fmt = true → ∀ b ∈ xs, (∀ y ∈ xs, elemInt w o.uns b ≤ elemInt w o.uns y) →
      Gives (writeD o.d (ext b)) s fl t → exec (.vrmin o) s = .next (t.resulted fl false)) ∧
    (isIntFmt o.fmt = true → xs = [] →
      (Gives (writeD o.d (BitVec.ofInt 64 (if o.uns then 0 else -2 ^ (w - 1)))) s fl t →
        exec (.vrmax o) s = .next (t.finished fl)) ∧
      (Gives (writeD o.d (BitVec.ofInt 64 (if o.uns then 2 ^ w - 1 else 2 ^ (w - 1) - 1))) s fl t →
        exec (.vrmin o) s = .next (t.finished fl))) ∧
    (o.fmt = .fp32 → xs = [] →
      (Gives (writeD o.d 0xFF800000) s fl t → exec (.vrmax o) s = .next (t.finished fl)) ∧
      (Gives (writeD o.d 0x7F800000) s fl t → exec (.vrmin o) s = .next (t.finished fl))) ∧
    (isIntFmt o.fmt = false → ∀ x y, xs = [x, y] →
      (Gives (writeD o.d (BitVec.ofNat 64 (minmaxVal e true x y).bits)) (s.flagged (minmaxVal e true x y).flags) fl t →
        exec (.vrmax o) s = .next (t.resulted fl false)) ∧
      (Gives (writeD o.d (BitVec.ofNat 64 (minmaxVal e false x y).bits)) (s.flagged (minmaxVal e false x y).flags) fl t →
        exec (.vrmin o) s = .next (t.resulted fl false))) ∧
    (isIntFmt o.fmt = false → ∀ x, xs = [x] →
      let b := if (decodeElem e false x).isNan = true then e.nan else x % 2 ^ e.width
      Gives (writeD o.d (BitVec.ofNat 64 b)) (s.flagged (snanFlag (decodeElem e false x))) fl t →
        exec (.vrmax o) s = .next (t.resulted fl false) ∧ exec (.vrmin o) s = .next (t.resulted fl false))) ∧
  (∀ (o : OpVQmx) (s : State) (c : Claim), s.cur.guardOn o.g = true → s.cur.claim = some c → c.grant ≠ 0 →
    let w := laneWidth o.fmt2
    let p := mxPar o.fmt
    let block (b : Nat) : Nat × List Nat × Word :=
      let cs := (List.range 32).map fun i => s.rctx o.rnd o.ovf (32 * b + i)
      let xs := (((c.elems (c.vreg o.va) w).map (decodeElem (fmtElem o.fmt2) false)).drop (32 * b)).take 32
      match o.scale with
      | .block => quantMx p cs xs
      | .v r => fixedMx p ((laneBytes (c.vreg r)).getD b 0).toNat cs xs
      | .lit v => fixedMx p (v.toNat % 256) cs xs
    let bs := (List.range (2 * c.grant / w)).map block
    let es := bs.flatMap fun r => r.2.1
    (c.grant < w / 2 → exec (.vqmx o) s = .next (s.takeTrap .noClaim (some (BitVec.ofNat 64 (w / 2))) (some 0))) ∧
    (w / 2 ≤ c.grant →
      let elems := bytesLanes c.grant (mxBytes (o.fmt == .mxfp4) es (es.length + 1))
      let scales := bytesLanes c.grant (bs.map fun r => BitVec.ofNat 8 r.1)
      exec (.vqmx o) s = .next (((s.flagged (bs.foldl (fun f r => f ||| r.2.2) 0)).counted.updCur fun t =>
        { t with claim := some { c with v := (c.v.set o.ve.val elems).set o.vs.val scales } }).finished .seq))) ∧
  (∀ (o : OpVDqmx) (s : State) (c : Claim), s.cur.guardOn o.g = true → s.cur.claim = some c → c.grant ≠ 0 →
    let w := laneWidth o.fmt
    let r (j : Nat) : Rounded := roundTo (fmtElem o.fmt) false (s.rctx o.rnd o.ovf j)
      (mxElem (mxPar o.fmt2) ((laneBytes (c.vreg o.vs)).getD (j / 32) 0).toNat
        (mxAt (o.fmt2 == .mxfp4) (laneBytes (c.vreg o.ve)) j))
    (c.grant < w / 2 → exec (.vdqmx o) s = .next (s.takeTrap .noClaim (some (BitVec.ofNat 64 (w / 2))) (some 0))) ∧
    (w / 2 ≤ c.grant → ∃ d fl, exec (.vdqmx o) s = .next (((s.flagged fl).counted.updCur fun t =>
        { t with claim := some d }).finished .seq) ∧ OnlyV o.vd c d ∧
      ∀ j, j < c.grant * (64 / w) → elemOf (d.vreg o.vd) w j = (r j).bits % 2 ^ w))

/-- VLD, VST, VLDS, VSTS, VGATH and VSCAT send one request for each active element, in rising order.
A vector load whose elements have all come back writes the active elements and keeps or clears the
others; where one trapped, the lowest traps and the register stays. -/
def Obligations.VectorAccessesAreSentAndComplete : Prop :=
  (∀ (i : Instr) (x : VMemForm), vmemForm i = some x → x.sends i) ∧
  (∀ (s : State) (v : VNo) (sz : Size) (m : Option VMask) (c : Claim) (val : Nat → Word),
     s.cur.claim = some c →
     let w := 8 * bytesOf sz
     let act := c.actives? m w
     (∃ d, Gives (finishVload v sz m (act.map fun j => (j, .ok (val j) 0))) s .seq
         (s.updCur fun t => { t with claim := some d }) ∧ OnlyV v c d ∧
       ∀ j, j < c.grant * (64 / w) → elemOf (d.vreg v) w j = c.elemAfter (c.vreg v) w m j (val j).toNat) ∧
     (∀ (l r : List (Nat × Result)) (j : Nat) (cause : Cause) (i0 i1 : Word),
       (∀ p ∈ l ++ r, j < p.1) → finishVload v sz m (l ++ (j, .trap cause i0 i1) :: r) s =
         .error (.trap cause (some i0) (some i1) s)))

/-! ### Modular lanes -/

/-- VMADD, VMSUB, VMNEG, VMRED, VMTO, VMFROM, VMMUL and VMMAC with valid moduli: each active result is
below its modulus q and is the sum, difference, negative, remainder, product by R, or what times R is
the product. -/
def Obligations.ModularResults : Prop :=
  ∀ (i : Instr) (x : ModForm), modForm i = some x → x.completes i

/-- VMSET sets a Q or W register; the first active element whose modulus is invalid traps
MODULUS_INVALID; VBFLY, VBFLY.x, VIBFLY and VIBFLY.x give both ends of every active pair, and VAUTO puts
each element, with its sign, where multiplying its index by g takes it. -/
def Obligations.ButterfliesAndAutomorphisms : Prop :=
  (∀ (o : OpVMset) (s : State) (c : Claim), s.cur.guardOn o.g = true → s.cur.claim = some c → c.grant ≠ 0 →
    let w := if o.w64 then 64 else 32
    ∀ (s1 : State) (val : Nat → Nat), s1.cur.claim = some c →
      (∃ r x, o.src = .scalar r ∧ Gives (readS r) s x s1 ∧ ∀ j, val j = x.toNat % 2 ^ w) ∨
        (∃ x, o.src = .lit x ∧ s1 = s ∧ ∀ j, val j = x.toNat % 2 ^ w) ∨
        (∃ r, o.src = .v r ∧ s1 = s ∧ ∀ j, val j = elemOf (c.vreg r) w j) →
      ∃ d, exec (.vmset o) s = .next ((s1.updCur fun t => { t with claim := some d }).finished .seq) ∧
        d.v = c.v ∧ d.k = c.k ∧ d.grant = c.grant ∧
        (∀ n, o.q = .q n → d.w = c.w ∧ (∀ m, m ≠ n → d.q[m] = c.q[m]) ∧
          ∀ j, j < c.grant * (64 / w) → elemOf d.q[n] w j = val j) ∧
        (∀ n, o.q = .w n → d.q = c.q ∧ (∀ m, m ≠ n → d.w[m] = c.w[m]) ∧
          ∀ j, j < c.grant * (64 / w) → elemOf d.w[n] w j = val j)) ∧
  (∀ (i : Instr) (x : ModForm) (s : State) (c : Claim) (j : Nat), modForm i = some x → s.cur.guardOn x.g = true →
    s.cur.claim = some c → c.grant ≠ 0 →
    let w := if x.w64 then 64 else 32
    let q := elemOf c.q[x.qs] w j
    j < c.grant * (64 / w) → c.active (maskOf x.mask) w j = true → ¬ GoodModulus c w x.qs x.useW j →
    (∀ k, k < j → c.active (maskOf x.mask) w k = true → GoodModulus c w x.qs x.useW k) →
    exec i s = .next (s.takeTrap .modulusInvalid (some (BitVec.ofNat 64 q))
      (some (BitVec.ofNat 64 (x.qs.val + (if q % 2 = 1 ∧ 3 ≤ q ∧ q < 2 ^ (w - 2) then 4 else 0) + j * 2 ^ 8))))) ∧
  (∀ (o : OpVBfly) (inv : Bool) (s : State) (c : Claim), s.cur.guardOn o.g = true → s.cur.claim = some c →
    c.grant ≠ 0 →
    let w := if o.w64 then 64 else 32
    let n := c.grant * (64 / w)
    let d2 := 2 ^ o.dist.toNat
    let i := if inv then .vibfly o else .vbfly o
    (n ≤ d2 → exec i s = .next (s.takeTrap .illegalOperand (some (BitVec.ofNat 64 o.dist.toNat)) (some 7))) ∧
    (d2 < n → (∀ j, j < n → Nat.testBit j o.dist.toNat = false → c.active (maskOf o.mask) w j = true →
        GoodModulus c w o.qs true j) →
      ∃ d, exec i s = .next ((s.updCur fun t => { t with claim := some d }).finished .seq) ∧ OnlyV o.vd c d ∧
        ∀ j, j + d2 < n → Nat.testBit j o.dist.toNat = false →
          let e (k : Nat) : Nat := elemOf (d.vreg o.vd) w k
          let x (k : Nat) : Nat := elemOf (c.vreg o.va) w k
          if c.active (maskOf o.mask) w j then
            Butterfly inv w (x j) (x (j + d2)) (elemOf (c.vreg o.vb) w j) (elemOf c.q[o.qs] w j) (e j) (e (j + d2))
          else ∀ k ∈ [j, j + d2], e k = if zeroing o.mask then 0 else elemOf (c.vreg o.vd) w k)) ∧
  (∀ (o : OpVBflyX) (inv : Bool) (s : State) (c : Claim), s.cur.guardOn o.g = true → s.cur.claim = some c →
    c.grant ≠ 0 →
    let w := if o.w64 then 64 else 32
    let i := if inv then .vibflyX o else .vbflyX o
    (∀ j, j < c.grant * (64 / w) → c.active (maskOf o.mask) w j = true → GoodModulus c w o.qs true j) →
    ∃ d, exec i s = .next ((s.updCur fun t => { t with claim := some d }).finished .seq) ∧
      (∀ r, r ≠ o.vd → r ≠ o.vd + 1 → d.vreg r = c.vreg r) ∧ d.k = c.k ∧ d.q = c.q ∧ d.w = c.w ∧
      ∀ j, j < c.grant * (64 / w) → c.active (maskOf o.mask) w j = true →
        Butterfly inv w (elemOf (c.vreg o.va) w j) (elemOf (c.vreg o.vc) w j) (elemOf (c.vreg o.vb) w j)
          (elemOf c.q[o.qs] w j) (elemOf (d.vreg o.vd) w j) (elemOf (d.vreg (o.vd + 1)) w j)) ∧
  (∀ (o : OpVAuto) (s s1 : State) (c : Claim) (gw : Word), s.cur.guardOn o.g = true → s.cur.claim = some c →
    c.grant ≠ 0 → Gives (operandZ o.b) s gw s1 → s1.cur.claim = some c →
    let w := if o.w64 then 64 else 32
    let n := 2 ^ o.ln.toNat
    let g := gw.toNat
    ((g % 2 = 0 ∨ 2 * n ≤ g) → exec (.vauto o) s = .next (s1.takeTrap .illegalOperand (some gw) (some 4))) ∧
    (g % 2 = 1 → g < 2 * n → c.grant * (64 / w) < n →
      exec (.vauto o) s = .next (s1.takeTrap .illegalOperand (some (o.ln.setWidth 64)) (some 7))) ∧
    (g % 2 = 1 → g < 2 * n → n ≤ c.grant * (64 / w) →
      (∀ j, j < c.grant * (64 / w) → c.active (maskOf o.mask) w j = true → GoodModulus c w o.qs false j) →
      ∃ d, exec (.vauto o) s = .next ((s1.updCur fun t => { t with claim := some d }).finished .seq) ∧
        OnlyV o.vd c d ∧
        ∀ p i, i < n → p * n + n ≤ c.grant * (64 / w) →
          let e := i * g % (2 * n)
          let j := p * n + e % n
          c.active (maskOf o.mask) w j = true →
          (elemOf (d.vreg o.vd) w j : Int) = (if e < n then (elemOf (c.vreg o.va) w (p * n + i) : Int)
            else -(elemOf (c.vreg o.va) w (p * n + i) : Int)) % (elemOf c.q[o.qs] w j : Int)))

/-! ### Operand rings and matrix arrays (12 R228 to R250) -/

/-- RINGI starts a ring at 0 in every count. RPUSH.res and RPOP.res write the address of the slot kept for them, or
else wait with reason 12 on a full or empty ring, or reserve the next slot, for a thread with no registration, and
write its address; RPUSH writes the header of the first reserved slot after its release, and behind the earlier
accesses of its thread to the slot, and publishes it; RPOP releases
the first slot that no operation in flight holds; RSTAT answers its selector, and 0 for a ring that is not set up or
outside the mask. -/
def Obligations.RingsReserveAndPublish : Prop :=
  let Ring? (s : State) (n : Fin 32) : Option Ring := s.ring? (clusterOf s.cur.core) n.val
  let Allowed (s : State) (n : Fin 32) : Prop :=
    ∃ l, s.launch? s.cur.launch = some l ∧ l.rmask.testBit n.val = true
  (∀ (o : OpRingi) (s s1 s2 : State) (b v : Word), s.cur.guardOn o.g = true → Gives (readS o.a) s b s1 →
    Gives (operandZ o.cfg) s1 v s2 →
    (bits v 15 0 < 2 ∨ bits v 22 16 < 1 ∨ 64 < bits v 22 16 ∨ bits v 63 26 ≠ 0 →
      exec (.ringi o) s = .next (s2.takeTrap .illegalOperand (some v) (some 4))) ∧
    (2 ≤ bits v 15 0 → 1 ≤ bits v 22 16 → bits v 22 16 ≤ 64 → bits v 63 26 = 0 → b.toNat % 64 = 0 →
      Gives (ringPlace b (bits v 22 16 * (bits v 15 0 * 64))) s2 () s2 →
      (¬ Allowed s2 o.ring → exec (.ringi o) s =
        .next (s2.takeTrap .ringState (some (BitVec.ofNat 64 o.ring.val)) (some 1))) ∧
      (Allowed s2 o.ring → (∀ r, Ring? s2 o.ring = some r → r.res = r.pop) →
        (∀ t ∈ s2.allThreads, t.waitsFor 12 (ringObject (clusterOf s2.cur.core) o.ring.val) = false ∧
          t.waitsFor 12 (ringObject (clusterOf s2.cur.core) o.ring.val + 2 ^ 64) = false) →
        exec (.ringi o) s = .next ((s2.setRing (clusterOf s2.cur.core) o.ring.val
          ⟨b, v, 0, 0, 0, 0, [], []⟩).finished .seq)))) ∧
  (∀ (o : OpRing) (s : State) (r : Ring), s.cur.guardOn o.g = true → Gives (checkDst o.d) s () s →
    Allowed s o.ring → Ring? s o.ring = some r →
    let cl := clusterOf s.cur.core
    (∀ p rest, takeRes s.cur.prods cl o.ring.val (fun u => u == 3) = some (p, rest) → ∀ t fl,
      Gives (writeD o.d (r.slotAddr p.x)) (s.updCur fun t => { t with prods := rest ++ [{ p with use := 0 }] }) fl t →
      exec (.rpushRes o) s = .next (t.finished fl)) ∧
    (∀ p rest, takeRes s.cur.conss cl o.ring.val (fun u => u == 3) = some (p, rest) → ∀ t fl,
      Gives (writeD o.d (r.slotAddr p.x)) (s.updCur fun t => { t with conss := rest ++ [{ p with use := 0 }] }) fl t →
      exec (.rpopRes o) s = .next (t.finished fl)) ∧
    (takeRes s.cur.prods cl o.ring.val (fun u => u == 3) = none → r.slots ≤ r.res - r.pop → s.cur.packet = none → exec (.rpushRes o) s =
      .next (s.suspended 12 (ringObject (clusterOf s.cur.core) o.ring.val + 2 ^ 64))) ∧
    (takeRes s.cur.prods cl o.ring.val (fun u => u == 3) = none → r.res - r.pop < r.slots →
      s.cur.prods.length < 64 → s.busy = true → s.cur.wreg = none → ∀ n, o.d = .l n →
      ∃ t, exec (.rpushRes o) s = .next t ∧ t.cur.l[n] = r.base + BitVec.ofNat 64 (r.res % r.slots * r.stride) ∧
        Ring? t o.ring = some { r with res := r.res + 1 } ∧
        t.cur.prods = s.cur.prods ++ [⟨clusterOf s.cur.core, o.ring.val, r.res, 0⟩] ∧ t.mem = s.mem) ∧
    (takeRes s.cur.conss cl o.ring.val (fun u => u == 3) = none → r.cons = r.pub → s.cur.packet = none → exec (.rpopRes o) s =
      .next (s.suspended 12 (ringObject (clusterOf s.cur.core) o.ring.val))) ∧
    (takeRes s.cur.conss cl o.ring.val (fun u => u == 3) = none → r.cons ≠ r.pub →
      s.cur.conss.length < 64 → s.busy = true → s.cur.wreg = none → ∀ n, o.d = .l n →
      ∃ t, exec (.rpopRes o) s = .next t ∧ t.cur.l[n] = r.base + BitVec.ofNat 64 (r.cons % r.slots * r.stride) ∧
        Ring? t o.ring = some { r with cons := r.cons + 1 } ∧
        t.cur.conss = s.cur.conss ++ [⟨clusterOf s.cur.core, o.ring.val, r.cons, 0⟩] ∧ t.mem = s.mem) ∧
    (∀ p rest, takeRes s.cur.conss cl o.ring.val (fun u => u != 1) = some (p, rest) →
      ∀ t fl, Gives (writeD o.d (BitVec.ofNat 64 p.x)) ((s.updCur fun t => { t with conss := rest }).release
        (clusterOf s.cur.core) o.ring.val p.x) fl t → exec (.rpop o) s = .next (t.finished fl)) ∧
    (takeRes s.cur.conss cl o.ring.val (fun u => u != 1) = none → exec (.rpop o) s =
      .next (s.takeTrap .ringState (some (BitVec.ofNat 64 o.ring.val)) (some 7)))) ∧
  (∀ (o : OpRpush) (s s1 s2 s3 : State) (r : Ring) (p : RingRes) (rest : List RingRes) (h : Word) (loc : Loc),
    s.cur.guardOn o.g = true → Gives (checkDst o.d) s () s → Allowed s o.ring → Ring? s o.ring = some r →
    takeRes s.cur.prods (clusterOf s.cur.core) o.ring.val (fun _ => true) = some (p, rest) →
    Gives (readS o.a) s h s1 →
    (h.getLsbD 31 = true ∨ headerReserved h = true → exec (.rpush o) s =
      .next (s1.takeTrap .ringState (some (BitVec.ofNat 64 o.ring.val)) (some 9))) ∧
    (h.getLsbD 31 = false → headerReserved h = false → Gives (slotLoc (r.slotAddr p.x) accWrite) s1 loc s1 →
      Gives (boardCheck (r.slotAddr p.x) 64 true) s1 () s1 → Gives (wordsFree loc 8) s1 () s1 →
      s1.closePhases s1.cur.core (if bits r.base 63 56 = 0 then .dev else .clu) = some ([], s2) →
      s2.cur.errRec = none → Ring? s2 o.ring = some r →
      takeRes s2.cur.prods (clusterOf s2.cur.core) o.ring.val (fun _ => true) = some (p, rest) →
      Gives (writeHeader (r.slotAddr p.x) h p.x 8) s2 () s3 →
      ∀ t fl, Gives (writeD o.d (BitVec.ofNat 64 p.x)) ((s3.updCur fun t => { t with prods := rest }).publish
        (clusterOf s2.cur.core) o.ring.val p.x) fl t → exec (.rpush o) s = .next (t.finished fl))) ∧
  (∀ (s : State) (cl n : Nat) (r : Ring), s.ring? cl n = some r → r.published = [] → r.released = [] →
    (∃ u, (s.publish cl n r.pub).ring? cl n = some u ∧ u.pub = r.pub + 1 ∧ u.pop = r.pop ∧ u.res = r.res ∧
      u.cons = r.cons) ∧
    (∃ u, (s.release cl n r.pop).ring? cl n = some u ∧ u.pop = r.pop + 1 ∧ u.pub = r.pub ∧ u.res = r.res ∧
      u.cons = r.cons)) ∧
  (∀ (o : OpRstat) (s : State), s.cur.guardOn o.g = true → Gives (checkDst o.d) s () s → ∀ t fl,
    (Ring? s o.ring = none ∨ ¬ Allowed s o.ring → Gives (writeD o.d 0) s fl t →
      exec (.rstat o) s = .next (t.finished fl)) ∧
    (∀ r, Ring? s o.ring = some r → Allowed s o.ring → Gives (writeD o.d (match o.sel with
        | .ready => BitVec.ofNat 64 (r.pub - r.cons)
        | .free => BitVec.ofNat 64 (r.slots - (r.res - r.pop))
        | .res => BitVec.ofNat 64 r.res
        | .pub => BitVec.ofNat 64 r.pub
        | .cons => BitVec.ofNat 64 r.cons
        | .pop => BitVec.ofNat 64 r.pop
        | .cfg => r.cfg
        | .base => r.base)) s fl t → exec (.rstat o) s = .next (t.finished fl)))

/-- TLDW takes the next published slot of a B ring and a free array for its thread, or waits with reason 12; TREL gives the array
back and traps RING_STATE for one that the thread does not hold; TMMA and TZERO queue their operation on
the accumulator region, TDRAIN with no record queues its drain and counts itself; TWAIT waits with reason
8 while a matrix operation of its thread is in flight, then writes the report and clears it. A region off
its alignment traps MISALIGNED. TLDW and TMMA are stated for a thread with no registration. -/
def Obligations.MatrixOperationsAreQueued : Prop :=
  (∀ (o : OpTldw) (s : State) (r : Ring) (x : Nat) (h : Word) (n : Fin 64), s.cur.guardOn o.g = true → s.busy = true →
    s.cur.wreg = none → o.d = .l n → Gives (getRing o.ring) s r s → r.isB = true → Gives roomForMatrix s () s →
    takeRes s.cur.conss (clusterOf s.cur.core) o.ring.val (fun u => u == 2) = none →
    Gives (takeSlot o.ring r) s (x, h) s → (o.red = true → bits h 24 16 ≤ 128) →
    (∀ a, a < 8 → ¬ ((s.array (clusterOf s.cur.core) a).holder = some s.cur.tid ∧
      (s.array (clusterOf s.cur.core) a).kp = 0)) →
    (s.freeArray (clusterOf s.cur.core) = none → s.cur.packet = none → exec (.tldw o) s =
      .next (s.suspended 12 (arrayObject (clusterOf s.cur.core)) (.slot o.ring.val x))) ∧
    (∀ a, s.freeArray (clusterOf s.cur.core) = some a → ∃ t, exec (.tldw o) s = .next t ∧ t.flow = .seq ∧
      t.cur.l[n] = BitVec.ofNat 64 a ∧ (t.array (clusterOf s.cur.core) a).holder = some s.cur.tid ∧
      (t.array (clusterOf s.cur.core) a).fmt = bits h 3 0 ∧ (t.array (clusterOf s.cur.core) a).kp = bits h 24 16 ∧
      ⟨clusterOf s.cur.core, o.ring.val, x, 1⟩ ∈ t.cur.conss ∧
      (∃ e ∈ t.engines, e.tid = s.cur.tid ∧ e.kind = .tldw o.ring.val x a (r.slotAddr x) (hdrOf h) ∧
        e.started = false) ∧ t.mem = s.mem)) ∧
  (∀ (o : OpA) (s s1 : State) (a : Word), s.cur.guardOn o.g = true → Gives (readS o.a) s a s1 →
    let m := s1.array (clusterOf s1.cur.core) a.toNat
    (8 ≤ a.toNat ∨ m.holder ≠ some s1.cur.tid ∨ m.kp = 0 →
      exec (.trel o) s = .next (s1.takeTrap .ringState (some a) (some 8))) ∧
    (a.toNat < 8 → m.holder = some s1.cur.tid → m.kp ≠ 0 → exec (.trel o) s =
      .next (((s1.setArray (clusterOf s1.cur.core) a.toNat { m with holder := none }).serveArrays
        (clusterOf s1.cur.core) 8).finished .seq))) ∧
  (∀ (s : State) (a : Word), a.toNat % 64 ≠ 0 → checkRegion a s = .error (.trap .misaligned (some a) (some 1) s)) ∧
  (∀ (o : OpTmma) (s s1 s2 : State) (a0 a h : Word) (acc x : Nat) (r : Ring), s.cur.guardOn o.g = true →
    Gives (memAddr o.m) s a0 s1 → Gives (checkRegion a0) s1 acc s1 → Gives (readS o.c) s1 a s2 → a.toNat < 8 →
    let m := s2.array (clusterOf s2.cur.core) a.toNat
    s2.busy = true → s2.cur.wreg = none → m.holder = some s2.cur.tid → m.kp ≠ 0 → Gives (getRing o.ring) s2 r s2 → r.isB = false →
    Gives roomForMatrix s2 () s2 → Gives (takeSlot o.ring r) s2 (x, h) s2 →
    (bits h 3 0 = 0 ↔ m.fmt = 0) → bits h 24 16 = m.kp →
    ∃ t, exec (.tmma o) s = .next t ∧ t.flow = .seq ∧ ⟨clusterOf s2.cur.core, o.ring.val, x, 1⟩ ∈ t.cur.conss ∧
      (∃ e ∈ t.engines, e.tid = s2.cur.tid ∧
        e.kind = .tmma o.ring.val x a.toNat (r.slotAddr x) (hdrOf h) acc ∧ e.started = false ∧
        e.writes = [(acc, 65536)]) ∧ t.cur.l = s2.cur.l ∧ t.mem = s2.mem) ∧
  (∀ (o : OpM) (s s1 : State) (a0 : Word) (acc : Nat), s.cur.guardOn o.g = true → Gives (memAddr o.m) s a0 s1 →
    Gives (checkRegion a0) s1 acc s1 → Gives roomForMatrix s1 () s1 →
    exec (.tzero o) s = .next ((s1.queueEngine (.tzero acc) [] [(acc, 65536)]).finished .seq)) ∧
  (∀ (o : OpTdrain) (s s1 s2 : State) (dst a0 : Word) (acc : Nat), s.cur.guardOn o.g = true → o.c = .zero →
    (o.gate = .plain ∨ o.gate = .bias) → Gives (readS o.a) s dst s1 → Gives (readS o.b) s1 a0 s2 →
    Gives (checkRegion a0) s2 acc s2 → Gives roomForMatrix s2 () s2 → dst.toNat % 8 = 0 → drainRow o % 8 = 0 →
    s2.matrixBusy s2.cur.tid (·.isTmmaInto acc) = false →
    (∀ r, s2.cur.redRec = some r → exec (.tdrain o) s =
      .next ((s2.updCur fun t => { t with redRec := none }).takeTrap .redundantMismatch (some r.first)
        (some (BitVec.ofNat 64 (bits r.id 10 0 + 2 ^ 32 * r.count.toNat))))) ∧
    (s2.cur.redRec = none → ∃ t, exec (.tdrain o) s = .next t ∧ t.flow = .seq ∧
      t.cur.convcnt = s2.cur.convcnt + 1 ∧
      (∃ e ∈ t.engines, e.tid = s2.cur.tid ∧ e.started = false ∧
        ∃ mode srb, e.kind = .tdrain o dst acc [0, 0, BitVec.ofNat 64 (drainRow o)] mode srb) ∧
      t.cur.l = s2.cur.l ∧ t.mem = s2.mem)) ∧
  (∀ (o : OpD) (s : State), s.cur.guardOn o.g = true → Gives (checkDst o.d) s () s →
    ((∃ e ∈ s.engines, e.tid = s.cur.tid ∧ isMatrix e.kind = true) → s.cur.packet = none →
      exec (.twait o) s = .next (s.suspended 8 0)) ∧
    ((∀ e ∈ s.engines, e.tid = s.cur.tid → isMatrix e.kind = false) → s.cur.redRec = none → ∀ t fl,
      Gives (writeD o.d s.cur.mstat) (s.updCur fun t => { t with mstat := 0 }) fl t →
      exec (.twait o) s = .next (t.finished fl)))

/-- A matrix product at one element of the accumulator region. An integer pair adds the exact sum of the products
along K, modulo 2^32. Any other pair adds one group of 16 products after the other: the exact sum of a group is
rounded to FP32 once, then added and rounded again, to nearest even. -/
def Obligations.IntegerMatrixProducts : Prop :=
  ∀ (a w : Tile) (r c acc : Nat),
    (a.fmt = 0 → acc < 2 ^ 32 →
      ((mmaElem a w r c acc).1 : Int) = (acc + ((List.range a.kp).map fun k =>
        Int.bmod (a.raw r k) 256 * Int.bmod (w.raw c k) 256).sum) % 2 ^ 32) ∧
    (a.fmt ≠ 0 →
      let round (v : FVal × Word) : Nat := (roundTo (.flt fp32) false ⟨.rne, true, 0⟩ v.1).bits
      let products (g : Nat) : List FVal := ((List.range a.kp).filter fun k => k / 16 = g).map fun k =>
        (mulVal (a.elem r k) (w.elem c k)).1
      ∃ f : Nat → Nat, f 0 = acc ∧ (mmaElem a w r c acc).1 = f ((a.kp + 15) / 16) ∧
        ∀ g, g < (a.kp + 15) / 16 → f (g + 1) =
          round (addVal ⟨.rne, true, 0⟩ (fp32Val (f g)) (fp32Val (round (sumVals .rne (products g))))))

/-- A turn that its checks stop traps with the words of Table 2.13: the trap that the read of the line
left, a parity failure of a line that was read once more (once while it is held: log 91), an opcode that is not
assigned, an absent feature, a debug register at app. A fault that the walk of the line found is recorded now
(02 R40). -/
def Obligations.ChecksOfATurnTrap : Prop :=
  ∀ (s : State) (h : HeldLine), s.busy = true → s.cur.dlPend = none → s.cur.half = none →
    s.cur.lineAt (lineAddr s.cur.pc) = some h → lineFirst (lineWord h.bits) (bits s.cur.pc 2 0) = false →
    let w := lineSlot h.bits (bits s.cur.pc 2 0)
    let Traps (c : Cause) (i0 i1 : Word) : Prop :=
      step s = .next (s.noteSlot.takeTrap c (some i0) (some i1)).boundary
    let Decode (c : Cause) (code : Nat) : Prop :=
      Traps c (BitVec.ofNat 64 (w.toNat / 2 ^ 32)) (BitVec.ofNat 64 (w.toNat % 2 ^ 32 + code * 2 ^ 32))
    (∀ k l, h.fault = some (k, l) → step s = .next (s.lineFault k l).boundary) ∧
    (h.fault = none →
      (∀ c i0 i1, h.bad = some (c, i0, i1) → Traps c i0 i1) ∧
      (h.bad = none → parityOk h.bits [bits s.cur.pc 2 0] = false → h.reread = true →
        Traps .lineParity h.addr (BitVec.ofNat 64 ((lineWord h.bits).toNat + 8 * 2 ^ 32)))) ∧
    (lineCheck s.cur h [bits s.cur.pc 2 0] = none → s.breakpoints [s.cur.pc] = (none, s) →
      (∀ e, decodeIn s.cur.win w = .error e → e.cause = .illegalOpcode → Decode .illegalOpcode e.field.toNat) ∧
      (∀ i, decodeIn s.cur.win w = .ok i →
        (∀ c, s.featFails (Fields.unpack w) = some c → Decode .featureAbsent c) ∧
        (s.featFails (Fields.unpack w) = none → privFails s.cur (Fields.unpack w) = true → Decode .privilege 4)) ∧
      (∀ e, decodeIn s.cur.win w = .error e → e.cause ≠ .illegalOpcode →
        s.featFails (Fields.unpack w) = none → privFails s.cur (Fields.unpack w) = false →
        Decode e.cause e.field.toNat))

/-! ### Reset and what every step keeps -/

/-- Right after reset no thread, family, launch or request exists; every word of memory is FULL and 0;
CYCLE, the tag tables and the monitor tables of the cores are clear; FEAT0 is 1 and the other features 0;
the queues have size 16 and no entry, no feature is committed, one package is in the domain and no access
table holds an entry.
Device memory reads so by log 2, the tables deny by log 15, and what the spec gives no reset value for is
as log 12 says. -/
def Obligations.ResetState : Prop :=
  let s := State.reset
  s.busy = false ∧ s.threads = [] ∧ s.fams = [] ∧ s.launches = [] ∧ s.reqs = [] ∧ s.edges = [] ∧
    (∀ k, s.mem.tag k = .full ∧ s.mem.word k = 0 ∧ s.mem.byte k = 0) ∧
    (∀ c, (s.core c).cycle = 0 ∧ (s.core c).tagTable = [] ∧ (s.core c).mons = [] ∧
      (s.core c).copies = []) ∧
    (∀ cl n, s.ring? cl n = none) ∧
    s.pkg.feat[0] = 1 ∧ s.pkg.feat[1] = 0 ∧ s.pkg.feat[2] = 0 ∧ s.pkg.feat[3] = 0 ∧ s.pkg.committed = false ∧
    s.pkg.npkg = 1 ∧
    (∀ q : Fin 16, bits s.pkg.queues[q].cfg 4 0 = 4 ∧ s.pkg.queues[q].head = 0 ∧ s.pkg.queues[q].tail = 0 ∧
      s.pkg.queues[q].drop = 0) ∧
    bits s.pkg.fq.cfg 4 0 = 4 ∧ s.pkg.fq.head = 0 ∧ s.pkg.fq.tail = 0 ∧ s.pkg.fq.waiting = [] ∧
    (∀ target mid, s.tableAllows target mid true false false = false) ∧ s.mem.wf = true

/-- Every step keeps memory in its canonical form, whatever it runs or lets happen: keys rise strictly,
and no byte of 0 and no tag FULL is listed. -/
def Obligations.StepKeepsMemoryCanonical : Prop :=
  ∀ s t : State, s.mem.wf = true → step s = .next t → t.mem.wf = true

/-! ### The events of a core (06 R116 to R125, R133, 14 R280 to R287) -/

/-- A TURN of core c belongs to slot (cycle mod 16), after the writes of PRIO that it makes effective: its occupant
issues, unless a Ready thread of a higher effective priority takes the slot of an occupant of the core's lowest; a free
slot takes the best Ready thread; a Stopped thread that reserves the slot issues where it is stepped, and else the
turn is lost, while the Ready thread that would have displaced it stands for it and displaces no other (log 23), as are one with nobody to issue and one of a core under a stop whose occupant is neither stepped nor
resumed alone. An arriving line enters the buffer of the thread that asked for it. -/
def Obligations.TurnsFollowTheSlotCounter : Prop :=
  ∀ (s : State) (c : Nat), s.busy = false →
    (s.coreEnabled c = true → s.pkg.tripped = false → s.dueFirst c = false →
      let slot := (s.core c).cycle % 16
      let p := (s.takePrio c slot).unshade c
      let Issues (o : Thread) (n : Nat) : Prop := ∃ t, exec (.turn c) s = .next t ∧ t.busy = true ∧ t.inTurn = true ∧
        t.cur = { o with life := .running slot, rslot := none, shade := none, consec := n, holds := false } ∧
        t.mem = p.mem
      let Lost (q : State) : Prop := ∃ t, exec (.turn c) s = .next t ∧ t.busy = false ∧
        (t.core c).cycle = (p.core c).cycle + 1 ∧
        t.mem = p.mem ∧ ((∀ x ∈ q.threads, x.2.waitReason ≠ 11) → t.threads = q.threads)
      let Goes (o : Thread) : Prop := (s.core c).stopAll = true → o.alone = true ∨ o.stepping = true
      ((∀ t ∈ s.onCore c, t.own = t.ownNow) → (∀ x ∈ s.threads, x.2.shade = none) → p = s) ∧
      (∀ r, p.reserver c slot = some r →
        let q := p.shadeTurn c slot r
        let o := (p.shader c slot).getD r
        (r.stepping = true → Issues r (r.consec + 1)) ∧ (r.stepping = false → Lost q) ∧
        (∀ t, p.bestReady c = some t → o.eprio < t.eprio → o.eprio = p.leastPrio c →
          q.thread? t.tid = some { t with shade := some slot }) ∧
        ((∀ t, p.bestReady c = some t → t.eprio ≤ o.eprio ∨ o.eprio ≠ p.leastPrio c) → q = p)) ∧
      (p.reserver c slot = none →
        (∀ o, p.occupant c slot = some o →
          (Goes o → (∀ r, p.bestReady c = some r → r.eprio ≤ o.eprio ∨ p.leastPrio c ≠ o.eprio) →
            Issues o (o.consec + 1)) ∧
          (Goes o → ∀ r, p.bestReady c = some r → o.eprio < r.eprio → o.eprio = p.leastPrio c →
            Issues r 1 ∧ (o.tid ≠ r.tid → ∀ t, exec (.turn c) s = .next t → t.thread? o.tid = some { o with
              life := .ready, readyAt := readyStamp (s.core c).cycle false, consec := 0 })) ∧
          (¬ Goes o → Lost p)) ∧
        (p.occupant c slot = none →
          (∀ r, p.bestReady c = some r → Issues r 1) ∧ (p.bestReady c = none → Lost p)))) ∧
    (∀ (n : Nat) (t : Thread) (a : Word) (again : Bool) (b : Line) (bad : Option (Cause × Word × Word)),
      let asked := s.threads.flatMap fun (_, t) => t.wanted.map fun (a, r) => (t, a, r)
      asked[n % asked.length]? = some (t, a, again) → s.readLine t a = .got b bad →
      ∃ u v, exec (.fetchLineArrival n) s = .next u ∧ u.thread? t.tid = some v ∧
        v.lineAt a = some ⟨a, b, bad, again, (t.lineAt a).any (·.issued), none⟩ ∧ u.mem = s.mem)

/-- A stop or resume of a thread, a core or a cluster, and a step of a core, by the Forette port acts where the
debug block of the cluster admits the port; one of no thread, or of a scope that its command does not have, sets
CMDERR. A cluster command acts at a core once it is due. A due sample writes SPC and SREC. The patrol moves one row
on, and an uncorrectable error poisons its word or marks its register. A core reset discards the packets of the core,
clears its tag table and its cycle count, and leaves its scratchpad FULL with data 0; what it clears beside the
scratchpad is log 50. -/
def Obligations.CommandsSamplesAndScrubs : Prop :=
  ∀ (s : State) (c : Nat), s.busy = false → c < 6144 →
    (s.tableAllows (targetDebug (clusterOf c)) 0x6000 false true false = true → ∀ e, e < 256 →
      let word (scope : Nat) : Nat := c + 2 ^ 13 * scope + 2 ^ 15 * e
      (∀ t, s.entryThread c e = some t → exec (.dcmdStop (word 0)) s = .next (s.stopThread t 0 0 0) ∧
        exec (.dcmdResume (word 0)) s = .next (s.resumeThread t)) ∧
      (s.entryThread c e = none → exec (.dcmdStop (word 0)) s = .next (s.cmdErr c) ∧
        exec (.dcmdResume (word 0)) s = .next (s.cmdErr c)) ∧
      exec (.dcmdStop (word 1)) s = .next (s.stopCore c 0 0 (c % 128)) ∧
      exec (.dcmdResume (word 1)) s = .next (s.resumeCore c) ∧
      exec (.dcmdStop (word 2)) s = .next (s.clusterCommand c true 0 0) ∧
      exec (.dcmdResume (word 2)) s = .next (s.clusterCommand c false 0 0) ∧
      exec (.dcmdStep (word 1)) s =
        .next (if s.stepSet c = [] then s.cmdErr c else s.stepTake (s.stepSet c)) ∧
      exec (.dcmdStop (word 3)) s = .next (s.cmdErr c) ∧ exec (.dcmdResume (word 3)) s = .next (s.cmdErr c) ∧
      ∀ scope ∈ [0, 2, 3], exec (.dcmdStep (word scope)) s = .next (s.cmdErr c)) ∧
    (s.tableAllows (targetDebug (clusterOf c)) 0x6000 false true false = false → ∀ n, n % 2 ^ 13 = c →
      exec (.dcmdStop n) s = .next s ∧ exec (.dcmdResume n) s = .next s ∧ exec (.dcmdStep n) s = .next s) ∧
    (∀ m rest, (s.core c).pendStop = m :: rest → m.due ≤ (s.core c).cycle →
      (m.stop = true → ∃ t, exec (.clusterStopArrival c) s = .next t ∧ (t.core c).stopAll = true ∧
        (t.core c).pendStop = rest ∧ t.mem = s.mem ∧
        ((s.core c).stopAll = false → ∀ i : Fin 16, (t.core c).dbg.sks[i] = s.skidWord m i.val)) ∧
      (m.stop = false → ∃ t, exec (.clusterResumeArrival c) s = .next t ∧ (t.core c).stopAll = false ∧
        (t.core c).pendStop = rest ∧ t.mem = s.mem)) ∧
    ((s.core c).sampleDue = true →
      let r := s.sampled c ((s.core c).sampleAt % 16)
      ∃ t, exec (.pcSample c) s = .next t ∧
        (t.core c).dbg.srec = srecWord ((s.core c).sampleAt % 16) r.1 r.2 ∧
        (t.core c).dbg.spc = (match r.2 with
          | some (p, _, _) => p
          | none => 0) ∧ t.threads = s.threads ∧ t.mem = s.mem) ∧
    (s.coreEnabled c = true → 4096 * ((s.core c).patrol + 1) ≤ (s.core c).cycle →
      let row := (s.core c).patrol % 2048
      (∀ k, k < 2 → ∃ t, exec (.patrolScrub (c + 2 ^ 13 * k)) s = .next t ∧
        (t.core c).patrol = (s.core c).patrol + 1 ∧ t.mem = s.mem ∧ t.threads = s.threads) ∧
      (∀ b, b < 16 → ∃ t, exec (.patrolScrub (c + 2 ^ 13 * (b + 2))) s = .next t ∧
        t.mem.tag (Loc.sp c ((row * 16 + b) * 8)).key = .poison ∧
        t.mem.word (Loc.sp c ((row * 16 + b) * 8)).key = 0) ∧
      (∀ k x, ((s.onCore c).filter fun t => t.holdsWindow && windowReg t.win (k % 128))[k / 128 %
          ((s.onCore c).filter fun t => t.holdsWindow && windowReg t.win (k % 128)).length]? = some x →
        ∃ t, exec (.patrolScrub (c + 2 ^ 13 * (k + 18))) s = .next t ∧
          t.thread? x.tid = some { x with ecc := setInsert x.ecc (k % 128) } ∧ t.mem = s.mem)) ∧
    (∃ t, exec (.coreReset c) s = .next t ∧ (t.core c).packets = [] ∧ (t.core c).tagTable = [] ∧
      (t.core c).cycle = 0 ∧
      ∀ off, off < 2 ^ 15 → t.mem.tag (Loc.sp c (8 * off)).key = .full ∧ t.mem.word (Loc.sp c (8 * off)).key = 0)

/-! ### Messages (05 R106, 06 R119, R128, R129, 07 R138, R152, 11 R215 to R217, R226) -/

/-- Of each channel the flits that no earlier one from the same source to the same destination precedes, and that no
link holds up, may arrive. A reply, or a delivered value, completes the instruction of one access that its thread holds, or is its trap; that of a
vector load is kept until the last. An error notice makes or counts in the deferred-error record. A wake is held in
its monitor, and ends a WAITM that no stop has caught and whose time has not come, as its timeout does. A linked value
that no earlier one for its member precedes fills its dependent, or is kept for a member that has not started.
DEADLOCK gives back what its instruction had read of a packet. A header takes a reassembly entry, or a spill slot,
or is discarded; a close accepts or refuses its packet, which joins its queue where there is room; and the answer ends
the send or traps QUEUE_OVERFLOW. -/
def Obligations.MessagesReachTheirThreads : Prop :=
  ∀ (s : State) (n : Nat), s.busy = false →
    (∀ (i : Nat) (r : Reply) (t : Thread), s.nextFlit s.replyFlow (s.replies.map s.replyFlit) n = some i →
      s.replies[i]? = some r → tabGet s.threads r.tid = some t →
      let s0 : State := { s with replies := removeAt s.replies i }
      let s1 := s0.checkOut { t with wait := none } false
      (∀ k acq reason key, t.wait = some ⟨reason, some k, acq, key⟩ → (∀ v z m need got, k ≠ .vload v z m need got) →
        (∀ need got next, k ≠ .words need got next) →
        (∀ v0 v1 u, r.res = .ok v0 v1 → Gives (finish k v0 v1 acq) s1 .seq u → u.cur.half = none →
          exec (.memoryReply n) s = .next (u.finished .seq).boundary) ∧
        (∀ c i0 i1, r.res = .trap c i0 i1 → exec (.memoryReply n) s =
          .next (((if c = .deadlock then s1.unread else s1).updCur fun t => t.unarmed k).takeTrap c (some i0)
            (some i1)).boundary)) ∧
      (∀ v z m need got acq reason key, t.wait = some ⟨reason, some (.vload v z m need got), acq, key⟩ →
        let all := got ++ [(r.elem, r.res)]
        (all.length < need → exec (.memoryReply n) s = .next (s0.modThread r.tid fun t => { t with
          wait := some ⟨reason, some (.vload v z m need all), acq, key⟩ })) ∧
        (need ≤ all.length → exec (.memoryReply n) s =
          .next (s0.withThread r.tid (do acquireIf acq; finishVload v z m all))))) ∧
    (∀ (i : Nat) (d : Deliver) (t : Thread) (k : Comp) (acq : Bool) (reason key : Nat) (u : State),
      s.nextFlit s.msgFlow (s.delivers.map s.deliverFlit) n = some i → s.delivers[i]? = some d →
      tabGet s.threads d.tid = some t → t.wait = some ⟨reason, some k, acq, key⟩ →
      (∀ v z m need got, k ≠ .vload v z m need got) → (∀ need got next, k ≠ .words need got next) →
      Gives (finish k d.v 0 acq)
        ({ s with delivers := removeAt s.delivers i }.checkOut { t with wait := none } false) .seq u →
      u.cur.half = none → exec (.deferralDelivery n) s = .next (u.finished .seq).boundary) ∧
    (∀ (i : Nat) (m : Notice) (t : Thread), s.nextFlit s.replyFlow (s.notices.map s.noticeFlit) n = some i →
      s.notices[i]? = some m → tabGet s.threads m.tid = some t → t.tid = m.tid →
      ∃ u, exec (.errorNotice n) s = .next u ∧ (t.frame = none → u.mem = s.mem) ∧
        u.thread? m.tid = some { t with errRec := some (match t.errRec with
          | none => ⟨m.cause, m.addr, 0⟩
          | some r => { r with count := r.count + 1 }) }) ∧
    (∀ (i : Nat) (w : Wake) (t : Thread) (m : Mon), s.nextFlit s.msgFlow (s.wakes.map s.wakeFlit) n = some i →
      s.wakes[i]? = some w → tabGet s.threads w.tid = some t → t.tid = w.tid → w.idx < 4 →
      t.mons[w.idx]? = some (some m) → m.armed = true → m.line = w.line →
      let t1 := { t with mons := t.mons.set w.idx (some { m with wake := true }) }
      let s1 := { s with wakes := removeAt s.wakes i, threads := tabSet s.threads w.tid t1 }
      (t.life ≠ .waiting ∨ t.stopPend = true ∨ (s.waitmDue t).isSome = true →
        exec (.monitorWake n) s = .next s1) ∧
      (∀ reason d dl acq key, t.life = .waiting → t.stopPend = false → s.waitmDue t = none →
        t.wait = some ⟨reason, some (.waitm d dl), acq, key⟩ →
        exec (.monitorWake n) s = .next (s1.withThread w.tid (waitmWith d 0)))) ∧
    (∀ t x reason d dl acq key,
      (let l := s.threads.filterMap fun (_, t) => (s.waitmDue t).map fun x => (t, x)
       l[n % l.length]? = some (t, x)) → t.wait = some ⟨reason, some (.waitm d dl), acq, key⟩ →
      x = (if key = 2048 then 0x800 else 0x100) ∧
        exec (.waitmTimeout n) s = .next (s.withThread t.tid (waitmWith d x))) ∧
    (∀ (i : Nat) (m : LinkMsg) (f : Fam), s.nextLinked n = some i →
      s.linkMsgs[i]? = some m → s.fam? m.fam = some f → f.killed = false → f.beyond m.k = false →
      (∀ t, s.member? m.fam m.k = some t → tabGet s.threads t.tid = some t →
        ∃ u v, exec (.linkedValueArrival n) s = .next u ∧ u.linkMsgs = removeAt s.linkMsgs i ∧
          u.thread? t.tid = some v ∧ v.dv[m.n] = m.v ∧ v.dfull = t.dfull ||| (1#16 <<< m.n.val) ∧ v.l = t.l ∧
          (t.waitsFor 3 m.n.val = true → v.wait = none)) ∧
      (s.member? m.fam m.k = none → f.ended.contains m.k = false → f.dealt m.k < 2 ^ 13 →
        ∃ u, exec (.linkedValueArrival n) s = .next u ∧ u.linkMsgs = removeAt s.linkMsgs i ∧
          (u.core (f.dealt m.k)).links = (s.core (f.dealt m.k)).links ++ [⟨m.fam, m.k, m.n, m.v⟩])) ∧
    (∀ p : Packet,
      (let l := s.pkts.filter fun p => !p.arrived && p.ack.isNone && !s.leaves p
       (s.nextFlit s.msgFlow (l.map fun p => s.packetFlit p p.no) n).bind (fun i => l[i]?) = some p) →
      let inEntries := ((s.core p.dst).packets.filter fun q => q.arrived && q.hold == .entry).length
      let Holds (h : PktHold) : Prop := ∃ u, exec (.packetHeaderArrival n) s = .next u ∧
        (u.core p.dst).packets = (s.core p.dst).packets ++ [{ p with arrived := true, hold := h }]
      (inEntries < 8 → Holds .entry) ∧
      (8 ≤ inEntries → s.spillLaunch p = none → Holds .discarded) ∧
      (8 ≤ inEntries → ∀ k l, s.spillLaunch p = some (k, l) →
        let slot := (List.range (l.field 14 15 0)).find? fun j => !((s.core p.dst).spillHeld k).contains j
        (∀ j, slot = some j → Holds (.slot k j)) ∧ (slot = none → Holds .discarded))) ∧
    (∀ (p q : Packet),
      (let l := s.pkts.filter fun p => p.arrived && p.closed && p.ack.isNone
       (s.nextFlit s.msgFlow (l.map fun p => s.packetFlit p p.cno) n).bind (fun i => l[i]?) = some p) →
      ((s.core p.dst).packets.find? fun q => q.id == p.id) = some q →
      let x := s.core p.dst
      ∃ u, exec (.packetCloseArrival n) s = .next u ∧
        (u.pkts = s.pkts.map fun r => if r.id = p.id then { r with ack := some (q.hold != .discarded) } else r) ∧
        (q.hold = .discarded → (u.core p.dst).packets = x.packets.filter fun r => r.id != p.id) ∧
        (q.hold ≠ .discarded → x.spill.getD q.queue [] = [] → x.queueCount q.queue + 1 + p.flits.length ≤ 64 →
          (u.core p.dst).rxq = setQueue x.rxq q.queue (x.rxq.getD q.queue [] ++ [p.id])) ∧
        (q.hold ≠ .discarded → x.spill.getD q.queue [] ≠ [] ∨ 64 < x.queueCount q.queue + 1 + p.flits.length →
          (u.core p.dst).spill = setQueue x.spill q.queue (x.spill.getD q.queue [] ++ [p.id]))) ∧
    (∀ (p : Packet) (t : Thread) (b : Bool) (k : Comp) (acq : Bool) (key : Nat),
      (let l := s.pkts.filter s.packetDue
       l[n % l.length]? = some p) →
      p.ack = some b → tabGet s.threads p.tid = some t → t.tid = p.tid → t.half = none →
      t.wait = some ⟨11, some k, acq, key⟩ →
      let s1 := ({ s with pkts := s.pkts.filter fun q => q.id != p.id }.checkOut { t with wait := none } false).updCur
        fun t => { t with packet := none }
      let sent := s1.countEvent (clusterOf t.core) 0x23 1
      (b = true → k = .txe → exec (.packetAcknowledge n) s = .next (sent.finished .seq).boundary) ∧
      (b = true → ∀ conv, k = .txeRes conv →
        exec (.packetAcknowledge n) s = .next (sent.resulted .seq conv).boundary) ∧
      (b = true → ∀ pc src, k = .txeTo pc src → targetFormFails pc = false →
        exec (.packetAcknowledge n) s = .next (sent.jumped pc (some src)).boundary) ∧
      (b = false → (∀ fk, k ≠ .txeFam fk) → exec (.packetAcknowledge n) s =
        .next (s1.takeTrap .queueOverflow (some p.send) (some (BitVec.ofNat 64 p.flits.length))).boundary))

/-! ### Homes, phases, walks and answers (06 R124, 13 R269 to R272, 15 R298, 16 R311 to R318, 18 R360 to
R364) -/

/-- A request that may arrive is performed at its slice, or waits for its line, which is a free choice; one of a
register is performed, and what it writes acts at once; one of another package is performed there or waits; one of a
scratchpad joins the queue of its bank. A bank serves the first of its queue whose bank is free and is not kept for a
thread that has forfeited three times and whose turn it is (log 70). A line that arrives performs what waits for it, in
order, unless its link holds it up; of the AADDs that a switch
may combine two do; a marker is answered, by LINK_DOWN where its terminal cannot be reached; a phase with every answer
completes, and the first release that has all its phases goes on; an append that may arrive is performed at its set; a
replay whose elements are mapped performs every Combine and answers; and a partial that no earlier one of its source
precedes reaches its root, or is lost where no link carries it, or is merged with another of its round.
Which line is absent and which partial meets which are free choices (log 5, 59). -/
def Obligations.HomesServeTheirRequests : Prop :=
  ∀ (s : State) (n : Nat), s.busy = false →
    (∀ l i q, s.readyReqs (fun q => !isAppend q) = l → l[n % l.length]? = some i → s.reqs[i]? = some q →
      let s1 := { s with reqs := removeAt s.reqs i }
      let Ends (u : State) : Prop := exec (.homeOperation n) s = .next u.actWrites.pendingSaves
      (∀ pa, q.loc = .dev pa →
        (s1.elsewhere q.loc = true → (∀ u, s1.awayArrives q = some u → Ends u) ∧
          (s1.awayArrives q = none → exec (.homeOperation n) s = .next s)) ∧
        (s1.elsewhere q.loc = false → (∀ off, s1.mgmtOf q.loc = some off → Ends (s1.performReq q)) ∧
          (s1.mgmtOf q.loc = none → Ends ({ s1 with choice := s.choice + 1 }.performReq q) ∨
            Ends { s1 with choice := s.choice + 1, missed := s.missed ++ [q] }))) ∧
      (∀ c off, q.loc = .sp c off → Ends (s1.modCore c fun x => { x with queue := x.queue ++ [q] }))) ∧
    (let free (q : Req) : Bool := !(s.core n).bankUsed.getLsbD (bankOf q.loc) &&
       (s.onCore n).all fun t => !(t.life == .running ((s.core n).cycle % 16) && decide (3 ≤ t.forfeits) &&
         t.lost.getLsbD (bankOf q.loc))
     (∀ q rest, takeFirst free (s.core n).queue = some (q, rest) →
       exec (.queuedBankAccess n) s = .next ((s.modCore n fun x => { x with
         queue := rest, bankUsed := x.bankUsed ||| (1#16 <<< bankOf q.loc) }).performReq q).pendingSaves) ∧
     (takeFirst free (s.core n).queue = none → exec (.queuedBankAccess n) s = .next s)) ∧
    (let Pair (i j : Nat) (a b : Req) : Prop := i ∈ s.readyReqs isAdd ∧ j ∈ s.readyReqs isAdd ∧
       s.reqs[i]? = some a ∧ s.reqs[j]? = some b ∧ s.combinable a b = true
     (∃ i j a b, Pair i j a b) → ∃ i j a b, Pair i j a b ∧ exec (.requestCombine n) s =
       .next { s with reqs := removeAt (s.reqs.set (min i j) (a.combine b)) (max i j) }) ∧
    (∀ q, s.missed[n % s.missed.length]? = some q →
      (s.linkHolds (s.lineLink q.loc.key) = false → exec (.cacheLineFill n) s = .next
        ((s.missed.filter fun (r : Req) => r.loc.key / 64 == q.loc.key / 64).foldl
          (fun (u : State) (r : Req) => u.performReq r)
          { s with missed := s.missed.filter fun (r : Req) => !(r.loc.key / 64 == q.loc.key / 64) }).pendingSaves) ∧
      (s.linkHolds (s.lineLink q.loc.key) = true → exec (.cacheLineFill n) s = .next s)) ∧
    (∀ before y after t r, (s.core n).phases = before ++ y :: after → (∀ z ∈ before, s.markersDue n z = []) →
      s.markersDue n y = t :: r → y.closed = true ∧ t ∈ y.answerable ∧
      (let u := if s.termReached n t then s else s.markerLost y.id
       exec (.phaseMarker n) s = .next (u.modCore y.id.core fun x => { x with phases := x.phases.map fun z =>
         if z.id = y.id then { z with answered := z.answered ++ [t] } else z }))) ∧
    (let Due (s : State) : Option (Nat × Comp × Bool) := firstSome (fun (_, t) =>
       if t.core = n then t.released.map fun (k, a) => (t.tid, k, a) else none) s.threads
     (∀ tid k acq, Due s = some (tid, k, acq) →
       exec (.phaseComplete n) s = .next (s.withThread tid (afterRelease k acq))) ∧
     (∀ u, Due s = none → s.phaseDone n = some u → s.freedInError u = [] → (∀ q ∈ s.freed u, q.ownHeld = false) →
       (∀ tid k acq, Due u = some (tid, k, acq) →
         exec (.phaseComplete n) s = .next (u.withThread tid (afterRelease k acq))) ∧
       (Due u = none → exec (.phaseComplete n) s = .next u)) ∧
     (∀ y, ((s.core n).phases.find? fun y => y.closed && y.sent.all (fun (t, _) => y.answered.contains t) &&
         (s.notices.all fun m => m.req != some y.id)) = some y →
       ∃ u, s.phaseDone n = some u ∧ (u.core n).phases = ((s.core n).phases.filter fun z => z.id != y.id) ∧
         u.mem = s.mem)) ∧
    (∀ l i q, s.readyReqs isAppend = l → l[n % l.length]? = some i → s.reqs[i]? = some q →
      exec (.entrepotAppendArrival n) s = .next ({ s with reqs := removeAt s.reqs i }.performReq q)) ∧
    (∀ k b tid r u t,
      (let l := s.bins.filter fun x => x.2.runner.isSome && !x.2.paused
       l[n % l.length]? = some (k, b)) → b.runner = some tid →
      (let idx := (b.recs.map (·.index)).foldl setInsert []
       (∀ i ∈ idx, b.skips.contains (binRegion b.desc i) = true ∨ s.binLoc b i ≠ none) ∧
       idx.any (s.binWaits b) = false ∧ s.combineAll (k / 64) b idx ⟨0, false, false, false⟩ = (r, u)) →
      u.thread? tid = some t →
      ∃ v x no, exec (.ereplComplete n) s = .next v ∧ v.mem = u.mem ∧ tabGet v.bins k = some x ∧ x.recs = [] ∧
        x.runner = none ∧ x.live = !b.runFree ∧
        v.replies = u.replies ++ [⟨tid, 0, .ok (replayStatus r b.dropped) 0, 0, (entrLoc (k / 64)).key, no⟩]) ∧
    (∀ i p, n < 2 ^ 16 → s.partialsFree[n % s.partialsFree.length]? = some i → s.partials[i]? = some p →
      let s1 := { s with partials := removeAt s.partials i, choice := s.choice + 1 }
      let ends := exec (.reductionPartial n) s = .next (s1.partialEnds p)
      let stays := exec (.reductionPartial n) s = .next s
      let meets (j : Nat) : Bool := (s.partials[j]?.map fun x => x.handle == p.handle && x.elem == p.elem &&
        x.round == p.round && x.valid && p.valid && x.launch == p.launch).getD false
      let same := (s.partialsFree.filter (· != i)).find? meets
      let alone := if s.redHeld p then stays else ends
      (same = none → alone) ∧
      (∀ j x, same = some j → s.partials[j]? = some x → alone ∨ exec (.reductionPartial n) s = .next { s with
        choice := s.choice + 1
        partials := { x with
          acc := redMerge (((s.group? p.handle p.launch).map fun g => g.2.cfg).getD 0) x.acc p.acc
          who := x.who ++ p.who, more := x.more ++ p.srcs } ::
            removeAt (removeAt s.partials (max i j)) (min i j) })) ∧
    (∀ (p : Partial) (pa : Nat), s.rootOf p.handle p.launch = .dev pa →
      (2 ^ 59 ≤ pa → s.partialEnds p = if s.dieReach (dieOf p.src) (bits p.handle 9 8) then s.redArrive p
        else s.redBreak p) ∧
      (pa < 2 ^ 59 → s.partialEnds p = if s.reaches p.src (.dev pa) then s else s.redLost p))

/-- Of the walks that the walkers of the dies have taken one ends: a leaf fills the translation cache, and each of its
waiters that is still there goes on if the page grants its access; where the page does not, or the entry is missing or
malformed, its fault is recorded, that of a line read ahead with the line. RETRY walks again; DENY traps the
instruction of a thread, leaves a trap with a line, and lets an engine or a replay go on without the access; neither
does anything for a waiter that is gone. That a table word whose home denies the walk is the fault PERM is log 90. An answer to no record counts as stray. An invalidation drops the entries it
covers, and completes once nothing is pending. -/
def Obligations.WalksFaultsAndInvalidations : Prop :=
  ∀ (s : State) (n : Nat), s.busy = false →
    (∀ i w,
      (let taken := (walking s.walks []).zipIdx.filterMap fun (b, i) => if b then some i else none
       taken[n % taken.length]? = some i) → s.walks[i]? = some w →
      let s1 := { s with walks := removeAt s.walks i }
      let e := s1.walk w.cluster w.launch (w.page * 2 ^ 16)
      let s2 := match e with
        | .leaf log pa r wr x k => s1.fillTlb w.cluster ⟨w.asid, w.page * 2 ^ 16 / 2 ^ log, log, pa, r, wr, x, k⟩
        | _ => s1
      exec (.translationWalkComplete n) s =
        .next (w.waiters.foldl (fun s x => s.walkEnds w.cluster w.launch e x) s2)) ∧
    (∀ (cl la : Nat) (x : Waiter),
      (∀ e, s.waiterLives x = false → s.walkEnds cl la e x = s) ∧
      (s.waiterLives x = true →
        (∀ log pa r wr ex k, grants r wr ex k x.acc x.app = true →
          s.walkEnds cl la (.leaf log pa r wr ex k) x = s.replayWaiter x) ∧
        (∀ e kind lv,
          ((∃ log pa r wr ex k, e = WalkEnd.leaf log pa r wr ex k ∧ grants r wr ex k x.acc x.app = false ∧ kind = 1 ∧
              lv = (if log = 30 then 2 else if log = 21 then 1 else 0)) ∨
            (e = .notPresent lv ∧ kind = 0) ∨ (e = .malformed lv ∧ kind = 2) ∨ (e = .denied lv ∧ kind = 1)) →
          (x.src ≠ 0 → s.walkEnds cl la e x = s.faultOf cl la kind lv x) ∧
          (x.src = 0 → x.acc.kind ≠ 5 → s.walkEnds cl la e x = s.elemFault cl la kind lv x) ∧
          (x.src = 0 → x.acc.kind = 5 → ∀ t, s.thread? x.id = some t →
            let wanted := x.va = lineAddr t.pc ∧ (t.waitsFor 15 3 = true ∨ t.waitsFor 4 3 = true)
            (wanted → s.walkEnds cl la e x = s.faultOf cl la kind lv x) ∧
            (¬ wanted → t.tid = x.id → ∃ v, (s.walkEnds cl la e x).thread? x.id = some v ∧
              v.lineAt x.va = some ⟨x.va, 0, none, false, false, some (kind, lv)⟩))))) ∧
    (∀ f u, s.takeFault n = some (f, u) →
      (u.waiterLives f.who = false → exec (.faultAnswerRetry n) s = .next u ∧ exec (.faultAnswerDeny n) s = .next u) ∧
      (u.waiterLives f.who = true →
        (∃ t, exec (.faultAnswerRetry n) s = .next t ∧ t.mem = s.mem ∧ t.threads = s.threads ∧
          ∃ w ∈ t.walks, f.who ∈ w.waiters) ∧
        (f.who.src = 0 → f.who.acc.kind ≠ 5 → ∃ v : State, v.threads = u.threads ∧ v.mem = u.mem ∧
          exec (.faultAnswerDeny n) s = .next (v.withThread f.who.id (trapW (if f.fkind = 1 then .access else .translation)
            f.who.va (BitVec.ofNat 64 (f.who.acc.kind.toNat + f.who.elem * 2 ^ 8))))) ∧
        (f.who.src = 0 → f.who.acc.kind = 5 → ∀ t, u.thread? f.who.id = some t → t.tid = f.who.id →
          ∃ v x, exec (.faultAnswerDeny n) s = .next v ∧ v.thread? f.who.id = some x ∧
            ∃ h, x.lineAt f.who.va = some h ∧ h.fault = none ∧
              h.bad = some (if f.fkind = 1 then .access else .translation, f.who.va, 5)) ∧
        (f.who.src = 3 → ∃ v, exec (.faultAnswerDeny n) s = .next v ∧ v.mem = u.mem ∧
          ∀ b, (f.who.id, b) ∈ u.bins →
            (f.who.id, { b with paused := false, skips := b.skips ++ [f.who.elem] }) ∈ v.bins) ∧
        (f.who.src ≠ 0 → f.who.src ≠ 3 → ∃ v, exec (.faultAnswerDeny n) s = .next v ∧ v.mem = u.mem ∧
          ∀ e ∈ u.engines, e.id = f.who.id → { e with paused := false, denied := true } ∈ v.engines))) ∧
    ((∀ f ∈ s.faults, f.token ≠ n) →
      (∃ u, exec (.faultAnswerRetry n) s = .next u ∧
        u.pkg.fq.stray = min (s.pkg.fq.stray + 1) 0xFFFFFFFF ∧ u.faults = s.faults) ∧
      (∃ u, exec (.faultAnswerDeny n) s = .next u ∧
        u.pkg.fq.stray = min (s.pkg.fq.stray + 1) 0xFFFFFFFF ∧ u.faults = s.faults)) ∧
    (let asid := n % 2 ^ 12
     let lo := n / 2 ^ 12 % 2 ^ 64
     let hi := n / 2 ^ 76 % 2 ^ 64
     let known := s.pkg.invals.find? fun x => x.asid == asid && x.lo == lo && x.hi == hi
     (known = none → ∃ u v, exec (.translationInvalidate n) s = .next u ∧ u.pkg.invals = s.pkg.invals ++ [v] ∧
       v.asid = asid ∧ v.lo = lo ∧ v.hi = hi ∧ u.mem = s.mem ∧ u.threads = s.threads ∧
       ∀ cl e, e ∈ (u.cluster cl).tlb ↔ e ∈ (s.cluster cl).tlb ∧
         ¬ (e.asid = asid ∧ e.page * 2 ^ e.log ≤ hi ∧ lo < (e.page + 1) * 2 ^ e.log)) ∧
     (∀ v, known = some v →
       (s.invalPending v = true → exec (.translationInvalidate n) s = .next s) ∧
       (s.invalPending v = false → exec (.translationInvalidate n) s =
         .next { s with pkg := { s.pkg with invals := s.pkg.invals.erase v } })))

/-! ### Engines (12 R235, R243 to R249, 13 R254, R256) -/

/-- The copy of the highest effective priority that may start takes the lowest free engine of its cluster, and a matrix
operation that may start does: after earlier conflicting operations and stores of its thread, and after what its
cluster has queued before on its array. The last word of a copy is written FULL with its value and the copy ends DONE;
a weight load fills its array; a tile product writes its region; a zeroing writes 0; a drain writes its rows and, where
it zeroes, its region; and each retires, with the report of what its writes came to. Where an access that came before
still waits at a bank that it would use, the machine is unchanged.
That a copy moves its words in ascending order is log 24, that engines take banks only where nothing waits is log 70,
that a copy whose cluster its engine's table denies ends as a fault is log 10. -/
def Obligations.EnginesDoTheirWork : Prop :=
  ∀ (s : State) (n : Nat), s.busy = false →
    (let Mine (e : EngOp) : Prop := e ∈ s.engines ∧ e.isCopy = true ∧ clusterOf e.core = n % 48
     let Free (u : Nat) : Prop := u < 4 ∧ ∀ e, Mine e → e.started = true → e.unit ≠ u
     let prio (e : EngOp) : Nat := ((s.thread? e.tid).map (·.eprio)).getD 0
     (∃ e, Mine e ∧ s.engReady e = true) → (∃ u, Free u) →
       ∃ e u, Mine e ∧ s.engReady e = true ∧ Free u ∧ (∀ v, Free v → u ≤ v) ∧
         (∀ x, Mine x → s.engReady x = true → 7 - prio e ≤ 7 - prio x) ∧
         ∀ op slot id rec, e.kind = .copy op slot id rec →
           let allowed := s.tableAllows (targetCopy (n % 48)) (clusterMaster e.core) false true false
           let e' : EngOp := { e with started := true, unit := u, bad := if allowed then e.bad else some (0, 1) }
           exec (.copyEngineStart n) s = .next ((s.setEng e').traceCopy e' id
             (BitVec.ofNat 64 (bits (recW rec 3) 31 0 + 14 * 2 ^ 32)))) ∧
    (let Starts (e : EngOp) : Prop := e ∈ s.engines ∧ e.isCopy = false ∧ s.engReady e = true ∧
       ∀ a, e.kind.array? = some a → ∀ x ∈ s.engines.takeWhile fun x => x.id != e.id,
         ¬ (clusterOf x.core = clusterOf e.core ∧ x.kind.array? = some a)
     (∃ e, Starts e) → ∃ e, Starts e ∧
       exec (.engineOpStart n) s = .next (s.setEng { e with started := true })) ∧
    (∀ e op slot id rec v u l,
      (let es := s.engines.filter fun e => e.isCopy && e.started && !e.paused
       es[n % es.length]? = some e) → e.kind = .copy op slot id rec → op ≠ 0x8B → op ≠ 0x8C → e.bad = none →
      e.pos + 1 = copyTotal op rec → { s with choice := s.choice + 1 }.copyValue e op rec e.pos = (.val v, u) →
      u.engLoc e (copyDst op rec e.pos) accWrite = .at l → u.reaches e.core l = true →
      u.elsewhere l = false → u.engDenied e l 8 false true = false → u.mgmtOf l = none →
      (u.mem.tag (l.key / 8 * 8) = .full ∨ u.mem.tag (l.key / 8 * 8) = .poison) →
      ∃ w : State, let e' := { e with pos := e.pos + 1, denied := false }
        let z := (w.setEng e').copyEnd e' slot id rec (copyTotal op rec) 0
        exec (.copyComplete n) s = .next (if s.bankClash z then s else z.actWrites) ∧
          w.mem.word (l.key / 8 * 8) = BitVec.ofNat 64 v ∧ w.mem.tag (l.key / 8 * 8) = .full) ∧
    (∀ e ring x a slot h l u, s.engAt (fun k => match k with
        | .tldw _ _ _ _ _ => true
        | _ => false) n = some e → e.kind = .tldw ring x a slot h →
      s.gather e (wordsAt (slot + 64) ((tileBytes true h.fmt h.kp h.scnt - 64) / 8)) = (.all l, u) →
      let z := (((u.setArray (clusterOf e.core) a
        { u.array (clusterOf e.core) a with tile := l.flatMap fun w => wordBytes w 8 }).noteMatrix e false false
          ⟨false, false⟩).freeSlot e ring x).retireEng e
      exec (.tldwLoadComplete n) s = .next (if s.bankClash z then s else z.actWrites)) ∧
    (∀ e ring x a slot h acc l u bad w, s.engAt (fun k => match k with
        | .tmma _ _ _ _ _ _ => true
        | _ => false) n = some e → e.kind = .tmma ring x a slot h acc →
      let m := s.array (clusterOf e.core) a
      let k := (tileBytes false h.fmt h.kp h.scnt - 64) / 8
      let r := mmaRegion ⟨h.fmt, h.se, h.kp, h.swz, false, (l.take k).flatMap fun w => wordBytes w 8⟩
        ⟨m.fmt, m.se, m.kp, m.swz, true, m.tile⟩ (l.drop k)
      m.poisoned = false → m.faulted = false → m.red = false →
      s.gather e (wordsAt (slot + 64) k ++ regionWords e acc) = (.all l, u) →
      u.engPuts e (keyAddr e.core acc) r.1 false = (bad, w) →
      let z := ((w.noteWrites e (regionWords e acc) bad r.2).freeSlot e ring x).retireEng e
      exec (.tmmaRetire n) s = .next (if s.bankClash z then s else z.actWrites)) ∧
    (∀ e acc bad u, s.engAt (fun k => match k with
        | .tzero _ => true
        | _ => false) n = some e → e.kind = .tzero acc →
      s.engPuts e (keyAddr e.core acc) (List.replicate 8192 0) false = (bad, u) →
      let z := (u.noteWrites e (regionWords e acc) bad ⟨false, false⟩).retireEng e
      exec (.tzeroComplete n) s = .next (if s.bankClash z then s else z.actWrites)) ∧
    (∀ e o dst acc rec mode srb l u bad w bad' z, s.engAt (fun k => match k with
        | .tdrain _ _ _ _ _ _ => true
        | _ => false) n = some e → e.kind = .tdrain o dst acc rec mode srb →
      let st := recW rec 1
      let bias := recW rec 0
      let stw := if stateful o then wordsAt st 2048 else []
      let bw := if bias = 0 then []
        else wordsAt (BitVec.ofNat 64 (bias.toNat / 8 * 8)) (if bias.toNat % 8 = 0 then 128 else 129)
      let bl := (l.drop 8192).take bw.length
      let rows := (List.range 64).map (drainLine o mode srb (l.take 8192)
        (if bias.toNat % 8 = 0 then bl else pack32 ((List.range 256).map fun i => half32 bl (i + 1)))
        (l.drop (8192 + bw.length)))
      let all := drainWords o dst (recW rec 2).toNat ++ stw ++ (if o.za then regionWords e acc else [])
      s.engMissing e accWrite all = none →
      s.gather e (regionWords e acc ++ bw ++ stw) = (.all l, u) →
      u.drainRows e dst st (recW rec 2).toNat rows 0 = (bad, w) →
      (if o.za then w.engPuts e (keyAddr e.core acc) (List.replicate 8192 0) false else (none, w)) = (bad', z) →
      let z := (z.noteWrites e all (worseKind bad bad')
        (rows.foldl (fun f x => f.join x.2.2) ⟨false, false⟩)).retireEng e
      exec (.tdrainComplete n) s = .next (if s.bankClash z then s else z.actWrites))

/-! ### Families, threads and launches (05 R109 to R113, 17 R327 to R334, 18 R348 to R358, R365) -/

/-- The adopters of a core that wait for registers try again, then room on it starts the lowest unstarted member dealt
to it of the family that goes first: of the highest effective priority, then one with a started member, then the one
that has waited longest; the member starts in its initial state. A family that is over ends and its waiters look
again. A pre-emption asks each thread of its set to be saved: at once where it may be, else at its next boundary. Of
the saved threads of a core one is restored to an entry and a run of registers; a migration brings one to another core;
a Halted thread is killed. A wait on an implicit object enters its edge, or its cycle traps; a stale edge leaves; a
stale effective priority is renewed; and a scan settles ended parties, enters untracked edges again and traps the
victim of each cycle it finds: of its waiters that wait by their edge, one of lowest effective priority.
That adopters come first, and that a thread with room goes before one for which registers are made free, is log 67. -/
def Obligations.ThreadsStartMoveAndEnd : Prop :=
  ∀ (s : State) (n : Nat), s.busy = false →
    (let t := (s.idleAdopters n).foldl (fun s a => s.adoptStep a.tid) s
     exec (.memberStart n) s = .next ((t.offerRoom n).getD t)) ∧
    (let Ready (fk : Nat) (f : Fam) : Prop := f.fin = false ∧ s.unmade fk = false ∧ (f.lowestOn n).isSome = true ∧
       (s.roomOn n f.launch (windowSize f.win)).isSome = true
     let After (f g : Fam) (p q : Nat) : Prop := p < q ∨ p = q ∧
       ((g.started = [] ∧ f.started ≠ []) ∨ ((g.started = [] ↔ f.started = []) ∧ f.queued < g.queued))
     ∀ fk f k e b, (fk, f) ∈ s.fams → s.fam? fk = some f → Ready fk f → (∀ p ∈ s.fams, p.2.queued < 2 ^ 64) →
       (∀ p ∈ s.fams, p ≠ (fk, f) → Ready p.1 p.2 →
         After f p.2 (7 - s.famPrio fk f) (7 - s.famPrio p.1 p.2)) →
       f.lowestOn n = some k → s.roomOn n f.launch (windowSize f.win) = some (e, b) →
       (∀ p ∈ s.threads, p.2.fam ≠ fk ∨ p.2.k ≠ k) →
       ∃ u v g, s.offerRoom n = some u ∧ u.thread? s.stamp = some v ∧ v.fam = fk ∧ v.k = k ∧
         v.core = n ∧ v.entry = e ∧ v.wbase = b ∧ v.life = .ready ∧ v.pc = f.st.entry ∧ v.win = f.win ∧
         v.l = (Vector.replicate 64 0).set 0 (f.st.start + BitVec.ofNat 64 k * f.st.step) ∧
         (∀ p : Fin 8, p ≠ 0 → v.preds.getLsbD p.val = false) ∧
         ((∀ x ∈ (s.core (f.dealt k)).links, ¬ (x.fam = fk ∧ x.k = k)) →
           v.dfull = (if k = 0 then BitVec.ofNat 16 (2 ^ f.win.s - 1) else 0)) ∧
         u.fam? fk = some g ∧ g.started = setInsert f.started k ∧ u.mem = s.mem) ∧
    (∀ fk f,
      (let l := (s.fams.filter fun (fk, f) => !f.fin && f.over && s.writesDone fk).map (·.1)
       l[n % l.length]? = some fk) → s.fam? fk = some f →
      ∃ u g, exec (.familyEnd n) s = .next u ∧ u.fam? fk = some g ∧ g.fin = true ∧ g.live = f.creator.isSome ∧
        g.ended = f.ended ∧ g.finals = f.finals ∧ u.mem = s.mem ∧
        ∀ tid t, tabGet s.threads tid = some t → t.tid = tid → t.waitsFor 13 fk = true →
          ∃ v, u.thread? tid = some v ∧ v.wait = none) ∧
    (let c := n % 2 ^ 13
     ∀ k l,
      (let ls := s.boundLaunches.filter fun x => x.2.place.contains c
       ls[n / 2 ^ 13 % 2 ^ 16 % ls.length]? = some (k, l)) →
      let s1 := s.holdOn k c
      let ts := (s1.onCore c).filter fun t => t.launch == k && (n / 2 ^ 29 / 2 ^ t.entry) % 2 == 1
      exec (.preEmpt n) s = .next ((ts.foldl (fun s t => match s.thread? t.tid with
        | some t => s.askSave 0 t
        | none => s) s1).clearHold k c)) ∧
    (∀ t kind, s.thread? t.tid = some t → t.life = .ready ∨ t.life = .waiting ∨ t.life = .stopped ∨
        (∃ j, t.life = .running j) →
      (s.canSave t = true → ∃ v, (s.askSave kind t).thread? t.tid = some v ∧ v.life = .saved) ∧
      (s.canSave t = false → s.askSave kind t = s.putThread { t with savePend := some kind })) ∧
    (∀ t e b, s.pkg.fstate = 0 →
      (let next := s.boundLaunches.filterMap fun (_, l) => s.nextSaved l n
       leastBy (fun (t, _) => 7 - t.eprio) (next.filterMap fun t => (s.restoreRoom t).map fun r => (t, r)) =
         some (t, e, b)) →
      exec (.threadRestore n) s = .next (s.restoreSaved t e b) ∧
      (s.thread? t.tid = some t → t.life = .saved → t.claim = none → ∃ v,
        (s.restoreSaved t e b).thread? t.tid = some v ∧ v.life = .ready ∧ v.core = t.core ∧ v.entry = e)) ∧
    (let c := n % 2 ^ 13
     ∀ t,
      (let l := s.allThreads.filter fun t => s.canMigrate t c
       l[n / 2 ^ 13 % l.length]? = some t) →
      exec (.migrate n) s = .next (s.migrateTo t c) ∧
      (s.thread? t.tid = some t → ∃ v, (s.migrateTo t c).thread? t.tid = some v ∧ v.core = c)) ∧
    (∀ t,
      (let l := s.allThreads.filter fun t => t.life == .halted
       l[n % l.length]? = some t) → exec (.haltedThreadKill n) s = .next (s.killHalted t.tid)) ∧
    (∀ tid o d,
      (let l := s.allThreads.filterMap fun t => match s.implicitWait t with
         | some (o, d) => if s.hasWaitEdge t.tid o d then none else some (t.tid, o, d)
         | none => none
       l[n % l.length]? = some (tid, o, d)) →
      let s1 := s.dropStale tid
      (∀ u, s1.insertWait tid o (BitVec.ofNat 64 o) d = .ok u → exec (.waitForInsert n) s = .next u) ∧
      (∀ p, s1.insertWait tid o (BitVec.ofNat 64 o) d = .error p →
        exec (.waitForInsert n) s = .next (s1.trapDeadlock tid p false))) ∧
    (∀ e,
      (let l := s.edges.filter fun e => s.staleWait e || s.staleHold e
       l[n % l.length]? = some e) →
      ∃ u, exec (.waitForRemove n) s = .next u ∧ u.mem = s.mem ∧
        (e.wait = true → u = s.removeWait e.tid e.obj ∧
          ∀ x ∈ u.edges, ¬ (x.wait = true ∧ x.tid = e.tid ∧ x.obj = e.obj)) ∧
        (e.wait = false → u = s.syncHolds e.obj)) ∧
    (∀ t,
      (let l := s.allThreads.filter fun t => s.eprioOf t != t.eprio
       l[n % l.length]? = some t) → s.thread? t.tid = some t →
      ∃ u, exec (.priorityPropagate n) s = .next u ∧ u.mem = s.mem ∧
        u.thread? t.tid = some { t with eprio := s.eprioOf t }) ∧
    (let s1 := s.scanParties
     let s2 := s1.reenter (s1.edges.filter fun e => !e.tracked)
     let found := firstSome (fun e => if e.wait && decide (e.tid < 2 ^ 40) then s2.cycleOf e.tid else none) s2.edges
     let waits := (s2.edges.filter fun e => e.wait && decide (e.tid < 2 ^ 40)).map (·.tid)
     (found = none → exec (.deadlockScan n) s = .next s2) ∧
     exec (.deadlockScan n) s = .next (waits.foldl State.breakCycle s2)) ∧
    (∀ tid, (s.cycleOf tid = none → s.breakCycle tid = s) ∧
      ∀ path, s.cycleOf tid = some path →
        let Waits (t : Thread) : Prop := (∃ p ∈ path, s.thread? p.2 = some t) ∧ s.waitsByEdge t = true
        ((∀ t, ¬ Waits t) → s.breakCycle tid = s) ∧
        (∀ t, s.victimOf path = some t → Waits t ∧ (∀ u, Waits u → t.eprio ≤ u.eprio) ∧
          ∀ p, s.cycleOf t.tid = some p → s.breakCycle tid = s.trapDeadlock t.tid p true))

/-- An accepted launch waits to bind, with its prerequisites; one that fails its checks completes REFUSED through its
completion word; one whose descriptor or completion word the tables deny to the Factor, or whose word is not an EMPTY
word of memory, is dropped. A launch binds on a place that is free. It starts once every kernel vector word of its
place is set, and is held till then. One that is over completes with its status in its completion word. A kill ends
its families, and its status is KILLED unless its last family had ended.
The base of a scratchpad share is that of log 45, the tables' rule for the Factor that of log 78. -/
def Obligations.LaunchesRunToCompletion : Prop :=
  ∀ (s : State), s.busy = false →
    (∀ (n : Fin 16), s.accepting = true → s.pkg.queues[n].cfg.getLsbD 5 = true →
      s.pkg.queues[n].head ≠ s.pkg.queues[n].tail →
      let q := s.pkg.queues[n]
      let e := q.base.toNat + 8 * (q.head % 2 ^ ringLog q.cfg)
      let a := (s.mem.word e).toNat
      let d := s.mem.readWords a 40
      let l := launchOf (Vector.ofFn fun i => d.getD i.val 0) s.stamp
      let c := (l.word 15).toNat
      let s1 := { s with stamp := s.stamp + 1 }
      let good : Prop := s.factorMay a 40 false = true ∧ c % 8 = 0 ∧ s.inMemory c = true ∧
        s.factorMay c 1 false = true ∧ s.mem.tag c = .empty
      (s.factorMay e 1 false = true → good → s.cwordWaits l = false →
        (s1.validate l q.mid = none → ∃ u, exec (.launchAccept n.val) s = .next u ∧ u.launch? s.stamp = some { l with
            pre := (s.launches.filter fun (_, x) => l.prereqs.contains x.lnum).map (·.1) } ∧
          u.pkg.queues[n].head = (q.head + 1) % 2 ^ 32 ∧ u.mem = s.mem) ∧
        (∀ st, s1.validate l q.mid = some st → s.listOf c = [] → s.factorMay c 1 true = true →
          ∃ u, exec (.launchAccept n.val) s = .next u ∧ u.launches = s.launches ∧
            u.mem.word c = launchStatus st 3 l.lnum ∧ u.mem.tag c = .full ∧
            u.pkg.queues[n].head = (q.head + 1) % 2 ^ 32)) ∧
      (s.factorMay e 1 false = true → good → s.cwordWaits l = true → exec (.launchAccept n.val) s = .next s) ∧
      (s.factorMay e 1 false = false ∨ ¬ good →
        ∃ u, exec (.launchAccept n.val) s = .next u ∧ u.launches = s.launches ∧ u.mem = s.mem ∧
          u.pkg.queues[n].drop = (q.drop + 1) % 2 ^ 32 ∧ u.pkg.queues[n].head = (q.head + 1) % 2 ^ 32)) ∧
    (∀ n k x, s.pkg.tripped = false → s.pkg.fstate = 0 → s.paired = false →
      (let l := s.launches.filter fun x => !(s.bindPlaces x).isEmpty
       l[n % l.length]? = some (k, x)) →
      ∃ p ∈ s.bindPlaces (k, x), ∃ u, exec (.launchBind n) s = .next u ∧ u.mem = s.mem ∧ u.launch? k = some { x with
        state := .bound, place := p, spbase := (s.spadBases (nearCores p) x.spad).getD []
        lstate := Config.freeWord s.free }) ∧
    (∀ n k x, s.pkg.tripped = false → s.pkg.fstate = 0 →
      (let l := s.launches.filter fun (_, l) => l.state == .bound && !l.killed
       l[n % l.length]? = some (k, x)) →
      ((∃ c ∈ nearCores x.place, s.kernelVector c = 0) →
        exec (.launchStart n) s = .next (s.setHold (fun _ r => r.launch == k) true)) ∧
      ((∀ c ∈ nearCores x.place, s.kernelVector c ≠ 0) →
        let s0 := s.setHold (fun _ r => r.launch == k) false
        let s1 := { s0 with
          stamp := s.stamp + 1, fams := tabSet s.fams s.stamp (rootFamily k x s.stamp)
          launches := tabSet s.launches k { x with state := .started, root := s.stamp } }
        ((rootFamily k x s.stamp).n ≠ 0 → exec (.launchStart n) s = .next (s1.startAll s.stamp x.place)) ∧
        ((rootFamily k x s.stamp).n = 0 → ∃ u g, exec (.launchStart n) s = .next u ∧
          u.fam? s.stamp = some g ∧ g.fin = true ∧ g.started = []))) ∧
    (∀ n k x endc,
      (let l := s.launches.filter fun (k, l) => s.launchOver k l && !s.cwordWaits l &&
         s.launches.all fun (_, x) => x.state != .waiting || !s.cwordWaits x
       l[n % l.length]? = some (k, x)) →
      (x.state = .started ∧ (∃ f, s.fam? x.root = some f ∧ endc = f.endCode) ∨ x.state ≠ .started ∧ endc = 3) →
      let c := (x.word 15).toNat
      c % 8 = 0 → s.factorMay c 1 false = true → s.factorMay c 1 true = true → s.mem.tag c = .empty → s.listOf c = [] →
      ∃ u, exec (.launchComplete n) s = .next u ∧ u.launch? k = none ∧
        u.mem.word c = launchStatus (if x.killed then 5 else if x.reports = [] then 0 else 6) endc x.lnum ∧
        u.mem.tag c = .full) ∧
    (∀ n k x,
      (let l := s.launches.filter fun (_, l) => !l.killed
       l[n % l.length]? = some (k, x)) → exec (.launchKill n) s = .next (s.killLnum x.lnum)) ∧
    (∀ k l, s.launch? k = some l → ∃ m, (s.killLaunch k).launch? k = some m ∧ m.saved = [] ∧
      (l.state ≠ .started ∨ (∃ p ∈ s.fams, p.2.launch = k ∧ p.2.fin = false) → m.killed = true) ∧
      (l.state = .started → (∀ p ∈ s.fams, p.2.launch = k → p.2.fin = true) → m.killed = l.killed))

/-! ### The Factor, its registers and the links (18 R348, R362, 19 R366 to R385, 21 R398 to R407) -/

/-- A register write with W in its access table, and CTL where it configures a counter bank or the trace unit, acts
on its register; a tail write moves SQTAIL or is counted in SQDROP; the commit ANDs what is advertised and accepted,
once; a unit goes to the first who claims it, is busy for a second guest, is taken from a guest by a hypervisor, and
is answered REVOKED once to the guest that lost it; and an access table entry is set or erased. That CTL stands in
front of such a write, and the bound of PCAP, are log 10, that a master which is no application core in hypervisor or
machine mode claims as a guest is log 56. The Factor's write of the registers of a slice is an extension of
REGISTER_WRITE (log 82). -/
def Obligations.ManagementWritesAct : Prop :=
  ∀ (s : State), s.busy = false →
    (∀ (mid off : Nat) (v : Word), mid < 2 ^ 16 → ¬ (0xF000 ≤ mid ∧ mid ≤ 0xF002) → off < 2 ^ 32 → off % 8 = 0 →
      s.tableAllows (mregOf off).target mid false true (mregOf off).unit?.isSome = true →
      (let e := exec (.registerWrite (mid + 2 ^ 16 * off + 2 ^ 48 * v.toNat)) s
       (∀ i, mregOf off = .acc i → s.pkg.committed = false →
         e = .next { s with pkg := { s.pkg with acc := setVec s.pkg.acc i v } }) ∧
       (∀ q, mregOf off = .queue q 0 →
         e = .next (s.modQueue q fun x => { x with base := v &&& 0xFFFFFFFFFFFFFFC0 })) ∧
       (∀ q, mregOf off = .queue q 1 → e = .next (s.modQueue q fun x => { x with cfg := v &&& 0x3F })) ∧
       (mregOf off = .pcap →
         e = .next { s with pkg := { s.pkg with pcap := BitVec.ofNat 64 (min 5200 v.toNat) } }) ∧
       (∀ cl i, mregOf off = .cntsel cl i → (s.cluster cl).owner = .guest mid → ∃ t, e = .next t ∧
         (t.cluster cl).csel = setVec (s.cluster cl).csel i (v &&& 0x1FF) ∧ t.mem = s.mem) ∧
       (∀ i, mregOf off = .fadv i → e = .next s))) ∧
    (∀ (off : Nat) (v : Word), off < 192 * 64 → exec (.registerWrite (0xF000 + 2 ^ 16 * off + 2 ^ 48 * v.toNat)) s =
      .next (s.writeSlice (off / 64) (off % 64 / 8) v)) ∧
    (∀ (q tail mid : Nat) (h : q < 16), tail < 2 ^ 32 → s.tableAllows (targetQueue q) mid false true false = true →
      let x := s.pkg.queues[q]
      (((tail + 2 ^ 32 - x.head) % 2 ^ 32 ≤ 2 ^ ringLog x.cfg) →
        ∃ t, exec (.sqTailWrite (q + 16 * tail + 2 ^ 36 * mid)) s = .next t ∧
          t.pkg.queues[q] = { x with tail := tail, mid := mid } ∧ t.mem = s.mem) ∧
      (2 ^ ringLog x.cfg < (tail + 2 ^ 32 - x.head) % 2 ^ 32 →
        ∃ t, exec (.sqTailWrite (q + 16 * tail + 2 ^ 36 * mid)) s = .next t ∧
          t.pkg.queues[q] = { x with drop := (x.drop + 1) % 2 ^ 32 } ∧ t.mem = s.mem)) ∧
    (∀ n, (s.pkg.committed = true → exec (.featureCommit n) s = .next s) ∧
      (s.pkg.committed = false → ∃ t, exec (.featureCommit n) s = .next t ∧ t.pkg.committed = true ∧
        t.pkg.feat[0].getLsbD 0 = true ∧ t.pkg.feat[2] = 0 ∧ t.pkg.feat[3] = 0 ∧
        (∀ b, 0 < b → b ≠ 6 → t.pkg.feat[0].getLsbD b = (s.pkg.fadv[0] &&& s.pkg.acc[0]).getLsbD b) ∧
        t.pkg.feat[0].getLsbD 6 =
          ((s.pkg.fadv[0] &&& s.pkg.acc[0]).getLsbD 5 && (s.pkg.fadv[0] &&& s.pkg.acc[0]).getLsbD 6) ∧
        (∀ b, t.pkg.feat[1].getLsbD b = ((s.pkg.fadv[1] &&& s.pkg.acc[1]).getLsbD b &&
          (decide (1 < b) || (s.pkg.fadv[0] &&& s.pkg.acc[0]).getLsbD 7))))) ∧
    (∀ u mid, u < 48 → s.tableAllows (targetBank u) mid false false true = true →
      let Claim (o : Owner) (a : UnitAnswer) : Prop := ∃ t, exec (.unitClaim (u + 64 * mid)) s = .next t ∧
        (t.cluster u).owner = o ∧ tabGet t.pkg.unitAns u = some (mid, a) ∧ t.mem = s.mem ∧
        (a = .granted → (t.cluster u).counts = Vector.replicate 16 0 ∧ (t.cluster u).csel = Vector.replicate 16 0) ∧
        (a ≠ .granted → (t.cluster u).counts = (s.cluster u).counts ∧ (t.cluster u).csel = (s.cluster u).csel)
      ((s.cluster u).owner = .free → Claim (if mid / 2 ^ 12 = 1 then .hyp mid none else .guest mid) .granted) ∧
      (∀ a, (s.cluster u).owner = .guest a → a ≠ mid →
        (mid / 2 ^ 12 ≠ 1 → Claim (.guest a) .busy) ∧ (mid / 2 ^ 12 = 1 → Claim (.hyp mid (some a)) .granted)) ∧
      (∀ m r, (s.cluster u).owner = .hyp m r → m ≠ mid →
        (r = some mid → Claim (.hyp m none) .revoked) ∧
        (r ≠ some mid → Claim (.hyp m r) (if mid / 2 ^ 12 = 1 then .busy else .busyHyp)))) ∧
    (∀ target i e, target < 2 ^ 16 → i < 256 → 0 < e → e < 2 ^ 20 →
      exec (.accessTableWrite (target + 2 ^ 16 * i + 2 ^ 24 * e)) s =
        .next { s with atab := tabSet s.atab (target * 256 + i) (BitVec.ofNat 64 e) }) ∧
    (∀ target i, target < 2 ^ 16 → i < 256 → exec (.accessTableWrite (target + 2 ^ 16 * i)) s =
      .next { s with atab := tabErase s.atab (target * 256 + i) })

/-- A link retrains and is up again, or fails, and after three failures in a row is down; a silent Gulong
port counts a failure; a keepalive carries nothing; FCTL starts and ends quiescence and retrains the ports
that are down; the clock steps between its limits and stays at them; a trip stops acceptance; a recorded event leaves
the Factor's list; harvest retires a core while 124 remain, and then reports it; a reset leaves what R382 says, also
where an image fails; and a quote covers nonce, measurements, features and harvest maps.
What a package reset keeps is log 55, that the report of a core is a list of the Factor's is log 92. What a link that
goes down does to traffic is not stated: it goes down here with none. -/
def Obligations.ThePackageChangesState : Prop :=
  ∀ (s : State) (n : Nat), s.busy = false →
    let Idle : Prop := s.reqs = [] ∧ s.missed = [] ∧ s.replies = [] ∧ s.delivers = [] ∧ s.partials = [] ∧
      s.engines = [] ∧ s.groups = [] ∧ ∀ c ∈ s.cores, c.2.phases = []
    (allLinks.contains n = true → s.linkIsDown n = false → n ∉ s.pkg.retrains →
      exec (.linkRetrain n) s = .next { s with pkg := { s.pkg with retrains := setInsert s.pkg.retrains n } }) ∧
    (n < 2 ^ 11 → n ∈ s.pkg.retrains →
      (∃ t, exec (.retrainComplete n) s = .next t ∧ n ∉ t.pkg.retrains ∧ t.linkFails n = 0 ∧ t.mem = s.mem) ∧
      (s.linkFails n < 2 → ∃ t, exec (.retrainComplete (n + 2 ^ 11)) s = .next t ∧
        t.linkFails n = s.linkFails n + 1 ∧ t.linkIsDown n = false ∧ t.mem = s.mem) ∧
      (s.linkFails n = 2 → Idle → ∃ t, exec (.retrainComplete (n + 2 ^ 11)) s = .next t ∧ t.linkIsDown n = true ∧
        n ∉ t.pkg.retrains ∧ t.pkg.notes.length = s.pkg.notes.length + 1 ∧ t.mem = s.mem)) ∧
    (n < 16 → (s.linkFails (gulongLink n) < 2 → ∃ t, exec (.gulongSilenceTimeout n) s = .next t ∧
        t.linkFails (gulongLink n) = s.linkFails (gulongLink n) + 1 ∧ t.linkIsDown (gulongLink n) = false) ∧
      (s.linkFails (gulongLink n) = 2 → Idle → ∃ t, exec (.gulongSilenceTimeout n) s = .next t ∧
        t.linkIsDown (gulongLink n) = true ∧ gulongLink n ∉ t.pkg.retrains ∧
        t.pkg.notes.length = s.pkg.notes.length + 1)) ∧
    exec (.gulongKeepalive n) s = .next s ∧
    (s.pkg.fstate = 0 → exec (.fctlQuiesce n) s = .next s.quiesce ∧
      (s.threads = [] → ∃ t, exec (.fctlQuiesce n) s = .next t ∧ t.pkg.fstate = 1)) ∧
    (s.pkg.fstate = 1 → s.quiesceFault = none → s.quiesceLate = none → s.atRest = true →
      ∃ t, exec (.quiesced n) s = .next t ∧ t.pkg.fstate = 2 ∧ t.launches = s.launches ∧ t.threads = s.threads) ∧
    (s.pkg.fstate = 2 → ∃ t, exec (.fctlResume n) s = .next t ∧ t.pkg.fstate = 0 ∧ t.threads = s.threads ∧
      t.mem = s.mem) ∧
    (∃ t, exec (.fctlPreset n) s = .next t ∧ t.mem = s.mem ∧
      (∀ p, p < 16 → s.linkIsDown (gulongLink p) = true → gulongLink p ∈ t.pkg.retrains) ∧
      ∀ k ∈ s.pkg.retrains, k ∈ t.pkg.retrains) ∧
    (s.pkg.tripped = false → n ≤ 4 → ∃ t, exec (.thermalTrip n) s = .next t ∧ t.pkg.tripped = true ∧
      t.accepting = false ∧ t.mem = s.mem) ∧
    (450 ≤ s.pkg.clock → s.pkg.clock ≤ 825 →
      exec (.clockStep (2 * n)) s = .next { s with pkg := { s.pkg with clock := s.pkg.clock - 25 } } ∧
      exec (.clockStep (2 * n + 1)) s = .next { s with pkg := { s.pkg with clock := s.pkg.clock + 25 } }) ∧
    (s.pkg.clock < 450 → exec (.clockStep (2 * n)) s = .next s) ∧
    (825 < s.pkg.clock → exec (.clockStep (2 * n + 1)) s = .next s) ∧
    (∀ m rest, s.pkg.notes = m :: rest → s.launch? m.launch = none → ∃ t, exec (.faultEvent (16 * n)) s = .next t ∧
      t.pkg.notes = rest ∧ t.threads = s.threads ∧ t.pkg.events =
        (if m.code = 1 ∨ m.code = 2 ∨ m.code = 10 ∨ m.code = 11 ∨ m.code = 12 then min 0xFFFFFFFF (s.pkg.events + 1)
          else s.pkg.events)) ∧
    (∀ cl p, cl < 48 → p < 128 → s.launches = [] → (s.cluster cl).disabled.contains p = false →
      (124 < (s.cluster cl).encnt → ∃ t, exec (.harvestUpdate (cl + 64 * p)) s = .next t ∧
        (t.cluster cl).encnt = (s.cluster cl).encnt - 1 ∧ p ∈ (t.cluster cl).disabled) ∧
      ((s.cluster cl).encnt ≤ 124 → ∃ t, exec (.harvestUpdate (cl + 64 * p)) s = .next t ∧
        (t.cluster cl).encnt = (s.cluster cl).encnt ∧ (t.cluster cl).degr = true ∧
        t.pkg.coreReports = s.pkg.coreReports ++ [(cl, p)])) ∧
    (∃ t, exec (.packageReset 0) s = .next t ∧ t.pkg.bstat = 1 ∧ t.threads = [] ∧ t.launches = [] ∧
      t.mem = State.reset.mem ∧ t.pkg.num = s.pkg.num ∧ t.pkg.committed = false) ∧
    (∀ k d, 0 < k → k < 4 → d < 4 → ∃ t, exec (.packageReset (k + 4 * d)) s = .next t ∧
      t.pkg.bstat = BitVec.ofNat 64 (2 + 4 * k) ∧ t.accepting = false ∧ t.threads = []) ∧
    (∃ t q, exec (.attestationQuote n) s = .next t ∧ t.pkg.quote = some q ∧ q.body = s.quoteBody n ∧
      q.sign = Config.sign q.body ∧ { t with pkg := { t.pkg with quote := s.pkg.quote } } = s)

/-! ### The trace unit and paired mode (20 R387 to R395) -/

/-- TRCTL is written by the owner of the unit, and as EN becomes 1 the numbers and the chain begin anew; a record joins
the open waybill, sealed first where it does not fit; a seal closes the waybill with its digest and takes a buffer of
the ring; a Write of 256 LBAs is issued and completes, in error or not; a survey ends its interval; paired mode changes while no
launch is live, and is entered only where FEAT1.PAIRED is set, else PSTAT.REFUSED is set; and an interval that is over
is closed and leaves no digest.
The order of buffers and Writes is log 51; the new interval of a closed one is log 54. -/
def Obligations.TraceAndPairedMode : Prop :=
  ∀ (s : State) (n : Nat), s.busy = false →
    (∀ (mid : Nat) (v : Word), mid < 2 ^ 16 → s.tableAllows targetTrace mid false true true = true →
      v.getLsbD 0 = true → s.pkg.trace.owner = .guest mid →
      ∃ t, exec (.traceEnable (mid + 2 ^ 16 * v.toNat)) s = .next t ∧ t.pkg.trace.ctl = v &&& 0x1FF ∧
        (s.pkg.trace.opened = [] ∨ s.pkg.trace.ctl.getLsbD 0 = true → t.mem = s.mem) ∧
        (s.pkg.trace.ctl.getLsbD 0 = false → t.pkg.trace.wseq = 0 ∧ t.pkg.trace.opened = [] ∧
          t.pkg.trace.digest = s.chainSeed)) ∧
    (∀ src tap r rest,
      (let l := s.pkg.trace.taps.filter fun (_, t) => !t.recs.isEmpty
       l[n % l.length]? = some (src, tap)) → tap.recs = r :: rest →
      let joins (u : State) : State := u.modTrace fun t => { t with
        opened := t.opened ++ r.words, taps := tabSet t.taps src { tap with recs := rest } }
      (s.pkg.trace.opened.length + r.words.length ≤ recordArea → exec (.traceRecordArrival n) s = .next (joins s)) ∧
      (recordArea < s.pkg.trace.opened.length + r.words.length →
        exec (.traceRecordArrival n) s = .next ((s.seal.map joins).getD s))) ∧
    (s.pkg.trace.opened ≠ [] →
      (s.pkg.trace.nextBuf = none → exec (.waybillSealTimeout n) s = .next s) ∧
      (∀ b lost, s.pkg.trace.nextBuf = some (b, lost) → ∃ t, exec (.waybillSealTimeout n) s = .next t ∧
        t.pkg.trace.wseq = s.pkg.trace.wseq + 1 ∧ t.pkg.trace.opened = [] ∧
        t.pkg.trace.lost = (if lost then s.pkg.trace.lost + 1 else s.pkg.trace.lost) ∧
        t.pkg.trace.bufs = (s.pkg.trace.bufs.filter fun x => x.buf != b) ++ [⟨b, s.pkg.trace.wseq, false⟩] ∧
        t.pkg.trace.digest = digestWords (Config.shake256 (listBytes s.pkg.trace.digest.toList ++ listBytes
          (s.waybillHeader ++ s.pkg.trace.opened ++
            List.replicate (recordArea - s.pkg.trace.opened.length) 0))))) ∧
    (∀ b, (s.pkg.trace.bufs.find? fun b => !b.sent) = some b → n % 3 = 0 →
      exec (.waybillWriteComplete n) s = .next (s.modTrace fun t => { t with
        writes := t.writes + 1
        cmds := t.cmds ++ [⟨b.buf, b.wseq, bits t.ctl 8 6,
          (t.lba.toNat + 256 * (t.writes % t.lban.toNat)) % 2 ^ 64, t.base.toNat + 2 ^ 20 * b.buf⟩]
        bufs := t.bufs.map fun x => if x.buf = b.buf then { x with sent := true } else x })) ∧
    (∀ c, s.pkg.trace.cmds[n / 3 % s.pkg.trace.cmds.length]? = some c → n % 3 ≠ 0 →
      exec (.waybillWriteComplete n) s = .next (s.modTrace fun t => { t with
        cmds := t.cmds.erase c
        bufs := t.bufs.filter fun x => x.buf != c.buf
        werr := if n % 3 = 2 then t.werr + 1 else t.werr })) ∧
    (n < 4 → s.traceOn 5 = true → ∃ t, exec (.routeSurvey n) s = .next t ∧
      let x := s.die n
      (t.die n).survey = x.survey + (x.surveyDue - x.surveyAt) / 2 ^ 20 + 1 ∧ x.surveyDue ≤ (t.die n).netTime ∧
      (t.die n).netTime < x.surveyDue + 2 ^ 20 ∧ (t.die n).surveyAt = x.surveyDue + 2 ^ 20 ∧ t.mem = s.mem ∧ t.threads = s.threads) ∧
    ((s.launches = [] → s.pkg.feat[1].getLsbD 0 = true → ∃ t, exec (.pmodeEnter n) s = .next t ∧
        t.pkg.pmode = true ∧ t.pkg.pstat.getLsbD 0 = true ∧ ∀ k, (t.slice k).digests = []) ∧
      (s.launches = [] → ∃ t, exec (.pmodeLeave n) s = .next t ∧ t.pkg.pmode = false ∧
        t.pkg.pstat.getLsbD 0 = false ∧ ∀ k, (t.slice k).digests = []) ∧
      (s.launches ≠ [] ∨ s.pkg.feat[1].getLsbD 0 = false → ∃ t, exec (.pmodeEnter n) s = .next t ∧
        t.pkg.pmode = s.pkg.pmode ∧ t.pkg.pstat = s.pkg.pstat ||| 2) ∧
      (s.launches ≠ [] → ∃ t, exec (.pmodeLeave n) s = .next t ∧
        t.pkg.pmode = s.pkg.pmode ∧ t.pkg.pstat = s.pkg.pstat ||| 2)) ∧
    (∀ k, s.paired = true →
      (let l := s.openIntervals.filter fun k => s.intervalOver (k / 2 ^ 16) (k % 2 ^ 16)
       l[n % l.length]? = some k) →
      exec (.intervalClose n) s = .next (s.closeInterval k) ∧
      ∀ i, tabGet ((s.closeInterval k).slice i).digests k = none ∧ k ∉ ((s.closeInterval k).slice i).missedDig)
end

