-- ==== Sys2Proof/Laws/Memory.lean ====
section
/-! SUPPORT. Keyed lists and memory: reading after writing, and that every operation on memory
keeps its canonical form. -/

namespace Sys2Proof.Machine

/-! ### Keyed lists -/

theorem tabGet_tabSet_same {α : Type} (t : List (Nat × α)) (k : Nat) (v : α) :
    tabGet (tabSet t k v) k = some v := by
  induction t with
  | nil => simp [tabSet, tabGet]
  | cons p r ih =>
    obtain ⟨j, u⟩ := p
    unfold tabSet
    split
    · simp [tabGet]
    · split
      · simp [tabGet]
      · rename_i h
        simp [tabGet, ih, Ne.symm h]

theorem tabGet_tabSet_other {α : Type} (t : List (Nat × α)) (k i : Nat) (v : α) (h : i ≠ k) :
    tabGet (tabSet t k v) i = tabGet t i := by
  induction t with
  | nil => simp [tabSet, tabGet, Ne.symm h]
  | cons p r ih =>
    obtain ⟨j, u⟩ := p
    unfold tabSet
    split
    · simp [tabGet, Ne.symm h]
    · split
      · rename_i hk
        subst hk
        simp [tabGet, Ne.symm h]
      · simp [tabGet, ih]

theorem tabGet_tabErase_same {α : Type} (t : List (Nat × α)) (k : Nat) : tabGet (tabErase t k) k = none := by
  induction t with
  | nil => rfl
  | cons p r ih =>
    obtain ⟨j, u⟩ := p
    by_cases h : j = k
    · simp [tabErase, h, ih]
    · simp [tabErase, tabGet, h, ih]

theorem tabGet_tabErase_other {α : Type} (t : List (Nat × α)) (k i : Nat) (h : i ≠ k) :
    tabGet (tabErase t k) i = tabGet t i := by
  induction t with
  | nil => rfl
  | cons p r ih =>
    obtain ⟨j, u⟩ := p
    by_cases hj : j = k
    · simp [tabErase, tabGet, hj, ih, Ne.symm h]
    · simp [tabErase, tabGet, hj, ih]

/-- The first key of a sorted list is above `n`, or there is none. -/
def tabAbove {α : Type} (n : Nat) (t : List (Nat × α)) : Bool :=
  match t with
  | [] => true
  | (k, _) :: _ => decide (n < k)

theorem tabSorted_cons {α : Type} (j : Nat) (u : α) (r : List (Nat × α)) :
    tabSorted ((j, u) :: r) = (tabAbove j r && tabSorted r) := by
  cases r <;> rfl

theorem tabAbove_tabSet {α : Type} (j k : Nat) (v : α) (t : List (Nat × α)) (h : tabAbove j t = true)
    (hk : j < k) : tabAbove j (tabSet t k v) = true := by
  cases t with
  | nil => simpa [tabSet, tabAbove] using hk
  | cons p r =>
    obtain ⟨i, u⟩ := p
    unfold tabSet
    split
    · simpa [tabAbove] using hk
    · split
      · simpa [tabAbove] using hk
      · simpa [tabAbove] using h

theorem tabSorted_tabSet {α : Type} (t : List (Nat × α)) (k : Nat) (v : α) (h : tabSorted t = true) :
    tabSorted (tabSet t k v) = true := by
  induction t with
  | nil => rfl
  | cons p r ih =>
    obtain ⟨j, u⟩ := p
    rw [tabSorted_cons, Bool.and_eq_true] at h
    unfold tabSet
    split
    · rename_i hk
      rw [tabSorted_cons, tabSorted_cons, h.1, h.2]
      simp [tabAbove, hk]
    · split
      · rename_i hk
        subst hk
        simp [tabSorted_cons, h.1, h.2]
      · rename_i h1 h2
        rw [tabSorted_cons, ih h.2, tabAbove_tabSet j k v r h.1 (by omega)]
        rfl

theorem tabAbove_mono {α : Type} (a b : Nat) (t : List (Nat × α)) (h : tabAbove b t = true) (hab : a ≤ b) :
    tabAbove a t = true := by
  cases t with
  | nil => rfl
  | cons p r => simp [tabAbove] at h ⊢; omega

theorem tabAbove_tabErase {α : Type} (j k : Nat) (t : List (Nat × α)) (h : tabAbove j t = true)
    (hs : tabSorted t = true) : tabAbove j (tabErase t k) = true := by
  induction t generalizing j with
  | nil => rfl
  | cons p r ih =>
    obtain ⟨i, u⟩ := p
    rw [tabSorted_cons, Bool.and_eq_true] at hs
    unfold tabErase
    split
    · exact ih j (tabAbove_mono j i r hs.1 (by simp [tabAbove] at h; omega)) hs.2
    · simpa [tabAbove] using h

theorem tabSorted_tabErase {α : Type} (t : List (Nat × α)) (k : Nat) (h : tabSorted t = true) :
    tabSorted (tabErase t k) = true := by
  induction t with
  | nil => rfl
  | cons p r ih =>
    obtain ⟨j, u⟩ := p
    rw [tabSorted_cons, Bool.and_eq_true] at h
    unfold tabErase
    split
    · exact ih h.2
    · rw [tabSorted_cons, ih h.2, tabAbove_tabErase j k r h.1 h.2]
      rfl

theorem tabSet_all {α : Type} (p : Nat × α → Bool) (t : List (Nat × α)) (k : Nat) (v : α)
    (h : t.all p = true) (hv : p (k, v) = true) : (tabSet t k v).all p = true := by
  induction t with
  | nil => simp [tabSet, hv]
  | cons q r ih =>
    obtain ⟨j, u⟩ := q
    simp only [List.all_cons, Bool.and_eq_true] at h
    unfold tabSet
    split
    · simp [h.1, h.2, hv]
    · split
      · simp [h.2, hv]
      · simp [h.1, ih h.2]

theorem tabErase_all {α : Type} (p : Nat × α → Bool) (t : List (Nat × α)) (k : Nat)
    (h : t.all p = true) : (tabErase t k).all p = true := by
  induction t with
  | nil => rfl
  | cons q r ih =>
    obtain ⟨j, u⟩ := q
    simp only [List.all_cons, Bool.and_eq_true] at h
    unfold tabErase
    split
    · exact ih h.2
    · simp [h.1, ih h.2]

/-! ### One byte and one tag -/

theorem Memory.byte_setByte_same (m : Memory) (k : Nat) (b : Byte) : (m.setByte k b).byte k = b := by
  unfold Memory.setByte Memory.byte
  split
  · rename_i h; simp [tabGet_tabErase_same, h]
  · simp [tabGet_tabSet_same]

theorem Memory.byte_setByte_other (m : Memory) (k i : Nat) (b : Byte) (h : i ≠ k) :
    (m.setByte k b).byte i = m.byte i := by
  unfold Memory.setByte Memory.byte
  split
  · simp [tabGet_tabErase_other _ _ _ h]
  · simp [tabGet_tabSet_other _ _ _ _ h]

@[simp] theorem Memory.tag_setByte (m : Memory) (k i : Nat) (b : Byte) : (m.setByte k b).tag i = m.tag i := rfl
@[simp] theorem Memory.byte_setTag (m : Memory) (k i : Nat) (t : Tag) : (m.setTag k t).byte i = m.byte i := rfl

theorem Memory.tag_setTag_same (m : Memory) (k : Nat) (t : Tag) : (m.setTag k t).tag k = t := by
  unfold Memory.setTag Memory.tag
  split
  · rename_i h; simp [tabGet_tabErase_same, h]
  · simp [tabGet_tabSet_same]

theorem Memory.tag_setTag_other (m : Memory) (k i : Nat) (t : Tag) (h : i ≠ k) :
    (m.setTag k t).tag i = m.tag i := by
  unfold Memory.setTag Memory.tag
  split
  · simp [tabGet_tabErase_other _ _ _ h]
  · simp [tabGet_tabSet_other _ _ _ _ h]

/-! ### Several bytes -/

theorem Memory.byte_storeN_outside (n : Nat) (m : Memory) (k i v : Nat) (h : i < k ∨ k + n ≤ i) :
    (m.storeN k n v).byte i = m.byte i := by
  induction n generalizing m k v with
  | zero => rfl
  | succ j ih =>
    rw [Memory.storeN, ih _ _ _ (by omega), Memory.byte_setByte_other _ _ _ _ (by omega)]

@[simp] theorem Memory.tag_storeN (n : Nat) (m : Memory) (k i v : Nat) : (m.storeN k n v).tag i = m.tag i := by
  induction n generalizing m k v with
  | zero => rfl
  | succ j ih => rw [Memory.storeN, ih, Memory.tag_setByte]

theorem Memory.loadN_congr (n : Nat) (m m' : Memory) (k : Nat)
    (h : ∀ i, k ≤ i → i < k + n → m'.byte i = m.byte i) : m'.loadN k n = m.loadN k n := by
  induction n generalizing k with
  | zero => rfl
  | succ j ih =>
    rw [Memory.loadN, Memory.loadN, h k (by omega) (by omega),
      ih (k + 1) (fun i h1 h2 => h i (by omega) (by omega))]

theorem Memory.loadN_storeN_same (n : Nat) (m : Memory) (k v : Nat) :
    (m.storeN k n v).loadN k n = v % 256 ^ n := by
  induction n generalizing m k v with
  | zero => simp [Memory.loadN, Nat.mod_one]
  | succ j ih =>
    rw [Memory.storeN, Memory.loadN, ih, Memory.byte_storeN_outside _ _ _ _ _ (by omega),
      Memory.byte_setByte_same, BitVec.toNat_ofNat, show 256 ^ (j + 1) = 256 * 256 ^ j from Nat.pow_succ' ..]
    exact (Nat.mod_mul (x := v) (a := 256) (b := 256 ^ j)).symm

theorem Memory.loadN_storeN_outside (n p : Nat) (m : Memory) (k i v : Nat) (h : i + p ≤ k ∨ k + n ≤ i) :
    (m.storeN k n v).loadN i p = m.loadN i p :=
  Memory.loadN_congr p m _ i fun j h1 h2 => Memory.byte_storeN_outside n m k j v (by omega)

/-- A word read back is the word written. -/
theorem Memory.word_setWord_same (m : Memory) (k : Nat) (v : Word) (t : Tag) : (m.setWord k v t).word k = v := by
  have h : (m.setWord k v t).loadN k 8 = (m.storeN k 8 v.toNat).loadN k 8 :=
    Memory.loadN_congr 8 _ _ k fun i _ _ => rfl
  unfold Memory.word
  rw [h, Memory.loadN_storeN_same, Nat.mod_eq_of_lt (by have := v.isLt; omega)]
  simp

theorem Memory.tag_setWord_same (m : Memory) (k : Nat) (v : Word) (t : Tag) : (m.setWord k v t).tag k = t :=
  Memory.tag_setTag_same _ _ _

theorem Memory.byte_setWord_outside (m : Memory) (k i : Nat) (v : Word) (t : Tag) (h : i < k ∨ k + 8 ≤ i) :
    (m.setWord k v t).byte i = m.byte i := by
  unfold Memory.setWord
  rw [Memory.byte_setTag, Memory.byte_storeN_outside _ _ _ _ _ h]

theorem Memory.tag_setWord_other (m : Memory) (k i : Nat) (v : Word) (t : Tag) (h : i ≠ k) :
    (m.setWord k v t).tag i = m.tag i := by
  unfold Memory.setWord
  rw [Memory.tag_setTag_other _ _ _ _ h, Memory.tag_storeN]

/-! ### The canonical form -/

theorem Memory.wf_setByte (m : Memory) (k : Nat) (b : Byte) (h : m.wf = true) : (m.setByte k b).wf = true := by
  simp only [Memory.wf, Bool.and_eq_true] at h ⊢
  obtain ⟨⟨⟨h1, h2⟩, h3⟩, h4⟩ := h
  refine ⟨⟨⟨?_, ?_⟩, h3⟩, h4⟩ <;> unfold Memory.setByte <;> simp only <;> split
  · exact tabSorted_tabErase _ _ h1
  · exact tabSorted_tabSet _ _ _ h1
  · exact tabErase_all _ _ _ h2
  · rename_i hb
    exact tabSet_all _ _ _ _ h2 (by simpa using hb)

theorem Memory.wf_setTag (m : Memory) (k : Nat) (t : Tag) (h : m.wf = true) : (m.setTag k t).wf = true := by
  simp only [Memory.wf, Bool.and_eq_true] at h ⊢
  obtain ⟨⟨⟨h1, h2⟩, h3⟩, h4⟩ := h
  refine ⟨⟨⟨h1, h2⟩, ?_⟩, ?_⟩ <;> unfold Memory.setTag <;> simp only <;> split
  · exact tabSorted_tabErase _ _ h3
  · exact tabSorted_tabSet _ _ _ h3
  · exact tabErase_all _ _ _ h4
  · rename_i hb
    exact tabSet_all _ _ _ _ h4 (by simpa using hb)

theorem Memory.wf_storeN (n : Nat) (m : Memory) (k v : Nat) (h : m.wf = true) : (m.storeN k n v).wf = true := by
  induction n generalizing m k v with
  | zero => exact h
  | succ j ih => exact ih _ _ _ (Memory.wf_setByte _ _ _ h)

theorem Memory.wf_setWord (m : Memory) (k : Nat) (v : Word) (t : Tag) (h : m.wf = true) :
    (m.setWord k v t).wf = true :=
  Memory.wf_setTag _ _ _ (Memory.wf_storeN _ _ _ _ h)

theorem Memory.wf_writeWords (l : List Word) (m : Memory) (k : Nat) (h : m.wf = true) :
    (m.writeWords k l).wf = true := by
  induction l generalizing m k with
  | nil => exact h
  | cons w r ih => exact ih _ _ (Memory.wf_setWord _ _ _ _ h)

theorem tabAbove_filter {α : Type} (j : Nat) (p : Nat × α → Bool) (t : List (Nat × α)) (h : tabAbove j t = true)
    (hs : tabSorted t = true) : tabAbove j (t.filter p) = true := by
  induction t generalizing j with
  | nil => rfl
  | cons q r ih =>
    obtain ⟨i, u⟩ := q
    rw [tabSorted_cons, Bool.and_eq_true] at hs
    rw [List.filter_cons]
    split
    · simpa [tabAbove] using h
    · exact ih j (tabAbove_mono j i r hs.1 (by simp [tabAbove] at h; omega)) hs.2

theorem tabSorted_filter {α : Type} (p : Nat × α → Bool) (t : List (Nat × α)) (h : tabSorted t = true) :
    tabSorted (t.filter p) = true := by
  induction t with
  | nil => rfl
  | cons q r ih =>
    obtain ⟨j, u⟩ := q
    rw [tabSorted_cons, Bool.and_eq_true] at h
    rw [List.filter_cons]
    split
    · rw [tabSorted_cons, ih h.2, tabAbove_filter j p r h.1 h.2]
      rfl
    · exact ih h.2

theorem filter_all {α : Type} (p q : α → Bool) (t : List α) (h : t.all q = true) : (t.filter p).all q = true := by
  rw [List.all_eq_true] at h ⊢
  intro x hx
  exact h x (List.mem_filter.mp hx).1

/-- Listed bytes and tags that are taken away leave the form as it is. -/
theorem Memory.wf_filter (m : Memory) (p : Nat × Byte → Bool) (q : Nat × Tag → Bool) (h : m.wf = true) :
    (Memory.mk (m.bytes.filter p) (m.tags.filter q)).wf = true := by
  simp only [Memory.wf, Bool.and_eq_true] at h ⊢
  obtain ⟨⟨⟨h1, h2⟩, h3⟩, h4⟩ := h
  exact ⟨⟨⟨tabSorted_filter _ _ h1, filter_all _ _ _ h2⟩, tabSorted_filter _ _ h3⟩, filter_all _ _ _ h4⟩

theorem moveTab_ok {α : Type} (f : Nat → Nat) (q : α → Bool) (t : List (Nat × α))
    (h : t.all (fun c => q c.2) = true) :
    tabSorted (moveTab f t) = true ∧ (moveTab f t).all (fun c => q c.2) = true := by
  have aux : ∀ (t r : List (Nat × α)), t.all (fun c => q c.2) = true → tabSorted r = true →
      r.all (fun c => q c.2) = true →
      tabSorted (t.foldl (fun r (k, v) => tabSet r (f k) v) r) = true ∧
        (t.foldl (fun r (k, v) => tabSet r (f k) v) r).all (fun c => q c.2) = true := by
    intro t
    induction t with
    | nil => exact fun r _ h1 h2 => ⟨h1, h2⟩
    | cons p t ih =>
      obtain ⟨k, v⟩ := p
      intro r ht h1 h2
      simp only [List.all_cons, Bool.and_eq_true] at ht
      exact ih _ ht.2 (tabSorted_tabSet _ _ _ h1) (tabSet_all _ _ _ _ h2 ht.1)
  exact aux t [] h rfl rfl

/-- Cells that move with their cores keep the form. -/
theorem Memory.wf_moveTab (m : Memory) (f : Nat → Nat) (h : m.wf = true) :
    (Memory.mk (moveTab f m.bytes) (moveTab f m.tags)).wf = true := by
  simp only [Memory.wf, Bool.and_eq_true] at h ⊢
  obtain ⟨⟨⟨_, h2⟩, _⟩, h4⟩ := h
  have a := moveTab_ok f (fun b : Byte => b != unlistedByte) m.bytes h2
  have b := moveTab_ok f (fun t : Tag => t != Tag.full) m.tags h4
  exact ⟨⟨⟨a.1, a.2⟩, b.1⟩, b.2⟩

/-- Taking a bank leaves memory alone. -/
theorem State.useBanks_mem (s : State) (k n : Nat) : (s.useBanks k n).mem = s.mem := by
  unfold State.useBanks
  split <;> rfl

/-- Words that a master writes, where their homes let it, keep the canonical form. -/
theorem State.wf_writeAs (l : List Word) (s : State) (mid k : Nat) (h : s.mem.wf = true) :
    (s.writeAs mid k l).mem.wf = true := by
  induction l generalizing s k with
  | nil => exact h
  | cons w r ih =>
    refine ih _ _ ?_
    split
    · exact Memory.wf_setWord _ _ _ _ h
    · exact h

/-- Memory at reset lists nothing. -/
theorem State.reset_mem_wf : State.reset.mem.wf = true := rfl

end Sys2Proof.Machine
end

