-- ==== Sys2Proof/Laws/State.lean ====
section
/-! SUPPORT. What each named update of the state gives every field, by field: the updates are
 never unfolded in a proof. -/

namespace Sys2Proof.Machine

/-! ### State.updCur -/

@[simp] theorem State.updCur_cur (s : State) (f : Thread → Thread) : (s.updCur f).cur = f s.cur := rfl
@[simp] theorem State.updCur_busy (s : State) (f : Thread → Thread) : (s.updCur f).busy = s.busy := rfl
@[simp] theorem State.updCur_inTurn (s : State) (f : Thread → Thread) : (s.updCur f).inTurn = s.inTurn := rfl
@[simp] theorem State.updCur_second (s : State) (f : Thread → Thread) : (s.updCur f).second = s.second := rfl
@[simp] theorem State.updCur_flow (s : State) (f : Thread → Thread) : (s.updCur f).flow = s.flow := rfl
@[simp] theorem State.updCur_agenda (s : State) (f : Thread → Thread) : (s.updCur f).agenda = s.agenda := rfl
@[simp] theorem State.updCur_choice (s : State) (f : Thread → Thread) : (s.updCur f).choice = s.choice := rfl
@[simp] theorem State.updCur_free (s : State) (f : Thread → Thread) : (s.updCur f).free = s.free := rfl
@[simp] theorem State.updCur_stamp (s : State) (f : Thread → Thread) : (s.updCur f).stamp = s.stamp := rfl
@[simp] theorem State.updCur_mem (s : State) (f : Thread → Thread) : (s.updCur f).mem = s.mem := rfl
@[simp] theorem State.updCur_threads (s : State) (f : Thread → Thread) : (s.updCur f).threads = s.threads := rfl
@[simp] theorem State.updCur_cores (s : State) (f : Thread → Thread) : (s.updCur f).cores = s.cores := rfl
@[simp] theorem State.updCur_fams (s : State) (f : Thread → Thread) : (s.updCur f).fams = s.fams := rfl
@[simp] theorem State.updCur_launches (s : State) (f : Thread → Thread) : (s.updCur f).launches = s.launches := rfl
@[simp] theorem State.updCur_reqs (s : State) (f : Thread → Thread) : (s.updCur f).reqs = s.reqs := rfl
@[simp] theorem State.updCur_replies (s : State) (f : Thread → Thread) : (s.updCur f).replies = s.replies := rfl
@[simp] theorem State.updCur_notices (s : State) (f : Thread → Thread) : (s.updCur f).notices = s.notices := rfl
@[simp] theorem State.updCur_defers (s : State) (f : Thread → Thread) : (s.updCur f).defers = s.defers := rfl
@[simp] theorem State.updCur_delivers (s : State) (f : Thread → Thread) : (s.updCur f).delivers = s.delivers := rfl
@[simp] theorem State.updCur_wakes (s : State) (f : Thread → Thread) : (s.updCur f).wakes = s.wakes := rfl
@[simp] theorem State.updCur_linkMsgs (s : State) (f : Thread → Thread) : (s.updCur f).linkMsgs = s.linkMsgs := rfl
@[simp] theorem State.updCur_pkts (s : State) (f : Thread → Thread) : (s.updCur f).pkts = s.pkts := rfl
@[simp] theorem State.updCur_walks (s : State) (f : Thread → Thread) : (s.updCur f).walks = s.walks := rfl
@[simp] theorem State.updCur_faults (s : State) (f : Thread → Thread) : (s.updCur f).faults = s.faults := rfl
@[simp] theorem State.updCur_elemFaults (s : State) (f : Thread → Thread) : (s.updCur f).elemFaults = s.elemFaults := rfl
@[simp] theorem State.updCur_clusters (s : State) (f : Thread → Thread) : (s.updCur f).clusters = s.clusters := rfl
@[simp] theorem State.updCur_dies (s : State) (f : Thread → Thread) : (s.updCur f).dies = s.dies := rfl
@[simp] theorem State.updCur_slices (s : State) (f : Thread → Thread) : (s.updCur f).slices = s.slices := rfl
@[simp] theorem State.updCur_atab (s : State) (f : Thread → Thread) : (s.updCur f).atab = s.atab := rfl
@[simp] theorem State.updCur_objs (s : State) (f : Thread → Thread) : (s.updCur f).objs = s.objs := rfl
@[simp] theorem State.updCur_edges (s : State) (f : Thread → Thread) : (s.updCur f).edges = s.edges := rfl
@[simp] theorem State.updCur_engines (s : State) (f : Thread → Thread) : (s.updCur f).engines = s.engines := rfl
@[simp] theorem State.updCur_bins (s : State) (f : Thread → Thread) : (s.updCur f).bins = s.bins := rfl
@[simp] theorem State.updCur_groups (s : State) (f : Thread → Thread) : (s.updCur f).groups = s.groups := rfl
@[simp] theorem State.updCur_partials (s : State) (f : Thread → Thread) : (s.updCur f).partials = s.partials := rfl
@[simp] theorem State.updCur_missed (s : State) (f : Thread → Thread) : (s.updCur f).missed = s.missed := rfl
@[simp] theorem State.updCur_pkg (s : State) (f : Thread → Thread) : (s.updCur f).pkg = s.pkg := rfl

/-! ### State.setCore -/

@[simp] theorem State.setCore_cur (s : State) (c : Nat) (x : Core) : (s.setCore c x).cur = s.cur := rfl
@[simp] theorem State.setCore_busy (s : State) (c : Nat) (x : Core) : (s.setCore c x).busy = s.busy := rfl
@[simp] theorem State.setCore_inTurn (s : State) (c : Nat) (x : Core) : (s.setCore c x).inTurn = s.inTurn := rfl
@[simp] theorem State.setCore_second (s : State) (c : Nat) (x : Core) : (s.setCore c x).second = s.second := rfl
@[simp] theorem State.setCore_flow (s : State) (c : Nat) (x : Core) : (s.setCore c x).flow = s.flow := rfl
@[simp] theorem State.setCore_agenda (s : State) (c : Nat) (x : Core) : (s.setCore c x).agenda = s.agenda := rfl
@[simp] theorem State.setCore_choice (s : State) (c : Nat) (x : Core) : (s.setCore c x).choice = s.choice := rfl
@[simp] theorem State.setCore_free (s : State) (c : Nat) (x : Core) : (s.setCore c x).free = s.free := rfl
@[simp] theorem State.setCore_stamp (s : State) (c : Nat) (x : Core) : (s.setCore c x).stamp = s.stamp := rfl
@[simp] theorem State.setCore_mem (s : State) (c : Nat) (x : Core) : (s.setCore c x).mem = s.mem := rfl
@[simp] theorem State.setCore_threads (s : State) (c : Nat) (x : Core) : (s.setCore c x).threads = s.threads := rfl
@[simp] theorem State.setCore_cores (s : State) (c : Nat) (x : Core) : (s.setCore c x).cores = tabSet s.cores c x := rfl
@[simp] theorem State.setCore_fams (s : State) (c : Nat) (x : Core) : (s.setCore c x).fams = s.fams := rfl
@[simp] theorem State.setCore_launches (s : State) (c : Nat) (x : Core) : (s.setCore c x).launches = s.launches := rfl
@[simp] theorem State.setCore_reqs (s : State) (c : Nat) (x : Core) : (s.setCore c x).reqs = s.reqs := rfl
@[simp] theorem State.setCore_replies (s : State) (c : Nat) (x : Core) : (s.setCore c x).replies = s.replies := rfl
@[simp] theorem State.setCore_notices (s : State) (c : Nat) (x : Core) : (s.setCore c x).notices = s.notices := rfl
@[simp] theorem State.setCore_defers (s : State) (c : Nat) (x : Core) : (s.setCore c x).defers = s.defers := rfl
@[simp] theorem State.setCore_delivers (s : State) (c : Nat) (x : Core) : (s.setCore c x).delivers = s.delivers := rfl
@[simp] theorem State.setCore_wakes (s : State) (c : Nat) (x : Core) : (s.setCore c x).wakes = s.wakes := rfl
@[simp] theorem State.setCore_linkMsgs (s : State) (c : Nat) (x : Core) : (s.setCore c x).linkMsgs = s.linkMsgs := rfl
@[simp] theorem State.setCore_pkts (s : State) (c : Nat) (x : Core) : (s.setCore c x).pkts = s.pkts := rfl
@[simp] theorem State.setCore_walks (s : State) (c : Nat) (x : Core) : (s.setCore c x).walks = s.walks := rfl
@[simp] theorem State.setCore_faults (s : State) (c : Nat) (x : Core) : (s.setCore c x).faults = s.faults := rfl
@[simp] theorem State.setCore_elemFaults (s : State) (c : Nat) (x : Core) : (s.setCore c x).elemFaults = s.elemFaults := rfl
@[simp] theorem State.setCore_clusters (s : State) (c : Nat) (x : Core) : (s.setCore c x).clusters = s.clusters := rfl
@[simp] theorem State.setCore_dies (s : State) (c : Nat) (x : Core) : (s.setCore c x).dies = s.dies := rfl
@[simp] theorem State.setCore_slices (s : State) (c : Nat) (x : Core) : (s.setCore c x).slices = s.slices := rfl
@[simp] theorem State.setCore_atab (s : State) (c : Nat) (x : Core) : (s.setCore c x).atab = s.atab := rfl
@[simp] theorem State.setCore_objs (s : State) (c : Nat) (x : Core) : (s.setCore c x).objs = s.objs := rfl
@[simp] theorem State.setCore_edges (s : State) (c : Nat) (x : Core) : (s.setCore c x).edges = s.edges := rfl
@[simp] theorem State.setCore_engines (s : State) (c : Nat) (x : Core) : (s.setCore c x).engines = s.engines := rfl
@[simp] theorem State.setCore_bins (s : State) (c : Nat) (x : Core) : (s.setCore c x).bins = s.bins := rfl
@[simp] theorem State.setCore_groups (s : State) (c : Nat) (x : Core) : (s.setCore c x).groups = s.groups := rfl
@[simp] theorem State.setCore_partials (s : State) (c : Nat) (x : Core) : (s.setCore c x).partials = s.partials := rfl
@[simp] theorem State.setCore_missed (s : State) (c : Nat) (x : Core) : (s.setCore c x).missed = s.missed := rfl
@[simp] theorem State.setCore_pkg (s : State) (c : Nat) (x : Core) : (s.setCore c x).pkg = s.pkg := rfl

/-! ### State.modCore -/

@[simp] theorem State.modCore_cur (s : State) (c : Nat) (f : Core → Core) : (s.modCore c f).cur = s.cur := rfl
@[simp] theorem State.modCore_busy (s : State) (c : Nat) (f : Core → Core) : (s.modCore c f).busy = s.busy := rfl
@[simp] theorem State.modCore_inTurn (s : State) (c : Nat) (f : Core → Core) : (s.modCore c f).inTurn = s.inTurn := rfl
@[simp] theorem State.modCore_second (s : State) (c : Nat) (f : Core → Core) : (s.modCore c f).second = s.second := rfl
@[simp] theorem State.modCore_flow (s : State) (c : Nat) (f : Core → Core) : (s.modCore c f).flow = s.flow := rfl
@[simp] theorem State.modCore_agenda (s : State) (c : Nat) (f : Core → Core) : (s.modCore c f).agenda = s.agenda := rfl
@[simp] theorem State.modCore_choice (s : State) (c : Nat) (f : Core → Core) : (s.modCore c f).choice = s.choice := rfl
@[simp] theorem State.modCore_free (s : State) (c : Nat) (f : Core → Core) : (s.modCore c f).free = s.free := rfl
@[simp] theorem State.modCore_stamp (s : State) (c : Nat) (f : Core → Core) : (s.modCore c f).stamp = s.stamp := rfl
@[simp] theorem State.modCore_mem (s : State) (c : Nat) (f : Core → Core) : (s.modCore c f).mem = s.mem := rfl
@[simp] theorem State.modCore_threads (s : State) (c : Nat) (f : Core → Core) : (s.modCore c f).threads = s.threads := rfl
@[simp] theorem State.modCore_cores (s : State) (c : Nat) (f : Core → Core) : (s.modCore c f).cores = tabSet s.cores c (f (s.core c)) := rfl
@[simp] theorem State.modCore_fams (s : State) (c : Nat) (f : Core → Core) : (s.modCore c f).fams = s.fams := rfl
@[simp] theorem State.modCore_launches (s : State) (c : Nat) (f : Core → Core) : (s.modCore c f).launches = s.launches := rfl
@[simp] theorem State.modCore_reqs (s : State) (c : Nat) (f : Core → Core) : (s.modCore c f).reqs = s.reqs := rfl
@[simp] theorem State.modCore_replies (s : State) (c : Nat) (f : Core → Core) : (s.modCore c f).replies = s.replies := rfl
@[simp] theorem State.modCore_notices (s : State) (c : Nat) (f : Core → Core) : (s.modCore c f).notices = s.notices := rfl
@[simp] theorem State.modCore_defers (s : State) (c : Nat) (f : Core → Core) : (s.modCore c f).defers = s.defers := rfl
@[simp] theorem State.modCore_delivers (s : State) (c : Nat) (f : Core → Core) : (s.modCore c f).delivers = s.delivers := rfl
@[simp] theorem State.modCore_wakes (s : State) (c : Nat) (f : Core → Core) : (s.modCore c f).wakes = s.wakes := rfl
@[simp] theorem State.modCore_linkMsgs (s : State) (c : Nat) (f : Core → Core) : (s.modCore c f).linkMsgs = s.linkMsgs := rfl
@[simp] theorem State.modCore_pkts (s : State) (c : Nat) (f : Core → Core) : (s.modCore c f).pkts = s.pkts := rfl
@[simp] theorem State.modCore_walks (s : State) (c : Nat) (f : Core → Core) : (s.modCore c f).walks = s.walks := rfl
@[simp] theorem State.modCore_faults (s : State) (c : Nat) (f : Core → Core) : (s.modCore c f).faults = s.faults := rfl
@[simp] theorem State.modCore_elemFaults (s : State) (c : Nat) (f : Core → Core) : (s.modCore c f).elemFaults = s.elemFaults := rfl
@[simp] theorem State.modCore_clusters (s : State) (c : Nat) (f : Core → Core) : (s.modCore c f).clusters = s.clusters := rfl
@[simp] theorem State.modCore_dies (s : State) (c : Nat) (f : Core → Core) : (s.modCore c f).dies = s.dies := rfl
@[simp] theorem State.modCore_slices (s : State) (c : Nat) (f : Core → Core) : (s.modCore c f).slices = s.slices := rfl
@[simp] theorem State.modCore_atab (s : State) (c : Nat) (f : Core → Core) : (s.modCore c f).atab = s.atab := rfl
@[simp] theorem State.modCore_objs (s : State) (c : Nat) (f : Core → Core) : (s.modCore c f).objs = s.objs := rfl
@[simp] theorem State.modCore_edges (s : State) (c : Nat) (f : Core → Core) : (s.modCore c f).edges = s.edges := rfl
@[simp] theorem State.modCore_engines (s : State) (c : Nat) (f : Core → Core) : (s.modCore c f).engines = s.engines := rfl
@[simp] theorem State.modCore_bins (s : State) (c : Nat) (f : Core → Core) : (s.modCore c f).bins = s.bins := rfl
@[simp] theorem State.modCore_groups (s : State) (c : Nat) (f : Core → Core) : (s.modCore c f).groups = s.groups := rfl
@[simp] theorem State.modCore_partials (s : State) (c : Nat) (f : Core → Core) : (s.modCore c f).partials = s.partials := rfl
@[simp] theorem State.modCore_missed (s : State) (c : Nat) (f : Core → Core) : (s.modCore c f).missed = s.missed := rfl
@[simp] theorem State.modCore_pkg (s : State) (c : Nat) (f : Core → Core) : (s.modCore c f).pkg = s.pkg := rfl

/-! ### State.modCluster -/

@[simp] theorem State.modCluster_cur (s : State) (c : Nat) (f : Cluster → Cluster) : (s.modCluster c f).cur = s.cur := rfl
@[simp] theorem State.modCluster_busy (s : State) (c : Nat) (f : Cluster → Cluster) : (s.modCluster c f).busy = s.busy := rfl
@[simp] theorem State.modCluster_inTurn (s : State) (c : Nat) (f : Cluster → Cluster) : (s.modCluster c f).inTurn = s.inTurn := rfl
@[simp] theorem State.modCluster_second (s : State) (c : Nat) (f : Cluster → Cluster) : (s.modCluster c f).second = s.second := rfl
@[simp] theorem State.modCluster_flow (s : State) (c : Nat) (f : Cluster → Cluster) : (s.modCluster c f).flow = s.flow := rfl
@[simp] theorem State.modCluster_agenda (s : State) (c : Nat) (f : Cluster → Cluster) : (s.modCluster c f).agenda = s.agenda := rfl
@[simp] theorem State.modCluster_choice (s : State) (c : Nat) (f : Cluster → Cluster) : (s.modCluster c f).choice = s.choice := rfl
@[simp] theorem State.modCluster_free (s : State) (c : Nat) (f : Cluster → Cluster) : (s.modCluster c f).free = s.free := rfl
@[simp] theorem State.modCluster_stamp (s : State) (c : Nat) (f : Cluster → Cluster) : (s.modCluster c f).stamp = s.stamp := rfl
@[simp] theorem State.modCluster_mem (s : State) (c : Nat) (f : Cluster → Cluster) : (s.modCluster c f).mem = s.mem := rfl
@[simp] theorem State.modCluster_threads (s : State) (c : Nat) (f : Cluster → Cluster) : (s.modCluster c f).threads = s.threads := rfl
@[simp] theorem State.modCluster_cores (s : State) (c : Nat) (f : Cluster → Cluster) : (s.modCluster c f).cores = s.cores := rfl
@[simp] theorem State.modCluster_fams (s : State) (c : Nat) (f : Cluster → Cluster) : (s.modCluster c f).fams = s.fams := rfl
@[simp] theorem State.modCluster_launches (s : State) (c : Nat) (f : Cluster → Cluster) : (s.modCluster c f).launches = s.launches := rfl
@[simp] theorem State.modCluster_reqs (s : State) (c : Nat) (f : Cluster → Cluster) : (s.modCluster c f).reqs = s.reqs := rfl
@[simp] theorem State.modCluster_replies (s : State) (c : Nat) (f : Cluster → Cluster) : (s.modCluster c f).replies = s.replies := rfl
@[simp] theorem State.modCluster_notices (s : State) (c : Nat) (f : Cluster → Cluster) : (s.modCluster c f).notices = s.notices := rfl
@[simp] theorem State.modCluster_defers (s : State) (c : Nat) (f : Cluster → Cluster) : (s.modCluster c f).defers = s.defers := rfl
@[simp] theorem State.modCluster_delivers (s : State) (c : Nat) (f : Cluster → Cluster) : (s.modCluster c f).delivers = s.delivers := rfl
@[simp] theorem State.modCluster_wakes (s : State) (c : Nat) (f : Cluster → Cluster) : (s.modCluster c f).wakes = s.wakes := rfl
@[simp] theorem State.modCluster_linkMsgs (s : State) (c : Nat) (f : Cluster → Cluster) : (s.modCluster c f).linkMsgs = s.linkMsgs := rfl
@[simp] theorem State.modCluster_pkts (s : State) (c : Nat) (f : Cluster → Cluster) : (s.modCluster c f).pkts = s.pkts := rfl
@[simp] theorem State.modCluster_walks (s : State) (c : Nat) (f : Cluster → Cluster) : (s.modCluster c f).walks = s.walks := rfl
@[simp] theorem State.modCluster_faults (s : State) (c : Nat) (f : Cluster → Cluster) : (s.modCluster c f).faults = s.faults := rfl
@[simp] theorem State.modCluster_elemFaults (s : State) (c : Nat) (f : Cluster → Cluster) : (s.modCluster c f).elemFaults = s.elemFaults := rfl
@[simp] theorem State.modCluster_clusters (s : State) (c : Nat) (f : Cluster → Cluster) : (s.modCluster c f).clusters = tabSet s.clusters c (f (s.cluster c)) := rfl
@[simp] theorem State.modCluster_dies (s : State) (c : Nat) (f : Cluster → Cluster) : (s.modCluster c f).dies = s.dies := rfl
@[simp] theorem State.modCluster_slices (s : State) (c : Nat) (f : Cluster → Cluster) : (s.modCluster c f).slices = s.slices := rfl
@[simp] theorem State.modCluster_atab (s : State) (c : Nat) (f : Cluster → Cluster) : (s.modCluster c f).atab = s.atab := rfl
@[simp] theorem State.modCluster_objs (s : State) (c : Nat) (f : Cluster → Cluster) : (s.modCluster c f).objs = s.objs := rfl
@[simp] theorem State.modCluster_edges (s : State) (c : Nat) (f : Cluster → Cluster) : (s.modCluster c f).edges = s.edges := rfl
@[simp] theorem State.modCluster_engines (s : State) (c : Nat) (f : Cluster → Cluster) : (s.modCluster c f).engines = s.engines := rfl
@[simp] theorem State.modCluster_bins (s : State) (c : Nat) (f : Cluster → Cluster) : (s.modCluster c f).bins = s.bins := rfl
@[simp] theorem State.modCluster_groups (s : State) (c : Nat) (f : Cluster → Cluster) : (s.modCluster c f).groups = s.groups := rfl
@[simp] theorem State.modCluster_partials (s : State) (c : Nat) (f : Cluster → Cluster) : (s.modCluster c f).partials = s.partials := rfl
@[simp] theorem State.modCluster_missed (s : State) (c : Nat) (f : Cluster → Cluster) : (s.modCluster c f).missed = s.missed := rfl
@[simp] theorem State.modCluster_pkg (s : State) (c : Nat) (f : Cluster → Cluster) : (s.modCluster c f).pkg = s.pkg := rfl

/-! ### State.modDie -/

@[simp] theorem State.modDie_cur (s : State) (d : Nat) (f : Die → Die) : (s.modDie d f).cur = s.cur := rfl
@[simp] theorem State.modDie_busy (s : State) (d : Nat) (f : Die → Die) : (s.modDie d f).busy = s.busy := rfl
@[simp] theorem State.modDie_inTurn (s : State) (d : Nat) (f : Die → Die) : (s.modDie d f).inTurn = s.inTurn := rfl
@[simp] theorem State.modDie_second (s : State) (d : Nat) (f : Die → Die) : (s.modDie d f).second = s.second := rfl
@[simp] theorem State.modDie_flow (s : State) (d : Nat) (f : Die → Die) : (s.modDie d f).flow = s.flow := rfl
@[simp] theorem State.modDie_agenda (s : State) (d : Nat) (f : Die → Die) : (s.modDie d f).agenda = s.agenda := rfl
@[simp] theorem State.modDie_choice (s : State) (d : Nat) (f : Die → Die) : (s.modDie d f).choice = s.choice := rfl
@[simp] theorem State.modDie_free (s : State) (d : Nat) (f : Die → Die) : (s.modDie d f).free = s.free := rfl
@[simp] theorem State.modDie_stamp (s : State) (d : Nat) (f : Die → Die) : (s.modDie d f).stamp = s.stamp := rfl
@[simp] theorem State.modDie_mem (s : State) (d : Nat) (f : Die → Die) : (s.modDie d f).mem = s.mem := rfl
@[simp] theorem State.modDie_threads (s : State) (d : Nat) (f : Die → Die) : (s.modDie d f).threads = s.threads := rfl
@[simp] theorem State.modDie_cores (s : State) (d : Nat) (f : Die → Die) : (s.modDie d f).cores = s.cores := rfl
@[simp] theorem State.modDie_fams (s : State) (d : Nat) (f : Die → Die) : (s.modDie d f).fams = s.fams := rfl
@[simp] theorem State.modDie_launches (s : State) (d : Nat) (f : Die → Die) : (s.modDie d f).launches = s.launches := rfl
@[simp] theorem State.modDie_reqs (s : State) (d : Nat) (f : Die → Die) : (s.modDie d f).reqs = s.reqs := rfl
@[simp] theorem State.modDie_replies (s : State) (d : Nat) (f : Die → Die) : (s.modDie d f).replies = s.replies := rfl
@[simp] theorem State.modDie_notices (s : State) (d : Nat) (f : Die → Die) : (s.modDie d f).notices = s.notices := rfl
@[simp] theorem State.modDie_defers (s : State) (d : Nat) (f : Die → Die) : (s.modDie d f).defers = s.defers := rfl
@[simp] theorem State.modDie_delivers (s : State) (d : Nat) (f : Die → Die) : (s.modDie d f).delivers = s.delivers := rfl
@[simp] theorem State.modDie_wakes (s : State) (d : Nat) (f : Die → Die) : (s.modDie d f).wakes = s.wakes := rfl
@[simp] theorem State.modDie_linkMsgs (s : State) (d : Nat) (f : Die → Die) : (s.modDie d f).linkMsgs = s.linkMsgs := rfl
@[simp] theorem State.modDie_pkts (s : State) (d : Nat) (f : Die → Die) : (s.modDie d f).pkts = s.pkts := rfl
@[simp] theorem State.modDie_walks (s : State) (d : Nat) (f : Die → Die) : (s.modDie d f).walks = s.walks := rfl
@[simp] theorem State.modDie_faults (s : State) (d : Nat) (f : Die → Die) : (s.modDie d f).faults = s.faults := rfl
@[simp] theorem State.modDie_elemFaults (s : State) (d : Nat) (f : Die → Die) : (s.modDie d f).elemFaults = s.elemFaults := rfl
@[simp] theorem State.modDie_clusters (s : State) (d : Nat) (f : Die → Die) : (s.modDie d f).clusters = s.clusters := rfl
@[simp] theorem State.modDie_dies (s : State) (d : Nat) (f : Die → Die) : (s.modDie d f).dies = tabSet s.dies d (f (s.die d)) := rfl
@[simp] theorem State.modDie_slices (s : State) (d : Nat) (f : Die → Die) : (s.modDie d f).slices = s.slices := rfl
@[simp] theorem State.modDie_atab (s : State) (d : Nat) (f : Die → Die) : (s.modDie d f).atab = s.atab := rfl
@[simp] theorem State.modDie_objs (s : State) (d : Nat) (f : Die → Die) : (s.modDie d f).objs = s.objs := rfl
@[simp] theorem State.modDie_edges (s : State) (d : Nat) (f : Die → Die) : (s.modDie d f).edges = s.edges := rfl
@[simp] theorem State.modDie_engines (s : State) (d : Nat) (f : Die → Die) : (s.modDie d f).engines = s.engines := rfl
@[simp] theorem State.modDie_bins (s : State) (d : Nat) (f : Die → Die) : (s.modDie d f).bins = s.bins := rfl
@[simp] theorem State.modDie_groups (s : State) (d : Nat) (f : Die → Die) : (s.modDie d f).groups = s.groups := rfl
@[simp] theorem State.modDie_partials (s : State) (d : Nat) (f : Die → Die) : (s.modDie d f).partials = s.partials := rfl
@[simp] theorem State.modDie_missed (s : State) (d : Nat) (f : Die → Die) : (s.modDie d f).missed = s.missed := rfl
@[simp] theorem State.modDie_pkg (s : State) (d : Nat) (f : Die → Die) : (s.modDie d f).pkg = s.pkg := rfl

/-! ### State.modSlice -/

@[simp] theorem State.modSlice_cur (s : State) (n : Nat) (f : Slice → Slice) : (s.modSlice n f).cur = s.cur := rfl
@[simp] theorem State.modSlice_busy (s : State) (n : Nat) (f : Slice → Slice) : (s.modSlice n f).busy = s.busy := rfl
@[simp] theorem State.modSlice_inTurn (s : State) (n : Nat) (f : Slice → Slice) : (s.modSlice n f).inTurn = s.inTurn := rfl
@[simp] theorem State.modSlice_second (s : State) (n : Nat) (f : Slice → Slice) : (s.modSlice n f).second = s.second := rfl
@[simp] theorem State.modSlice_flow (s : State) (n : Nat) (f : Slice → Slice) : (s.modSlice n f).flow = s.flow := rfl
@[simp] theorem State.modSlice_agenda (s : State) (n : Nat) (f : Slice → Slice) : (s.modSlice n f).agenda = s.agenda := rfl
@[simp] theorem State.modSlice_choice (s : State) (n : Nat) (f : Slice → Slice) : (s.modSlice n f).choice = s.choice := rfl
@[simp] theorem State.modSlice_free (s : State) (n : Nat) (f : Slice → Slice) : (s.modSlice n f).free = s.free := rfl
@[simp] theorem State.modSlice_stamp (s : State) (n : Nat) (f : Slice → Slice) : (s.modSlice n f).stamp = s.stamp := rfl
@[simp] theorem State.modSlice_mem (s : State) (n : Nat) (f : Slice → Slice) : (s.modSlice n f).mem = s.mem := rfl
@[simp] theorem State.modSlice_threads (s : State) (n : Nat) (f : Slice → Slice) : (s.modSlice n f).threads = s.threads := rfl
@[simp] theorem State.modSlice_cores (s : State) (n : Nat) (f : Slice → Slice) : (s.modSlice n f).cores = s.cores := rfl
@[simp] theorem State.modSlice_fams (s : State) (n : Nat) (f : Slice → Slice) : (s.modSlice n f).fams = s.fams := rfl
@[simp] theorem State.modSlice_launches (s : State) (n : Nat) (f : Slice → Slice) : (s.modSlice n f).launches = s.launches := rfl
@[simp] theorem State.modSlice_reqs (s : State) (n : Nat) (f : Slice → Slice) : (s.modSlice n f).reqs = s.reqs := rfl
@[simp] theorem State.modSlice_replies (s : State) (n : Nat) (f : Slice → Slice) : (s.modSlice n f).replies = s.replies := rfl
@[simp] theorem State.modSlice_notices (s : State) (n : Nat) (f : Slice → Slice) : (s.modSlice n f).notices = s.notices := rfl
@[simp] theorem State.modSlice_defers (s : State) (n : Nat) (f : Slice → Slice) : (s.modSlice n f).defers = s.defers := rfl
@[simp] theorem State.modSlice_delivers (s : State) (n : Nat) (f : Slice → Slice) : (s.modSlice n f).delivers = s.delivers := rfl
@[simp] theorem State.modSlice_wakes (s : State) (n : Nat) (f : Slice → Slice) : (s.modSlice n f).wakes = s.wakes := rfl
@[simp] theorem State.modSlice_linkMsgs (s : State) (n : Nat) (f : Slice → Slice) : (s.modSlice n f).linkMsgs = s.linkMsgs := rfl
@[simp] theorem State.modSlice_pkts (s : State) (n : Nat) (f : Slice → Slice) : (s.modSlice n f).pkts = s.pkts := rfl
@[simp] theorem State.modSlice_walks (s : State) (n : Nat) (f : Slice → Slice) : (s.modSlice n f).walks = s.walks := rfl
@[simp] theorem State.modSlice_faults (s : State) (n : Nat) (f : Slice → Slice) : (s.modSlice n f).faults = s.faults := rfl
@[simp] theorem State.modSlice_elemFaults (s : State) (n : Nat) (f : Slice → Slice) : (s.modSlice n f).elemFaults = s.elemFaults := rfl
@[simp] theorem State.modSlice_clusters (s : State) (n : Nat) (f : Slice → Slice) : (s.modSlice n f).clusters = s.clusters := rfl
@[simp] theorem State.modSlice_dies (s : State) (n : Nat) (f : Slice → Slice) : (s.modSlice n f).dies = s.dies := rfl
@[simp] theorem State.modSlice_slices (s : State) (n : Nat) (f : Slice → Slice) : (s.modSlice n f).slices = tabSet s.slices n (f (s.slice n)) := rfl
@[simp] theorem State.modSlice_atab (s : State) (n : Nat) (f : Slice → Slice) : (s.modSlice n f).atab = s.atab := rfl
@[simp] theorem State.modSlice_objs (s : State) (n : Nat) (f : Slice → Slice) : (s.modSlice n f).objs = s.objs := rfl
@[simp] theorem State.modSlice_edges (s : State) (n : Nat) (f : Slice → Slice) : (s.modSlice n f).edges = s.edges := rfl
@[simp] theorem State.modSlice_engines (s : State) (n : Nat) (f : Slice → Slice) : (s.modSlice n f).engines = s.engines := rfl
@[simp] theorem State.modSlice_bins (s : State) (n : Nat) (f : Slice → Slice) : (s.modSlice n f).bins = s.bins := rfl
@[simp] theorem State.modSlice_groups (s : State) (n : Nat) (f : Slice → Slice) : (s.modSlice n f).groups = s.groups := rfl
@[simp] theorem State.modSlice_partials (s : State) (n : Nat) (f : Slice → Slice) : (s.modSlice n f).partials = s.partials := rfl
@[simp] theorem State.modSlice_missed (s : State) (n : Nat) (f : Slice → Slice) : (s.modSlice n f).missed = s.missed := rfl
@[simp] theorem State.modSlice_pkg (s : State) (n : Nat) (f : Slice → Slice) : (s.modSlice n f).pkg = s.pkg := rfl

/-! ### State.putWord -/

@[simp] theorem State.putWord_cur (s : State) (k : Nat) (v : Word) (t : Tag) : (s.putWord k v t).cur = s.cur := rfl
@[simp] theorem State.putWord_busy (s : State) (k : Nat) (v : Word) (t : Tag) : (s.putWord k v t).busy = s.busy := rfl
@[simp] theorem State.putWord_inTurn (s : State) (k : Nat) (v : Word) (t : Tag) : (s.putWord k v t).inTurn = s.inTurn := rfl
@[simp] theorem State.putWord_second (s : State) (k : Nat) (v : Word) (t : Tag) : (s.putWord k v t).second = s.second := rfl
@[simp] theorem State.putWord_flow (s : State) (k : Nat) (v : Word) (t : Tag) : (s.putWord k v t).flow = s.flow := rfl
@[simp] theorem State.putWord_agenda (s : State) (k : Nat) (v : Word) (t : Tag) : (s.putWord k v t).agenda = s.agenda := rfl
@[simp] theorem State.putWord_choice (s : State) (k : Nat) (v : Word) (t : Tag) : (s.putWord k v t).choice = s.choice := rfl
@[simp] theorem State.putWord_free (s : State) (k : Nat) (v : Word) (t : Tag) : (s.putWord k v t).free = s.free := rfl
@[simp] theorem State.putWord_stamp (s : State) (k : Nat) (v : Word) (t : Tag) : (s.putWord k v t).stamp = s.stamp := rfl
@[simp] theorem State.putWord_mem (s : State) (k : Nat) (v : Word) (t : Tag) : (s.putWord k v t).mem = s.mem.setWord k v t := rfl
@[simp] theorem State.putWord_threads (s : State) (k : Nat) (v : Word) (t : Tag) : (s.putWord k v t).threads = s.threads := rfl
@[simp] theorem State.putWord_cores (s : State) (k : Nat) (v : Word) (t : Tag) : (s.putWord k v t).cores = s.cores := rfl
@[simp] theorem State.putWord_fams (s : State) (k : Nat) (v : Word) (t : Tag) : (s.putWord k v t).fams = s.fams := rfl
@[simp] theorem State.putWord_launches (s : State) (k : Nat) (v : Word) (t : Tag) : (s.putWord k v t).launches = s.launches := rfl
@[simp] theorem State.putWord_reqs (s : State) (k : Nat) (v : Word) (t : Tag) : (s.putWord k v t).reqs = s.reqs := rfl
@[simp] theorem State.putWord_replies (s : State) (k : Nat) (v : Word) (t : Tag) : (s.putWord k v t).replies = s.replies := rfl
@[simp] theorem State.putWord_notices (s : State) (k : Nat) (v : Word) (t : Tag) : (s.putWord k v t).notices = s.notices := rfl
@[simp] theorem State.putWord_defers (s : State) (k : Nat) (v : Word) (t : Tag) : (s.putWord k v t).defers = s.defers := rfl
@[simp] theorem State.putWord_delivers (s : State) (k : Nat) (v : Word) (t : Tag) : (s.putWord k v t).delivers = s.delivers := rfl
@[simp] theorem State.putWord_wakes (s : State) (k : Nat) (v : Word) (t : Tag) : (s.putWord k v t).wakes = s.wakes := rfl
@[simp] theorem State.putWord_linkMsgs (s : State) (k : Nat) (v : Word) (t : Tag) : (s.putWord k v t).linkMsgs = s.linkMsgs := rfl
@[simp] theorem State.putWord_pkts (s : State) (k : Nat) (v : Word) (t : Tag) : (s.putWord k v t).pkts = s.pkts := rfl
@[simp] theorem State.putWord_walks (s : State) (k : Nat) (v : Word) (t : Tag) : (s.putWord k v t).walks = s.walks := rfl
@[simp] theorem State.putWord_faults (s : State) (k : Nat) (v : Word) (t : Tag) : (s.putWord k v t).faults = s.faults := rfl
@[simp] theorem State.putWord_elemFaults (s : State) (k : Nat) (v : Word) (t : Tag) : (s.putWord k v t).elemFaults = s.elemFaults := rfl
@[simp] theorem State.putWord_clusters (s : State) (k : Nat) (v : Word) (t : Tag) : (s.putWord k v t).clusters = s.clusters := rfl
@[simp] theorem State.putWord_dies (s : State) (k : Nat) (v : Word) (t : Tag) : (s.putWord k v t).dies = s.dies := rfl
@[simp] theorem State.putWord_slices (s : State) (k : Nat) (v : Word) (t : Tag) : (s.putWord k v t).slices = s.slices := rfl
@[simp] theorem State.putWord_atab (s : State) (k : Nat) (v : Word) (t : Tag) : (s.putWord k v t).atab = s.atab := rfl
@[simp] theorem State.putWord_objs (s : State) (k : Nat) (v : Word) (t : Tag) : (s.putWord k v t).objs = s.objs := rfl
@[simp] theorem State.putWord_edges (s : State) (k : Nat) (v : Word) (t : Tag) : (s.putWord k v t).edges = s.edges := rfl
@[simp] theorem State.putWord_engines (s : State) (k : Nat) (v : Word) (t : Tag) : (s.putWord k v t).engines = s.engines := rfl
@[simp] theorem State.putWord_bins (s : State) (k : Nat) (v : Word) (t : Tag) : (s.putWord k v t).bins = s.bins := rfl
@[simp] theorem State.putWord_groups (s : State) (k : Nat) (v : Word) (t : Tag) : (s.putWord k v t).groups = s.groups := rfl
@[simp] theorem State.putWord_partials (s : State) (k : Nat) (v : Word) (t : Tag) : (s.putWord k v t).partials = s.partials := rfl
@[simp] theorem State.putWord_missed (s : State) (k : Nat) (v : Word) (t : Tag) : (s.putWord k v t).missed = s.missed := rfl
@[simp] theorem State.putWord_pkg (s : State) (k : Nat) (v : Word) (t : Tag) : (s.putWord k v t).pkg = s.pkg := rfl

/-! ### State.putBytes -/

@[simp] theorem State.putBytes_cur (s : State) (k n v : Nat) : (s.putBytes k n v).cur = s.cur := rfl
@[simp] theorem State.putBytes_busy (s : State) (k n v : Nat) : (s.putBytes k n v).busy = s.busy := rfl
@[simp] theorem State.putBytes_inTurn (s : State) (k n v : Nat) : (s.putBytes k n v).inTurn = s.inTurn := rfl
@[simp] theorem State.putBytes_second (s : State) (k n v : Nat) : (s.putBytes k n v).second = s.second := rfl
@[simp] theorem State.putBytes_flow (s : State) (k n v : Nat) : (s.putBytes k n v).flow = s.flow := rfl
@[simp] theorem State.putBytes_agenda (s : State) (k n v : Nat) : (s.putBytes k n v).agenda = s.agenda := rfl
@[simp] theorem State.putBytes_choice (s : State) (k n v : Nat) : (s.putBytes k n v).choice = s.choice := rfl
@[simp] theorem State.putBytes_free (s : State) (k n v : Nat) : (s.putBytes k n v).free = s.free := rfl
@[simp] theorem State.putBytes_stamp (s : State) (k n v : Nat) : (s.putBytes k n v).stamp = s.stamp := rfl
@[simp] theorem State.putBytes_mem (s : State) (k n v : Nat) : (s.putBytes k n v).mem = s.mem.storeN k n v := rfl
@[simp] theorem State.putBytes_threads (s : State) (k n v : Nat) : (s.putBytes k n v).threads = s.threads := rfl
@[simp] theorem State.putBytes_cores (s : State) (k n v : Nat) : (s.putBytes k n v).cores = s.cores := rfl
@[simp] theorem State.putBytes_fams (s : State) (k n v : Nat) : (s.putBytes k n v).fams = s.fams := rfl
@[simp] theorem State.putBytes_launches (s : State) (k n v : Nat) : (s.putBytes k n v).launches = s.launches := rfl
@[simp] theorem State.putBytes_reqs (s : State) (k n v : Nat) : (s.putBytes k n v).reqs = s.reqs := rfl
@[simp] theorem State.putBytes_replies (s : State) (k n v : Nat) : (s.putBytes k n v).replies = s.replies := rfl
@[simp] theorem State.putBytes_notices (s : State) (k n v : Nat) : (s.putBytes k n v).notices = s.notices := rfl
@[simp] theorem State.putBytes_defers (s : State) (k n v : Nat) : (s.putBytes k n v).defers = s.defers := rfl
@[simp] theorem State.putBytes_delivers (s : State) (k n v : Nat) : (s.putBytes k n v).delivers = s.delivers := rfl
@[simp] theorem State.putBytes_wakes (s : State) (k n v : Nat) : (s.putBytes k n v).wakes = s.wakes := rfl
@[simp] theorem State.putBytes_linkMsgs (s : State) (k n v : Nat) : (s.putBytes k n v).linkMsgs = s.linkMsgs := rfl
@[simp] theorem State.putBytes_pkts (s : State) (k n v : Nat) : (s.putBytes k n v).pkts = s.pkts := rfl
@[simp] theorem State.putBytes_walks (s : State) (k n v : Nat) : (s.putBytes k n v).walks = s.walks := rfl
@[simp] theorem State.putBytes_faults (s : State) (k n v : Nat) : (s.putBytes k n v).faults = s.faults := rfl
@[simp] theorem State.putBytes_elemFaults (s : State) (k n v : Nat) : (s.putBytes k n v).elemFaults = s.elemFaults := rfl
@[simp] theorem State.putBytes_clusters (s : State) (k n v : Nat) : (s.putBytes k n v).clusters = s.clusters := rfl
@[simp] theorem State.putBytes_dies (s : State) (k n v : Nat) : (s.putBytes k n v).dies = s.dies := rfl
@[simp] theorem State.putBytes_slices (s : State) (k n v : Nat) : (s.putBytes k n v).slices = s.slices := rfl
@[simp] theorem State.putBytes_atab (s : State) (k n v : Nat) : (s.putBytes k n v).atab = s.atab := rfl
@[simp] theorem State.putBytes_objs (s : State) (k n v : Nat) : (s.putBytes k n v).objs = s.objs := rfl
@[simp] theorem State.putBytes_edges (s : State) (k n v : Nat) : (s.putBytes k n v).edges = s.edges := rfl
@[simp] theorem State.putBytes_engines (s : State) (k n v : Nat) : (s.putBytes k n v).engines = s.engines := rfl
@[simp] theorem State.putBytes_bins (s : State) (k n v : Nat) : (s.putBytes k n v).bins = s.bins := rfl
@[simp] theorem State.putBytes_groups (s : State) (k n v : Nat) : (s.putBytes k n v).groups = s.groups := rfl
@[simp] theorem State.putBytes_partials (s : State) (k n v : Nat) : (s.putBytes k n v).partials = s.partials := rfl
@[simp] theorem State.putBytes_missed (s : State) (k n v : Nat) : (s.putBytes k n v).missed = s.missed := rfl
@[simp] theorem State.putBytes_pkg (s : State) (k n v : Nat) : (s.putBytes k n v).pkg = s.pkg := rfl

/-! ### State.answer -/

@[simp] theorem State.answer_cur (s : State) (tid elem : Nat) (r : Result) (va : Word) (home : Nat) : (s.answer tid elem r va home).cur = s.cur := rfl
@[simp] theorem State.answer_busy (s : State) (tid elem : Nat) (r : Result) (va : Word) (home : Nat) : (s.answer tid elem r va home).busy = s.busy := rfl
@[simp] theorem State.answer_inTurn (s : State) (tid elem : Nat) (r : Result) (va : Word) (home : Nat) : (s.answer tid elem r va home).inTurn = s.inTurn := rfl
@[simp] theorem State.answer_second (s : State) (tid elem : Nat) (r : Result) (va : Word) (home : Nat) : (s.answer tid elem r va home).second = s.second := rfl
@[simp] theorem State.answer_flow (s : State) (tid elem : Nat) (r : Result) (va : Word) (home : Nat) : (s.answer tid elem r va home).flow = s.flow := rfl
@[simp] theorem State.answer_agenda (s : State) (tid elem : Nat) (r : Result) (va : Word) (home : Nat) : (s.answer tid elem r va home).agenda = s.agenda := rfl
@[simp] theorem State.answer_choice (s : State) (tid elem : Nat) (r : Result) (va : Word) (home : Nat) : (s.answer tid elem r va home).choice = s.choice := rfl
@[simp] theorem State.answer_free (s : State) (tid elem : Nat) (r : Result) (va : Word) (home : Nat) : (s.answer tid elem r va home).free = s.free := rfl
@[simp] theorem State.answer_stamp (s : State) (tid elem : Nat) (r : Result) (va : Word) (home : Nat) : (s.answer tid elem r va home).stamp = s.stamp + 1 := rfl
@[simp] theorem State.answer_mem (s : State) (tid elem : Nat) (r : Result) (va : Word) (home : Nat) : (s.answer tid elem r va home).mem = s.mem := rfl
@[simp] theorem State.answer_threads (s : State) (tid elem : Nat) (r : Result) (va : Word) (home : Nat) : (s.answer tid elem r va home).threads = s.threads := rfl
@[simp] theorem State.answer_cores (s : State) (tid elem : Nat) (r : Result) (va : Word) (home : Nat) : (s.answer tid elem r va home).cores = s.cores := rfl
@[simp] theorem State.answer_fams (s : State) (tid elem : Nat) (r : Result) (va : Word) (home : Nat) : (s.answer tid elem r va home).fams = s.fams := rfl
@[simp] theorem State.answer_launches (s : State) (tid elem : Nat) (r : Result) (va : Word) (home : Nat) : (s.answer tid elem r va home).launches = s.launches := rfl
@[simp] theorem State.answer_reqs (s : State) (tid elem : Nat) (r : Result) (va : Word) (home : Nat) : (s.answer tid elem r va home).reqs = s.reqs := rfl
@[simp] theorem State.answer_replies (s : State) (tid elem : Nat) (r : Result) (va : Word) (home : Nat) : (s.answer tid elem r va home).replies = s.replies ++ [⟨tid, elem, r, va, home, s.stamp⟩] := rfl
@[simp] theorem State.answer_notices (s : State) (tid elem : Nat) (r : Result) (va : Word) (home : Nat) : (s.answer tid elem r va home).notices = s.notices := rfl
@[simp] theorem State.answer_defers (s : State) (tid elem : Nat) (r : Result) (va : Word) (home : Nat) : (s.answer tid elem r va home).defers = s.defers := rfl
@[simp] theorem State.answer_delivers (s : State) (tid elem : Nat) (r : Result) (va : Word) (home : Nat) : (s.answer tid elem r va home).delivers = s.delivers := rfl
@[simp] theorem State.answer_wakes (s : State) (tid elem : Nat) (r : Result) (va : Word) (home : Nat) : (s.answer tid elem r va home).wakes = s.wakes := rfl
@[simp] theorem State.answer_linkMsgs (s : State) (tid elem : Nat) (r : Result) (va : Word) (home : Nat) : (s.answer tid elem r va home).linkMsgs = s.linkMsgs := rfl
@[simp] theorem State.answer_pkts (s : State) (tid elem : Nat) (r : Result) (va : Word) (home : Nat) : (s.answer tid elem r va home).pkts = s.pkts := rfl
@[simp] theorem State.answer_walks (s : State) (tid elem : Nat) (r : Result) (va : Word) (home : Nat) : (s.answer tid elem r va home).walks = s.walks := rfl
@[simp] theorem State.answer_faults (s : State) (tid elem : Nat) (r : Result) (va : Word) (home : Nat) : (s.answer tid elem r va home).faults = s.faults := rfl
@[simp] theorem State.answer_elemFaults (s : State) (tid elem : Nat) (r : Result) (va : Word) (home : Nat) : (s.answer tid elem r va home).elemFaults = s.elemFaults := rfl
@[simp] theorem State.answer_clusters (s : State) (tid elem : Nat) (r : Result) (va : Word) (home : Nat) : (s.answer tid elem r va home).clusters = s.clusters := rfl
@[simp] theorem State.answer_dies (s : State) (tid elem : Nat) (r : Result) (va : Word) (home : Nat) : (s.answer tid elem r va home).dies = s.dies := rfl
@[simp] theorem State.answer_slices (s : State) (tid elem : Nat) (r : Result) (va : Word) (home : Nat) : (s.answer tid elem r va home).slices = s.slices := rfl
@[simp] theorem State.answer_atab (s : State) (tid elem : Nat) (r : Result) (va : Word) (home : Nat) : (s.answer tid elem r va home).atab = s.atab := rfl
@[simp] theorem State.answer_objs (s : State) (tid elem : Nat) (r : Result) (va : Word) (home : Nat) : (s.answer tid elem r va home).objs = s.objs := rfl
@[simp] theorem State.answer_edges (s : State) (tid elem : Nat) (r : Result) (va : Word) (home : Nat) : (s.answer tid elem r va home).edges = s.edges := rfl
@[simp] theorem State.answer_engines (s : State) (tid elem : Nat) (r : Result) (va : Word) (home : Nat) : (s.answer tid elem r va home).engines = s.engines := rfl
@[simp] theorem State.answer_bins (s : State) (tid elem : Nat) (r : Result) (va : Word) (home : Nat) : (s.answer tid elem r va home).bins = s.bins := rfl
@[simp] theorem State.answer_groups (s : State) (tid elem : Nat) (r : Result) (va : Word) (home : Nat) : (s.answer tid elem r va home).groups = s.groups := rfl
@[simp] theorem State.answer_partials (s : State) (tid elem : Nat) (r : Result) (va : Word) (home : Nat) : (s.answer tid elem r va home).partials = s.partials := rfl
@[simp] theorem State.answer_missed (s : State) (tid elem : Nat) (r : Result) (va : Word) (home : Nat) : (s.answer tid elem r va home).missed = s.missed := rfl
@[simp] theorem State.answer_pkg (s : State) (tid elem : Nat) (r : Result) (va : Word) (home : Nat) : (s.answer tid elem r va home).pkg = s.pkg := rfl

/-! ### State.setObj -/

@[simp] theorem State.setObj_cur (s : State) (key : Nat) (o : Obj) : (s.setObj key o).cur = s.cur := rfl
@[simp] theorem State.setObj_busy (s : State) (key : Nat) (o : Obj) : (s.setObj key o).busy = s.busy := rfl
@[simp] theorem State.setObj_inTurn (s : State) (key : Nat) (o : Obj) : (s.setObj key o).inTurn = s.inTurn := rfl
@[simp] theorem State.setObj_second (s : State) (key : Nat) (o : Obj) : (s.setObj key o).second = s.second := rfl
@[simp] theorem State.setObj_flow (s : State) (key : Nat) (o : Obj) : (s.setObj key o).flow = s.flow := rfl
@[simp] theorem State.setObj_agenda (s : State) (key : Nat) (o : Obj) : (s.setObj key o).agenda = s.agenda := rfl
@[simp] theorem State.setObj_choice (s : State) (key : Nat) (o : Obj) : (s.setObj key o).choice = s.choice := rfl
@[simp] theorem State.setObj_free (s : State) (key : Nat) (o : Obj) : (s.setObj key o).free = s.free := rfl
@[simp] theorem State.setObj_stamp (s : State) (key : Nat) (o : Obj) : (s.setObj key o).stamp = s.stamp := rfl
@[simp] theorem State.setObj_mem (s : State) (key : Nat) (o : Obj) : (s.setObj key o).mem = s.mem := rfl
@[simp] theorem State.setObj_threads (s : State) (key : Nat) (o : Obj) : (s.setObj key o).threads = s.threads := rfl
@[simp] theorem State.setObj_cores (s : State) (key : Nat) (o : Obj) : (s.setObj key o).cores = s.cores := rfl
@[simp] theorem State.setObj_fams (s : State) (key : Nat) (o : Obj) : (s.setObj key o).fams = s.fams := rfl
@[simp] theorem State.setObj_launches (s : State) (key : Nat) (o : Obj) : (s.setObj key o).launches = s.launches := rfl
@[simp] theorem State.setObj_reqs (s : State) (key : Nat) (o : Obj) : (s.setObj key o).reqs = s.reqs := rfl
@[simp] theorem State.setObj_replies (s : State) (key : Nat) (o : Obj) : (s.setObj key o).replies = s.replies := rfl
@[simp] theorem State.setObj_notices (s : State) (key : Nat) (o : Obj) : (s.setObj key o).notices = s.notices := rfl
@[simp] theorem State.setObj_defers (s : State) (key : Nat) (o : Obj) : (s.setObj key o).defers = s.defers := rfl
@[simp] theorem State.setObj_delivers (s : State) (key : Nat) (o : Obj) : (s.setObj key o).delivers = s.delivers := rfl
@[simp] theorem State.setObj_wakes (s : State) (key : Nat) (o : Obj) : (s.setObj key o).wakes = s.wakes := rfl
@[simp] theorem State.setObj_linkMsgs (s : State) (key : Nat) (o : Obj) : (s.setObj key o).linkMsgs = s.linkMsgs := rfl
@[simp] theorem State.setObj_pkts (s : State) (key : Nat) (o : Obj) : (s.setObj key o).pkts = s.pkts := rfl
@[simp] theorem State.setObj_walks (s : State) (key : Nat) (o : Obj) : (s.setObj key o).walks = s.walks := rfl
@[simp] theorem State.setObj_faults (s : State) (key : Nat) (o : Obj) : (s.setObj key o).faults = s.faults := rfl
@[simp] theorem State.setObj_elemFaults (s : State) (key : Nat) (o : Obj) : (s.setObj key o).elemFaults = s.elemFaults := rfl
@[simp] theorem State.setObj_clusters (s : State) (key : Nat) (o : Obj) : (s.setObj key o).clusters = s.clusters := rfl
@[simp] theorem State.setObj_dies (s : State) (key : Nat) (o : Obj) : (s.setObj key o).dies = s.dies := rfl
@[simp] theorem State.setObj_slices (s : State) (key : Nat) (o : Obj) : (s.setObj key o).slices = s.slices := rfl
@[simp] theorem State.setObj_atab (s : State) (key : Nat) (o : Obj) : (s.setObj key o).atab = s.atab := rfl
@[simp] theorem State.setObj_objs (s : State) (key : Nat) (o : Obj) : (s.setObj key o).objs = if o = Obj.fresh then tabErase s.objs key else tabSet s.objs key o := rfl
@[simp] theorem State.setObj_edges (s : State) (key : Nat) (o : Obj) : (s.setObj key o).edges = s.edges := rfl
@[simp] theorem State.setObj_engines (s : State) (key : Nat) (o : Obj) : (s.setObj key o).engines = s.engines := rfl
@[simp] theorem State.setObj_bins (s : State) (key : Nat) (o : Obj) : (s.setObj key o).bins = s.bins := rfl
@[simp] theorem State.setObj_groups (s : State) (key : Nat) (o : Obj) : (s.setObj key o).groups = s.groups := rfl
@[simp] theorem State.setObj_partials (s : State) (key : Nat) (o : Obj) : (s.setObj key o).partials = s.partials := rfl
@[simp] theorem State.setObj_missed (s : State) (key : Nat) (o : Obj) : (s.setObj key o).missed = s.missed := rfl
@[simp] theorem State.setObj_pkg (s : State) (key : Nat) (o : Obj) : (s.setObj key o).pkg = s.pkg := rfl

/-! ### State.modPkg -/

@[simp] theorem State.modPkg_cur (s : State) (f : Pkg → Pkg) : (s.modPkg f).cur = s.cur := rfl
@[simp] theorem State.modPkg_busy (s : State) (f : Pkg → Pkg) : (s.modPkg f).busy = s.busy := rfl
@[simp] theorem State.modPkg_inTurn (s : State) (f : Pkg → Pkg) : (s.modPkg f).inTurn = s.inTurn := rfl
@[simp] theorem State.modPkg_second (s : State) (f : Pkg → Pkg) : (s.modPkg f).second = s.second := rfl
@[simp] theorem State.modPkg_flow (s : State) (f : Pkg → Pkg) : (s.modPkg f).flow = s.flow := rfl
@[simp] theorem State.modPkg_agenda (s : State) (f : Pkg → Pkg) : (s.modPkg f).agenda = s.agenda := rfl
@[simp] theorem State.modPkg_choice (s : State) (f : Pkg → Pkg) : (s.modPkg f).choice = s.choice := rfl
@[simp] theorem State.modPkg_free (s : State) (f : Pkg → Pkg) : (s.modPkg f).free = s.free := rfl
@[simp] theorem State.modPkg_stamp (s : State) (f : Pkg → Pkg) : (s.modPkg f).stamp = s.stamp := rfl
@[simp] theorem State.modPkg_mem (s : State) (f : Pkg → Pkg) : (s.modPkg f).mem = s.mem := rfl
@[simp] theorem State.modPkg_threads (s : State) (f : Pkg → Pkg) : (s.modPkg f).threads = s.threads := rfl
@[simp] theorem State.modPkg_cores (s : State) (f : Pkg → Pkg) : (s.modPkg f).cores = s.cores := rfl
@[simp] theorem State.modPkg_fams (s : State) (f : Pkg → Pkg) : (s.modPkg f).fams = s.fams := rfl
@[simp] theorem State.modPkg_launches (s : State) (f : Pkg → Pkg) : (s.modPkg f).launches = s.launches := rfl
@[simp] theorem State.modPkg_reqs (s : State) (f : Pkg → Pkg) : (s.modPkg f).reqs = s.reqs := rfl
@[simp] theorem State.modPkg_replies (s : State) (f : Pkg → Pkg) : (s.modPkg f).replies = s.replies := rfl
@[simp] theorem State.modPkg_notices (s : State) (f : Pkg → Pkg) : (s.modPkg f).notices = s.notices := rfl
@[simp] theorem State.modPkg_defers (s : State) (f : Pkg → Pkg) : (s.modPkg f).defers = s.defers := rfl
@[simp] theorem State.modPkg_delivers (s : State) (f : Pkg → Pkg) : (s.modPkg f).delivers = s.delivers := rfl
@[simp] theorem State.modPkg_wakes (s : State) (f : Pkg → Pkg) : (s.modPkg f).wakes = s.wakes := rfl
@[simp] theorem State.modPkg_linkMsgs (s : State) (f : Pkg → Pkg) : (s.modPkg f).linkMsgs = s.linkMsgs := rfl
@[simp] theorem State.modPkg_pkts (s : State) (f : Pkg → Pkg) : (s.modPkg f).pkts = s.pkts := rfl
@[simp] theorem State.modPkg_walks (s : State) (f : Pkg → Pkg) : (s.modPkg f).walks = s.walks := rfl
@[simp] theorem State.modPkg_faults (s : State) (f : Pkg → Pkg) : (s.modPkg f).faults = s.faults := rfl
@[simp] theorem State.modPkg_elemFaults (s : State) (f : Pkg → Pkg) : (s.modPkg f).elemFaults = s.elemFaults := rfl
@[simp] theorem State.modPkg_clusters (s : State) (f : Pkg → Pkg) : (s.modPkg f).clusters = s.clusters := rfl
@[simp] theorem State.modPkg_dies (s : State) (f : Pkg → Pkg) : (s.modPkg f).dies = s.dies := rfl
@[simp] theorem State.modPkg_slices (s : State) (f : Pkg → Pkg) : (s.modPkg f).slices = s.slices := rfl
@[simp] theorem State.modPkg_atab (s : State) (f : Pkg → Pkg) : (s.modPkg f).atab = s.atab := rfl
@[simp] theorem State.modPkg_objs (s : State) (f : Pkg → Pkg) : (s.modPkg f).objs = s.objs := rfl
@[simp] theorem State.modPkg_edges (s : State) (f : Pkg → Pkg) : (s.modPkg f).edges = s.edges := rfl
@[simp] theorem State.modPkg_engines (s : State) (f : Pkg → Pkg) : (s.modPkg f).engines = s.engines := rfl
@[simp] theorem State.modPkg_bins (s : State) (f : Pkg → Pkg) : (s.modPkg f).bins = s.bins := rfl
@[simp] theorem State.modPkg_groups (s : State) (f : Pkg → Pkg) : (s.modPkg f).groups = s.groups := rfl
@[simp] theorem State.modPkg_partials (s : State) (f : Pkg → Pkg) : (s.modPkg f).partials = s.partials := rfl
@[simp] theorem State.modPkg_missed (s : State) (f : Pkg → Pkg) : (s.modPkg f).missed = s.missed := rfl
@[simp] theorem State.modPkg_pkg (s : State) (f : Pkg → Pkg) : (s.modPkg f).pkg = f s.pkg := rfl

/-! ### State.modFam -/

@[simp] theorem State.modFam_cur (s : State) (k : Nat) (g : Fam → Fam) : (s.modFam k g).cur = s.cur := by
  unfold State.modFam; split <;> rfl
@[simp] theorem State.modFam_busy (s : State) (k : Nat) (g : Fam → Fam) : (s.modFam k g).busy = s.busy := by
  unfold State.modFam; split <;> rfl
@[simp] theorem State.modFam_inTurn (s : State) (k : Nat) (g : Fam → Fam) : (s.modFam k g).inTurn = s.inTurn := by
  unfold State.modFam; split <;> rfl
@[simp] theorem State.modFam_second (s : State) (k : Nat) (g : Fam → Fam) : (s.modFam k g).second = s.second := by
  unfold State.modFam; split <;> rfl
@[simp] theorem State.modFam_flow (s : State) (k : Nat) (g : Fam → Fam) : (s.modFam k g).flow = s.flow := by
  unfold State.modFam; split <;> rfl
@[simp] theorem State.modFam_agenda (s : State) (k : Nat) (g : Fam → Fam) : (s.modFam k g).agenda = s.agenda := by
  unfold State.modFam; split <;> rfl
@[simp] theorem State.modFam_choice (s : State) (k : Nat) (g : Fam → Fam) : (s.modFam k g).choice = s.choice := by
  unfold State.modFam; split <;> rfl
@[simp] theorem State.modFam_free (s : State) (k : Nat) (g : Fam → Fam) : (s.modFam k g).free = s.free := by
  unfold State.modFam; split <;> rfl
@[simp] theorem State.modFam_stamp (s : State) (k : Nat) (g : Fam → Fam) : (s.modFam k g).stamp = s.stamp := by
  unfold State.modFam; split <;> rfl
@[simp] theorem State.modFam_mem (s : State) (k : Nat) (g : Fam → Fam) : (s.modFam k g).mem = s.mem := by
  unfold State.modFam; split <;> rfl
@[simp] theorem State.modFam_threads (s : State) (k : Nat) (g : Fam → Fam) : (s.modFam k g).threads = s.threads := by
  unfold State.modFam; split <;> rfl
@[simp] theorem State.modFam_cores (s : State) (k : Nat) (g : Fam → Fam) : (s.modFam k g).cores = s.cores := by
  unfold State.modFam; split <;> rfl
@[simp] theorem State.modFam_launches (s : State) (k : Nat) (g : Fam → Fam) : (s.modFam k g).launches = s.launches := by
  unfold State.modFam; split <;> rfl
@[simp] theorem State.modFam_reqs (s : State) (k : Nat) (g : Fam → Fam) : (s.modFam k g).reqs = s.reqs := by
  unfold State.modFam; split <;> rfl
@[simp] theorem State.modFam_replies (s : State) (k : Nat) (g : Fam → Fam) : (s.modFam k g).replies = s.replies := by
  unfold State.modFam; split <;> rfl
@[simp] theorem State.modFam_notices (s : State) (k : Nat) (g : Fam → Fam) : (s.modFam k g).notices = s.notices := by
  unfold State.modFam; split <;> rfl
@[simp] theorem State.modFam_defers (s : State) (k : Nat) (g : Fam → Fam) : (s.modFam k g).defers = s.defers := by
  unfold State.modFam; split <;> rfl
@[simp] theorem State.modFam_delivers (s : State) (k : Nat) (g : Fam → Fam) : (s.modFam k g).delivers = s.delivers := by
  unfold State.modFam; split <;> rfl
@[simp] theorem State.modFam_wakes (s : State) (k : Nat) (g : Fam → Fam) : (s.modFam k g).wakes = s.wakes := by
  unfold State.modFam; split <;> rfl
@[simp] theorem State.modFam_linkMsgs (s : State) (k : Nat) (g : Fam → Fam) : (s.modFam k g).linkMsgs = s.linkMsgs := by
  unfold State.modFam; split <;> rfl
@[simp] theorem State.modFam_pkts (s : State) (k : Nat) (g : Fam → Fam) : (s.modFam k g).pkts = s.pkts := by
  unfold State.modFam; split <;> rfl
@[simp] theorem State.modFam_walks (s : State) (k : Nat) (g : Fam → Fam) : (s.modFam k g).walks = s.walks := by
  unfold State.modFam; split <;> rfl
@[simp] theorem State.modFam_faults (s : State) (k : Nat) (g : Fam → Fam) : (s.modFam k g).faults = s.faults := by
  unfold State.modFam; split <;> rfl
@[simp] theorem State.modFam_elemFaults (s : State) (k : Nat) (g : Fam → Fam) : (s.modFam k g).elemFaults = s.elemFaults := by
  unfold State.modFam; split <;> rfl
@[simp] theorem State.modFam_clusters (s : State) (k : Nat) (g : Fam → Fam) : (s.modFam k g).clusters = s.clusters := by
  unfold State.modFam; split <;> rfl
@[simp] theorem State.modFam_dies (s : State) (k : Nat) (g : Fam → Fam) : (s.modFam k g).dies = s.dies := by
  unfold State.modFam; split <;> rfl
@[simp] theorem State.modFam_slices (s : State) (k : Nat) (g : Fam → Fam) : (s.modFam k g).slices = s.slices := by
  unfold State.modFam; split <;> rfl
@[simp] theorem State.modFam_atab (s : State) (k : Nat) (g : Fam → Fam) : (s.modFam k g).atab = s.atab := by
  unfold State.modFam; split <;> rfl
@[simp] theorem State.modFam_objs (s : State) (k : Nat) (g : Fam → Fam) : (s.modFam k g).objs = s.objs := by
  unfold State.modFam; split <;> rfl
@[simp] theorem State.modFam_edges (s : State) (k : Nat) (g : Fam → Fam) : (s.modFam k g).edges = s.edges := by
  unfold State.modFam; split <;> rfl
@[simp] theorem State.modFam_engines (s : State) (k : Nat) (g : Fam → Fam) : (s.modFam k g).engines = s.engines := by
  unfold State.modFam; split <;> rfl
@[simp] theorem State.modFam_bins (s : State) (k : Nat) (g : Fam → Fam) : (s.modFam k g).bins = s.bins := by
  unfold State.modFam; split <;> rfl
@[simp] theorem State.modFam_groups (s : State) (k : Nat) (g : Fam → Fam) : (s.modFam k g).groups = s.groups := by
  unfold State.modFam; split <;> rfl
@[simp] theorem State.modFam_partials (s : State) (k : Nat) (g : Fam → Fam) : (s.modFam k g).partials = s.partials := by
  unfold State.modFam; split <;> rfl
@[simp] theorem State.modFam_missed (s : State) (k : Nat) (g : Fam → Fam) : (s.modFam k g).missed = s.missed := by
  unfold State.modFam; split <;> rfl
@[simp] theorem State.modFam_pkg (s : State) (k : Nat) (g : Fam → Fam) : (s.modFam k g).pkg = s.pkg := by
  unfold State.modFam; split <;> rfl

/-! ### State.modLaunch -/

@[simp] theorem State.modLaunch_cur (s : State) (k : Nat) (g : Launch → Launch) : (s.modLaunch k g).cur = s.cur := by
  unfold State.modLaunch; split <;> rfl
@[simp] theorem State.modLaunch_busy (s : State) (k : Nat) (g : Launch → Launch) : (s.modLaunch k g).busy = s.busy := by
  unfold State.modLaunch; split <;> rfl
@[simp] theorem State.modLaunch_inTurn (s : State) (k : Nat) (g : Launch → Launch) : (s.modLaunch k g).inTurn = s.inTurn := by
  unfold State.modLaunch; split <;> rfl
@[simp] theorem State.modLaunch_second (s : State) (k : Nat) (g : Launch → Launch) : (s.modLaunch k g).second = s.second := by
  unfold State.modLaunch; split <;> rfl
@[simp] theorem State.modLaunch_flow (s : State) (k : Nat) (g : Launch → Launch) : (s.modLaunch k g).flow = s.flow := by
  unfold State.modLaunch; split <;> rfl
@[simp] theorem State.modLaunch_agenda (s : State) (k : Nat) (g : Launch → Launch) : (s.modLaunch k g).agenda = s.agenda := by
  unfold State.modLaunch; split <;> rfl
@[simp] theorem State.modLaunch_choice (s : State) (k : Nat) (g : Launch → Launch) : (s.modLaunch k g).choice = s.choice := by
  unfold State.modLaunch; split <;> rfl
@[simp] theorem State.modLaunch_free (s : State) (k : Nat) (g : Launch → Launch) : (s.modLaunch k g).free = s.free := by
  unfold State.modLaunch; split <;> rfl
@[simp] theorem State.modLaunch_stamp (s : State) (k : Nat) (g : Launch → Launch) : (s.modLaunch k g).stamp = s.stamp := by
  unfold State.modLaunch; split <;> rfl
@[simp] theorem State.modLaunch_mem (s : State) (k : Nat) (g : Launch → Launch) : (s.modLaunch k g).mem = s.mem := by
  unfold State.modLaunch; split <;> rfl
@[simp] theorem State.modLaunch_threads (s : State) (k : Nat) (g : Launch → Launch) : (s.modLaunch k g).threads = s.threads := by
  unfold State.modLaunch; split <;> rfl
@[simp] theorem State.modLaunch_cores (s : State) (k : Nat) (g : Launch → Launch) : (s.modLaunch k g).cores = s.cores := by
  unfold State.modLaunch; split <;> rfl
@[simp] theorem State.modLaunch_fams (s : State) (k : Nat) (g : Launch → Launch) : (s.modLaunch k g).fams = s.fams := by
  unfold State.modLaunch; split <;> rfl
@[simp] theorem State.modLaunch_reqs (s : State) (k : Nat) (g : Launch → Launch) : (s.modLaunch k g).reqs = s.reqs := by
  unfold State.modLaunch; split <;> rfl
@[simp] theorem State.modLaunch_replies (s : State) (k : Nat) (g : Launch → Launch) : (s.modLaunch k g).replies = s.replies := by
  unfold State.modLaunch; split <;> rfl
@[simp] theorem State.modLaunch_notices (s : State) (k : Nat) (g : Launch → Launch) : (s.modLaunch k g).notices = s.notices := by
  unfold State.modLaunch; split <;> rfl
@[simp] theorem State.modLaunch_defers (s : State) (k : Nat) (g : Launch → Launch) : (s.modLaunch k g).defers = s.defers := by
  unfold State.modLaunch; split <;> rfl
@[simp] theorem State.modLaunch_delivers (s : State) (k : Nat) (g : Launch → Launch) : (s.modLaunch k g).delivers = s.delivers := by
  unfold State.modLaunch; split <;> rfl
@[simp] theorem State.modLaunch_wakes (s : State) (k : Nat) (g : Launch → Launch) : (s.modLaunch k g).wakes = s.wakes := by
  unfold State.modLaunch; split <;> rfl
@[simp] theorem State.modLaunch_linkMsgs (s : State) (k : Nat) (g : Launch → Launch) : (s.modLaunch k g).linkMsgs = s.linkMsgs := by
  unfold State.modLaunch; split <;> rfl
@[simp] theorem State.modLaunch_pkts (s : State) (k : Nat) (g : Launch → Launch) : (s.modLaunch k g).pkts = s.pkts := by
  unfold State.modLaunch; split <;> rfl
@[simp] theorem State.modLaunch_walks (s : State) (k : Nat) (g : Launch → Launch) : (s.modLaunch k g).walks = s.walks := by
  unfold State.modLaunch; split <;> rfl
@[simp] theorem State.modLaunch_faults (s : State) (k : Nat) (g : Launch → Launch) : (s.modLaunch k g).faults = s.faults := by
  unfold State.modLaunch; split <;> rfl
@[simp] theorem State.modLaunch_elemFaults (s : State) (k : Nat) (g : Launch → Launch) : (s.modLaunch k g).elemFaults = s.elemFaults := by
  unfold State.modLaunch; split <;> rfl
@[simp] theorem State.modLaunch_clusters (s : State) (k : Nat) (g : Launch → Launch) : (s.modLaunch k g).clusters = s.clusters := by
  unfold State.modLaunch; split <;> rfl
@[simp] theorem State.modLaunch_dies (s : State) (k : Nat) (g : Launch → Launch) : (s.modLaunch k g).dies = s.dies := by
  unfold State.modLaunch; split <;> rfl
@[simp] theorem State.modLaunch_slices (s : State) (k : Nat) (g : Launch → Launch) : (s.modLaunch k g).slices = s.slices := by
  unfold State.modLaunch; split <;> rfl
@[simp] theorem State.modLaunch_atab (s : State) (k : Nat) (g : Launch → Launch) : (s.modLaunch k g).atab = s.atab := by
  unfold State.modLaunch; split <;> rfl
@[simp] theorem State.modLaunch_objs (s : State) (k : Nat) (g : Launch → Launch) : (s.modLaunch k g).objs = s.objs := by
  unfold State.modLaunch; split <;> rfl
@[simp] theorem State.modLaunch_edges (s : State) (k : Nat) (g : Launch → Launch) : (s.modLaunch k g).edges = s.edges := by
  unfold State.modLaunch; split <;> rfl
@[simp] theorem State.modLaunch_engines (s : State) (k : Nat) (g : Launch → Launch) : (s.modLaunch k g).engines = s.engines := by
  unfold State.modLaunch; split <;> rfl
@[simp] theorem State.modLaunch_bins (s : State) (k : Nat) (g : Launch → Launch) : (s.modLaunch k g).bins = s.bins := by
  unfold State.modLaunch; split <;> rfl
@[simp] theorem State.modLaunch_groups (s : State) (k : Nat) (g : Launch → Launch) : (s.modLaunch k g).groups = s.groups := by
  unfold State.modLaunch; split <;> rfl
@[simp] theorem State.modLaunch_partials (s : State) (k : Nat) (g : Launch → Launch) : (s.modLaunch k g).partials = s.partials := by
  unfold State.modLaunch; split <;> rfl
@[simp] theorem State.modLaunch_missed (s : State) (k : Nat) (g : Launch → Launch) : (s.modLaunch k g).missed = s.missed := by
  unfold State.modLaunch; split <;> rfl
@[simp] theorem State.modLaunch_pkg (s : State) (k : Nat) (g : Launch → Launch) : (s.modLaunch k g).pkg = s.pkg := by
  unfold State.modLaunch; split <;> rfl

/-! ### State.putThread and State.modThread: the issuing thread or the table changes -/

@[simp] theorem State.putThread_busy (s : State) (t : Thread) : (s.putThread t).busy = s.busy := by
  unfold State.putThread; split <;> rfl
@[simp] theorem State.putThread_inTurn (s : State) (t : Thread) : (s.putThread t).inTurn = s.inTurn := by
  unfold State.putThread; split <;> rfl
@[simp] theorem State.putThread_second (s : State) (t : Thread) : (s.putThread t).second = s.second := by
  unfold State.putThread; split <;> rfl
@[simp] theorem State.putThread_flow (s : State) (t : Thread) : (s.putThread t).flow = s.flow := by
  unfold State.putThread; split <;> rfl
@[simp] theorem State.putThread_agenda (s : State) (t : Thread) : (s.putThread t).agenda = s.agenda := by
  unfold State.putThread; split <;> rfl
@[simp] theorem State.putThread_choice (s : State) (t : Thread) : (s.putThread t).choice = s.choice := by
  unfold State.putThread; split <;> rfl
@[simp] theorem State.putThread_free (s : State) (t : Thread) : (s.putThread t).free = s.free := by
  unfold State.putThread; split <;> rfl
@[simp] theorem State.putThread_stamp (s : State) (t : Thread) : (s.putThread t).stamp = s.stamp := by
  unfold State.putThread; split <;> rfl
@[simp] theorem State.putThread_mem (s : State) (t : Thread) : (s.putThread t).mem = s.mem := by
  unfold State.putThread; split <;> rfl
@[simp] theorem State.putThread_cores (s : State) (t : Thread) : (s.putThread t).cores = s.cores := by
  unfold State.putThread; split <;> rfl
@[simp] theorem State.putThread_fams (s : State) (t : Thread) : (s.putThread t).fams = s.fams := by
  unfold State.putThread; split <;> rfl
@[simp] theorem State.putThread_launches (s : State) (t : Thread) : (s.putThread t).launches = s.launches := by
  unfold State.putThread; split <;> rfl
@[simp] theorem State.putThread_reqs (s : State) (t : Thread) : (s.putThread t).reqs = s.reqs := by
  unfold State.putThread; split <;> rfl
@[simp] theorem State.putThread_replies (s : State) (t : Thread) : (s.putThread t).replies = s.replies := by
  unfold State.putThread; split <;> rfl
@[simp] theorem State.putThread_notices (s : State) (t : Thread) : (s.putThread t).notices = s.notices := by
  unfold State.putThread; split <;> rfl
@[simp] theorem State.putThread_defers (s : State) (t : Thread) : (s.putThread t).defers = s.defers := by
  unfold State.putThread; split <;> rfl
@[simp] theorem State.putThread_delivers (s : State) (t : Thread) : (s.putThread t).delivers = s.delivers := by
  unfold State.putThread; split <;> rfl
@[simp] theorem State.putThread_wakes (s : State) (t : Thread) : (s.putThread t).wakes = s.wakes := by
  unfold State.putThread; split <;> rfl
@[simp] theorem State.putThread_linkMsgs (s : State) (t : Thread) : (s.putThread t).linkMsgs = s.linkMsgs := by
  unfold State.putThread; split <;> rfl
@[simp] theorem State.putThread_pkts (s : State) (t : Thread) : (s.putThread t).pkts = s.pkts := by
  unfold State.putThread; split <;> rfl
@[simp] theorem State.putThread_walks (s : State) (t : Thread) : (s.putThread t).walks = s.walks := by
  unfold State.putThread; split <;> rfl
@[simp] theorem State.putThread_faults (s : State) (t : Thread) : (s.putThread t).faults = s.faults := by
  unfold State.putThread; split <;> rfl
@[simp] theorem State.putThread_elemFaults (s : State) (t : Thread) : (s.putThread t).elemFaults = s.elemFaults := by
  unfold State.putThread; split <;> rfl
@[simp] theorem State.putThread_clusters (s : State) (t : Thread) : (s.putThread t).clusters = s.clusters := by
  unfold State.putThread; split <;> rfl
@[simp] theorem State.putThread_dies (s : State) (t : Thread) : (s.putThread t).dies = s.dies := by
  unfold State.putThread; split <;> rfl
@[simp] theorem State.putThread_slices (s : State) (t : Thread) : (s.putThread t).slices = s.slices := by
  unfold State.putThread; split <;> rfl
@[simp] theorem State.putThread_atab (s : State) (t : Thread) : (s.putThread t).atab = s.atab := by
  unfold State.putThread; split <;> rfl
@[simp] theorem State.putThread_objs (s : State) (t : Thread) : (s.putThread t).objs = s.objs := by
  unfold State.putThread; split <;> rfl
@[simp] theorem State.putThread_edges (s : State) (t : Thread) : (s.putThread t).edges = s.edges := by
  unfold State.putThread; split <;> rfl
@[simp] theorem State.putThread_engines (s : State) (t : Thread) : (s.putThread t).engines = s.engines := by
  unfold State.putThread; split <;> rfl
@[simp] theorem State.putThread_bins (s : State) (t : Thread) : (s.putThread t).bins = s.bins := by
  unfold State.putThread; split <;> rfl
@[simp] theorem State.putThread_groups (s : State) (t : Thread) : (s.putThread t).groups = s.groups := by
  unfold State.putThread; split <;> rfl
@[simp] theorem State.putThread_partials (s : State) (t : Thread) : (s.putThread t).partials = s.partials := by
  unfold State.putThread; split <;> rfl
@[simp] theorem State.putThread_missed (s : State) (t : Thread) : (s.putThread t).missed = s.missed := by
  unfold State.putThread; split <;> rfl
@[simp] theorem State.putThread_pkg (s : State) (t : Thread) : (s.putThread t).pkg = s.pkg := by
  unfold State.putThread; split <;> rfl

@[simp] theorem State.modThread_busy (s : State) (tid : Nat) (f : Thread → Thread) :
    (s.modThread tid f).busy = s.busy := by
  unfold State.modThread; split
  · rfl
  · split <;> rfl
@[simp] theorem State.modThread_inTurn (s : State) (tid : Nat) (f : Thread → Thread) :
    (s.modThread tid f).inTurn = s.inTurn := by
  unfold State.modThread; split
  · rfl
  · split <;> rfl
@[simp] theorem State.modThread_second (s : State) (tid : Nat) (f : Thread → Thread) :
    (s.modThread tid f).second = s.second := by
  unfold State.modThread; split
  · rfl
  · split <;> rfl
@[simp] theorem State.modThread_flow (s : State) (tid : Nat) (f : Thread → Thread) :
    (s.modThread tid f).flow = s.flow := by
  unfold State.modThread; split
  · rfl
  · split <;> rfl
@[simp] theorem State.modThread_agenda (s : State) (tid : Nat) (f : Thread → Thread) :
    (s.modThread tid f).agenda = s.agenda := by
  unfold State.modThread; split
  · rfl
  · split <;> rfl
@[simp] theorem State.modThread_choice (s : State) (tid : Nat) (f : Thread → Thread) :
    (s.modThread tid f).choice = s.choice := by
  unfold State.modThread; split
  · rfl
  · split <;> rfl
@[simp] theorem State.modThread_free (s : State) (tid : Nat) (f : Thread → Thread) :
    (s.modThread tid f).free = s.free := by
  unfold State.modThread; split
  · rfl
  · split <;> rfl
@[simp] theorem State.modThread_stamp (s : State) (tid : Nat) (f : Thread → Thread) :
    (s.modThread tid f).stamp = s.stamp := by
  unfold State.modThread; split
  · rfl
  · split <;> rfl
@[simp] theorem State.modThread_mem (s : State) (tid : Nat) (f : Thread → Thread) :
    (s.modThread tid f).mem = s.mem := by
  unfold State.modThread; split
  · rfl
  · split <;> rfl
@[simp] theorem State.modThread_cores (s : State) (tid : Nat) (f : Thread → Thread) :
    (s.modThread tid f).cores = s.cores := by
  unfold State.modThread; split
  · rfl
  · split <;> rfl
@[simp] theorem State.modThread_fams (s : State) (tid : Nat) (f : Thread → Thread) :
    (s.modThread tid f).fams = s.fams := by
  unfold State.modThread; split
  · rfl
  · split <;> rfl
@[simp] theorem State.modThread_launches (s : State) (tid : Nat) (f : Thread → Thread) :
    (s.modThread tid f).launches = s.launches := by
  unfold State.modThread; split
  · rfl
  · split <;> rfl
@[simp] theorem State.modThread_reqs (s : State) (tid : Nat) (f : Thread → Thread) :
    (s.modThread tid f).reqs = s.reqs := by
  unfold State.modThread; split
  · rfl
  · split <;> rfl
@[simp] theorem State.modThread_replies (s : State) (tid : Nat) (f : Thread → Thread) :
    (s.modThread tid f).replies = s.replies := by
  unfold State.modThread; split
  · rfl
  · split <;> rfl
@[simp] theorem State.modThread_notices (s : State) (tid : Nat) (f : Thread → Thread) :
    (s.modThread tid f).notices = s.notices := by
  unfold State.modThread; split
  · rfl
  · split <;> rfl
@[simp] theorem State.modThread_defers (s : State) (tid : Nat) (f : Thread → Thread) :
    (s.modThread tid f).defers = s.defers := by
  unfold State.modThread; split
  · rfl
  · split <;> rfl
@[simp] theorem State.modThread_delivers (s : State) (tid : Nat) (f : Thread → Thread) :
    (s.modThread tid f).delivers = s.delivers := by
  unfold State.modThread; split
  · rfl
  · split <;> rfl
@[simp] theorem State.modThread_wakes (s : State) (tid : Nat) (f : Thread → Thread) :
    (s.modThread tid f).wakes = s.wakes := by
  unfold State.modThread; split
  · rfl
  · split <;> rfl
@[simp] theorem State.modThread_linkMsgs (s : State) (tid : Nat) (f : Thread → Thread) :
    (s.modThread tid f).linkMsgs = s.linkMsgs := by
  unfold State.modThread; split
  · rfl
  · split <;> rfl
@[simp] theorem State.modThread_pkts (s : State) (tid : Nat) (f : Thread → Thread) :
    (s.modThread tid f).pkts = s.pkts := by
  unfold State.modThread; split
  · rfl
  · split <;> rfl
@[simp] theorem State.modThread_walks (s : State) (tid : Nat) (f : Thread → Thread) :
    (s.modThread tid f).walks = s.walks := by
  unfold State.modThread; split
  · rfl
  · split <;> rfl
@[simp] theorem State.modThread_faults (s : State) (tid : Nat) (f : Thread → Thread) :
    (s.modThread tid f).faults = s.faults := by
  unfold State.modThread; split
  · rfl
  · split <;> rfl
@[simp] theorem State.modThread_elemFaults (s : State) (tid : Nat) (f : Thread → Thread) :
    (s.modThread tid f).elemFaults = s.elemFaults := by
  unfold State.modThread; split
  · rfl
  · split <;> rfl
@[simp] theorem State.modThread_clusters (s : State) (tid : Nat) (f : Thread → Thread) :
    (s.modThread tid f).clusters = s.clusters := by
  unfold State.modThread; split
  · rfl
  · split <;> rfl
@[simp] theorem State.modThread_dies (s : State) (tid : Nat) (f : Thread → Thread) :
    (s.modThread tid f).dies = s.dies := by
  unfold State.modThread; split
  · rfl
  · split <;> rfl
@[simp] theorem State.modThread_slices (s : State) (tid : Nat) (f : Thread → Thread) :
    (s.modThread tid f).slices = s.slices := by
  unfold State.modThread; split
  · rfl
  · split <;> rfl
@[simp] theorem State.modThread_atab (s : State) (tid : Nat) (f : Thread → Thread) :
    (s.modThread tid f).atab = s.atab := by
  unfold State.modThread; split
  · rfl
  · split <;> rfl
@[simp] theorem State.modThread_objs (s : State) (tid : Nat) (f : Thread → Thread) :
    (s.modThread tid f).objs = s.objs := by
  unfold State.modThread; split
  · rfl
  · split <;> rfl
@[simp] theorem State.modThread_edges (s : State) (tid : Nat) (f : Thread → Thread) :
    (s.modThread tid f).edges = s.edges := by
  unfold State.modThread; split
  · rfl
  · split <;> rfl
@[simp] theorem State.modThread_engines (s : State) (tid : Nat) (f : Thread → Thread) :
    (s.modThread tid f).engines = s.engines := by
  unfold State.modThread; split
  · rfl
  · split <;> rfl
@[simp] theorem State.modThread_bins (s : State) (tid : Nat) (f : Thread → Thread) :
    (s.modThread tid f).bins = s.bins := by
  unfold State.modThread; split
  · rfl
  · split <;> rfl
@[simp] theorem State.modThread_groups (s : State) (tid : Nat) (f : Thread → Thread) :
    (s.modThread tid f).groups = s.groups := by
  unfold State.modThread; split
  · rfl
  · split <;> rfl
@[simp] theorem State.modThread_partials (s : State) (tid : Nat) (f : Thread → Thread) :
    (s.modThread tid f).partials = s.partials := by
  unfold State.modThread; split
  · rfl
  · split <;> rfl
@[simp] theorem State.modThread_missed (s : State) (tid : Nat) (f : Thread → Thread) :
    (s.modThread tid f).missed = s.missed := by
  unfold State.modThread; split
  · rfl
  · split <;> rfl
@[simp] theorem State.modThread_pkg (s : State) (tid : Nat) (f : Thread → Thread) :
    (s.modThread tid f).pkg = s.pkg := by
  unfold State.modThread; split
  · rfl
  · split <;> rfl

/-! ### Free values and choices -/

@[simp] theorem State.freeVal_fst (s : State) : s.freeVal.1 = Config.freeWord s.free := rfl
@[simp] theorem State.freeVal_snd (s : State) : s.freeVal.2 = { s with free := s.free + 1 } := rfl
@[simp] theorem State.choose_snd (s : State) (n : Nat) : (s.choose n).2 = { s with choice := s.choice + 1 } := rfl
@[simp] theorem State.fresh_fst (s : State) : s.fresh.1 = s.stamp := rfl
@[simp] theorem State.fresh_snd (s : State) : s.fresh.2 = { s with stamp := s.stamp + 1 } := rfl

end Sys2Proof.Machine
end

