-- ==== Sys2Proof/Laws/Run.lean ====
section
/-! SUPPORT. What each shared step of an instruction can do: running in sequence, reading operands,
checking and writing a destination, settling. -/

namespace Sys2Proof.Machine

/-! ### Running in sequence -/

theorem bind_ok {α β : Type} (m : M α) (f : α → M β) (s s1 : State) (a : α) (h : m s = .ok (a, s1)) :
    (m >>= f) s = f a s1 := by
  simp [bind, StateT.bind, Except.bind, h]

theorem bind_error {α β : Type} (m : M α) (f : α → M β) (s : State) (e : Stop) (h : m s = .error e) :
    (m >>= f) s = .error e := by
  simp [bind, StateT.bind, Except.bind, h]

/-- What follows a computation that answers: it answered first. -/
theorem bind_inv {α β : Type} (m : M α) (f : α → M β) (s t : State) (b : β) (h : (m >>= f) s = .ok (b, t)) :
    ∃ a s1, m s = .ok (a, s1) ∧ f a s1 = .ok (b, t) := by
  cases hm : m s with
  | error e => simp [bind, StateT.bind, Except.bind, hm] at h
  | ok p => exact ⟨p.1, p.2, rfl, by rwa [bind_ok m f s p.2 p.1 (by rw [hm])] at h⟩

@[simp] theorem pure_run {α : Type} (a : α) (s : State) : (pure a : M α) s = .ok (a, s) := rfl
@[simp] theorem getCur_run (s : State) : getCur s = .ok (s.cur, s) := rfl
@[simp] theorem get_run (s : State) : (get : M State) s = .ok (s, s) := rfl
@[simp] theorem set_run (t s : State) : (set t : M PUnit) s = .ok (⟨⟩, t) := rfl
@[simp] theorem updCur_run (f : Thread → Thread) (s : State) : updCur f s = .ok ((), s.updCur f) := rfl
@[simp] theorem modS_run (f : State → State) (s : State) : modS f s = .ok ((), f s) := rfl
@[simp] theorem raiseFlags_run (w : Word) (s : State) : raiseFlags w s = .ok ((), s.flagged w) := rfl
@[simp] theorem trapW_run {α : Type} (c : Cause) (x y : Word) (s : State) :
    (trapW c x y : M α) s = .error (.trap c (some x) (some y) s) := rfl
@[simp] theorem waitR_run {α : Type} (r k : Nat) (s : State) : (waitR r k : M α) s = .error (.wait r k .nil) := rfl
@[simp] theorem orTrap_true (c : Cause) (x y : Word) (s : State) : orTrap true c x y s = .ok ((), s) := rfl
@[simp] theorem orTrap_false (c : Cause) (x y : Word) (s : State) :
    orTrap false c x y s = .error (.trap c (some x) (some y) s) := rfl

theorem flagged_zero (s : State) : s.flagged 0 = s := by
  simp [State.flagged, State.updCur]

/-! ### Issuing and events -/

theorem issue_on (g : Guard) (body : M Flow) (s : State) (h : s.cur.guardOn g = true) :
    issue g body s = .next (s.settle (body s)) := by
  simp [issue, h]

/-- Guard 0: the slot is used and nothing else (02 R27). -/
theorem issue_off (g : Guard) (body : M Flow) (s : State) (h : s.cur.guardOn g = false) :
    issue g body s = .next (s.finished .seq) := by
  simp [issue, h, State.settle, State.finished]

/-- An instruction always answers a next state. -/
theorem issue_next (g : Guard) (body : M Flow) (s : State) : ∃ t, issue g body s = .next t := ⟨_, rfl⟩

theorem event_next (f : State → Option State) (s : State) : ∃ t, event f s = .next t := ⟨_, rfl⟩

theorem event_some (f : State → Option State) (s t : State) (hb : s.busy = false) (h : f s = some t) :
    event f s = .next t := by
  simp [event, hb, h]

/-- An event that is not enabled, or while a thread issues, changes nothing. -/
theorem event_none (f : State → Option State) (s : State) (h : s.busy = true ∨ f s = none) :
    event f s = .next s := by
  rcases h with h | h <;> simp [event, h]

/-! ### Sources -/

theorem eccCheck_run (r : SReg) (s : State) (h : s.cur.ecc.contains r.code.toNat = false) :
    eccCheck r s = .ok ((), s) := by
  unfold eccCheck
  rw [h]
  rfl

/-- A source is checked for an error of the register that it reads, then read. -/
theorem readS_inv (r : SReg) (s t : State) (v : Word) (h : readS r s = .ok (v, t)) :
    s.cur.ecc.contains (s.cur.readReg r).code.toNat = false := by
  unfold readS at h
  obtain ⟨u, s0, hG, hA⟩ := bind_inv _ _ _ _ _ h
  obtain ⟨rfl, rfl⟩ : s.cur = u ∧ s = s0 := by simpa [getCur] using hG
  obtain ⟨_, s1, hE, -⟩ := bind_inv _ _ _ _ _ hA
  unfold eccCheck at hE
  split at hE
  · simp at hE
  · rename_i hN
    simpa using hN

/-- A register of the window reads its value and changes nothing. -/
theorem readS_l (n : Fin 64) (s : State) (h : s.cur.ecc.contains (SReg.l n).code.toNat = false) :
    readS (.l n) s = .ok (s.cur.l[n], s) := by
  unfold readS
  exact (bind_ok getCur _ s s s.cur rfl).trans (bind_ok _ _ _ _ _ (eccCheck_run _ _ h))

theorem readS_g (n : Fin 16) (s : State) (h : s.cur.ecc.contains (SReg.g n).code.toNat = false) :
    readS (.g n) s = .ok (s.cur.g[n], s) := by
  unfold readS
  exact (bind_ok getCur _ s s s.cur rfl).trans (bind_ok _ _ _ _ _ (eccCheck_run _ _ h))

theorem readS_zero (s : State) (h : s.cur.ecc.contains SReg.zero.code.toNat = false) :
    readS .zero s = .ok (0, s) := by
  unfold readS
  exact (bind_ok getCur _ s s s.cur rfl).trans (bind_ok _ _ _ _ _ (eccCheck_run _ _ h))

/-- A source other than the receive ports changes nothing. -/
theorem readS_keeps (r : SReg) (s t : State) (v : Word) (h : readS r s = .ok (v, t))
    (h1 : r ≠ .rx) (h2 : r ≠ .rxh) : t = s := by
  unfold readS at h
  obtain ⟨u, s0, hG, hA⟩ := bind_inv _ _ _ _ _ h
  obtain ⟨rfl, rfl⟩ : s.cur = u ∧ s = s0 := by simpa [getCur] using hG
  obtain ⟨_, s1, hE, hB⟩ := bind_inv _ _ _ _ _ hA
  clear h hA hG
  have : s1 = s := by
    unfold eccCheck at hE
    split at hE <;> simp at hE
    exact hE.symm
  subst this
  cases r with
  | l n => simp at hB; exact hB.2.symm
  | g n => simp at hB; exact hB.2.symm
  | s n =>
    simp only at hB
    split at hB
    · simp at hB; exact hB.2.symm
    · unfold readD at hB
      split at hB <;> simp at hB
      exact hB.2.symm
  | d n =>
    unfold readD at hB
    simp only at hB
    split at hB <;> simp at hB
    exact hB.2.symm
  | zero => simp at hB; exact hB.2.symm
  | rx => exact absurd rfl h1
  | rxh => exact absurd rfl h2
  | index => simp at hB; exact hB.2.symm

/-! ### Destinations -/

/-- The check of a destination changes nothing. -/
theorem checkDst_keeps (d : Dst) (s t : State) (h : checkDst d s = .ok ((), t)) : t = s := by
  cases d with
  | s n => unfold checkDst at h; simp only at h; split at h <;> simp at h; exact h.symm
  | l n => simp [checkDst] at h; exact h.symm
  | zero => simp [checkDst] at h; exact h.symm
  | txh => simp [checkDst] at h; exact h.symm
  | tx => simp [checkDst] at h; exact h.symm
  | txe => simp [checkDst] at h; exact h.symm

/-- The check of the send ports changes nothing. -/
theorem portCheck_keeps (d : Dst) (s t : State) (h : portCheck d s = .ok ((), t)) : t = s := by
  unfold portCheck at h
  split at h <;> try (simp at h; done)
  · split at h <;> simp at h
    exact h.symm
  · simp at h; exact h.symm

/-- What is sent finds its channel free, or the instruction waits with reason 11. -/
theorem channelFree_run (c : Chan) (s t : State) (h : channelFree c s = .ok ((), t)) : t = s := by
  unfold channelFree at h
  split at h <;> simp at h
  exact h.symm

/-- A register of the window takes the value; nothing else changes but the error mark it clears. -/
theorem writeD_l (n : Fin 64) (v : Word) (s : State) :
    writeD (.l n) v s = .ok (.seq, s.updCur fun t => { t with l := t.l.set n.val v, ecc := t.ecc.erase n.val }) := rfl

/-- ZERO discards. -/
theorem writeD_zero (v : Word) (s : State) : writeD .zero v s = .ok (.seq, s) := rfl

/-- A destination is written in sequence, or its thread waits for the packet to leave. -/
theorem writeD_flow (d : Dst) (v : Word) (s t : State) (fl : Flow) (h : writeD d v s = .ok (fl, t)) :
    fl = .seq ∨ (fl = .held ∧ t.cur.waitReason = 11) := by
  unfold writeD at h
  obtain ⟨_, s1, _, hA⟩ := bind_inv _ _ _ _ _ h
  obtain ⟨_, s2, _, hB⟩ := bind_inv _ _ _ _ _ hA
  clear h hA
  cases d with
  | l n =>
    obtain ⟨_, _, _, hC⟩ := bind_inv _ _ _ _ _ hB
    simp at hC
    exact .inl hC.1.symm
  | s n =>
    simp only [writeShared] at hB
    split at hB <;> simp at hB
    exact .inl hB.1.symm
  | zero => simp at hB; exact .inl hB.1.symm
  | txh =>
    simp only [writeTxh] at hB
    split at hB <;> simp at hB
    exact .inl hB.1.symm
  | tx =>
    obtain ⟨_, _, _, hC⟩ := bind_inv _ _ _ _ _ hB
    obtain ⟨_, _, _, hD⟩ := bind_inv _ _ _ _ _ hC
    simp at hD
    exact .inl hD.1.symm
  | txe =>
    obtain ⟨_, _, _, hC⟩ := bind_inv _ _ _ _ _ hB
    obtain ⟨_, _, _, hD⟩ := bind_inv _ _ _ _ _ hC
    simp [holdFor] at hD
    refine .inr ⟨hD.1.symm, ?_⟩
    rw [← hD.2]
    simp [Thread.waitReason]

/-! ### Settling -/

@[simp] theorem settle_seq (s t : State) : s.settle (.ok (.seq, t)) = t.finished .seq := rfl
@[simp] theorem settle_jump (s t : State) : s.settle (.ok (.jump, t)) = t.finished .jump := rfl
@[simp] theorem settle_gone (s t : State) : s.settle (.ok (.gone, t)) = t.finished .gone := rfl
@[simp] theorem settle_trap (s t : State) (c : Cause) (x y : Option Word) :
    s.settle (.error (.trap c x y t)) = t.takeTrap c x y := rfl

/-- A written destination settles as its instruction is finished. -/
theorem settle_written (s s2 t : State) (d : Dst) (v : Word) (fl : Flow) (h : writeD d v s2 = .ok (fl, t)) :
    s.settle (.ok (fl, t)) = t.finished fl := by
  rcases writeD_flow d v s2 t fl h with rfl | ⟨rfl, h2⟩
  · rfl
  · simp [State.settle, State.finished, State.waitBarred, h2]

end Sys2Proof.Machine
end

