-- ==== Sys2Proof/Laws/Send.lean ====
section
/-! SUPPORT. What sending an access can do: the request leaves, or the access completes within the
turn (07 R137, 15 R295 to R300). -/

namespace Sys2Proof.Machine

@[simp] theorem acquireIf_false (s : State) : acquireIf false s = .ok ((), s) := rfl
@[simp] theorem holdFor_run (r k : Nat) (c : Comp) (acq : Bool) (s : State) : holdFor r k c acq s =
    .ok (.held, s.updCur fun t => { t with life := .waiting, wait := some ⟨r, some c, acq, k⟩ }) := rfl

/-- A posted request counts in the current phase of its scope. -/
theorem postReq_run (q : Req) (s : State) : postReq q s = .ok ((),
    let p := s.countSent q.src q.scope (s.termOf q.loc q.scope)
    { p.2 with reqs := p.2.reqs ++ [{ q with phase := some p.1 }] }) := rfl

theorem launchReq_run (q : Req) (s : State) :
    launchReq q s = .ok ((), { s with reqs := s.reqs ++ [q] }) := rfl

theorem settle_heldFor (s t : State) (r k : Nat) (c : Comp) (acq : Bool) (h : s.cur.packet = none) :
    s.settle (.ok (.held, t.updCur fun x => { x with life := .waiting, wait := some ⟨r, some c, acq, k⟩ })) =
      { t.updCur (fun x => { x with life := .waiting, wait := some ⟨r, some c, acq, k⟩ }) with flow := .held } := by
  simp [State.settle, State.waitBarred, h]

/-! ### Releases -/

theorem closeOne_cur (s : State) (c n : Nat) : (s.closeOne c n).cur = s.cur := by
  unfold State.closeOne
  split <;> simp

/-- Closing phases leaves the issuing thread as it is. -/
theorem closePhases_cur (s t : State) (c : Nat) (sc : Scope) (held : List PhaseId)
    (h : s.closePhases c sc = some (held, t)) : t.cur = s.cur := by
  have fold (l : List Nat) : ∀ u : State, (l.foldl (fun s n => s.closeOne c n) u).cur = u.cur := by
    induction l with
    | nil => exact fun _ => rfl
    | cons n l ih => exact fun u => (ih _).trans (closeOne_cur u c n)
  unfold State.closePhases at h
  simp only at h
  split at h
  · simp at h
  · simp only [Option.some.injEq, Prod.mk.injEq] at h
    rw [← h.2]
    exact fold _ s

theorem raiseAt_run (rel now : Bool) (s : State) (h : rel = true → s.cur.errRec = none) :
    raiseAt rel now s = .ok ((), s) := by
  unfold raiseAt
  split
  · rename_i hr
    unfold raiseDeferred
    rw [h (by simp_all)]
  · rfl

/-- The phases of an access: a release has its phases closed and no error record to raise. -/
theorem released_run (k : Ask) (s s2 : State) (held : List PhaseId) (hr : Released k s held s2) :
    closeIf k.rel k.sc s = .ok (held, s2) ∧
      (k.rel = true → s.cur.errRec = none) ∧ (k.rel = true → s2.cur.errRec = none) := by
  unfold Released at hr
  by_cases h : k.rel = true
  · rw [if_pos h] at hr
    refine ⟨?_, fun _ => hr.1, fun _ => (congrArg _ (closePhases_cur _ _ _ _ _ hr.2)).trans hr.1⟩
    unfold closeIf closeAt
    rw [if_pos h, hr.2]
  · rw [if_neg h] at hr
    obtain ⟨rfl, rfl⟩ := hr
    exact ⟨by unfold closeIf; rw [if_neg h]; rfl, fun h' => absurd h' h, fun h' => absurd h' h⟩

/-- Once an access has been located, has passed the scoreboard and has its phases, it goes to its home or is
performed on the own window. -/
theorem send_reaches (k : Ask) (c : Option Comp) (s s2 : State) (l : Loc) (own : Bool) (held : List PhaseId)
    (hl : locate k.a k.align k.acc k.sc 0 s = .ok ((l, own), s))
    (hb : boardCheck k.a k.op.len k.op.stores s = .ok ((), s)) (hr : Released k s held s2)
    (hc : (c.isNone && !own) = true → channelFree .requests s = .ok ((), s)) :
    send k c s =
      (if own then ownAccess (s2.request k l c.isNone false 0 held) c k.acq
      else match (generalizing := false) c with
        | none => postReq (s2.request k l c.isNone false 0 held) >>= fun _ => pure .seq
        | some c' => launchReq (s2.request k l c.isNone false 0 held) >>= fun _ => holdFor 4 0 c' k.acq) s2 := by
  obtain ⟨h1, h2, h3⟩ := released_run k s s2 held hr
  unfold send
  rw [bind_ok _ _ _ _ _ hl]
  simp only
  rw [bind_ok _ _ _ _ _ hb]
  by_cases hp : (c.isNone && !own) = true
  · rw [if_pos hp, bind_ok _ _ _ _ _ (hc hp), bind_ok _ _ _ _ _ (raiseAt_run _ _ _ h2), bind_ok _ _ _ _ _ h1,
      bind_ok _ _ _ _ _ (raiseAt_run _ _ _ h3), bind_ok _ _ _ _ _ (get_run s2)]
    all_goals rfl
  · rw [if_neg hp, bind_ok _ _ _ _ _ (raiseAt_run _ _ _ h2), bind_ok _ _ _ _ _ h1,
      bind_ok _ _ _ _ _ (raiseAt_run _ _ _ h3), bind_ok _ _ _ _ _ (get_run s2)]
    all_goals rfl

/-- An access that leaves the turn: posted in its phase, or with its thread waiting for the reply. -/
theorem send_leaves (k : Ask) (c : Option Comp) (s s2 : State) (l : Loc) (own : Bool) (held : List PhaseId)
    (hl : locate k.a k.align k.acc k.sc 0 s = .ok ((l, own), s))
    (hb : boardCheck k.a k.op.len k.op.stores s = .ok ((), s)) (hr : Released k s held s2)
    (ho : Leaves own c.isNone held s) :
    send k c s =
      let q := s2.request k l c.isNone false 0 held
      match c, own with
      | some c', _ => .ok (.held, ({ s2 with reqs := s2.reqs ++ [q] } : State).updCur
          fun t => { t with life := .waiting, wait := some ⟨4, some c', k.acq, 0⟩ })
      | none, true => .ok (.held, ({ s2 with reqs := s2.reqs ++ [q] } : State).updCur
          fun t => { t with life := .waiting, wait := some ⟨4, some .unit, k.acq, 0⟩ })
      | none, false =>
        let p := s2.countSent q.src q.scope (s2.termOf q.loc q.scope)
        .ok (.seq, { p.2 with reqs := p.2.reqs ++ [{ q with phase := some p.1 }] }) := by
  rcases ho with ⟨rfl, hc⟩ | ⟨rfl, hh⟩
  · rw [send_reaches k c s s2 l false held hl hb hr (fun h => hc (by simpa using h))]
    rw [if_neg Bool.false_ne_true]
    generalize s2.request k l c.isNone false 0 held = q
    cases c with
    | none => exact (bind_ok _ _ _ _ _ (postReq_run q s2)).trans rfl
    | some c' =>
      exact (bind_ok (launchReq q) (fun _ => holdFor 4 0 c' k.acq) s2 _ () (launchReq_run q s2)).trans
        (holdFor_run _ _ _ _ _)
  · rw [send_reaches k c s s2 l true held hl hb hr (by simp)]
    rw [if_pos rfl]
    have hq : (!(s2.request k l c.isNone false 0 held).held.isEmpty) = true := by
      cases held with
      | nil => exact absurd rfl hh
      | cons a b => rfl
    generalize hq' : s2.request k l c.isNone false 0 held = q at hq ⊢
    unfold ownAccess
    rw [bind_ok _ _ _ _ _ (get_run s2), if_pos hq, bind_ok _ _ _ _ _ (launchReq_run q s2), holdFor_run]
    cases c <;> rfl

/-- A bank that is not taken in the cycle. -/
theorem bank_free (x : BitVec 16) (b : Nat) (h : x.getLsbD b = false) : x &&& (1#16 <<< b) = 0 := by
  ext i hi
  by_cases hb : i = b
  · subst hb; simp [← BitVec.getLsbD_eq_getElem, h]
  · have : ¬ (i - b = 0 ∧ b ≤ i) := by omega
    simp [BitVec.getElem_shiftLeft]
    omega

/-- An access to the own window with no phases to follow and no earlier access of the thread to its word,
whose bank is won, is performed at once. -/
theorem send_own (k : Ask) (c : Option Comp) (s s2 s3 : State) (l : Loc) (v0 v1 : Word)
    (hl : locate k.a k.align k.acc k.sc 0 s = .ok ((l, true), s))
    (hb : boardCheck k.a k.op.len k.op.stores s = .ok ((), s)) (hr : Released k s [] s2)
    (hw : s2.wordPending (s2.request k l c.isNone false 0 []) = false)
    (hk : (s2.core s2.cur.core).bankUsed.getLsbD (bankOf l) = false ∨ 3 ≤ s2.cur.forfeits)
    (hp : s2.performOne (s2.request k l c.isNone false 0 []) = (.done (.ok v0 v1), s3)) :
    send k c s = match (generalizing := false) c with
      | none => .ok (.seq, s3)
      | some c' => finish c' v0 v1 k.acq s3 := by
  rw [send_reaches k c s s2 l true [] hl hb hr (by simp), if_pos rfl]
  have hbank : takeBank (s2.request k l c.isNone false 0 []).loc s2 = .ok ((), s2) := by
    show takeBank l s2 = .ok ((), s2)
    unfold takeBank takeBanks
    rcases hk with h | h
    · rw [bank_free _ _ h]; simp
    · rw [if_neg]; simp; intro _ _; omega
  have hq : (!(s2.request k l c.isNone false 0 []).held.isEmpty) = false := rfl
  unfold ownAccess
  rw [bind_ok _ _ _ _ _ (get_run s2), if_neg (by rw [hq]; simp), if_neg (by rw [hw]; simp)]
  unfold inTurn
  rw [bind_ok _ _ _ _ _ hbank, bind_ok _ _ _ _ _ (get_run s2), hp]
  simp only
  rw [bind_ok _ _ _ _ _ (set_run s3 s2)]
  cases c <;> rfl

end Sys2Proof.Machine
end

