-- ==== Sys2Proof/Laws/Vector.lean ====
section
/-! SUPPORT. Packing elements into lanes and bits into masks, and what a merge under a mask gives
(09 R179, R180). -/

namespace Sys2Proof.Machine

/-! ### Digits of a sum -/

/-- A sum of digits below a place is below it. -/
theorem digits_lt (b : Nat) (f : Nat → Nat) (n : Nat) (hf : ∀ k, f k < b) :
    (List.range n).foldl (fun a k => a + f k * b ^ k) 0 < b ^ n := by
  induction n with
  | zero => simp
  | succ n ih =>
    rw [List.range_succ, List.foldl_append]
    simp only [List.foldl_cons, List.foldl_nil]
    have h1 : f n * b ^ n ≤ (b - 1) * b ^ n := Nat.mul_le_mul_right _ (by have := hf n; omega)
    have h2 : (b - 1) * b ^ n + b ^ n = b ^ (n + 1) := by
      rw [Nat.pow_succ, Nat.mul_comm (b ^ n) b]
      have : 0 < b := by have := hf 0; omega
      obtain ⟨c, rfl⟩ : ∃ c, b = c + 1 := ⟨b - 1, by omega⟩
      simp [Nat.add_mul]
    omega

/-- A digit of a sum of digits. -/
theorem digit_of (b : Nat) (f : Nat → Nat) (n k : Nat) (hf : ∀ k, f k < b) (hk : k < n) :
    (List.range n).foldl (fun a k => a + f k * b ^ k) 0 / b ^ k % b = f k := by
  induction n with
  | zero => omega
  | succ n ih =>
    rw [List.range_succ, List.foldl_append]
    simp only [List.foldl_cons, List.foldl_nil]
    have hb : 0 < b := by have := hf 0; omega
    by_cases h : k = n
    · subst h
      rw [Nat.add_mul_div_right _ _ (Nat.pow_pos hb), Nat.div_eq_of_lt (digits_lt b f k hf), Nat.zero_add,
        Nat.mod_eq_of_lt (hf k)]
    · have hk' : k < n := by omega
      rw [← ih hk']
      have : f n * b ^ n = f n * b ^ (n - k - 1) * b * b ^ k := by
        rw [Nat.mul_assoc, Nat.mul_assoc, ← Nat.pow_succ', ← Nat.pow_add]
        congr 2; omega
      rw [this, Nat.add_mul_div_right _ _ (Nat.pow_pos hb), Nat.add_mul_mod_self_right]

/-! ### Lanes -/

/-- Widths that divide a lane. -/
def LaneWidth (w : Nat) : Prop := 0 < w ∧ w * (64 / w) = 64

theorem laneWidth_ok (f : Fmt) : LaneWidth (laneWidth f) := by
  cases f <;> exact ⟨by decide, by decide⟩

theorem packLanes_length (w g : Nat) (l : List Nat) : (packLanes w g l).length = g := by
  simp [packLanes]

/-- An element of packed lanes is the element of the list. -/
theorem elemOf_packLanes (w g : Nat) (l : List Nat) (j : Nat) (hw : LaneWidth w) (hj : j < g * (64 / w)) :
    elemOf (packLanes w g l) w j = l.getD j 0 % 2 ^ w := by
  obtain ⟨hw0, hw⟩ := hw
  have hp : 0 < 64 / w := by
    rcases Nat.eq_zero_or_pos (64 / w) with h | h
    · rw [h] at hw; omega
    · exact h
  have hi : j / (64 / w) < g := Nat.div_lt_of_lt_mul (by rwa [Nat.mul_comm])
  have hk : j % (64 / w) < 64 / w := Nat.mod_lt _ hp
  unfold elemOf packLanes
  simp only [List.getD_eq_getElem?_getD, List.getElem?_map, List.getElem?_range hi, Option.map_some,
    Option.getD_some, BitVec.toNat_ofNat]
  have hpow : ∀ k, 2 ^ (w * k) = (2 ^ w) ^ k := fun k => Nat.pow_mul _ _ _
  simp only [hpow]
  have hlt := digits_lt (2 ^ w) (fun k => (l[j / (64 / w) * (64 / w) + k]?).getD 0 % 2 ^ w) (64 / w)
    (fun k => Nat.mod_lt _ (Nat.two_pow_pos w))
  rw [← Nat.pow_mul, hw] at hlt
  rw [Nat.mod_eq_of_lt hlt, digit_of (2 ^ w) (fun k => (l[j / (64 / w) * (64 / w) + k]?).getD 0 % 2 ^ w) (64 / w) _
    (fun k => Nat.mod_lt _ (Nat.two_pow_pos w)) hk]
  rw [Nat.div_add_mod' j (64 / w)]

theorem elemOf_lt (r : List Word) (w j : Nat) : elemOf r w j < 2 ^ w := Nat.mod_lt _ (Nat.two_pow_pos w)

/-! ### Merging -/

/-- What a merge gives at each element. -/
theorem merge_elem (c : Claim) (old : List Word) (w : Nat) (m : Option VMask) (f : Nat → Rounded) (j : Nat)
    (hw : LaneWidth w) (hj : j < c.grant * (64 / w)) :
    elemOf (c.merge old w m f).1 w j = c.elemAfter old w m j (f j).bits := by
  have hj' : j < c.count w := hj
  unfold Claim.merge
  simp only
  rw [elemOf_packLanes w c.grant _ j hw hj]
  simp only [List.getD_eq_getElem?_getD, List.getElem?_map, List.getElem?_range hj', Option.map_some, Option.getD_some]
  unfold Claim.elemAfter
  split
  · rfl
  · split
    · exact Nat.zero_mod _
    · exact Nat.mod_eq_of_lt (elemOf_lt _ _ _)

theorem merge_length (c : Claim) (old : List Word) (w : Nat) (m : Option VMask) (f : Nat → Rounded) :
    (c.merge old w m f).1.length = c.grant := packLanes_length _ _ _

theorem foldl_or_bit (l : List Rounded) (z : Word) (b : Nat) :
    (l.foldl (fun x r => x ||| r.flags) z).getLsbD b = true ↔
      z.getLsbD b = true ∨ ∃ r ∈ l, r.flags.getLsbD b = true := by
  induction l generalizing z with
  | nil => simp
  | cons r t ih =>
    rw [List.foldl_cons, ih]
    simp [or_assoc]

/-- The flags of a merge are those of its active elements. -/
theorem merge_flags (c : Claim) (old : List Word) (w : Nat) (m : Option VMask) (f : Nat → Rounded) (b : Nat) :
    (c.merge old w m f).2.getLsbD b = true ↔ ∃ j, j < c.grant * (64 / w) ∧ c.active (maskOf m) w j = true ∧
      (f j).flags.getLsbD b = true := by
  unfold Claim.merge
  simp only
  rw [foldl_or_bit]
  simp only [List.mem_map, List.mem_range]
  constructor
  · rintro (h | ⟨r, ⟨j, hj, rfl⟩, h⟩)
    · simp at h
    · refine ⟨j, hj, ?_⟩
      by_cases ha : c.active (maskOf m) w j = true
      · rw [if_pos ha] at h; exact ⟨ha, h⟩
      · rw [if_neg ha] at h
        split at h <;> simp at h
  · rintro ⟨j, hj, ha, h⟩
    exact .inr ⟨_, ⟨j, hj, rfl⟩, by rw [if_pos ha]; exact h⟩

/-- A vector instruction whose destination is merged completes within its turn (09 R184). -/
theorem vecOp_completes (g : Guard) (vd : VNo) (w : Nat) (m : Option VMask) (conv : Bool)
    (f : State → Claim → Nat → Rounded) (s : State) (c : Claim) (hg : s.cur.guardOn g = true)
    (hc : s.cur.claim = some c) (h0 : c.grant ≠ 0) :
    vecOp g vd w m conv f s = .next (((if conv then s.counted else s).flagged (c.merge (c.vreg vd) w m (f s c)).2
      |>.updCur fun t => { t with claim := some { c with v := c.v.set vd.val (c.merge (c.vreg vd) w m (f s c)).1 } }).finished
      .seq) := by
  unfold vecOp
  have hget : getClaim s = .ok (c, s) := by
    unfold getClaim
    rw [hc]
    simp [h0]
  rw [issue_on _ _ _ hg, bind_ok _ _ _ _ _ hget, bind_ok _ _ _ _ _ (get_run s)]
  simp only
  rw [bind_ok _ _ _ _ _ (raiseFlags_run _ _)]
  unfold setV
  rw [bind_ok _ _ _ _ _ (updCur_run _ _)]
  cases conv
  · simp only [Bool.false_eq_true, if_false]
    rw [show (do pure PUnit.unit; pure Flow.seq : M Flow) = pure .seq from rfl]
    simp only [pure_run, settle_seq]
    simp [State.flagged, State.updCur, hc]
  · simp only [if_true]
    rw [bind_ok _ _ _ _ _ (show countConv _ = _ from rfl)]
    simp only [pure_run, settle_seq]
    simp [State.flagged, State.counted, State.updCur, hc]

end Sys2Proof.Machine
end

