-- ==== Sys2Proof/Tests/Slice0.lean ====
section
/-! SUPPORT. The model's own tests: ill-formed terms that the checks refuse, words written out from the
spec's encodings, single steps against the spec's worked examples, and for each statement a state and
operands that meet its hypotheses. -/

section
set_option Elab.async false

open Sys2Proof Sys2Proof.Machine

/-! ### Well-formedness: one ill-formed term for each check -/

theorem test_wf_guard : Instr.wf (.nop ⟨⟨0, true⟩⟩) = false := by decide +kernel
theorem test_wf_two_ports : Instr.wf (.add ⟨⟨0, false⟩, .tx, .rx, .lit 1⟩) = false := by decide +kernel
theorem test_wf_two_ports_memory : Instr.wf (.eapp ⟨⟨0, false⟩, .rx, .reg .rxh, .l 0, .add⟩) = false := by decide +kernel
theorem test_wf_branch_zero : Instr.wf (.br ⟨⟨0, false⟩, 0⟩) = false := by decide +kernel
theorem test_wf_branch_back : Instr.wf (.br ⟨⟨0, false⟩, 0x80000000⟩) = false := by decide +kernel
theorem test_wf_bit_field : Instr.wf (.bfx ⟨⟨0, false⟩, .l 0, .l 1, 32, 32⟩) = false := by decide +kernel
theorem test_wf_creg_read : Instr.wf (.mfc ⟨⟨0, false⟩, .l 0, 0x007⟩) = false := by decide +kernel
theorem test_wf_creg_write : Instr.wf (.mtc ⟨⟨0, false⟩, .l 0, 0x080⟩) = false := by decide +kernel
theorem test_wf_entry_high : Instr.wf (.fset ⟨⟨0, false⟩, .entry, .ulit 5⟩) = false := by decide +kernel
theorem test_wf_fcvt_format : Instr.wf (.fcvt ⟨⟨0, false⟩, .l 0, .l 1, true, .i32, .fp32, .rne⟩) = false := by decide +kernel
theorem test_wf_icvt_pair : Instr.wf (.icvt ⟨⟨0, false⟩, .l 0, .l 1, .i32, .i64, .rne, false⟩) = false := by decide +kernel
theorem test_wf_load_order : Instr.wf (.ld ⟨⟨0, false⟩, .l 0, ⟨.l 1, .lit 0⟩, .b64, false, .rel, .core⟩) = false := by decide +kernel
theorem test_wf_store_order : Instr.wf (.st ⟨⟨0, false⟩, ⟨.l 1, .lit 0⟩, .l 0, .b64, .acq, .core⟩) = false := by decide +kernel
theorem test_wf_tagr_one_local : Instr.wf (.tagr ⟨⟨0, false⟩, .l 3, 3, ⟨.l 1, .lit 0⟩, .rlx, .core⟩) = false := by decide +kernel
theorem test_wf_tagw_empty_data : Instr.wf (.tagw ⟨⟨0, false⟩, ⟨.l 1, .lit 0⟩, .l 0, .empty, .rlx, .core⟩) = false := by decide +kernel
theorem test_wf_fence_relaxed : Instr.wf (.fence ⟨⟨0, false⟩, .rlx, .core, false⟩) = false := by decide +kernel
theorem test_wf_atomic_size : Instr.wf (.aadd ⟨⟨0, false⟩, .l 0, ⟨.l 1, .lit 0⟩, .l 2, .b16, .rlx, .core⟩) = false := by decide +kernel
theorem test_wf_cas_size : Instr.wf (.cas ⟨⟨0, false⟩, 3, ⟨.l 1, .lit 0⟩, .l 2, 1, .b8, .rlx, .core⟩) = false := by decide +kernel
theorem test_wf_query_record_scope : Instr.wf (.wqry ⟨⟨0, false⟩, .l 4, ⟨.zero, .lit 0⟩, .cobj, .dev⟩) = false := by decide +kernel
theorem test_wf_query_record_offset : Instr.wf (.wqry ⟨⟨0, false⟩, .l 4, ⟨.zero, .lit 8⟩, .cobj, .core⟩) = false := by decide +kernel
theorem test_wf_group_scope : Instr.wf (.ngrp ⟨⟨0, false⟩, .l 1, ⟨.g 0, .lit 0⟩, .clu⟩) = false := by decide +kernel
theorem test_wf_claim_counts : Instr.wf (.vclaim ⟨⟨0, false⟩, .l 9, .lit 0x405⟩) = false := by decide +kernel
theorem test_wf_claim_order : Instr.wf (.vclaim ⟨⟨0, false⟩, .l 9, .lit 0x408⟩) = false := by decide +kernel
theorem test_wf_viota_format : Instr.wf (.viota ⟨⟨0, false⟩, 0, .lit 0, .fp32, none⟩) = false := by decide +kernel
theorem test_wf_vbcast_format : Instr.wf (.vbcast ⟨⟨0, false⟩, 0, .lit 0, .e4m3, none⟩) = false := by decide +kernel
theorem test_wf_vector_rounding : Instr.wf (.vadd ⟨⟨0, false⟩, 0, 1, .v 2, .i32, true, .rtz, false, none⟩) = false := by decide +kernel
theorem test_wf_vector_unsigned_float : Instr.wf (.vmul ⟨⟨0, false⟩, 0, 1, .v 2, .fp32, true, .rne, true, none⟩) = false := by decide +kernel
theorem test_wf_vector_bits : Instr.wf (.vand ⟨⟨0, false⟩, 0, 1, .v 2, .i32, false, .rne, false, none⟩) = false := by decide +kernel
theorem test_wf_vector_minmax : Instr.wf (.vmin ⟨⟨0, false⟩, 0, 1, .v 2, .fp32, true, .rne, false, none⟩) = false := by decide +kernel
theorem test_wf_vcmp_condition : Instr.wf (.vcmp ⟨⟨0, false⟩, 0, 1, .v 2, 8, .fp32, false, none⟩) = false := by decide +kernel
theorem test_wf_vcvt_part : Instr.wf (.vcvt ⟨⟨0, false⟩, 0, 1, .fp32, .fp16, true, .rne, false, 2, none⟩) = false := by decide +kernel
theorem test_wf_vcvt_overflow : Instr.wf (.vcvt ⟨⟨0, false⟩, 0, 1, .i32, .fp32, true, .rne, false, 0, none⟩) = false := by decide +kernel
theorem test_wf_vqmx_format : Instr.wf (.vqmx ⟨⟨0, false⟩, 0, 1, .block, 2, .e4m3, .fp32, true, .rne⟩) = false := by decide +kernel
theorem test_wf_vdqmx_format : Instr.wf (.vdqmx ⟨⟨0, false⟩, 0, 1, 2, .fp32, .e5m2, true, .rne⟩) = false := by decide +kernel
theorem test_wf_vrmax_overflow : Instr.wf (.vrmax ⟨⟨0, false⟩, .l 0, 1, .i32, true, .rne, false, none⟩) = false := by decide +kernel
theorem test_wf_vspec_format : Instr.wf (.vexp2 ⟨⟨0, false⟩, 0, 1, .i32, true, .rne, none⟩) = false := by decide +kernel
theorem test_wf_vbperm_distance : Instr.wf (.vbperm ⟨⟨0, false⟩, 0, 1, 9, .i32, none⟩) = false := by decide +kernel
theorem test_wf_butterfly_odd : Instr.wf (.vbflyX ⟨⟨0, false⟩, 1, 2, 3, 4, true, 0, none⟩) = false := by decide +kernel
theorem test_wf_automorphism_length : Instr.wf (.vauto ⟨⟨0, false⟩, 0, 1, .lit 3, 8, true, 0, none⟩) = false := by decide +kernel
theorem test_wf_automorphism_even : Instr.wf (.vauto ⟨⟨0, false⟩, 0, 1, .lit 4, 3, true, 0, none⟩) = false := by decide +kernel
theorem test_wf_automorphism_large : Instr.wf (.vauto ⟨⟨0, false⟩, 0, 1, .lit 17, 3, true, 0, none⟩) = false := by decide +kernel
theorem test_wf_ring_configuration : Instr.wf (.ringi ⟨⟨0, false⟩, .l 0, .lit 0x10001, 0⟩) = false := by decide +kernel
theorem test_wf_drain_format : Instr.wf (.tdrain ⟨⟨0, false⟩, .l 0, .l 1, .zero, .mxfp8, .fp32, true, .rne, false, .identity, .plain⟩) = false := by decide +kernel
theorem test_wf_drain_gate : Instr.wf (.tdrain ⟨⟨0, false⟩, .l 0, .l 1, .zero, .fp32, .fp32, true, .rne, false, .relu, .lstm⟩) = false := by decide +kernel
theorem test_wf_counter : Instr.wf (.cntr ⟨⟨0, false⟩, .l 0, .lit 16, false⟩) = false := by decide +kernel
theorem test_wf_event_row : Instr.wf (.turn 0) = false := by decide +kernel

/-! ### Words written out from the encodings of the spec (02 Table 2.4) -/

theorem test_spec_words : Obligations.SpecWordsDecode := by unfold Obligations.SpecWordsDecode; decide +kernel
/-- 04 Table 4.8. -/
theorem test_decode_mfc : decode 0x1300A0000000034040000000 =
    some (.mfc ⟨⟨0, false⟩, .l 5, 0x00D⟩) := by decide +kernel
/-- 05 R103. -/
theorem test_decode_create_shared : decode 0x0CBA40000000000000000000 =
    some (.create ⟨⟨3, true⟩, .s 2⟩) := by decide +kernel
/-- 04 Table 4.18. -/
theorem test_decode_fadd : decode 0x450020800000110001002000 =
    some (.fadd ⟨⟨0, false⟩, .l 1, .l 2, .reg (.g 4), true, .rtz⟩) := by decide +kernel
/-- 07 Table 7.3. -/
theorem test_decode_ld_signed : decode 0x5000F07FFFFFFE0074000009 =
    some (.ld ⟨⟨0, false⟩, .l 7, ⟨.g 1, .lit 0xFFFFFFF8⟩, .b16, true, .acq, .sys⟩) := by decide +kernel
/-- 07 Table 7.3. -/
theorem test_decode_fence_engines : decode 0x59000000000000001C000020 =
    some (.fence ⟨⟨0, false⟩, .acqrel, .clu, true⟩) := by decide +kernel
/-- 07 Table 7.3. -/
theorem test_decode_tagw_empty : decode 0x580000C00000043868000803 =
    some (.tagw ⟨⟨0, false⟩, ⟨.l 3, .lit 16⟩, .zero, .empty, .rel, .dev⟩) := by decide +kernel
/-- 07 Table 7.3. -/
theorem test_decode_put_wait : decode 0x550000C00000003040000013 =
    some (.putWait ⟨⟨0, false⟩, ⟨.l 3, .lit 0⟩, .d 0, .rlx, .core⟩) := by decide +kernel
/-- 07 Table 7.3. -/
theorem test_decode_tset : decode 0x690081400000134040000000 =
    some (.tset ⟨⟨0, false⟩, .l 4, .l 5, .lit 77⟩) := by decide +kernel
/-- 11 Table 11.5. -/
theorem test_decode_barw : decode 0x720E00800000024030000000 =
    some (.barw ⟨⟨0, false⟩, .zero, ⟨.l 2, .reg (.l 9)⟩, .sys⟩) := by decide +kernel
/-- 17 R335. -/
theorem test_decode_lkacq : decode 0x770030400000000060000000 =
    some (.lkacq ⟨⟨0, false⟩, .l 1, ⟨.g 1, .lit 0⟩, .dev⟩) := by decide +kernel
/-- 17 R343. -/
theorem test_decode_wqry_record : decode 0x82009C000000000000000006 =
    some (.wqry ⟨⟨0, false⟩, .l 4, ⟨.zero, .lit 0⟩, .cobj, .core⟩) := by decide +kernel
/-- 13 R251. -/
theorem test_decode_eapp_max : decode 0x8E0000C00000010280000002 =
    some (.eapp ⟨⟨0, false⟩, .l 3, .reg (.l 4), .l 5, .max⟩) := by decide +kernel
/-- 09 Table 9.4. -/
theorem test_decode_vst : decode 0x9C0010000000200042001800 =
    some (.vst ⟨⟨0, false⟩, 0, .g 0, 128, .b64, .rlx, .core, none⟩) := by decide +kernel
/-- 09 Table 9.4. -/
theorem test_decode_vadd_masked : decode 0xA4006040000000800140401E =
    some (.vadd ⟨⟨0, false⟩, 3, 1, .v 2, .fp32, true, .rup, false, some ⟨6, true⟩⟩) := by decide +kernel
/-- 09 Table 9.4. -/
theorem test_decode_vcmp : decode 0xB104404000001900402004A0 =
    some (.vcmp ⟨⟨0, false⟩, 2, 1, .lit 100, 5, .i32, true, none⟩) := by decide +kernel
/-- 09 Table 9.4. -/
theorem test_decode_vcvt_half : decode 0xB30081400000000001468020 =
    some (.vcvt ⟨⟨0, false⟩, 4, 5, .fp32, .fp16, true, .sr, false, 1, none⟩) := by decide +kernel
/-- 09 Table 9.4. -/
theorem test_decode_vrsum : decode 0xB60107C0000000000160E000 =
    some (.vrsum ⟨⟨0, false⟩, .l 8, 31, .fp16, true, .dyn, false, none⟩) := by decide +kernel
/-- 10 R208. -/
theorem test_decode_vmset : decode 0xD00500000000044040300000 =
    some (.vmset ⟨⟨0, false⟩, .q 0, .lit 17, true⟩) := by decide +kernel
/-- 10 Table 10.5. -/
theorem test_decode_vmmac : decode 0xD5002080000000C000201000 =
    some (.vmmac ⟨⟨0, false⟩, 1, 2, .v 3, false, 2, none⟩) := by decide +kernel
/-- 10 Table 10.7. -/
theorem test_decode_vauto : decode 0xDB00208000000140403018C0 =
    some (.vauto ⟨⟨0, false⟩, 1, 2, .lit 5, 6, true, 3, none⟩) := by decide +kernel
/-- 12 Table 12.5. -/
theorem test_decode_rstat : decode 0xE300C00000000000000000BF =
    some (.rstat ⟨⟨0, false⟩, .l 6, 31, .pop⟩) := by decide +kernel
/-- 12 Table 12.5. -/
theorem test_decode_tdrain : decode 0xE7000040000000B801542019 =
    some (.tdrain ⟨⟨0, false⟩, .l 1, .l 2, .zero, .bf16, .fp32, true, .rtz, true, .sigmoid, .bias⟩) := by decide +kernel
/-- 16 R321. -/
theorem test_decode_ngrp : decode 0xF00030000000400060000000 =
    some (.ngrp ⟨⟨0, false⟩, .l 1, ⟨.g 0, .lit 256⟩, .dev⟩) := by decide +kernel
/-- 20 R397. -/
theorem test_decode_cntr : decode 0xF500A000000000C040000000 =
    some (.cntr ⟨⟨0, false⟩, .l 5, .lit 3, false⟩) := by decide +kernel

/-- 02 R33. -/
theorem test_refuse_opcode_zero : decode 0x000000000000000000000000 = none := by decide +kernel
/-- 02 R33. -/
theorem test_refuse_opcode_unassigned : decode 0x840000000000000000000000 = none := by decide +kernel
/-- 02 R26. -/
theorem test_refuse_unused_field : decode 0x010000000000000080000000 = none := by decide +kernel
/-- 02 R26. -/
theorem test_refuse_literal_flag : decode 0x010000000000000040000000 = none := by decide +kernel
/-- 02 R26. -/
theorem test_refuse_register_high_bits : decode 0x20002080000020C000000000 = none := by decide +kernel
/-- 02 Table 2.6. -/
theorem test_refuse_global_destination : decode 0x20080080000000C000000000 = none := by decide +kernel
/-- 02 Table 2.5. -/
theorem test_refuse_reserved_register : decode 0x20003DC0000000C000000000 = none := by decide +kernel
/-- 02 R32. -/
theorem test_refuse_reserved_rounding : decode 0x45002080000000C00000A000 = none := by decide +kernel
/-- 02 R32. -/
theorem test_refuse_reserved_format : decode 0xA4002080000000C001D00000 = none := by decide +kernel
/-- 02 R27. -/
theorem test_refuse_guard_negated : decode 0x018000000000000000000000 = none := by decide +kernel
/-- 09 R182. -/
theorem test_refuse_mask_without_msk : decode 0xA4002080000000C001400006 = none := by decide +kernel

/-! ### Witnesses: a state and operands that meet the hypotheses of each statement

The states are small: one thread with a full window, and only what the statement needs besides. -/

namespace Sys2Proof.Tests

/-- Executed always. -/
def alw : Guard := ⟨0, false⟩

/-- A running thread with a full window, L0 = 12, L1 = 0x2000, L2 = 3. -/
def thread : Thread := { Thread.idle with
  tid := 7
  core := 3
  life := .running 0
  win := ⟨64, 16, 16⟩
  l := (Vector.replicate 64 0 |>.set 0 12 |>.set 1 0x2000 |>.set 2 3)
  dfull := 1
  pc := 0x1000 }

/-- Its turn. -/
def W : State := { State.reset with
  busy := true
  inTurn := true
  cur := thread }

/-- The same turn with another thread. -/
def W.on (t : Thread) : State := { W with cur := t }

/-- The turn of a thread whose line holds ADD L3, D0, L2, with every feature committed. -/
def W.line : State := State.reset.withFetchWord 96 0x200078000000008000000000

/-- A line whose slots 0 and 1 are the pair MOV L1, 5; CSTAT L2, ZERO. -/
def pairLine : Line :=
  let w1 := 0x400020000000014040000000
  let w2 := 0x91005C000000000000000000
  let lw := (if oddOnes w1 96 then 1 else 0) + (if oddOnes w2 96 then 2 else 0) + 2 ^ 6 + 29 * 2 ^ 10
  let lw := if oddOnes lw 32 then lw + 2 ^ 5 else lw
  BitVec.ofNat 512 (w1 + w2 * 2 ^ 96 + lw * 2 ^ 480)

/-- The turn of a thread at that pair. -/
def W.pair : State := { W.line with cur := { W.line.cur with lines := [⟨0, pairLine, none, false, false, none⟩] } }

/-- The outcome is a next state of which `p` holds. -/
def answers (o : Host.Outcome State Fault Refusal) (p : State → Bool) : Bool :=
  match o with
  | .next t => p t
  | _ => false

end Sys2Proof.Tests

open Sys2Proof.Tests

namespace Sys2Proof.Tests

/-- A launch placed on core 3: 100 family records, 64 registers a core. -/
def launch : Launch := { launchOf (Vector.replicate 40 0 |>.set 8 (64 * 2 ^ 12 + 8) |>.set 10 100) 0 with
  state := .started
  place := [3] }

/-- A family of that launch with handle 2^32, one member a block, no member yet. -/
def family : Fam := { familyOf thread [3] 4 with record := 1, fid := 0 }

/-- The turn of the thread, which is member 2 of that family. -/
def W.inLaunch : State := { W with
  cur := { thread with k := 2, dealt := 3, win := ⟨64, 16, 1⟩, staged := { thread.staged with step := 1, block := 1 } }
  launches := [(0, launch)]
  fams := [(0, family)] }

/-- L1 names word 0x100 of the scratchpad of core 5, as a cluster address. -/
def W.far : State := W.on { thread with l := thread.l.set 1 0xFE00000000140100 }

/-- L1 names word 0x100 of the own scratchpad. -/
def W.own : State := W.on { thread with l := thread.l.set 1 0xFF00000000000100 }

/-- A request of thread 7 for the word at 0x100 of scratchpad 3. -/
def request (op : HomeOp) : Req where
  tid := 7
  fam := 0
  launch := 0
  src := 3
  pos := 0
  fidIndex := 0
  va := 0xFF00000000000100
  loc := .sp 3 0x100
  op := op
  kind := 0
  scope := .core
  posted := false
  app := true
  elem := 0
  vec := false
  opc := 0x50
  who := 0
  ivl := 0
  phase := none
  held := []
  parts := []

/-- The key of that word. -/
def wordKey : Nat := (Loc.sp 3 0x100).key

/-- The word is EMPTY. -/
def W.empty : State := { W with mem := W.mem.setTag wordKey .empty }

end Sys2Proof.Tests

namespace Sys2Proof.Tests

/-- The state that a computation leaves. -/
def after {α : Type} (c : M α) (s : State) : State :=
  match c s with
  | .ok (_, t) => t
  | .error _ => s

/-- The computation answers v. -/
def runs {α : Type} [DecidableEq α] (c : M α) (s : State) (v : α) : Bool :=
  match c s with
  | .ok (a, _) => decide (a = v)
  | .error _ => false

theorem gives_after {α : Type} [DecidableEq α] {c : M α} {s : State} {v : α} (h : runs c s v = true) :
    Gives c s v (after c s) := by
  unfold runs at h
  unfold Gives after
  split at h
  · next a t e => rw [e]; simp only [decide_eq_true_eq] at h; rw [h]
  · simp at h

theorem gives_same {α : Type} [DecidableEq α] {c : M α} {s : State} {v : α}
    (h : runs c s v = true ∧ after c s = s) : Gives c s v s := by
  have g := gives_after h.1
  rwa [h.2] at g

/-- The computation answers an error of which p holds. -/
def fails {ε α : Type} (x : Except ε α) (p : ε → Bool) : Bool :=
  match x with
  | .error e => p e
  | .ok _ => false

/-- L1 names a record in the own scratchpad. -/
def W.withRec (rec : List Word) : State := { W.own with mem := W.mem.writeWords wordKey rec }

/-- Two words of the own scratchpad to another place in it. -/
def copyRec : List Word := [0xFF00000000000200, 0xFF00000000000300, 0, 0x300000000, 2, 0, 0, 0]

/-- One region of 2^12 bytes of I32 elements, 64 bytes of bins. -/
def binRec : List Word := [0x1000, 0x4000, 0x10C02, 64, 0, 0, 0, 0]

/-- A group of one contribution, I64, at address 0x40. -/
def groupRec : List Word := [0x40, 0x3000001, 0, 0, 0, 0, 0, 0]

/-- A bin set at rest. -/
def binSet : BinSet where
  gen := 1
  live := true
  launch := 0
  asid := 0
  desc := binRec
  recs := []
  dropped := 0
  app := true
  core := 3
  runner := none
  runFam := 0
  runWho := 0
  runIvl := 0
  runFree := false
  reserved := none
  paused := false
  skips := []

def group : RedGroup where
  gen := 1
  live := true
  launch := 0
  cfg := 0x3000001
  raddr := 0x40
  sys := false
  cur := 0
  now := []
  next := []
  prev := []
  badPrev := false
  badNow := false
  badNext := false
  rounds := 0
  err := 0
  inv := false
  ovf := false
  lost := false
  waiters := []

/-- A copy of the thread in flight in slot 5. -/
def copyEng : EngOp where
  id := 9
  tid := 7
  fam := 0
  launch := 0
  core := 3
  app := true
  famid := 0
  index := 0
  ivl := 0
  who := 0
  unit := 0
  kind := .copy 0x88 5 0x105 copyRec
  reads := []
  writes := []
  started := true
  pos := 1
  bad := none
  paused := false
  denied := false

def W.copying : State := { W.modCore 3 fun c => { c with copies := [(5, ⟨1, 0, true, 0, 7⟩)] } with engines := [copyEng] }

/-- A monitor of the line of L1's far word. -/
def mon : Mon := ⟨(Loc.sp 5 0x100).key / 64, 0xFE00000000140100, true, false, false⟩

/-- A claim of four lanes of zeros, whose moduli are 17 with right constants. -/
def claim : Claim := { Claim.fresh 4 4 4 with
  q := Vector.replicate 4 (List.replicate 4 17)
  w := Vector.replicate 4 (List.replicate 4 0x0F0F0F0F0F0F0F0F) }

def W.claimed : State := W.on { thread with claim := some claim, l := thread.l.set 1 0xFE00000000140100 }

end Sys2Proof.Tests

namespace Sys2Proof.Tests

/-- A ring of one slot of 64 KiB in the scratchpad of core 5, with one published slot; `b` makes it a B ring. -/
def ring (b : Bool) : Ring where
  base := 0xFE00000000140000
  cfg := if b then 0x810400 else 0x10400
  res := 1
  pub := 1
  cons := 0
  pop := 0
  published := []
  released := []

/-- Ring 31 of the thread's cluster, in its launch's mask; its slot holds an I8 tile of one row along K. -/
def W.ringed (r : Ring) : State := { W with
  cur := { thread with l := thread.l.set 1 0xFE00000000140000 }
  launches := [(0, { launch with desc := launch.desc.set 14 0x8000000000000000 })]
  clusters := [(0, { Cluster.reset with rings := [(31, r)], arrays := [(2, ⟨some 7, 0, 0, 1, 0, false, [], false, false⟩)] })]
  mem := W.mem.writeWords (Loc.sp 5 0).key [0x10000, 0] }

/-- No thread issues; the threads are those given. -/
def idle (l : List Thread) : State := { State.reset with threads := l.map fun t => (t.tid, t) }

/-- An access table entry with every right. -/
def entry (target mid : Nat) : Nat × Word := (target * 256, BitVec.ofNat 64 (mid + 15 * 2 ^ 16))

end Sys2Proof.Tests

/-! ### Single steps and operations against the worked examples of the spec -/

namespace Sys2Proof.Tests

/-- The thread with two more register values, L10 and L11. -/
def two (x y : Word) : State := W.on { thread with l := (thread.l.set 10 x).set 11 y }

/-- The instruction leaves v in L5 and the flags f, and goes on in sequence. -/
def givesL5 (i : Instr) (s : State) (v : Word) (f : Word) : Bool :=
  answers (exec i s) fun t => t.cur.l[5] = v && t.cur.status = s.cur.status ||| f && t.flow = .seq

/-- A claim of four lanes whose V1 and V2 are given, with modulus 0 and its constant. -/
def lanes (a b : List Word) (q w : Word) : State :=
  let c := Claim.fresh 4 4 4
  W.on { thread with claim := some { c with
    v := (c.v.set 1 a).set 2 b, q := c.q.set 0 (List.replicate 4 q), w := c.w.set 0 (List.replicate 4 w) } }

/-- The instruction leaves these lanes in V0. -/
def givesV0 (i : Instr) (s : State) (v : List Word) : Bool :=
  answers (exec i s) fun t => (t.cur.claim.map fun c => c.v[0]) = some v

end Sys2Proof.Tests

/-- 02: slot 3 of line 0x10040 and offset 9. -/
theorem test_branch_offset : slotAdd 0x10043 9 = 0x100C2 := by decide +kernel
/-- 02 Table 2.3: the example line's parity holds, and with its first branch mark dropped it does not. -/
theorem test_line_parity :
    let l := 0x2E002000000000C040000000 + 0x200030000000004000000000 * 2 ^ 96 +
      0x200078000000008000000000 * 2 ^ 192 + 2 ^ 88 * 2 ^ 288 + 2 ^ 88 * 2 ^ 384
    parityOk (BitVec.ofNat 512 (l + 0x438 * 2 ^ 480)) [0, 1, 2, 3, 4] = true ∧
    parityOk (BitVec.ofNat 512 (l + 0x38 * 2 ^ 480)) [0, 1, 2, 3, 4] = false := by decide +kernel
/-- 03: a shared written twice with the trap delegated. -/
theorem test_double_write :
    let s := W.on { thread with swr := 4, sv := thread.sv.set 2 5, tmask := BitVec.ofNat 64 (2 ^ 0x20), thand := 0x3000 }
    answers (exec (.mov ⟨alw, .s 2, .lit 9⟩) s) (fun t =>
      t.cur.sv[2] = 5 && t.cur.ubank.cause = 0x20 && t.cur.ubank.tpc = 0x1000 && t.cur.status.getLsbD 4 &&
      t.cur.pc = 0x3000) = true := by decide +kernel
/-- 03: W of the largest window is 112, of a window (4, 1, 1) it is 8. -/
theorem test_window_size : windowSize ⟨64, 16, 16⟩ = 112 ∧ windowSize ⟨4, 1, 1⟩ = 8 := by decide +kernel
/-- 04 R75. -/
theorem test_add_wraps : givesL5 (.add ⟨alw, .l 5, .l 10, .lit 1⟩) (two (-1) 0) 0 0 = true := by decide +kernel
/-- 04: DIVS of −7 by 2, REMS, and DIVU of 7 by 0. -/
theorem test_divs : givesL5 (.divs ⟨alw, .l 5, .l 10, .lit 2⟩) (two (-7) 0) (-3) 0 = true := by decide +kernel
theorem test_rems : givesL5 (.rems ⟨alw, .l 5, .l 10, .lit 2⟩) (two (-7) 0) (-1) 0 = true := by decide +kernel
theorem test_divu_by_zero : givesL5 (.divu ⟨alw, .l 5, .l 10, .lit 0⟩) (two 7 0) (-1) flagDZ = true := by decide +kernel
/-- 04: MOV.hi over 0x89ABCDEF. -/
theorem test_mov_high : givesL5 (.movHi ⟨alw, .l 5, .l 10, 0x01234567⟩) (two 0x89ABCDEF 0) 0x0123456789ABCDEF 0 = true := by
  decide +kernel
theorem test_mov_upper_literal : givesL5 (.mov ⟨alw, .l 5, .ulit 0x89ABCDEF⟩) W 0x89ABCDEF 0 = true := by decide +kernel
/-- 04: FADD of 1.5 and 2.25. -/
theorem test_fadd : givesL5 (.fadd ⟨alw, .l 5, .l 10, .lit 0x40100000, true, .rne⟩) (two 0x3FC00000 0) 0x40700000 0 = true := by
  decide +kernel
/-- 04 Table 4.21. -/
theorem test_fcvt_tie : givesL5 (.fcvt ⟨alw, .l 5, .l 10, true, .bf16, .fp32, .rne⟩) (two 0x3F808000 0) 0x3F80 flagNX = true := by
  decide +kernel
theorem test_fcvt_up : givesL5 (.fcvt ⟨alw, .l 5, .l 10, true, .bf16, .fp32, .rup⟩) (two 0x3F808000 0) 0x3F81 flagNX = true := by
  decide +kernel
theorem test_fcvt_saturates :
    givesL5 (.fcvt ⟨alw, .l 5, .l 10, false, .e4m3, .fp32, .rne⟩) (two 0x43FA0000 0) 0x7E (flagOF ||| flagNX) = true := by
  decide +kernel
theorem test_fcvt_overflows :
    givesL5 (.fcvt ⟨alw, .l 5, .l 10, true, .e4m3, .fp32, .rne⟩) (two 0x43FA0000 0) 0x7F (flagOF ||| flagNX) = true := by
  decide +kernel
/-- 04: −2.7 under RTZ and RNE, 3.0 × 10⁹, and 16,777,217. -/
theorem test_icvt_rtz : givesL5 (.icvt ⟨alw, .l 5, .l 10, .i32, .fp32, .rtz, false⟩) (two 0xC02CCCCD 0) (-2) flagNX = true := by
  decide +kernel
theorem test_icvt_rne : givesL5 (.icvt ⟨alw, .l 5, .l 10, .i32, .fp32, .rne, false⟩) (two 0xC02CCCCD 0) (-3) flagNX = true := by
  decide +kernel
theorem test_icvt_saturates :
    givesL5 (.icvt ⟨alw, .l 5, .l 10, .i32, .fp32, .rne, false⟩) (two 0x4F32D05E 0) 0x7FFFFFFF (flagNV ||| flagOF ||| flagNX) = true := by
  decide +kernel
theorem test_icvt_to_float :
    givesL5 (.icvt ⟨alw, .l 5, .l 10, .fp32, .i64, .rne, false⟩) (two 16777217 0) 0x4B800000 flagNX = true := by
  decide +kernel
/-- 05: START 100, LIMIT 80, STEP −2 has 10 members; 05 Table 5.12, the deal. -/
theorem test_member_count : memberCount 100 80 (-2) = 10 := by decide +kernel
theorem test_deal :
    let f := { familyOf thread [394, 395, 396] 10 with st := { thread.staged with block := 3 } }
    f.dealt 2 = 394 ∧ f.dealt 5 = 395 ∧ f.dealt 8 = 396 ∧ f.dealt 9 = 394 := by decide +kernel
/-- 08 Table 8.4. -/
theorem test_t8 : (decodeTap 8 0x5C).scaled (-3) = 28 ∧ (decodeTap 8 0xB8).scaled (-4) = -24 ∧
    (decodeTap 8 0x7F).scaled 0 = 4096 ∧ (decodeTap 8 0x01).scaled (-12) = 1 := by decide +kernel
theorem test_t6 : (decodeTap 6 0x12).scaled (-2) = 6 ∧ (decodeTap 6 0x1F).scaled 0 = 256 := by decide +kernel
theorem test_formats : (decodeFlt fp16 0x7BFF).scaled 0 = 65504 ∧ (decodeFlt e4m3 1).scaled (-9) = 1 ∧
    (decodeFlt bf16 0x4049).scaled (-6) = 201 ∧ (decodeFlt e2m1 15).scaled 0 = -6 ∧
    decodeFlt e5m2 0x7D = .nan true ∧ decodeFlt e4m3 0xFF = .nan false := by decide +kernel
/-- 09: VRSUM.fp32 is exact before it rounds, and takes the active elements only. -/
theorem test_vrsum :
    let s := lanes [0x3F8000004B800000, 0xCB8000003F800000, 0, 0] [0, 0, 0, 0] 0 0
    givesL5 (.vrsum ⟨alw, .l 5, 1, .fp32, true, .rne, false, none⟩) s 0x40000000 0 = true := by decide +kernel
theorem test_vadd_lanes :
    let s := lanes [0xFFFFFFFF00000001, 0, 0, 0] [0x0000000100000001, 0, 0, 0] 0 0
    givesV0 (.vadd ⟨alw, 0, 1, .v 2, .i32, true, .rne, false, none⟩) s [2, 0, 0, 0] = true := by decide +kernel
/-- 10: q = 17 in 64-bit mode, q = 97 in 32-bit mode. -/
theorem test_vmadd :
    let s := lanes [20, 20, 20, 20] [0, 0, 0, 0] 17 0x0F0F0F0F0F0F0F0F
    givesV0 (.vmadd ⟨alw, 0, 1, .v 2, true, 0, none⟩) s [3, 3, 3, 3] = true := by decide +kernel
theorem test_vmsub :
    let s := lanes [2, 2, 2, 2] [9, 9, 9, 9] 17 0x0F0F0F0F0F0F0F0F
    givesV0 (.vmsub ⟨alw, 0, 1, .v 2, true, 0, none⟩) s [10, 10, 10, 10] = true := by decide +kernel
theorem test_vauto :
    let s := W.on { thread with claim := some (let c := Claim.fresh 8 8 8
      { c with v := c.v.set 1 [1, 2, 3, 4, 0, 0, 0, 0], q := c.q.set 0 (List.replicate 8 17),
               w := c.w.set 0 (List.replicate 8 0x0F0F0F0F0F0F0F0F) }) }
    givesV0 (.vauto ⟨alw, 0, 1, .lit 3, 3, true, 0, none⟩) s [1, 13, 0, 2, 0, 0, 3, 0] = true := by decide +kernel
/-- 11: the header for queue 1 of core 2.7.45 in package 0 names that core. -/
theorem test_send_core : sendCore 0x000000AB020013AD = (2 * 12 + 7) * 128 + 45 := by decide +kernel
/-- 12: rows of 48 bytes and the scale bytes at payload byte 3,072. -/
theorem test_tile : elemArea false 10 70 = 64 * 48 ∧ elemArea false 10 70 = 3072 ∧ scaleCount 10 70 = 3 := by decide +kernel
/-- 13: element (33, 2) has index 0x0806. -/
theorem test_morton : mortonRow 0x0806 = 33 ∧ mortonCol 0x0806 = 2 := by decide +kernel
/-- 16: 3.0, 2⁻³⁰, −3.0 and 2⁻³⁰ reduce to 2⁻²⁹. -/
theorem test_reduction :
    let cfg : Word := 0x4000000
    let m := fun (l : List Word) => l.foldl (fun a x => redMerge cfg a (redOne cfg x)) RedAcc.zero
    (redResult cfg (m [0x40400000, 0x30800000, 0xC0400000, 0x30800000])).1 = 0x31000000 := by decide +kernel
/-- 18: the store of a launch of 64 entries, depth 2, with modular lanes, over four cores. -/
theorem test_store_size :
    storeSize (launchOf (Vector.replicate 40 0 |>.set 8 (2048 * 2 ^ 12 + 64) |>.set 6 (2 * 2 ^ 24)) 0) 4 true = 17121280 := by
  decide +kernel
/-- 19 R371: 0x30001240 lies at slice 18 of die 0; in paired mode offset 0x5300 of the LPDDR at slice 35 of die 1. -/
theorem test_home : sliceOf false 0x30001240 = (0, 18) ∧ sliceOf true 0x10000005300 = (1, 35) := by decide +kernel
/-- A word of the table is decoded and placed where the next step fetches it. -/
theorem test_table_word :
    decodeTableWord 96 0x200078000000008000000000 = some (.add ⟨alw, .l 3, .d 0, .reg (.l 2)⟩) ∧
    answers (step (State.reset.withFetchWord 96 0x400060000000004040000000)) (fun t => (tabGet t.threads 0).any fun x => x.l[3] = 1 && x.pc = 1) = true := by
  decide +kernel

/-! ### Each statement with hypotheses: what meets them -/

theorem witness_DecodeOfEncode :
    let i : Instr := .madd ⟨⟨7, true⟩, .txe, .l 63, .ulit 0xFFFFFFFF, .g 15⟩
    i.wf = true ∧ (guardOf i).isSome = true := by decide +kernel
theorem witness_EncodeOfDecode :
    decode 0x2E002000000000C040000000 = some (.shl ⟨⟨0, false⟩, .l 1, .l 0, .lit 3⟩) := by decide +kernel

theorem witness_StepRunsTheDecodedInstruction : ∃ h,
    let s := W.line
    s.busy = true ∧ s.cur.dlPend = none ∧ s.cur.half = none ∧ s.cur.lineAt (lineAddr s.cur.pc) = some h ∧
    lineFirst (lineWord h.bits) (bits s.cur.pc 2 0) = false ∧ lineCheck s.cur h [bits s.cur.pc 2 0] = none ∧
    decodeIn s.cur.win (lineSlot h.bits (bits s.cur.pc 2 0)) = .ok (.add ⟨alw, .l 3, .d 0, .reg (.l 2)⟩) ∧
    s.featFails (Fields.unpack (lineSlot h.bits (bits s.cur.pc 2 0))) = none ∧
    privFails s.cur (Fields.unpack (lineSlot h.bits (bits s.cur.pc 2 0))) = false ∧
    s.breakpoints [s.cur.pc] = (none, s) :=
  ⟨_, by decide +kernel, by decide +kernel, by decide +kernel, rfl, by decide +kernel, by decide +kernel,
    by decide +kernel, by decide +kernel, by decide +kernel, by decide +kernel⟩

theorem witness_StepRunsAPairInOrder : ∃ h p s1 t u,
    let s := W.pair
    let a : Instr := .mov ⟨alw, .l 1, .lit 5⟩
    let b : Instr := .cstat ⟨alw, .l 2, .zero⟩
    s.busy = true ∧ s.cur.dlPend = none ∧ s.cur.half = none ∧ s.cur.lineAt (lineAddr s.cur.pc) = some h ∧
    lineFirst (lineWord h.bits) (bits s.cur.pc 2 0) = true ∧
    lineCheck s.cur h [bits s.cur.pc 2 0, bits s.cur.pc 2 0 + 1] = none ∧
    s.checkWord (lineSlot h.bits (bits s.cur.pc 2 0)) = .ok a ∧
    s.checkWord (lineSlot h.bits (bits s.cur.pc 2 0 + 1)) = .ok b ∧
    pairOk (Fields.unpack (lineSlot h.bits (bits s.cur.pc 2 0))).op.toNat
      (Fields.unpack (lineSlot h.bits (bits s.cur.pc 2 0 + 1))).op.toNat a b = true ∧
    s.lineReady = true ∧ s.breakpoints (issuePcs s.cur) = (none, s) ∧
    exec b s.noteIssued = .next p ∧ p.flow.reissues = false ∧ p.flow ≠ .trapped ∧
    s.noteIssued.reserveSecond b p.cur = .ok s1 ∧ exec a s1 = .next t ∧ t.flow = .seq ∧
    exec b { t.updCur (fun x => { x with half := none, halfDone := true }) with second := true } = .next u ∧
    u.flow = .seq :=
  ⟨_, _, _, _, _, by decide +kernel, by decide +kernel, by decide +kernel, rfl, by decide +kernel, by decide +kernel,
    by decide +kernel, by decide +kernel, by decide +kernel, by decide +kernel, by decide +kernel, rfl,
    by decide +kernel, by decide +kernel, rfl, rfl, by decide +kernel, rfl, by decide +kernel⟩

theorem witness_StepsRunTheAgenda :
    let s : State := { State.reset with agenda := [.patrolScrub 0] }
    s.busy = false ∧ s.agenda = .patrolScrub 0 :: [] ∧ guardOf (.patrolScrub 0) = none := by decide +kernel

theorem witness_GuardZeroHasNoEffect :
    guardOf (.exit ⟨⟨1, false⟩⟩) = some ⟨1, false⟩ ∧
      (((1 : Fin 8).val = 0 || W.cur.preds.getLsbD 1) != false) = false := by decide +kernel

theorem witness_SourcesReadTheirRegisters :
    ({ thread with ecc := [7] }).ecc.contains (SReg.l 7).code.toNat = true ∧
      W.cur.ecc.contains (SReg.l 7).code.toNat = false ∧ W.cur.dfull.getLsbD 0 = true ∧
      W.cur.dfull.getLsbD 15 = false ∧ W.cur.swr.getLsbD 15 = false ∧
      ({ thread with ecc := [0x60] }).ecc.contains (SReg.d 0).code.toNat = true ∧
      ({ thread with swr := 1 }).swr.getLsbD 0 = true ∧
      W.rxPacket W.cur = none ∧
      (let p : Packet := ⟨1, 8, 0, 3, 0, 0, 0x180, [(5, false), (6, true)], true, true, .entry, none, 0, some true, 0, 0⟩
       let s (k : Nat) : State := W.modCore 3 fun x => { x with
         packets := [{ p with taken := k }], rxq := x.rxq.set 0 [1] }
       (s 0).rxPacket W.cur = some p ∧ p.flits.getD 0 (0, false) = (5, false) ∧ 0 + 1 < p.flits.length ∧
       (s 1).rxPacket W.cur = some { p with taken := 1 } ∧ p.flits.getD 1 (0, false) = (6, true) ∧
       p.flits.length ≤ 1 + 1) := by decide +kernel

theorem witness_DestinationsAreWritten :
    ({ thread with swr := 0x8000 }).swr.getLsbD 15 = true ∧
      (∃ t, Gives (writeD (.s 15) 5) W .seq t) ∧
      ({ thread with packet := some ⟨0, []⟩ }).packet.isSome = true ∧ W.cur.packet = none ∧
      31 ≤ (List.replicate 31 (0 : Word)).length ∧
      (bits (2 ^ 27 : Word) 31 27 ≠ 0 ∧ bits (2 ^ 48 : Word) 63 48 ≠ 0 ∧ 12 ≤ bits (12 * 2 ^ 7 : Word) 10 7 ∧
        W.npkg ≤ bits (2 ^ 13 : Word) 24 13 ∧
        (W.modCluster 0 fun c => { c with encnt := 124 }).countIn (bits (124 : Word) 24 13)
          (bits (124 : Word) 12 11 * 12 + bits (124 : Word) 10 7) ≤ bits (124 : Word) 6 0) ∧
      (let v : Word := 0x20013AD
       bits v 31 27 = 0 ∧ bits v 63 48 = 0 ∧ bits v 10 7 < 12 ∧ bits v 24 13 < W.npkg ∧
        bits v 6 0 < W.countIn (bits v 24 13) (bits v 12 11 * 12 + bits v 10 7)) :=
  ⟨by decide +kernel, ⟨_, rfl⟩, by decide +kernel, by decide +kernel, by decide +kernel, by decide +kernel,
    by decide +kernel⟩

theorem witness_TwoOperandIntegerResults : ∃ x t,
    binaryForm (.add ⟨alw, .l 5, .l 0, .reg (.l 2)⟩) = some x ∧ W.cur.guardOn x.g = true ∧
    Gives (checkDst x.d) W () W ∧ Gives (readOpt readS x.a) W 12 W ∧ Gives (readOpt operandB x.b) W 3 W ∧
    Gives (readOpt readS x.c) W 0 W ∧
    Gives (writeD x.d (x.f W.cur 12 3 0).1) (W.flagged (x.f W.cur 12 3 0).2) .seq t :=
  ⟨_, _, rfl, rfl, rfl, rfl, rfl, rfl, rfl⟩

theorem witness_ClampedAndDividedResults : ∃ x t,
    flaggingForm (.divu ⟨alw, .l 5, .l 0, .reg .zero⟩) = some x ∧ W.cur.guardOn x.g = true ∧
    Gives (checkDst x.d) W () W ∧ Gives (readOpt readS x.a) W 12 W ∧ Gives (readOpt operandB x.b) W 0 W ∧
    Gives (readOpt readS x.c) W 0 W ∧ (x.f W.cur 12 0 0).2 = flagDZ ∧
    Gives (writeD x.d (x.f W.cur 12 0 0).1) (W.flagged (x.f W.cur 12 0 0).2) .seq t :=
  ⟨_, _, rfl, rfl, rfl, rfl, rfl, rfl, by decide +kernel, rfl⟩

theorem witness_OtherIntegerResults : ∃ x t,
    plainForm (.madd ⟨alw, .l 5, .l 0, .lit 4, .l 2⟩) = some x ∧ W.cur.guardOn x.g = true ∧
    Gives (checkDst x.d) W () W ∧ Gives (readOpt readS x.a) W 12 W ∧ Gives (readOpt operandB x.b) W 4 W ∧
    Gives (readOpt readS x.c) W 3 W ∧
    Gives (writeD x.d (x.f W.cur 12 4 3).1) (W.flagged (x.f W.cur 12 4 3).2) .seq t :=
  ⟨_, _, rfl, rfl, rfl, rfl, rfl, rfl, rfl⟩

theorem witness_ScalarFrame : ∃ t, let i : Instr := .sub ⟨alw, .s 3, .l 0, .lit 1⟩
    scalarDst i = some (.s 3) ∧ exec i W = .next t ∧ t.flow = .seq :=
  ⟨_, by decide +kernel, rfl, by decide +kernel⟩

theorem witness_ComparesAndPredicateLogic :
    W.cur.guardOn alw = true ∧ Gives (readS (.l 0)) W 12 W ∧ Gives (operandB (.lit 17)) W 17 W ∧
      Gives (operandZ (.lit 0x7F800001)) W 0x7F800001 W ∧ nan32 (low32 0x7F800001) = true ∧
      finite32 (low32 12) = true ∧ finite32 (low32 3) = true ∧ Gives (operandZ (.lit 3)) W 3 W :=
  ⟨rfl, rfl, rfl, rfl, by decide +kernel, by decide +kernel, by decide +kernel, rfl⟩

theorem witness_FloatAndConversionResults : ∃ x t y u,
    fpForm (.fadd ⟨alw, .l 5, .l 0, .lit 0x3FC00000, true, .rne⟩) = some x ∧
    W.cur.guardOn x.g = true ∧ Gives (checkDst x.d) W () W ∧ Gives (readS x.a) W 12 W ∧
    Gives (readOpt operandZ x.b) W 0x3FC00000 W ∧ Gives (readOpt readS x.c) W 0 W ∧ x.conv = true ∧
    Gives (writeD x.d (BitVec.ofNat 64 (x.f W (low32 12) (low32 0x3FC00000) (low32 0)).bits))
      ((W.flagged (x.f W (low32 12) (low32 0x3FC00000) (low32 0)).flags).counted) .seq t ∧
    convForm (.fcvt ⟨alw, .l 5, .l 0, true, .fp16, .fp32, .rtz⟩) = some (alw, .l 5, .l 0, y) ∧
    Gives (writeD (.l 5) (BitVec.ofNat 64 (y W 12).bits)) (W.flagged (y W 12).flags).counted .seq u :=
  ⟨_, _, _, _, rfl, rfl, rfl, rfl, rfl, rfl, rfl, rfl, rfl, rfl⟩

theorem witness_RoundingAndSpecialCases :
    finite32 0xFF7FFFFF = true ∧ (nan32 0x7F800001 = true ∧ snan32 0x7F800001 = true ∧ snan32 0x7FC00001 = false ∧
      nan32 0x7FC00001 = true) ∧ 0xFFFFFFFF < 2 ^ 32 ∧
    (inf32 0x7F800000 = true ∧ inf32 0xFF800000 = true ∧ 0x7F800000 ≠ 0xFF800000) ∧
    (zeroInf32 0x80000000 0x7F800000 = true ∧ zeroInf32 0xFF800000 0 = true) ∧
    (zeroInf32 0x3F800000 0xFF800000 = false ∧ (nan32 0x3F800000 || nan32 0xFF800000) = false ∧
      sign32 0x7F800000 ≠ (sign32 0x3F800000 != sign32 0xFF800000)) := by decide +kernel

theorem witness_TransfersReachTheirTargets :
    (bits (4 : Word) 5 3 = 0 ∧ bits (4 : Word) 2 0 ≤ 4 ∧ (linear 4 : Int) + (-4) = 0) ∧
    W.cur.guardOn alw = true ∧ Gives (readS (.l 1)) W 0x2000 W ∧ targetFormFails 0x2000 = false ∧
    (1 ≤ (linear 0x2000 : Int) - linear W.cur.pc ∧ (linear 0x2000 : Int) - linear W.cur.pc ≤ 0x7FFFFFFF) ∧
    targetFormFails (slotAdd W.cur.pc 7) = false ∧
    Gives (checkDst (.l 3)) W () W ∧ (∃ u, Gives (writeD (.l 3) (slotAdd W.cur.pc 1)) W .seq u) ∧
    (∃ u, Gives (writeD .txe (slotAdd W.cur.pc 1)) (W.on { thread with packet := some ⟨3, []⟩ }) .held u) :=
  ⟨by decide +kernel, rfl, rfl, by decide +kernel, by decide +kernel, by decide +kernel, rfl, ⟨_, rfl⟩, ⟨_, rfl⟩⟩

theorem witness_TrapsEnterTheirHandlers :
    Delegated (W.on { thread with tmask := ~~~0, thand := 0x3000 }) .software ∧
    (∃ s : State, ToKernel s .privilege ∧ KernelReady s) ∧ Cause.privilege ≠ .registerEcc :=
  ⟨by unfold Delegated; decide +kernel, ⟨W, by unfold ToKernel KernelReady; decide +kernel⟩, by decide⟩

theorem witness_TrapWithinTheKernelHandlerHalts :
    let s := W.on { thread with status := 0x21 }
    s.busy = true ∧ ToKernel s .misaligned ∧ s.cur.status.getLsbD 5 = true := by unfold ToKernel; decide +kernel

theorem witness_TrapAndBreakpointInstructions :
    W.cur.guardOn alw = true ∧ Gives (operandZ (.lit 9)) W 9 W ∧ Gives (readS (.l 0)) W 12 W ∧
    (W.core W.cur.core).dbg.dctl.getLsbD 0 = false ∧ KernelReady W ∧
    (let s := W.modCore 3 fun c => { c with dbg := { c.dbg with dctl := 1 } }
     (s.core s.cur.core).dbg.dctl.getLsbD 0 = true ∧ (s.core s.cur.core).dbg.dctl.getLsbD 1 = false ∧
       s.busy = true ∧ s.cur.life = .running 0) ∧
    (let s := W.modCore 3 fun c => { c with dbg := { c.dbg with dctl := 3 } }
     (s.core s.cur.core).dbg.dctl.getLsbD 0 = true ∧ (s.core s.cur.core).dbg.dctl.getLsbD 1 = true ∧
       clusterOf 127 = clusterOf s.cur.core ∧ s.coreEnabled 123 = true ∧ s.poolGroup 2 = s.poolGroup s.cur.core ∧
       s.poolGroup 123 ≠ s.poolGroup s.cur.core) :=
  ⟨rfl, rfl, rfl, by decide +kernel, by unfold KernelReady; decide +kernel, by decide +kernel,
    by decide +kernel⟩

theorem witness_TrapReturnRestoresTheBank :
    (let s := W.on { thread with status := 0x10 }
     bits s.cur.status 1 0 = 0 ∧ s.cur.status.getLsbD 4 = true ∧ targetFormFails s.cur.ubank.tpc = false) ∧
    (let s := W.on { thread with status := 0x21 }
     bits s.cur.status 1 0 ≠ 0 ∧ s.cur.status.getLsbD 5 = true ∧ targetFormFails s.cur.kbank.tpc = false) ∧
    (bits W.cur.status 1 0 = 0 ∧ W.cur.status.getLsbD 4 = false) ∧
    (let s := W.on { thread with status := 1 }
     bits s.cur.status 1 0 ≠ 0 ∧ s.cur.status.getLsbD 5 = false) := by decide +kernel

theorem witness_ControlRegistersReadAndWrite :
    W.cur.guardOn alw = true ∧ Gives (checkDst (.l 5)) W () W ∧ (∃ t, Gives (writeD (.l 5) W.cur.status) W .seq t) ∧
    Gives (readS (.l 0)) W 12 W ∧ bits W.cur.status 1 0 = 0 ∧ bits W.cur.prio 6 4 < bits (12 : Word) 2 0 ∧
    bits ({ thread with status := 1 }).status 1 0 ≠ 0 :=
  ⟨rfl, rfl, ⟨_, rfl⟩, rfl, by decide +kernel, by decide +kernel, by decide +kernel⟩

theorem witness_HintsMarkersAndCounters :
    W.cur.guardOn alw = true ∧ Gives (operandZ (.lit 15)) W 15 W ∧ W.ownPending W.cur.tid = false ∧
    W.cur.errRec = none ∧ (∃ s2, W.closePhases W.cur.core .dev = some ([], s2) ∧ s2.cur.errRec = none) ∧
    Gives (readS (.l 0)) W 12 W ∧ Gives (checkDst (.l 5)) W () W ∧
    (let s := { W with atab := [(targetBank (clusterOf 3) * 256, BitVec.ofNat 64 (clusterMaster 3 + 15 * 2 ^ 16))] }
     s.tableAllows (targetBank (clusterOf s.cur.core)) (clusterMaster s.cur.core) true true false = true ∧
       s.cur.packet = none) ∧ (15 : Word).toNat = (15 : Fin 16).val ∧
    Gives (memAddr ⟨.l 1, .lit 8⟩) W 0x2008 W :=
  ⟨rfl, rfl, by decide +kernel, by decide +kernel, ⟨_, rfl, by decide +kernel⟩, rfl, rfl,
    by decide +kernel, by decide, rfl⟩
theorem witness_StagingFillsTheOpenRecord :
    (W.on { thread with openRec := true }).cur.openRec = true ∧ W.inLaunch.freeRecords W.inLaunch.cur.launch ≠ 0 ∧
    W.cur.guardOn alw = true ∧ slotAdd W.cur.pc (5 : BitVec 32).toInt = 0x1040 ∧
    (let s := W.on { thread with openRec := true }
     Gives (operandB (.reg (.l 2))) (s.updCur fun t => { t with openRec := true }) 3 s) ∧
    W.cur.openRec = false ∧ W.freeRecords W.cur.launch = 0 :=
  ⟨rfl, by decide +kernel, rfl, by decide +kernel, rfl, rfl, by decide +kernel⟩

theorem witness_CreateRecordsTheFamily :
    (let s := W.inLaunch
     let st := s.cur.staged
     s.cur.guardOn alw = true ∧ st.step ≠ 0 ∧ 1 ≤ st.block.toNat ∧ st.block.toNat ≤ 256 ∧
     windowWordOk st.window = true ∧ st.flags &&& ~~~1#64 = 0 ∧ s.createPlace s.cur = some [3] ∧
     s.launch? s.cur.launch = some launch ∧ targetFormFails st.entry = false ∧
     windowSize (winOfWord st.window) ≤ launch.regs ∧ memberCount st.start st.limit st.step < 2 ^ 56 ∧
     s.adoptsNow launch (familyOf s.cur [3] (memberCount st.start st.limit st.step)) = false ∧
     s.freeRecords s.cur.launch ≠ 0 ∧ memberCount st.start st.limit st.step = 0) ∧
    (let st := W.cur.staged
     ({ st with step := 0 } : Staged).step = 0 ∧ ({ st with block := 257 } : Staged).block.toNat > 256 ∧
       windowWordOk 0x80 = false) := by decide +kernel

theorem witness_FamilyQueriesAndKill :
    (let s := W.inLaunch
     let s2 := { s with cur := { s.cur with l := s.cur.l.set 0 0x100000000 } }
     Gives (familyAt 0x100000000) s2 (0, family) s2 ∧ Gives (readS (.l 0)) s2 0x100000000 s2 ∧
     Gives (checkDst (.l 5)) s2 () s2 ∧ family.lowest = some 0 ∧ (∃ t, Gives (writeD (.l 5) 4) s2 .seq t)) ∧
    (let f := { family with fin := true, ended := [0, 1, 2, 3], started := [0, 1, 2, 3] }
     let s := { W.inLaunch with fams := [(0, f)] }
     Gives (familyAt 0x100000000) s (0, f) s ∧ f.fin = true ∧ s.cur.errRec = none ∧ f.win.s ≤ 15 ∧
       f.lowest = none) ∧
    (let f := { family with st := { family.st with window := 0x100000 }, started := [0, 1, 2, 3] }
     15 < f.win.s ∧ f.fin = false ∧ f.lowest = none ∧ W.inLaunch.cur.packet = none) ∧
    (∀ p ∈ W.fams, ¬ (p.2.live = true ∧ p.2.launch = W.cur.launch ∧ p.2.handle = 12)) :=
  ⟨⟨rfl, rfl, rfl, by decide +kernel, ⟨_, rfl⟩⟩, ⟨rfl, by decide +kernel, rfl, by decide +kernel, by decide +kernel⟩,
    by decide +kernel, by decide +kernel⟩

theorem witness_MembersEndAndAreGone :
    (W.on { thread with packet := some ⟨0, []⟩ }).cur.packet.isSome = true ∧
    (let l := (List.finRange 16).filter fun n => n.val < W.inLaunch.cur.win.s
     Gives (checkShareds false l) W.inLaunch () W.inLaunch ∧ (∃ s1, Gives (settleShareds false l) W.inLaunch () s1) ∧
     W.inLaunch.fam? 0 = some family ∧ (!family.killed && !family.beyond 2) = true ∧
     Gives (checkShareds true l) W.inLaunch () W.inLaunch ∧
     ∃ s1, Gives (settleShareds true l) (W.inLaunch.modFam 0 fun f => f.breakAt 2) () s1) ∧
    W.inLaunch.cur.packet = none ∧
    W.inLaunch.busy = true ∧ W.inLaunch.cur.host = none ∧ W.inLaunch.fam? W.inLaunch.cur.fam = some family ∧
    (∀ p ∈ W.inLaunch.threads, p.2.tid ≠ W.inLaunch.cur.tid) :=
  ⟨rfl, ⟨rfl, ⟨_, rfl⟩, rfl, by decide +kernel, rfl, ⟨_, rfl⟩⟩, rfl, rfl, rfl, rfl, by decide +kernel⟩

theorem witness_AccessesAreSentOrComplete :
    (∃ x, memForm (.ld ⟨alw, .l 5, ⟨.l 1, .lit 0⟩, .b64, false, .rlx, .clu⟩) = some x ∧
      (let s := W.far
       s.cur.guardOn x.g = true ∧ s.cur.packet = none ∧ Gives x.operands s (0xFE00000000140100, 0, 0) s ∧
       x.cOk 0 = true ∧ Gives (locate 0xFE00000000140100 x.align x.acc x.sc 0) s (.sp 5 0x100, false) s ∧
       Gives (boardCheck 0xFE00000000140100 (x.op 0 0).len (x.op 0 0).stores) s () s ∧
       Released (x.ask 0xFE00000000140100 0 0) s [] s)) ∧
    (∃ x s2 held, memForm (.st ⟨alw, ⟨.l 1, .lit 0⟩, .l 0, .b64, .rel, .clu⟩) = some x ∧
      (let s := W.far
       Gives x.operands s (0xFE00000000140100, 0, 12) s ∧ x.comp = none ∧
       Released (x.ask 0xFE00000000140100 0 12) s held s2)) ∧
    (∃ x s2 t, memForm (.aadd ⟨alw, .l 5, ⟨.l 1, .lit 0⟩, .l 0, .b64, .rlx, .core⟩) = some x ∧
      (let s := W.own
       Gives x.operands s (0xFF00000000000100, 0, 12) s ∧
       Gives (locate 0xFF00000000000100 x.align x.acc x.sc 0) s (.sp 3 0x100, true) s ∧
       Gives (boardCheck 0xFF00000000000100 (x.op 0 12).len (x.op 0 12).stores) s () s ∧
       Released (x.ask 0xFF00000000000100 0 12) s [] s ∧
       (let q := s.request (x.ask 0xFF00000000000100 0 12) (.sp 3 0x100) x.comp.isNone false 0 []
        s.wordPending q = false ∧ (s.core s.cur.core).bankUsed.getLsbD (bankOf (.sp 3 0x100)) = false ∧
        s.performOne q = (.done (.ok 0 0), s2) ∧ Gives (finish (.reg (.l 5)) 0 0 x.acq) s2 .seq t))) ∧
    (∃ x, memForm (.ld ⟨alw, .l 5, ⟨.l 0, .lit 0⟩, .b64, false, .rlx, .clu⟩) = some x ∧
      Gives x.operands W (12, 0, 0) W ∧ (12 : Word).toNat % x.align ≠ 0) :=
  ⟨⟨_, rfl, rfl, rfl, rfl, rfl, rfl, rfl, ⟨rfl, rfl⟩⟩, ⟨_, _, _, rfl, rfl, rfl, ⟨rfl, rfl⟩⟩,
    ⟨_, _, _, rfl, rfl, rfl, rfl, ⟨rfl, rfl⟩, by decide +kernel, by decide +kernel, rfl, rfl⟩,
    ⟨_, rfl, rfl, by decide +kernel⟩⟩

theorem witness_TagTrapsAtTheHome :
    tagTrap (.read .b64 false) (W.empty.mem.tag ((request (.read .b64 false)).loc.key / 8 * 8)) =
      some .tagMisuse := by decide +kernel

theorem witness_HomeDataOperations :
    W.mem.tag ((request (.read .b64 false)).loc.key / 8 * 8) = .full ∧
    atomResult .add 64 (W.mem.loadN wordKey 8) (5 % 256 ^ 8) = some 5 ∧
    W.mem.loadN wordKey 8 = (0 : Word).toNat % 256 ^ 8 ∧ W.mem.loadN wordKey 8 ≠ (1 : Word).toNat % 256 ^ 8 := by
  decide +kernel

theorem witness_HomeTagOperations :
    W.mem.tag wordKey = .full ∧ W.putsOf wordKey = [] ∧ W.guard? wordKey = none ∧
    W.empty.mem.tag wordKey = .empty ∧ W.empty.guard? wordKey = none ∧ W.empty.mem.word wordKey = 0 ∧
    (let d : Defer := ⟨wordKey, 8, true, none, 0, 0, 0, 0, 0⟩
     let p : Defer := ⟨wordKey, 9, false, some 6, 0, 0, 0, 0, 0⟩
     let s := { W.empty with defers := [d, p] }
     (s.listOf wordKey).find? (·.take) = some d ∧ ((s.listOf wordKey).filter (·.take)).length = 1 ∧
       s.putsOf wordKey = [p] ∧ (∀ d ∈ s.listOf wordKey, d.tid ≠ p.tid) ∧
       ((W.empty.listOf wordKey).filter (·.take)).length = 0) := by
  decide +kernel

theorem witness_FencesOrderTheirThread :
    W.cur.guardOn alw = true ∧ W.cur.packet = none ∧ W.engines = [] ∧ W.cur.copyRec = none ∧
    W.cur.errRec = none ∧ (∃ s1, W.closePhases W.cur.core .dev = some ([], s1) ∧ s1.cur.errRec = none) :=
  ⟨rfl, rfl, rfl, rfl, rfl, ⟨_, rfl, rfl⟩⟩
theorem witness_MonitorsAreArmedAndWaitedFor :
    (W.far.cur.guardOn alw = true ∧ W.far.cur.packet = none ∧
      Gives (memAddr ⟨.l 1, .lit 0⟩) W.far 0xFE00000000140100 W.far ∧
      Gives (locate 0xFE00000000140100 1 accMon .sys 0) W.far (.sp 5 0x100, false) W.far ∧
      W.far.cur.monOf ((Loc.sp 5 0x100).key / 64) = none ∧ W.far.cur.freeMon = some 0 ∧
      W.far.cur.mons = [none, none, none, none]) ∧
    (let t := { thread with mons := [some mon, some mon, some mon, some mon] }
     (t.monOf ((Loc.sp 5 0x100).key / 64)).isSome = true ∧ t.monOf 1 = none ∧ t.freeMon = none) ∧
    (W.homeMons (.sp 3 0x100)).1.length < 64 ∧
    (let s := W.on { W.far.cur with mons := [none, none, none, some mon] }
     bits (0xFE00000000140100 : Word) 63 56 = 0xFE ∧ s.cur.mons.getD 3 none = some mon ∧
       vkey s.cur.core mon.va / 64 = vkey s.cur.core 0xFE00000000140100 / 64 ∧
       (∀ j, j < 3 → s.cur.mons.getD j none = none) ∧ s.cur.mons.any (·.isSome) = true ∧
       (∀ m ∈ s.cur.mons, m.all fun x => !x.wake)) ∧
    (let m := { mon with wake := true }
     [none, none, none, some m].getD 3 none = some m ∧ m.armed = true ∧ m.wake = true) ∧
    Gives (operandZ (.lit 0xFFFFFFFF)) W 0xFFFFFFFF W ∧ (∃ t, Gives (writeD (.l 5) 0x400) W .seq t) :=
  ⟨⟨rfl, rfl, rfl, rfl, by decide +kernel, by decide +kernel, rfl⟩, by decide +kernel, by decide +kernel,
    by decide +kernel, by decide +kernel, rfl, ⟨_, rfl⟩⟩

theorem witness_TagTableAndCycleRecord :
    W.cur.guardOn alw = true ∧ Gives (checkDst (.l 5)) W () W ∧ Gives (readS (.l 0)) W 12 W ∧
    Gives (operandZ (.lit 77)) W 77 W ∧
    (let tt := (W.core W.cur.core).tagTable
     tagFind tt 12 = none ∧ tagFree tt = some 0) ∧
    (let tt := (List.range 64).map fun i => (i, (⟨BitVec.ofNat 64 i, 0⟩ : TagEntry))
     tagFind tt 63 = some (63, ⟨63, 0⟩) ∧ tagFind tt 64 = none ∧ tagFree tt = none) ∧
    (∃ t, Gives (writeD (.l 5) (-1)) W .seq t) ∧ W.cur.packet = none ∧
    (W.cur.cycle[(12 : Word).toNat]?.map (·.1)).getD 0 = 0 :=
  ⟨rfl, rfl, rfl, rfl, by decide +kernel, by decide +kernel, ⟨_, rfl⟩, rfl, by decide +kernel⟩

theorem witness_CopiesAreIssuedAndWatched :
    (let s := W.withRec copyRec
     let r : Word := 0xFF00000000000100
     let s2 := after (ownRecord r 8 64) s
     copyOp (.copy ⟨alw, .l 6, ⟨.l 1, .lit 0⟩⟩) = some (⟨alw, .l 6, ⟨.l 1, .lit 0⟩⟩, 0x88) ∧
     s.cur.guardOn alw = true ∧ Gives (checkDst (.l 6)) s () s ∧ Gives (memAddr ⟨.l 1, .lit 0⟩) s r s ∧
     r.toNat % 64 = 0 ∧ Gives (ownRecord r 8 64) s (some copyRec) s2 ∧ Gives (checkDst (.l 6)) s2 () s2 ∧
     (shapeBad 0x88 copyRec).findIdx? id = none ∧
     Gives (checkRanges 0x3C000 0 (copySrcRanges 0x88 copyRec)) s2 () s2 ∧
     Gives (checkRanges 0x3C000 1 (copyDstRanges 0x88 copyRec ++ [])) s2 () s2 ∧ s2.cur.pl = 0 ∧
     listsMeet (copySrcRanges 0x88 copyRec) (copyDstRanges 0x88 copyRec) = false ∧
     s2.copySlotFor = some 0) ∧
    (shapeBad 0x88 (copyRec.set 4 0)).findIdx? id = some 4 ∧
    listsMeet (copySrcRanges 0x88 (copyRec.set 1 0xFF00000000000208))
      (copyDstRanges 0x88 (copyRec.set 1 0xFF00000000000208)) = true ∧
    (W.modCore 3 fun c => { c with
      copies := (List.range 64).map fun i => (i, ⟨1, 0, true, 0, 7⟩) }).copySlotFor = none ∧
    (bits (0x105 : Word) 7 6 = 0 ∧ bits (0x105 : Word) 63 32 = 0 ∧ bits (0x140 : Word) 7 6 ≠ 0 ∧
      tabGet (W.copying.core 3).copies (bits (0x105 : Word) 5 0) = some ⟨1, 0, true, 0, 7⟩ ∧
      (1 : BitVec 24).toNat = bits (0x105 : Word) 31 8 ∧ tabGet (W.core 3).copies (bits (0x105 : Word) 5 0) = none ∧
      W.copying.engines.find? (fun e => match e.kind with
        | .copy _ _ id _ => e.core == W.copying.cur.core && id == 0x105
        | _ => false) = some copyEng ∧ copyEng.started = true ∧ copyEng.bad = none) := by
  refine ⟨⟨rfl, rfl, rfl, rfl, by decide +kernel, gives_after (by decide +kernel), rfl, by decide +kernel,
    ?_, ?_, by decide +kernel, by decide +kernel, by decide +kernel⟩, by decide +kernel, by decide +kernel,
    by decide +kernel, by decide +kernel⟩ <;> rfl

theorem witness_EntrepotAndReductionRequests :
    (let s := W.withRec binRec
     let r : Word := 0xFF00000000000100
     let s2 := after (ownRecord r 8 64) s
     Gives (memAddr ⟨.l 1, .lit 0⟩) s r s ∧ r.toNat % 64 = 0 ∧ Gives (ownRecord r 8 64) s (some binRec) s2 ∧
     Gives (checkDst (.l 6)) s2 () s2 ∧ (binBad binRec).findIdx? id = none ∧
     (recW binRec 0).toNat + binRegs binRec * 2 ^ binRlog binRec ≤ 2 ^ 56 ∧
     (recW binRec 1).toNat + binSize binRec ≤ 2 ^ 56 ∧
     s2.mappedOutside (clusterOf s2.cur.core) s2.cur.launch (recW binRec 0).toNat (binRegs binRec * 2 ^ binRlog binRec) = false ∧
     s2.mappedOutside (clusterOf s2.cur.core) s2.cur.launch (recW binRec 1).toNat (binSize binRec) = false ∧
     tabGet s2.bins (dieOf s2.cur.core * 64 + 0) = none) ∧
    (binBad (binRec.set 7 1)).findIdx? id = some 7 ∧
    (let s := { W with bins := [(0, binSet)] }
     Gives (readS (.l 0)) W 12 W ∧ s.binSet? 0x100 = some (0, binSet) ∧ binSet.runner = none ∧ binSet.reserved = none ∧
     (∃ t, s.closePhases s.cur.core .dev = some ([], t) ∧ t.cur.errRec = none ∧ t.binSet? 0x100 = some (0, binSet)) ∧
     ({ binSet with runner := some 8 } : BinSet).runner.isSome = true ∧
     (∃ u, Gives (holdNow s (binObject 0)) s () u) ∧ Gives (channelFree .requests) W () W) ∧
    (let s := { W.withRec groupRec with clusters := [(0, { Cluster.reset with tlb := [⟨0, 0, 16, 0, true, true, false, false⟩] })] }
     let r : Word := 0xFF00000000000100
     let s2 := after (ownRecord r 8 64) s
     Gives (memAddr ⟨.l 1, .lit 0⟩) s r s ∧ Gives (ownRecord r 8 64) s (some groupRec) s2 ∧
     groupBad groupRec = false ∧ bits (recW groupRec 0) 63 56 = 0 ∧
     Gives (translate (recW groupRec 0) accTag 0) s2 0x40 s2 ∧ paPackage 0x40 = s2.pkg.num ∧
     mgmtPage 0x40 = false) ∧
    groupBad (groupRec.set 1 0) = true ∧
    (let s := { W with groups := [(0, group)] }
     Gives (operandS (.lit 5)) s 5 s ∧ s.group? 0x400 s.cur.launch = some (0, group) ∧
     Gives (channelFree .reductions) s () s) := by
  refine ⟨⟨rfl, by decide +kernel, gives_after (by decide +kernel), rfl, by decide +kernel, by decide +kernel,
    by decide +kernel, by decide +kernel, by decide +kernel, by decide +kernel⟩, by decide +kernel,
    ⟨rfl, by decide +kernel, rfl, rfl, ⟨_, rfl, rfl, rfl⟩, rfl, ⟨_, rfl⟩, rfl⟩,
    ⟨rfl, gives_after (by decide +kernel), by decide +kernel, by decide +kernel, ?_, by decide +kernel,
      by decide +kernel⟩, by decide +kernel, ⟨rfl, by decide +kernel, rfl⟩⟩
  rfl

theorem witness_ClaimsAreGrantedAndReleased :
    W.cur.guardOn alw = true ∧ Gives (checkDst (.l 5)) W () W ∧ Gives (operandZ (.lit 0x4040)) W 0x4040 W ∧
    (bits (0x4040 : Word) 6 0 = 64 ∧ bits (0x4040 : Word) 14 8 = 64 ∧ (0x4040 : Word).toNat = 64 + 2 ^ 8 * 64) ∧
    bits (0x4041 : Word) 6 0 ∉ [4, 8, 16, 32, 64] ∧ W.cur.laneRes = none ∧
    PoolIdle W ∧ W.busy = true ∧ W.cur.wreg = none ∧ W.cur.packet = none ∧
    64 ≤ W.freeLanes (W.poolGroup W.cur.core) + W.cur.lanes ∧ W.claimsHeld (W.poolGroup W.cur.core) < 16 ∧
    (let s := { W with threads := [(1, { thread with tid := 8, life := .ready, claim := some claim })] }
     s.freeLanes (s.poolGroup s.cur.core) + s.cur.lanes < 64 ∧
       ∀ t ∈ s.poolThreads (s.poolGroup s.cur.core), t.waitsLanes = false) ∧
    (let w := { thread with tid := 8, life := .waiting, eprio := 3, laneReq := some (64, 64) }
     let s := { W.claimed with threads := [(8, w), (9, { thread with tid := 9, claim := some (Claim.fresh 64 64 64) })] }
     w ∈ s.poolThreads (s.poolGroup s.cur.core) ∧ w.waitsLanes = true ∧ s.cur.eprio ≤ w.eprio ∧
       s.freeLanes (s.poolGroup s.cur.core) + w.lanes < 64) ∧
    (claim.vreg 31).length = claim.grant ∧ W.cur.claim = none ∧ W.claimed.cur.claim = some claim ∧
    4 ≤ claim.des ∧ 4 ≤ claim.grant ∧ (∃ t, Gives (writeD (.l 5) 64) W .seq t) ∧
    ({ thread with laneRes := some 4 } : Thread).laneRes = some 4 :=
  ⟨rfl, rfl, rfl, by decide +kernel, by decide +kernel, rfl, by unfold PoolIdle; decide +kernel, rfl, rfl, rfl,
    by decide +kernel, by decide +kernel, by decide +kernel, by decide +kernel, by decide +kernel, rfl, rfl, by decide,
    by decide, ⟨_, rfl⟩, rfl⟩

theorem witness_ElementwiseVectorResults :
    (vecForm (.vadd ⟨alw, 3, 1, .v 2, .fp32, true, .rne, false, some ⟨6, true⟩⟩)).isSome = true ∧
    W.claimed.cur.guardOn alw = true ∧ W.claimed.cur.claim = some claim ∧ claim.grant ≠ 0 :=
  ⟨rfl, rfl, rfl, by decide⟩

theorem witness_VectorMovesAndMasks :
    W.claimed.cur.guardOn alw = true ∧ W.claimed.cur.claim = some claim ∧ claim.grant ≠ 0 ∧
    Gives (readVal (.lit 5) (laneWidth .i64)) W.claimed 5 W.claimed ∧ Gives (checkDst (.l 5)) W.claimed () W.claimed ∧
    Gives (operandZ (.lit 3)) W.claimed 3 W.claimed ∧ Gives (operandZ (.lit 4)) W.claimed 4 W.claimed ∧
    claim.grant * (64 / laneWidth .i64) ≤ (4 : Word).toNat ∧ (3 : Word).toNat < claim.grant * (64 / laneWidth .i64) ∧
    claim.grant * (64 / laneWidth .i64) ≤ 2 ^ (2 : BitVec 4).toNat ∧
    2 ^ (1 : BitVec 4).toNat < claim.grant * (64 / laneWidth .i64) ∧
    (Instr.vcmp ⟨alw, 2, 1, .lit 100, 5, .i32, true, none⟩).wf = true ∧
    (∃ t, Gives (writeD (.l 5) 0) W.claimed .seq t) :=
  ⟨rfl, rfl, by decide, rfl, rfl, rfl, rfl, by decide, by decide, by decide, by decide, by decide +kernel, ⟨_, rfl⟩⟩

theorem witness_VectorReductionsAndBlocks :
    W.claimed.cur.guardOn alw = true ∧ W.claimed.cur.claim = some claim ∧ claim.grant ≠ 0 ∧
    Gives (checkDst (.l 5)) W.claimed () W.claimed ∧
    isIntFmt .i64 = true ∧ isIntFmt .fp32 = false ∧
    ((List.range 4).filter (claim.active (some 6) 64)) = [] ∧
    ((List.range 4).filter (claim.active none 64)) = [0, 1, 2, 3] ∧
    (let c := { claim with k := claim.k.set 1 [3, 0, 0, 0] |>.set 2 [1, 0, 0, 0] }
     ((List.range 8).filter (c.active (some 1) 32)) = [0, 1] ∧
       ((List.range 8).filter (c.active (some 2) 32)) = [0]) ∧
    claim.grant < laneWidth .fp32 / 2 ∧ laneWidth .fp32 / 2 ≤ (Claim.fresh 16 16 16).grant ∧
    (∃ t, Gives (writeD (.l 5) 0xFF800000) W.claimed .seq t) :=
  ⟨rfl, rfl, by decide, rfl, rfl, rfl, by decide +kernel, by decide +kernel, by decide +kernel, by decide, by decide,
    ⟨_, rfl⟩⟩

theorem witness_VectorAccessesAreSentAndComplete :
    (∃ x, vmemForm (.vld ⟨alw, 5, .l 1, 0, .b64, .rlx, .clu, none⟩) = some x ∧
      (let es : List VElem := [0, 1, 2, 3].map fun j => ⟨j, x.addr claim 0xFE00000000140100 0 j⟩
       Gives x.ops W.claimed (0xFE00000000140100, 0) W.claimed ∧ W.claimed.cur.claim = some claim ∧
       claim.actives? x.mask 64 = [0, 1, 2, 3] ∧
       (∃ ls, Gives (vecLocate ⟨0, true, false, false⟩ 8 .clu es) W.claimed ls W.claimed ∧ ls.length = 4) ∧
       Gives (vecBoard 8 false es) W.claimed () W.claimed)) ∧
    (∃ x held s2, vmemForm (.vst ⟨alw, 5, .l 1, 0, .b64, .rel, .clu, none⟩) = some x ∧ x.load = false ∧
      releases x.ord = true ∧ W.claimed.cur.errRec = none ∧
      W.claimed.closePhases W.claimed.cur.core x.scope = some (held, s2)) ∧
    claim.actives? (some ⟨6, true⟩) 64 = [] :=
  ⟨⟨_, rfl, rfl, rfl, by decide +kernel, ⟨_, rfl, rfl⟩, rfl⟩, ⟨_, _, _, rfl, rfl, rfl, rfl, rfl⟩, by decide +kernel⟩

theorem witness_ModularResults :
    (modForm (.vmmul ⟨alw, 1, 2, .v 3, true, 0, none⟩)).isSome = true ∧ W.claimed.cur.claim = some claim ∧
    claim.grant ≠ 0 ∧ (∀ j, j < 4 → GoodModulus claim 64 0 true j) :=
  ⟨rfl, rfl, by decide, by unfold GoodModulus; decide +kernel⟩

theorem witness_ButterfliesAndAutomorphisms :
    W.claimed.cur.claim = some claim ∧ claim.grant ≠ 0 ∧ Gives (readS (.l 0)) W.claimed 12 W.claimed ∧
    (let c := { claim with q := claim.q.set 0 [17, 4, 17, 17] }
     GoodModulus c 64 0 false 0 ∧ ¬ GoodModulus c 64 0 false 1 ∧ c.active none 64 1 = true) ∧
    (claim.grant * (64 / 64) ≤ 2 ^ (2 : BitVec 4).toNat ∧ 2 ^ (1 : BitVec 4).toNat < claim.grant * (64 / 64)) ∧
    (∀ j, j < 4 → GoodModulus claim 64 0 true j ∧ GoodModulus claim 64 0 false j) ∧
    Gives (operandZ (.lit 3)) W.claimed 3 W.claimed ∧ (3 % 2 = 1 ∧ 3 < 2 * 2 ^ 2 ∧ 2 ^ 2 ≤ claim.grant * (64 / 64)) ∧
    (4 % 2 = 0 ∧ claim.grant * (64 / 64) < 2 ^ 3 ∧ 0 * 2 ^ 2 + 2 ^ 2 ≤ claim.grant * (64 / 64)) :=
  ⟨rfl, by decide, rfl, by unfold GoodModulus; decide +kernel, by decide, by unfold GoodModulus; decide +kernel, rfl,
    by decide, by decide⟩
theorem witness_RingsReserveAndPublish :
    (let s := W.ringed (ring false)
     let v : Word := 0x10002
     Gives (readS (.l 1)) s 0xFE00000000140000 s ∧ Gives (operandZ (.lit 0x10002)) s v s ∧
     2 ≤ bits v 15 0 ∧ 1 ≤ bits v 22 16 ∧ bits v 22 16 ≤ 64 ∧ bits v 63 26 = 0 ∧
     Gives (ringPlace 0xFE00000000140000 (bits v 22 16 * (bits v 15 0 * 64))) s () s ∧
     (∃ l, s.launch? s.cur.launch = some l ∧ l.rmask.testBit 31 = true ∧ l.rmask.testBit 30 = false) ∧
     (∀ t ∈ s.allThreads, t.waitsFor 12 (ringObject (clusterOf s.cur.core) 30) = false ∧
       t.waitsFor 12 (ringObject (clusterOf s.cur.core) 30 + 2 ^ 64) = false) ∧ bits (0x410002 : Word) 22 16 > 64) ∧
    (let s := W.ringed (ring false)
     let r := ring false
     s.ring? (clusterOf s.cur.core) 31 = some r ∧ r.slots ≤ r.res - r.pop ∧ s.cur.packet = none ∧ r.cons ≠ r.pub ∧
     s.cur.prods.length < 64 ∧ s.cur.conss.length < 64 ∧
     takeRes s.cur.conss (clusterOf s.cur.core) 31 (fun u => u == 0) = none ∧
     ({ r with res := 0, pub := 0 } : Ring).res - r.pop < r.slots ∧
     ({ r with res := 0, pub := 0 } : Ring).cons = ({ r with res := 0, pub := 0 } : Ring).pub) ∧
    (let r := { ring false with pub := 0 }
     let p : RingRes := ⟨0, 31, 0, 0⟩
     let s0 := W.ringed r
     let s := { s0 with cur := { s0.cur with prods := [p], conss := [p] } }
     ∃ s2 s3, takeRes s.cur.prods (clusterOf s.cur.core) 31 (fun _ => true) = some (p, []) ∧
       takeRes s.cur.conss (clusterOf s.cur.core) 31 (fun u => u == 0) = some (p, []) ∧
       headerReserved 12 = false ∧ (12 : Word).getLsbD 31 = false ∧ headerReserved 0x10 = true ∧
       Gives (slotLoc (r.slotAddr p.x) accWrite) s (.sp 5 0) s ∧
       s.closePhases s.cur.core .clu = some ([], s2) ∧ s2.cur.errRec = none ∧
       s2.ring? (clusterOf s2.cur.core) 31 = some r ∧ Gives (boardCheck (r.slotAddr p.x) 64 true) s () s ∧
       Gives (wordsFree (.sp 5 0) 8) s () s ∧ Gives (writeHeader (r.slotAddr p.x) 12 p.x 8) s2 () s3 ∧
       r.published = [] ∧ r.released = []) ∧
    W.ring? (clusterOf W.cur.core) 31 = none := by
  refine ⟨⟨rfl, rfl, by decide, by decide, by decide, by decide, rfl,
    ⟨_, rfl, by decide +kernel, by decide +kernel⟩, by decide +kernel, by decide⟩, by decide +kernel,
    ⟨_, _, by decide +kernel, by decide +kernel, by decide, by decide, by decide, rfl, rfl, by decide +kernel,
      by decide +kernel, rfl, rfl, gives_after (by decide +kernel), rfl, rfl⟩, by decide +kernel⟩

theorem witness_MatrixOperationsAreQueued :
    (let s := W.ringed (ring true)
     s.cur.guardOn alw = true ∧ Gives (getRing 31) s (ring true) s ∧ (ring true).isB = true ∧
     Gives roomForMatrix s () s ∧
     takeRes s.cur.conss (clusterOf s.cur.core) 31 (fun u => u == 2) = none ∧
     Gives (takeSlot 31 (ring true)) s (0, 0x10000) s ∧ bits (0x10000 : Word) 24 16 ≤ 128 ∧
     (∀ a, a < 8 → ¬ ((s.array (clusterOf s.cur.core) a).holder = some s.cur.tid ∧
       (s.array (clusterOf s.cur.core) a).kp = 0)) ∧
     s.freeArray (clusterOf s.cur.core) = some 0 ∧ s.cur.packet = none ∧
     (s.array (clusterOf s.cur.core) 2).holder = some s.cur.tid ∧ (s.array (clusterOf s.cur.core) 2).kp ≠ 0 ∧
     (s.array (clusterOf s.cur.core) 3).holder ≠ some s.cur.tid ∧ Gives (readS (.l 2)) s 3 s) ∧
    (let s0 := W.ringed (ring true)
     let s := s0.modCluster 0 fun c => { c with
       arrays := (List.range 8).map fun a => (a, ⟨some 8, 0, 0, 1, 0, false, [], false, false⟩) }
     s.freeArray (clusterOf s.cur.core) = none ∧
       ∀ a, a < 8 → (s.array (clusterOf s.cur.core) a).holder ≠ some s.cur.tid) ∧
    (63 : Word).toNat % 64 ≠ 0 ∧
    (let s := W.ringed (ring false)
     Gives (memAddr ⟨.l 1, .lit 0⟩) s 0xFE00000000140000 s ∧
     Gives (checkRegion 0xFE00000000140000) s (Loc.sp 5 0).key s ∧ Gives (readS (.l 2)) s 3 s ∧
     (∃ t, Gives (readS (.l 4)) { s with cur := { s.cur with l := s.cur.l.set 4 2 } } 2 t) ∧
     Gives (getRing 31) s (ring false) s ∧ (ring false).isB = false ∧
     Gives (takeSlot 31 (ring false)) s (0, 0x10000) s ∧ (bits (0x10000 : Word) 3 0 = 0) ∧
     bits (0x10000 : Word) 24 16 = (s.array (clusterOf s.cur.core) 2).kp ∧
     (s.array (clusterOf s.cur.core) 2).fmt = 0) ∧
    (let o : OpTdrain := ⟨alw, .l 1, .l 1, .zero, .fp32, .fp32, true, .rne, false, .relu, .bias⟩
     let s := W.ringed (ring false)
     o.c = .zero ∧ Gives (readS o.a) s 0xFE00000000140000 s ∧ (0xFE00000000140000 : Word).toNat % 8 = 0 ∧
     drainRow o % 8 = 0 ∧ s.matrixBusy s.cur.tid (·.isTmmaInto (Loc.sp 5 0).key) = false ∧ s.cur.redRec = none ∧
     (W.on { thread with redRec := some ⟨5, 6, 0⟩ }).cur.redRec = some ⟨5, 6, 0⟩) ∧
    (Gives (checkDst (.l 5)) W () W ∧ (∀ e ∈ W.engines, e.tid = W.cur.tid → isMatrix e.kind = false) ∧
      isMatrix (.tzero 0) = true ∧ ∃ t, Gives (writeD (.l 5) W.cur.mstat) W .seq t) := by
  refine ⟨⟨rfl, rfl, by decide, rfl, by decide +kernel, gives_after (by decide +kernel), by decide, by decide +kernel,
      by decide +kernel, by decide +kernel, by decide +kernel, by decide +kernel, by decide +kernel, rfl⟩,
    by decide +kernel, by decide,
    ⟨rfl, gives_same (by decide +kernel), rfl, ⟨_, rfl⟩, rfl, by decide, gives_after (by decide +kernel), by decide, by decide +kernel,
      by decide +kernel⟩,
    ⟨rfl, rfl, by decide, by decide +kernel, by decide +kernel, by decide +kernel, rfl⟩,
    ⟨rfl, by decide +kernel, rfl, ⟨_, rfl⟩⟩⟩

theorem witness_IntegerMatrixProducts : (⟨0, 0, 1, 0, false, [0xFF]⟩ : Tile).fmt = 0 ∧ 2 ^ 32 - 1 < 2 ^ 32 ∧
    (⟨1, 0, 17, 0, false, [0xFF]⟩ : Tile).fmt ≠ 0 ∧ 1 < ((⟨1, 0, 17, 0, false, [0xFF]⟩ : Tile).kp + 15) / 16 := by
  decide +kernel

theorem witness_ChecksOfATurnTrap :
    (let s := W.line
     let h : HeldLine := ⟨0, lineOf 0 0, some (.translation, 0, 5), false, false, none⟩
     let s := { s with cur := { s.cur with lines := [h] } }
     s.busy = true ∧ s.cur.dlPend = none ∧ s.cur.half = none ∧ s.cur.lineAt (lineAddr s.cur.pc) = some h ∧
     lineFirst (lineWord h.bits) (bits s.cur.pc 2 0) = false ∧ h.bad = some (.translation, 0, 5) ∧ h.fault = none ∧
     ({ h with fault := some (0, 4) } : HeldLine).fault = some (0, 4)) ∧
    (let h : HeldLine := ⟨0, lineOf 0 0 ^^^ 1, none, true, false, none⟩
     parityOk h.bits [0] = false ∧ h.reread = true ∧ h.bad = none ∧ h.fault = none) ∧
    (let s := State.reset.withFetchWord 96 0
     (∃ h, s.cur.lineAt (lineAddr s.cur.pc) = some h ∧ lineCheck s.cur h [bits s.cur.pc 2 0] = none ∧
       s.breakpoints [s.cur.pc] = (none, s) ∧
       fails (decodeIn s.cur.win (lineSlot h.bits (bits s.cur.pc 2 0))) (fun e => e.cause == .illegalOpcode) = true)) ∧
    (let w := Fields.unpack 0x13000000000010004000_0000
     privFails thread w = true ∧ W.line.featFails w = none) ∧
    (fails (decodeIn W.cur.win 0x200000000000000000001000) (fun e => e.cause != .illegalOpcode) = true ∧
     W.featFails (Fields.unpack 0x240000000000000000000000) = none ∧
     (W.featFails (Fields.unpack 0xA40000000000000000000000)).isSome = true) := by
  refine ⟨by decide +kernel, by decide +kernel, ⟨_, rfl, by decide +kernel, by decide +kernel,
    by decide +kernel⟩, by decide +kernel, by decide +kernel⟩

theorem witness_StepKeepsMemoryCanonical :
    W.line.mem.wf = true ∧ answers (step W.line) (fun _ => true) = true := by decide +kernel
theorem witness_TurnsFollowTheSlotCounter :
    (let s := idle [thread]
     s.busy = false ∧ s.coreEnabled 3 = true ∧ s.pkg.tripped = false ∧ s.dueFirst 3 = false ∧
     (s.core 3).cycle % 16 = 0 ∧ (∀ t ∈ s.onCore 3, t.own = t.ownNow) ∧
     (∀ x ∈ s.threads, x.2.shade = none) ∧ (s.takePrio 3 0).unshade 3 = s ∧ s.reserver 3 0 = none ∧
     (s.core 3).stopAll = false ∧ s.occupant 3 0 = some thread ∧ s.bestReady 3 = none ∧
     ∀ x ∈ s.threads, x.2.waitReason ≠ 11) ∧
    (let r := { thread with tid := 8, life := .ready, eprio := 5 }
     let s := idle [thread, r]
     s.takePrio 3 0 = s ∧ s.occupant 3 0 = some thread ∧ s.bestReady 3 = some r ∧ thread.eprio < r.eprio ∧
       thread.eprio = s.leastPrio 3 ∧ thread.tid ≠ r.tid) ∧
    (let s := (idle [thread]).modCore 3 fun x => { x with stopAll := true }
     s.takePrio 3 0 = s ∧ s.occupant 3 0 = some thread ∧ thread.alone = false ∧ thread.stepping = false ∧
       ({ thread with alone := true } : Thread).alone = true) ∧
    (let r := { thread with life := .ready }
     let s := idle [r]
     s.occupant 3 0 = none ∧ s.bestReady 3 = some r) ∧
    ((idle []).occupant 3 0 = none ∧ (idle []).bestReady 3 = none) ∧
    (let r := { thread with life := .stopped, rslot := some 0 }
     (idle [r]).reserver 3 0 = some r ∧ r.stepping = false ∧ ({ r with stepping := true } : Thread).stepping = true ∧
     (idle [r]).bestReady 3 = none ∧ (idle [r]).shader 3 0 = none ∧
     (let t := { thread with tid := 8, entry := 1, life := .ready, eprio := 5 }
      let s := idle [r, t]
      s.reserver 3 0 = some r ∧ s.bestReady 3 = some t ∧ r.eprio < t.eprio ∧ r.eprio = s.leastPrio 3)) ∧
    (∃ b, let t := thread
     let s := { idle [t] with
       clusters := [(0, { Cluster.reset with tlb := [⟨0, 0, 16, 0, true, true, true, false⟩] })]
       atab := [entry (State.reset.sliceNo 0x1000) 0] }
     s.threads = [(7, t)] ∧ t.wanted = [(lineAddr t.pc, false)] ∧ t.wait = none ∧
       s.readLine t (lineAddr t.pc) = .got b none) := by
  refine ⟨by decide +kernel, by decide +kernel, by decide +kernel, by decide +kernel, by decide +kernel,
    by decide +kernel, ⟨0, by decide +kernel⟩⟩

theorem witness_CommandsSamplesAndScrubs :
    (let s := { idle [thread] with atab := [entry (targetDebug 0) 0x6000] }
     s.busy = false ∧ s.tableAllows (targetDebug (clusterOf 3)) 0x6000 false true false = true ∧
     s.entryThread 3 0 = some thread ∧ s.entryThread 3 1 = none ∧
     (idle [thread]).tableAllows (targetDebug (clusterOf 3)) 0x6000 false true false = false) ∧
    (let t := { thread with life := .stopped, rslot := some 0 }
     let s := { idle [t] with atab := [entry (targetDebug 0) 0x6000] }
     s.stepSet 3 = [t] ∧ t.rslot = some 0) ∧
    (let m : StopMsg := ⟨0, 0, true, 0, 0, 3, []⟩
     let s := (idle []).modCore 3 fun x => { x with pendStop := [m] }
     (s.core 3).pendStop = [m] ∧ m.due ≤ (s.core 3).cycle ∧ (s.core 3).stopAll = false ∧
       ({ m with stop := false } : StopMsg).stop = false) ∧
    (let s := (idle [thread]).modCore 3 fun x => { x with cycle := 1, dbg := { x.dbg with sctl := 1 } }
     (s.core 3).sampleDue = true ∧ (s.core 3).dbg.sctl.getLsbD 1 = false) ∧
    (let s := (idle []).modCore 3 fun x => { x with cycle := 4096 }
     s.coreEnabled 3 = true ∧ 4096 * ((s.core 3).patrol + 1) ≤ (s.core 3).cycle) ∧
    (((idle [thread]).onCore 3).filter fun t => t.holdsWindow && windowReg t.win (5 % 128)) = [thread] := by
  decide +kernel

theorem witness_MessagesReachTheirThreads :
    (let t := { thread with life := .waiting, wait := some ⟨4, some (.reg (.l 5)), false, 0⟩ }
     let s := { idle [t] with replies := [⟨7, 0, .ok 12 0, 0, wordKey, 0⟩], delivers := [⟨7, 12, 0, wordKey, 0⟩] }
     s.nextFlit s.replyFlow (s.replies.map s.replyFlit) 5 = some 0 ∧
       s.nextFlit s.msgFlow (s.delivers.map s.deliverFlit) 5 = some 0) ∧
    (∃ u, let t := { thread with life := .waiting, wait := some ⟨4, some (.reg (.l 5)), false, 0⟩ }
     let r : Reply := ⟨7, 0, .ok 12 0, 0, wordKey, 0⟩
     let d : Deliver := ⟨7, 12, 0, wordKey, 0⟩
     let s := { idle [t] with replies := [r], delivers := [d] }
     s.replies[0]? = some r ∧ s.delivers[0]? = some d ∧
     tabGet s.threads 7 = some t ∧ u.cur.half = none ∧
     Gives (finish (.reg (.l 5)) 12 0 false) ({ s with replies := [] }.checkOut { t with wait := none } false) .seq u ∧
     Gives (finish (.reg (.l 5)) 12 0 false) ({ s with delivers := [] }.checkOut { t with wait := none } false) .seq
       { u with replies := [r], delivers := [] }) ∧
    (let n : Notice := ⟨7, 0, 0, .access, 0x40, 0, none, 0, 0⟩
     let s := { idle [thread] with notices := [n] }
     s.nextFlit s.replyFlow (s.notices.map s.noticeFlit) 5 = some 0 ∧ s.notices[0]? = some n ∧
     tabGet s.threads 7 = some thread ∧ thread.tid = n.tid ∧ thread.frame = none) ∧
    (let t := { thread with mons := [none, none, none, some mon] }
     let t2 := { t with life := .waiting, wait := some ⟨6, some (.waitm (.l 5) (some 9)), false, 0⟩ }
     let t3 := { t with life := .waiting, wait := some ⟨6, some (.waitm (.l 5) (some 0)), false, 0⟩ }
     let w : Wake := ⟨7, 3, mon.line, 0⟩
     let s := { idle [t2] with wakes := [w] }
     s.nextFlit s.msgFlow (s.wakes.map s.wakeFlit) 5 = some 0 ∧ s.wakes[0]? = some w ∧ tabGet s.threads 7 = some t2 ∧
     t.mons[3]? = some (some mon) ∧ mon.armed = true ∧ mon.line = w.line ∧ t.life ≠ .waiting ∧ t2.life = .waiting ∧
     t2.stopPend = false ∧ s.waitmDue t2 = none ∧ ((idle [t3]).waitmDue t3).isSome = true) ∧
    (let m : LinkMsg := ⟨0, 2, 15, 12, 3, 0⟩
     let t := { thread with k := 2, wait := some ⟨3, none, false, 15⟩, life := .waiting }
     let s := { idle [t] with fams := [(0, family)], linkMsgs := [m] }
     s.nextLinked 5 = some 0 ∧ s.linkMsgs[0]? = some m ∧
     s.fam? m.fam = some family ∧ family.killed = false ∧ family.beyond m.k = false ∧
     s.member? m.fam m.k = some t ∧ tabGet s.threads t.tid = some t ∧ t.waitsFor 3 m.n.val = true ∧
     family.ended.contains 3 = false ∧ family.dealt 3 < 2 ^ 13 ∧ s.member? 0 3 = none) ∧
    (let p : Packet := ⟨1, 7, 0, 3, 0, 0, 0, [], false, false, .discarded, none, 0, none, 0, 0⟩
     let s := { idle [thread] with pkts := [p] }
     let q := { p with arrived := true, hold := .entry }
     (s.pkts.filter fun p => !p.arrived && p.ack.isNone && !s.leaves p) = [p] ∧
     (s.nextFlit s.msgFlow ([p].map fun p => s.packetFlit p p.no) 5).bind (fun i => [p][i]?) = some p ∧
     ((s.core p.dst).packets.filter fun q => q.arrived && q.hold == .entry).length < 8 ∧
     s.spillLaunch p = none ∧
     8 ≤ (List.filter (fun q : Packet => q.arrived && q.hold == .entry) (List.replicate 8 q)).length ∧
     (let p := { p with arrived := true, closed := true }
      let s := ({ idle [thread] with pkts := [p] }).modCore 3 fun x => { x with packets := [q] }
      (s.pkts.filter fun p => p.arrived && p.closed && p.ack.isNone) = [p] ∧
      (s.nextFlit s.msgFlow ([p].map fun p => s.packetFlit p p.cno) 5).bind (fun i => [p][i]?) = some p ∧
        ((s.core p.dst).packets.find? fun q => q.id == p.id) = some q ∧
        (s.core p.dst).spill.getD q.queue [] = [] ∧ (s.core p.dst).queueCount q.queue + 1 + p.flits.length ≤ 64) ∧
     (let p := { p with arrived := true, closed := true, ack := some true }
      let t := { thread with wait := some ⟨11, some .txe, false, 0⟩, life := .waiting }
      let s := { idle [t] with pkts := [p] }
      s.pkts.filter s.packetDue = [p] ∧ tabGet s.threads p.tid = some t ∧
        t.tid = p.tid ∧ t.half = none)) := by
  refine ⟨by decide +kernel, ⟨_, rfl, rfl, rfl, ?_, rfl, rfl⟩, by decide +kernel, by decide +kernel,
    by decide +kernel, by decide +kernel⟩
  rfl

theorem witness_HomesServeTheirRequests :
    (let q := request (.read .b64 false)
     let r := { q with loc := .dev 0x1000, va := 0x1000 }
     (let s := { idle [thread] with reqs := [q] }
      s.readyReqs (fun q => !isAppend q) = [0] ∧ [0][5 % 1]? = some 0 ∧ s.reqs[0]? = some q) ∧
     (let s := { idle [thread] with reqs := [r] }
      s.readyReqs (fun q => !isAppend q) = [0] ∧ r.loc = .dev 0x1000) ∧
     (let s := (idle [thread]).modCore 3 fun x => { x with queue := [q] }
      (s.core 3).queue = [q] ∧ (s.core 3).bankUsed.getLsbD (bankOf q.loc) = false ∧
       (s.onCore 3).all (fun t => !(t.life == .running ((s.core 3).cycle % 16) && decide (3 ≤ t.forfeits) &&
         t.lost.getLsbD (bankOf q.loc))) = true) ∧
     (let t := { thread with forfeits := 3, lost := 1 }
      let s := (idle [t]).modCore 3 fun x => { x with queue := [q] }
      takeFirst (fun q => !(s.core 3).bankUsed.getLsbD (bankOf q.loc) &&
        (s.onCore 3).all fun t => !(t.life == .running ((s.core 3).cycle % 16) && decide (3 ≤ t.forfeits) &&
          t.lost.getLsbD (bankOf q.loc))) (s.core 3).queue = none) ∧
     (let m := { request (.read .b64 false) with loc := .dev 0x1F0000000020 }
      let a := { request (.write .b64 5) with loc := .dev (2 ^ 45 + 64), scope := .sys }
      let s := { idle [thread] with reqs := [m, a] }
      s.elsewhere m.loc = false ∧ s.mgmtOf m.loc = some 0x20 ∧ s.elsewhere a.loc = true) ∧
     (let a := { request (.atom .add .b64 5) with loc := .dev 0x1000 }
      let b := { a with src := 256, tid := 8 }
      let s := { idle [thread] with reqs := [a, b] }
      s.readyReqs isAdd = [0, 1] ∧ s.combinable a b = true) ∧
     (let z := { q with loc := .dev (2 ^ 40) }
      let s := { idle [thread] with missed := [r] }
      s.missed[0 % 1]? = some r ∧ s.linkHolds (s.lineLink r.loc.key) = false ∧
      (let s := { idle [thread] with missed := [z] }
       let s := s.modPkg fun p => { p with retrains := [s.lineLink (2 ^ 40)] }
       s.missed[0 % 1]? = some z ∧ s.linkHolds (s.lineLink z.loc.key) = true)) ∧
     (let y : Phase := ⟨⟨3, .dev, 0⟩, [(0, 1)], [(0, 1)], [], true⟩
      let s := (idle []).modCore 3 fun x => { x with phases := [y] }
      (s.core 3).phases = [] ++ y :: [] ∧ s.markersDue 3 y = [0] ∧ s.termReached 3 0 = true) ∧
     (let y : Phase := ⟨⟨3, .dev, 0⟩, [(0, 1)], [(0, 1)], [0], true⟩
      let t := { thread with life := .waiting, wait := some ⟨4, some (.release .unit [y.id]), false, 0⟩ }
      let s := (idle [t]).modCore 3 fun x => { x with phases := [y] }
      s.threads = [(7, t)] ∧ (s.core 3).phases = [y] ∧ y.closed = true ∧ (∀ p ∈ y.sent, p.1 ∈ y.answered) ∧
        (∀ m ∈ s.notices, m.req ≠ some y.id) ∧ (match s.phaseDone 3 with
          | some u => (s.freedInError u).isEmpty && (s.freed u).isEmpty
          | none => false) = true) ∧
     (let a := { request (.append 0x100 ⟨0, 5, .add⟩) with loc := entrLoc 0, posted := true }
      let s := { idle [thread] with reqs := [a] }
      s.readyReqs isAppend = [0] ∧ s.reqs[0]? = some a)) ∧
    (let b := { binSet with runner := some 7, recs := [⟨0, 5, .add⟩], skips := [0] }
     let s := { idle [thread] with bins := [(0, b)] }
     ∃ r u, (s.bins.filter fun x => x.2.runner.isSome && !x.2.paused) = [(0, b)] ∧
       (∀ i ∈ (b.recs.map (·.index)).foldl setInsert [], b.skips.contains (binRegion b.desc i) = true) ∧
       ((b.recs.map (·.index)).foldl setInsert []).any (s.binWaits b) = false ∧
       s.combineAll (0 / 64) b ((b.recs.map (·.index)).foldl setInsert []) ⟨0, false, false, false⟩ = (r, u) ∧
       u.thread? 7 = some thread) ∧
    (let p : Partial := ⟨0x400, 0, 0, RedAcc.zero, [(7, 0, 0)], true, 3, []⟩
     let s := { idle [thread] with partials := [p, p] }
     s.partialsFree = [0] ∧ s.partials[0]? = some p ∧ s.redHeld p = false ∧
     s.dieReach (dieOf p.src) (bits p.handle 9 8) = true ∧
     s.rootOf p.handle p.launch = redLoc 0 ∧ 2 ^ 59 ≤ (redLoc 0).key ∧
     (let p' := { p with src := 256 }
      let s := { idle [thread] with partials := [p, p'] }
      s.partialsFree = [0, 1] ∧ p.meets p' = true) ∧
     (let s := { s.modPkg fun k => { k with npkg := 2, farGroups := [(0, 0x400, 2 ^ 45 + 0x40)] } with groups := [] }
      s.rootOf p.handle 0 = .dev (2 ^ 45 + 0x40) ∧ 2 ^ 45 + 0x40 < 2 ^ 59)) := by
  refine ⟨by decide +kernel, ⟨_, _, by decide +kernel, by decide +kernel, by decide +kernel, rfl, by decide +kernel⟩,
    by decide +kernel⟩

theorem witness_WalksFaultsAndInvalidations :
    (let x : Waiter := ⟨0, 7, 0x1000, accRead, true, 0⟩
     let w : Walk := ⟨0, 0, 0, 0, [x]⟩
     let t := { thread with life := .waiting, wait := some ⟨4, none, false, 0⟩ }
     let s := { idle [t] with
       walks := [w], launches := [(0, { launch with desc := launch.desc.set 35 0x10000 })]
       atab := (List.range 192).map fun i => entry i 0 }
     ((walking s.walks []).zipIdx.filterMap fun (b, i) => if b then some i else none) = [0] ∧ s.walks[0]? = some w ∧
     s.walk 0 0 0 = .notPresent 4 ∧ ({ s with atab := [] }).walk 0 0 0 = .denied 4 ∧ s.waiterLives x = true ∧
     (let m := s.mem.writeWords 0x10000 [0xC1]
      ({ s with mem := m }).walk 0 0 0 = .malformed 4) ∧
     (let m := ((((s.mem.writeWords 0x10000 [0x20001]).writeWords 0x20000 [0x30001]).writeWords 0x30000 [0x40007]))
      ({ s with mem := m }).walk 0 0 0 = .malformed 2) ∧
     (let m := (((((s.mem.writeWords 0x10000 [0x20001]).writeWords 0x20000 [0x30001]).writeWords 0x30000 [0x40001]).writeWords
        0x40000 [0x200007]))
      ({ s with mem := m }).walk 0 0 0 = .leaf 21 0x200000 true false false false) ∧
     grants true false false false accRead true = true ∧ grants true false false false accWrite true = false ∧
     (let x : Waiter := ⟨0, 7, lineAddr thread.pc, accFetch, true, 0⟩
      x.src = 0 ∧ x.acc.kind = 5 ∧ ({ t with wait := some ⟨15, none, false, 3⟩ } : Thread).waitsFor 15 3 = true) ∧
     (let f : FaultRec := ⟨9, 0, 0, x, 0, 2⟩
      let s := { s with faults := [f] }
      ∃ u, s.takeFault 9 = some (f, u) ∧ u.waiterLives f.who = true ∧ ∀ f ∈ s.faults, f.token ≠ 8)) ∧
    (let v : Inval := ⟨5, 0, 1, []⟩
     (5 + 2 ^ 76) % 2 ^ 12 = v.asid ∧ (5 + 2 ^ 76) / 2 ^ 12 % 2 ^ 64 = v.lo ∧ (5 + 2 ^ 76) / 2 ^ 76 % 2 ^ 64 = v.hi ∧
     v ∉ (idle []).pkg.invals ∧ (idle []).invalPending v = false) := by
  refine ⟨⟨by decide +kernel, rfl, by decide +kernel, by decide +kernel, by decide +kernel, by decide +kernel,
    by decide +kernel, by decide +kernel, by decide, by decide, by decide +kernel, ⟨_, rfl, by decide +kernel, by decide +kernel⟩⟩,
    by decide +kernel⟩
/-- The clauses of TMMA and TDRAIN ask the same of their words as the TLDW clause, over a region. -/
theorem witness_EnginesDoTheirWork :
    (let e := { copyEng with started := false, pos := 0 }
     let s := { idle [thread] with engines := [e] }
     s.engReady e = true ∧ e.isCopy = true ∧ clusterOf e.core = 0 % 48 ∧ ∀ x ∈ s.engines, x.started = false) ∧
    (let z : EngOp := { copyEng with kind := .tzero (Loc.sp 5 0).key, started := false, pos := 0 }
     let s := { idle [thread] with engines := [z] }
     z.isCopy = false ∧ s.engReady z = true ∧ (s.engines.takeWhile fun x => x.id != z.id) = []) ∧
    (let e := copyEng
     let s := { idle [thread] with engines := [e] }
     ∃ u, e.started = true ∧ e.paused = false ∧ e.bad = none ∧ e.pos + 1 = copyTotal 0x88 copyRec ∧
       (s.engines.filter fun e => e.isCopy && e.started && !e.paused) = [e] ∧
       { s with choice := s.choice + 1 }.copyValue e 0x88 copyRec e.pos = (.val 0, u) ∧
       u.engLoc e (copyDst 0x88 copyRec e.pos) accWrite = .at (.sp 3 0x308) ∧
       u.reaches e.core (.sp 3 0x308) = true ∧ u.elsewhere (.sp 3 0x308) = false ∧
       u.engDenied e (.sp 3 0x308) 8 false true = false ∧ u.mgmtOf (.sp 3 0x308) = none ∧
       u.mem.tag ((Loc.sp 3 0x308).key / 8 * 8) = .full) ∧
    (let e := { copyEng with kind := .tldw 31 0 2 0xFE00000000140000 (hdrOf 0x10000) }
     let s := { idle [thread] with engines := [e] }
     (match (s.gather e (wordsAt (0xFE00000000140000 + 64) ((tileBytes true 0 1 0 - 64) / 8))).1 with
      | .all l => l.length == 1024
      | _ => false) = true) ∧
    (∀ (s : State) (e : EngOp) (l : List Word), ∃ ok u, s.engPuts e (keyAddr 3 (Loc.sp 5 0).key) l false = (ok, u)) ∧
    (let m := (idle []).array 0 2
     m.poisoned = false ∧ m.faulted = false ∧ m.red = false) :=
  ⟨by decide +kernel, by decide +kernel, ⟨_, rfl, rfl, rfl, by decide +kernel, by decide +kernel, rfl, by decide +kernel,
    by decide +kernel, by decide +kernel, by decide +kernel, by decide +kernel, by decide +kernel⟩, by decide +kernel,
    fun _ _ _ => ⟨_, _, rfl⟩,
    by decide +kernel⟩

theorem witness_ThreadsStartMoveAndEnd :
    (let f := { family with st := { family.st with block := 1, step := 1 } }
     let s := { idle [] with fams := [(0, f)], launches := [(0, launch)] }
     s.fam? 0 = some f ∧ f.fin = false ∧ s.unmade 0 = false ∧ f.queued < 2 ^ 64 ∧ f.lowestOn 3 = some 0 ∧
     s.roomOn 3 f.launch (windowSize f.win) = some (0, 0) ∧ s.threads = [] ∧ (s.core (f.dealt 0)).links = []) ∧
    (let f := { family with started := [0, 1, 2, 3], ended := [0, 1, 2, 3] }
     let s := { idle [] with fams := [(0, f)] }
     f.over = true ∧ s.writesDone 0 = true) ∧
    (let t := { thread with life := .ready }
     let s := { idle [t] with launches := [(0, launch)] }
     (s.boundLaunches.filter fun x => x.2.place.contains 3) = [(0, launch)] ∧ s.onCore 3 = [t] ∧
     s.thread? 7 = some t ∧ t.launch = 0 ∧ s.canSave t = true ∧
     s.canSave { t with packet := some ⟨0, []⟩ } = false) ∧
    (let t := { thread with life := .saved, win := ⟨1, 0, 0⟩ }
     let l := { launch with saved := [7] }
     let s := { idle [t] with launches := [(0, l)] }
     s.pkg.fstate = 0 ∧ s.boundLaunches = [(0, l)] ∧ s.nextSaved l 3 = some t ∧ s.restoreRoom t = some (0, 0) ∧
     s.thread? t.tid = some t ∧ t.claim = none) ∧
    (let t := { thread with life := .ready }
     let l := { launch with place := [3, 4], desc := launch.desc.set 6 0x10000000 }
     let s := { idle [t] with launches := [(0, l)] }
     (s.allThreads.filter fun t => s.canMigrate t 4) = [t]) ∧
    (let t := { thread with life := .halted }
     ((idle [t]).allThreads.filter fun t => t.life == .halted) = [t]) ∧
    (let t := { thread with life := .waiting, wait := some ⟨7, none, false, 0⟩ }
     let s := idle [t]
     s.implicitWait t = some (poolObject (s.poolGroup 3), false) ∧
     s.hasWaitEdge 7 (poolObject (s.poolGroup 3)) false = false ∧
     (match (s.dropStale 7).insertWait 7 (poolObject (s.poolGroup 3)) 0 false with
      | .ok _ => true
      | .error _ => false) = true) ∧
    (let e : Edge := ⟨true, 0, poolObject 0, 0, 7, false, true⟩
     let s := { idle [thread] with edges := [e] }
     s.edges.filter (fun e => s.staleWait e || s.staleHold e) = [e]) ∧
    (let t := { thread with eprio := 5 }
     let s := idle [t]
     (s.allThreads.filter fun t => s.eprioOf t != t.eprio) = [t] ∧ s.thread? 7 = some t) ∧
    (let w : Wait := ⟨12, none, false, 0⟩
     let on (r : Nat) : Option Wait := some { w with key := ringObject 0 r + 2 ^ 64 }
     let a := { thread with life := .waiting, wait := on 1, conss := [⟨0, 2, 0, 0⟩] }
     let b := { a with tid := 8, entry := 1, wait := on 2, conss := [⟨0, 1, 0, 0⟩] }
     let s := { idle [a, b] with
       edges := [⟨true, 0, ringObject 0 1, 0, 7, true, true⟩, ⟨true, 0, ringObject 0 2, 0, 8, true, true⟩] }
     (∀ e ∈ s.edges, e.tracked = true) ∧
     (match firstSome (fun e => if e.wait then s.cycleOf e.tid else none) s.edges with
      | some p => match s.victimOf p with
        | some t => (s.cycleOf t.tid).isSome && s.waitsByEdge t
        | none => false
      | none => false) = true ∧ (idle [thread]).cycleOf 7 = none) := by decide +kernel

/-- A descriptor that passes the checks of 18 Table 18.2: one member on core 3. -/
def testDescriptor : List Word :=
  [1, 0, 0x8, 0, 1, 1, 1, 0x31, 0x40001, 0x10000, 0x1000002, 0x20000, 0x100000, 0x140000, 0x10, 0x180000] ++
    List.replicate 19 0 ++ [0x1000, 0, 0, 0, 0]

theorem witness_LaunchesRunToCompletion :
    (let q : SubQueue := ⟨0x800, 0x24, 1, 0, 0, 9⟩
     let s : State := { State.reset with
       pkg := { State.reset.pkg with committed := true, bstat := 1, queues := State.reset.pkg.queues.set 15 q }
       mem := ((State.reset.mem.writeWords 0x800 [0x4000]).writeWords 0x4000 testDescriptor).setTag 0x180000 .empty
       atab := ((List.range 192).map fun i => entry i 0x3000) ++
         (List.range 192).map fun i => (i * 256 + 1, (entry i 9).2) }
     let d := s.mem.readWords (s.mem.word (q.base.toNat + 8 * (q.head % 2 ^ ringLog q.cfg))).toNat 40
     let l := launchOf (Vector.ofFn fun i => d.getD i.val 0) s.stamp
     let s1 := { s with stamp := s.stamp + 1 }
     s.accepting = true ∧ s.pkg.queues[15] = q ∧ q.cfg.getLsbD 5 = true ∧ q.head ≠ q.tail ∧
     s.factorMay 0x800 1 false = true ∧ s.factorMay 0x4000 40 false = true ∧ s.factorMay 0x180000 1 false = true ∧
     s.factorMay 0x180000 1 true = true ∧ s.cwordWaits l = false ∧
     (l.word 15).toNat = 0x180000 ∧ s.inMemory 0x180000 = true ∧ s.mem.tag 0x180000 = .empty ∧
     s1.validate l q.mid = none ∧ s1.validate l 8 = some 7 ∧ s1.listOf 0x180000 = [] ∧
     s.mem.tag 0x180008 ≠ .empty ∧ (idle []).factorMay 0x800 1 false = false) ∧
    (let x := { launchOf (Vector.ofFn fun i => testDescriptor.getD i.val 0) 0 with state := .waiting }
     let s := { idle [] with launches := [(0, x)] }
     s.pkg.tripped = false ∧ s.pkg.fstate = 0 ∧ s.paired = false ∧ s.bindPlaces (0, x) = [[3]]) ∧
    (let x := { launchOf (Vector.ofFn fun i => testDescriptor.getD i.val 0) 0 with state := .bound, place := [3] }
     let s := { idle [] with launches := [(0, x)] }
     x.killed = false ∧ s.kernelVector 3 = 0 ∧
       ({ s with mem := s.mem.writeWords (Loc.sp 3 0x3C000).key [0x40] }).kernelVector 3 ≠ 0 ∧
       (rootFamily 0 x s.stamp).n = 1) ∧
    (let x := { launchOf (Vector.ofFn fun i => testDescriptor.getD i.val 0) 0 with state := .started, place := [3] }
     let f := { family with fin := true }
     let s := { idle [] with
       launches := [(0, x)], fams := [(0, f)], mem := State.reset.mem.setTag 0x180000 .empty
       atab := (List.range 192).map fun i => entry i 0x3000 }
     s.launchOver 0 x = true ∧ s.cwordWaits x = false ∧ s.factorMay 0x180000 1 false = true ∧
       s.factorMay 0x180000 1 true = true ∧ s.fam? x.root = some f ∧ x.reports = [] ∧ (x.word 15).toNat % 8 = 0 ∧
       s.mem.tag (x.word 15).toNat = .empty ∧ s.listOf (x.word 15).toNat = [] ∧
       (idle []).launch? 0 = none ∧ s.launch? 0 = some x ∧ (∀ p ∈ s.fams, p.2.launch = 0 → p.2.fin = true)) := by
  decide +kernel

theorem witness_ManagementWritesAct :
    (let s := { idle [] with atab := [entry targetFactor 9, entry (targetQueue 15) 9, entry (targetBank 0) 9] }
     mregOf 0x20 = .acc 0 ∧ mregOf 0x13C0 = .queue 15 0 ∧ mregOf 0x13C8 = .queue 15 1 ∧ mregOf 0x3000 = .pcap ∧
     mregOf 0 = .fadv 0 ∧ s.pkg.committed = false ∧ s.tableAllows (mregOf 0x20).target 9 false true false = true ∧
     s.tableAllows (mregOf 0x3000).target 9 false true false = true ∧
     s.tableAllows (mregOf 0x13C0).target 9 false true false = true ∧
     s.tableAllows (targetQueue 15) 9 false true false = true ∧
     s.tableAllows (targetBank 0) 9 false false true = true ∧ (s.cluster 0).owner = .free ∧
     (mregOf 0x20).unit?.isSome = false ∧ (mregOf 0x3000).unit?.isSome = false ∧ (mregOf 0x13C0).unit?.isSome = false ∧
     (let x := s.pkg.queues[15]
      (16 + 2 ^ 32 - x.head) % 2 ^ 32 ≤ 2 ^ ringLog x.cfg ∧ 2 ^ ringLog x.cfg < (17 + 2 ^ 32 - x.head) % 2 ^ 32)) ∧
    (let s := { (idle []).modCluster 0 fun c => { c with owner := .guest 9 } with atab := [entry (targetBank 0) 9] }
     (s.cluster 0).owner = .guest 9 ∧ mregOf 0x108000 = .cntsel 0 0 ∧
       s.tableAllows (mregOf 0x108000).target 9 false true (mregOf 0x108000).unit?.isSome = true) ∧
    (let s := { (idle []).modCluster 0 fun c => { c with owner := .guest 8 } with
       atab := [entry (targetBank 0) 9, (targetBank 0 * 256 + 1, BitVec.ofNat 64 (0x1003 + 15 * 2 ^ 16))] }
     (s.cluster 0).owner = .guest 8 ∧ s.tableAllows (targetBank 0) 9 false false true = true ∧
       s.tableAllows (targetBank 0) 0x1003 false false true = true ∧ 9 / 2 ^ 12 ≠ 1 ∧ 0x1003 / 2 ^ 12 = 1) ∧
    (let s := (idle []).modCluster 0 fun c => { c with owner := .hyp 0x1005 (some 9) }
     (s.cluster 0).owner = .hyp 0x1005 (some 9) ∧ 0x1005 ≠ 9 ∧ 0x1003 ≠ 9) := by decide +kernel
theorem witness_ThePackageChangesState :
    (let s := idle []
     allLinks.contains (dieLink 0 1 0) = true ∧ s.linkIsDown (dieLink 0 1 0) = false ∧
     dieLink 0 1 0 ∉ s.pkg.retrains ∧ gulongLink 15 < 2 ^ 11 ∧ gulongLink 15 ∈ s.pkg.retrains ∧
     s.linkFails (gulongLink 15) < 2 ∧ s.pkg.fstate = 0 ∧ s.threads = [] ∧
     (s.reqs = [] ∧ s.missed = [] ∧ s.replies = [] ∧ s.delivers = [] ∧ s.partials = [] ∧ s.engines = [] ∧
       s.groups = [] ∧ ∀ c ∈ s.cores, c.2.phases = []) ∧
     s.pkg.tripped = false ∧ s.launches = [] ∧ (s.cluster 47).disabled.contains 127 = false ∧
     124 < (s.cluster 47).encnt) ∧
    (let s := { idle [] with pkg := { State.reset.pkg with links := [(gulongLink 15, 2)] } }
     s.linkFails (gulongLink 15) = 2 ∧ gulongLink 15 ∈ s.pkg.retrains) ∧
    (let s := { idle [] with pkg := { State.reset.pkg with links := [(gulongLink 15, 3)] } }
     s.linkIsDown (gulongLink 15) = true) ∧
    (let s := { idle [] with pkg := { State.reset.pkg with fstate := 1 } }
     s.pkg.fstate = 1 ∧ s.quiesceFault = none ∧ s.quiesceLate = none ∧ s.atRest = true) ∧
    ({ State.reset.pkg with fstate := 2 } : Pkg).fstate = 2 ∧
    (450 ≤ ({ State.reset.pkg with clock := 825 } : Pkg).clock ∧ ({ State.reset.pkg with clock := 825 } : Pkg).clock ≤ 825 ∧
     ({ State.reset.pkg with clock := 425 } : Pkg).clock < 450 ∧ 825 < ({ State.reset.pkg with clock := 850 } : Pkg).clock) ∧
    (let m : FaultNote := ⟨12, 5, 1, 0, 0⟩
     let s := { idle [] with pkg := { State.reset.pkg with notes := [m] } }
     s.pkg.notes = [m] ∧ s.launch? m.launch = none) ∧
    (let s := (idle []).modCluster 47 fun c => { c with encnt := 124 }
     (s.cluster 47).disabled.contains 127 = false ∧ (s.cluster 47).encnt ≤ 124) := by decide +kernel

theorem witness_TraceAndPairedMode :
    (let s := { (idle []).modTrace fun t => { t with owner := .guest 9 } with atab := [entry targetTrace 9] }
     s.tableAllows targetTrace 9 false true true = true ∧ (1 : Word).getLsbD 0 = true ∧
     s.pkg.trace.owner = .guest 9 ∧ s.pkg.trace.opened = [] ∧ s.pkg.trace.ctl.getLsbD 0 = false) ∧
    (let r : TraceRec := ⟨3, 3, 0, 0, [1, 2, 3, 4, 5, 6]⟩
     let tap : Tap := ⟨1, [r], 0⟩
     let s := (idle []).modTrace fun t => { t with taps := [(3, tap)] }
     s.pkg.trace.taps = [(3, tap)] ∧ tap.recs = [r] ∧ s.pkg.trace.opened.length + r.words.length ≤ recordArea) ∧
    (let s := (idle []).modTrace fun t => { t with opened := [1, 2, 3] }
     s.pkg.trace.opened ≠ [] ∧ s.pkg.trace.nextBuf.isSome = true ∧
     ((idle []).modTrace fun t => { t with n := 2, bufs := [⟨0, 0, true⟩, ⟨1, 1, true⟩] }).pkg.trace.nextBuf = none) ∧
    (let b : StageBuf := ⟨0, 0, false⟩
     let s := (idle []).modTrace fun t => { t with bufs := [b] }
     s.pkg.trace.bufs = [b] ∧ b.sent = false) ∧
    (let c : TraceCmd := ⟨0, 0, 1, 256, 0x100000⟩
     let s := (idle []).modTrace fun t => { t with cmds := [c] }
     s.pkg.trace.cmds[4 / 3 % s.pkg.trace.cmds.length]? = some c ∧ 4 % 3 ≠ 0 ∧ 5 % 3 = 2) ∧
    (let s := (idle []).modTrace fun t => { t with ctl := 0x1FF }
     s.traceOn 5 = true) ∧
    (let s := { idle [] with pkg := { State.reset.pkg with feat := State.reset.pkg.feat.set 1 1 } }
     s.launches = [] ∧ s.pkg.feat[1].getLsbD 0 = true) ∧
    ({ idle [] with launches := [(0, launch)] }).launches ≠ [] ∧
    (let s := { (idle []).modSlice 0 fun x => { x with digests := [(2 ^ 16 + 5, 0, 1)] } with
       pkg := { State.reset.pkg with pstat := 1 } }
     s.paired = true ∧ s.openIntervals = [2 ^ 16 + 5] ∧ s.intervalOver ((2 ^ 16 + 5) / 2 ^ 16) ((2 ^ 16 + 5) % 2 ^ 16) = true) := by
  decide +kernel

end
end

section
/-! What the decoder accepts and what it reads: each step of a parser, each shape of Table 2.9's rows, and from them
the decoder as a whole (02 R26, Table 2.4, Table 2.13). -/

namespace Sys2Proof

/-! ### What a parser's steps accept -/

/-- A parser that answers has run its first step and then its rest. -/
@[simp] theorem P.bind_ok {α β : Type} (p : P α) (k : α → P β) (u v : Bool) (y : β) :
    (p >>= k) u = .ok (y, v) ↔ ∃ a u1, p u = .ok (a, u1) ∧ k a u1 = .ok (y, v) := by
  cases h : p u with
  | error e => simp [bind, StateT.bind, Except.bind, h]
  | ok r =>
    obtain ⟨a, u1⟩ := r
    simp only [bind, StateT.bind, Except.bind, h, Except.ok.injEq, Prod.mk.injEq]
    exact ⟨fun hk => ⟨a, u1, ⟨rfl, rfl⟩, hk⟩, fun ⟨_, _, ⟨ha, hu⟩, hk⟩ => ha ▸ hu ▸ hk⟩

@[simp] theorem P.map_ok {α β : Type} (f : α → β) (p : P α) (u v : Bool) (y : β) :
    (f <$> p) u = .ok (y, v) ↔ ∃ a, p u = .ok (a, v) ∧ f a = y := by
  rw [← bind_pure_comp, P.bind_ok]
  simp [pure, StateT.pure, Except.pure]

@[simp] theorem P.pure_ok {α : Type} (a y : α) (u v : Bool) : (pure a : P α) u = .ok (y, v) ↔ a = y ∧ u = v := by
  simp [pure, StateT.pure, Except.pure]

@[simp] theorem P.fail_ok {α : Type} (c : Cause) (fc : BitVec 4) (y : α) (u v : Bool) :
    (P.fail c fc : P α) u = .ok (y, v) ↔ False := by
  simp [P.fail]

@[simp] theorem P.get_ok {α : Type} (x : Option α) (c : Cause) (fc : BitVec 4) (y : α) (u v : Bool) :
    P.get x c fc u = .ok (y, v) ↔ x = some y ∧ u = v := by
  cases x <;> simp [P.get]

@[simp] theorem opnd_ok (b : Bool) (fc : BitVec 4) (y : Unit) (u v : Bool) :
    opnd b fc u = .ok (y, v) ↔ b = true ∧ u = v := by
  cases b <;> simp [opnd]

@[simp] theorem modf_ok (b : Bool) (y : Unit) (u v : Bool) : modf b u = .ok (y, v) ↔ b = true ∧ u = v := by
  cases b <;> simp [modf]

@[simp] theorem portRule_ok (b : Bool) (fc : BitVec 4) (y : Unit) (u v : Bool) :
    portRule b fc u = .ok (y, v) ↔ (u && b) = false ∧ (u || b) = v := by
  cases b <;> cases u <;> simp [portRule]

/-! ### Codes of registers and modifiers, both ways -/

/-- A code read back is the code of what it names, where reading back undoes coding. -/
theorem code_iff {α : Type} {n : Nat} {code : α → BitVec n} {ofCode : BitVec n → Option α}
    (h1 : ∀ c, (ofCode c).all (fun a => code a == c) = true) (h2 : ∀ a, ofCode (code a) = some a)
    (c : BitVec n) (a : α) :
    ofCode c = some a ↔ code a = c := by
  constructor
  · intro h
    have := h1 c
    simpa [h] using this
  · rintro rfl
    exact h2 a

theorem SReg.ofCode?_largest (c : BitVec 7) (r : SReg) : SReg.ofCode? .largest c = some r ↔ r.code = c := by
  refine code_iff (by decide) (fun r => ?_) c r
  cases r with
  | l n => revert n; decide
  | g n => revert n; decide
  | s n => revert n; decide
  | d n => revert n; decide
  | _ => decide

theorem Dst.ofCode?_largest (c : BitVec 7) (r : Dst) : Dst.ofCode? .largest c = some r ↔ r.code = c := by
  refine code_iff (by decide) (fun r => ?_) c r
  cases r with
  | l n => revert n; decide
  | s n => revert n; decide
  | _ => decide

@[simp] theorem Fmt.ofCode?_iff (c : BitVec 4) (x : Fmt) : Fmt.ofCode? c = some x ↔ x.code = c :=
  code_iff (by decide) (fun x => by cases x <;> rfl) c x
@[simp] theorem Rnd.ofCode?_iff (c : BitVec 3) (x : Rnd) : Rnd.ofCode? c = some x ↔ x.code = c :=
  code_iff (by decide) (fun x => by cases x <;> rfl) c x
@[simp] theorem ICond.ofCode?_iff (c : BitVec 4) (x : ICond) : ICond.ofCode? c = some x ↔ x.code = c :=
  code_iff (by decide) (fun x => by cases x <;> rfl) c x
@[simp] theorem FCond.ofCode?_iff (c : BitVec 4) (x : FCond) : FCond.ofCode? c = some x ↔ x.code = c :=
  code_iff (by decide) (fun x => by cases x <;> rfl) c x
@[simp] theorem Cmb.ofCode?_iff (c : BitVec 2) (x : Cmb) : Cmb.ofCode? c = some x ↔ x.code = c :=
  code_iff (by decide) (fun x => by cases x <;> rfl) c x
@[simp] theorem FsetField.ofCode?_iff (c : BitVec 4) (x : FsetField) : FsetField.ofCode? c = some x ↔ x.code = c :=
  code_iff (by decide) (fun x => by cases x <;> rfl) c x
@[simp] theorem FstatSel.ofCode?_iff (c : BitVec 3) (x : FstatSel) : FstatSel.ofCode? c = some x ↔ x.code = c :=
  code_iff (by decide) (fun x => by cases x <;> rfl) c x
@[simp] theorem WqrySel.ofCode?_iff (c : BitVec 4) (x : WqrySel) : WqrySel.ofCode? c = some x ↔ x.code = c :=
  code_iff (by decide) (fun x => by cases x <;> rfl) c x
@[simp] theorem QWReg.ofCode?_iff (c : BitVec 7) (x : QWReg) : QWReg.ofCode? c = some x ↔ x.code = c := by
  refine code_iff (by decide) (fun x => ?_) c x
  cases x with
  | q n => revert n; decide
  | w n => revert n; decide

/-- A modifier of which every code is assigned. -/
theorem code_iff_total {α : Type} {n : Nat} {code : α → BitVec n} {ofCode : BitVec n → α}
    (h1 : ∀ c, code (ofCode c) = c) (h2 : ∀ a, ofCode (code a) = a) (c : BitVec n) (a : α) :
    ofCode c = a ↔ code a = c :=
  ⟨fun h => h ▸ h1 c, fun h => h ▸ h2 a⟩

@[simp] theorem Scope.ofCode_iff (c : BitVec 2) (x : Scope) : Scope.ofCode c = x ↔ x.code = c :=
  code_iff_total (by decide) (fun x => by cases x <;> rfl) c x
@[simp] theorem Ord.ofCode_iff (c : BitVec 2) (x : Ord) : Ord.ofCode c = x ↔ x.code = c :=
  code_iff_total (by decide) (fun x => by cases x <;> rfl) c x
@[simp] theorem Size.ofCode_iff (c : BitVec 2) (x : Size) : Size.ofCode c = x ↔ x.code = c :=
  code_iff_total (by decide) (fun x => by cases x <;> rfl) c x
@[simp] theorem Tag.ofCode_iff (c : BitVec 2) (x : Tag) : Tag.ofCode c = x ↔ x.code = c :=
  code_iff_total (by decide) (fun x => by cases x <;> rfl) c x
@[simp] theorem EappOp.ofCode_iff (c : BitVec 2) (x : EappOp) : EappOp.ofCode c = x ↔ x.code = c :=
  code_iff_total (by decide) (fun x => by cases x <;> rfl) c x
@[simp] theorem RstatSel.ofCode_iff (c : BitVec 3) (x : RstatSel) : RstatSel.ofCode c = x ↔ x.code = c :=
  code_iff_total (by decide) (fun x => by cases x <;> rfl) c x
@[simp] theorem Act.ofCode_iff (c : BitVec 2) (x : Act) : Act.ofCode c = x ↔ x.code = c :=
  code_iff_total (by decide) (fun x => by cases x <;> rfl) c x
@[simp] theorem Gate.ofCode_iff (c : BitVec 2) (x : Gate) : Gate.ofCode c = x ↔ x.code = c :=
  code_iff_total (by decide) (fun x => by cases x <;> rfl) c x

/-! ### Fields of a register or a number -/

@[simp] theorem rd_ok (fc : BitVec 4) (c : BitVec 7) (r : SReg) (u v : Bool) :
    rd .largest fc c u = .ok (r, v) ↔ r.code = c ∧ (u && r.isPort) = false ∧ (u || r.isPort) = v := by
  simp [rd, SReg.ofCode?_largest]
  grind

@[simp] theorem wr_ok (c : BitVec 7) (r : Dst) (u v : Bool) :
    wr .largest c u = .ok (r, v) ↔ r.code = c ∧ (u && r.isPort) = false ∧ (u || r.isPort) = v := by
  simp [wr, Dst.ofCode?_largest]
  grind

/-- A bit of a word as a field of one bit. -/
theorem extract_one {w : Nat} (x : BitVec w) (i : Nat) : x.extractLsb' i 1 = BitVec.ofBool (x.getLsbD i) := by
  ext j hj
  obtain rfl : j = 0 := by omega
  simp [BitVec.getLsbD]

theorem extract_of_bit {w : Nat} {x : BitVec w} {i : Nat} (h : x.getLsbD i = true) : 1#1 = x.extractLsb' i 1 := by
  rw [extract_one, h]
  rfl

/-- A number field: what it names has the field as its code. -/
theorem numField_iff {n m : Nat} {code : Fin m → BitVec n} {ofCode : BitVec n → Option (Fin m)}
    (h1 : ∀ c, (ofCode c).all (fun a => code a == c) = true) (h2 : ∀ a, ofCode (code a) = some a) (fc : BitVec 4)
    (c : BitVec n) (a : Fin m) (u v : Bool) :
    P.get (ofCode c) .illegalOperand fc u = .ok (a, v) ↔ code a = c ∧ u = v := by
  rw [P.get_ok, code_iff h1 h2]

@[simp] theorem localNo_ok (fc : BitVec 4) (c : BitVec 7) (n : Fin 64) (u v : Bool) :
    localNo .largest fc c u = .ok (n, v) ↔ lCode n = c ∧ u = v :=
  numField_iff
    (ofCode := fun c => if h : c.toNat < 64 then if c.toNat < Win.largest.l then some ⟨c.toNat, h⟩ else none else none)
    (by decide) (by decide) fc c n u v

@[simp] theorem predNo_ok (fc : BitVec 4) (c : BitVec 7) (n : PredNo) (u v : Bool) :
    predNo fc c u = .ok (n, v) ↔ predCode n = c ∧ u = v :=
  numField_iff
    (ofCode := fun c => if h : c.toNat < 8 then some ⟨c.toNat, h⟩ else none)
    (by decide) (by decide) fc c n u v

@[simp] theorem vNo_ok (fc : BitVec 4) (c : BitVec 7) (n : VNo) (u v : Bool) :
    vNo fc c u = .ok (n, v) ↔ vCode n = c ∧ u = v :=
  numField_iff
    (ofCode := fun c => if h : c.toNat < 32 then some ⟨c.toNat, h⟩ else none)
    (by decide) (by decide) fc c n u v

@[simp] theorem kNo_ok (fc : BitVec 4) (c : BitVec 7) (n : KNo) (u v : Bool) :
    kNo fc c u = .ok (n, v) ↔ kCode n = c ∧ u = v :=
  numField_iff
    (ofCode := fun c => if h : 0x20 ≤ c.toNat ∧ c.toNat < 0x28 then some ⟨c.toNat - 0x20, by omega⟩ else none)
    (by decide) (by decide) fc c n u v

@[simp] theorem sixteen_ok (fc : BitVec 4) (base : Nat) (hb : base + 16 ≤ 128) (c : BitVec 7)
    (n : Fin 16) (u v : Bool) : sixteen fc base c u = .ok (n, v) ↔ BitVec.ofNat 7 (base + n.val) = c ∧ u = v := by
  have hn := n.isLt
  simp only [sixteen, P.get_ok, Option.dite_none_right_eq_some, Option.some.injEq, Fin.ext_iff, ← BitVec.toNat_inj,
    BitVec.toNat_ofNat]
  have := c.isLt
  constructor
  · rintro ⟨⟨h, he⟩, rfl⟩
    exact ⟨by omega, rfl⟩
  · rintro ⟨he, rfl⟩
    exact ⟨⟨by omega, by omega⟩, rfl⟩

@[simp] theorem unused_ok (fc : BitVec 4) (c : BitVec 7) (y : Unit) (u v : Bool) :
    unused fc c u = .ok (y, v) ↔ 0#7 = c ∧ u = v := by
  simp only [unused, opnd_ok, beq_iff_eq, @eq_comm _ c]
  rfl

@[simp] theorem sbUnused_ok (f : Fields) (y : Unit) (u v : Bool) :
    sbUnused f u = .ok (y, v) ↔ 0#32 = f.sb ∧ u = v := by
  simp only [sbUnused, opnd_ok, beq_iff_eq, @eq_comm _ f.sb]
  rfl

@[simp] theorem lit0_ok (f : Fields) (y : Unit) (u v : Bool) : lit0 f u = .ok (y, v) ↔ f.lit = false ∧ u = v := by
  simp [lit0]

@[simp] theorem lit1_ok (f : Fields) (y : Unit) (u v : Bool) : lit1 f u = .ok (y, v) ↔ f.lit = true ∧ u = v := by
  simp [lit1]

/-- The bits of SB above a specifier are zero: SB is the specifier, widened. -/
theorem sb_eq_setWidth (x : BitVec 32) (c : BitVec 7) : c.setWidth 32 = x ↔ x >>> 7 = 0 ∧ c = x.setWidth 7 := by
  constructor
  · rintro rfl
    bv_omega
  · rintro ⟨h, rfl⟩
    bv_omega

@[simp] theorem sbHigh_ok (f : Fields) (y : Unit) (u v : Bool) :
    sbHigh f u = .ok (y, v) ↔ (f.lit = false → f.sb >>> 7 = 0) ∧ u = v := by
  cases h : f.lit <;> simp [sbHigh, h]

@[simp] theorem guardP_ok (f : Fields) (g : Guard) (u v : Bool) :
    guardP f u = .ok (g, v) ↔ g.wf = true ∧ g.pn = f.pn ∧ BitVec.ofNat 3 g.pr.val = f.pr ∧ u = v := by
  obtain ⟨pr, pn⟩ := g
  have hpr : f.pr.toFin = pr ↔ BitVec.ofNat 3 pr.val = f.pr := by
    simp only [Fin.ext_iff, ← BitVec.toNat_inj, BitVec.toNat_ofNat]
    have := pr.isLt
    simp
    omega
  have h0 : f.pr = 0 ↔ f.pr.toFin = 0 := by
    simp [Fin.ext_iff, ← BitVec.toNat_inj]
  simp only [guardP, P.bind_ok, opnd_ok, P.pure_ok, Guard.mk.injEq, hpr, Guard.wf]
  grind

/-- B with the UL bit: SB, LIT and, for a literal, UL hold its form. -/
@[simp] theorem srcB_ok (f : Fields) (b : SrcB) (u v : Bool) :
    srcB .largest f u = .ok (b, v) ↔ b.sb = f.sb ∧ b.isLit = f.lit ∧
      (f.lit = true → b.ul = f.low.extractLsb' 12 1) ∧ (u && b.isPort) = false ∧ (u || b.isPort) = v := by
  unfold srcB
  rw [extract_one]
  cases hl : f.lit with
  | true =>
    generalize f.low.getLsbD 12 = ul
    cases ul <;> cases b <;> simp [SrcB.sb, SrcB.isLit, SrcB.ul, SrcB.isPort]
    all_goals exact fun _ => eq_comm
  | false =>
    cases b <;> simp [SrcB.sb, SrcB.isLit, SrcB.isPort, sb_eq_setWidth, Fields.sbReg, hl, -Bool.exists_bool]
    exact and_assoc.symm

@[simp] theorem srcC_ok (f : Fields) (b : SrcC) (u v : Bool) :
    srcC .largest f u = .ok (b, v) ↔
      b.sb = f.sb ∧ b.isLit = f.lit ∧ (u && b.isPort) = false ∧ (u || b.isPort) = v := by
  unfold srcC
  cases hl : f.lit with
  | true =>
    cases b <;> simp [SrcC.sb, SrcC.isLit, SrcC.isPort]
    exact fun _ => eq_comm
  | false =>
    cases b <;> simp [SrcC.sb, SrcC.isLit, SrcC.isPort, sb_eq_setWidth, Fields.sbReg, hl, -Bool.exists_bool]
    exact and_assoc.symm

@[simp] theorem memOp_ok (f : Fields) (m : MemOp) (u v : Bool) :
    memOp .largest f u = .ok (m, v) ↔ m.base.code = f.sa ∧ m.off.sb = f.sb ∧ m.off.isLit = f.lit ∧
      (u && m.base.isPort) = false ∧ ((u || m.base.isPort) && m.off.isPort) = false ∧
      (u || m.base.isPort || m.off.isPort) = v := by
  obtain ⟨a, b⟩ := m
  simp [memOp, -Bool.exists_bool]
  grind

@[simp] theorem vSrc_ok (f : Fields) (y : VSrc) (u v : Bool) :
    vSrc f u = .ok (y, v) ↔ y.sb = f.sb ∧ y.isLit = f.lit ∧ u = v := by
  unfold vSrc
  cases hl : f.lit with
  | true =>
    cases y <;> simp [VSrc.sb, VSrc.isLit]
    exact fun _ => eq_comm
  | false =>
    cases y <;> simp [VSrc.sb, VSrc.isLit, sb_eq_setWidth, Fields.sbReg, hl, -Bool.exists_bool]
    exact and_right_comm

/-- A V register in SB of an instruction whose LIT is checked afterwards. -/
@[simp] theorem sbV_ok (f : Fields) (n : VNo) (u v : Bool) :
    sbV f u = .ok (n, v) ↔
      (f.lit = true → n = 0) ∧ (f.lit = false → (vCode n).setWidth 32 = f.sb) ∧ u = v := by
  cases hl : f.lit with
  | true => simp [sbV, hl, eq_comm (a := n)]
  | false =>
    simp [sbV, hl, sb_eq_setWidth, Fields.sbReg, -Bool.exists_bool]
    exact and_right_comm

/-! ### The bits of MOD -/

/-- Every number of the runs is an index of a bit that the mask leaves out, and conversely. -/
def runsOf (mask : BitVec 13) (runs : List (Nat × Nat)) : Bool :=
  (List.range 13).all fun i => mask.getLsbD i != runs.any fun r => decide (r.1 ≤ i) && decide (i < r.1 + r.2)

/-- Bits outside a mask are zero: each run of them is. -/
theorem and_not_eq_zero_iff (x mask : BitVec 13) (runs : List (Nat × Nat)) (h : runsOf mask runs = true) :
    x &&& ~~~mask = 0 ↔ ∀ r ∈ runs, 0#r.2 = x.extractLsb' r.1 r.2 := by
  simp only [runsOf, List.all_eq_true, List.mem_range, bne_iff_ne, ne_eq] at h
  constructor
  · intro hx r hr
    refine BitVec.eq_of_getLsbD_eq fun i hi => ?_
    simp only [BitVec.getLsbD_extractLsb', hi, decide_true, Bool.true_and, BitVec.getLsbD_zero]
    by_cases hb : r.1 + i < 13
    · have hm : mask.getLsbD (r.1 + i) = false := by
        have := h _ hb
        have hany : (runs.any fun r' => decide (r'.1 ≤ r.1 + i) && decide (r.1 + i < r'.1 + r'.2)) = true :=
          List.any_eq_true.mpr ⟨r, hr, by simp [hi]⟩
        simpa [hany] using this
      have := congrArg (fun y => y.getLsbD (r.1 + i)) hx
      simp only [BitVec.getLsbD_and, BitVec.getLsbD_not, hm, hb, decide_true, Bool.not_false, Bool.and_true] at this
      exact (by simpa using this.symm)
    · exact (BitVec.getLsbD_of_ge _ _ (by omega)).symm
  · intro hx
    refine BitVec.eq_of_getLsbD_eq fun i hi => ?_
    by_cases hm : mask.getLsbD i = true
    · simp [hm, hi]
    · have := h i hi
      have hany : (runs.any fun r => decide (r.1 ≤ i) && decide (i < r.1 + r.2)) = true := by simpa [hm] using this
      obtain ⟨r, hr, hin⟩ := List.any_eq_true.mp hany
      have hz := congrArg (fun y => y.getLsbD (i - r.1)) (hx r hr)
      simp only [Bool.and_eq_true, decide_eq_true_eq] at hin
      have e : r.1 + (i - r.1) = i := by omega
      have hlt : i - r.1 < r.2 := by omega
      simp only [BitVec.getLsbD_zero, BitVec.getLsbD_extractLsb', hlt, decide_true, Bool.true_and, e] at hz
      simp [← hz]

/-- R31 of one row: the shared fields that it does not carry are zero, and so is each run of the low bits that it
leaves unused. -/
theorem modOk_iff {mask : BitVec 13} {c : Carry} (runs : List (Nat × Nat)) (h : runsOf mask runs = true) (f : Fields) :
    modOk f mask c = true ↔ (c.scope = false → 0#2 = f.scope) ∧ (c.ord = false → 0#2 = f.ord) ∧
      (c.sas = false → f.sas = false) ∧ (c.ovf = false → f.ovf = false) ∧ (c.fmt = false → 0#4 = f.fmt) ∧
      (c.fmt2 = false → 0#4 = f.fmt2) ∧ (c.rnd = false → 0#3 = f.rnd) ∧
      ∀ r ∈ runs, 0#r.2 = f.low.extractLsb' r.1 r.2 := by
  rw [← and_not_eq_zero_iff f.low mask runs h]
  simp only [modOk, Bool.and_eq_true, Bool.or_eq_true, beq_iff_eq, Bool.not_eq_true', and_assoc, ← Bool.not_eq_true,
    @eq_comm _ 0#2, @eq_comm _ 0#4, @eq_comm _ 0#3, ← or_iff_not_imp_left]
  rfl

/-- A concatenation is the word whose two parts are its two operands. -/
theorem append_eq_iff {m n : Nat} (a : BitVec m) (b : BitVec n) (x : BitVec (m + n)) :
    a ++ b = x ↔ a = x.extractLsb' n m ∧ b = x.extractLsb' 0 n := by
  constructor
  · rintro rfl
    exact ⟨BitVec.extractLsb'_append_eq_left.symm, BitVec.extractLsb'_append_eq_right.symm⟩
  · rintro ⟨rfl, rfl⟩
    rw [BitVec.extractLsb'_append_extractLsb'_eq_extractLsb' (Nat.zero_add n).symm, BitVec.extractLsb'_eq_self]

theorem extractLsb'_of_extractLsb' {w : Nat} (x : BitVec w) (a m b n : Nat) (h : b + n ≤ m) :
    (x.extractLsb' a m).extractLsb' b n = x.extractLsb' (a + b) n := by
  refine BitVec.eq_of_getLsbD_eq fun i hi => ?_
  have : b + i < m := by omega
  simp [hi, this, Nat.add_assoc]

theorem onePort_two (a b : Bool) : onePort [a, b] = !(a && b) := by
  cases a <;> cases b <;> rfl
theorem onePort_three (a b c : Bool) : onePort [a, b, c] = (!(a && b) && !((a || b) && c)) := by
  cases a <;> cases b <;> cases c <;> rfl
theorem onePort_four (a b c d : Bool) :
    onePort [a, b, c, d] = (!(a && b) && !((a || b) && c) && !((a || b || c) && d)) := by
  cases a <;> cases b <;> cases c <;> cases d <;> rfl

/-- UL = 1 with LIT = 1 only. -/
@[simp] theorem ulOk_iff (f : Fields) : ulOk f = true ↔ (f.lit = false → 0#1 = f.low.extractLsb' 12 1) := by
  rw [extract_one, ulOk]
  generalize f.low.getLsbD 12 = ul
  cases f.lit <;> cases ul <;> simp

theorem SrcB.ul_of_reg (b : SrcB) (h : b.isLit = false) : b.ul = 0#1 := by
  cases b with
  | reg r => rfl
  | lit v => simp [SrcB.isLit] at h
  | ulit v => simp [SrcB.isLit] at h

/-- Equal fields, one by one. -/
theorem Fields.eq_iff (x f : Fields) : x = f ↔ x.op = f.op ∧ x.pn = f.pn ∧ x.pr = f.pr ∧ x.dst = f.dst ∧
    x.sa = f.sa ∧ x.sb = f.sb ∧ x.sc = f.sc ∧ x.lit = f.lit ∧ x.scope = f.scope ∧ x.ord = f.ord ∧
    x.sas = f.sas ∧ x.ovf = f.ovf ∧ x.fmt = f.fmt ∧ x.fmt2 = f.fmt2 ∧ x.rnd = f.rnd ∧ x.low = f.low := by
  cases x; cases f; simp

/-! ### Modifier fields -/

@[simp] theorem fmtP_ok (c : BitVec 4) (x : Fmt) (u v : Bool) : fmtP c u = .ok (x, v) ↔ x.code = c ∧ u = v := by
  simp [fmtP]

@[simp] theorem rndP_ok (f : Fields) (x : Rnd) (u v : Bool) : rndP f u = .ok (x, v) ↔ x.code = f.rnd ∧ u = v := by
  simp [rndP]

@[simp] theorem toFin_eq_fin3 (x : BitVec 3) (p : Fin 8) : @Eq (Fin 8) x.toFin p ↔ fin3 p = x := by
  revert x p; decide

@[simp] theorem toFin_eq_qsBits (x : BitVec 2) (p : Fin 4) : @Eq (Fin 4) x.toFin p ↔ qsBits p = x := by
  revert x p; decide

@[simp] theorem toFin_eq_ringBits (x : BitVec 5) (p : Fin 32) : @Eq (Fin 32) x.toFin p ↔ ringBits p = x := by
  revert x p; decide

@[simp] theorem b1_eq_extract {w : Nat} (b : Bool) (x : BitVec w) (i : Nat) :
    b1 b = x.extractLsb' i 1 ↔ x.getLsbD i = b := by
  rw [extract_one, b1]
  cases b <;> cases x.getLsbD i <;> decide

/-- MSK, MZ and KM read from their five bits. -/
def maskOfBits (x : BitVec 5) : Option (Option VMask) :=
  if x.getLsbD 3 || (x.extractLsb' 0 3 == 0 && !x.getLsbD 4) then
    some (if x.getLsbD 3 then some ⟨(x.extractLsb' 0 3).toFin, x.getLsbD 4⟩ else none)
  else none

/-- MSK and KM read from their four bits. -/
def kmaskOfBits (x : BitVec 4) : Option (Option KNo) :=
  if x.getLsbD 3 || x.extractLsb' 0 3 == 0 then
    some (if x.getLsbD 3 then some (x.extractLsb' 0 3).toFin else none)
  else none

@[simp] theorem maskP_ok (f : Fields) (m : Option VMask) (u v : Bool) :
    maskP f u = .ok (m, v) ↔ maskBits m = f.low.extractLsb' 0 5 ∧ u = v := by
  have hcode : maskOfBits (f.low.extractLsb' 0 5) = some m ↔ maskBits m = f.low.extractLsb' 0 5 := by
    refine code_iff (by decide) (fun m => ?_) _ m
    match m with
    | none => decide
    | some ⟨km, mz⟩ => revert km mz; decide
  rw [← hcode]
  simp [maskP, maskOfBits, extractLsb'_of_extractLsb', and_right_comm]

@[simp] theorem kmaskP_ok (f : Fields) (m : Option KNo) (u v : Bool) :
    kmaskP f u = .ok (m, v) ↔ kmaskBits m = f.low.extractLsb' 0 4 ∧ u = v := by
  have hcode : kmaskOfBits (f.low.extractLsb' 0 4) = some m ↔ kmaskBits m = f.low.extractLsb' 0 4 := by
    refine code_iff (by decide) (fun m => ?_) _ m
    match m with
    | none => decide
    | some km => revert km; decide
  rw [← hcode]
  simp [kmaskP, kmaskOfBits, extractLsb'_of_extractLsb', and_right_comm]

@[simp] theorem ordP_ok (f : Fields) (orders : List Ord) (o : Ord) (u v : Bool) :
    ordP f orders u = .ok (o, v) ↔ orders.contains o = true ∧ o.code = f.ord ∧ u = v := by
  simp only [ordP, P.bind_ok, modf_ok, P.pure_ok, Ord.ofCode_iff]
  constructor
  · rintro ⟨_, _, ⟨h, rfl⟩, hc, rfl⟩
    exact ⟨by rwa [(Ord.ofCode_iff _ _).mpr hc] at h, hc, rfl⟩
  · rintro ⟨h, hc, rfl⟩
    exact ⟨(), u, ⟨by rwa [(Ord.ofCode_iff _ _).mpr hc], rfl⟩, hc, rfl⟩

@[simp] theorem sizeP_ok (f : Fields) (sizes : List Size) (z : Size) (u v : Bool) :
    sizeP f sizes u = .ok (z, v) ↔ 0#1 = f.low.extractLsb' 2 1 ∧ z.code = f.low.extractLsb' 0 2 ∧
      sizes.contains z = true ∧ u = v := by
  rw [extract_one, sizeP]
  simp only [P.bind_ok, modf_ok, P.pure_ok]
  generalize f.low.getLsbD 2 = b
  constructor
  · rintro ⟨_, _, ⟨hb, rfl⟩, _, _, ⟨hz, rfl⟩, hs, rfl⟩
    refine ⟨by cases b <;> simp_all, (Size.ofCode_iff _ _).mp hs, hs ▸ hz, rfl⟩
  · rintro ⟨hb, hs, hz, rfl⟩
    refine ⟨(), u, ⟨by cases b <;> simp_all, rfl⟩, (), u, ⟨by rwa [(Size.ofCode_iff _ _).mpr hs], rfl⟩,
      (Size.ofCode_iff _ _).mpr hs, rfl⟩

@[simp] theorem w64P_ok (f : Fields) (x u v : Bool) : w64P f u = .ok (x, v) ↔ fmt64 x = f.fmt ∧ u = v := by
  have h : ∀ (c : BitVec 4) (x : Bool), ((c == 2 || c == 3) = true ∧ (c == 3) = x) ↔ fmt64 x = c := by decide
  rw [← h]
  simp only [w64P, P.bind_ok, modf_ok, P.pure_ok, exists_const]
  grind

@[simp] theorem cregP_ok (f : Fields) (n : BitVec 12) (u v : Bool) :
    cregP f u = .ok (n, v) ↔ cregAssigned n = true ∧ n.setWidth 32 = f.sb ∧ u = v := by
  have h : n.setWidth 32 = f.sb ↔ f.sb >>> 12 = 0 ∧ f.sb.setWidth 12 = n := by
    constructor
    · intro h
      rw [← h]
      constructor <;> bv_omega
    · rintro ⟨h, rfl⟩
      bv_omega
  rw [h]
  simp only [cregP, P.bind_ok, opnd_ok, P.pure_ok, Bool.and_eq_true, beq_iff_eq]
  grind

@[simp] theorem vsize_eq (f : Fields) (z : Size) : vsize f = z ↔ z.code = f.low.extractLsb' 11 2 := by
  simp [vsize]

@[simp] theorem qsOf_eq (f : Fields) (q : Fin 4) : qsOf f = q ↔ qsBits q = f.low.extractLsb' 11 2 :=
  toFin_eq_qsBits _ _

@[simp] theorem ringOf_eq (f : Fields) (q : Fin 32) : ringOf f = q ↔ ringBits q = f.low.extractLsb' 0 5 :=
  toFin_eq_ringBits _ _

/-! ### The shapes: what each parser accepts is a well-formed operand record with these fields

Each proof goes the same way. `simp` turns the run of the parser into what its steps accept, and the equation of fields
into one for each field; `modOk_iff` names the runs of bits that the row leaves unused, and `append_eq_iff` takes the
low bits of MOD apart where the row puts them together. What is left is propositional. -/

/-- A source of a V form is a register or a literal. -/
theorem VSrc.exists_iff (p : VSrc → Prop) : (∃ y, p y) ↔ (∃ r, p (.v r)) ∨ ∃ x, p (.lit x) := by
  constructor
  · rintro ⟨y, hy⟩
    cases y with
    | v r => exact .inl ⟨r, hy⟩
    | lit x => exact .inr ⟨x, hy⟩
  · rintro (⟨r, hr⟩ | ⟨x, hx⟩)
    · exact ⟨_, hr⟩
    · exact ⟨_, hx⟩

/-- A parser that goes on by a bit accepts what the bit's branch accepts. -/
theorem P.ite_ok {α : Type} (b : Bool) (p q : P α) (u v : Bool) (y : α) :
    (if b then p else q) u = .ok (y, v) ↔ b = true ∧ p u = .ok (y, v) ∨ b = false ∧ q u = .ok (y, v) := by
  cases b <;> simp

theorem fsetOk_eq (f : FsetField) (b : SrcB) : fsetOk f b = !(f == .entry && b.ul == 1#1) := by
  cases b <;> cases f <;> rfl

theorem extract_eq_one {w : Nat} (x : BitVec w) (i : Nat) : x.extractLsb' i 1 = 1#1 ↔ x.getLsbD i = true := by
  rw [extract_one]
  cases x.getLsbD i <;> decide

theorem Dst.eq_l_iff (d : Dst) (t : Fin 64) : d = .l t ↔ d.code = lCode t := by
  have h : Dst.ofCode? .largest (lCode t) = some (.l t) := by revert t; decide
  rw [← Dst.ofCode?_largest, h, Option.some.injEq, eq_comm]

theorem vCode_even (v : VNo) : (vCode v)[0] = false ↔ v.val % 2 = 0 := by
  revert v
  decide

/-- Bit 9 of the low bits of MOD is the only one that may be 1. -/
theorem bit9_iff (b : Bool) (x : BitVec 13) :
    0#3 ++ BitVec.ofBool b ++ 0#9 = x ↔ 0#3 = x.extractLsb' 10 3 ∧ x.getLsbD 9 = b ∧ 0#9 = x.extractLsb' 0 9 := by
  rw [append_eq_iff, append_eq_iff, ← b1_eq_extract, b1]
  simp [extractLsb'_of_extractLsb', and_assoc]

theorem parseG_iff (f : Fields) (o : OpG) :
    (∃ v, parseG f false = .ok (o, v)) ↔ o.wf = true ∧ o.enc f.op = f := by
  obtain ⟨g⟩ := o
  simp [parseG, modOk_iff (mask := 0x0#13) [(0, 13)] (by decide), OpG.wf, OpG.enc, Fields.base, Fields.eq_iff]
  grind -ext

theorem parseA_iff (f : Fields) (o : OpA) :
    (∃ v, parseA .largest f false = .ok (o, v)) ↔ o.wf = true ∧ o.enc f.op = f := by
  obtain ⟨g, a⟩ := o
  simp [parseA, modOk_iff (mask := 0x0#13) [(0, 13)] (by decide), OpA.wf, OpA.enc, Fields.base, Fields.eq_iff]
  grind -ext

theorem parseD_iff (f : Fields) (o : OpD) :
    (∃ v, parseD .largest f false = .ok (o, v)) ↔ o.wf = true ∧ o.enc f.op = f := by
  obtain ⟨g, d⟩ := o
  simp [parseD, modOk_iff (mask := 0x0#13) [(0, 13)] (by decide), OpD.wf, OpD.enc, Fields.base, Fields.eq_iff]
  grind -ext

theorem parseDA_iff (f : Fields) (o : OpDA) :
    (∃ v, parseDA .largest f false = .ok (o, v)) ↔ o.wf = true ∧ o.enc f.op = f := by
  obtain ⟨g, d, a⟩ := o
  simp [parseDA, modOk_iff (mask := 0x0#13) [(0, 13)] (by decide), OpDA.wf, OpDA.enc, onePort_two, Fields.base,
    Fields.eq_iff]
  grind -ext

theorem parseBr_iff (f : Fields) (o : OpBr) :
    (∃ v, parseBr f false = .ok (o, v)) ↔ o.wf = true ∧ o.enc f.op = f := by
  obtain ⟨g, n⟩ := o
  simp [parseBr, modOk_iff (mask := 0x0#13) [(0, 13)] (by decide), OpBr.wf, OpBr.enc, Fields.base, Fields.eq_iff]
  grind -ext

theorem parseCall_iff (f : Fields) (o : OpCall) :
    (∃ v, parseCall .largest f false = .ok (o, v)) ↔ o.wf = true ∧ o.enc f.op = f := by
  obtain ⟨g, d, n⟩ := o
  simp [parseCall, modOk_iff (mask := 0x0#13) [(0, 13)] (by decide), OpCall.wf, OpCall.enc, Fields.base,
    Fields.eq_iff]
  grind -ext

theorem parseAC_iff (f : Fields) (o : OpAC) :
    (∃ v, parseAC .largest f false = .ok (o, v)) ↔ o.wf = true ∧ o.enc f.op = f := by
  obtain ⟨g, a, b⟩ := o
  simp [parseAC, modOk_iff (mask := 0x0#13) [(0, 13)] (by decide), OpAC.wf, OpAC.enc, onePort_two, Fields.base,
    Fields.eq_iff]
  grind -ext

theorem parseC_iff (f : Fields) (o : OpC) :
    (∃ v, parseC .largest f false = .ok (o, v)) ↔ o.wf = true ∧ o.enc f.op = f := by
  obtain ⟨g, b⟩ := o
  simp [parseC, modOk_iff (mask := 0x0#13) [(0, 13)] (by decide), OpC.wf, OpC.enc, Fields.base, Fields.eq_iff]
  grind -ext

theorem parseDC_iff (f : Fields) (o : OpDC) :
    (∃ v, parseDC .largest f false = .ok (o, v)) ↔ o.wf = true ∧ o.enc f.op = f := by
  obtain ⟨g, d, b⟩ := o
  simp [parseDC, modOk_iff (mask := 0x0#13) [(0, 13)] (by decide), OpDC.wf, OpDC.enc, onePort_two, Fields.base,
    Fields.eq_iff]
  grind -ext

theorem parseFgets_iff (f : Fields) (o : OpFgets) :
    (∃ v, parseFgets .largest f false = .ok (o, v)) ↔ o.wf = true ∧ o.enc f.op = f := by
  obtain ⟨g, d, a, n⟩ := o
  simp [parseFgets, modOk_iff (mask := 0x0#13) [(0, 13)] (by decide), OpFgets.wf, OpFgets.enc, onePort_two,
    Fields.base, Fields.eq_iff]
  grind -ext

theorem parseFstat_iff (f : Fields) (o : OpFstat) :
    (∃ v, parseFstat .largest f false = .ok (o, v)) ↔ o.wf = true ∧ o.enc f.op = f := by
  obtain ⟨g, d, a, s⟩ := o
  simp [parseFstat, modOk_iff (mask := 0x7#13) [(3, 10)] (by decide), OpFstat.wf, OpFstat.enc, onePort_two,
    Fields.base, Fields.eq_iff, -Bool.exists_bool]
  rw [append_eq_iff]
  simp [-BitVec.toFin_extractLsb']
  grind -ext

theorem parseMfc_iff (f : Fields) (o : OpMfc) :
    (∃ v, parseMfc .largest f false = .ok (o, v)) ↔ o.wf = true ∧ o.enc f.op = f := by
  obtain ⟨g, d, n⟩ := o
  simp [parseMfc, modOk_iff (mask := 0x0#13) [(0, 13)] (by decide), OpMfc.wf, OpMfc.enc, Fields.base, Fields.eq_iff]
  grind -ext

theorem parseMtc_iff (f : Fields) (o : OpMtc) :
    (∃ v, parseMtc .largest f false = .ok (o, v)) ↔ o.wf = true ∧ o.enc f.op = f := by
  obtain ⟨g, a, n⟩ := o
  simp [parseMtc, modOk_iff (mask := 0x0#13) [(0, 13)] (by decide), OpMtc.wf, OpMtc.enc, Fields.base, Fields.eq_iff]
  grind -ext

theorem parseAlu_iff (f : Fields) (o : OpAlu) :
    (∃ v, parseAlu .largest f false = .ok (o, v)) ↔ o.wf = true ∧ o.enc f.op = f := by
  obtain ⟨g, d, a, b⟩ := o
  simp [parseAlu, modOk_iff (mask := 0x1000#13) [(0, 12)] (by decide), OpAlu.wf, OpAlu.enc, onePort_three,
    Fields.base, Fields.eq_iff, -Bool.exists_bool]
  rw [append_eq_iff]
  simp [-BitVec.toFin_extractLsb']
  grind -ext [SrcB.ul_of_reg]

theorem parseAluU_iff (f : Fields) (o : OpAluU) :
    (∃ v, parseAluU .largest f false = .ok (o, v)) ↔ o.wf = true ∧ o.enc f.op = f := by
  obtain ⟨g, d, a, b, uns⟩ := o
  simp [parseAluU, modOk_iff (mask := 0x1001#13) [(1, 11)] (by decide), OpAluU.wf, OpAluU.enc, onePort_three,
    Fields.base, Fields.eq_iff, -Bool.exists_bool]
  rw [append_eq_iff, append_eq_iff]
  simp [extractLsb'_of_extractLsb']
  grind -ext [SrcB.ul_of_reg]

theorem parseAlu3_iff (f : Fields) (o : OpAlu3) :
    (∃ v, parseAlu3 .largest f false = .ok (o, v)) ↔ o.wf = true ∧ o.enc f.op = f := by
  obtain ⟨g, d, a, b, c⟩ := o
  simp [parseAlu3, modOk_iff (mask := 0x1000#13) [(0, 12)] (by decide), OpAlu3.wf, OpAlu3.enc, onePort_four,
    Fields.base, Fields.eq_iff, -Bool.exists_bool]
  rw [append_eq_iff]
  simp [-BitVec.toFin_extractLsb']
  grind -ext [SrcB.ul_of_reg]

theorem parseBfx_iff (f : Fields) (o : OpBfx) :
    (∃ v, parseBfx .largest f false = .ok (o, v)) ↔ o.wf = true ∧ o.enc f.op = f := by
  obtain ⟨g, d, a, pos, len⟩ := o
  simp [parseBfx, modOk_iff (mask := 0xfff#13) [(12, 1)] (by decide), OpBfx.wf, OpBfx.enc, onePort_two,
    Fields.base, Fields.eq_iff, -Bool.exists_bool]
  rw [append_eq_iff, append_eq_iff]
  simp [extractLsb'_of_extractLsb']
  grind -ext

theorem parseBfi_iff (f : Fields) (o : OpBfi) :
    (∃ v, parseBfi .largest f false = .ok (o, v)) ↔ o.wf = true ∧ o.enc f.op = f := by
  obtain ⟨g, d, a, c, pos, len⟩ := o
  simp [parseBfi, modOk_iff (mask := 0xfff#13) [(12, 1)] (by decide), OpBfi.wf, OpBfi.enc, onePort_three,
    Fields.base, Fields.eq_iff, -Bool.exists_bool]
  rw [append_eq_iff, append_eq_iff]
  simp [extractLsb'_of_extractLsb']
  grind -ext

theorem parseExt_iff (f : Fields) (o : OpExt) :
    (∃ v, parseExt .largest f false = .ok (o, v)) ↔ o.wf = true ∧ o.enc f.op = f := by
  obtain ⟨g, d, a, len⟩ := o
  simp [parseExt, modOk_iff (mask := 0xfc0#13) [(0, 6), (12, 1)] (by decide), OpExt.wf, OpExt.enc, onePort_two,
    Fields.base, Fields.eq_iff, -Bool.exists_bool]
  rw [append_eq_iff, append_eq_iff]
  simp [extractLsb'_of_extractLsb']
  grind -ext

theorem parseMov_iff (f : Fields) (o : OpMov) :
    (∃ v, parseMov .largest f false = .ok (o, v)) ↔ o.wf = true ∧ o.enc f.op = f := by
  obtain ⟨g, d, b⟩ := o
  simp [parseMov, modOk_iff (mask := 0x1000#13) [(0, 12)] (by decide), OpMov.wf, OpMov.enc, onePort_two,
    Fields.base, Fields.eq_iff, -Bool.exists_bool]
  rw [append_eq_iff]
  simp [-BitVec.toFin_extractLsb']
  grind -ext [SrcB.ul_of_reg]

theorem parseLea_iff (f : Fields) (o : OpLea) :
    (∃ v, parseLea .largest f false = .ok (o, v)) ↔ o.wf = true ∧ o.enc f.op = f := by
  obtain ⟨g, d, a, b, sh⟩ := o
  simp [parseLea, modOk_iff (mask := 0x1007#13) [(3, 9)] (by decide), OpLea.wf, OpLea.enc, onePort_three,
    Fields.base, Fields.eq_iff, -Bool.exists_bool]
  rw [append_eq_iff, append_eq_iff]
  simp [extractLsb'_of_extractLsb']
  grind -ext [SrcB.ul_of_reg]

theorem parseCmp_iff (f : Fields) (o : OpCmp) :
    (∃ v, parseCmp .largest f false = .ok (o, v)) ↔ o.wf = true ∧ o.enc f.op = f := by
  obtain ⟨g, pd, a, b, cmb, cond⟩ := o
  simp [parseCmp, modOk_iff (mask := 0x103f#13) [(6, 6)] (by decide), OpCmp.wf, OpCmp.enc, onePort_two,
    Fields.base, Fields.eq_iff, -Bool.exists_bool]
  rw [append_eq_iff, append_eq_iff, append_eq_iff]
  simp [extractLsb'_of_extractLsb']
  grind -ext [SrcB.ul_of_reg]

theorem parseFp2_iff (f : Fields) (o : OpFp2) :
    (∃ v, parseFp2 .largest f false = .ok (o, v)) ↔ o.wf = true ∧ o.enc f.op = f := by
  obtain ⟨g, d, a, b, ovf, rnd⟩ := o
  simp [parseFp2, modOk_iff (mask := 0x0#13) [(0, 13)] (by decide), OpFp2.wf, OpFp2.enc, onePort_three,
    Fields.base, Fields.eq_iff, -Bool.exists_bool]
  grind -ext

theorem parseFpMin_iff (f : Fields) (o : OpFpMin) :
    (∃ v, parseFpMin .largest f false = .ok (o, v)) ↔ o.wf = true ∧ o.enc f.op = f := by
  obtain ⟨g, d, a, b⟩ := o
  simp [parseFpMin, modOk_iff (mask := 0x0#13) [(0, 13)] (by decide), OpFpMin.wf, OpFpMin.enc, onePort_three,
    Fields.base, Fields.eq_iff, -Bool.exists_bool]
  grind -ext

theorem parseFp3_iff (f : Fields) (o : OpFp3) :
    (∃ v, parseFp3 .largest f false = .ok (o, v)) ↔ o.wf = true ∧ o.enc f.op = f := by
  obtain ⟨g, d, a, b, c, ovf, rnd⟩ := o
  simp [parseFp3, modOk_iff (mask := 0x0#13) [(0, 13)] (by decide), OpFp3.wf, OpFp3.enc, onePort_four, Fields.base,
    Fields.eq_iff, -Bool.exists_bool]
  grind -ext

theorem parseFcmp_iff (f : Fields) (o : OpFcmp) :
    (∃ v, parseFcmp .largest f false = .ok (o, v)) ↔ o.wf = true ∧ o.enc f.op = f := by
  obtain ⟨g, pd, a, b, cmb, cond⟩ := o
  simp [parseFcmp, modOk_iff (mask := 0x3f#13) [(6, 7)] (by decide), OpFcmp.wf, OpFcmp.enc, onePort_two,
    Fields.base, Fields.eq_iff, -Bool.exists_bool]
  rw [append_eq_iff, append_eq_iff]
  simp [extractLsb'_of_extractLsb']
  grind -ext

theorem parseFcvt_iff (f : Fields) (o : OpFcvt) :
    (∃ v, parseFcvt .largest f false = .ok (o, v)) ↔ o.wf = true ∧ o.enc f.op = f := by
  obtain ⟨g, d, a, ovf, fd, fs, r⟩ := o
  simp [parseFcvt, modOk_iff (mask := 0x0#13) [(0, 13)] (by decide), OpFcvt.wf, OpFcvt.enc, onePort_two,
    Fields.base, Fields.eq_iff, -Bool.exists_bool]
  grind -ext

theorem parseIcvt_iff (f : Fields) (o : OpIcvt) :
    (∃ v, parseIcvt .largest f false = .ok (o, v)) ↔ o.wf = true ∧ o.enc f.op = f := by
  obtain ⟨g, d, a, fd, fs, r, uns⟩ := o
  simp [parseIcvt, modOk_iff (mask := 0x1#13) [(1, 12)] (by decide), OpIcvt.wf, OpIcvt.enc, onePort_two,
    Fields.base, Fields.eq_iff, -Bool.exists_bool]
  rw [append_eq_iff]
  simp [-BitVec.toFin_extractLsb']
  grind -ext

theorem parseTset_iff (f : Fields) (o : OpTset) :
    (∃ v, parseTset .largest f false = .ok (o, v)) ↔ o.wf = true ∧ o.enc f.op = f := by
  obtain ⟨g, d, a, b⟩ := o
  simp [parseTset, modOk_iff (mask := 0x0#13) [(0, 13)] (by decide), OpTset.wf, OpTset.enc, onePort_three,
    Fields.base, Fields.eq_iff, -Bool.exists_bool]
  grind -ext

theorem parseFset_iff (f : Fields) (o : OpFset) :
    (∃ v, parseFset .largest f false = .ok (o, v)) ↔ o.wf = true ∧ o.enc f.op = f := by
  obtain ⟨g, fld, b⟩ := o
  have hul := extract_eq_one f.low 12
  simp [parseFset, modOk_iff (mask := 0x100F#13) [(4, 8)] (by decide), OpFset.wf, OpFset.enc, Fields.base,
    Fields.eq_iff, -Bool.exists_bool] at hul ⊢
  rw [append_eq_iff, append_eq_iff]
  simp [extractLsb'_of_extractLsb']
  grind -ext [SrcB.ul_of_reg, fsetOk_eq]

theorem parseFput_iff (f : Fields) (o : OpFput) (base : Nat) (hb : base + 16 ≤ 128) :
    (∃ v, parseFput base .largest f false = .ok (o, v)) ↔ o.wf = true ∧ o.enc f.op base = f := by
  obtain ⟨g, n, b⟩ := o
  simp [parseFput, modOk_iff (mask := 0x1000#13) [(0, 12)] (by decide), OpFput.wf, OpFput.enc, sixteen_ok _ _ hb,
    Fields.base, Fields.eq_iff]
  rw [append_eq_iff]
  simp [-BitVec.toFin_extractLsb']
  grind -ext [SrcB.ul_of_reg]

theorem parseSel_iff (f : Fields) (o : OpSel) :
    (∃ v, parseSel .largest f false = .ok (o, v)) ↔ o.wf = true ∧ o.enc f.op = f := by
  obtain ⟨g, d, a, b, ps, pn⟩ := o
  simp [parseSel, modOk_iff (mask := 0x100f#13) [(4, 8)] (by decide), OpSel.wf, OpSel.enc, onePort_three,
    Fields.base, Fields.eq_iff, -Bool.exists_bool, -BitVec.toFin_extractLsb']
  rw [append_eq_iff, append_eq_iff, append_eq_iff]
  simp [extractLsb'_of_extractLsb', -BitVec.toFin_extractLsb']
  grind -ext [SrcB.ul_of_reg]

theorem parseM_iff (f : Fields) (o : OpM) :
    (∃ v, parseM .largest f false = .ok (o, v)) ↔ o.wf = true ∧ o.enc f.op = f := by
  obtain ⟨g, m⟩ := o
  simp [parseM, modOk_iff (mask := 0x0#13) [(0, 13)] (by decide), OpM.wf, OpM.enc, memPorts, onePort_two,
    Fields.base, Fields.mem, Fields.eq_iff]
  grind -ext

theorem parseDM_iff (f : Fields) (o : OpDM) :
    (∃ v, parseDM .largest f false = .ok (o, v)) ↔ o.wf = true ∧ o.enc f.op = f := by
  obtain ⟨g, d, m⟩ := o
  simp [parseDM, modOk_iff (mask := 0x0#13) [(0, 13)] (by decide), OpDM.wf, OpDM.enc, memPorts, onePort_three,
    Fields.base, Fields.mem, Fields.eq_iff, -Bool.exists_bool]
  grind -ext

theorem parseMS_iff (f : Fields) (o : OpMS) :
    (∃ v, parseMS .largest f false = .ok (o, v)) ↔ o.wf = true ∧ o.enc f.op = f := by
  obtain ⟨g, m, sc⟩ := o
  simp [parseMS, modOk_iff (mask := 0x0#13) [(0, 13)] (by decide), OpMS.wf, OpMS.enc, memPorts, onePort_two,
    Fields.base, Fields.mem, Fields.eq_iff]
  grind -ext

theorem parseDMS_iff (f : Fields) (o : OpDMS) :
    (∃ v, parseDMS .largest f false = .ok (o, v)) ↔ o.wf = true ∧ o.enc f.op = f := by
  obtain ⟨g, d, m, sc⟩ := o
  simp [parseDMS, modOk_iff (mask := 0x0#13) [(0, 13)] (by decide), OpDMS.wf, OpDMS.enc, memPorts, onePort_three,
    Fields.base, Fields.mem, Fields.eq_iff, -Bool.exists_bool]
  grind -ext

theorem parseMCS_iff (f : Fields) (o : OpMCS) :
    (∃ v, parseMCS .largest f false = .ok (o, v)) ↔ o.wf = true ∧ o.enc f.op = f := by
  obtain ⟨g, m, c, sc⟩ := o
  simp [parseMCS, modOk_iff (mask := 0x0#13) [(0, 13)] (by decide), OpMCS.wf, OpMCS.enc, memPorts, onePort_three,
    Fields.base, Fields.mem, Fields.eq_iff, -Bool.exists_bool]
  grind -ext

theorem parseMovHi_iff (f : Fields) (o : OpMovHi) (h11 : f.low.getLsbD 11 = true) :
    (∃ v, parseMovHi .largest f false = .ok (o, v)) ↔ o.wf = true ∧ o.enc f.op = f := by
  obtain ⟨g, d, a, v⟩ := o
  simp [parseMovHi, modOk_iff (mask := 0x800#13) [(0, 11), (12, 1)] (by decide), OpMovHi.wf, OpMovHi.enc,
    onePort_two, Fields.base, Fields.eq_iff]
  rw [show (0x800#13) = 0#1 ++ 1#1 ++ 0#11 from rfl, append_eq_iff, append_eq_iff]
  simp [extractLsb'_of_extractLsb']
  grind -ext [extract_of_bit h11]

theorem parsePlog_iff (f : Fields) (o : OpPlog) :
    (∃ v, parsePlog f false = .ok (o, v)) ↔ o.wf = true ∧ o.enc f.op = f := by
  obtain ⟨g, pd, pa, pb, lut⟩ := o
  simp [parsePlog, modOk_iff (mask := 0xf#13) [(4, 9)] (by decide), OpPlog.wf, OpPlog.enc, sb_eq_setWidth,
    Fields.sbReg, Fields.base, Fields.eq_iff]
  rw [append_eq_iff]
  simp [-BitVec.toFin_extractLsb']
  grind -ext

theorem parseLd_iff (f : Fields) (o : OpLd) :
    (∃ v, parseLd .largest f false = .ok (o, v)) ↔ o.wf = true ∧ o.enc f.op = f := by
  obtain ⟨g, d, m, sz, sx, o, sc⟩ := o
  simp [parseLd, modOk_iff (mask := 0xf#13) [(4, 9)] (by decide), OpLd.wf, OpLd.enc, memPorts, onePort_three,
    carryMem, Ord.isLoad, Size.code, Fields.base, Fields.mem, Fields.eq_iff, -Bool.exists_bool]
  rw [append_eq_iff, append_eq_iff, append_eq_iff]
  simp [extractLsb'_of_extractLsb']
  grind -ext

theorem parseLdp_iff (f : Fields) (o : OpLdp) :
    (∃ v, parseLdp .largest f false = .ok (o, v)) ↔ o.wf = true ∧ o.enc f.op = f := by
  obtain ⟨g, d, pd, m, o, sc⟩ := o
  simp [parseLdp, modOk_iff (mask := 0x707#13) [(3, 5), (11, 2)] (by decide), OpLdp.wf, OpLdp.enc, memPorts,
    onePort_three, carryMem, Ord.isLoad, Size.code, Fields.base, Fields.mem, Fields.eq_iff, -Bool.exists_bool,
    -BitVec.toFin_extractLsb']
  rw [show (3#8) = 0#5 ++ 0#1 ++ 3#2 from rfl, append_eq_iff, append_eq_iff, append_eq_iff, append_eq_iff]
  simp [extractLsb'_of_extractLsb', -BitVec.toFin_extractLsb']
  grind -ext

theorem parseSt_iff (f : Fields) (o : OpSt) :
    (∃ v, parseSt .largest f false = .ok (o, v)) ↔ o.wf = true ∧ o.enc f.op = f := by
  obtain ⟨g, m, c, sz, o, sc⟩ := o
  simp [parseSt, modOk_iff (mask := 0x7#13) [(3, 10)] (by decide), OpSt.wf, OpSt.enc, memPorts, onePort_three,
    carryMem, Ord.isStore, Size.code, Fields.base, Fields.mem, Fields.eq_iff, -Bool.exists_bool]
  rw [show (0#11) = 0#10 ++ 0#1 from rfl, append_eq_iff, append_eq_iff]
  simp [extractLsb'_of_extractLsb']
  grind -ext

theorem parseStn_iff (f : Fields) (o : OpStn) :
    (∃ v, parseStn .largest f false = .ok (o, v)) ↔ o.wf = true ∧ o.enc f.op = f := by
  obtain ⟨g, m, c, nib, o, sc⟩ := o
  simp [parseStn, modOk_iff (mask := 0x87#13) [(3, 4), (8, 5)] (by decide), OpStn.wf, OpStn.enc, memPorts,
    onePort_three, carryMem, Ord.isStore, Size.code, Fields.base, Fields.mem, Fields.eq_iff, -Bool.exists_bool]
  rw [show (0#5 ++ b1 nib ++ 0#7 : BitVec 13) = 0#5 ++ b1 nib ++ (0#4 ++ 0#1 ++ 0#2) from rfl, append_eq_iff,
    append_eq_iff, append_eq_iff, append_eq_iff]
  simp [extractLsb'_of_extractLsb']
  grind -ext

theorem parseTake_iff (f : Fields) (o : OpTake) :
    (∃ v, parseTake .largest f false = .ok (o, v)) ↔ o.wf = true ∧ o.enc f.op = f := by
  obtain ⟨g, d, m, o, sc⟩ := o
  simp [parseTake, modOk_iff (mask := 0x7#13) [(3, 10)] (by decide), OpTake.wf, OpTake.enc, memPorts,
    onePort_three, carryMem, Ord.isLoad, Size.code, Fields.base, Fields.mem, Fields.eq_iff, -Bool.exists_bool]
  rw [show (3#13) = 0#10 ++ 0#1 ++ 3#2 from rfl, append_eq_iff, append_eq_iff]
  simp [extractLsb'_of_extractLsb']
  grind -ext

theorem parsePut_iff (f : Fields) (o : OpPut) (wt : Bool) (hb : f.low.getLsbD 4 = wt) :
    (∃ v, parsePut .largest f false = .ok (o, v)) ↔ o.wf = true ∧ o.enc f.op wt = f := by
  subst hb
  obtain ⟨g, m, c, o, sc⟩ := o
  simp [parsePut, modOk_iff (mask := 0x17#13) [(3, 1), (5, 8)] (by decide), OpPut.wf, OpPut.enc, memPorts,
    onePort_three, carryMem, Ord.isStore, Size.code, Fields.base, Fields.mem, Fields.eq_iff, -Bool.exists_bool]
  rw [show (3#4) = 0#1 ++ 0#1 ++ 3#2 from rfl, append_eq_iff, append_eq_iff, append_eq_iff, append_eq_iff]
  simp [extractLsb'_of_extractLsb']
  grind -ext

theorem parseTagr_iff (f : Fields) (o : OpTagr) :
    (∃ v, parseTagr .largest f false = .ok (o, v)) ↔ o.wf = true ∧ o.enc f.op = f := by
  obtain ⟨g, d, t, m, o, sc⟩ := o
  simp [parseTagr, modOk_iff (mask := 0x7#13) [(3, 10)] (by decide), OpTagr.wf, OpTagr.enc, memPorts,
    onePort_three, carryMem, Ord.isLoad, Size.code, Fields.base, Fields.mem, Fields.eq_iff, -Bool.exists_bool]
  rw [show (3#13) = 0#10 ++ 0#1 ++ 3#2 from rfl, append_eq_iff, append_eq_iff]
  simp [extractLsb'_of_extractLsb']
  grind -ext [Dst.eq_l_iff]

theorem parseTagw_iff (f : Fields) (o : OpTagw) :
    (∃ v, parseTagw .largest f false = .ok (o, v)) ↔ o.wf = true ∧ o.enc f.op = f := by
  obtain ⟨g, m, c, nt, o, sc⟩ := o
  simp [parseTagw, modOk_iff (mask := 0x1807#13) [(3, 8)] (by decide), OpTagw.wf, OpTagw.enc, memPorts,
    onePort_three, carryMem, Ord.isStore, Size.code, Fields.base, Fields.mem, Fields.eq_iff, -Bool.exists_bool]
  rw [show (3#11) = 0#8 ++ 0#1 ++ 3#2 from rfl, append_eq_iff, append_eq_iff, append_eq_iff]
  simp [extractLsb'_of_extractLsb']
  cases nt <;> simp [Tag.code]
  all_goals grind -ext

theorem parseFence_iff (f : Fields) (o : OpFence) :
    (∃ v, parseFence f false = .ok (o, v)) ↔ o.wf = true ∧ o.enc f.op = f := by
  obtain ⟨g, o, sc, eng⟩ := o
  simp [parseFence, modOk_iff (mask := 0x20#13) [(0, 5), (6, 7)] (by decide), OpFence.wf, OpFence.enc, carryMem,
    Fields.base, Fields.eq_iff]
  rw [append_eq_iff, append_eq_iff]
  simp [extractLsb'_of_extractLsb']
  cases o <;> simp
  all_goals grind -ext

theorem parseAtom_iff (f : Fields) (o : OpAtom) :
    (∃ v, parseAtom .largest f false = .ok (o, v)) ↔ o.wf = true ∧ o.enc f.op = f := by
  obtain ⟨g, d, m, c, sz, o, sc⟩ := o
  simp [parseAtom, modOk_iff (mask := 0x7#13) [(3, 10)] (by decide), OpAtom.wf, OpAtom.enc, memPorts, onePort_four,
    carryMem, Size.code, Fields.base, Fields.mem, Fields.eq_iff, -Bool.exists_bool]
  rw [show (0#11) = 0#10 ++ 0#1 from rfl, append_eq_iff, append_eq_iff]
  simp [extractLsb'_of_extractLsb']
  grind -ext

theorem parseAfadd_iff (f : Fields) (o : OpAfadd) :
    (∃ v, parseAfadd .largest f false = .ok (o, v)) ↔ o.wf = true ∧ o.enc f.op = f := by
  obtain ⟨g, d, m, c, o, sc⟩ := o
  simp [parseAfadd, modOk_iff (mask := 0x7#13) [(3, 10)] (by decide), OpAfadd.wf, OpAfadd.enc, memPorts,
    onePort_four, carryMem, Size.code, Fields.base, Fields.mem, Fields.eq_iff, -Bool.exists_bool]
  rw [show (2#13) = 0#10 ++ 0#1 ++ 2#2 from rfl, append_eq_iff, append_eq_iff]
  simp [extractLsb'_of_extractLsb']
  grind -ext

theorem parseCas_iff (f : Fields) (o : OpCas) :
    (∃ v, parseCas .largest f false = .ok (o, v)) ↔ o.wf = true ∧ o.enc f.op = f := by
  obtain ⟨g, d, m, c, pd, sz, o, sc⟩ := o
  simp [parseCas, modOk_iff (mask := 0x707#13) [(3, 5), (11, 2)] (by decide), OpCas.wf, OpCas.enc, memPorts,
    onePort_three, carryMem, Size.code, Fields.base, Fields.mem, Fields.eq_iff, -Bool.exists_bool,
    -BitVec.toFin_extractLsb']
  rw [show (0#6) = 0#5 ++ 0#1 from rfl, append_eq_iff, append_eq_iff, append_eq_iff, append_eq_iff]
  simp [extractLsb'_of_extractLsb', -BitVec.toFin_extractLsb']
  grind -ext

theorem parseMondAll_iff (f : Fields) (o : OpG) (h6 : f.low.getLsbD 6 = true) :
    (∃ v, parseMondAll f false = .ok (o, v)) ↔ o.wf = true ∧ o.encAll f.op = f := by
  obtain ⟨g⟩ := o
  simp [parseMondAll, modOk_iff (mask := 0x40#13) [(0, 6), (7, 6)] (by decide), OpG.wf, OpG.encAll, Fields.base,
    Fields.eq_iff]
  rw [show (0x40#13) = 0#6 ++ 1#1 ++ 0#6 from rfl, append_eq_iff, append_eq_iff]
  simp [extractLsb'_of_extractLsb']
  grind -ext [extract_of_bit h6]

theorem parseBari_iff (f : Fields) (o : OpBari) :
    (∃ v, parseBari .largest f false = .ok (o, v)) ↔ o.wf = true ∧ o.enc f.op = f := by
  obtain ⟨g, m, c, dr, sc⟩ := o
  simp [parseBari, modOk_iff (mask := 0x1#13) [(1, 12)] (by decide), OpBari.wf, OpBari.enc, memPorts,
    onePort_three, Fields.base, Fields.mem, Fields.eq_iff, -Bool.exists_bool]
  rw [append_eq_iff]
  simp [-BitVec.toFin_extractLsb']
  grind -ext

theorem parseWwait_iff (f : Fields) (o : OpDMCS) (nb : Bool) (hb : f.low.getLsbD 0 = nb) :
    (∃ v, parseWwait .largest f false = .ok (o, v)) ↔ o.wf = true ∧ o.enc f.op nb = f := by
  subst hb
  obtain ⟨g, d, m, c, sc⟩ := o
  simp [parseWwait, modOk_iff (mask := 0x1#13) [(1, 12)] (by decide), OpDMCS.wf, OpDMCS.enc, memPorts,
    onePort_four, Fields.base, Fields.mem, Fields.eq_iff, -Bool.exists_bool]
  rw [append_eq_iff]
  simp [-BitVec.toFin_extractLsb']
  grind -ext

theorem parseWqry_iff (f : Fields) (o : OpWqry) :
    (∃ v, parseWqry .largest f false = .ok (o, v)) ↔ o.wf = true ∧ o.enc f.op = f := by
  obtain ⟨g, d, ⟨a, off⟩, sel, sc⟩ := o
  cases hs : sel.isRecord
  all_goals
    simp [parseWqry, modOk_iff (mask := 0xF#13) [(4, 9)] (by decide), P.ite_ok, and_or_left, exists_or, OpWqry.wf,
      OpWqry.enc, hs, memPorts, onePort_three, Scope.code, SrcC.isPort, SrcC.sb, SrcC.isLit, Fields.base,
      Fields.mem, Fields.eq_iff, -Bool.exists_bool]
    rw [append_eq_iff]
    grind -ext [SrcC.isPort, SrcC.sb, SrcC.isLit, Scope.code]

theorem parseEapp_iff (f : Fields) (o : OpEapp) :
    (∃ v, parseEapp .largest f false = .ok (o, v)) ↔ o.wf = true ∧ o.enc f.op = f := by
  obtain ⟨g, a, b, c, op⟩ := o
  simp [parseEapp, modOk_iff (mask := 0x3#13) [(2, 11)] (by decide), OpEapp.wf, OpEapp.enc, onePort_three,
    Fields.base, Fields.eq_iff, -Bool.exists_bool]
  rw [append_eq_iff]
  simp [-BitVec.toFin_extractLsb']
  grind -ext

theorem parseErepl_iff (f : Fields) (o : OpErepl) :
    (∃ v, parseErepl .largest f false = .ok (o, v)) ↔ o.wf = true ∧ o.enc f.op = f := by
  obtain ⟨g, d, a, fr⟩ := o
  simp [parseErepl, modOk_iff (mask := 0x1#13) [(1, 12)] (by decide), OpErepl.wf, OpErepl.enc, onePort_two,
    Fields.base, Fields.eq_iff, -Bool.exists_bool]
  rw [append_eq_iff]
  simp [-BitVec.toFin_extractLsb']
  grind -ext

theorem parseVLd_iff (f : Fields) (o : OpVLd) :
    (∃ v, parseVLd .largest f false = .ok (o, v)) ↔ o.wf = true ∧ o.enc f.op = f := by
  obtain ⟨g, v, a, off, sz, o, sc, m⟩ := o
  simp [parseVLd, modOk_iff (mask := 0x181f#13) [(5, 6)] (by decide), OpVLd.wf, OpVLd.enc, carryVMem, Ord.isLoad,
    Size.code, Fields.base, Fields.eq_iff, -Bool.exists_bool]
  rw [append_eq_iff, append_eq_iff]
  simp [extractLsb'_of_extractLsb']
  grind -ext

theorem parseVSt_iff (f : Fields) (o : OpVSt) :
    (∃ v, parseVSt .largest f false = .ok (o, v)) ↔ o.wf = true ∧ o.enc f.op = f := by
  obtain ⟨g, v, a, off, sz, o, sc, m⟩ := o
  simp [parseVSt, modOk_iff (mask := 0x180f#13) [(4, 7)] (by decide), OpVSt.wf, OpVSt.enc, carryVMem, Ord.isStore,
    Size.code, Fields.base, Fields.eq_iff, -Bool.exists_bool]
  rw [append_eq_iff, append_eq_iff]
  simp [extractLsb'_of_extractLsb']
  grind -ext

theorem parseVLds_iff (f : Fields) (o : OpVLds) :
    (∃ v, parseVLds .largest f false = .ok (o, v)) ↔ o.wf = true ∧ o.enc f.op = f := by
  obtain ⟨g, v, a, off, c, sz, o, sc, m⟩ := o
  simp [parseVLds, modOk_iff (mask := 0x181f#13) [(5, 6)] (by decide), OpVLds.wf, OpVLds.enc, onePort_two,
    carryVMem, Ord.isLoad, Size.code, Fields.base, Fields.eq_iff, -Bool.exists_bool]
  rw [append_eq_iff, append_eq_iff]
  simp [extractLsb'_of_extractLsb']
  grind -ext

theorem parseVSts_iff (f : Fields) (o : OpVSts) :
    (∃ v, parseVSts .largest f false = .ok (o, v)) ↔ o.wf = true ∧ o.enc f.op = f := by
  obtain ⟨g, v, a, off, c, sz, o, sc, m⟩ := o
  simp [parseVSts, modOk_iff (mask := 0x180f#13) [(4, 7)] (by decide), OpVSts.wf, OpVSts.enc, onePort_two,
    carryVMem, Ord.isStore, Size.code, Fields.base, Fields.eq_iff, -Bool.exists_bool]
  rw [append_eq_iff, append_eq_iff]
  simp [extractLsb'_of_extractLsb']
  grind -ext

theorem parseVGath_iff (f : Fields) (o : OpVGath) :
    (∃ v, parseVGath .largest f false = .ok (o, v)) ↔ o.wf = true ∧ o.enc f.op = f := by
  obtain ⟨g, v, a, vi, sz, uns, o, sc, m⟩ := o
  simp [parseVGath, modOk_iff (mask := 0x1c1f#13) [(5, 5)] (by decide), OpVGath.wf, OpVGath.enc, carryVMem,
    Ord.isLoad, Size.code, Fields.base, Fields.eq_iff, -Bool.exists_bool]
  rw [append_eq_iff, append_eq_iff, append_eq_iff]
  simp [extractLsb'_of_extractLsb']
  grind -ext

theorem parseVScat_iff (f : Fields) (o : OpVScat) :
    (∃ v, parseVScat .largest f false = .ok (o, v)) ↔ o.wf = true ∧ o.enc f.op = f := by
  obtain ⟨g, v, a, vi, sz, uns, o, sc, m⟩ := o
  simp [parseVScat, modOk_iff (mask := 0x1c0f#13) [(4, 6)] (by decide), OpVScat.wf, OpVScat.enc, carryVMem,
    Ord.isStore, Size.code, Fields.base, Fields.eq_iff, -Bool.exists_bool]
  rw [append_eq_iff, append_eq_iff, append_eq_iff]
  simp [extractLsb'_of_extractLsb']
  grind -ext

theorem parseVFill_iff (f : Fields) (o : OpVFill) (fmts : Fmt → Bool) :
    (∃ v, parseVFill fmts .largest f false = .ok (o, v)) ↔ o.wf fmts = true ∧ o.enc f.op = f := by
  obtain ⟨g, v, val, fm, m⟩ := o
  cases val
  all_goals
    simp [parseVFill, modOk_iff (mask := 0x1F#13) [(5, 8)] (by decide), P.ite_ok, OpVFill.wf, OpVFill.enc,
      Fields.base, Fields.eq_iff, -Bool.exists_bool]
    rw [append_eq_iff]
    grind -ext

theorem parseVExt_iff (f : Fields) (o : OpVExt) :
    (∃ v, parseVExt .largest f false = .ok (o, v)) ↔ o.wf = true ∧ o.enc f.op = f := by
  obtain ⟨g, d, v, b, fm, uns⟩ := o
  simp [parseVExt, modOk_iff (mask := 0x400#13) [(0, 10), (11, 2)] (by decide), OpVExt.wf, OpVExt.enc, onePort_two,
    Fields.base, Fields.eq_iff, -Bool.exists_bool]
  rw [append_eq_iff, append_eq_iff]
  simp [extractLsb'_of_extractLsb']
  grind -ext

theorem parseVIns_iff (f : Fields) (o : OpVIns) :
    (∃ v, parseVIns .largest f false = .ok (o, v)) ↔ o.wf = true ∧ o.enc f.op = f := by
  obtain ⟨g, v, a, b, fm⟩ := o
  simp [parseVIns, modOk_iff (mask := 0x0#13) [(0, 13)] (by decide), OpVIns.wf, OpVIns.enc, onePort_two,
    Fields.base, Fields.eq_iff, -Bool.exists_bool]
  grind -ext

theorem parseVAlu_iff (f : Fields) (o : OpVAlu) (k : VAluKind) :
    (∃ v, parseVAlu k f false = .ok (o, v)) ↔ o.wf k = true ∧ o.enc f.op = f := by
  obtain ⟨g, vd, va, y, fm, ovf, r, uns, m⟩ := o
  simp [parseVAlu, modOk_iff (mask := 0x41f#13) [(5, 5), (11, 2)] (by decide), OpVAlu.wf, OpVAlu.enc, carryAlu,
    Fields.base, Fields.eq_iff]
  rw [append_eq_iff, append_eq_iff, append_eq_iff]
  simp [extractLsb'_of_extractLsb']
  grind -ext

theorem parseVFma_iff (f : Fields) (o : OpVFma) :
    (∃ v, parseVFma f false = .ok (o, v)) ↔ o.wf = true ∧ o.enc f.op = f := by
  obtain ⟨g, vd, va, y, vc, fm, ovf, r, uns, m⟩ := o
  simp [parseVFma, modOk_iff (mask := 0x41f#13) [(5, 5), (11, 2)] (by decide), OpVFma.wf, OpVFma.enc, carryAlu,
    Fields.base, Fields.eq_iff]
  rw [append_eq_iff, append_eq_iff, append_eq_iff]
  simp [extractLsb'_of_extractLsb']
  grind -ext

theorem parseVAbs_iff (f : Fields) (o : OpVAbs) :
    (∃ v, parseVAbs f false = .ok (o, v)) ↔ o.wf = true ∧ o.enc f.op = f := by
  obtain ⟨g, vd, va, fm, ovf, uns, m⟩ := o
  simp [parseVAbs, modOk_iff (mask := 0x41f#13) [(5, 5), (11, 2)] (by decide), OpVAbs.wf, OpVAbs.enc, Fields.base,
    Fields.eq_iff]
  rw [append_eq_iff, append_eq_iff, append_eq_iff]
  simp [extractLsb'_of_extractLsb']
  grind -ext

theorem parseVCmp_iff (f : Fields) (o : OpVCmp) :
    (∃ v, parseVCmp f false = .ok (o, v)) ↔ o.wf = true ∧ o.enc f.op = f := by
  obtain ⟨g, kd, va, y, c, fm, uns, m⟩ := o
  simp [parseVCmp, modOk_iff (mask := 0x5ff#13) [(9, 1), (11, 2)] (by decide), OpVCmp.wf, OpVCmp.enc, Fields.base,
    Fields.eq_iff]
  rw [append_eq_iff, append_eq_iff, append_eq_iff, append_eq_iff]
  simp [extractLsb'_of_extractLsb']
  grind -ext

theorem parseVSel_iff (f : Fields) (o : OpVSel) :
    (∃ v, parseVSel f false = .ok (o, v)) ↔ o.wf = true ∧ o.enc f.op = f := by
  obtain ⟨g, vd, va, y, kc, fm, m⟩ := o
  simp [parseVSel, modOk_iff (mask := 0x1f#13) [(5, 8)] (by decide), OpVSel.wf, OpVSel.enc, Fields.base,
    Fields.eq_iff]
  rw [append_eq_iff]
  simp [-BitVec.toFin_extractLsb']
  grind -ext

theorem parseKlog_iff (f : Fields) (o : OpKlog) :
    (∃ v, parseKlog f false = .ok (o, v)) ↔ o.wf = true ∧ o.enc f.op = f := by
  obtain ⟨g, kd, ka, kb, lut⟩ := o
  simp [parseKlog, modOk_iff (mask := 0x1e0#13) [(0, 5), (9, 4)] (by decide), OpKlog.wf, OpKlog.enc,
    sb_eq_setWidth, Fields.sbReg, Fields.base, Fields.eq_iff]
  rw [append_eq_iff, append_eq_iff]
  simp [extractLsb'_of_extractLsb']
  grind -ext

theorem parseKpop_iff (f : Fields) (o : OpKpop) :
    (∃ v, parseKpop .largest f false = .ok (o, v)) ↔ o.wf = true ∧ o.enc f.op = f := by
  obtain ⟨g, d, ka, fm⟩ := o
  simp [parseKpop, modOk_iff (mask := 0x0#13) [(0, 13)] (by decide), OpKpop.wf, OpKpop.enc, Fields.base,
    Fields.eq_iff]
  grind -ext

theorem parseVCvt_iff (f : Fields) (o : OpVCvt) :
    (∃ v, parseVCvt f false = .ok (o, v)) ↔ o.wf = true ∧ o.enc f.op = f := by
  obtain ⟨g, vd, va, fd, fs, ovf, r, uns, part, m⟩ := o
  simp [parseVCvt, modOk_iff (mask := 0x5ff#13) [(9, 1), (11, 2)] (by decide), OpVCvt.wf, OpVCvt.enc, carryCvt,
    Fields.base, Fields.eq_iff]
  rw [append_eq_iff, append_eq_iff, append_eq_iff, append_eq_iff]
  simp [extractLsb'_of_extractLsb']
  grind -ext

theorem parseVQmx_iff (f : Fields) (o : OpVQmx) :
    (∃ v, parseVQmx f false = .ok (o, v)) ↔ o.wf = true ∧ o.enc f.op = f := by
  obtain ⟨g, ve, va, scale, vs, fd, fs, ovf, r⟩ := o
  have hset : 512#13 = f.low ↔ _ := bit9_iff true f.low
  have hclr : 0#13 = f.low ↔ _ := bit9_iff false f.low
  cases h9 : f.low.getLsbD 9 <;> cases scale
  all_goals
    simp [parseVQmx, h9, modOk_iff (mask := 0x200#13) [(0, 9), (10, 3)] (by decide), OpVQmx.wf, OpVQmx.enc,
      carryCvt, VSrc.exists_iff, VSrc.sb, VSrc.isLit, Fields.base, Fields.eq_iff, hset, hclr,
      -BitVec.getLsbD_eq_getElem]
  all_goals grind -ext

theorem parseVDqmx_iff (f : Fields) (o : OpVDqmx) :
    (∃ v, parseVDqmx f false = .ok (o, v)) ↔ o.wf = true ∧ o.enc f.op = f := by
  obtain ⟨g, vd, ve, vs, fd, fs, ovf, r⟩ := o
  simp [parseVDqmx, modOk_iff (mask := 0x0#13) [(0, 13)] (by decide), OpVDqmx.wf, OpVDqmx.enc, carryCvt,
    Fields.base, Fields.eq_iff]
  grind -ext

theorem parseVRed_iff (f : Fields) (o : OpVRed) (sum : Bool) :
    (∃ v, parseVRed sum .largest f false = .ok (o, v)) ↔ o.wf sum = true ∧ o.enc f.op = f := by
  obtain ⟨g, d, va, fm, ovf, r, uns, m⟩ := o
  simp [parseVRed, modOk_iff (mask := 0x40f#13) [(4, 6), (11, 2)] (by decide), OpVRed.wf, OpVRed.enc, carryAlu,
    Fields.base, Fields.eq_iff, -Bool.exists_bool]
  rw [append_eq_iff, append_eq_iff, append_eq_iff]
  simp [extractLsb'_of_extractLsb']
  grind -ext

theorem parseVSpec_iff (f : Fields) (o : OpVSpec) :
    (∃ v, parseVSpec f false = .ok (o, v)) ↔ o.wf = true ∧ o.enc f.op = f := by
  obtain ⟨g, vd, va, fm, ovf, r, m⟩ := o
  simp [parseVSpec, modOk_iff (mask := 0x1f#13) [(5, 8)] (by decide), OpVSpec.wf, OpVSpec.enc, carryAlu,
    Fields.base, Fields.eq_iff]
  rw [append_eq_iff]
  simp [-BitVec.toFin_extractLsb']
  grind -ext

theorem parseVPerm_iff (f : Fields) (o : OpVPerm) :
    (∃ v, parseVPerm f false = .ok (o, v)) ↔ o.wf = true ∧ o.enc f.op = f := by
  obtain ⟨g, vd, va, vi, fm, m⟩ := o
  simp [parseVPerm, modOk_iff (mask := 0x1f#13) [(5, 8)] (by decide), OpVPerm.wf, OpVPerm.enc, Fields.base,
    Fields.eq_iff]
  rw [append_eq_iff]
  simp [-BitVec.toFin_extractLsb']
  grind -ext

theorem parseVBperm_iff (f : Fields) (o : OpVBperm) :
    (∃ v, parseVBperm f false = .ok (o, v)) ↔ o.wf = true ∧ o.enc f.op = f := by
  obtain ⟨g, vd, va, d, fm, m⟩ := o
  simp [parseVBperm, modOk_iff (mask := 0x1ff#13) [(9, 4)] (by decide), OpVBperm.wf, OpVBperm.enc, Fields.base,
    Fields.eq_iff]
  rw [append_eq_iff, append_eq_iff]
  simp [extractLsb'_of_extractLsb']
  grind -ext

theorem parseVMset_iff (f : Fields) (o : OpVMset) :
    (∃ v, parseVMset .largest f false = .ok (o, v)) ↔ o.wf = true ∧ o.enc f.op = f := by
  obtain ⟨g, q, src, w64⟩ := o
  cases hs : f.sas <;> cases src
  all_goals
    simp [parseVMset, hs, modOk_iff (mask := 0x0#13) [(0, 13)] (by decide), OpVMset.wf, OpVMset.enc,
      VSrc.exists_iff, VSrc.sb, VSrc.isLit, Fields.base, Fields.eq_iff, -Bool.exists_bool]
  all_goals grind -ext

theorem parseVM2_iff (f : Fields) (o : OpVM2) :
    (∃ v, parseVM2 f false = .ok (o, v)) ↔ o.wf = true ∧ o.enc f.op = f := by
  obtain ⟨g, vd, va, y, w64, qs, m⟩ := o
  simp [parseVM2, modOk_iff (mask := 0x181f#13) [(5, 6)] (by decide), OpVM2.wf, OpVM2.enc, Fields.base,
    Fields.eq_iff, -Bool.exists_bool]
  rw [append_eq_iff, append_eq_iff]
  simp [extractLsb'_of_extractLsb']
  grind -ext

theorem parseVM1_iff (f : Fields) (o : OpVM1) :
    (∃ v, parseVM1 f false = .ok (o, v)) ↔ o.wf = true ∧ o.enc f.op = f := by
  obtain ⟨g, vd, va, w64, qs, m⟩ := o
  simp [parseVM1, modOk_iff (mask := 0x181f#13) [(5, 6)] (by decide), OpVM1.wf, OpVM1.enc, Fields.base,
    Fields.eq_iff, -Bool.exists_bool]
  rw [append_eq_iff, append_eq_iff]
  simp [extractLsb'_of_extractLsb']
  grind -ext

theorem parseVBfly_iff (f : Fields) (o : OpVBfly) :
    (∃ v, parseVBfly f false = .ok (o, v)) ↔ o.wf = true ∧ o.enc f.op = f := by
  obtain ⟨g, vd, va, vb, d, w64, qs, m⟩ := o
  simp [parseVBfly, modOk_iff (mask := 0x19ff#13) [(9, 2)] (by decide), OpVBfly.wf, OpVBfly.enc, Fields.base,
    Fields.eq_iff, -Bool.exists_bool]
  rw [append_eq_iff, append_eq_iff, append_eq_iff]
  simp [extractLsb'_of_extractLsb']
  grind -ext

theorem parseVBflyX_iff (f : Fields) (o : OpVBflyX) (h10 : f.low.getLsbD 10 = true) :
    (∃ v, parseVBflyX f false = .ok (o, v)) ↔ o.wf = true ∧ o.enc f.op = f := by
  obtain ⟨g, vd, va, vb, vc, w64, qs, m⟩ := o
  simp [parseVBflyX, modOk_iff (mask := 0x1c1f#13) [(5, 5)] (by decide), OpVBflyX.wf, OpVBflyX.enc, Fields.base,
    Fields.eq_iff, -Bool.exists_bool]
  rw [append_eq_iff, append_eq_iff, append_eq_iff]
  simp [extractLsb'_of_extractLsb']
  grind -ext [extract_of_bit h10, vCode_even]

theorem parseVAuto_iff (f : Fields) (o : OpVAuto) :
    (∃ v, parseVAuto .largest f false = .ok (o, v)) ↔ o.wf = true ∧ o.enc f.op = f := by
  obtain ⟨g, vd, va, b, ln, w64, qs, m⟩ := o
  cases b
  all_goals
    simp [parseVAuto, modOk_iff (mask := 0x19FF#13) [(9, 2)] (by decide), OpVAuto.wf, OpVAuto.enc, SrcC.isLit,
      SrcC.sb, Fields.base, Fields.eq_iff, BitVec.le_def, Nat.one_le_iff_ne_zero, -BitVec.extractLsb'_toNat,
      -Bool.exists_bool]
    rw [append_eq_iff, append_eq_iff, append_eq_iff]
    simp [extractLsb'_of_extractLsb', -BitVec.extractLsb'_toNat]
    grind -ext

theorem parseRingi_iff (f : Fields) (o : OpRingi) :
    (∃ v, parseRingi .largest f false = .ok (o, v)) ↔ o.wf = true ∧ o.enc f.op = f := by
  obtain ⟨g, a, cfg, ring⟩ := o
  simp [parseRingi, modOk_iff (mask := 0x1f#13) [(5, 8)] (by decide), OpRingi.wf, OpRingi.enc, onePort_two,
    Fields.base, Fields.eq_iff, -Bool.exists_bool]
  rw [append_eq_iff]
  simp [-BitVec.toFin_extractLsb']
  cases cfg <;> simp [SrcC.isLit, SrcC.sb]
  all_goals grind -ext

theorem parseRing_iff (f : Fields) (o : OpRing) (res : Bool) (hb : f.low.getLsbD 5 = res) :
    (∃ v, parseRing .largest f false = .ok (o, v)) ↔ o.wf = true ∧ o.enc f.op res = f := by
  subst hb
  obtain ⟨g, d, ring⟩ := o
  simp [parseRing, modOk_iff (mask := 0x3f#13) [(6, 7)] (by decide), OpRing.wf, OpRing.enc, Fields.base,
    Fields.eq_iff]
  rw [append_eq_iff, append_eq_iff]
  simp [extractLsb'_of_extractLsb']
  grind -ext

theorem parseRpush_iff (f : Fields) (o : OpRpush) :
    (∃ v, parseRpush .largest f false = .ok (o, v)) ↔ o.wf = true ∧ o.enc f.op = f := by
  obtain ⟨g, d, a, ring⟩ := o
  simp [parseRpush, modOk_iff (mask := 0x1f#13) [(5, 8)] (by decide), OpRpush.wf, OpRpush.enc, onePort_two,
    Fields.base, Fields.eq_iff, -Bool.exists_bool]
  rw [append_eq_iff]
  simp [-BitVec.toFin_extractLsb']
  grind -ext

theorem parseRstat_iff (f : Fields) (o : OpRstat) :
    (∃ v, parseRstat .largest f false = .ok (o, v)) ↔ o.wf = true ∧ o.enc f.op = f := by
  obtain ⟨g, d, ring, sel⟩ := o
  simp [parseRstat, modOk_iff (mask := 0xff#13) [(8, 5)] (by decide), OpRstat.wf, OpRstat.enc, Fields.base,
    Fields.eq_iff]
  rw [append_eq_iff, append_eq_iff]
  simp [extractLsb'_of_extractLsb']
  grind -ext

theorem parseTldw_iff (f : Fields) (o : OpTldw) :
    (∃ v, parseTldw .largest f false = .ok (o, v)) ↔ o.wf = true ∧ o.enc f.op = f := by
  obtain ⟨g, d, ring, red⟩ := o
  simp [parseTldw, modOk_iff (mask := 0x3f#13) [(6, 7)] (by decide), OpTldw.wf, OpTldw.enc, Fields.base,
    Fields.eq_iff]
  rw [append_eq_iff, append_eq_iff]
  simp [extractLsb'_of_extractLsb']
  grind -ext

theorem parseTmma_iff (f : Fields) (o : OpTmma) :
    (∃ v, parseTmma .largest f false = .ok (o, v)) ↔ o.wf = true ∧ o.enc f.op = f := by
  obtain ⟨g, m, c, ring⟩ := o
  simp [parseTmma, modOk_iff (mask := 0x1f#13) [(5, 8)] (by decide), OpTmma.wf, OpTmma.enc, memPorts,
    onePort_three, Fields.base, Fields.mem, Fields.eq_iff, -Bool.exists_bool]
  rw [append_eq_iff]
  simp [-BitVec.toFin_extractLsb']
  grind -ext

theorem parseTdrain_iff (f : Fields) (o : OpTdrain) :
    (∃ v, parseTdrain .largest f false = .ok (o, v)) ↔ o.wf = true ∧ o.enc f.op = f := by
  obtain ⟨g, a, b, c, fd, fs, ovf, r, za, act, gate⟩ := o
  have hact := Act.ofCode_iff (f.low.extractLsb' 2 2) act
  have hgate := Gate.ofCode_iff (f.low.extractLsb' 0 2) gate
  simp [parseTdrain, modOk_iff (mask := 0x1F#13) [(5, 8)] (by decide), P.ite_ok, OpTdrain.wf, OpTdrain.enc,
    carryCvt, onePort_three, sb_eq_setWidth, Fields.sbReg, Fields.base, Fields.eq_iff, -Bool.exists_bool]
  rw [append_eq_iff, append_eq_iff, append_eq_iff]
  simp [extractLsb'_of_extractLsb']
  grind -ext

theorem parseNgrp_iff (f : Fields) (o : OpDMS) :
    (∃ v, parseNgrp .largest f false = .ok (o, v)) ↔ o.groupWf = true ∧ o.enc f.op = f := by
  obtain ⟨g, d, m, sc⟩ := o
  simp [parseNgrp, modOk_iff (mask := 0x0#13) [(0, 13)] (by decide), OpDMS.groupWf, OpDMS.enc, memPorts,
    onePort_three, OpDMS.wf, Fields.base, Fields.mem, Fields.eq_iff, -Bool.exists_bool]
  cases sc <;> simp [Scope.code]
  all_goals grind -ext

theorem parseNred_iff (f : Fields) (o : OpNred) :
    (∃ v, parseNred .largest f false = .ok (o, v)) ↔ o.wf = true ∧ o.enc f.op = f := by
  obtain ⟨g, a, y, c, el⟩ := o
  simp [parseNred, modOk_iff (mask := 0x7#13) [(3, 10)] (by decide), OpNred.wf, OpNred.enc, onePort_three,
    Fields.base, Fields.eq_iff, -Bool.exists_bool]
  rw [append_eq_iff]
  simp [-BitVec.toFin_extractLsb']
  grind -ext

theorem parseNredi_iff (f : Fields) (o : OpNredi) :
    (∃ v, parseNredi .largest f false = .ok (o, v)) ↔ o.wf = true ∧ o.enc f.op = f := by
  obtain ⟨g, d, a, t, el⟩ := o
  simp [parseNredi, modOk_iff (mask := 0x7#13) [(3, 10)] (by decide), OpNredi.wf, OpNredi.enc, onePort_three,
    Fields.base, Fields.eq_iff, -Bool.exists_bool]
  rw [append_eq_iff]
  simp [-BitVec.toFin_extractLsb']
  grind -ext

theorem parseTracew_iff (f : Fields) (o : OpTracew) :
    (∃ v, parseTracew .largest f false = .ok (o, v)) ↔ o.wf = true ∧ o.enc f.op = f := by
  obtain ⟨g, a, b, ch⟩ := o
  simp [parseTracew, modOk_iff (mask := 0xf#13) [(4, 9)] (by decide), OpTracew.wf, OpTracew.enc, onePort_two,
    Fields.base, Fields.eq_iff, -Bool.exists_bool]
  rw [append_eq_iff]
  simp [-BitVec.toFin_extractLsb']
  grind -ext

theorem parseCntr_iff (f : Fields) (o : OpCntr) :
    (∃ v, parseCntr .largest f false = .ok (o, v)) ↔ o.wf = true ∧ o.enc f.op = f := by
  obtain ⟨g, d, n, clr⟩ := o
  simp [parseCntr, modOk_iff (mask := 0x1#13) [(1, 12)] (by decide), OpCntr.wf, OpCntr.enc, onePort_two,
    Fields.base, Fields.eq_iff, -Bool.exists_bool]
  rw [append_eq_iff]
  simp [-BitVec.toFin_extractLsb']
  cases n <;> simp [SrcC.isLit, SrcC.sb]
  all_goals grind -ext

theorem parseVclaim_iff (f : Fields) (o : OpDC) :
    (∃ v, parseVclaim .largest f false = .ok (o, v)) ↔ o.claimWf = true ∧ o.enc f.op = f := by
  obtain ⟨g, d, b⟩ := o
  simp [parseVclaim, modOk_iff (mask := 0x0#13) [(0, 13)] (by decide), OpDC.claimWf, OpDC.enc, onePort_two,
    OpDC.wf, Fields.base, Fields.eq_iff, -Bool.exists_bool]
  cases b <;> simp [SrcC.isLit, SrcC.sb]
  all_goals grind -ext

/-! ### The rows of the opcode map -/

/-- A row of the opcode map accepts what its shape accepts. -/
theorem P.exists_map_ok {α β : Type} (C : α → β) (p : P α) (u : Bool) (y : β) :
    (∃ v, (C <$> p) u = .ok (y, v)) ↔ ∃ a, (∃ v, p u = .ok (a, v)) ∧ C a = y := by
  simp only [P.map_ok]
  constructor
  · rintro ⟨v, a, h, rfl⟩
    exact ⟨a, ⟨v, h⟩, rfl⟩
  · rintro ⟨a, ⟨v, h⟩, rfl⟩
    exact ⟨v, a, h, rfl⟩

theorem P.exists_fail_ok {α : Type} (c : Cause) (fc : BitVec 4) (u : Bool) (y : α) :
    (∃ v, (P.fail c fc : P α) u = .ok (y, v)) ↔ False := by
  simp

/-- What the opcode of a row's sixteen says of OP. -/
theorem op_of_row {op : BitVec 8} {hi lo : Nat} (h1 : op.toNat / 16 = hi) (h2 : op.toNat % 16 = lo) :
    op = BitVec.ofNat 8 (16 * hi + lo) := by
  bv_omega

/-- A row of one shape: what it accepts is a well-formed instruction with the fields that it read. -/
theorem row_sound {α : Type} {C : α → Instr} {p : P α} {i : Instr} {v : Bool} {f : Fields} {op : BitVec 8}
    {wf : α → Bool} {enc : BitVec 8 → α → Fields} (hop : f.op = op)
    (hp : ∀ a, (∃ v, p false = .ok (a, v)) ↔ wf a = true ∧ enc f.op a = f)
    (hC : ∀ a, (C a).wf = wf a ∧ (C a).fields = some (enc op a)) (h : (C <$> p) false = .ok (i, v)) :
    i.wf = true ∧ i.fields = some f := by
  obtain ⟨a, ha, rfl⟩ := (P.exists_map_ok C p false i).mp ⟨v, h⟩
  obtain ⟨hwf, henc⟩ := (hp a).mp ha
  rw [(hC a).1, (hC a).2, ← hop, henc]
  exact ⟨hwf, rfl⟩

theorem opRow0_sound {f : Fields} {i : Instr} {lo : Nat} {v : Bool} (hop : f.op = BitVec.ofNat 8 (16 * 0 + lo))
    (h : opRow0 .largest f lo false = .ok (i, v)) : i.wf = true ∧ i.fields = some f := by
  unfold opRow0 at h
  split at h
  case h_1 | h_7 | h_8 => exact row_sound hop (parseG_iff f) (fun _ => ⟨rfl, rfl⟩) h
  case h_2 => exact row_sound hop (parseBr_iff f) (fun _ => ⟨rfl, rfl⟩) h
  case h_3 | h_6 | h_15 => exact row_sound hop (parseA_iff f) (fun _ => ⟨rfl, rfl⟩) h
  case h_4 => exact row_sound hop (parseCall_iff f) (fun _ => ⟨rfl, rfl⟩) h
  case h_5 | h_13 => exact row_sound hop (parseDA_iff f) (fun _ => ⟨rfl, rfl⟩) h
  case h_9 => exact row_sound hop (parseFset_iff f) (fun _ => ⟨rfl, rfl⟩) h
  case h_10 =>
    exact row_sound (enc := (OpFput.enc · 0x40)) hop (fun o => parseFput_iff f o 0x40 (by decide))
      (fun _ => ⟨rfl, rfl⟩) h
  case h_11 =>
    exact row_sound (enc := (OpFput.enc · 0x60)) hop (fun o => parseFput_iff f o 0x60 (by decide))
      (fun _ => ⟨rfl, rfl⟩) h
  case h_12 => exact row_sound hop (parseD_iff f) (fun _ => ⟨rfl, rfl⟩) h
  case h_14 => exact row_sound hop (parseFgets_iff f) (fun _ => ⟨rfl, rfl⟩) h
  case h_16 => simp at h

theorem opRow1_sound {f : Fields} {i : Instr} {lo : Nat} {v : Bool} (hop : f.op = BitVec.ofNat 8 (16 * 1 + lo))
    (h : opRow1 .largest f lo false = .ok (i, v)) : i.wf = true ∧ i.fields = some f := by
  unfold opRow1 at h
  split at h
  case h_1 => exact row_sound hop (parseFstat_iff f) (fun _ => ⟨rfl, rfl⟩) h
  case h_2 | h_8 => exact row_sound hop (parseAC_iff f) (fun _ => ⟨rfl, rfl⟩) h
  case h_3 | h_6 => exact row_sound hop (parseG_iff f) (fun _ => ⟨rfl, rfl⟩) h
  case h_4 => exact row_sound hop (parseMfc_iff f) (fun _ => ⟨rfl, rfl⟩) h
  case h_5 => exact row_sound hop (parseMtc_iff f) (fun _ => ⟨rfl, rfl⟩) h
  case h_7 => exact row_sound hop (parseC_iff f) (fun _ => ⟨rfl, rfl⟩) h
  case h_9 => simp at h

theorem opRow2_sound {f : Fields} {i : Instr} {lo : Nat} {v : Bool} (hop : f.op = BitVec.ofNat 8 (16 * 2 + lo))
    (h : opRow2 .largest f lo false = .ok (i, v)) : i.wf = true ∧ i.fields = some f := by
  unfold opRow2 at h
  split at h
  case h_1 | h_2 | h_3 | h_4 | h_5 | h_7 | h_8 | h_9 | h_10 | h_11 | h_12 | h_13 | h_14 | h_15 | h_16 =>
    exact row_sound hop (parseAlu_iff f) (fun _ => ⟨rfl, rfl⟩) h
  case h_6 => exact row_sound hop (parseAlu3_iff f) (fun _ => ⟨rfl, rfl⟩) h
  case h_17 => simp at h

theorem opRow3_sound {f : Fields} {i : Instr} {lo : Nat} {v : Bool} (hop : f.op = BitVec.ofNat 8 (16 * 3 + lo))
    (h : opRow3 .largest f lo false = .ok (i, v)) : i.wf = true ∧ i.fields = some f := by
  unfold opRow3 at h
  split at h
  case h_1 | h_2 | h_3 | h_4 | h_5 | h_6 => exact row_sound hop (parseAlu_iff f) (fun _ => ⟨rfl, rfl⟩) h
  case h_7 | h_8 | h_9 | h_10 | h_11 | h_12 => exact row_sound hop (parseDA_iff f) (fun _ => ⟨rfl, rfl⟩) h
  case h_13 => exact row_sound hop (parseBfx_iff f) (fun _ => ⟨rfl, rfl⟩) h
  case h_14 => exact row_sound hop (parseBfi_iff f) (fun _ => ⟨rfl, rfl⟩) h
  case h_15 | h_16 => exact row_sound hop (parseExt_iff f) (fun _ => ⟨rfl, rfl⟩) h
  case h_17 => simp at h

theorem opRow4_sound {f : Fields} {i : Instr} {lo : Nat} {v : Bool} (hop : f.op = BitVec.ofNat 8 (16 * 4 + lo))
    (h : opRow4 .largest f lo false = .ok (i, v)) : i.wf = true ∧ i.fields = some f := by
  unfold opRow4 at h
  split at h
  case h_2 => exact row_sound hop (parseSel_iff f) (fun _ => ⟨rfl, rfl⟩) h
  case h_3 => exact row_sound hop (parseLea_iff f) (fun _ => ⟨rfl, rfl⟩) h
  case h_4 => exact row_sound hop (parseCmp_iff f) (fun _ => ⟨rfl, rfl⟩) h
  case h_5 => exact row_sound hop (parsePlog_iff f) (fun _ => ⟨rfl, rfl⟩) h
  case h_6 | h_7 | h_8 => exact row_sound hop (parseFp2_iff f) (fun _ => ⟨rfl, rfl⟩) h
  case h_9 => exact row_sound hop (parseFp3_iff f) (fun _ => ⟨rfl, rfl⟩) h
  case h_10 | h_11 => exact row_sound hop (parseFpMin_iff f) (fun _ => ⟨rfl, rfl⟩) h
  case h_12 => exact row_sound hop (parseFcmp_iff f) (fun _ => ⟨rfl, rfl⟩) h
  case h_13 => exact row_sound hop (parseFcvt_iff f) (fun _ => ⟨rfl, rfl⟩) h
  case h_14 => exact row_sound hop (parseIcvt_iff f) (fun _ => ⟨rfl, rfl⟩) h
  case h_15 | h_16 => exact row_sound hop (parseAluU_iff f) (fun _ => ⟨rfl, rfl⟩) h
  case h_1 =>
    split at h
    next hb => exact row_sound hop (fun o => parseMovHi_iff f o hb) (fun _ => ⟨rfl, rfl⟩) h
    next => exact row_sound hop (parseMov_iff f) (fun _ => ⟨rfl, rfl⟩) h
  case h_17 => simp at h

theorem opRow5_sound {f : Fields} {i : Instr} {lo : Nat} {v : Bool} (hop : f.op = BitVec.ofNat 8 (16 * 5 + lo))
    (h : opRow5 .largest f lo false = .ok (i, v)) : i.wf = true ∧ i.fields = some f := by
  unfold opRow5 at h
  split at h
  case h_1 => exact row_sound hop (parseLd_iff f) (fun _ => ⟨rfl, rfl⟩) h
  case h_2 => exact row_sound hop (parseSt_iff f) (fun _ => ⟨rfl, rfl⟩) h
  case h_3 => exact row_sound hop (parseStn_iff f) (fun _ => ⟨rfl, rfl⟩) h
  case h_4 => exact row_sound hop (parseLdp_iff f) (fun _ => ⟨rfl, rfl⟩) h
  case h_5 | h_7 => exact row_sound hop (parseTake_iff f) (fun _ => ⟨rfl, rfl⟩) h
  case h_8 => exact row_sound hop (parseTagr_iff f) (fun _ => ⟨rfl, rfl⟩) h
  case h_9 => exact row_sound hop (parseTagw_iff f) (fun _ => ⟨rfl, rfl⟩) h
  case h_10 => exact row_sound hop (parseFence_iff f) (fun _ => ⟨rfl, rfl⟩) h
  case h_11 | h_12 | h_13 | h_14 | h_15 | h_16 => exact row_sound hop (parseAtom_iff f) (fun _ => ⟨rfl, rfl⟩) h
  case h_6 =>
    split at h
    next hb =>
      exact row_sound (enc := (OpPut.enc · true)) hop (fun o => parsePut_iff f o true hb) (fun _ => ⟨rfl, rfl⟩) h
    next hb =>
      exact row_sound (enc := (OpPut.enc · false)) hop (fun o => parsePut_iff f o false (Bool.eq_false_iff.mpr hb))
        (fun _ => ⟨rfl, rfl⟩) h
  case h_17 => simp at h

theorem opRow6_sound {f : Fields} {i : Instr} {lo : Nat} {v : Bool} (hop : f.op = BitVec.ofNat 8 (16 * 6 + lo))
    (h : opRow6 .largest f lo false = .ok (i, v)) : i.wf = true ∧ i.fields = some f := by
  unfold opRow6 at h
  split at h
  case h_1 | h_2 | h_3 => exact row_sound hop (parseAtom_iff f) (fun _ => ⟨rfl, rfl⟩) h
  case h_4 => exact row_sound hop (parseAfadd_iff f) (fun _ => ⟨rfl, rfl⟩) h
  case h_5 => exact row_sound hop (parseCas_iff f) (fun _ => ⟨rfl, rfl⟩) h
  case h_6 | h_7 => exact row_sound hop (parseM_iff f) (fun _ => ⟨rfl, rfl⟩) h
  case h_9 => exact row_sound hop (parseDC_iff f) (fun _ => ⟨rfl, rfl⟩) h
  case h_10 => exact row_sound hop (parseTset_iff f) (fun _ => ⟨rfl, rfl⟩) h
  case h_11 | h_12 => exact row_sound hop (parseDA_iff f) (fun _ => ⟨rfl, rfl⟩) h
  case h_8 =>
    split at h
    next hb => exact row_sound hop (fun o => parseMondAll_iff f o hb) (fun _ => ⟨rfl, rfl⟩) h
    next => exact row_sound hop (parseM_iff f) (fun _ => ⟨rfl, rfl⟩) h
  case h_13 => simp at h

theorem opRow7_sound {f : Fields} {i : Instr} {lo : Nat} {v : Bool} (hop : f.op = BitVec.ofNat 8 (16 * 7 + lo))
    (h : opRow7 .largest f lo false = .ok (i, v)) : i.wf = true ∧ i.fields = some f := by
  unfold opRow7 at h
  split at h
  case h_1 => exact row_sound hop (parseBari_iff f) (fun _ => ⟨rfl, rfl⟩) h
  case h_2 | h_3 | h_4 | h_5 | h_8 | h_9 | h_13 => exact row_sound hop (parseDMS_iff f) (fun _ => ⟨rfl, rfl⟩) h
  case h_6 | h_7 | h_10 | h_14 | h_15 => exact row_sound hop (parseMS_iff f) (fun _ => ⟨rfl, rfl⟩) h
  case h_11 | h_12 => exact row_sound hop (parseMCS_iff f) (fun _ => ⟨rfl, rfl⟩) h
  case h_16 =>
    split at h
    next hb =>
      exact row_sound (enc := (OpDMCS.enc · true)) hop (fun o => parseWwait_iff f o true hb) (fun _ => ⟨rfl, rfl⟩) h
    next hb =>
      exact row_sound (enc := (OpDMCS.enc · false)) hop (fun o => parseWwait_iff f o false (Bool.eq_false_iff.mpr
        hb)) (fun _ => ⟨rfl, rfl⟩) h
  case h_17 => simp at h

theorem opRow8_sound {f : Fields} {i : Instr} {lo : Nat} {v : Bool} (hop : f.op = BitVec.ofNat 8 (16 * 8 + lo))
    (h : opRow8 .largest f lo false = .ok (i, v)) : i.wf = true ∧ i.fields = some f := by
  unfold opRow8 at h
  split at h
  case h_1 | h_2 | h_4 => exact row_sound hop (parseMS_iff f) (fun _ => ⟨rfl, rfl⟩) h
  case h_3 => exact row_sound hop (parseWqry_iff f) (fun _ => ⟨rfl, rfl⟩) h
  case h_5 | h_6 | h_7 | h_8 | h_9 | h_10 => exact row_sound hop (parseDM_iff f) (fun _ => ⟨rfl, rfl⟩) h
  case h_11 => exact row_sound hop (parseEapp_iff f) (fun _ => ⟨rfl, rfl⟩) h
  case h_12 => exact row_sound hop (parseErepl_iff f) (fun _ => ⟨rfl, rfl⟩) h
  case h_13 => simp at h

theorem opRow9_sound {f : Fields} {i : Instr} {lo : Nat} {v : Bool} (hop : f.op = BitVec.ofNat 8 (16 * 9 + lo))
    (h : opRow9 .largest f lo false = .ok (i, v)) : i.wf = true ∧ i.fields = some f := by
  unfold opRow9 at h
  split at h
  case h_1 => exact row_sound hop (parseA_iff f) (fun _ => ⟨rfl, rfl⟩) h
  case h_2 => exact row_sound hop (parseDA_iff f) (fun _ => ⟨rfl, rfl⟩) h
  case h_3 => exact row_sound hop (parseVclaim_iff f) (fun _ => ⟨rfl, rfl⟩) h
  case h_4 => exact row_sound hop (parseG_iff f) (fun _ => ⟨rfl, rfl⟩) h
  case h_5 => exact row_sound hop (parseD_iff f) (fun _ => ⟨rfl, rfl⟩) h
  case h_6 => exact row_sound hop (parseVLd_iff f) (fun _ => ⟨rfl, rfl⟩) h
  case h_7 => exact row_sound hop (parseVSt_iff f) (fun _ => ⟨rfl, rfl⟩) h
  case h_8 => exact row_sound hop (parseVLds_iff f) (fun _ => ⟨rfl, rfl⟩) h
  case h_9 => exact row_sound hop (parseVSts_iff f) (fun _ => ⟨rfl, rfl⟩) h
  case h_10 => exact row_sound hop (parseVGath_iff f) (fun _ => ⟨rfl, rfl⟩) h
  case h_11 => simp at h

theorem opRowA_sound {f : Fields} {i : Instr} {lo : Nat} {v : Bool} (hop : f.op = BitVec.ofNat 8 (16 * 10 + lo))
    (h : opRowA .largest f lo false = .ok (i, v)) : i.wf = true ∧ i.fields = some f := by
  unfold opRowA at h
  split at h
  case h_1 => exact row_sound hop (parseVScat_iff f) (fun _ => ⟨rfl, rfl⟩) h
  case h_2 => exact row_sound hop (fun o => parseVFill_iff f o vecFmt) (fun _ => ⟨rfl, rfl⟩) h
  case h_3 => exact row_sound hop (parseVExt_iff f) (fun _ => ⟨rfl, rfl⟩) h
  case h_4 => exact row_sound hop (parseVIns_iff f) (fun _ => ⟨rfl, rfl⟩) h
  case h_5 | h_6 | h_7 => exact row_sound hop (fun o => parseVAlu_iff f o .arith) (fun _ => ⟨rfl, rfl⟩) h
  case h_8 => exact row_sound hop (parseVFma_iff f) (fun _ => ⟨rfl, rfl⟩) h
  case h_9 | h_10 => exact row_sound hop (fun o => parseVAlu_iff f o .minmax) (fun _ => ⟨rfl, rfl⟩) h
  case h_11 => exact row_sound hop (parseVAbs_iff f) (fun _ => ⟨rfl, rfl⟩) h
  case h_12 | h_13 | h_14 | h_15 | h_16 =>
    exact row_sound hop (fun o => parseVAlu_iff f o .bits) (fun _ => ⟨rfl, rfl⟩) h
  case h_17 => simp at h

theorem opRowB_sound {f : Fields} {i : Instr} {lo : Nat} {v : Bool} (hop : f.op = BitVec.ofNat 8 (16 * 11 + lo))
    (h : opRowB .largest f lo false = .ok (i, v)) : i.wf = true ∧ i.fields = some f := by
  unfold opRowB at h
  split at h
  case h_1 => exact row_sound hop (fun o => parseVAlu_iff f o .bits) (fun _ => ⟨rfl, rfl⟩) h
  case h_2 => exact row_sound hop (parseVCmp_iff f) (fun _ => ⟨rfl, rfl⟩) h
  case h_3 => exact row_sound hop (parseVSel_iff f) (fun _ => ⟨rfl, rfl⟩) h
  case h_4 => exact row_sound hop (parseVCvt_iff f) (fun _ => ⟨rfl, rfl⟩) h
  case h_5 => exact row_sound hop (parseVQmx_iff f) (fun _ => ⟨rfl, rfl⟩) h
  case h_6 => exact row_sound hop (parseVDqmx_iff f) (fun _ => ⟨rfl, rfl⟩) h
  case h_7 => exact row_sound hop (fun o => parseVRed_iff f o true) (fun _ => ⟨rfl, rfl⟩) h
  case h_8 | h_9 => exact row_sound hop (fun o => parseVRed_iff f o false) (fun _ => ⟨rfl, rfl⟩) h
  case h_10 | h_11 | h_12 | h_13 | h_14 | h_15 | h_16 =>
    exact row_sound hop (parseVSpec_iff f) (fun _ => ⟨rfl, rfl⟩) h
  case h_17 => simp at h

theorem opRowC_sound {f : Fields} {i : Instr} {lo : Nat} {v : Bool} (hop : f.op = BitVec.ofNat 8 (16 * 12 + lo))
    (h : opRowC .largest f lo false = .ok (i, v)) : i.wf = true ∧ i.fields = some f := by
  unfold opRowC at h
  split at h
  case h_1 => exact row_sound hop (parseVPerm_iff f) (fun _ => ⟨rfl, rfl⟩) h
  case h_2 => exact row_sound hop (parseVBperm_iff f) (fun _ => ⟨rfl, rfl⟩) h
  case h_3 => exact row_sound hop (parseKlog_iff f) (fun _ => ⟨rfl, rfl⟩) h
  case h_4 => exact row_sound hop (parseKpop_iff f) (fun _ => ⟨rfl, rfl⟩) h
  case h_5 => exact row_sound hop (fun o => parseVFill_iff f o Fmt.isInt) (fun _ => ⟨rfl, rfl⟩) h
  case h_6 => simp at h

theorem opRowD_sound {f : Fields} {i : Instr} {lo : Nat} {v : Bool} (hop : f.op = BitVec.ofNat 8 (16 * 13 + lo))
    (h : opRowD .largest f lo false = .ok (i, v)) : i.wf = true ∧ i.fields = some f := by
  unfold opRowD at h
  split at h
  case h_1 => exact row_sound hop (parseVMset_iff f) (fun _ => ⟨rfl, rfl⟩) h
  case h_2 | h_3 | h_5 | h_6 => exact row_sound hop (parseVM2_iff f) (fun _ => ⟨rfl, rfl⟩) h
  case h_4 | h_7 | h_8 | h_9 => exact row_sound hop (parseVM1_iff f) (fun _ => ⟨rfl, rfl⟩) h
  case h_12 => exact row_sound hop (parseVAuto_iff f) (fun _ => ⟨rfl, rfl⟩) h
  case h_10 =>
    split at h
    next hb => exact row_sound hop (fun o => parseVBflyX_iff f o hb) (fun _ => ⟨rfl, rfl⟩) h
    next => exact row_sound hop (parseVBfly_iff f) (fun _ => ⟨rfl, rfl⟩) h
  case h_11 =>
    split at h
    next hb => exact row_sound hop (fun o => parseVBflyX_iff f o hb) (fun _ => ⟨rfl, rfl⟩) h
    next => exact row_sound hop (parseVBfly_iff f) (fun _ => ⟨rfl, rfl⟩) h
  case h_13 => simp at h

theorem opRowE_sound {f : Fields} {i : Instr} {lo : Nat} {v : Bool} (hop : f.op = BitVec.ofNat 8 (16 * 14 + lo))
    (h : opRowE .largest f lo false = .ok (i, v)) : i.wf = true ∧ i.fields = some f := by
  unfold opRowE at h
  split at h
  case h_1 => exact row_sound hop (parseRingi_iff f) (fun _ => ⟨rfl, rfl⟩) h
  case h_4 => exact row_sound hop (parseRstat_iff f) (fun _ => ⟨rfl, rfl⟩) h
  case h_5 => exact row_sound hop (parseTldw_iff f) (fun _ => ⟨rfl, rfl⟩) h
  case h_6 => exact row_sound hop (parseA_iff f) (fun _ => ⟨rfl, rfl⟩) h
  case h_7 => exact row_sound hop (parseTmma_iff f) (fun _ => ⟨rfl, rfl⟩) h
  case h_8 => exact row_sound hop (parseTdrain_iff f) (fun _ => ⟨rfl, rfl⟩) h
  case h_9 => exact row_sound hop (parseM_iff f) (fun _ => ⟨rfl, rfl⟩) h
  case h_10 => exact row_sound hop (parseD_iff f) (fun _ => ⟨rfl, rfl⟩) h
  case h_2 =>
    split at h
    next hb =>
      exact row_sound (enc := (OpRing.enc · true)) hop (fun o => parseRing_iff f o true hb) (fun _ => ⟨rfl, rfl⟩) h
    next => exact row_sound hop (parseRpush_iff f) (fun _ => ⟨rfl, rfl⟩) h
  case h_3 =>
    split at h
    next hb =>
      exact row_sound (enc := (OpRing.enc · true)) hop (fun o => parseRing_iff f o true hb) (fun _ => ⟨rfl, rfl⟩) h
    next hb =>
      exact row_sound (enc := (OpRing.enc · false)) hop (fun o => parseRing_iff f o false (Bool.eq_false_iff.mpr
        hb)) (fun _ => ⟨rfl, rfl⟩) h
  case h_11 => simp at h

theorem opRowF_sound {f : Fields} {i : Instr} {lo : Nat} {v : Bool} (hop : f.op = BitVec.ofNat 8 (16 * 15 + lo))
    (h : opRowF .largest f lo false = .ok (i, v)) : i.wf = true ∧ i.fields = some f := by
  unfold opRowF at h
  split at h
  case h_1 => exact row_sound hop (parseNgrp_iff f) (fun _ => ⟨rfl, rfl⟩) h
  case h_2 => exact row_sound hop (parseNred_iff f) (fun _ => ⟨rfl, rfl⟩) h
  case h_3 => exact row_sound hop (parseNredi_iff f) (fun _ => ⟨rfl, rfl⟩) h
  case h_4 => exact row_sound hop (parseDA_iff f) (fun _ => ⟨rfl, rfl⟩) h
  case h_5 => exact row_sound hop (parseTracew_iff f) (fun _ => ⟨rfl, rfl⟩) h
  case h_6 => exact row_sound hop (parseCntr_iff f) (fun _ => ⟨rfl, rfl⟩) h
  case h_7 => simp at h

/-! ### Every well-formed instruction is decoded from its fields -/

theorem OpVQmx.enc_op (op : BitVec 8) (o : OpVQmx) : (o.enc op).op = op := by
  unfold OpVQmx.enc
  cases o.scale <;> rfl

theorem OpVMset.enc_op (op : BitVec 8) (o : OpVMset) : (o.enc op).op = op := by
  unfold OpVMset.enc
  cases o.src <;> rfl

theorem OpWqry.enc_op (op : BitVec 8) (o : OpWqry) : (o.enc op).op = op := by
  unfold OpWqry.enc
  split <;> rfl

theorem OpVFill.enc_op (op : BitVec 8) (o : OpVFill) : (o.enc op).op = op := by
  unfold OpVFill.enc
  cases o.val <;> rfl

theorem OpMovHi.enc_bit (op : BitVec 8) (o : OpMovHi) : (o.enc op).low.getLsbD 11 = true := by
  simp [OpMovHi.enc]

theorem OpG.encAll_bit (op : BitVec 8) (o : OpG) : (o.encAll op).low.getLsbD 6 = true := by
  simp [OpG.encAll]

theorem OpM.enc_bit (op : BitVec 8) (o : OpM) : (o.enc op).low.getLsbD 6 = false := by
  simp [OpM.enc, Fields.mem, Fields.base]

theorem OpMov.enc_bit (op : BitVec 8) (o : OpMov) : (o.enc op).low.getLsbD 11 = false := by
  show (o.b.ul ++ 0#12 : BitVec 13).getLsbD 11 = false
  rw [BitVec.getLsbD_append]
  simp

theorem OpPut.enc_bit (op : BitVec 8) (b : Bool) (o : OpPut) : (o.enc op b).low.getLsbD 4 = b := by
  show (0#8 ++ BitVec.ofBool b ++ 3#4 : BitVec 13).getLsbD 4 = b
  rw [BitVec.getLsbD_append, BitVec.getLsbD_append]
  simp

theorem OpDMCS.enc_bit (op : BitVec 8) (b : Bool) (o : OpDMCS) : (o.enc op b).low.getLsbD 0 = b := by
  show (0#12 ++ BitVec.ofBool b : BitVec 13).getLsbD 0 = b
  rw [BitVec.getLsbD_append]
  simp

theorem OpRing.enc_bit (op : BitVec 8) (b : Bool) (o : OpRing) : (o.enc op b).low.getLsbD 5 = b := by
  show (0#7 ++ BitVec.ofBool b ++ ringBits o.ring : BitVec 13).getLsbD 5 = b
  rw [BitVec.getLsbD_append, BitVec.getLsbD_append]
  simp

theorem OpRpush.enc_bit (op : BitVec 8) (o : OpRpush) : (o.enc op).low.getLsbD 5 = false := by
  show (0#8 ++ ringBits o.ring : BitVec 13).getLsbD 5 = false
  rw [BitVec.getLsbD_append]
  simp

theorem OpVBfly.enc_bit (op : BitVec 8) (o : OpVBfly) : (o.enc op).low.getLsbD 10 = false := by
  show (qsBits o.qs ++ 0#2 ++ o.dist ++ maskBits o.mask : BitVec 13).getLsbD 10 = false
  rw [BitVec.getLsbD_append, BitVec.getLsbD_append, BitVec.getLsbD_append]
  simp

theorem OpVBflyX.enc_bit (op : BitVec 8) (o : OpVBflyX) : (o.enc op).low.getLsbD 10 = true := by
  show (qsBits o.qs ++ 1#1 ++ 0#5 ++ maskBits o.mask : BitVec 13).getLsbD 10 = true
  rw [BitVec.getLsbD_append, BitVec.getLsbD_append, BitVec.getLsbD_append]
  simp

/-- A row of one shape: the fields of a well-formed instruction are accepted, and read as that instruction. -/
theorem row_complete {α : Type} {C : α → Instr} {p : P α} {a : α} {f : Fields} {op : BitVec 8}
    {wf : α → Bool} {enc : BitVec 8 → α → Fields}
    (hp : ∀ a, (∃ v, p false = .ok (a, v)) ↔ wf a = true ∧ enc f.op a = f)
    (hwf : wf a = true) (hf : some (enc op a) = some f) (henc : (enc op a).op = op)
    (hrow : f.op = op → decodeFields .largest f = C <$> p) : ∃ v, decodeFields .largest f false = .ok (C a, v) := by
  have hf := Option.some.inj hf
  have hop : f.op = op := hf ▸ henc
  rw [hrow hop, P.exists_map_ok]
  exact ⟨a, (hp a).mpr ⟨hwf, hop ▸ hf⟩, rfl⟩

/-- A bit of the fields, from the instruction that they encode. -/
theorem bit_of_fields {x f : Fields} {n : Nat} {b : Bool} (hf : some x = some f) (hb : x.low.getLsbD n = b) :
    f.low.getLsbD n = b :=
  Option.some.inj hf ▸ hb

theorem decodeFields_complete {i : Instr} {f : Fields} (hwf : i.wf = true) (hf : i.fields = some f) :
    ∃ v, decodeFields .largest f false = .ok (i, v) := by
  cases i
  case nop | exit | breakM | eret | yieldT | vrel =>
    exact row_complete (parseG_iff f) hwf hf rfl fun h => by rw [decodeFields, h]; rfl
  case br =>
    exact row_complete (parseBr_iff f) hwf hf rfl fun h => by rw [decodeFields, h]; rfl
  case brx | ret | kill | ccan | trel =>
    exact row_complete (parseA_iff f) hwf hf rfl fun h => by rw [decodeFields, h]; rfl
  case call =>
    exact row_complete (parseCall_iff f) hwf hf rfl fun h => by rw [decodeFields, h]; rfl
  case callx | sync | abs | clz | ctz | popc | brev | bswap | tlook | tclr | cstat | nfree =>
    exact row_complete (parseDA_iff f) hwf hf rfl fun h => by rw [decodeFields, h]; rfl
  case fset =>
    exact row_complete (parseFset_iff f) hwf hf rfl fun h => by rw [decodeFields, h]; rfl
  case fputg =>
    exact row_complete (enc := (OpFput.enc · 0x40)) (fun o => parseFput_iff f o 0x40 (by decide)) hwf hf rfl fun h => by
      rw [decodeFields, h]
      rfl
  case fputs =>
    exact row_complete (enc := (OpFput.enc · 0x60)) (fun o => parseFput_iff f o 0x60 (by decide)) hwf hf rfl fun h => by
      rw [decodeFields, h]
      rfl
  case create | vyield | twait =>
    exact row_complete (parseD_iff f) hwf hf rfl fun h => by rw [decodeFields, h]; rfl
  case fgets =>
    exact row_complete (parseFgets_iff f) hwf hf rfl fun h => by rw [decodeFields, h]; rfl
  case fstat =>
    exact row_complete (parseFstat_iff f) hwf hf rfl fun h => by rw [decodeFields, h]; rfl
  case trap | bkpt =>
    exact row_complete (parseAC_iff f) hwf hf rfl fun h => by rw [decodeFields, h]; rfl
  case mfc =>
    exact row_complete (parseMfc_iff f) hwf hf rfl fun h => by rw [decodeFields, h]; rfl
  case mtc =>
    exact row_complete (parseMtc_iff f) hwf hf rfl fun h => by rw [decodeFields, h]; rfl
  case chkpt =>
    exact row_complete (parseC_iff f) hwf hf rfl fun h => by rw [decodeFields, h]; rfl
  case add | sub | mul | mulhs | mulhu | divs | divu | rems | remu | and | or | xor | andn | shl | shr | sar | rol
    | min | max | minu | maxu =>
    exact row_complete (parseAlu_iff f) hwf hf rfl fun h => by rw [decodeFields, h]; rfl
  case madd =>
    exact row_complete (parseAlu3_iff f) hwf hf rfl fun h => by rw [decodeFields, h]; rfl
  case bfx =>
    exact row_complete (parseBfx_iff f) hwf hf rfl fun h => by rw [decodeFields, h]; rfl
  case bfi =>
    exact row_complete (parseBfi_iff f) hwf hf rfl fun h => by rw [decodeFields, h]; rfl
  case sext | zext =>
    exact row_complete (parseExt_iff f) hwf hf rfl fun h => by rw [decodeFields, h]; rfl
  case sel =>
    exact row_complete (parseSel_iff f) hwf hf rfl fun h => by rw [decodeFields, h]; rfl
  case lea =>
    exact row_complete (parseLea_iff f) hwf hf rfl fun h => by rw [decodeFields, h]; rfl
  case cmp =>
    exact row_complete (parseCmp_iff f) hwf hf rfl fun h => by rw [decodeFields, h]; rfl
  case plog =>
    exact row_complete (parsePlog_iff f) hwf hf rfl fun h => by rw [decodeFields, h]; rfl
  case fadd | fsub | fmul =>
    exact row_complete (parseFp2_iff f) hwf hf rfl fun h => by rw [decodeFields, h]; rfl
  case ffma =>
    exact row_complete (parseFp3_iff f) hwf hf rfl fun h => by rw [decodeFields, h]; rfl
  case fmin | fmax =>
    exact row_complete (parseFpMin_iff f) hwf hf rfl fun h => by rw [decodeFields, h]; rfl
  case fcmp =>
    exact row_complete (parseFcmp_iff f) hwf hf rfl fun h => by rw [decodeFields, h]; rfl
  case fcvt =>
    exact row_complete (parseFcvt_iff f) hwf hf rfl fun h => by rw [decodeFields, h]; rfl
  case icvt =>
    exact row_complete (parseIcvt_iff f) hwf hf rfl fun h => by rw [decodeFields, h]; rfl
  case adds | subs =>
    exact row_complete (parseAluU_iff f) hwf hf rfl fun h => by rw [decodeFields, h]; rfl
  case ld =>
    exact row_complete (parseLd_iff f) hwf hf rfl fun h => by rw [decodeFields, h]; rfl
  case st =>
    exact row_complete (parseSt_iff f) hwf hf rfl fun h => by rw [decodeFields, h]; rfl
  case stn =>
    exact row_complete (parseStn_iff f) hwf hf rfl fun h => by rw [decodeFields, h]; rfl
  case ldp =>
    exact row_complete (parseLdp_iff f) hwf hf rfl fun h => by rw [decodeFields, h]; rfl
  case take | ldf =>
    exact row_complete (parseTake_iff f) hwf hf rfl fun h => by rw [decodeFields, h]; rfl
  case tagr =>
    exact row_complete (parseTagr_iff f) hwf hf rfl fun h => by rw [decodeFields, h]; rfl
  case tagw =>
    exact row_complete (parseTagw_iff f) hwf hf rfl fun h => by rw [decodeFields, h]; rfl
  case fence =>
    exact row_complete (parseFence_iff f) hwf hf rfl fun h => by rw [decodeFields, h]; rfl
  case aadd | aand | aor | axor | amin | amax | aminu | amaxu | axchg =>
    exact row_complete (parseAtom_iff f) hwf hf rfl fun h => by rw [decodeFields, h]; rfl
  case afadd =>
    exact row_complete (parseAfadd_iff f) hwf hf rfl fun h => by rw [decodeFields, h]; rfl
  case cas =>
    exact row_complete (parseCas_iff f) hwf hf rfl fun h => by rw [decodeFields, h]; rfl
  case pref | mona | tzero =>
    exact row_complete (parseM_iff f) hwf hf rfl fun h => by rw [decodeFields, h]; rfl
  case waitm =>
    exact row_complete (parseDC_iff f) hwf hf rfl fun h => by rw [decodeFields, h]; rfl
  case tset =>
    exact row_complete (parseTset_iff f) hwf hf rfl fun h => by rw [decodeFields, h]; rfl
  case bari =>
    exact row_complete (parseBari_iff f) hwf hf rfl fun h => by rw [decodeFields, h]; rfl
  case barr | barw | bwait | bdrop | lkacq | lktry | qpop =>
    exact row_complete (parseDMS_iff f) hwf hf rfl fun h => by rw [decodeFields, h]; rfl
  case bpois | lki | lkrel | wreg | whold | wdrop | wunreg | ofree =>
    exact row_complete (parseMS_iff f) hwf hf rfl fun h => by rw [decodeFields, h]; rfl
  case qi | qpush =>
    exact row_complete (parseMCS_iff f) hwf hf rfl fun h => by rw [decodeFields, h]; rfl
  case wqry =>
    exact row_complete (parseWqry_iff f) hwf hf (OpWqry.enc_op _ _) fun h => by rw [decodeFields, h]; rfl
  case copy | copyt | gath | pack | unpack | ebin =>
    exact row_complete (parseDM_iff f) hwf hf rfl fun h => by rw [decodeFields, h]; rfl
  case eapp =>
    exact row_complete (parseEapp_iff f) hwf hf rfl fun h => by rw [decodeFields, h]; rfl
  case erepl =>
    exact row_complete (parseErepl_iff f) hwf hf rfl fun h => by rw [decodeFields, h]; rfl
  case vclaim =>
    exact row_complete (parseVclaim_iff f) hwf hf rfl fun h => by rw [decodeFields, h]; rfl
  case vld =>
    exact row_complete (parseVLd_iff f) hwf hf rfl fun h => by rw [decodeFields, h]; rfl
  case vst =>
    exact row_complete (parseVSt_iff f) hwf hf rfl fun h => by rw [decodeFields, h]; rfl
  case vlds =>
    exact row_complete (parseVLds_iff f) hwf hf rfl fun h => by rw [decodeFields, h]; rfl
  case vsts =>
    exact row_complete (parseVSts_iff f) hwf hf rfl fun h => by rw [decodeFields, h]; rfl
  case vgath =>
    exact row_complete (parseVGath_iff f) hwf hf rfl fun h => by rw [decodeFields, h]; rfl
  case vscat =>
    exact row_complete (parseVScat_iff f) hwf hf rfl fun h => by rw [decodeFields, h]; rfl
  case vbcast =>
    exact row_complete (fun o => parseVFill_iff f o vecFmt) hwf hf (OpVFill.enc_op _ _) fun h => by
      rw [decodeFields, h]
      rfl
  case vext =>
    exact row_complete (parseVExt_iff f) hwf hf rfl fun h => by rw [decodeFields, h]; rfl
  case vins =>
    exact row_complete (parseVIns_iff f) hwf hf rfl fun h => by rw [decodeFields, h]; rfl
  case vadd | vsub | vmul =>
    exact row_complete (fun o => parseVAlu_iff f o .arith) hwf hf rfl fun h => by rw [decodeFields, h]; rfl
  case vfma =>
    exact row_complete (parseVFma_iff f) hwf hf rfl fun h => by rw [decodeFields, h]; rfl
  case vmin | vmax =>
    exact row_complete (fun o => parseVAlu_iff f o .minmax) hwf hf rfl fun h => by rw [decodeFields, h]; rfl
  case vabs =>
    exact row_complete (parseVAbs_iff f) hwf hf rfl fun h => by rw [decodeFields, h]; rfl
  case vand | vor | vxor | vshl | vshr | vsar =>
    exact row_complete (fun o => parseVAlu_iff f o .bits) hwf hf rfl fun h => by rw [decodeFields, h]; rfl
  case vcmp =>
    exact row_complete (parseVCmp_iff f) hwf hf rfl fun h => by rw [decodeFields, h]; rfl
  case vsel =>
    exact row_complete (parseVSel_iff f) hwf hf rfl fun h => by rw [decodeFields, h]; rfl
  case vcvt =>
    exact row_complete (parseVCvt_iff f) hwf hf rfl fun h => by rw [decodeFields, h]; rfl
  case vqmx =>
    exact row_complete (parseVQmx_iff f) hwf hf (OpVQmx.enc_op _ _) fun h => by rw [decodeFields, h]; rfl
  case vdqmx =>
    exact row_complete (parseVDqmx_iff f) hwf hf rfl fun h => by rw [decodeFields, h]; rfl
  case vrsum =>
    exact row_complete (fun o => parseVRed_iff f o true) hwf hf rfl fun h => by rw [decodeFields, h]; rfl
  case vrmax | vrmin =>
    exact row_complete (fun o => parseVRed_iff f o false) hwf hf rfl fun h => by rw [decodeFields, h]; rfl
  case vexp2 | vlog2 | vrcp | vrsq | vsqrt | vtanh | vsigm =>
    exact row_complete (parseVSpec_iff f) hwf hf rfl fun h => by rw [decodeFields, h]; rfl
  case vperm =>
    exact row_complete (parseVPerm_iff f) hwf hf rfl fun h => by rw [decodeFields, h]; rfl
  case vbperm =>
    exact row_complete (parseVBperm_iff f) hwf hf rfl fun h => by rw [decodeFields, h]; rfl
  case klog =>
    exact row_complete (parseKlog_iff f) hwf hf rfl fun h => by rw [decodeFields, h]; rfl
  case kpop =>
    exact row_complete (parseKpop_iff f) hwf hf rfl fun h => by rw [decodeFields, h]; rfl
  case viota =>
    exact row_complete (fun o => parseVFill_iff f o Fmt.isInt) hwf hf (OpVFill.enc_op _ _) fun h => by
      rw [decodeFields, h]
      rfl
  case vmset =>
    exact row_complete (parseVMset_iff f) hwf hf (OpVMset.enc_op _ _) fun h => by rw [decodeFields, h]; rfl
  case vmadd | vmsub | vmmul | vmmac =>
    exact row_complete (parseVM2_iff f) hwf hf rfl fun h => by rw [decodeFields, h]; rfl
  case vmneg | vmred | vmto | vmfrom =>
    exact row_complete (parseVM1_iff f) hwf hf rfl fun h => by rw [decodeFields, h]; rfl
  case vauto =>
    exact row_complete (parseVAuto_iff f) hwf hf rfl fun h => by rw [decodeFields, h]; rfl
  case ringi =>
    exact row_complete (parseRingi_iff f) hwf hf rfl fun h => by rw [decodeFields, h]; rfl
  case rstat =>
    exact row_complete (parseRstat_iff f) hwf hf rfl fun h => by rw [decodeFields, h]; rfl
  case tldw =>
    exact row_complete (parseTldw_iff f) hwf hf rfl fun h => by rw [decodeFields, h]; rfl
  case tmma =>
    exact row_complete (parseTmma_iff f) hwf hf rfl fun h => by rw [decodeFields, h]; rfl
  case tdrain =>
    exact row_complete (parseTdrain_iff f) hwf hf rfl fun h => by rw [decodeFields, h]; rfl
  case ngrp =>
    exact row_complete (parseNgrp_iff f) hwf hf rfl fun h => by rw [decodeFields, h]; rfl
  case nred =>
    exact row_complete (parseNred_iff f) hwf hf rfl fun h => by rw [decodeFields, h]; rfl
  case nredi =>
    exact row_complete (parseNredi_iff f) hwf hf rfl fun h => by rw [decodeFields, h]; rfl
  case tracew =>
    exact row_complete (parseTracew_iff f) hwf hf rfl fun h => by rw [decodeFields, h]; rfl
  case cntr =>
    exact row_complete (parseCntr_iff f) hwf hf rfl fun h => by rw [decodeFields, h]; rfl
  case movHi =>
    have hb := bit_of_fields (n := 11) (b := true) hf (OpMovHi.enc_bit _ _)
    exact row_complete (fun o => parseMovHi_iff f o hb) hwf hf rfl fun h => by rw [decodeFields, h]; exact if_pos hb
  case mov =>
    have hb := bit_of_fields (n := 11) (b := false) hf (OpMov.enc_bit _ _)
    exact row_complete (parseMov_iff f) hwf hf rfl fun h => by
      rw [decodeFields, h]
      exact if_neg (Bool.eq_false_iff.mp hb)
  case putWait =>
    have hb := bit_of_fields (n := 4) (b := true) hf (OpPut.enc_bit _ _ _)
    exact row_complete (enc := (OpPut.enc · true)) (fun o => parsePut_iff f o true hb) hwf hf rfl fun h => by
      rw [decodeFields, h]
      exact if_pos hb
  case put =>
    have hb := bit_of_fields (n := 4) (b := false) hf (OpPut.enc_bit _ _ _)
    exact row_complete (enc := (OpPut.enc · false)) (fun o => parsePut_iff f o false hb) hwf hf rfl fun h => by
      rw [decodeFields, h]
      exact if_neg (Bool.eq_false_iff.mp hb)
  case mondAll =>
    have hb := bit_of_fields (n := 6) (b := true) hf (OpG.encAll_bit _ _)
    exact row_complete (fun o => parseMondAll_iff f o hb) hwf hf rfl fun h => by rw [decodeFields, h]; exact if_pos hb
  case mond =>
    have hb := bit_of_fields (n := 6) (b := false) hf (OpM.enc_bit _ _)
    exact row_complete (parseM_iff f) hwf hf rfl fun h => by
      rw [decodeFields, h]
      exact if_neg (Bool.eq_false_iff.mp hb)
  case wwaitNb =>
    have hb := bit_of_fields (n := 0) (b := true) hf (OpDMCS.enc_bit _ _ _)
    exact row_complete (enc := (OpDMCS.enc · true)) (fun o => parseWwait_iff f o true hb) hwf hf rfl fun h => by
      rw [decodeFields, h]
      exact if_pos hb
  case wwait =>
    have hb := bit_of_fields (n := 0) (b := false) hf (OpDMCS.enc_bit _ _ _)
    exact row_complete (enc := (OpDMCS.enc · false)) (fun o => parseWwait_iff f o false hb) hwf hf rfl fun h => by
      rw [decodeFields, h]
      exact if_neg (Bool.eq_false_iff.mp hb)
  case vbflyX | vibflyX =>
    have hb := bit_of_fields (n := 10) (b := true) hf (OpVBflyX.enc_bit _ _)
    exact row_complete (fun o => parseVBflyX_iff f o hb) hwf hf rfl fun h => by rw [decodeFields, h]; exact if_pos hb
  case vbfly | vibfly =>
    have hb := bit_of_fields (n := 10) (b := false) hf (OpVBfly.enc_bit _ _)
    exact row_complete (parseVBfly_iff f) hwf hf rfl fun h => by
      rw [decodeFields, h]
      exact if_neg (Bool.eq_false_iff.mp hb)
  case rpushRes | rpopRes =>
    have hb := bit_of_fields (n := 5) (b := true) hf (OpRing.enc_bit _ _ _)
    exact row_complete (enc := (OpRing.enc · true)) (fun o => parseRing_iff f o true hb) hwf hf rfl fun h => by
      rw [decodeFields, h]
      exact if_pos hb
  case rpush =>
    have hb := bit_of_fields (n := 5) (b := false) hf (OpRpush.enc_bit _ _)
    exact row_complete (parseRpush_iff f) hwf hf rfl fun h => by
      rw [decodeFields, h]
      exact if_neg (Bool.eq_false_iff.mp hb)
  case rpop =>
    have hb := bit_of_fields (n := 5) (b := false) hf (OpRing.enc_bit _ _ _)
    exact row_complete (enc := (OpRing.enc · false)) (fun o => parseRing_iff f o false hb) hwf hf rfl fun h => by
      rw [decodeFields, h]
      exact if_neg (Bool.eq_false_iff.mp hb)
  all_goals exact absurd hf nofun

/-- Fields decode to an instruction exactly when it is well-formed and has these fields. -/
theorem decodeFields_iff (f : Fields) (i : Instr) :
    (∃ v, decodeFields .largest f false = .ok (i, v)) ↔ i.wf = true ∧ i.fields = some f := by
  refine ⟨fun ⟨v, h⟩ => ?_, fun ⟨hwf, hf⟩ => decodeFields_complete hwf hf⟩
  have hop := op_of_row (op := f.op) rfl rfl
  unfold decodeFields at h
  generalize f.op.toNat / 16 = hi, f.op.toNat % 16 = lo at h hop
  split at h
  case h_1 => exact opRow0_sound hop h
  case h_2 => exact opRow1_sound hop h
  case h_3 => exact opRow2_sound hop h
  case h_4 => exact opRow3_sound hop h
  case h_5 => exact opRow4_sound hop h
  case h_6 => exact opRow5_sound hop h
  case h_7 => exact opRow6_sound hop h
  case h_8 => exact opRow7_sound hop h
  case h_9 => exact opRow8_sound hop h
  case h_10 => exact opRow9_sound hop h
  case h_11 => exact opRowA_sound hop h
  case h_12 => exact opRowB_sound hop h
  case h_13 => exact opRowC_sound hop h
  case h_14 => exact opRowD_sound hop h
  case h_15 => exact opRowE_sound hop h
  case h_16 => exact opRowF_sound hop h
  case h_17 => simp at h

/-! ### Words and fields -/

/-- A word holds the fields that are read from it, at the positions where they are read. -/
theorem Fields.pack_eq_iff (f : Fields) (w : IWord) : f.pack = w ↔ f = Fields.unpack w := by
  rw [Fields.eq_iff, Fields.pack]
  iterate 15 rw [append_eq_iff]
  have hbit : ∀ (b : Bool) (i : Nat), BitVec.ofBool b = w.extractLsb' i 1 ↔ b = w.getLsbD i :=
    fun b i => (b1_eq_extract b w i).trans eq_comm
  simp (disch := omega) only [extractLsb'_of_extractLsb', hbit, Fields.unpack, and_assoc, Nat.reduceAdd]

theorem decode_iff (w : IWord) (i : Instr) : decode w = some i ↔ i.wf = true ∧ encode i = some w := by
  have henc : encode i = some w ↔ i.fields = some (Fields.unpack w) := by
    simp [encode, Option.map_eq_some_iff, Fields.pack_eq_iff]
  rw [henc, ← decodeFields_iff, decode, decodeIn]
  cases decodeFields .largest (Fields.unpack w) false with
  | error e => simp [Except.toOption]
  | ok r =>
    obtain ⟨j, v⟩ := r
    simp [Except.toOption, -Bool.exists_bool]

/-- An instruction with a guard has a word: only an event row has none. -/
theorem exists_encode_of_guard (i : Instr) (h : (Machine.guardOf i).isSome = true) : ∃ w, encode i = some w := by
  revert h
  cases i <;> simp [encode, Instr.fields, Machine.guardOf]

/-- Settles O2: the decoder accepts the word of every well-formed instruction, shape by shape, and reads the
instruction back from it. -/
theorem decodeOfEncode : Obligations.DecodeOfEncode := by
  unfold Obligations.DecodeOfEncode
  intro i hwf hg
  obtain ⟨w, hw⟩ := exists_encode_of_guard i hg
  exact ⟨w, hw, (decode_iff w i).mpr ⟨hwf, hw⟩⟩

/-- Settles O3: a word that a shape's parser accepts is rebuilt from what the parser read. -/
theorem encodeOfDecode : Obligations.EncodeOfDecode := by
  unfold Obligations.EncodeOfDecode
  exact fun w i => (decode_iff w i).mp

end Sys2Proof
end

section
/-! A turn of the thread that is checked out (O4, O5, O7, O47): what its line and its words decide (02 R38, R42, R43). -/

namespace Sys2Proof.Machine

/-! ### What a turn finds -/

/-- A thread whose turn it is anew: nothing of an earlier turn is held for it. -/
def State.issuesAnew (s : State) : Prop := s.busy = true ∧ s.cur.dlPend = none ∧ s.cur.half = none

/-- No breakpoint stops the turn. -/
def State.unbroken (s : State) : Prop :=
  (if s.inTurn && s.lineReady then s.breakpoints (issuePcs s.cur) else (none, s)) = (none, s)

theorem State.unbroken_of_breakpoints {s : State} (h : s.breakpoints (issuePcs s.cur) = (none, s)) : s.unbroken := by
  unfold State.unbroken
  split
  · exact h
  · rfl

theorem State.unbroken_of_not_ready {s : State} (h : s.lineReady = false) : s.unbroken := by
  simp [State.unbroken, h]

/-- A turn goes on with what it finds. -/
theorem step_of_one {s s' : State} {i : Instr} (hs : s.issuesAnew) (hu : s.unbroken) (hf : s.find = (.one i, s')) :
    step s = issueOne exec i s'.noteIssued := by
  obtain ⟨hb, hd, hh⟩ := hs
  simp only [step, hb, if_true, State.issueNow, hd, hh]
  rw [show _ = _ from hu]
  simp only [hf]

theorem step_of_pair {s s' : State} {a b : Instr} {w : IWord} (hs : s.issuesAnew) (hu : s.unbroken)
    (hf : s.find = (.pair a b w, s')) : step s = issuePair exec a b w s'.noteIssued := by
  obtain ⟨hb, hd, hh⟩ := hs
  simp only [step, hb, if_true, State.issueNow, hd, hh]
  rw [show _ = _ from hu]
  simp only [hf]

theorem step_of_trap {s s' : State} {c : Cause} {i0 i1 : Word} (hs : s.issuesAnew) (hu : s.unbroken)
    (hf : s.find = (.trap c i0 i1, s')) : step s = .next (s'.noteSlot.takeTrap c (some i0) (some i1)).boundary := by
  obtain ⟨hb, hd, hh⟩ := hs
  simp only [step, hb, if_true, State.issueNow, hd, hh]
  rw [show _ = _ from hu]
  simp only [hf]

theorem step_of_fault {s s' : State} {k l : Nat} (hs : s.issuesAnew) (hu : s.unbroken)
    (hf : s.find = (.fault k l, s')) : step s = .next (s'.lineFault k l).boundary := by
  obtain ⟨hb, hd, hh⟩ := hs
  simp only [step, hb, if_true, State.issueNow, hd, hh]
  rw [show _ = _ from hu]
  simp only [hf]

/-! ### A slot that is no first of a pair -/

section
variable {s : State} {h : HeldLine}

theorem issuePcs_single (hl : s.cur.lineAt (lineAddr s.cur.pc) = some h)
    (h1 : lineFirst (lineWord h.bits) (bits s.cur.pc 2 0) = false) : issuePcs s.cur = [s.cur.pc] := by
  simp [issuePcs, hl, h1]

theorem find_single (hl : s.cur.lineAt (lineAddr s.cur.pc) = some h)
    (h1 : lineFirst (lineWord h.bits) (bits s.cur.pc 2 0) = false) :
    s.find = match lineCheck s.cur h [bits s.cur.pc 2 0] with
      | some f => (f, s)
      | none => (s.wordCheck h.bits (bits s.cur.pc 2 0) false, s) := by
  simp only [State.find, hl, h1]
  rfl

theorem lineReady_single (hl : s.cur.lineAt (lineAddr s.cur.pc) = some h)
    (h1 : lineFirst (lineWord h.bits) (bits s.cur.pc 2 0) = false) :
    s.lineReady = (lineCheck s.cur h [bits s.cur.pc 2 0]).isNone := by
  simp [State.lineReady, issuePcs_single hl h1, hl]

/-- A line that fails a check of 1 to 6 decides the turn: no breakpoint is met before it. -/
theorem find_of_lineCheck {f : Found} (hl : s.cur.lineAt (lineAddr s.cur.pc) = some h)
    (h1 : lineFirst (lineWord h.bits) (bits s.cur.pc 2 0) = false)
    (hc : lineCheck s.cur h [bits s.cur.pc 2 0] = some f) : s.find = (f, s) ∧ s.unbroken := by
  refine ⟨by rw [find_single hl h1, hc], State.unbroken_of_not_ready ?_⟩
  rw [lineReady_single hl h1, hc]
  rfl

/-- A line that passes leaves the turn to the word. -/
theorem find_of_wordCheck {f : Found} (hl : s.cur.lineAt (lineAddr s.cur.pc) = some h)
    (h1 : lineFirst (lineWord h.bits) (bits s.cur.pc 2 0) = false)
    (hc : lineCheck s.cur h [bits s.cur.pc 2 0] = none) (hb : s.breakpoints [s.cur.pc] = (none, s))
    (hw : s.wordCheck h.bits (bits s.cur.pc 2 0) false = f) : s.find = (f, s) ∧ s.unbroken := by
  refine ⟨by rw [find_single hl h1, hc, hw], State.unbroken_of_breakpoints ?_⟩
  rwa [issuePcs_single hl h1]

end

/-- A word that fails a check of 7 to 12 traps with its own bits and the field code. -/
theorem wordCheck_error {s : State} {l : Line} {slot : Nat} {c : Cause} {code : Nat}
    (h : s.checkWord (lineSlot l slot) = .error (c, code)) :
    s.wordCheck l slot false =
      .trap c (decodeInfo (lineSlot l slot) code).1 (decodeInfo (lineSlot l slot) code).2 := by
  simp [State.wordCheck, h]

theorem wordCheck_ok {s : State} {l : Line} {slot : Nat} {i : Instr} (h : s.checkWord (lineSlot l slot) = .ok i) :
    s.wordCheck l slot false = .one i := by
  simp [State.wordCheck, h]

/-! ### The checks of a word, in their order -/

theorem checkWord_of_illegalOpcode {s : State} {w : IWord} {e : DecErr} (h : decodeIn s.cur.win w = .error e)
    (hc : e.cause = .illegalOpcode) : s.checkWord w = .error (.illegalOpcode, e.field.toNat) := by
  obtain ⟨c, fc⟩ := e
  obtain rfl : c = .illegalOpcode := hc
  simp [State.checkWord, h]

/-- Checks 8 and 9 of a word whose opcode is assigned, and then what it decodes to. -/
theorem checkWord_of_assigned {s : State} {w : IWord}
    (h : ∀ e, decodeIn s.cur.win w = .error e → e.cause ≠ .illegalOpcode) :
    s.checkWord w = match s.featFails (Fields.unpack w) with
      | some c => .error (.featureAbsent, c)
      | none => if privFails s.cur (Fields.unpack w) then .error (.privilege, 4)
        else match decodeIn s.cur.win w with
          | .ok i => .ok i
          | .error e => .error (e.cause, e.field.toNat) := by
  unfold State.checkWord
  split
  case h_1 c he => exact absurd rfl (h _ he)
  case h_2 => rfl

theorem checkWord_ok {s : State} {w : IWord} {i : Instr} (h : decodeIn s.cur.win w = .ok i)
    (hf : s.featFails (Fields.unpack w) = none) (hp : privFails s.cur (Fields.unpack w) = false) :
    s.checkWord w = .ok i := by
  rw [checkWord_of_assigned (by simp [h]), hf, hp, h]
  rfl

/-! ### Every instruction with a guard issues under it, and every instruction answers -/

/-- An instruction of the program is some body, issued under its guard. -/
theorem exec_eq_issue {i : Instr} {g : Guard} (s : State) (h : guardOf i = some g) :
    ∃ body : M Flow, exec i s = issue g body s := by
  cases i
  all_goals cases h
  all_goals exact ⟨_, rfl⟩

/-- An event row answers. -/
theorem exec_event_next {i : Instr} (s : State) (h : guardOf i = none) : ∃ t, exec i s = .next t := by
  cases i
  all_goals cases h
  all_goals exact ⟨_, rfl⟩

/-- Every instruction and every event answers a next state. -/
theorem exec_next (i : Instr) (s : State) : ∃ t, exec i s = .next t := by
  cases h : guardOf i with
  | some g =>
    obtain ⟨body, hb⟩ := exec_eq_issue s h
    exact hb ▸ issue_next g body s
  | none => exact exec_event_next s h

/-- Settles O7: whatever its body, an instruction is issued under its guard. -/
theorem guardZeroHasNoEffect : Obligations.GuardZeroHasNoEffect := by
  unfold Obligations.GuardZeroHasNoEffect
  intro i g s hg hoff
  obtain ⟨body, hb⟩ := exec_eq_issue s hg
  have hguard : s.cur.guardOn g = false := hoff
  rw [hb, issue_off g body s hguard]

/-- Settles O4: with every check passed the turn finds the decoded instruction alone, which answers. -/
theorem stepRunsTheDecodedInstruction : Obligations.StepRunsTheDecodedInstruction := by
  unfold Obligations.StepRunsTheDecodedInstruction
  intro s h i hb hd hh hl h1 hc hdec hf hp hbp
  obtain ⟨hfind, hu⟩ := find_of_wordCheck hl h1 hc hbp (wordCheck_ok (checkWord_ok hdec hf hp))
  obtain ⟨t, ht⟩ := exec_next i s.noteIssued
  exact ⟨t, ht, by rw [step_of_one ⟨hb, hd, hh⟩ hu hfind, issueOne, ht]; rfl⟩

/-- Settles O47: a line that fails a check of 1 to 6 decides the turn, else a word that fails one of 7 to 12 does. -/
theorem checksOfATurnTrap : Obligations.ChecksOfATurnTrap := by
  unfold Obligations.ChecksOfATurnTrap
  intro s h hb hd hh hl h1 w Traps Decode
  have hs : s.issuesAnew := ⟨hb, hd, hh⟩
  have line_traps {c i0 i1} (hc : lineCheck s.cur h [bits s.cur.pc 2 0] = some (.trap c i0 i1)) : Traps c i0 i1 := by
    obtain ⟨hfind, hu⟩ := find_of_lineCheck hl h1 hc
    exact step_of_trap hs hu hfind
  refine ⟨fun k l hfault => ?_, fun hfault => ⟨fun c i0 i1 hbad => ?_, fun hbad hpar hre => ?_⟩, fun hc hbp => ?_⟩
  · obtain ⟨hfind, hu⟩ := find_of_lineCheck hl h1 (f := .fault k l) (by simp [lineCheck, hfault])
    exact step_of_fault hs hu hfind
  · exact line_traps (by simp [lineCheck, hfault, hbad])
  · have hw : (lineWord h.bits).setWidth 64 + 0x800000000 = BitVec.ofNat 64 ((lineWord h.bits).toNat + 8 * 2 ^ 32) := by
      bv_omega
    exact line_traps (by simp only [lineCheck, hfault, hbad, hpar, hre, hw]; rfl)
  · have word_traps {c code} (hw : s.checkWord w = .error (c, code)) : Decode c code := by
      obtain ⟨hfind, hu⟩ := find_of_wordCheck hl h1 hc hbp (wordCheck_error hw)
      exact step_of_trap hs hu hfind
    refine ⟨fun e he hill => word_traps (checkWord_of_illegalOpcode he hill),
      fun i hi => ⟨fun c hf => ?_, fun hf hp => ?_⟩, fun e he hne hf hp => ?_⟩
    · exact word_traps (by rw [checkWord_of_assigned (by simp [hi]), hf])
    · exact word_traps (by rw [checkWord_of_assigned (by simp [hi]), hf, hp]; rfl)
    · refine word_traps ?_
      rw [checkWord_of_assigned (by rw [he]; rintro _ ⟨⟩; exact hne), hf, hp, he]
      rfl

/-! ### A pair -/

/-- The first of a pair, its line and both words checked: the turn finds the pair. -/
theorem find_pair {s : State} {h : HeldLine} {a b : Instr} (hl : s.cur.lineAt (lineAddr s.cur.pc) = some h)
    (h1 : lineFirst (lineWord h.bits) (bits s.cur.pc 2 0) = true)
    (hc : lineCheck s.cur h [bits s.cur.pc 2 0, bits s.cur.pc 2 0 + 1] = none)
    (ha : s.checkWord (lineSlot h.bits (bits s.cur.pc 2 0)) = .ok a)
    (hb : s.checkWord (lineSlot h.bits (bits s.cur.pc 2 0 + 1)) = .ok b)
    (hp : pairOk (Fields.unpack (lineSlot h.bits (bits s.cur.pc 2 0))).op.toNat
      (Fields.unpack (lineSlot h.bits (bits s.cur.pc 2 0 + 1))).op.toNat a b = true) :
    s.find = (.pair a b (lineSlot h.bits (bits s.cur.pc 2 0 + 1)), s) := by
  simp only [State.find, hl, h1, if_true, hc, State.wordCheck, ha, hb, hp]
  rfl

/-- Where the first runs in order, the second follows in the state that it left, in the same turn. -/
theorem issueFirst_seq {ex : Runner} {a b : Instr} {w : IWord} {s s1 t u : State} (ha : ex a s1 = .next t)
    (ht : t.flow = .seq) (hb : ex b t.secondTurn = .next u) (hu : u.flow = .seq) :
    issueFirst ex a b w s s1 = .next u.boundary := by
  simp [issueFirst, andThen, ha, ht, hb, hu, Flow.reissues]

/-- A second that neither waits nor loses a bank at its trial leaves the turn to the first, with what it passed kept. -/
theorem issuePair_of_trial {ex : Runner} {a b : Instr} {w : IWord} {s s1 p : State} (hb : ex b s = .next p)
    (hp : p.flow.reissues = false)
    (h1 : if p.flow = .trapped then s1 = s else s.reserveSecond b p.cur = .ok s1) :
    issuePair ex a b w s = issueFirst ex a b w s s1 := by
  have hlost : p.flow ≠ .forfeited := by
    intro h
    simp [h, Flow.reissues] at hp
  by_cases ht : p.flow = .trapped
  · obtain rfl : s1 = s := by simpa [ht] using h1
    simp [issuePair, andThen, hb, ht, Flow.reissues]
  · simp only [if_neg ht] at h1
    simp [issuePair, andThen, hb, hlost, hp, ht, h1]

/-- Settles O5: the turn finds the pair; its trial lets the first run, and the second runs in what the first left. -/
theorem stepRunsAPairInOrder : Obligations.StepRunsAPairInOrder := by
  unfold Obligations.StepRunsAPairInOrder
  intro s h a b p s1 t u hb hd hh hl h1 hc ha hb2 hp _ hbp htrial hre hkept hfirst ht hsecond hu
  have hstep := step_of_pair ⟨hb, hd, hh⟩ (State.unbroken_of_breakpoints hbp) (find_pair hl h1 hc ha hb2 hp)
  rw [hstep, issuePair_of_trial htrial hre hkept]
  exact issueFirst_seq hfirst ht hsecond hu

end Sys2Proof.Machine
end

section
/-! What reading a source and taking a received packet do (O8): 02 R28, 03 R48, R50, 06 R133, 11 R218, R227. -/

namespace Sys2Proof.Machine

/-! ### The registers that a wake leaves as they are -/

/-- The registers of two threads are the same, and the packet that they are bound to. -/
def Thread.SameRegs (t u : Thread) : Prop :=
  u.l = t.l ∧ u.g = t.g ∧ u.sv = t.sv ∧ u.swr = t.swr ∧ u.preds = t.preds ∧ u.rxBound = t.rxBound

theorem Thread.SameRegs.refl (t : Thread) : t.SameRegs t := ⟨rfl, rfl, rfl, rfl, rfl, rfl⟩

theorem Thread.SameRegs.trans {t u v : Thread} (h1 : t.SameRegs u) (h2 : u.SameRegs v) : t.SameRegs v := by
  obtain ⟨hl, hg, hs, hw, hp, hr⟩ := h1
  obtain ⟨hl', hg', hs', hw', hp', hr'⟩ := h2
  exact ⟨hl'.trans hl, hg'.trans hg, hs'.trans hs, hw'.trans hw, hp'.trans hp, hr'.trans hr⟩

theorem State.modThread_sameRegs {f : Thread → Thread} (s : State) (tid : Nat) (h : ∀ t : Thread, t.SameRegs (f t)) :
    s.cur.SameRegs (s.modThread tid f).cur := by
  unfold State.modThread
  split
  · exact h s.cur
  · split <;> exact .refl _

theorem State.wake_sameRegs (s : State) (tid : Nat) : s.cur.SameRegs (s.wake tid).cur := by
  refine s.modThread_sameRegs tid fun t => ?_
  dsimp only
  split
  · exact .refl _
  · split
    · exact .refl _
    · split <;> exact .refl _

/-- A wake changes a thread alone. -/
@[simp] theorem State.wake_mem (s : State) (tid : Nat) : (s.wake tid).mem = s.mem := s.modThread_mem tid _
@[simp] theorem State.wake_cores (s : State) (tid : Nat) : (s.wake tid).cores = s.cores := s.modThread_cores tid _

theorem State.foldl_wake (l : List Thread) (s : State) :
    let t := l.foldl (fun u x => u.wake x.tid) s
    s.cur.SameRegs t.cur ∧ t.mem = s.mem ∧ t.cores = s.cores := by
  induction l generalizing s with
  | nil => exact ⟨.refl _, rfl, rfl⟩
  | cons x l ih =>
    obtain ⟨hr, hm, hc⟩ := ih (s.wake x.tid)
    exact ⟨(s.wake_sameRegs x.tid).trans hr, hm.trans (s.wake_mem x.tid), hc.trans (s.wake_cores x.tid)⟩

theorem State.wakeWhere_keeps (s : State) (p : Thread → Bool) :
    s.cur.SameRegs (s.wakeWhere p).cur ∧ (s.wakeWhere p).mem = s.mem ∧ (s.wakeWhere p).cores = s.cores :=
  State.foldl_wake _ s

/-! ### Packets of a core -/

@[simp] theorem State.core_modCore_same (s : State) (c : Nat) (f : Core → Core) :
    (s.modCore c f).core c = f (s.core c) := by
  simp [State.core, State.modCore, State.setCore, tabGet_tabSet_same]

/-- Each packet of a list stands in another, as far as its name, its reader and what was read of it go. -/
def PacketsFrom (l m : List Packet) : Prop :=
  ∀ q ∈ m, ∃ p ∈ l, q.id = p.id ∧ q.taken = p.taken ∧ q.bound = p.bound

theorem PacketsFrom.refl (l : List Packet) : PacketsFrom l l := fun q h => ⟨q, h, rfl, rfl, rfl⟩

/-- Moving spilled packets into their queue neither adds a packet nor reads one. -/
theorem Core.unspill_packets (x : Core) (q fuel : Nat) : PacketsFrom x.packets (x.unspill q fuel).packets := by
  induction fuel generalizing x with
  | zero => exact .refl _
  | succ j ih =>
    unfold Core.unspill
    split
    · exact .refl _
    · next id rest _ =>
      split
      · exact .refl _
      · split
        · intro r hr
          obtain ⟨p', hp', hid, htk, hbd⟩ := ih _ r hr
          obtain ⟨p, hp, rfl⟩ := List.mem_map.mp hp'
          refine ⟨p, hp, ?_⟩
          split at hid <;> split at htk <;> split at hbd <;> exact ⟨hid, htk, hbd⟩
        · exact .refl _

theorem State.drainQueue_keeps (s : State) (c q : Nat) :
    s.cur.SameRegs (s.drainQueue c q).cur ∧ (s.drainQueue c q).mem = s.mem ∧
      PacketsFrom (s.core c).packets ((s.drainQueue c q).core c).packets := by
  obtain ⟨hr, hm, hc⟩ :=
    (s.modCore c fun x => x.unspill q 64).wakeWhere_keeps fun t => t.core == c && t.waitReason == 10
  refine ⟨hr, hm, ?_⟩
  have hcore : (s.drainQueue c q).core c = (s.core c).unspill q 64 := by
    rw [State.core, State.drainQueue, State.wakeReaders, hc]
    exact s.core_modCore_same c _
  rw [hcore]
  exact Core.unspill_packets _ q 64

/-- A packet that has left its core is none of it. -/
theorem State.dropPacket_keeps (s : State) (c id : Nat) :
    s.cur.SameRegs (s.dropPacket c id).cur ∧ (s.dropPacket c id).mem = s.mem ∧
      ∀ q ∈ ((s.dropPacket c id).core c).packets, q.id ≠ id := by
  unfold State.dropPacket
  split
  · next hnone =>
    refine ⟨.refl _, rfl, fun q hq hid => ?_⟩
    have := List.find?_eq_none.mp hnone q hq
    simp [hid] at this
  · next p _ =>
    obtain ⟨hr, hm, hp⟩ := (s.modCore c fun x => { x with
      rxq := setQueue x.rxq p.queue ((x.rxq.getD p.queue []).filter (· != id))
      packets := x.packets.filter fun p' => p'.id != id }).drainQueue_keeps c p.queue
    refine ⟨hr, hm, fun q hq => ?_⟩
    obtain ⟨q', hq', hid, -, -⟩ := hp q hq
    rw [State.core_modCore_same] at hq'
    rw [hid]
    simpa using (List.mem_filter.mp hq').2

/-- The packet that a read takes is bound to the issuing thread. -/
theorem State.bindPacket_keeps (s : State) (p : Packet) :
    (s.bindPacket p).cur.rxBound = some (p.queue, p.id) ∧ (s.bindPacket p).cur.core = s.cur.core ∧
      (s.bindPacket p).cur.l = s.cur.l ∧ (s.bindPacket p).cur.g = s.cur.g ∧ (s.bindPacket p).mem = s.mem ∧
      ∀ q ∈ ((s.bindPacket p).core s.cur.core).packets, q.id = p.id → q.bound = some s.cur.tid := by
  refine ⟨rfl, rfl, rfl, rfl, rfl, fun q hq hid => ?_⟩
  have hcore : (s.bindPacket p).core s.cur.core =
      (s.modCore s.cur.core fun x => { x with
        packets := x.packets.map fun p' => if p'.id = p.id then { p' with bound := some s.cur.tid } else p' }).core
        s.cur.core := rfl
  rw [hcore, State.core_modCore_same] at hq
  obtain ⟨q', -, rfl⟩ := List.mem_map.mp hq
  split
  · rfl
  · next hne =>
    rw [if_neg hne] at hid
    exact absurd hid hne

/-- What taking a flit of a packet leaves: an unread flit keeps the binding, the closing one ends it. -/
def State.Taken (s t : State) (p : Packet) : Prop :=
  t.cur.l = s.cur.l ∧ t.cur.g = s.cur.g ∧ t.mem = s.mem ∧
    (p.taken + 1 < p.flits.length → t.cur.rxBound = some (p.queue, p.id) ∧
      ∀ q ∈ (t.core s.cur.core).packets, q.id = p.id → q.taken = p.taken + 1) ∧
    (p.flits.length ≤ p.taken + 1 → t.cur.rxBound = none ∧ ∀ q ∈ (t.core s.cur.core).packets, q.id ≠ p.id)

theorem State.consumeFlit_taken (s : State) (p : Packet) : s.Taken ((s.bindPacket p).consumeFlit p) p := by
  obtain ⟨hrx, hcore, hl, hg, hm, -⟩ := s.bindPacket_keeps p
  unfold State.consumeFlit
  split
  case isTrue hmore =>
    obtain ⟨⟨hl', hg', -, -, -, hrx'⟩, hm', hp⟩ :=
      ((s.bindPacket p).modCore (s.bindPacket p).cur.core fun x => { x with
        packets := x.packets.map fun p' =>
          if p'.id = p.id then { p' with taken := p.taken + 1 } else p' }).drainQueue_keeps
        (s.bindPacket p).cur.core p.queue
    refine ⟨hl'.trans hl, hg'.trans hg, hm'.trans hm, fun _ => ⟨hrx'.trans hrx, fun q hq hid => ?_⟩,
      fun hle => absurd hmore (by omega)⟩
    rw [hcore] at hp hq
    obtain ⟨q', hq', hid', htk, -⟩ := hp q hq
    rw [State.core_modCore_same] at hq'
    obtain ⟨q0, -, rfl⟩ := List.mem_map.mp hq'
    rw [htk]
    split
    · rfl
    · next hne =>
      rw [if_neg hne] at hid'
      exact absurd (hid'.symm.trans hid) hne
  case isFalse hlast =>
    obtain ⟨⟨hl', hg', -, -, -, hrx'⟩, hm', hp⟩ :=
      ((s.bindPacket p).updCur fun t => { t with rxBound := none }).dropPacket_keeps (s.bindPacket p).cur.core p.id
    refine ⟨hl'.trans hl, hg'.trans hg, hm'.trans hm, fun hmore => absurd hmore hlast, fun _ => ⟨hrx', fun q hq => ?_⟩⟩
    rw [hcore] at hp hq
    exact hp q hq

/-! ### Sources -/

/-- A source whose register has an error mark traps. -/
theorem readS_marked (r : SReg) (s : State) (h : s.cur.ecc.contains (s.cur.readReg r).code.toNat = true) :
    readS r s = .error (.trap .registerEcc (some ((s.cur.readReg r).code.setWidth 64)) (some 0)
      (s.countErrors s.cur.core 1)) := by
  unfold readS
  refine (bind_ok getCur _ s s s.cur rfl).trans (bind_error _ _ _ _ ?_)
  rw [eccCheck, if_pos h]

/-- A source whose register has none is read. -/
def readUnmarked (r : SReg) : M Word :=
  match r with
  | .l n => fun s => .ok (s.cur.l[n], s)
  | .g n => fun s => .ok (s.cur.g[n], s)
  | .s n => fun s => if s.cur.swr.getLsbD n.val then .ok (s.cur.sv[n], s) else readD n s
  | .d n => readD n
  | .zero => pure 0
  | .rx => readRx
  | .rxh => readRxh
  | .index => fun s => .ok (s.cur.index, s)

theorem readS_unmarked (r : SReg) (s : State) (h : s.cur.ecc.contains (s.cur.readReg r).code.toNat = false) :
    readS r s = readUnmarked r s := by
  unfold readS
  refine (bind_ok getCur _ s s s.cur rfl).trans ((bind_ok _ _ _ _ _ (eccCheck_run _ _ h)).trans ?_)
  cases r <;> rfl

theorem readD_full {n : Fin 16} {s : State} (h : s.cur.dfull.getLsbD n.val = true) : readD n s = .ok (s.cur.dv[n], s) :=
  if_pos h

theorem readD_empty {n : Fin 16} {s : State} (h : ¬ s.cur.dfull.getLsbD n.val = true) :
    readD n s = .error (.wait 3 n.val .nil) :=
  if_neg h

theorem readRxh_some {s : State} {p : Packet} (h : s.rxPacket s.cur = some p) : readRxh s =
    .ok (BitVec.ofNat 64 (p.header.toNat + 2 ^ 48 * p.flits.length + (if p.flits.any (·.2) then 2 ^ 63 else 0)),
      s.bindPacket p) := by
  simp only [readRxh, h]
  split <;> rfl

/-- A flit without a poison mark is what RX reads. -/
theorem readRx_clean {s : State} {p : Packet} {v : Word} (h : s.rxPacket s.cur = some p)
    (hv : p.flits.getD p.taken (0, false) = (v, false)) : readRx s = .ok (v, (s.bindPacket p).consumeFlit p) := by
  simp only [readRx, h, hv]

theorem readRx_poisoned {s : State} {p : Packet} {v : Word} (h : s.rxPacket s.cur = some p)
    (hv : p.flits.getD p.taken (0, false) = (v, true)) : readRx s =
    .error (.trap .poisonRead (some (BitVec.ofNat 64 (p.header.toNat + 2 ^ 48 * p.flits.length + 2 ^ 63)))
      (some (BitVec.ofNat 64 p.taken)) ((s.bindPacket p).consumeFlit p)) := by
  simp only [readRx, h, hv]

/-- Settles O8: an unmarked source is read as its form says; the receive ports bind and consume their packet. -/
theorem sourcesReadTheirRegisters : Obligations.SourcesReadTheirRegisters := by
  unfold Obligations.SourcesReadTheirRegisters
  intro s r named header
  have hnamed : named = s.cur.readReg r := by cases r <;> rfl
  refine ⟨fun hm => ?_, fun hm => ?_⟩
  · rw [hnamed] at hm ⊢
    exact readS_marked r s hm
  · rw [hnamed] at hm
    have hrun := readS_unmarked r s hm
    cases r with
    | l n => exact hrun
    | g n => exact hrun
    | zero => exact hrun
    | index => exact hrun
    | d n =>
      dsimp only
      split
      · next hf => exact hrun.trans (readD_full hf)
      · next hf => exact hrun.trans (readD_empty hf)
    | s n =>
      dsimp only
      split
      · next hw => exact hrun.trans (if_pos hw)
      · next hw =>
        have hd : readS (.s n) s = readD n s := hrun.trans (if_neg hw)
        split
        · next hf => exact hd.trans (readD_full hf)
        · next hf => exact hd.trans (readD_empty hf)
    | rx =>
      dsimp only
      split
      · next hp => exact hrun.trans (by simp only [readUnmarked, readRx, hp])
      · next p hp =>
        exact ⟨fun v hv => ⟨_, hrun.trans (readRx_clean hp hv), s.consumeFlit_taken p⟩,
          fun v hv => ⟨_, hrun.trans (readRx_poisoned hp hv), s.consumeFlit_taken p⟩⟩
    | rxh =>
      dsimp only
      split
      · next hp => exact hrun.trans (by simp only [readUnmarked, readRxh, hp])
      · next p hp =>
        obtain ⟨hrx, -, hl, hg, hmem, hbound⟩ := s.bindPacket_keeps p
        exact ⟨_, hrun.trans (readRxh_some hp), hrx, hl, hg, hmem, hbound⟩

end Sys2Proof.Machine
end

section
/-! A transfer after a read of RX (O17). `State.jumped` of the statements keeps the packets that the instruction read,
`Thread.goto` of the model forgets them. -/

namespace Sys2Proof.Machine

/-- A received packet of one flit, the address of the line after a line at 0. -/
def targetPacket : Packet :=
  ⟨0, 0, 0, 0, 0, 0, 0, [(64, false)], true, true, .entry, none, 0, none, 0, 0⟩

/-- The loaded thread on core 0, whose queue 0 holds that packet. -/
def targetReceived : State :=
  { State.reset with
    busy := true
    cur := Thread.loaded
    cores := [(0, { Core.reset with packets := [targetPacket], rxq := [[0], [], [], []] })] }

/-- BRX that takes its target from RX. -/
def branchToReceived : OpA := ⟨⟨0, false⟩, .rx⟩

/-- What the thread whose turn it is has read of packets, after an outcome. -/
def readAfter (r : Host.Outcome State Fault Refusal) : List (Packet × Bool) :=
  match r with
  | .next s => s.cur.rxRead
  | _ => []

/-- The flit is read, which the thread remembers until it has moved on. -/
theorem targetReceived_reads : Gives (readS .rx) targetReceived 64
    ((targetReceived.bindPacket targetPacket).consumeFlit targetPacket) :=
  (readS_unmarked .rx targetReceived (by decide +kernel)).trans
    (show readRx targetReceived = _ from readRx_clean (p := targetPacket) (by decide +kernel) rfl)

/-- The model's branch forgets what it read. -/
theorem branchToReceived_forgets : readAfter (exec (.brx branchToReceived) targetReceived) = [] := by
  decide +kernel

/-- Refutes O17: `BRX RX` moves on to the target that it received, and the thread's list of packets read is then empty;
the state that the statement names, `State.jumped` of the state after the read, still holds that packet. -/
theorem not_transfersReachTheirTargets : ¬ Obligations.TransfersReachTheirTargets := by
  unfold Obligations.TransfersReachTheirTargets
  rintro ⟨-, -, -, hbrx, -⟩
  have hexec := hbrx branchToReceived targetReceived _ 64 (by decide +kernel) targetReceived_reads
  rw [if_neg (by decide +kernel), if_pos (by decide +kernel)] at hexec
  have hread := congrArg readAfter hexec
  rw [branchToReceived_forgets] at hread
  exact absurd hread (by decide +kernel)

end Sys2Proof.Machine
end

section
/-! What writing a destination does (O9): 02 R28, 03 R49, 05 R111, 11 R214, R215. -/

namespace Sys2Proof.Machine

/-! ### A linked value changes memory in the frame of the member that it reaches alone -/

@[simp] theorem State.writeAs_cur (l : List Word) (s : State) (mid k : Nat) : (s.writeAs mid k l).cur = s.cur := by
  induction l generalizing s k with
  | nil => rfl
  | cons w r ih =>
    rw [State.writeAs, ih]
    split
    · unfold State.useBanks
      split <;> rfl
    · rfl

/-- Bytes and tags outside a word that a master writes stay. -/
theorem State.writeAs_one_outside (s : State) (mid k i : Nat) (w : Word) (h : i < k ∨ k + 8 ≤ i) :
    (s.writeAs mid k [w]).mem.byte i = s.mem.byte i ∧ (s.writeAs mid k [w]).mem.tag i = s.mem.tag i := by
  rw [State.writeAs, State.writeAs]
  split
  · exact ⟨Memory.byte_setWord_outside _ _ _ _ _ h, Memory.tag_setWord_other _ _ _ _ _ (by omega)⟩
  · exact ⟨rfl, rfl⟩

/-- A filled frame changes at the keys of the value and of DFULL alone. -/
theorem State.fillFrame_keeps (s : State) (t : Thread) (n : Fin 16) (v : Word) :
    (s.fillFrame t n v).cur = s.cur ∧ ∀ k, (∀ a ∈ t.fillKeys n, k < a ∨ a + 8 ≤ k) →
      (s.fillFrame t n v).mem.byte k = s.mem.byte k ∧ (s.fillFrame t n v).mem.tag k = s.mem.tag k := by
  unfold State.fillFrame Thread.fillKeys
  split
  · exact ⟨rfl, fun _ _ => ⟨rfl, rfl⟩⟩
  · next f hframe =>
    split
    · next hlife =>
      refine ⟨by simp, fun k hk => ?_⟩
      simp only [hframe, if_pos (show t.life = .saved ∨ t.life = .adopting by simpa using hlife)] at hk
      obtain ⟨hb, ht⟩ := State.writeAs_one_outside
        (s.writeAs (clusterMaster t.core) (f.key + 8 * (40 + t.win.l + t.win.g + t.win.s + n.val)) [v])
        (clusterMaster t.core) (f.key + 8) k (setBit (s.mem.word (f.key + 8)) (8 + n.val) true) (hk _ (by simp))
      obtain ⟨hb', ht'⟩ := State.writeAs_one_outside s (clusterMaster t.core)
        (f.key + 8 * (40 + t.win.l + t.win.g + t.win.s + n.val)) k v (hk _ (by simp))
      exact ⟨hb.trans hb', ht.trans ht'⟩
    · exact ⟨rfl, fun _ _ => ⟨rfl, rfl⟩⟩

/-- Dn of a thread fills: shared registers, window and predicates stay, and memory but for the thread's frame. -/
theorem State.fillD_keeps (s : State) (t : Thread) (n : Fin 16) (v : Word) :
    s.cur.SameRegs (s.fillD t n v).cur ∧ ∀ k, (∀ a ∈ t.fillKeys n, k < a ∨ a + 8 ≤ k) →
      (s.fillD t n v).mem.byte k = s.mem.byte k ∧ (s.fillD t n v).mem.tag k = s.mem.tag k := by
  obtain ⟨hcur, hmem⟩ := s.fillFrame_keeps t n v
  have hregs := (s.fillFrame t n v).modThread_sameRegs t.tid (f := fun x => { x with
    ecc := x.ecc.erase (0x60 + n.val), dv := x.dv.set n.val v, dfull := x.dfull ||| (1#16 <<< n.val) }) fun x => .refl _
  rw [hcur] at hregs
  unfold State.fillD
  dsimp only
  split
  · refine ⟨hregs.trans (State.wake_sameRegs _ _), fun k hk => ?_⟩
    rw [State.wake_mem, State.modThread_mem]
    exact hmem k hk
  · refine ⟨hregs, fun k hk => ?_⟩
    rw [State.modThread_mem]
    exact hmem k hk

theorem State.modFam_keeps (s : State) (f : Nat) (g : Fam → Fam) : (s.modFam f g).cur = s.cur ∧
    (s.modFam f g).mem = s.mem ∧ (s.modFam f g).allThreads = s.allThreads := by
  unfold State.modFam
  split <;> exact ⟨rfl, rfl, rfl⟩

theorem MemKept.refl (s : State) (n? : Option (Fin 16)) : MemKept s s n? := fun _ _ => ⟨rfl, rfl⟩

/-- Memory is kept from any state with the same memory whose threads have the same frames. -/
theorem MemKept.of_frames {s s' t : State} {n? : Option (Fin 16)} (hm : s'.mem = s.mem)
    (hf : ∀ u ∈ s'.allThreads, ∃ u' ∈ s.allThreads, u.fillKeys = u'.fillKeys) (h : MemKept s' t n?) :
    MemKept s t n? := by
  intro k hk
  rw [← hm]
  refine h k fun n hn u hu a ha => ?_
  obtain ⟨u', hu', he⟩ := hf u hu
  exact hk n hn u' hu' a (he ▸ ha)

theorem MemKept.of_same {s s' t : State} {n? : Option (Fin 16)} (hm : s'.mem = s.mem)
    (ha : s'.allThreads = s.allThreads) (h : MemKept s' t n?) : MemKept s t n? :=
  h.of_frames hm fun u hu => ⟨u, ha ▸ hu, rfl⟩

/-- What sending a linked value does: nothing, a change of its family, the fill of a member's Dn, a message, a value
kept at the core of a member to come, or the same again for the member after one that has ended. -/
theorem State.sendLinked_inv {s t : State} {fuel f k : Nat} {n : Fin 16} {v : Word} {c : Nat} {must : Bool}
    (h : s.sendLinked fuel f k n v c must = some t) :
    t = s ∨ (∃ g, t = s.modFam f g) ∨ (∃ u ∈ s.allThreads, t = s.fillD u n v) ∨ t = s.sendLink f (k + 1) n v c ∨
      (∃ g, t = s.modCore c g) ∨
      ∃ j g, fuel = j + 1 ∧ (s.modFam f g).sendLinked j f (k + 1) n v c must = some t := by
  unfold State.sendLinked at h
  split at h
  · exact .inl (Option.some.inj h).symm
  · next x _ =>
    split at h
    · exact .inl (Option.some.inj h).symm
    split at h
    · exact .inr (.inl ⟨_, (Option.some.inj h).symm⟩)
    split at h
    · next u hu =>
      split at h
      · exact .inr (.inr (.inl ⟨u, List.mem_of_find?_eq_some hu, (Option.some.inj h).symm⟩))
      · exact .inr (.inr (.inr (.inl (Option.some.inj h).symm)))
    split at h
    · split at h
      · split at h
        · exact .inl (Option.some.inj h).symm
        · exact .inr (.inr (.inr (.inr (.inr ⟨_, _, rfl, h⟩))))
      · exact .inl (Option.some.inj h).symm
    split at h
    · split at h
      · exact .inr (.inr (.inr (.inr (.inl ⟨_, (Option.some.inj h).symm⟩))))
      · exact .inr (.inr (.inr (.inl (Option.some.inj h).symm)))
    · cases h

/-- A linked value on its way leaves the registers of the issuing thread, and memory outside the frame of the saved
member that it reaches. -/
theorem State.sendLinked_keeps {s t : State} {fuel f k : Nat} {n : Fin 16} {v : Word} {c : Nat} {must : Bool}
    (h : s.sendLinked fuel f k n v c must = some t) : s.cur.SameRegs t.cur ∧ MemKept s t (some n) := by
  induction fuel using Nat.strongRecOn generalizing s k with
  | ind fuel ih =>
    obtain rfl | ⟨g, rfl⟩ | ⟨u, hu, rfl⟩ | rfl | ⟨g, rfl⟩ | ⟨j, g, rfl, hrest⟩ := State.sendLinked_inv h
    · exact ⟨.refl _, .refl _ _⟩
    · obtain ⟨hc, hm, -⟩ := s.modFam_keeps f g
      exact ⟨hc ▸ .refl _, fun k _ => by rw [hm]; exact ⟨rfl, rfl⟩⟩
    · obtain ⟨hr, hm⟩ := s.fillD_keeps u n v
      exact ⟨hr, fun k hk => hm k (hk n rfl u hu)⟩
    · exact ⟨.refl _, fun _ _ => ⟨rfl, rfl⟩⟩
    · exact ⟨.refl _, fun _ _ => ⟨rfl, rfl⟩⟩
    · obtain ⟨hc, hm, ha⟩ := s.modFam_keeps f g
      obtain ⟨hr, hk⟩ := ih j (Nat.lt_succ_self j) hrest
      exact ⟨hc ▸ hr, hk.of_same hm ha⟩

/-! ### Shared registers -/

/-- Sn holds the value and is marked written. -/
def Thread.withShared (t : Thread) (n : Fin 16) (v : Word) : Thread :=
  { t with sv := t.sv.set n.val v, ecc := t.ecc.erase (0x50 + n.val), swr := t.swr ||| (1#16 <<< n.val) }

theorem Thread.withShared_same (t : Thread) (n : Fin 16) (v : Word) :
    (t.withShared n v).sv[n] = v ∧ (t.withShared n v).swr.getLsbD n.val = true := by
  refine ⟨Vector.getElem_set_self _, ?_⟩
  simp [Thread.withShared]

theorem Thread.withShared_other (t : Thread) (n m : Fin 16) (v : Word) (h : m ≠ n) :
    (t.withShared n v).sv[m] = t.sv[m] ∧ (t.withShared n v).swr.getLsbD m.val = t.swr.getLsbD m.val := by
  have hne : n.val ≠ m.val := fun he => h (Fin.ext he.symm)
  refine ⟨Vector.getElem_set_ne n.isLt m.isLt hne, ?_⟩
  simp [Thread.withShared]
  omega

/-- A write of Sn that is no second one keeps the value in the register and sends it. -/
theorem writeD_s_inv {n : Fin 16} {v : Word} {s t : State} {fl : Flow} (h : writeD (.s n) v s = .ok (fl, t)) :
    fl = .seq ∧ ∃ fuel f k c, (s.updCur fun t => t.withShared n v).sendLinked fuel f k n v c false = some t := by
  unfold writeD at h
  obtain ⟨_, s1, hcheck, hA⟩ := bind_inv _ _ _ _ _ h
  obtain ⟨_, s2, hport, hB⟩ := bind_inv _ _ _ _ _ hA
  obtain rfl := checkDst_keeps _ _ _ hcheck
  obtain rfl := portCheck_keeps _ _ _ hport
  dsimp only [writeShared] at hB
  split at hB
  · next hsend =>
    cases hB
    exact ⟨rfl, _, _, _, _, hsend⟩
  · cases hB

theorem MemKept.of_withShared {s t : State} {n : Fin 16} {v : Word} {n? : Option (Fin 16)}
    (h : MemKept (s.updCur fun t => t.withShared n v) t n?) : MemKept s t n? := by
  refine MemKept.of_frames (s' := s.updCur fun t => t.withShared n v) rfl (fun u hu => ?_) h
  unfold State.allThreads at hu ⊢
  rcases List.mem_append.mp hu with hc | ht
  · rw [State.updCur_busy] at hc
    split at hc
    · next hb => exact ⟨s.cur, by simp [hb], by rw [List.mem_singleton.mp hc]; rfl⟩
    · simp at hc
  · exact ⟨u, List.mem_append_right _ ht, rfl⟩

/-! ### Send ports -/

theorem clusterOf_lcoreCore (v : Word) : clusterOf (lcoreCore v) = bits v 12 11 * 12 + bits v 10 7 := by
  have hlow : bits v 6 0 < 128 := Nat.mod_lt _ (by decide)
  unfold clusterOf lcoreCore coreNo
  omega

/-- A header that opens no packet: a reserved bit is set, or it names no enabled core of the domain (11 R214). -/
def State.BadHeader (s : State) (v : Word) : Prop :=
  bits v 31 27 ≠ 0 ∨ bits v 63 48 ≠ 0 ∨ 12 ≤ bits v 10 7 ∨ s.npkg ≤ bits v 24 13 ∨
    s.countIn (bits v 24 13) (bits v 12 11 * 12 + bits v 10 7) ≤ bits v 6 0

theorem writeTxh_bad {v : Word} {s : State} (h : s.BadHeader v) :
    writeTxh v s = .error (.trap .access (some v) (some 1) s) := by
  unfold State.BadHeader at h
  simp only [writeTxh, sendCore, clusterOf_lcoreCore, sendReserved]
  rw [if_neg]
  simp
  omega

theorem writeTxh_good {v : Word} {s : State} (h : ¬ s.BadHeader v) :
    writeTxh v s = .ok (.seq, s.updCur fun t => { t with packet := some ⟨v, []⟩ }) := by
  unfold State.BadHeader at h
  simp only [writeTxh, sendCore, clusterOf_lcoreCore, sendReserved]
  rw [if_pos]
  simp
  omega

/-- A port that may not be written traps before anything leaves. -/
theorem writeD_barred {d : Dst} {v : Word} {s : State} {e : Stop} (hc : checkDst d s = .ok ((), s))
    (hp : portCheck d s = .error e) : writeD d v s = .error e :=
  (bind_ok _ _ _ _ _ hc).trans (bind_error _ _ _ _ hp)

theorem portCheck_txh {s : State} (h : s.cur.packet = none) : portCheck .txh s = .ok ((), s) := by
  simp [portCheck, h]

theorem portCheck_tx {s : State} {p : OpenPkt} (h : s.cur.packet = some p) (hroom : p.sent.length < 31) :
    portCheck .tx s = .ok ((), s) := by
  simp [portCheck, h]
  omega

/-- A write of TXH outside a packet is judged by its header. -/
theorem writeD_txh {v : Word} {s : State} (h : s.cur.packet = none) : writeD .txh v s = writeTxh v s :=
  (bind_ok _ _ _ _ _ rfl).trans (bind_ok _ _ _ _ _ (portCheck_txh h))

/-- A write of TX within a packet that has room sends the flit where the channel lets it. -/
theorem writeD_tx {v : Word} {s : State} {p : OpenPkt} (h : s.cur.packet = some p) (hroom : p.sent.length < 31)
    (hfree : channelFree .messages s = .ok ((), s)) : writeD .tx v s = .ok (.seq, s.sendFlit p v false) := by
  refine (bind_ok _ _ _ _ _ rfl).trans
    ((bind_ok _ _ _ _ _ (portCheck_tx h hroom)).trans ((bind_ok _ _ _ _ _ hfree).trans ?_))
  rw [bind_ok _ _ _ _ _ (modS_run _ s), h]
  rfl

theorem portCheck_txe {s : State} {p : OpenPkt} (h : s.cur.packet = some p) : portCheck .txe s = .ok ((), s) := by
  simp [portCheck, h]

/-- A write of TXE closes the packet where the channel lets it, and its thread waits until it is accepted. -/
theorem writeD_txe {v : Word} {s : State} {p : OpenPkt} (h : s.cur.packet = some p)
    (hfree : channelFree .messages s = .ok ((), s)) :
    writeD .txe v s = .ok (.held, (s.sendFlit p v true).updCur fun t =>
      { t with life := .waiting, wait := some ⟨11, some .txe, false, 0⟩ }) := by
  refine (bind_ok _ _ _ _ _ rfl).trans
    ((bind_ok _ _ _ _ _ (portCheck_txe h)).trans ((bind_ok _ _ _ _ _ hfree).trans ?_))
  rw [bind_ok _ _ _ _ _ (modS_run _ s), h]
  rfl

/-- Where the channel is stopped the instruction leaves its slot. -/
theorem writeD_txe_stopped {v : Word} {s : State} {p : OpenPkt} (h : s.cur.packet = some p)
    (hstop : channelFree .messages s = .error (.wait 11 Chan.messages.bit .nil)) :
    writeD .txe v s = .error (.wait 11 Chan.messages.bit .nil) :=
  (bind_ok _ _ _ _ _ rfl).trans ((bind_ok _ _ _ _ _ (portCheck_txe h)).trans (bind_error _ _ _ _ hstop))

/-! ### The three parts of O9 -/

theorem writeD_window (s : State) (v : Word) (n : Fin 64) : ∃ t, Gives (writeD (.l n) v) s .seq t ∧ t.cur.l[n] = v ∧
    (∀ m : Fin 64, m ≠ n → t.cur.l[m] = s.cur.l[m]) ∧
    { t with cur := { t.cur with l := s.cur.l, ecc := s.cur.ecc } } = s := by
  refine ⟨_, writeD_l n v s, Vector.getElem_set_self _, fun m hm => ?_, rfl⟩
  exact Vector.getElem_set_ne n.isLt m.isLt fun he => hm (Fin.ext he.symm)

theorem writeD_shared {s t : State} {n : Fin 16} {v : Word} {fl : Flow} (h : Gives (writeD (.s n) v) s fl t) :
    fl = .seq ∧ t.cur.sv[n] = v ∧ t.cur.swr.getLsbD n.val = true ∧
      (∀ m : Fin 16, m ≠ n → t.cur.sv[m] = s.cur.sv[m] ∧ t.cur.swr.getLsbD m.val = s.cur.swr.getLsbD m.val) ∧
      t.cur.l = s.cur.l ∧ t.cur.preds = s.cur.preds ∧ MemKept s t (some n) := by
  obtain ⟨hfl, _, _, _, _, hsend⟩ := writeD_s_inv h
  obtain ⟨⟨hl, -, hsv, hswr, hp, -⟩, hmem⟩ := State.sendLinked_keeps hsend
  obtain ⟨hsame, hmark⟩ := s.cur.withShared_same n v
  rw [hsv, hswr]
  exact ⟨hfl, hsame, hmark, fun m hm => s.cur.withShared_other n m v hm, hl, hp, hmem.of_withShared⟩

/-- Settles O9: a write of the window is an update, a write of Sn sends a linked value, and the ports follow the state
of the packet and of the channel. -/
theorem destinationsAreWritten : Obligations.DestinationsAreWritten := by
  unfold Obligations.DestinationsAreWritten
  refine ⟨fun s v => ⟨writeD_window s v, writeD_zero v s⟩,
    fun s n v => ⟨fun hw => if_pos hw, fun fl t h => writeD_shared h⟩,
    fun s v => ⟨fun hopen => ?_, fun hnone => ⟨?_, ?_⟩, fun p hp hfull => ?_,
      fun hnone => ⟨fun hbad => ?_, fun hgood => ?_⟩, fun p hp hroom hfree => writeD_tx hp hroom hfree,
      fun p hp hfree => writeD_txe hp hfree, fun p hp hhalf hstop => ?_⟩⟩
  · obtain ⟨p, hp⟩ := Option.isSome_iff_exists.mp hopen
    exact writeD_barred rfl (by simp [portCheck, hp])
  · exact writeD_barred rfl (by simp [portCheck, hnone])
  · exact writeD_barred rfl (by simp [portCheck, hnone])
  · exact writeD_barred rfl (by simp [portCheck, hp, hfull])
  · exact (writeD_txh hnone).trans (writeTxh_bad hbad)
  · exact (writeD_txh hnone).trans (writeTxh_good hgood)
  · exact writeD_txe_stopped hp (by simp [channelFree, hhalf, hstop])

end Sys2Proof.Machine
end

section
/-! What a step can be, and that each is answered (O6): 02 R38, 03 R58, log 4. -/

namespace Sys2Proof.Machine

/-! ### Every way of going on answers a next state -/

/-- The outcome is a next state. -/
def Answers (o : Host.Outcome State Fault Refusal) : Prop := ∃ t, o = .next t

theorem Answers.next (t : State) : Answers (.next t) := ⟨t, rfl⟩

theorem exec_answers (i : Instr) (s : State) : Answers (exec i s) := exec_next i s

theorem Answers.andThen {o : Host.Outcome State Fault Refusal} {f : State → Host.Outcome State Fault Refusal}
    (ho : Answers o) (hf : ∀ t, Answers (f t)) : Answers (andThen o f) := by
  obtain ⟨t, rfl⟩ := ho
  exact hf t

theorem issueOne_answers (i : Instr) (s : State) : Answers (issueOne exec i s) :=
  (exec_answers i s).andThen fun t => .next t.boundary

theorem issueSecond_answers (b : Instr) (w : IWord) (s : State) : Answers (issueSecond exec b w s) := by
  refine (exec_answers b _).andThen fun t => ?_
  split <;> exact .next _

theorem issueHalf_answers (w : IWord) (s : State) : Answers (issueHalf exec w s) := by
  unfold issueHalf
  split
  · exact issueSecond_answers _ w s
  · exact .next _

theorem issueFirst_answers (a b : Instr) (w : IWord) (s s1 : State) : Answers (issueFirst exec a b w s s1) := by
  have again : Answers (andThen (exec a s) fun t => .next t.boundary) :=
    (exec_answers a s).andThen fun t => .next t.boundary
  refine (exec_answers a s1).andThen fun t => ?_
  split
  · refine (exec_answers b _).andThen fun u => ?_
    split
    · exact .next _
    · split
      · exact .next _
      · split <;> exact .next _
  · exact .next _
  · split
    · exact .next _
    · exact again
  · exact .next _
  · exact again

theorem issuePair_answers (a b : Instr) (w : IWord) (s : State) : Answers (issuePair exec a b w s) := by
  refine (exec_answers b s).andThen fun p => ?_
  split
  · exact .next _
  · split
    · exact .next _
    · split
      · exact issueFirst_answers a b w s s
      · split
        · exact .next _
        · exact issueFirst_answers a b w s _

theorem issueAgain_answers (s : State) : Answers (issueAgain exec s) := by
  unfold issueAgain
  split
  · exact issueFirst_answers _ _ _ _ _
  · exact .next _

theorem issueNow_answers (s : State) : Answers (s.issueNow exec) := by
  unfold State.issueNow
  split
  · exact .next _
  · split
    · exact issueHalf_answers _ s
    · exact issueAgain_answers s
  · split
    · exact .next _
    · split
      · exact .next _
      · exact .next _
      · exact .next _
      · exact .next _
      · exact issueOne_answers _ _
      · exact issuePair_answers _ _ _ _

/-! ### The three kinds of step -/

theorem step_busy {s : State} (h : s.busy = true) : step s = s.issueNow exec := by
  simp only [step, h, if_true]

theorem step_due {s : State} {t : Thread} (hb : s.busy = false) (hd : s.dueThread = some t) :
    step s = (s.checkOut t false).issueNow exec := by
  simp [step, hb, hd]

theorem step_event {s : State} (hb : s.busy = false) (hd : s.dueThread = none) :
    step s = if isEvent s.takeEvent.1 then exec s.takeEvent.1 s.takeEvent.2 else .next s.takeEvent.2 := by
  simp only [step, hb, hd]
  rfl

theorem step_answers (s : State) : Answers (step s) := by
  cases hb : s.busy with
  | true => exact step_busy hb ▸ issueNow_answers s
  | false =>
    cases hd : s.dueThread with
    | some t => exact step_due hb hd ▸ issueNow_answers _
    | none =>
      rw [step_event hb hd]
      split
      · exact exec_answers _ _
      · exact .next _

/-- A thread that is due holds its instruction, and its wait is over. -/
theorem dueThread_inv {s : State} {t : Thread} (h : s.dueThread = some t) :
    t.life = .waiting ∧ t.holds = true ∧ t.wait = none := by
  obtain ⟨⟨k, u⟩, hfind, rfl⟩ := Option.map_eq_some_iff.mp h
  have hprop := List.find?_some hfind
  simpa [and_assoc] using hprop

/-- An instruction without a guard is an event row. -/
theorem isEvent_of_guardOf {i : Instr} (h : guardOf i = none) : isEvent i = true := by
  cases i
  all_goals cases h
  all_goals rfl

/-- Settles O6: a step is one of three kinds, and each goes on by instructions and events, which answer. -/
theorem stepsRunTheAgendaAndAlwaysAnswer : Obligations.StepsRunTheAgendaAndAlwaysAnswer := by
  unfold Obligations.StepsRunTheAgendaAndAlwaysAnswer
  refine ⟨fun s t hb hd => ?_, fun s i r hb hd ha hi => ?_, step_answers⟩
  · obtain ⟨hlife, hholds, hwait⟩ := dueThread_inv hd
    exact ⟨hlife, hholds, hwait, (step_due hb hd).trans (step_busy rfl).symm⟩
  · have htake : s.takeEvent = (i, { s with agenda := r }) := by simp only [State.takeEvent, ha]
    rw [step_event hb hd, htake, if_pos (isEvent_of_guardOf hi)]

end Sys2Proof.Machine
end

section
/-! How a trap is delivered (O18, O19): 03 R57 to R60, R62. -/

namespace Sys2Proof.Machine

/-! ### Fields of a word -/

theorem testBit_bits (w : Word) (hi lo i : Nat) :
    (bits w hi lo).testBit i = (decide (i < hi + 1 - lo) && w.getLsbD (lo + i)) := by
  rw [bits, Nat.testBit_mod_two_pow, Nat.testBit_div_two_pow, Nat.add_comm lo i]
  rfl

theorem getLsbD_setBits {w : Word} {hi lo v i : Nat} (hlo : lo ≤ hi) (hi64 : i < 64) :
    (setBits w hi lo v).getLsbD i = if lo ≤ i ∧ i ≤ hi then v.testBit (i - lo) else w.getLsbD i := by
  have hlow : w.toNat % 2 ^ lo < 2 ^ lo := Nat.mod_lt _ (Nat.two_pow_pos lo)
  have hfield : v % 2 ^ (hi + 1 - lo) < 2 ^ (hi + 1 - lo) := Nat.mod_lt _ (Nat.two_pow_pos _)
  have hval : w.toNat - bits w hi lo * 2 ^ lo + v % 2 ^ (hi + 1 - lo) * 2 ^ lo =
      2 ^ lo * (2 ^ (hi + 1 - lo) * (w.toNat / 2 ^ lo / 2 ^ (hi + 1 - lo)) + v % 2 ^ (hi + 1 - lo)) +
        w.toNat % 2 ^ lo := by
    have hw := Nat.div_add_mod w.toNat (2 ^ lo)
    have hq := Nat.div_add_mod (w.toNat / 2 ^ lo) (2 ^ (hi + 1 - lo))
    have hw' : w.toNat = 2 ^ lo * (2 ^ (hi + 1 - lo) * (w.toNat / 2 ^ lo / 2 ^ (hi + 1 - lo))) +
        bits w hi lo * 2 ^ lo + w.toNat % 2 ^ lo := by
      rw [Nat.mul_comm (bits w hi lo), ← Nat.mul_add, bits, hq, hw]
    rw [Nat.mul_add, Nat.mul_comm (2 ^ lo) (v % _)]
    omega
  rw [setBits, BitVec.getLsbD_ofNat, hval, Nat.testBit_two_pow_mul_add _ hlow,
    Nat.testBit_two_pow_mul_add _ hfield, Nat.testBit_mod_two_pow, Nat.testBit_mod_two_pow, Nat.testBit_div_two_pow,
    Nat.testBit_div_two_pow]
  by_cases h1 : i < lo
  · have h2 : ¬ (lo ≤ i ∧ i ≤ hi) := by omega
    simp [h1, h2, hi64, BitVec.getLsbD]
  · by_cases h2 : i ≤ hi
    · have h3 : i - lo < hi + 1 - lo := by omega
      have h4 : lo ≤ i ∧ i ≤ hi := by omega
      simp [h1, h3, h4, hi64]
    · have h3 : ¬ i - lo < hi + 1 - lo := by omega
      have h4 : i - lo - (hi + 1 - lo) + (hi + 1 - lo) + lo = i := by omega
      simp [h1, h2, h3, h4, hi64, BitVec.getLsbD]

theorem getLsbD_setBit {w : Word} {n i : Nat} {b : Bool} (hi64 : i < 64) :
    (setBit w n b).getLsbD i = if i = n then b else w.getLsbD i := by
  rw [setBit, getLsbD_setBits (Nat.le_refl n) hi64]
  by_cases h : i = n
  · subst h
    cases b <;> simp
  · have hne : ¬ (n ≤ i ∧ i ≤ n) := by omega
    simp [h, hne]

theorem setBit_true {w : Word} {n : Nat} (h : n < 64) : setBit w n true = w ||| 1#64 <<< n := by
  ext i hi
  rw [← BitVec.getLsbD_eq_getElem, ← BitVec.getLsbD_eq_getElem, getLsbD_setBit hi]
  by_cases hin : i = n
  · simp [hin, h]
  · simp [hin]
    omega

/-- A field is what its bits are. -/
theorem bits_congr {v w : Word} {hi lo : Nat} (h : ∀ i, lo ≤ i → i ≤ hi → v.getLsbD i = w.getLsbD i) :
    bits v hi lo = bits w hi lo := by
  refine Nat.eq_of_testBit_eq fun i => ?_
  rw [testBit_bits, testBit_bits]
  by_cases hi' : i < hi + 1 - lo
  · rw [h (lo + i) (by omega) (by omega)]
  · simp [hi']

theorem bits_lt (w : Word) (hi lo : Nat) : bits w hi lo < 2 ^ (hi + 1 - lo) := Nat.mod_lt _ (Nat.two_pow_pos _)

theorem bits_setBits {w : Word} {hi lo v : Nat} (hlo : lo ≤ hi) (h64 : hi < 64) (hv : v < 2 ^ (hi + 1 - lo)) :
    bits (setBits w hi lo v) hi lo = v := by
  refine Nat.eq_of_testBit_eq fun i => ?_
  rw [testBit_bits]
  by_cases hi' : i < hi + 1 - lo
  · have hin : lo ≤ lo + i ∧ lo + i ≤ hi := by omega
    rw [getLsbD_setBits hlo (by omega)]
    simp [hi', hin]
  · rw [Nat.testBit_lt_two_pow (Nat.lt_of_lt_of_le hv (Nat.pow_le_pow_right (by decide) (Nat.le_of_not_lt hi')))]
    simp [hi']

/-- A field apart from the one that is replaced. -/
theorem bits_setBits_apart {w : Word} {hi lo v hi' lo' : Nat} (hlo : lo ≤ hi) (h64 : hi' < 64)
    (h : hi' < lo ∨ hi < lo') : bits (setBits w hi lo v) hi' lo' = bits w hi' lo' := by
  refine bits_congr fun i h1 h2 => ?_
  rw [getLsbD_setBits hlo (by omega), if_neg (by omega)]

theorem bits_setBit_apart {w : Word} {n : Nat} {b : Bool} {hi lo : Nat} (h64 : hi < 64) (h : hi < n ∨ n < lo) :
    bits (setBit w n b) hi lo = bits w hi lo := bits_setBits_apart (Nat.le_refl n) h64 h

/-! ### Delivery -/

/-- With both words stated, the issuing thread takes the trap at its PC. -/
theorem takeTrap_stated (s : State) (c : Cause) (i0 i1 : Word) :
    s.takeTrap c (some i0) (some i1) = { s.deliverTrap c s.cur.pc i0 i1 with flow := .trapped } := rfl

theorem takeTrap_cur (s : State) (c : Cause) (i0 i1 : Word) :
    (s.takeTrap c (some i0) (some i1)).cur = (s.deliverTrap c s.cur.pc i0 i1).cur := rfl

/-- The thread that enters the user handler (03 R58). -/
def Thread.toUser (t : Thread) (r : Bank) : Thread :=
  { t with ubank := r, ugrant := t.grantNow, status := setBit t.status 4 true }.goto t.thand (some 0xFFFFFFFFFFFFFFFE)

/-- STATUS in the kernel handler: PPL takes PL, KINH and PL become 1 (03 R58). -/
def kernelStatus (w : Word) : Word := setBits (setBit (setBits w 3 2 (bits w 1 0)) 5 true) 1 0 1

/-- The thread that enters the kernel handler at `v` (03 R58). -/
def Thread.toKernel (t : Thread) (r : Bank) (v : Word) : Thread :=
  { t with kbank := r, kgrant := t.grantNow, status := kernelStatus t.status }.goto v (some 0xFFFFFFFFFFFFFFFE)

theorem deliverTrap_delegated {s : State} {c : Cause} (h : Delegated s c) (pc i0 i1 : Word) :
    s.deliverTrap c pc i0 i1 = s.updCur fun t => t.toUser ⟨causeWord s c, pc, i0, i1⟩ := by
  obtain ⟨hc, hm, hpl, hinh, hthand, hform⟩ := h
  have hpl' : s.cur.pl = 0 := hpl
  have hthand' : (s.cur.thand != 0) = true := bne_iff_ne.mpr hthand
  simp only [State.deliverTrap, hc, hm, hpl', hinh, hthand', hform]
  rfl

theorem deliverTrap_kernel {s : State} {c : Cause} (h : ToKernel s c) (pc i0 i1 : Word) :
    s.deliverTrap c pc i0 i1 = s.deliverToKernel c pc i0 i1 := by
  unfold State.deliverTrap
  rw [if_neg]
  unfold ToKernel at h
  simp only [Bool.and_eq_true, beq_iff_eq, bne_iff_ne, Thread.pl, Bool.not_eq_true']
  rintro ⟨⟨⟨⟨hc, hm⟩, hpl⟩, hinh⟩, hthand⟩
  simp only [hc, hm, hpl, hinh, ne_eq, not_true_eq_false, Bool.true_eq_false, Bool.false_eq_true, false_or] at h
  exact hthand h

theorem deliverToKernel_ready {s : State} {c : Cause} (h : KernelReady s) (hc : c ≠ .registerEcc) (pc i0 i1 : Word) :
    s.deliverToKernel c pc i0 i1 =
      s.updCur fun t => t.toKernel ⟨causeWord s c, pc, i0, i1⟩ (s.mem.word s.vectorKey) := by
  obtain ⟨hkinh, htag, hform⟩ := h
  have hkey : (Loc.sp s.cur.core 0x3C000).key = s.vectorKey := rfl
  simp only [State.deliverToKernel, hkinh, Bool.false_eq_true, if_false, hkey, if_neg hc, State.updCur_mem, htag, hform]
  rfl

theorem deliverToKernel_within {s : State} {c : Cause} (h : s.cur.status.getLsbD 5 = true) (pc i0 i1 : Word) :
    s.deliverToKernel c pc i0 i1 = s.haltThread c pc := by
  simp [State.deliverToKernel, h]

/-! ### Entering a handler (O18) -/

theorem kernelStatus_fields (w : Word) : bits (kernelStatus w) 3 2 = bits w 1 0 ∧ (kernelStatus w).getLsbD 5 = true ∧
    bits (kernelStatus w) 1 0 = 1 ∧ (kernelStatus w).getLsbD 4 = w.getLsbD 4 ∧
    bits (kernelStatus w) 63 6 = bits w 63 6 := by
  unfold kernelStatus
  refine ⟨?_, ?_, bits_setBits (by decide) (by decide) (by decide), ?_, ?_⟩
  · rw [bits_setBits_apart (by decide) (by decide) (by decide), bits_setBit_apart (by decide) (by decide)]
    exact bits_setBits (by decide) (by decide) (bits_lt w 1 0)
  · rw [getLsbD_setBits (by decide) (by decide), if_neg (by decide), getLsbD_setBit (by decide), if_pos rfl]
  · rw [getLsbD_setBits (by decide) (by decide), if_neg (by decide), getLsbD_setBit (by decide), if_neg (by decide),
      getLsbD_setBits (by decide) (by decide), if_neg (by decide)]
  · rw [bits_setBits_apart (by decide) (by decide) (by decide), bits_setBit_apart (by decide) (by decide),
      bits_setBits_apart (by decide) (by decide) (by decide)]

/-- Settles O18: a delegated trap is an update to the user handler's thread, any other to the kernel handler's. -/
theorem trapsEnterTheirHandlers : Obligations.TrapsEnterTheirHandlers := by
  unfold Obligations.TrapsEnterTheirHandlers
  refine ⟨fun s c i0 i1 hd => ?_, fun s c i0 i1 hk hready hc => ?_⟩
  · rw [takeTrap_stated, deliverTrap_delegated hd]
    have hinh : setBit s.cur.status 4 true = s.cur.status ||| 0x10 := by
      rw [setBit_true (by decide)]
      rfl
    exact ⟨rfl, hinh, rfl, rfl, rfl, rfl, rfl, rfl, rfl, rfl, rfl, rfl, rfl, rfl, rfl, rfl, rfl, rfl, rfl, rfl⟩
  · rw [takeTrap_stated, deliverTrap_kernel hk, deliverToKernel_ready hready hc]
    obtain ⟨hppl, hkinh, hpl, hinh, hrest⟩ := kernelStatus_fields s.cur.status
    generalize s.mem.word s.vectorKey = v
    exact ⟨rfl, hppl, hkinh, hpl, hinh, hrest, rfl, rfl, rfl,
      rfl, rfl, rfl, rfl, rfl, rfl, rfl, rfl, rfl, rfl, rfl, rfl, rfl, rfl, rfl⟩

/-! ### Halting (O19) -/

@[simp] theorem State.writeAs_busy (l : List Word) (s : State) (mid k : Nat) : (s.writeAs mid k l).busy = s.busy := by
  induction l generalizing s k with
  | nil => rfl
  | cons w r ih =>
    rw [State.writeAs, ih]
    split
    · unfold State.useBanks
      split <;> rfl
    · rfl

/-- A choice among places changes neither the issuing thread nor whether one issues. -/
theorem State.chooseFrom_keeps {α : Type} (s : State) (l : List α) :
    (s.chooseFrom l).2.cur = s.cur ∧ (s.chooseFrom l).2.busy = s.busy := by
  unfold State.chooseFrom
  split <;> exact ⟨rfl, rfl⟩

theorem State.storeCell_keeps (s : State) (launch : Nat) :
    (s.storeCell launch).2.cur = s.cur ∧ (s.storeCell launch).2.busy = s.busy := by
  unfold State.storeCell
  split
  · exact ⟨rfl, rfl⟩
  · exact s.chooseFrom_keeps _

theorem State.poolPlace_keeps (s : State) (core size : Nat) :
    (s.poolPlace core size).2.cur = s.cur ∧ (s.poolPlace core size).2.busy = s.busy := s.chooseFrom_keeps _

theorem State.putThread_issuing {s : State} {t : Thread} (hb : s.busy = true) (ht : s.cur.tid = t.tid) :
    (s.putThread t).cur = t := by
  simp [State.putThread, hb, ht]

/-- The issuing thread as it is saved, whether or not a place for its frame is found. -/
theorem State.saveFrame_issuing {s : State} {t : Thread} (kind : Nat) (hb : s.busy = true) (ht : s.cur.tid = t.tid) :
    ∃ f, (s.saveFrame t kind).cur = { t with frame := f } := by
  unfold State.saveFrame
  extract_lets size mid prev link
  split
  rename_i pool s1 hpool
  split
  rename_i cell s2 hcell
  have h1 : s1.cur = s.cur ∧ s1.busy = s.busy := by
    split at hpool
    · have hk := s.poolPlace_keeps t.core size
      rwa [hpool] at hk
    · cases hpool
      exact ⟨rfl, rfl⟩
  have h2 : s2.cur = s1.cur ∧ s2.busy = s1.busy := by
    split at hcell
    · have hk := s1.storeCell_keeps t.launch
      rwa [hcell] at hk
    · cases hcell
      exact ⟨rfl, rfl⟩
  split
  · exact ⟨t.frame, State.putThread_issuing (h2.2.trans (h1.2.trans hb)) (by rw [h2.1, h1.1, ht])⟩
  · refine ⟨_, State.putThread_issuing ?_ ?_⟩
    · split <;> simp [h1.2, h2.2, hb]
    · split <;> simp [h1.1, h2.1, ht]

@[simp] theorem State.reportThread_cur (s : State) (t : Thread) (event : Nat) (addr : Word) (info : List Word) :
    (s.reportThread t event addr info).cur = s.cur := State.modLaunch_cur s _ _

/-- A thread that halts at a second trap (03 R62). -/
def Thread.halting (t : Thread) (c : Cause) (pc : Word) : Thread :=
  { t with life := .halted, halt := some (c, pc), wait := none, half := none }

theorem Thread.halting_tid (t : Thread) (c : Cause) (pc : Word) : t.tid = (t.halting c pc).tid := rfl

theorem State.haltThread_cur (s : State) (c : Cause) (pc : Word) :
    (s.haltThread c pc).cur = (s.saveFrame (s.cur.halting c pc) 3).cur := by
  unfold State.haltThread
  exact State.reportThread_cur _ _ _ _ _

theorem State.haltThread_issuing {s : State} (c : Cause) (pc : Word) (hb : s.busy = true) :
    ∃ f, (s.haltThread c pc).cur = { s.cur.halting c pc with frame := f } := by
  rw [State.haltThread_cur]
  exact State.saveFrame_issuing 3 hb (s.cur.halting_tid c pc)

/-- A second trap to kernel halts its thread (03 R58, R62). -/
theorem takeTrap_within {s : State} {c : Cause} (hb : s.busy = true) (hk : ToKernel s c)
    (hkinh : s.cur.status.getLsbD 5 = true) (i0 i1 : Word) :
    ∃ f, (s.takeTrap c (some i0) (some i1)).cur = { s.cur.halting c s.cur.pc with frame := f } := by
  rw [takeTrap_cur, deliverTrap_kernel hk, deliverToKernel_within hkinh]
  exact State.haltThread_issuing c s.cur.pc hb

/-- Settles O19: the second trap halts the thread, which keeps its banks, STATUS and window. -/
theorem trapWithinTheKernelHandlerHalts : Obligations.TrapWithinTheKernelHandlerHalts := by
  unfold Obligations.TrapWithinTheKernelHandlerHalts
  intro s c i0 i1 hb hk hkinh t
  obtain ⟨f, hcur⟩ := takeTrap_within hb hk hkinh i0 i1
  have ht : t.cur = _ := hcur
  rw [ht]
  exact ⟨rfl, rfl, rfl, rfl, rfl, rfl⟩

end Sys2Proof.Machine
end

section
/-! What MFC reads and MTC writes (O22): 03 R54 to R57, Tables 3.3 to 3.8, 04 R76, 14 R273. -/

namespace Sys2Proof.Machine

/-! ### MFC -/

/-- MFC writes what its register reads as. -/
theorem execMfc_writes {o : OpMfc} {s t : State} {fl : Flow} (hg : s.cur.guardOn o.g = true)
    (hd : Gives (checkDst o.d) s () s) (hw : Gives (writeD o.d (s.creg o.n.toNat)) s fl t) :
    exec (.mfc o) s = .next (t.finished fl) := by
  have hrun : exec (.mfc o) s = .next (s.settle (writeD o.d (s.creg o.n.toNat) s)) :=
    (issue_on _ _ _ hg).trans (by rw [bind_ok _ _ _ _ _ hd, bind_ok _ _ _ _ _ (get_run s)])
  rw [hrun, hw, settle_written _ _ _ _ _ _ hw]

theorem lcoreWord_here {pkg c : Nat} (h : c < 6144) : lcoreWord pkg c =
    BitVec.ofNat 64 (c % 128 + 2 ^ 7 * (c / 128 % 12) + 2 ^ 11 * (c / 1536) + 2 ^ 13 * pkg) := by
  have hc : c < 2 ^ 13 := by omega
  simp only [lcoreWord, coreHome, if_pos hc]

theorem slotWord_running {t : Thread} {n : Nat} (h : t.life = .running n) :
    t.slotWord = BitVec.ofNat 64 (n + 16 * t.entry) := by
  simp only [Thread.slotWord, h]

theorem getD_toList {n : Nat} (v : Vector Word n) (i : Fin n) : v.toList.getD i.val 0 = v[i] := by
  simp

/-- The numbers of the debug registers are read at the core (14 R273). -/
theorem creg_debug (s : State) {n : Nat} (h1 : 0x040 ≤ n) (h2 : n < 0x080) : s.creg n = s.debugRead s.cur.core n := by
  have hlow : ∀ m, m < 0x040 → n ≠ m := fun m hm => by omega
  have hfeat : (decide (0x020 ≤ n) && decide (n < 0x024)) = false := by
    simp
    omega
  simp [State.creg, hlow, hfeat, h1, h2]

/-- Each group of debug registers lies at its own numbers (14 Table 14.1). -/
theorem debugRead_iba (s : State) (c : Nat) (i : Fin 4) : s.debugRead c (0x040 + i.val) = (s.core c).dbg.iba[i] := by
  have h : 0x40 + i.val < 0x44 := by omega
  simp [State.debugRead, h]

theorem debugRead_ibc (s : State) (c : Nat) (i : Fin 4) : s.debugRead c (0x044 + i.val) = (s.core c).dbg.ibc[i] := by
  have h : ¬ 0x44 + i.val < 0x44 ∧ 0x44 + i.val < 0x48 := by omega
  simp [State.debugRead, h]

theorem debugRead_wpa (s : State) (c : Nat) (i : Fin 4) : s.debugRead c (0x048 + i.val) = (s.core c).dbg.wpa[i] := by
  have h : ¬ 0x48 + i.val < 0x44 ∧ ¬ 0x48 + i.val < 0x48 ∧ 0x48 + i.val < 0x4C := by omega
  simp [State.debugRead, h]

theorem debugRead_wpc (s : State) (c : Nat) (i : Fin 4) : s.debugRead c (0x04C + i.val) = (s.core c).dbg.wpc[i] := by
  have h : ¬ 0x4C + i.val < 0x44 ∧ ¬ 0x4C + i.val < 0x48 ∧ ¬ 0x4C + i.val < 0x4C ∧ 0x4C + i.val < 0x50 := by omega
  simp [State.debugRead, h]

theorem debugRead_sks (s : State) (c : Nat) (i : Fin 16) : s.debugRead c (0x060 + i.val) = (s.core c).dbg.sks[i] := by
  have hlow : ∀ m, m ≤ 0x05F → 0x060 + i.val ≠ m ∧ ¬ 0x060 + i.val < m := fun m hm => by omega
  have h : ¬ 0x060 + i.val < 0x44 ∧ ¬ 0x060 + i.val < 0x48 ∧ 0x060 + i.val < 0x70 := by omega
  simp [State.debugRead, hlow, h]

/-- What DSEL's thread gives, 0 where there is none. -/
theorem selected_eq (o : Option Thread) (f : Thread → Word) : (match o with
    | some t => f t
    | none => 0) = (o.map f).getD 0 := by
  cases o <;> rfl

/-! ### MTC -/

/-- MTC reads its source and then writes its register in the machine that the read left. -/
theorem execMtc_runs {o : OpMtc} {s s1 : State} {v : Word} (hg : s.cur.guardOn o.g = true)
    (ha : Gives (readS o.a) s v s1) :
    exec (.mtc o) s = .next (s.settle ((writeCreg o.n.toNat v >>= fun _ => pure .seq) s1)) :=
  (issue_on _ _ _ hg).trans (by rw [bind_ok _ _ _ _ _ ha])

/-- A write that answers `t` leaves the PC one slot on. -/
theorem execMtc_writes {o : OpMtc} {s s1 t : State} {v : Word} (hg : s.cur.guardOn o.g = true)
    (ha : Gives (readS o.a) s v s1) (hw : Gives (writeCreg o.n.toNat v) s1 () t) :
    exec (.mtc o) s = .next (t.finished .seq) := by
  rw [execMtc_runs hg ha, bind_ok _ _ _ _ _ hw, pure_run, settle_seq]

/-- A write that traps is a trap of MTC. -/
theorem execMtc_traps {o : OpMtc} {s s1 : State} {v : Word} {c : Cause} {i0 i1 : Word} (hg : s.cur.guardOn o.g = true)
    (ha : Gives (readS o.a) s v s1)
    (hw : writeCreg o.n.toNat v s1 = .error (.trap c (some i0) (some i1) s1)) :
    exec (.mtc o) s = .next (s1.takeTrap c (some i0) (some i1)) := by
  rw [execMtc_runs hg ha, bind_error _ _ _ _ hw, settle_trap]

/-- MTC of STATUS at app clears flags alone; at kernel it writes PPL and KINH too (03 Table 3.4). -/
theorem writeCreg_status (s : State) (v : Word) : Gives (writeCreg 0x008 v) s ()
    (s.updCur fun t => { t with status := writeStatus t.status v (s.cur.pl != 0) }) := rfl

/-- MTC of ROUND writes a mode, and nothing where it is none (03 Table 3.3). -/
theorem writeCreg_round (s : State) (v : Word) : Gives (writeCreg 0x010 v) s ()
    (if v.toNat % 8 ≤ 4 then s.updCur fun t => { t with round := BitVec.ofNat 64 (v.toNat % 8) } else s) := by
  have hbits : bits v 2 0 = v.toNat % 8 := by simp [bits]
  show (if bits v 2 0 ≤ 4 then updCur fun t => { t with round := zext 3 v } else pure ()) s = _
  rw [hbits]
  split <;> rfl

/-- MTC of PRIO at app traps where its own priority is above the ceiling (03 Table 3.6). -/
theorem writeCreg_prio_above {s : State} {v : Word} (hpl : bits s.cur.status 1 0 = 0)
    (habove : bits s.cur.prio 6 4 < bits v 2 0) :
    writeCreg 0x005 v s = .error (.trap .privilege (some 0) (some 0) s) := by
  have hpl' : s.cur.pl = 0 := hpl
  refine (bind_ok _ _ _ _ _ (getCur_run s)).trans ?_
  simp only [hpl', habove]
  rfl

theorem writeCreg_prio {s : State} {v : Word} (h : bits s.cur.status 1 0 ≠ 0 ∨ bits v 2 0 ≤ bits s.cur.prio 6 4) :
    Gives (writeCreg 0x005 v) s () (s.updCur fun t => { t with prio := writePrio t v }) := by
  have hallowed : (!(s.cur.pl != 0) && decide (bits s.cur.prio 6 4 < bits v 2 0)) = false := by
    rcases h with h | h
    · have hpl : (s.cur.pl != 0) = true := bne_iff_ne.mpr h
      simp [hpl]
    · simp [h]
  refine (bind_ok _ _ _ _ _ (getCur_run s)).trans ?_
  simp only [hallowed]
  rfl

theorem writePrio_eq (t : Thread) (v : Word) : writePrio t v = BitVec.ofNat 64 (v.toNat % 8 +
    16 * (if bits t.status 1 0 = 0 then bits t.prio 6 4 else bits v 6 4)) := by
  have hbits : bits v 2 0 = v.toNat % 8 := by simp [bits]
  rw [writePrio, hbits]
  rfl

/-- The delegable bits of TMASK (03 Table 3.8). -/
theorem tmaskWritable_eq : tmaskWritable = 0x1F03131F007903FF := by decide +kernel

theorem writeCreg_readOnly {n : BitVec 12} (s : State) (v : Word)
    (h : n ∈ [0x000, 0x001, 0x002, 0x003, 0x004, 0x006, 0x009, 0x00B, 0x00C, 0x012, 0x013, 0x020, 0x021, 0x022,
      0x023, 0x030]) : Gives (writeCreg n.toNat v) s () s := by
  fin_cases h <;> rfl

/-- Settles O22: MFC writes what its number reads as, MTC runs the write of its number. -/
theorem controlRegistersReadAndWrite : Obligations.ControlRegistersReadAndWrite := by
  unfold Obligations.ControlRegistersReadAndWrite
  refine ⟨fun o s t fl hg hd v hw h => ?_, fun o s s1 v hg ha => ?_⟩
  · have reads (n : BitVec 12) (h : o.n = n ∧ v = s.creg n.toNat) : exec (.mfc o) s = .next (t.finished fl) := by
      obtain ⟨rfl, rfl⟩ := h
      exact execMfc_writes hg hd hw
    have reads_debug (n : Nat) (hn : o.n.toNat = n) (h1 : 0x040 ≤ n) (h2 : n < 0x080)
        (hv : v = s.debugRead s.cur.core n) : exec (.mfc o) s = .next (t.finished fl) :=
      reads o.n ⟨rfl, by rw [hv, hn, creg_debug s h1 h2]⟩
    iterate 17 refine h.elim (reads _) fun h => ?_
    obtain ⟨hn, hc, hv⟩ | ⟨hn, n, hlife, hv⟩ | ⟨hn, hv⟩ | ⟨hn, hv⟩ | ⟨hn, hv⟩ | ⟨hn, hv⟩ | h | h := h
    · exact reads _ ⟨hn, hv.trans (lcoreWord_here hc).symm⟩
    · exact reads _ ⟨hn, hv.trans (slotWord_running hlife).symm⟩
    · exact reads _ ⟨hn, hv.trans (getD_toList s.pkg.feat 0).symm⟩
    · exact reads _ ⟨hn, hv.trans (getD_toList s.pkg.feat 1).symm⟩
    · exact reads _ ⟨hn, hv.trans (getD_toList s.pkg.feat 2).symm⟩
    · exact reads _ ⟨hn, hv.trans (getD_toList s.pkg.feat 3).symm⟩
    · exact reads _ h
    · obtain ⟨i, ⟨hn, hv⟩ | ⟨hn, hv⟩ | ⟨hn, hv⟩ | ⟨hn, hv⟩⟩ | h := h
      · exact reads_debug _ hn (by omega) (by omega) (hv.trans (debugRead_iba s _ i).symm)
      · exact reads_debug _ hn (by omega) (by omega) (hv.trans (debugRead_ibc s _ i).symm)
      · exact reads_debug _ hn (by omega) (by omega) (hv.trans (debugRead_wpa s _ i).symm)
      · exact reads_debug _ hn (by omega) (by omega) (hv.trans (debugRead_wpc s _ i).symm)
      iterate 11 refine h.elim (reads _) fun h => ?_
      obtain ⟨hn, hv⟩ | ⟨hn, hv⟩ | ⟨hn, hv⟩ | ⟨i, hn, hv⟩ := h
      · exact reads _ ⟨hn, hv.trans (selected_eq _ _).symm⟩
      · exact reads _ ⟨hn, hv.trans (selected_eq _ _).symm⟩
      · exact reads _ ⟨hn, hv.trans (selected_eq _ _).symm⟩
      · exact reads_debug _ hn (by omega) (by omega) (hv.trans (debugRead_sks s _ i).symm)
  · have writes (n : BitVec 12) {t : State} (hw : Gives (writeCreg n.toNat v) s1 () t) (hn : o.n = n) :
        exec (.mtc o) s = .next (t.finished .seq) :=
      execMtc_writes hg ha (hn ▸ hw)
    have status {k : Bool} (hk : (s1.cur.pl != 0) = k) :
        Gives (writeCreg 0x008 v) s1 () (s1.updCur fun t => { t with status := writeStatus t.status v k }) :=
      hk ▸ writeCreg_status s1 v
    refine ⟨writes 0x00D rfl, writes 0x011 rfl, writes 0x014 rfl, writes 0x050 rfl, writes 0x00E ?_,
      writes 0x010 (writeCreg_round s1 v), writes 0x00A rfl, fun hn hpl => ?_, fun hn hpl => ?_,
      fun hn => writes o.n (writeCreg_readOnly s1 v hn) rfl, fun hn hpl habove => ?_, fun hn h => ?_⟩
    · rw [← tmaskWritable_eq]
      rfl
    · exact writes 0x008 (status (k := false) (by simp [Thread.pl, hpl])) hn
    · exact writes 0x008 (status (k := true) (bne_iff_ne.mpr hpl)) hn
    · exact execMtc_traps hg ha (hn ▸ writeCreg_prio_above hpl habove)
    · simp only [← writePrio_eq]
      exact writes 0x005 (writeCreg_prio h) hn

end Sys2Proof.Machine
end

section
/-! ERET where two threads bear one name (O21). ERET renegotiates the claim, the lanes that this frees serve the queue
of the pool (09 R174, R175), and `State.putThread` finds the thread that is served by its name alone: the statement
does not say that no thread of the table has the name of the issuing one. -/

namespace Sys2Proof.Machine

/-- A thread in the user handler with a claim on 8 lanes, of which it wants 4. -/
def returningThread : Thread := { Thread.loaded with status := 0x10, claim := some (Claim.fresh 8 4 4) }

/-- A thread of the same name that waits for 4 lanes, with 1 in each local register. -/
def namesakeThread : Thread := { Thread.loaded with
  life := .waiting
  laneReq := some (4, 4)
  wait := some ⟨7, none, false, 0⟩
  l := Vector.replicate 64 1 }

/-- The turn of the one, with the other in the table. -/
def namesakeState : State :=
  { State.reset with busy := true, inTurn := true, cur := returningThread, threads := [(1, namesakeThread)] }

/-- L0 of the issuing thread after an outcome. -/
def firstLocalAfter (r : Host.Outcome State Fault Refusal) : Option Word :=
  match r with
  | .next s => some s.cur.l[0]
  | _ => none

/-- The waiting thread is served, and the issuing one is replaced by it. -/
theorem eret_takes_namesake : firstLocalAfter (exec (.eret ⟨⟨0, false⟩⟩) namesakeState) = some 1 := by
  decide +kernel

/-- Refutes O21: ERET at app with INH = 1 frees lanes, which go to a waiting thread of the same name, whose local
registers then stand in the place of those of the thread that returned. -/
theorem not_trapReturnRestoresTheBank : ¬ Obligations.TrapReturnRestoresTheBank := by
  unfold Obligations.TrapReturnRestoresTheBank
  intro h
  obtain ⟨happ, -, -⟩ := h ⟨⟨0, false⟩⟩ namesakeState (by decide +kernel)
  obtain ⟨t, hexec, -, -, hl, -⟩ := happ (by decide +kernel) (by decide +kernel) (by decide +kernel)
  have hfirst := eret_takes_namesake
  rw [hexec, firstLocalAfter, hl] at hfirst
  exact absurd hfirst (by decide +kernel)

end Sys2Proof.Machine
end

section
/-! What an instruction with one scalar destination leaves unchanged (O13): 03 R44, 04 R79, R89, R94, R95. -/

namespace Sys2Proof.Machine

/-! ### Reading a source keeps the context and memory -/

/-- A thread but for its place in the machine and the packets that it reads: its context (03 R44). -/
def Thread.context (t : Thread) : Thread :=
  { t with life := .ended, wait := none, readyAt := 0, stopPend := false, rslot := none, rxBound := none, rxRead := [] }

/-- What `part` of a thread determines is the same of threads of one part. -/
theorem Thread.of_part {α : Type} {part : Thread → Thread} (φ : Thread → α) {t u : Thread} (h : part t = part u)
    (hφ : ∀ x : Thread, φ (part x) = φ x) : φ t = φ u := by
  rw [← hφ t, ← hφ u, h]

/-- The words of memory in which the dependents of `t`'s threads stand are those of `s`'s. -/
def State.SameFrames (s t : State) : Prop := ∀ u ∈ t.allThreads, ∃ u' ∈ s.allThreads, u.fillKeys = u'.fillKeys

theorem State.SameFrames.refl (s : State) : s.SameFrames s := fun u hu => ⟨u, hu, rfl⟩

theorem State.SameFrames.trans {s t u : State} (h1 : s.SameFrames t) (h2 : t.SameFrames u) : s.SameFrames u := by
  intro x hx
  obtain ⟨y, hy, hxy⟩ := h2 x hx
  obtain ⟨z, hz, hyz⟩ := h1 y hy
  exact ⟨z, hz, hxy.trans hyz⟩

/-- Only the issuing thread differs, and has the same frame. -/
theorem State.SameFrames.of_cur {s t : State} (hf : t.cur.fillKeys = s.cur.fillKeys) (hb : t.busy = s.busy)
    (ht : t.threads = s.threads) : s.SameFrames t := by
  intro u hu
  unfold State.allThreads at hu ⊢
  rw [hb, ht] at hu
  rcases List.mem_append.mp hu with hu | hu
  · split at hu
    · next hbusy =>
      rw [List.mem_singleton.mp hu]
      exact ⟨s.cur, by simp [hbusy], hf⟩
    · cases hu
  · exact ⟨u, List.mem_append_right _ hu, rfl⟩

/-- From `s` to `t` sources have been read: the context of the issuing thread and memory are as before, and so are the
words of memory in which each thread's dependents stand. -/
structure State.ReadsTo (s t : State) : Prop where
  context : t.cur.context = s.cur.context
  mem : t.mem = s.mem
  frames : s.SameFrames t

theorem State.ReadsTo.refl (s : State) : s.ReadsTo s := ⟨rfl, rfl, .refl s⟩

theorem State.ReadsTo.trans {s t u : State} (h1 : s.ReadsTo t) (h2 : t.ReadsTo u) : s.ReadsTo u :=
  ⟨h2.context.trans h1.context, h2.mem.trans h1.mem, h1.frames.trans h2.frames⟩

/-- Only the issuing thread and the cores differ. -/
theorem State.ReadsTo.of_cur {s t : State} (hc : t.cur.context = s.cur.context) (hf : t.cur.fillKeys = s.cur.fillKeys)
    (hb : t.busy = s.busy) (hm : t.mem = s.mem) (ht : t.threads = s.threads) : s.ReadsTo t :=
  ⟨hc, hm, .of_cur hf hb ht⟩

theorem State.modCore_readsTo (s : State) (c : Nat) (f : Core → Core) : s.ReadsTo (s.modCore c f) :=
  .of_cur rfl rfl rfl rfl rfl

theorem mem_tabSet {α : Type} {l : List (Nat × α)} {k : Nat} {v : α} {p : Nat × α} (h : p ∈ tabSet l k v) :
    p ∈ l ∨ p = (k, v) := by
  induction l with
  | nil => exact .inr (by simpa [tabSet] using h)
  | cons q r ih =>
    obtain ⟨j, w⟩ := q
    unfold tabSet at h
    split at h
    · rcases List.mem_cons.mp h with h | h
      · exact .inr h
      · exact .inl h
    · split at h
      · rcases List.mem_cons.mp h with h | h
        · exact .inr h
        · exact .inl (List.mem_cons_of_mem _ h)
      · rcases List.mem_cons.mp h with h | h
        · exact .inl (h ▸ List.mem_cons_self)
        · exact (ih h).imp (List.mem_cons_of_mem _) id

theorem mem_of_tabGet {α : Type} {l : List (Nat × α)} {k : Nat} {v : α} (h : tabGet l k = some v) : (k, v) ∈ l := by
  induction l with
  | nil => cases h
  | cons q r ih =>
    obtain ⟨j, w⟩ := q
    unfold tabGet at h
    split at h
    · next hj =>
      cases h
      subst hj
      exact List.mem_cons_self
    · exact List.mem_cons_of_mem _ (ih h)

/-- A change of one thread that keeps its context and its frame. -/
theorem State.modThread_readsTo {f : Thread → Thread} (s : State) (tid : Nat)
    (hc : ∀ t : Thread, (f t).context = t.context) (hf : ∀ t : Thread, (f t).fillKeys = t.fillKeys) :
    s.ReadsTo (s.modThread tid f) := by
  unfold State.modThread
  split
  · exact .of_cur (hc _) (hf _) rfl rfl rfl
  · split
    · next t ht =>
      refine ⟨rfl, rfl, fun u hu => ?_⟩
      unfold State.allThreads at hu ⊢
      rcases List.mem_append.mp hu with hu | hu
      · exact ⟨u, List.mem_append_left _ hu, rfl⟩
      · obtain ⟨p, hp, rfl⟩ := List.mem_map.mp hu
        rcases mem_tabSet hp with hp | rfl
        · exact ⟨p.2, List.mem_append_right _ (List.mem_map_of_mem hp), rfl⟩
        · exact ⟨t, List.mem_append_right _ (List.mem_map.mpr ⟨_, mem_of_tabGet ht, rfl⟩), hf t⟩
    · exact .refl s

/-- The keys of a value of Dn depend on the frame and the window, and on whether the thread is saved or adopts. -/
theorem Thread.fillKeys_of_life {t u : Thread} (hf : u.frame = t.frame) (hw : u.win = t.win)
    (hl : (u.life = .saved ∨ u.life = .adopting) ↔ (t.life = .saved ∨ t.life = .adopting)) :
    u.fillKeys = t.fillKeys := by
  funext n
  unfold Thread.fillKeys
  rw [hf, hw]
  split
  · simp only [hl]
  · rfl

theorem State.wake_readsTo (s : State) (tid : Nat) : s.ReadsTo (s.wake tid) := by
  refine s.modThread_readsTo tid (fun t => ?_) (fun t => ?_)
  · dsimp only
    split
    · rfl
    · split
      · rfl
      · split <;> rfl
  · dsimp only
    split
    · rfl
    · split
      · next hw => exact Thread.fillKeys_of_life rfl rfl (by simp_all)
      · split
        · next hw => exact Thread.fillKeys_of_life rfl rfl (by simp_all)
        · rfl

theorem State.wakeWhere_readsTo (s : State) (p : Thread → Bool) : s.ReadsTo (s.wakeWhere p) := by
  have fold (l : List Thread) : ∀ u : State, u.ReadsTo (l.foldl (fun u t => u.wake t.tid) u) := by
    induction l with
    | nil => exact .refl
    | cons x l ih => exact fun u => (u.wake_readsTo x.tid).trans (ih _)
  exact fold _ s

theorem State.drainQueue_readsTo (s : State) (c q : Nat) : s.ReadsTo (s.drainQueue c q) :=
  (s.modCore_readsTo c _).trans (State.wakeWhere_readsTo _ _)

theorem State.dropPacket_readsTo (s : State) (c id : Nat) : s.ReadsTo (s.dropPacket c id) := by
  unfold State.dropPacket
  split
  · exact .refl s
  · exact (s.modCore_readsTo c _).trans (State.drainQueue_readsTo _ _ _)

theorem State.bindPacket_readsTo (s : State) (p : Packet) : s.ReadsTo (s.bindPacket p) :=
  .of_cur rfl rfl rfl rfl rfl

theorem State.consumeFlit_readsTo (s : State) (p : Packet) : s.ReadsTo (s.consumeFlit p) := by
  unfold State.consumeFlit
  split
  · exact (s.modCore_readsTo _ _).trans (State.drainQueue_readsTo _ _ _)
  · have hunbound : s.ReadsTo (s.updCur fun t => { t with rxBound := none }) := .of_cur rfl rfl rfl rfl rfl
    exact hunbound.trans (State.dropPacket_readsTo _ _ _)

/-! ### Computations that read -/

/-- A computation that only reads sources. -/
def Reads {α : Type} (m : M α) : Prop := ∀ (s t : State) (v : α), m s = .ok (v, t) → s.ReadsTo t

theorem Reads.pure {α : Type} (a : α) : Reads (pure a) := by
  rintro s t v ⟨⟩
  exact .refl s

theorem Reads.getCur : Reads getCur := by
  rintro s t v ⟨⟩
  exact .refl s

theorem Reads.bind {α β : Type} {m : M α} {f : α → M β} (hm : Reads m) (hf : ∀ a, Reads (f a)) : Reads (m >>= f) := by
  intro s u v h
  obtain ⟨a, s1, h1, h2⟩ := bind_inv _ _ _ _ _ h
  exact (hm _ _ _ h1).trans (hf a _ _ _ h2)

theorem Reads.checkDst (d : Dst) : Reads (checkDst d) := by
  intro s t v h
  rw [checkDst_keeps d s t h]
  exact .refl s

theorem readRx_reads : Reads readRx := by
  intro s t v h
  unfold readRx at h
  split at h
  · cases h
  · next p _ =>
    dsimp only at h
    split at h
    · cases h
      exact (s.bindPacket_readsTo p).trans (State.consumeFlit_readsTo _ p)
    · cases h

theorem readRxh_reads : Reads readRxh := by
  intro s t v h
  unfold readRxh at h
  split at h
  · cases h
  · next p _ =>
    cases h
    exact s.bindPacket_readsTo p

theorem Reads.readS (r : SReg) : Reads (readS r) := by
  intro s t v h
  by_cases hrx : r = .rx
  · subst hrx
    rw [readS_unmarked _ _ (readS_inv _ _ _ _ h)] at h
    exact readRx_reads _ _ _ h
  · by_cases hrxh : r = .rxh
    · subst hrxh
      rw [readS_unmarked _ _ (readS_inv _ _ _ _ h)] at h
      exact readRxh_reads _ _ _ h
    · rw [readS_keeps r s t v h hrx hrxh]
      exact .refl s

theorem Reads.operandB (b : SrcB) : Reads (operandB b) := by
  cases b with
  | reg r => exact .readS r
  | lit v => exact .pure _
  | ulit v => exact .pure _

theorem Reads.operandZ (b : SrcC) : Reads (operandZ b) := by
  cases b with
  | reg r => exact .readS r
  | lit v => exact .pure _

theorem Reads.fpOperand (b : SrcC) : Reads (fpOperand b) := (Reads.operandZ b).bind fun _ => .pure _

/-! ### Flags of arithmetic -/

/-- Only NV, DZ, OF, UF and NX among these bits of STATUS (03 Table 3.4). -/
def ArithFlags (w : Word) : Prop := w &&& 0xFFFFFFFFFFFFF07F = 0

theorem ArithFlags.zero : ArithFlags 0 := rfl
theorem ArithFlags.nv : ArithFlags flagNV := rfl
theorem ArithFlags.dz : ArithFlags flagDZ := rfl
theorem ArithFlags.of : ArithFlags flagOF := rfl
theorem ArithFlags.uf : ArithFlags flagUF := rfl
theorem ArithFlags.nx : ArithFlags flagNX := rfl

theorem ArithFlags.or {v w : Word} (hv : ArithFlags v) (hw : ArithFlags w) : ArithFlags (v ||| w) := by
  unfold ArithFlags at *
  rw [BitVec.and_comm, BitVec.and_or_distrib_left, BitVec.and_comm _ v, BitVec.and_comm _ w, hv, hw]
  rfl

theorem ArithFlags.ite {p : Prop} [Decidable p] {v w : Word} (hv : ArithFlags v) (hw : ArithFlags w) :
    ArithFlags (if p then v else w) := by
  split
  · exact hv
  · exact hw

theorem ArithFlags.rounded {p : Prop} [Decidable p] {x y : Rounded} (hx : ArithFlags x.flags)
    (hy : ArithFlags y.flags) : ArithFlags (if p then x else y).flags := by
  split
  · exact hx
  · exact hy

/-- Raised flags of arithmetic leave the bits that were set and the other bits. -/
theorem ArithFlags.status {v w : Word} (h : ArithFlags v) : (w ||| v) &&& w = w ∧
    (w ||| v) &&& 0xFFFFFFFFFFFFF07F = w &&& 0xFFFFFFFFFFFFF07F := by
  refine ⟨?_, ?_⟩
  · ext i hi
    cases hw : w[i] <;> simp [hw]
  · unfold ArithFlags at h
    rw [BitVec.and_comm, BitVec.and_or_distrib_left, BitVec.and_comm _ v, h, BitVec.and_comm _ w]
    exact BitVec.or_zero

theorem addClamped_flags (uns sub : Bool) (a b : Word) : ArithFlags (addClamped uns sub a b).2 := .ite .of .zero

theorem divide_flags (signed rem : Bool) (a b : Word) : ArithFlags (divide signed rem a b).2 := by
  unfold divide
  dsimp only
  split
  · exact .dz
  · split
    · split
      · exact .zero
      · exact .of
    · exact .zero

theorem absWord_flags (a : Word) : ArithFlags (absWord a).2 := by
  unfold absWord
  split
  · exact .of
  · exact .zero

theorem overflowFlt_flags (p : FPar) (c : RCtx) (neg : Bool) : ArithFlags (overflowFlt p c neg).flags := .or .of .nx

theorem roundFlt_flags (p : FPar) (c : RCtx) (neg : Bool) (m : Nat) (e : Int) (st : Bool) :
    ArithFlags (roundFlt p c neg m e st).flags := by
  unfold roundFlt
  exact .rounded (overflowFlt_flags p c neg) (.ite (.ite (.or .uf .nx) .nx) .zero)

theorem roundTap_flags (n : Nat) (c : RCtx) (neg : Bool) (m : Nat) (e : Int) (st : Bool) :
    ArithFlags (roundTap n c neg m e st).flags := by
  unfold roundTap
  exact .rounded (.or .of .nx) (.or (.ite .nx .zero) (.ite .uf .zero))

theorem flagsIntOverflow_arith : ArithFlags flagsIntOverflow := .or (.or .nv .of) .nx

theorem roundInt_flags (w : Nat) (uns : Bool) (c : RCtx) (neg : Bool) (m : Nat) (e : Int) (st : Bool) :
    ArithFlags (roundInt w uns c neg m e st).flags :=
  .ite (.ite flagsIntOverflow_arith .nv) (.ite .nx .zero)

theorem roundTo_flags (f : NFmt) (uns : Bool) (c : RCtx) (v : FVal) : ArithFlags (roundTo f uns c v).flags := by
  unfold roundTo
  split
  · exact .nv
  · exact .ite .nv .zero
  · exact flagsIntOverflow_arith
  · split
    · exact .zero
    · exact overflowFlt_flags _ _ _
  · exact .or .of .nx
  · exact .zero
  · exact .zero
  · exact .zero
  · exact roundInt_flags _ _ _ _ _ _ _
  · exact roundFlt_flags _ _ _ _ _ _
  · exact roundTap_flags _ _ _ _ _ _

theorem convert_flags (s d : NFmt) (uns : Bool) (c : RCtx) (x : Nat) : ArithFlags (convert s d uns c x).flags := by
  unfold convert
  split
  · exact .ite .of .zero
  · dsimp only
    split
    · exact .zero
    · exact roundTo_flags _ _ _ _

theorem snanFlag_arith (v : FVal) : ArithFlags (snanFlag v) := .ite .nv .zero

theorem addVal_flags (c : RCtx) (x y : FVal) : ArithFlags (addVal c x y).2 := by
  unfold addVal
  split
  · exact .or (snanFlag_arith x) (snanFlag_arith y)
  · split
    · split
      · exact .zero
      · exact .nv
    · exact .zero
    · exact .zero
    · exact .zero
    · exact .zero
    · exact .zero
    · dsimp only
      split <;> exact .zero
    · exact .zero

theorem mulVal_flags (x y : FVal) : ArithFlags (mulVal x y).2 := by
  unfold mulVal
  split
  · exact .or (snanFlag_arith x) (snanFlag_arith y)
  · dsimp only
    split
    · exact .nv
    · exact .nv
    all_goals exact .zero

theorem fmaVal_flags (c : RCtx) (x y z : FVal) : ArithFlags (fmaVal c x y z).2 := by
  have hsn : ArithFlags (snanFlag x ||| snanFlag y ||| snanFlag z) :=
    .or (.or (snanFlag_arith x) (snanFlag_arith y)) (snanFlag_arith z)
  unfold fmaVal
  dsimp only
  split
  · exact .or .nv hsn
  · split
    · exact hsn
    · exact addVal_flags _ _ _

theorem roundRes_flags {f : NFmt} {c : RCtx} {r : FVal × Word} (h : ArithFlags r.2) :
    ArithFlags (roundRes f c r).flags := .or (roundTo_flags _ _ _ _) h

theorem minmaxVal_flags (f : NFmt) (max : Bool) (a b : Nat) : ArithFlags (minmaxVal f max a b).flags := by
  have hsn : ArithFlags (snanFlag (decodeElem f false a) ||| snanFlag (decodeElem f false b)) :=
    .or (snanFlag_arith _) (snanFlag_arith _)
  unfold minmaxVal
  dsimp only
  split
  · exact hsn
  · split
    · exact hsn
    · split
      · exact hsn
      · split <;> exact hsn

/-! ### Writing a destination keeps the rest -/

/-- A context but for the registers that destinations write, and the packet that is sent. -/
def Thread.unwritten (t : Thread) : Thread :=
  { t.context with
    l := Vector.replicate 64 0, sv := Vector.replicate 16 0, swr := 0, dv := Vector.replicate 16 0, dfull := 0
    ecc := [], packet := none }

/-- A context but for what an instruction with one scalar destination changes. -/
def Thread.outside (t : Thread) : Thread :=
  { t.unwritten with status := 0, convcnt := 0, pc := 0, lines := [], forfeits := 0 }

/-- What is kept of each thread that `f` may be applied to is kept of the issuing one. -/
theorem State.modThread_cur {α : Type} {f : Thread → Thread} (φ : Thread → α) (s : State) (tid : Nat)
    (h : ∀ t : Thread, φ (f t) = φ t) : φ (s.modThread tid f).cur = φ s.cur := by
  unfold State.modThread
  split
  · exact h s.cur
  · split <;> rfl

theorem State.wake_unwritten (s : State) (tid : Nat) : (s.wake tid).cur.unwritten = s.cur.unwritten :=
  Thread.of_part Thread.unwritten (s.wake_readsTo tid).context fun _ => rfl

theorem State.fillD_unwritten (s : State) (t : Thread) (n : Fin 16) (v : Word) :
    (s.fillD t n v).cur.unwritten = s.cur.unwritten := by
  obtain ⟨hcur, -⟩ := s.fillFrame_keeps t n v
  have hfill : ((s.fillFrame t n v).modThread t.tid fun x => { x with
      ecc := x.ecc.erase (0x60 + n.val), dv := x.dv.set n.val v
      dfull := x.dfull ||| (1#16 <<< n.val) }).cur.unwritten = s.cur.unwritten :=
    Eq.trans (State.modThread_cur Thread.unwritten _ _ (by intro x; rfl)) (by rw [hcur])
  unfold State.fillD
  dsimp only
  split
  · exact (State.wake_unwritten _ _).trans hfill
  · exact hfill

theorem State.sendLinked_unwritten {s t : State} {fuel f k : Nat} {n : Fin 16} {v : Word} {c : Nat} {must : Bool}
    (h : s.sendLinked fuel f k n v c must = some t) : t.cur.unwritten = s.cur.unwritten := by
  induction fuel using Nat.strongRecOn generalizing s k with
  | ind fuel ih =>
    obtain rfl | ⟨g, rfl⟩ | ⟨u, -, rfl⟩ | rfl | ⟨g, rfl⟩ | ⟨j, g, rfl, hrest⟩ := State.sendLinked_inv h
    · rfl
    · rw [State.modFam_cur]
    · exact s.fillD_unwritten u n v
    · rfl
    · rfl
    · rw [ih j (Nat.lt_succ_self j) hrest, State.modFam_cur]

/-- What an instruction with the scalar destination `d` keeps; `conv` tells whether it converts. -/
structure State.ScalarKept (d : Dst) (conv : Bool) (s t : State) : Prop where
  outside : t.cur.outside = s.cur.outside
  window : ∀ n : Fin 64, d ≠ .l n → t.cur.l[n] = s.cur.l[n]
  shared : ∀ n : Fin 16, d ≠ .s n → t.cur.sv[n] = s.cur.sv[n] ∧ t.cur.swr.getLsbD n.val = s.cur.swr.getLsbD n.val
  dependents : (∀ n, d ≠ .s n) → t.cur.dv = s.cur.dv ∧ t.cur.dfull = s.cur.dfull
  status : ∃ w, ArithFlags w ∧ t.cur.status = s.cur.status ||| w
  convcnt : conv = false → t.cur.convcnt = s.cur.convcnt
  mem : MemKept s t (sharedDst d)

section
variable {d : Dst} {conv : Bool} {s s1 t : State}

/-- The context and memory are as before. -/
theorem State.ScalarKept.of_context (hc : t.cur.context = s.cur.context) (hm : t.mem = s.mem) :
    s.ScalarKept d conv t where
  outside := Thread.of_part Thread.outside hc fun _ => rfl
  window n _ := Thread.of_part (fun t => t.l[n]) hc fun _ => rfl
  shared n _ := ⟨Thread.of_part (fun t => t.sv[n]) hc fun _ => rfl,
    Thread.of_part (fun t => t.swr.getLsbD n.val) hc fun _ => rfl⟩
  dependents _ := ⟨Thread.of_part Thread.dv hc fun _ => rfl, Thread.of_part Thread.dfull hc fun _ => rfl⟩
  status := ⟨0, .zero, (Thread.of_part Thread.status hc fun _ => rfl).trans BitVec.or_zero.symm⟩
  convcnt _ := Thread.of_part Thread.convcnt hc fun _ => rfl
  mem _ _ := by rw [hm]; exact ⟨rfl, rfl⟩

theorem State.ScalarKept.refl (d : Dst) (conv : Bool) (s : State) : s.ScalarKept d conv s := .of_context rfl rfl

/-- What follows after a first part that keeps memory and the frames of threads. -/
theorem State.ScalarKept.after (h0 : s.ScalarKept d false s1) (hm : s1.mem = s.mem) (hf : s.SameFrames s1)
    (h : s1.ScalarKept d conv t) : s.ScalarKept d conv t where
  outside := h.outside.trans h0.outside
  window n hn := (h.window n hn).trans (h0.window n hn)
  shared n hn := ⟨(h.shared n hn).1.trans (h0.shared n hn).1, (h.shared n hn).2.trans (h0.shared n hn).2⟩
  dependents hn := ⟨(h.dependents hn).1.trans (h0.dependents hn).1, (h.dependents hn).2.trans (h0.dependents hn).2⟩
  status := by
    obtain ⟨w, hw, hs⟩ := h0.status
    obtain ⟨w', hw', hs'⟩ := h.status
    exact ⟨w ||| w', hw.or hw', by rw [hs', hs, BitVec.or_assoc]⟩
  convcnt hn := (h.convcnt hn).trans (h0.convcnt rfl)
  mem := h.mem.of_frames hm hf

theorem State.ScalarKept.after_reads (hr : s.ReadsTo s1) (h : s1.ScalarKept d conv t) : s.ScalarKept d conv t :=
  (State.ScalarKept.of_context hr.context hr.mem).after hr.mem hr.frames h

/-- Flags of arithmetic are raised. -/
theorem State.ScalarKept.flagged {w : Word} (hw : ArithFlags w) : s.ScalarKept d conv (s.flagged w) where
  outside := rfl
  window _ _ := rfl
  shared _ _ := ⟨rfl, rfl⟩
  dependents _ := ⟨rfl, rfl⟩
  status := ⟨w, hw, rfl⟩
  convcnt _ := rfl
  mem _ _ := ⟨rfl, rfl⟩

theorem State.ScalarKept.after_flags {w : Word} (hw : ArithFlags w) (h : (s.flagged w).ScalarKept d conv t) :
    s.ScalarKept d conv t :=
  (State.ScalarKept.flagged hw).after rfl (.of_cur rfl rfl rfl) h

/-- A conversion counts itself. -/
theorem State.ScalarKept.counted (h : s.ScalarKept d conv t) : s.ScalarKept d true t.counted where
  outside := h.outside
  window := h.window
  shared := h.shared
  dependents := h.dependents
  status := h.status
  convcnt hc := by cases hc
  mem := h.mem

/-- The PC is one slot on. -/
theorem State.ScalarKept.finished (h : s.ScalarKept d conv t) : s.ScalarKept d conv (t.finished .seq) where
  outside := h.outside
  window := h.window
  shared := h.shared
  dependents := h.dependents
  status := h.status
  convcnt := h.convcnt
  mem := h.mem

/-- The packet that is sent has moved on. -/
theorem State.ScalarKept.of_packet {p : Option OpenPkt} (hc : t.cur = { s.cur with packet := p }) (hm : t.mem = s.mem) :
    s.ScalarKept d conv t where
  outside := by rw [hc]; rfl
  window _ _ := by rw [hc]
  shared _ _ := by rw [hc]; exact ⟨rfl, rfl⟩
  dependents _ := by rw [hc]; exact ⟨rfl, rfl⟩
  status := ⟨0, .zero, by rw [hc]; exact BitVec.or_zero.symm⟩
  convcnt _ := by rw [hc]
  mem _ _ := by rw [hm]; exact ⟨rfl, rfl⟩

theorem State.sendFlit_packet (s : State) (p : OpenPkt) (v : Word) (close : Bool) :
    (s.sendFlit p v close).cur = { s.cur with packet := some { p with sent := p.sent ++ [v] } } ∧
      (s.sendFlit p v close).mem = s.mem := by
  unfold State.sendFlit
  dsimp only
  split <;> exact ⟨rfl, rfl⟩

/-- What follows the checks of a destination runs where they ran. -/
theorem checked_inv {m : M Flow} {fl : Flow}
    (h : (checkDst d >>= fun _ => portCheck d >>= fun _ => m) s = .ok (fl, t)) : m s = .ok (fl, t) := by
  obtain ⟨_, s1, hcheck, hA⟩ := bind_inv _ _ _ _ _ h
  obtain ⟨_, s2, hport, hB⟩ := bind_inv _ _ _ _ _ hA
  obtain rfl := checkDst_keeps _ _ _ hcheck
  obtain rfl := portCheck_keeps _ _ _ hport
  exact hB

/-- A write of a register of the window, of a first value of Sn, of ZERO or of a flit of a packet. -/
theorem writeD_kept {v : Word} (h : writeD d v s = .ok (.seq, t)) : s.ScalarKept d conv t := by
  cases d with
  | l n =>
    cases h
    refine ⟨rfl, fun m hm => ?_, fun _ _ => ⟨rfl, rfl⟩, fun _ => ⟨rfl, rfl⟩, ⟨0, .zero, BitVec.or_zero.symm⟩,
      fun _ => rfl, fun _ _ => ⟨rfl, rfl⟩⟩
    exact Vector.getElem_set_ne n.isLt m.isLt fun he => hm (by rw [Fin.ext he])
  | s n =>
    obtain ⟨-, _, _, _, _, hsend⟩ := writeD_s_inv h
    obtain ⟨-, -, -, hother, hl, -, hmem⟩ := writeD_shared h
    have hrest : t.cur.unwritten = s.cur.unwritten := Eq.trans (State.sendLinked_unwritten hsend) rfl
    refine ⟨?_, fun m _ => by rw [hl], fun m hm => hother m fun he => hm (by rw [he]), fun hno => absurd rfl (hno n),
      ⟨0, .zero, ?_⟩, fun _ => ?_, hmem⟩
    · exact Thread.of_part Thread.outside hrest fun _ => rfl
    · exact Eq.trans (Thread.of_part Thread.status hrest fun _ => rfl) BitVec.or_zero.symm
    · exact Thread.of_part Thread.convcnt hrest fun _ => rfl
  | zero =>
    cases h
    exact .refl _ _ _
  | txh =>
    have hB : writeTxh v s = .ok (.seq, t) := checked_inv h
    simp only [writeTxh] at hB
    split at hB
    · cases hB
      exact .of_packet rfl rfl
    · cases hB
  | tx =>
    obtain ⟨_, s1, hfree, hC⟩ := bind_inv _ _ _ _ _ (checked_inv h)
    obtain rfl := channelFree_run _ _ _ hfree
    cases hC
    dsimp only
    split
    · next p _ =>
      obtain ⟨hc, hm⟩ := State.sendFlit_packet s1 p v false
      exact .of_packet hc hm
    · exact .refl _ _ _
  | txe =>
    obtain ⟨_, s1, -, hC⟩ := bind_inv _ _ _ _ _ (checked_inv h)
    cases hC

end

/-! ### Instructions with one scalar destination -/

/-- A computation that, where it ends in sequence, has written `d` alone. -/
def Writes (d : Dst) (conv : Bool) (m : M Flow) : Prop := ∀ s t : State, m s = .ok (.seq, t) → s.ScalarKept d conv t

theorem Writes.writeD (d : Dst) (conv : Bool) (v : Word) : Writes d conv (writeD d v) := fun _ _ h => writeD_kept h

theorem Writes.writeRes (d : Dst) (v : Word) {w : Word} (hw : ArithFlags w) (conv : Bool) :
    Writes d conv (writeRes d v w conv) := by
  intro s t h
  have h' := (bind_ok _ _ _ _ _ (raiseFlags_run w s)).symm.trans h
  obtain ⟨fl, u, hwrite, hrest⟩ := bind_inv _ _ _ _ _ h'
  refine .after_flags hw ?_
  rcases writeD_flow d v _ u fl hwrite with rfl | ⟨rfl, -⟩
  · have hk : (s.flagged w).ScalarKept d false u := writeD_kept hwrite
    cases conv with
    | true =>
      cases hrest
      exact hk.counted
    | false =>
      cases hrest
      exact hk
  · cases hrest

theorem Writes.bind {α : Type} {d : Dst} {conv : Bool} {m : M α} {f : α → M Flow} (hm : Reads m)
    (hf : ∀ a, Writes d conv (f a)) : Writes d conv (m >>= f) := by
  intro s u h
  obtain ⟨a, s1, h1, h2⟩ := bind_inv _ _ _ _ _ h
  exact .after_reads (hm _ _ _ h1) (hf a _ _ h2)

/-- `i` issues a computation that writes `d` alone. -/
def IssuesWrite (i : Instr) (d : Dst) (conv : Bool) : Prop :=
  ∀ s, ∃ g body, exec i s = issue g body s ∧ Writes d conv body

section
variable {i : Instr} {d : Dst}

theorem issuesWrite_alu {o : OpAlu} {f : Word → Word → Word} (h : ∀ s, exec i s = alu o f s) :
    IssuesWrite i o.d false :=
  fun s => ⟨_, _, h s,
    .bind (.checkDst _) fun _ => .bind (.readS _) fun _ => .bind (.operandB _) fun _ => .writeD _ _ _⟩

theorem issuesWrite_aluFlags {g : Guard} {a : SReg} {b : SrcB} {f : Word → Word → Word × Word}
    (h : ∀ s, exec i s = aluFlags g d a b f s) (hf : ∀ x y, ArithFlags (f x y).2) : IssuesWrite i d false :=
  fun s => ⟨_, _, h s,
    .bind (.checkDst _) fun _ => .bind (.readS _) fun x => .bind (.operandB _) fun y => .writeRes _ _ (hf x y) _⟩

theorem issuesWrite_alu1 {g : Guard} {a : SReg} {f : Word → Word} (h : ∀ s, exec i s = alu1 g d a f s) :
    IssuesWrite i d false :=
  fun s => ⟨_, _, h s, .bind (.checkDst _) fun _ => .bind (.readS _) fun _ => .writeD _ _ _⟩

theorem issuesWrite_fpArith {o : OpFp2} {f : RCtx → FVal → FVal → FVal × Word} (h : ∀ s, exec i s = fpArith o f s)
    (hf : ∀ c x y, ArithFlags (f c x y).2) : IssuesWrite i o.d true :=
  fun s => ⟨_, _, h s, .bind (.checkDst _) fun _ => .bind (.readS _) fun _ => .bind (.fpOperand _) fun _ =>
    .writeRes _ _ (roundRes_flags (hf _ _ _)) _⟩

theorem issuesWrite_fpMinMax {o : OpFpMin} {max : Bool} (h : ∀ s, exec i s = fpMinMax o max s) :
    IssuesWrite i o.d false :=
  fun s => ⟨_, _, h s, .bind (.checkDst _) fun _ => .bind (.readS _) fun _ => .bind (.fpOperand _) fun _ =>
    .writeRes _ _ (minmaxVal_flags _ _ _ _) _⟩

end

theorem binaryForm_issues {i : Instr} {x : IntForm} (h : binaryForm i = some x) : IssuesWrite i x.d false := by
  cases i
  all_goals cases h
  all_goals exact issuesWrite_alu fun _ => rfl

theorem flaggingForm_issues {i : Instr} {x : IntForm} (h : flaggingForm i = some x) : IssuesWrite i x.d false := by
  cases i
  all_goals cases h
  case adds => exact issuesWrite_aluFlags (fun _ => rfl) (addClamped_flags _ _)
  case subs => exact issuesWrite_aluFlags (fun _ => rfl) (addClamped_flags _ _)
  case abs o =>
    exact fun s => ⟨_, _, rfl, .bind (.checkDst _) fun _ => .bind (.readS _) fun x => .writeRes _ _ (absWord_flags x) _⟩
  all_goals exact issuesWrite_aluFlags (fun _ => rfl) (divide_flags _ _)

theorem plainForm_issues {i : Instr} {x : IntForm} (h : plainForm i = some x) : IssuesWrite i x.d false := by
  cases i
  all_goals cases h
  case madd o =>
    exact fun s => ⟨_, _, rfl, .bind (.checkDst _) fun _ => .bind (.readS _) fun _ => .bind (.operandB _) fun _ =>
      .bind (.readS _) fun _ => .writeD _ _ _⟩
  case bfi o =>
    exact fun s => ⟨_, _, rfl, .bind (.checkDst _) fun _ => .bind (.readS _) fun _ => .bind (.readS _) fun _ =>
      .writeD _ _ _⟩
  case mov o => exact fun s => ⟨_, _, rfl, .bind (.checkDst _) fun _ => .bind (.operandB _) fun _ => .writeD _ _ _⟩
  case sel o =>
    exact fun s => ⟨_, _, rfl, .bind (.checkDst _) fun _ => .bind .getCur fun _ => .bind (.readS _) fun _ =>
      .bind (.operandB _) fun _ => .writeD _ _ _⟩
  case lea o =>
    exact fun s => ⟨_, _, rfl, .bind (.checkDst _) fun _ => .bind (.readS _) fun _ => .bind (.operandB _) fun _ =>
      .writeD _ _ _⟩
  all_goals exact issuesWrite_alu1 fun _ => rfl

theorem fpForm_issues {i : Instr} {x : FpForm} (h : fpForm i = some x) : ∃ conv, IssuesWrite i x.d conv := by
  cases i
  all_goals cases h
  case fadd => exact ⟨true, issuesWrite_fpArith (f := addVal) (fun _ => rfl) addVal_flags⟩
  case fsub =>
    exact ⟨true, issuesWrite_fpArith (f := fun c x y => addVal c x y.negate) (fun _ => rfl)
      fun _ _ _ => addVal_flags _ _ _⟩
  case fmul =>
    exact ⟨true, issuesWrite_fpArith (f := fun _ x y => mulVal x y) (fun _ => rfl) fun _ _ _ => mulVal_flags _ _⟩
  case fmin => exact ⟨false, issuesWrite_fpMinMax fun _ => rfl⟩
  case fmax => exact ⟨false, issuesWrite_fpMinMax fun _ => rfl⟩
  case ffma =>
    exact ⟨true, fun s => ⟨_, _, rfl, .bind (.checkDst _) fun _ => .bind (.readS _) fun _ =>
      .bind (.fpOperand _) fun _ => .bind (.readS _) fun _ => .writeRes _ _ (roundRes_flags (fmaVal_flags _ _ _ _)) _⟩⟩

theorem convForm_issues {i : Instr} {g : Guard} {d : Dst} {a : SReg} {f : State → Word → Rounded}
    (h : convForm i = some (g, d, a, f)) : IssuesWrite i d true := by
  cases i
  all_goals cases h
  all_goals exact fun s => ⟨_, _, rfl, .bind (.checkDst _) fun _ => .bind (.readS _) fun _ =>
    .writeRes _ _ (convert_flags _ _ _ _ _) _⟩

/-- An instruction with one scalar destination issues a computation that writes it alone, and counts a conversion only
where it is a floating instruction or converts. -/
theorem scalarDst_issues {i : Instr} {d : Dst} (h : scalarDst i = some d) :
    ∃ conv, IssuesWrite i d conv ∧ (fpForm i = none → convForm i = none → conv = false) := by
  unfold scalarDst at h
  split at h
  · next hform =>
    cases h
    exact ⟨false, binaryForm_issues hform, fun _ _ => rfl⟩
  · next hform =>
    cases h
    exact ⟨false, flaggingForm_issues hform, fun _ _ => rfl⟩
  · next hform =>
    cases h
    exact ⟨false, plainForm_issues hform, fun _ _ => rfl⟩
  · next hform =>
    cases h
    obtain ⟨conv, hi⟩ := fpForm_issues hform
    exact ⟨conv, hi, fun hnone => absurd (hform.symm.trans hnone) (by simp)⟩
  · next hform =>
    cases h
    exact ⟨true, convForm_issues hform, fun _ hnone => absurd (hform.symm.trans hnone) (by simp)⟩
  · cases h

/-! ### Settling in sequence -/

/-- An instruction that settles in sequence has run in sequence, or has changed nothing. -/
theorem settle_seq_inv {s : State} {r : Except Stop (Flow × State)} (h : (s.settle r).flow = .seq) :
    (∃ u, r = .ok (.seq, u) ∧ s.settle r = u.finished .seq) ∨ s.settle r = s := by
  unfold State.settle at h ⊢
  split at h
  · exact .inl ⟨_, rfl, rfl⟩
  · split at h <;> cases h
  · next f u hseq _ => exact absurd h hseq
  · cases h
  · split at h <;> cases h
  · unfold State.takeDeferred at h ⊢
    split at h
    · exact .inr rfl
    · cases h
  · cases h

theorem issue_kept {g : Guard} {body : M Flow} {d : Dst} {conv : Bool} {s t : State} (hb : Writes d conv body)
    (h : issue g body s = .next t) (ht : t.flow = .seq) : s.ScalarKept d conv t := by
  have run (r : Except Stop (Flow × State)) (hr : ∀ u, r = .ok (.seq, u) → s.ScalarKept d conv u)
      (hs : (s.settle r).flow = .seq) : s.ScalarKept d conv (s.settle r) := by
    rcases settle_seq_inv hs with ⟨u, hu, he⟩ | he
    · rw [he]
      exact (hr u hu).finished
    · rw [he]
      exact .refl _ _ _
  unfold issue at h
  split at h
  · cases h
    exact run _ (fun u hu => hb s u hu) ht
  · cases h
    exact run _ (fun u hu => by cases hu; exact .refl _ _ _) ht

/-- Settles O13: the instruction reads sources, raises flags of arithmetic and writes its destination, and each of these
keeps the rest. -/
theorem scalarFrame : Obligations.ScalarFrame := by
  unfold Obligations.ScalarFrame
  intro i d s t hd hexec hflow
  obtain ⟨conv, hissues, hconv⟩ := scalarDst_issues hd
  obtain ⟨g, body, hi, hbody⟩ := hissues s
  have hk : s.ScalarKept d conv t := issue_kept hbody (hi.symm.trans hexec) hflow
  have outside {α : Type} (φ : Thread → α) (hφ : ∀ x : Thread, φ x.outside = φ x) : φ t.cur = φ s.cur :=
    Thread.of_part φ hk.outside hφ
  obtain ⟨w, hw, hstatus⟩ := hk.status
  rw [hstatus]
  obtain ⟨hset, hother⟩ := hw.status (w := s.cur.status)
  exact ⟨hk.window, hk.shared, outside Thread.g fun _ => rfl, outside Thread.preds fun _ => rfl, hk.dependents,
    outside Thread.ubank fun _ => rfl, outside Thread.kbank fun _ => rfl, outside Thread.thand fun _ => rfl,
    outside Thread.tmask fun _ => rfl, outside Thread.prio fun _ => rfl, outside Thread.round fun _ => rfl,
    outside Thread.claim fun _ => rfl, outside Thread.mons fun _ => rfl, hset, hother,
    fun hfp hcv => hk.convcnt (hconv hfp hcv), hk.mem⟩

end Sys2Proof.Machine
end

section
/-! How an instruction with one scalar destination runs (O10 to O12, O15): its sources are read in order, its flags are
raised, and its destination is written (04 R79, R81, 08 R169). -/

namespace Sys2Proof.Machine

/-! ### Results with flags -/

/-- A result whose destination is written in sequence, or closes a packet and is held, settles with its flags. -/
theorem settle_writeRes {s s1 t : State} {d : Dst} {v fl : Word} {conv : Bool} {w : Flow}
    (h : writeD d v (s1.flagged fl) = .ok (w, t)) :
    s.settle (writeRes d v fl conv s1) = t.resulted w conv := by
  have hrun : writeRes d v fl conv s1 = (match w with
      | .held => holdFor 11 0 (.txeRes conv) false
      | f => (if conv then countConv else pure ()) >>= fun _ => pure f) t := by
    unfold writeRes
    rw [bind_ok _ _ _ _ _ (raiseFlags_run fl s1), bind_ok _ _ _ _ _ h]
    cases w <;> cases conv <;> rfl
  rw [hrun]
  rcases writeD_flow d v _ t w h with rfl | ⟨rfl, -⟩
  · cases conv <;> rfl
  · simp [State.settle, State.waitBarred, Thread.waitReason, State.resulted, State.updCur]

/-! ### Integer instructions, by the shape of their operands -/

/-- An operand that an instruction lacks is 0 and changes nothing. -/
theorem readOpt_none {α : Type} {f : α → M Word} {s t : State} {v : Word} (h : Gives (readOpt f none) s v t) :
    v = 0 ∧ s = t := by
  cases h
  exact ⟨rfl, rfl⟩

/-- An integer instruction that raises nothing completes where its body, with its operands read, writes its result. -/
theorem completes_writeD {x : IntForm} {i : Instr} (hflags : x.flags = false)
    (hrun : ∀ {s s1 s2 s3 : State} {a b c : Word}, Gives (checkDst x.d) s () s → Gives (readOpt readS x.a) s a s1 →
      Gives (readOpt operandB x.b) s1 b s2 → Gives (readOpt readS x.c) s2 c s3 →
      ∃ body, exec i s = issue x.g body s ∧ body s = writeD x.d (x.f s.cur a b c).1 s3) : x.completes i := by
  intro s s1 s2 s3 t a b c fl hg hd ha hb hc hw
  rw [hflags] at hw ⊢
  obtain ⟨body, hexec, hbody⟩ := hrun hd ha hb hc
  have hwrite : body s = .ok (fl, t) := hbody.trans hw
  rw [hexec, issue_on _ _ _ hg, hwrite, settle_written _ _ _ _ _ _ hw]
  rfl

/-- One with flags completes where its body raises them with its result. -/
theorem completes_writeRes {x : IntForm} {i : Instr} (hflags : x.flags = true)
    (hrun : ∀ {s s1 s2 s3 : State} {a b c : Word}, Gives (checkDst x.d) s () s → Gives (readOpt readS x.a) s a s1 →
      Gives (readOpt operandB x.b) s1 b s2 → Gives (readOpt readS x.c) s2 c s3 →
      ∃ body, exec i s = issue x.g body s ∧
        body s = writeRes x.d (x.f s.cur a b c).1 (x.f s.cur a b c).2 false s3) : x.completes i := by
  intro s s1 s2 s3 t a b c fl hg hd ha hb hc hw
  rw [hflags] at hw ⊢
  obtain ⟨body, hexec, hbody⟩ := hrun hd ha hb hc
  rw [hexec, issue_on _ _ _ hg, hbody, settle_writeRes hw]
  rfl

section
variable {i : Instr} {g : Guard} {d : Dst} {a : SReg} {b : SrcB}

/-- Two operands, no flag. -/
theorem completes_alu {o : OpAlu} {f F : Word → Word → Word} (hexec : ∀ s, exec i s = alu o f s)
    (hf : ∀ x y, f x y = F x y) :
    IntForm.completes ⟨o.g, o.d, false, some o.a, some o.b, none, fun _ x y _ => (F x y, 0)⟩ i :=
  completes_writeD rfl fun hd hx hy hz => by
    obtain ⟨rfl, rfl⟩ := readOpt_none hz
    exact ⟨_, hexec _, (bind_ok _ _ _ _ _ hd).trans <| (bind_ok _ _ _ _ _ hx).trans <|
      (bind_ok _ _ _ _ _ hy).trans <| congrArg (writeD _ · _) (hf _ _)⟩

/-- Two operands, with flags. -/
theorem completes_aluFlags {f F : Word → Word → Word × Word} (hexec : ∀ s, exec i s = aluFlags g d a b f s)
    (hf : ∀ x y, f x y = F x y) :
    IntForm.completes ⟨g, d, true, some a, some b, none, fun _ x y _ => F x y⟩ i :=
  completes_writeRes rfl fun hd hx hy hz => by
    obtain ⟨rfl, rfl⟩ := readOpt_none hz
    exact ⟨_, hexec _, (bind_ok _ _ _ _ _ hd).trans <| (bind_ok _ _ _ _ _ hx).trans <|
      (bind_ok _ _ _ _ _ hy).trans <| congrArg (fun r => writeRes _ r.1 r.2 false _) (hf _ _)⟩

/-- One operand, no flag. -/
theorem completes_alu1 {f F : Word → Word} (hexec : ∀ s, exec i s = alu1 g d a f s) (hf : ∀ x, f x = F x) :
    IntForm.completes ⟨g, d, false, some a, none, none, fun _ x _ _ => (F x, 0)⟩ i :=
  completes_writeD rfl fun hd hx hy hz => by
    obtain ⟨rfl, rfl⟩ := readOpt_none hy
    obtain ⟨rfl, rfl⟩ := readOpt_none hz
    exact ⟨_, hexec _, (bind_ok _ _ _ _ _ hd).trans <| (bind_ok _ _ _ _ _ hx).trans <|
      congrArg (writeD _ · _) (hf _)⟩

end

end Sys2Proof.Machine
end

section
/-! The integer instructions (O10 to O12): each result of the model is the number or the bits that its rule gives
(04 Table 4.14, R79 to R86). -/

namespace Sys2Proof.Machine

/-! ### A number from its bits -/

theorem foldl_add_filter {α : Type} (p : α → Bool) (f : α → Nat) (l : List α) (n : Nat) :
    ((l.filter p).map f).foldl (· + ·) n = (l.map fun x => if p x then f x else 0).foldl (· + ·) n := by
  induction l generalizing n with
  | nil => rfl
  | cons x l ih =>
    by_cases h : p x
    · simpa [h] using ih _
    · simpa [h] using ih _

/-- The powers of 2 of the positions that a test takes sum to the number with these bits. -/
theorem sum_bits (p : Nat → Bool) (n : Nat) :
    let v := ((List.range n).map fun i => if p i then 2 ^ i else 0).foldl (· + ·) 0
    v < 2 ^ n ∧ ∀ i, v.testBit i = (decide (i < n) && p i) := by
  induction n with
  | zero => simp
  | succ n ih =>
    obtain ⟨hlt, hbit⟩ := ih
    simp only [List.range_succ, List.map_append, List.foldl_append, List.map_cons, List.map_nil, List.foldl_cons,
      List.foldl_nil] at hlt hbit ⊢
    generalize ((List.range n).map fun i => if p i then 2 ^ i else 0).foldl (· + ·) 0 = v at hlt hbit ⊢
    have hadd : v + (if p n then 2 ^ n else 0) = 2 ^ n * (if p n then 1 else 0) + v := by split <;> omega
    refine ⟨by split <;> omega, fun i => ?_⟩
    rw [hadd, Nat.testBit_two_pow_mul_add _ hlt, hbit]
    by_cases hi : i < n
    · simp [hi, Nat.lt_succ_of_lt hi]
    · by_cases hin : i = n
      · subst hin
        cases p i <;> simp
      · have h1 : ¬ i < n + 1 := by omega
        have h2 : Nat.testBit 1 (i - n) = false := Nat.testBit_lt_two_pow (Nat.one_lt_two_pow (by omega))
        cases p n <;> simp [hi, h1, h2]

theorem getLsbD_wordOf (p : Nat → Bool) {i : Nat} (hi : i < 64) : (wordOf p).getLsbD i = p i := by
  have h := (sum_bits p 64).2 i
  rw [wordOf, foldl_add_filter, BitVec.getLsbD_ofNat, h]
  simp [hi]

/-- A word that has the bits of a test is the number that they give. -/
theorem eq_wordOf {w : Word} {p : Nat → Bool} (h : ∀ i, i < 64 → w.getLsbD i = p i) : w = wordOf p :=
  BitVec.eq_of_getLsbD_eq fun i hi => (h i hi).trans (getLsbD_wordOf p hi).symm

/-! ### The two-operand results of Table 4.14 -/

section
variable (a b : Word)

theorem add_eq_ofNat : a + b = BitVec.ofNat 64 (a.toNat + b.toNat) := by
  simp [BitVec.ofNat_add]

theorem sub_eq_ofInt : a - b = BitVec.ofInt 64 ((a.toNat : Int) - b.toNat) := by
  simp [sub_eq_add_neg, BitVec.ofInt_add, BitVec.ofInt_neg]

theorem mul_eq_ofNat : a * b = BitVec.ofNat 64 (a.toNat * b.toNat) := by
  simp [BitVec.ofNat_mul]

/-- The high half of a signed product, by a floor division or by its bits. -/
theorem mulhs_eq : BitVec.ofInt 64 (a.toInt * b.toInt / 2 ^ 64) =
    (BitVec.ofInt 128 (a.toInt * b.toInt)).extractLsb' 64 64 := by
  apply BitVec.eq_of_toNat_eq
  simp only [BitVec.toNat_ofInt, BitVec.extractLsb'_toNat, Nat.shiftRight_eq_div_pow]
  generalize a.toInt * b.toInt = x
  norm_num
  omega

theorem mulhu_eq : BitVec.ofNat 64 (a.toNat * b.toNat / 2 ^ 64) =
    (BitVec.ofNat 128 (a.toNat * b.toNat)).extractLsb' 64 64 := by
  apply BitVec.eq_of_toNat_eq
  simp only [BitVec.toNat_ofNat, BitVec.extractLsb'_toNat, Nat.shiftRight_eq_div_pow]
  generalize a.toNat * b.toNat = x
  norm_num
  omega

theorem and_eq_wordOf : a &&& b = wordOf fun i => a.getLsbD i && b.getLsbD i := eq_wordOf fun i _ => by simp

theorem or_eq_wordOf : a ||| b = wordOf fun i => a.getLsbD i || b.getLsbD i := eq_wordOf fun i _ => by simp

theorem xor_eq_wordOf : a ^^^ b = wordOf fun i => a.getLsbD i != b.getLsbD i := eq_wordOf fun i _ => by simp

theorem andn_eq_wordOf : a &&& ~~~b = wordOf fun i => a.getLsbD i && !b.getLsbD i := eq_wordOf fun i hi => by simp [hi]

theorem shl_eq_ofNat : a <<< (b.toNat % 64) = BitVec.ofNat 64 (a.toNat * 2 ^ (b.toNat % 64)) := by
  apply BitVec.eq_of_toNat_eq
  simp [Nat.shiftLeft_eq]

theorem shr_eq_ofNat : a >>> (b.toNat % 64) = BitVec.ofNat 64 (a.toNat / 2 ^ (b.toNat % 64)) := by
  apply BitVec.eq_of_toNat_eq
  have hlt : a.toNat / 2 ^ (b.toNat % 64) < 2 ^ 64 := Nat.lt_of_le_of_lt (Nat.div_le_self _ _) a.isLt
  rw [BitVec.toNat_ofNat, Nat.mod_eq_of_lt hlt, BitVec.toNat_ushiftRight, Nat.shiftRight_eq_div_pow]

theorem sar_eq_ofInt : a.sshiftRight (b.toNat % 64) = BitVec.ofInt 64 (a.toInt / 2 ^ (b.toNat % 64)) := by
  rw [BitVec.sshiftRight, Int.shiftRight_eq_div_pow]
  norm_cast

theorem rol_eq_wordOf : a.rotateLeft (b.toNat % 64) = wordOf fun i => a.getLsbD ((i + 64 - b.toNat % 64) % 64) := by
  refine eq_wordOf fun i hi => ?_
  have hn : b.toNat % 64 < 64 := Nat.mod_lt _ (by decide)
  generalize b.toNat % 64 = n at hn
  rw [BitVec.getLsbD_rotateLeft, Nat.mod_eq_of_lt hn]
  by_cases h : i < n
  · have hmod : (i + 64 - n) % 64 = 64 - n + i := by omega
    simp [h, hmod]
  · have hmod : (i + 64 - n) % 64 = i - n := by omega
    simp [h, hi, hmod]

theorem min_eq_ofInt : (if a.sle b then a else b) = BitVec.ofInt 64 (min a.toInt b.toInt) := by
  simp only [BitVec.sle_iff_toInt_le]
  split
  · next h => rw [min_eq_left h, BitVec.ofInt_toInt]
  · next h => rw [min_eq_right (by omega), BitVec.ofInt_toInt]

theorem max_eq_ofInt : (if b.sle a then a else b) = BitVec.ofInt 64 (max a.toInt b.toInt) := by
  simp only [BitVec.sle_iff_toInt_le]
  split
  · next h => rw [max_eq_left h, BitVec.ofInt_toInt]
  · next h => rw [max_eq_right (by omega), BitVec.ofInt_toInt]

theorem minu_eq_ofNat : (if a.ule b then a else b) = BitVec.ofNat 64 (min a.toNat b.toNat) := by
  simp only [BitVec.ule_iff_toNat_le]
  split
  · next h => simp [min_eq_left h]
  · next h => simp [min_eq_right (show b.toNat ≤ a.toNat by omega)]

theorem maxu_eq_ofNat : (if b.ule a then a else b) = BitVec.ofNat 64 (max a.toNat b.toNat) := by
  simp only [BitVec.ule_iff_toNat_le]
  split
  · next h => simp [max_eq_left h]
  · next h => simp [max_eq_right (show a.toNat ≤ b.toNat by omega)]

end

/-- Settles O10: each of the seventeen reads its two operands and writes the value of its row of Table 4.14. -/
theorem twoOperandIntegerResults : Obligations.TwoOperandIntegerResults := by
  unfold Obligations.TwoOperandIntegerResults
  intro i x h
  cases i
  all_goals cases h
  case add => exact completes_alu (fun _ => rfl) add_eq_ofNat
  case sub => exact completes_alu (fun _ => rfl) sub_eq_ofInt
  case mul => exact completes_alu (fun _ => rfl) mul_eq_ofNat
  case mulhs => exact completes_alu (fun _ => rfl) mulhs_eq
  case mulhu => exact completes_alu (fun _ => rfl) mulhu_eq
  case and => exact completes_alu (fun _ => rfl) and_eq_wordOf
  case or => exact completes_alu (fun _ => rfl) or_eq_wordOf
  case xor => exact completes_alu (fun _ => rfl) xor_eq_wordOf
  case andn => exact completes_alu (fun _ => rfl) andn_eq_wordOf
  case shl => exact completes_alu (fun _ => rfl) shl_eq_ofNat
  case shr => exact completes_alu (fun _ => rfl) shr_eq_ofNat
  case sar => exact completes_alu (fun _ => rfl) sar_eq_ofInt
  case rol => exact completes_alu (fun _ => rfl) rol_eq_wordOf
  case min => exact completes_alu (fun _ => rfl) min_eq_ofInt
  case max => exact completes_alu (fun _ => rfl) max_eq_ofInt
  case minu => exact completes_alu (fun _ => rfl) minu_eq_ofNat
  case maxu => exact completes_alu (fun _ => rfl) maxu_eq_ofNat

/-! ### Saturating sums, quotients and remainders -/

theorem sintN_eq_toInt (w : Word) : sintN 64 w = w.toInt := by
  have hw := w.isLt
  simp only [sintN, BitVec.toInt_eq_toNat_cond, Nat.mod_eq_of_lt hw]
  split <;> split <;> omega

theorem intOf_eq (uns : Bool) (w : Word) : intOf 64 uns w = if uns then (w.toNat : Int) else w.toInt := by
  cases uns
  · exact sintN_eq_toInt w
  · simp [intOf, Nat.mod_eq_of_lt w.isLt]

/-- A clamped integer and its flag (04 Table 4.14). -/
theorem clamp_saturates {v lo hi : Int} (h : lo ≤ hi) :
    (BitVec.ofInt 64 (clamp v lo hi).1, if (clamp v lo hi).2 then flagOF else 0) = saturated lo hi v := by
  unfold clamp saturated
  by_cases h1 : v < lo
  · have hout : ¬ (lo ≤ v ∧ v ≤ hi) := by omega
    rw [if_pos h1, if_neg hout, max_eq_left (by omega)]
    rfl
  · by_cases h2 : hi < v
    · have hout : ¬ (lo ≤ v ∧ v ≤ hi) := by omega
      rw [if_neg h1, if_pos h2, if_neg hout, min_eq_left (by omega), max_eq_right h]
      rfl
    · have hin : lo ≤ v ∧ v ≤ hi := by omega
      rw [if_neg h1, if_neg h2, if_pos hin, min_eq_right (by omega), max_eq_right (by omega)]
      rfl

/-- The exact sum, or difference, is clamped to the range of its kind. -/
theorem addClamped_eq (uns sub : Bool) (a b : Word) : addClamped uns sub a b =
    if uns then saturated 0 (2 ^ 64 - 1) (if sub then a.toNat - b.toNat else a.toNat + b.toNat)
    else saturated (-2 ^ 63) (2 ^ 63 - 1) (if sub then a.toInt - b.toInt else a.toInt + b.toInt) := by
  unfold addClamped
  rw [intOf_eq, intOf_eq]
  cases uns
  · exact clamp_saturates (by decide)
  · exact clamp_saturates (by decide)

/-- Signed division: by 0, the one quotient out of range, and truncation (04 R81). -/
theorem divide_signed (rem : Bool) (a b : Word) : divide true rem a b = divSigned rem a.toInt b.toInt := by
  have hx : intOf 64 (!true) a = a.toInt := intOf_eq false a
  have hy : intOf 64 (!true) b = b.toInt := intOf_eq false b
  unfold divide divSigned
  rw [hx, hy]
  by_cases h0 : b.toInt = 0
  · simp [h0]
  · by_cases hmin : a.toInt = -2 ^ 63 ∧ b.toInt = -1
    · have ha : a = BitVec.ofInt 64 (-2 ^ 63) := by rw [← hmin.1, BitVec.ofInt_toInt]
      obtain ⟨hm, h1⟩ := hmin
      cases rem <;> simp [h1, ha]
    · have hmin' : (true && a.toInt == -(2 : Int) ^ 63 && b.toInt == -1) = false := by
        simpa using hmin
      simp only [h0, hmin, hmin', if_false, Bool.false_eq_true, Int.tmod_def]

/-- Unsigned division (04 R81). -/
theorem divide_unsigned (rem : Bool) (a b : Word) : divide false rem a b = divUnsigned rem a.toNat b.toNat := by
  have hx : intOf 64 (!false) a = a.toNat := intOf_eq true a
  have hy : intOf 64 (!false) b = b.toNat := intOf_eq true b
  unfold divide divUnsigned
  rw [hx, hy]
  by_cases h0 : b.toNat = 0
  · cases rem <;> simp [h0]
  · have h0' : ¬ (b.toNat : Int) = 0 := by omega
    have hq : Int.tdiv (a.toNat : Int) b.toNat = (a.toNat / b.toNat : Nat) := Int.ofNat_tdiv _ _
    have hr : (a.toNat : Int) - b.toNat * (a.toNat / b.toNat : Nat) = (a.toNat % b.toNat : Nat) := by
      rw [Int.natCast_mod, Int.emod_def, Int.natCast_div]
    simp only [h0, h0', if_false, Bool.false_and, Bool.false_eq_true, hq, hr]
    cases rem <;> exact congrArg (·, 0) (BitVec.ofInt_natCast _ _)

theorem absWord_eq (a : Word) :
    absWord a = (BitVec.ofInt 64 a.toInt.natAbs, if a.toInt = -2 ^ 63 then flagOF else 0) := by
  unfold absWord
  by_cases hmin : a = 0x8000000000000000
  · subst hmin
    decide
  · have hne : ¬ a.toInt = -2 ^ 63 := fun h => hmin (BitVec.eq_of_toInt_eq (h.trans (by decide)))
    rw [if_neg hmin, if_neg hne, BitVec.ofInt_natCast]
    have hsign : a.getLsbD 63 = a.msb := (BitVec.msb_eq_getLsbD_last a).symm
    have hint := BitVec.toInt_eq_msb_cond a
    rw [hsign]
    cases hm : a.msb
    · rw [hm] at hint
      simp [hint]
    · have habs : a.toInt.natAbs = 2 ^ 64 - a.toNat := by
        rw [hm] at hint
        have := a.isLt
        simp only [if_true] at hint
        omega
      rw [habs]
      rfl

/-- Settles O11: sums are clamped with OF, a division by 0 raises DZ and the one quotient out of range OF (04 R81), and
ABS raises OF at the least number. -/
theorem clampedAndDividedResults : Obligations.ClampedAndDividedResults := by
  unfold Obligations.ClampedAndDividedResults
  intro i x h
  cases i
  all_goals cases h
  case adds o => exact completes_aluFlags (fun _ => rfl) (addClamped_eq o.uns false)
  case subs o => exact completes_aluFlags (fun _ => rfl) (addClamped_eq o.uns true)
  case divs => exact completes_aluFlags (fun _ => rfl) (divide_signed false)
  case rems => exact completes_aluFlags (fun _ => rfl) (divide_signed true)
  case divu => exact completes_aluFlags (fun _ => rfl) (divide_unsigned false)
  case remu => exact completes_aluFlags (fun _ => rfl) (divide_unsigned true)
  case abs o =>
    exact completes_writeRes rfl fun {s s1 _ _ x _ _} hd (hx : readS o.a s = .ok (x, s1)) hy hz => by
      obtain ⟨rfl, rfl⟩ := readOpt_none hy
      obtain ⟨rfl, rfl⟩ := readOpt_none hz
      exact ⟨_, rfl, (bind_ok _ _ _ _ _ hd).trans <| (bind_ok _ _ _ _ _ hx).trans <|
        congrArg (fun r : Word × Word => writeRes o.d r.1 r.2 false s1) (absWord_eq x)⟩

/-! ### Bit counts and orders -/

theorem madd_eq_ofNat (a b c : Word) : a * b + c = BitVec.ofNat 64 (a.toNat * b.toNat + c.toNat) := by
  simp [BitVec.ofNat_add, BitVec.ofNat_mul]

/-- Zeros are counted down from bit `n` to the highest one. -/
theorem clzN_eq {w : Word} {n : Nat} (h : w.toNat < 2 ^ n) :
    clzN w n = if w.toNat = 0 then n else n - 1 - Nat.log2 w.toNat := by
  induction n with
  | zero => simp [clzN, show w.toNat = 0 by omega]
  | succ n ih =>
    unfold clzN
    by_cases hlt : w.toNat < 2 ^ n
    · have hbit : w.getLsbD n = false := Nat.testBit_lt_two_pow hlt
      rw [if_neg (by simp [hbit]), ih hlt]
      split
      · omega
      · next h0 =>
        have hlog : Nat.log2 w.toNat < n := (Nat.log2_lt h0).mpr hlt
        omega
    · have hge : 2 ^ n ≤ w.toNat := Nat.le_of_not_lt hlt
      have hbit : w.getLsbD n = true := Nat.testBit_of_two_pow_le_and_two_pow_add_one_gt hge h
      have h0 : w.toNat ≠ 0 := fun h0 => absurd (h0 ▸ hge) (by have := Nat.two_pow_pos n; omega)
      have hlog : Nat.log2 w.toNat = n := (Nat.log2_eq_iff h0).mpr ⟨hge, h⟩
      simp [hbit, h0, hlog]

theorem clz_eq_ofNat (a : Word) :
    BitVec.ofNat 64 (clzN a 64) = BitVec.ofNat 64 (if a = 0 then 64 else 63 - Nat.log2 a.toNat) := by
  rw [clzN_eq a.isLt]
  congr 2
  exact propext ⟨fun h => BitVec.eq_of_toNat_eq h, fun h => h ▸ rfl⟩

/-- Zeros are counted up from bit `i` to the lowest one. -/
theorem ctzN_eq (w : Word) (n i : Nat) : ctzN w i n = ((List.range' i n).findIdx w.getLsbD) := by
  induction n generalizing i with
  | zero => rfl
  | succ n ih =>
    rw [ctzN, List.range'_succ, List.findIdx_cons, ih]
    cases w.getLsbD i
    · simp [Nat.add_comm]
    · rfl

theorem popN_eq (w : Word) (n : Nat) : popN w n = (List.range n).countP w.getLsbD := by
  induction n with
  | zero => rfl
  | succ n ih =>
    rw [popN, ih, List.range_succ, List.countP_append, List.countP_singleton]
    omega

theorem ctz_eq_ofNat (a : Word) :
    BitVec.ofNat 64 (ctzN a 0 64) = BitVec.ofNat 64 ((List.range 64).findIdx a.getLsbD) := by
  rw [ctzN_eq, List.range_eq_range']

/-- The low `n` bits stand in reverse from bit 63 down. -/
theorem revN_eq (w : Word) {n : Nat} (hn : n ≤ 64) :
    ∃ v, revN w n = 2 ^ (64 - n) * v ∧ ∀ i, i < n → v.testBit i = w.getLsbD (n - 1 - i) := by
  induction n with
  | zero => exact ⟨0, rfl, fun i hi => absurd hi (Nat.not_lt_zero i)⟩
  | succ n ih =>
    obtain ⟨v, hv, hbits⟩ := ih (by omega)
    have hpow : 2 ^ (64 - n) = 2 * 2 ^ (64 - (n + 1)) := by
      rw [← Nat.pow_succ', Nat.succ_eq_add_one]
      congr 1
      omega
    have hexp : 63 - n = 64 - (n + 1) := by omega
    refine ⟨2 * v + (w.getLsbD n).toNat, ?_, fun i hi => ?_⟩
    · rw [revN, hv, hpow, hexp]
      cases w.getLsbD n
      · simp only [Bool.false_eq_true, if_false, Bool.toNat_false]
        ring
      · simp only [if_true, Bool.toNat_true]
        ring
    · cases i with
      | zero =>
        rw [Nat.add_sub_cancel, Nat.sub_zero]
        cases w.getLsbD n <;> simp
      | succ i =>
        have hhalf : (2 * v + (w.getLsbD n).toNat) / 2 = v := by
          have := Bool.toNat_lt (w.getLsbD n)
          omega
        rw [Nat.testBit_succ, hhalf, hbits i (by omega)]
        congr 1
        omega

theorem brev_eq_wordOf (a : Word) : BitVec.ofNat 64 (revN a 64) = wordOf fun i => a.getLsbD (63 - i) := by
  refine eq_wordOf fun i hi => ?_
  obtain ⟨v, hv, hbits⟩ := revN_eq a (Nat.le_refl 64)
  rw [BitVec.getLsbD_ofNat, hv, Nat.sub_self, Nat.pow_zero, Nat.one_mul, hbits i hi]
  simp [hi]

/-- Bit `i` of the number of some bytes is a bit of byte `i / 8`. -/
theorem testBit_foldr_bytes (l : List Byte) (i : Nat) :
    (l.foldr (fun (b : Byte) n => b.toNat + 256 * n) 0).testBit i = (l.getD (i / 8) 0).getLsbD (i % 8) := by
  induction l generalizing i with
  | nil => simp
  | cons b l ih =>
    rw [List.foldr_cons, Nat.add_comm, Nat.testBit_two_pow_mul_add (i := 8) _ b.isLt]
    by_cases hi : i < 8
    · have hdiv : i / 8 = 0 := by omega
      have hmod : i % 8 = i := by omega
      simp [hi, hdiv, hmod, BitVec.getLsbD]
    · have hdiv : i / 8 = (i - 8) / 8 + 1 := by omega
      have hmod : i % 8 = (i - 8) % 8 := by omega
      rw [if_neg hi, ih, hdiv, hmod, List.getD_cons_succ]

theorem getD_wordBytes_reverse (w : Word) {k : Nat} (hk : k < 8) :
    (wordBytes w 8).reverse.getD k 0 = BitVec.ofNat 8 (w.toNat / 256 ^ (7 - k)) := by
  rw [List.getD_eq_getElem _ _ (by simpa [wordBytes] using hk)]
  simp [wordBytes]

theorem bswap_eq_wordOf (a : Word) : swapBytes a = wordOf fun i => a.getLsbD (8 * (7 - i / 8) + i % 8) := by
  refine eq_wordOf fun i hi => ?_
  have hpow : 256 ^ (7 - i / 8) = 2 ^ (8 * (7 - i / 8)) := by rw [Nat.pow_mul]
  rw [swapBytes, bytesWord, BitVec.getLsbD_ofNat, testBit_foldr_bytes, getD_wordBytes_reverse a (by omega),
    BitVec.getLsbD_ofNat, hpow, Nat.testBit_div_two_pow, Nat.add_comm (i % 8)]
  simp [hi, Nat.mod_lt, BitVec.getLsbD]

theorem bfx_eq_ofNat (pos len : Nat) (a : Word) :
    zext (len + 1) (a >>> pos) = BitVec.ofNat 64 (a.toNat / 2 ^ pos % 2 ^ (len + 1)) := by
  rw [zext, BitVec.toNat_ushiftRight, Nat.shiftRight_eq_div_pow]

/-- A field of `len + 1` bits is set, the rest is kept. -/
theorem bfi_eq_wordOf (pos len : Nat) (a c : Word) : setBits a (pos + len) pos c.toNat =
    wordOf fun i => if pos ≤ i ∧ i ≤ pos + len then c.getLsbD (i - pos) else a.getLsbD i :=
  eq_wordOf fun _ hi => getLsbD_setBits (Nat.le_add_right _ _) hi

theorem sext_eq_ofInt (len : BitVec 6) (a : Word) :
    sext (len.toNat + 1) a = BitVec.ofInt 64 (Int.bmod a.toNat (2 ^ (len.toNat + 1))) := by
  have hn : len.toNat < 64 := len.isLt
  generalize len.toNat = n at hn
  have hpow : 2 ^ (n + 1) = 2 * 2 ^ n := Nat.pow_succ'
  have hle : 2 ^ n ≤ 2 ^ 63 := Nat.pow_le_pow_right (by decide) (by omega)
  have hr : a.toNat % 2 ^ (n + 1) < 2 ^ (n + 1) := Nat.mod_lt _ (Nat.two_pow_pos _)
  have hmod : (a.toNat : Int) % (2 ^ (n + 1) : Nat) = (a.toNat % 2 ^ (n + 1) : Nat) := (Int.natCast_mod _ _).symm
  unfold sext
  rw [Int.bmod_def, hmod, Nat.add_sub_cancel]
  generalize a.toNat % 2 ^ (n + 1) = r at hr
  rw [hpow] at hr ⊢
  generalize 2 ^ n = m at hr hle
  split
  · rw [if_pos (by omega), BitVec.ofInt_natCast]
  · rw [if_neg (by omega)]
    apply BitVec.eq_of_toNat_eq
    rw [BitVec.toNat_ofNat, BitVec.toNat_ofInt]
    omega

theorem movHi_eq_ofNat (v : BitVec 32) (a : Word) :
    (v ++ a.setWidth 32 : Word) = BitVec.ofNat 64 (v.toNat * 2 ^ 32 + a.toNat % 2 ^ 32) := by
  have hlow : a.toNat % 2 ^ 32 < 2 ^ 32 := Nat.mod_lt _ (by decide)
  have hv := v.isLt
  apply BitVec.eq_of_toNat_eq
  rw [BitVec.toNat_append, BitVec.toNat_setWidth, Nat.shiftLeft_eq, ← Nat.mul_comm (2 ^ 32),
    ← Nat.two_pow_add_eq_or_of_lt hlow, BitVec.toNat_ofNat]
  omega

theorem lea_eq_ofNat (sh : Nat) (a b : Word) : a + (b <<< sh) = BitVec.ofNat 64 (a.toNat + b.toNat * 2 ^ sh) := by
  apply BitVec.eq_of_toNat_eq
  simp [Nat.shiftLeft_eq]

theorem sel_completes (o : OpSel) : IntForm.completes ⟨o.g, o.d, false, some o.a, some o.b, none,
    fun t x y _ => (if t.pred o.psel = o.pneg then y else x, 0)⟩ (.sel o) :=
  completes_writeD rfl fun {s _ _ _ x y _} hd hx hy hz => by
    obtain ⟨rfl, rfl⟩ := readOpt_none hz
    have hsel : (if s.cur.pred o.psel != o.pneg then x else y) = if s.cur.pred o.psel = o.pneg then y else x := by
      by_cases h : s.cur.pred o.psel = o.pneg <;> simp [h]
    exact ⟨_, rfl, (bind_ok _ _ _ _ _ hd).trans <| (bind_ok _ _ _ _ _ (getCur_run s)).trans <|
      (bind_ok _ _ _ _ _ hx).trans <| (bind_ok _ _ _ _ _ hy).trans <| congrArg (writeD _ · _) hsel⟩

/-- Settles O12: each reads its operands and writes the value that its rule gives, and raises nothing. -/
theorem otherIntegerResults : Obligations.OtherIntegerResults := by
  unfold Obligations.OtherIntegerResults
  intro i x h
  cases i
  all_goals cases h
  case clz => exact completes_alu1 (fun _ => rfl) clz_eq_ofNat
  case ctz => exact completes_alu1 (fun _ => rfl) ctz_eq_ofNat
  case popc => exact completes_alu1 (fun _ => rfl) fun a => congrArg _ (popN_eq a 64)
  case brev => exact completes_alu1 (fun _ => rfl) brev_eq_wordOf
  case bswap => exact completes_alu1 (fun _ => rfl) bswap_eq_wordOf
  case bfx o => exact completes_alu1 (fun _ => rfl) (bfx_eq_ofNat o.pos.toNat o.len.toNat)
  case sext o => exact completes_alu1 (fun _ => rfl) (sext_eq_ofInt o.len)
  case zext => exact completes_alu1 (fun _ => rfl) fun _ => rfl
  case movHi o => exact completes_alu1 (fun _ => rfl) (movHi_eq_ofNat o.v)
  case sel o => exact sel_completes o
  case madd =>
    exact completes_writeD rfl fun hd hx hy hz => ⟨_, rfl, (bind_ok _ _ _ _ _ hd).trans <|
      (bind_ok _ _ _ _ _ hx).trans <| (bind_ok _ _ _ _ _ hy).trans <| (bind_ok _ _ _ _ _ hz).trans <|
      congrArg (writeD _ · _) (madd_eq_ofNat _ _ _)⟩
  case bfi o =>
    exact completes_writeD rfl fun hd hx hy hz => by
      obtain ⟨rfl, rfl⟩ := readOpt_none hy
      exact ⟨_, rfl, (bind_ok _ _ _ _ _ hd).trans <| (bind_ok _ _ _ _ _ hx).trans <|
        (bind_ok _ _ _ _ _ hz).trans <| congrArg (writeD _ · _) (bfi_eq_wordOf o.pos.toNat o.len.toNat _ _)⟩
  case mov =>
    exact completes_writeD rfl fun hd hx hy hz => by
      obtain ⟨rfl, rfl⟩ := readOpt_none hx
      obtain ⟨rfl, rfl⟩ := readOpt_none hz
      exact ⟨_, rfl, (bind_ok _ _ _ _ _ hd).trans <| bind_ok _ _ _ _ _ hy⟩
  case lea o =>
    exact completes_writeD rfl fun hd hx hy hz => by
      obtain ⟨rfl, rfl⟩ := readOpt_none hz
      exact ⟨_, rfl, (bind_ok _ _ _ _ _ hd).trans <| (bind_ok _ _ _ _ _ hx).trans <|
        (bind_ok _ _ _ _ _ hy).trans <| congrArg (writeD _ · _) (lea_eq_ofNat o.sh.toNat _ _)⟩

end Sys2Proof.Machine
end

section
/-! What CMP, PLOG and FCMP decide and write (O14), and how the scalar floating instructions run (O15): 02 R27,
04 R87 to R95, Tables 4.9 and 4.12, 08 R169. -/

namespace Sys2Proof.Machine

/-! ### The write of a predicate -/

theorem getLsbD_withPred (s : State) (p : PredNo) (b : Bool) {i : Nat} (hi : i < 8) :
    (s.withPred p b).cur.preds.getLsbD i = if i = p.val ∧ i ≠ 0 then b else s.cur.preds.getLsbD i := by
  have hsum : ∀ n, (if n = p.val ∧ n ≠ 0 then (if b then 2 ^ n else 0)
      else (if s.cur.preds.getLsbD n then 2 ^ n else 0)) =
      if (if n = p.val ∧ n ≠ 0 then b else s.cur.preds.getLsbD n) then 2 ^ n else 0 := fun n => by split <;> rfl
  have h := (sum_bits (fun n => if n = p.val ∧ n ≠ 0 then b else s.cur.preds.getLsbD n) 8).2 i
  rw [State.withPred, State.updCur_cur]
  simp only [hsum]
  rw [BitVec.getLsbD_ofNat, h]
  simp [hi]

/-- One predicate is set or cleared. -/
theorem getLsbD_setPred (w : BitVec 8) {p i : Nat} (b : Bool) (hi : i < 8) :
    (if b then w ||| (1#8 <<< p) else w &&& ~~~ (1#8 <<< p)).getLsbD i = if i = p then b else w.getLsbD i := by
  have hbit : (1#8 <<< p).getLsbD i = decide (i = p) := by
    rw [BitVec.getLsbD_shiftLeft, BitVec.getLsbD_one, decide_eq_true hi]
    by_cases hlt : i < p
    · simp [hlt, show i ≠ p by omega]
    · simp [hlt, show i - p = 0 ↔ i = p by omega]
  by_cases hip : i = p
  · subst hip
    cases b <;> simp [hbit, -BitVec.getLsbD_shiftLeft]
  · cases b <;> simp [hip, hbit, hi, -BitVec.getLsbD_shiftLeft, -BitVec.getLsbD_eq_getElem]

/-- A write of a predicate sets its bit; P0 stays (02 R27). -/
theorem writeP_run (p : PredNo) (b : Bool) (s : State) : writeP p b s = .ok ((), s.withPred p b) := by
  have hpreds : (if p.val = 0 then s.cur.preds
      else if b then s.cur.preds ||| (1#8 <<< p.val) else s.cur.preds &&& ~~~ (1#8 <<< p.val)) =
      (s.withPred p b).cur.preds := by
    refine BitVec.eq_of_getLsbD_eq fun i hi => ?_
    rw [getLsbD_withPred s p b hi]
    split
    · next hp => rw [if_neg (by omega)]
    · next hp =>
      rw [getLsbD_setPred _ _ hi]
      by_cases hip : i = p.val
      · rw [if_pos hip, if_pos ⟨hip, hip ▸ hp⟩]
      · rw [if_neg hip, if_neg fun h => hip h.1]
  exact congrArg (fun w => Except.ok ((), s.updCur fun t => { t with preds := w })) hpreds

theorem pred_eq (t : Thread) (p : PredNo) : t.pred p = (t.preds.getLsbD p.val || decide (p.val = 0)) := by
  rw [Thread.pred, Bool.or_comm]
  rfl

/-! ### Conditions -/

theorem icond_eq (c : ICond) (a b : Word) : icond c a b = condOf c a b := by
  have heq : (a = b) = (a.toNat = b.toNat) := propext BitVec.toNat_inj.symm
  cases c
  case eq => simp only [icond, condOf, ← heq, beq_eq_decide]
  case ne => simp only [icond, condOf, ← heq, ne_eq, decide_not, bne, beq_eq_decide]
  all_goals rfl

theorem combine_eq (m : Cmb) (old c : Bool) : combine m old c = joined m old c := by
  cases m
  case set => rfl
  case and => simp [combine, joined, Bool.decide_and]
  case or => simp [combine, joined, Bool.decide_or]

theorem execCmp_completes {o : OpCmp} {s s1 s2 : State} {a b : Word} (hg : s.cur.guardOn o.g = true)
    (ha : Gives (readS o.a) s a s1) (hb : Gives (operandB o.b) s1 b s2) :
    exec (.cmp o) s = .next ((s2.withPred o.pd
      (joined o.cmb (s.cur.preds.getLsbD o.pd.val || o.pd.val = 0) (condOf o.cond a b))).finished .seq) := by
  refine (issue_on _ _ _ hg).trans ?_
  rw [bind_ok _ _ _ _ _ (getCur_run s), bind_ok _ _ _ _ _ ha, bind_ok _ _ _ _ _ hb,
    bind_ok _ _ _ _ _ (writeP_run _ _ s2), pure_run, settle_seq, combine_eq, pred_eq, icond_eq]

theorem execPlog_completes {o : OpPlog} {s : State} (hg : s.cur.guardOn o.g = true) :
    exec (.plog o) s = .next ((s.withPred o.pd (o.lut.getLsbD
       ((if o.pa.val = 0 ∨ s.cur.preds.getLsbD o.pa.val = true then 2 else 0) +
        (if o.pb.val = 0 ∨ s.cur.preds.getLsbD o.pb.val = true then 1 else 0)))).finished .seq) := by
  have hread (p : PredNo) : (s.cur.pred p = true) = (p.val = 0 ∨ s.cur.preds.getLsbD p.val = true) := by
    simp [Thread.pred]
  refine (issue_on _ _ _ hg).trans ?_
  rw [bind_ok _ _ _ _ _ (getCur_run s), bind_ok _ _ _ _ _ (writeP_run _ _ s), pure_run, settle_seq, lutBit]
  simp only [hread]

/-! ### The value of FP32 bits -/

/-- The classes of FP32 bits by their exponent and fraction (08 R155, R156). -/
theorem fp32Val_eq (x : Nat) : fp32Val x =
    if x / 2 ^ 23 % 256 = 255 then
      if x % 2 ^ 23 = 0 then .inf (x / 2 ^ 31 % 2 == 1) else .nan (decide (x % 2 ^ 23 < 2 ^ 22))
    else if x / 2 ^ 23 % 256 = 0 then
      if x % 2 ^ 23 = 0 then .zero (x / 2 ^ 31 % 2 == 1)
      else .num (x / 2 ^ 31 % 2 == 1) (x % 2 ^ 23) (1 - ((127 : Nat) : Int) - (23 : Nat)) false
    else .num (x / 2 ^ 31 % 2 == 1) (2 ^ 23 + x % 2 ^ 23)
      (((x / 2 ^ 23 % 256 : Nat) : Int) - (127 : Nat) - (23 : Nat)) false := by
  have hexp : (fp32.hasInf && x / 2 ^ fp32.fb % 2 ^ fp32.eb == 2 ^ fp32.eb - 1) = decide (x / 2 ^ 23 % 256 = 255) := rfl
  have hpar : (fp32 == e4m3 && x / 2 ^ fp32.fb % 2 ^ fp32.eb == 15 && x % 2 ^ fp32.fb == 7) = false := rfl
  unfold fp32Val decodeFlt
  simp only [hexp, hpar, decide_eq_true_eq, Bool.false_eq_true, if_false]
  rfl

theorem isNan_fp32Val (x : Nat) : (fp32Val x).isNan = nan32 x := by
  rw [fp32Val_eq, nan32]
  by_cases he : x / 2 ^ 23 % 256 = 255
  · rw [if_pos he, decide_eq_true he]
    by_cases hf : x % 2 ^ 23 = 0
    · rw [if_pos hf]
      simp only [hf]
      rfl
    · rw [if_neg hf, decide_eq_true hf]
      rfl
  · rw [if_neg he, decide_eq_false he]
    split
    · split <;> rfl
    · rfl

theorem isSnan_fp32Val (x : Nat) : (fp32Val x).isSnan = snan32 x := by
  rw [snan32, ← isNan_fp32Val, fp32Val_eq]
  split
  · split <;> rfl
  · split
    · split <;> rfl
    · rfl

/-- A value that is zero or an exact number. -/
def FVal.Finite (v : FVal) : Prop := (∃ neg, v = .zero neg) ∨ ∃ neg m e, m ≠ 0 ∧ v = .num neg m e false

theorem fp32Val_finite {x : Nat} (h : finite32 x = true) : (fp32Val x).Finite := by
  simp only [finite32, Bool.and_eq_true, decide_eq_true_eq] at h
  rw [fp32Val_eq, if_neg (by omega)]
  split
  · split
    · exact .inl ⟨_, rfl⟩
    · next hf => exact .inr ⟨_, _, _, hf, rfl⟩
  · exact .inr ⟨_, _, _, by omega, rfl⟩

theorem FVal.Finite.not_nan {v : FVal} (h : v.Finite) : v.isNan = false := by
  obtain ⟨_, rfl⟩ | ⟨_, _, _, _, rfl⟩ := h <;> rfl

/-! ### Order of finite values -/

/-- A finite value in units of 2^e, where e is not above its exponent. -/
theorem scaled_mul_zpow {neg st : Bool} {m : Nat} {k e : Int} (h : e ≤ k) :
    ((FVal.num neg m k st).scaled e : ℚ) * 2 ^ e = (FVal.num neg m k st).rat := by
  have hpow : (2 : ℚ) ^ (k - e).toNat * 2 ^ e = 2 ^ k := by
    rw [← zpow_natCast, ← zpow_add₀ (by norm_num)]
    congr 1
    omega
  simp only [FVal.scaled, FVal.rat, ← hpow]
  cases neg
  · simp only [Bool.false_eq_true, if_false]
    push_cast
    ring
  · simp only [if_true]
    push_cast
    ring

/-- The sign of a number is that of what it stands for. -/
theorem rat_sign {neg st : Bool} {m : Nat} {e : Int} (h : m ≠ 0) :
    if neg then (FVal.num neg m e st).rat < 0 else 0 < (FVal.num neg m e st).rat := by
  have hpos : (0 : ℚ) < m * 2 ^ e := mul_pos (by exact_mod_cast Nat.pos_of_ne_zero h) (zpow_pos (by norm_num) e)
  cases neg
  · simpa [FVal.rat] using hpos
  · simpa [FVal.rat] using hpos

/-- Finite values are ordered as the numbers that they stand for. -/
theorem lt_eq_rat {x y : FVal} (hx : x.Finite) (hy : y.Finite) : x.lt y = decide (x.rat < y.rat) := by
  obtain ⟨_, rfl⟩ | ⟨a, m, j, hm, rfl⟩ := hx
  · obtain ⟨_, rfl⟩ | ⟨b, n, k, hn, rfl⟩ := hy
    · rfl
    · have hs := rat_sign (neg := b) (e := k) (st := false) hn
      cases b
      · exact (decide_eq_true hs).symm
      · exact (decide_eq_false (not_lt.mpr (le_of_lt hs))).symm
  · obtain ⟨_, rfl⟩ | ⟨b, n, k, hn, rfl⟩ := hy
    · have hs := rat_sign (neg := a) (e := j) (st := false) hm
      cases a
      · exact (decide_eq_false (not_lt.mpr (le_of_lt hs))).symm
      · exact (decide_eq_true hs).symm
    · have hunit : (0 : ℚ) < 2 ^ min j k := zpow_pos (by norm_num) _
      refine Bool.decide_congr ?_
      rw [← scaled_mul_zpow (min_le_left j k), ← scaled_mul_zpow (min_le_right j k), mul_lt_mul_iff_left₀ hunit]
      exact_mod_cast Iff.rfl

/-! ### The condition of FCMP and its NV (04 R93) -/

theorem snanFlag_or (x y : FVal) :
    snanFlag x ||| snanFlag y = if x.isSnan || y.isSnan then flagNV else 0 := by
  unfold snanFlag
  cases x.isSnan <;> cases y.isSnan <;> rfl

theorem fcond_flag (k : FCond) (x y : FVal) : (fcond k x y).2 =
    if (if k = .lt ∨ k = .le ∨ k = .gt ∨ k = .ge then x.isNan || y.isNan else x.isSnan || y.isSnan) then flagNV
    else 0 := by
  cases k
  case lt | le | gt | ge => rfl
  all_goals exact snanFlag_or x y

theorem fcond_nan {k : FCond} {x y : FVal} (h : (x.isNan || y.isNan) = true) :
    (fcond k x y).1 = (k == .ne || k == .un) := by
  cases k <;> simp only [fcond, h] <;> rfl

/-- Conditions of finite values over the numbers that they stand for (04 Table 4.12). -/
theorem fcond_finite {k : FCond} {x y : FVal} (hx : x.Finite) (hy : y.Finite) : (fcond k x y).1 = match k with
    | .eq => x.rat == y.rat
    | .ne => x.rat != y.rat
    | .lt => decide (x.rat < y.rat)
    | .le => decide (x.rat ≤ y.rat)
    | .gt => decide (y.rat < x.rat)
    | .ge => decide (y.rat ≤ x.rat)
    | .un => false
    | .ord => true := by
  have heq : (!decide (x.rat < y.rat) && !decide (y.rat < x.rat)) = decide (x.rat = y.rat) := by
    rw [← decide_not, ← decide_not, ← Bool.decide_and]
    exact Bool.decide_congr ⟨fun h => le_antisymm (not_lt.mp h.2) (not_lt.mp h.1), fun h => by simp [h]⟩
  cases k
  all_goals simp only [fcond, hx.not_nan, hy.not_nan, lt_eq_rat hx hy, lt_eq_rat hy hx, Bool.or_false, Bool.not_false,
    Bool.true_and, heq]
  case eq => rfl
  case ne => rfl
  case le => rw [← decide_not, Bool.decide_congr not_lt]
  case ge => rw [← decide_not, Bool.decide_congr not_lt]

/-! ### Operands -/

/-- A floating operand is the low half of what its register or literal gives (04 R89). -/
theorem fpOperand_run {b : SrcC} {s t : State} {w : Word} (h : Gives (operandZ b) s w t) :
    fpOperand b s = .ok (low32 w, t) :=
  (bind_ok _ _ _ _ _ h).trans rfl

/-- FCMP raises the NV of its condition and joins the condition into its predicate. -/
theorem execFcmp_completes {o : OpFcmp} {s s1 s2 : State} {a b : Word} (hg : s.cur.guardOn o.g = true)
    (ha : Gives (readS o.a) s a s1) (hb : Gives (operandZ o.b) s1 b s2) :
    exec (.fcmp o) s = .next (((s2.flagged (fcond o.cond (fp32Val (low32 a)) (fp32Val (low32 b))).2).withPred o.pd
      (joined o.cmb (s.cur.preds.getLsbD o.pd.val || o.pd.val = 0)
        (fcond o.cond (fp32Val (low32 a)) (fp32Val (low32 b))).1)).finished .seq) := by
  refine (issue_on _ _ _ hg).trans ?_
  rw [bind_ok _ _ _ _ _ (getCur_run s), bind_ok _ _ _ _ _ ha, bind_ok _ _ _ _ _ (fpOperand_run hb)]
  rw [bind_ok _ _ _ _ _ (raiseFlags_run _ s2), bind_ok _ _ _ _ _ (writeP_run _ _ _), pure_run, settle_seq, combine_eq,
    pred_eq]
  rfl

/-- Settles O14: CMP and FCMP join their condition, PLOG the bit of its table, into a predicate; the exact values of
finite FP32 numbers decide FCMP. -/
theorem comparesAndPredicateLogic : Obligations.ComparesAndPredicateLogic := by
  unfold Obligations.ComparesAndPredicateLogic
  refine ⟨fun o s s1 s2 a b hg ha hb => execCmp_completes hg ha hb, fun o s hg => execPlog_completes hg,
    fun o s s1 s2 a b hg ha hb => ⟨_, ?_, fun hun => fcond_nan ?_, fun hx hy =>
      fcond_finite (fp32Val_finite hx) (fp32Val_finite hy)⟩⟩
  · rw [← isNan_fp32Val, ← isNan_fp32Val, ← isSnan_fp32Val, ← isSnan_fp32Val, ← fcond_flag]
    exact execFcmp_completes hg ha hb
  · rw [isNan_fp32Val, isNan_fp32Val]
    exact hun

/-! ### Scalar FP32 results (04 R91, R92) -/

/-- A floating instruction completes where its body, with its operands read, writes its rounded result. -/
theorem fp_completes {x : FpForm} {i : Instr}
    (hrun : ∀ {s s1 s2 s3 : State} {a b c : Word}, Gives (checkDst x.d) s () s → Gives (readS x.a) s a s1 →
      Gives (readOpt operandZ x.b) s1 b s2 → Gives (readOpt readS x.c) s2 c s3 →
      let r := x.f s (low32 a) (low32 b) (low32 c)
      ∃ body, exec i s = issue x.g body s ∧ body s = writeRes x.d (BitVec.ofNat 64 r.bits) r.flags x.conv s3) :
    x.completes i := by
  intro s s1 s2 s3 t a b c fl hg hd ha hb hc r hw
  obtain ⟨body, hexec, hbody⟩ := hrun hd ha hb hc
  rw [hexec, issue_on _ _ _ hg, hbody, settle_writeRes hw]

/-- Two operands, rounded once. -/
theorem completes_fpArith {i : Instr} {o : OpFp2} {f : RCtx → FVal → FVal → FVal × Word}
    (hexec : ∀ s, exec i s = fpArith o f s) :
    FpForm.completes ⟨o.g, o.d, o.a, some o.b, none, true, fun s x y _ =>
      fpRound s o.rnd o.ovf fun c => f c (fp32Val x) (fp32Val y)⟩ i :=
  fp_completes fun hd ha hb hc => by
    obtain ⟨rfl, rfl⟩ := readOpt_none hc
    exact ⟨_, hexec _, (bind_ok _ _ _ _ _ hd).trans <| (bind_ok _ _ _ _ _ ha).trans <|
      bind_ok _ _ _ _ _ (fpOperand_run hb)⟩

theorem completes_fpMinMax {i : Instr} {o : OpFpMin} {max : Bool} (hexec : ∀ s, exec i s = fpMinMax o max s) :
    FpForm.completes ⟨o.g, o.d, o.a, some o.b, none, false, fun _ x y _ => minmaxVal (.flt fp32) max x y⟩ i :=
  fp_completes fun hd ha hb hc => by
    obtain ⟨rfl, rfl⟩ := readOpt_none hc
    exact ⟨_, hexec _, (bind_ok _ _ _ _ _ hd).trans <| (bind_ok _ _ _ _ _ ha).trans <|
      bind_ok _ _ _ _ _ (fpOperand_run hb)⟩

theorem fpForm_completes {i : Instr} {x : FpForm} (h : fpForm i = some x) : x.completes i := by
  cases i
  all_goals cases h
  case fadd => exact completes_fpArith (f := addVal) fun _ => rfl
  case fsub => exact completes_fpArith (f := fun c x y => addVal c x y.negate) fun _ => rfl
  case fmul => exact completes_fpArith (f := fun _ x y => mulVal x y) fun _ => rfl
  case fmin => exact completes_fpMinMax fun _ => rfl
  case fmax => exact completes_fpMinMax fun _ => rfl
  case ffma =>
    exact fp_completes fun hd ha hb hc => ⟨_, rfl, (bind_ok _ _ _ _ _ hd).trans <| (bind_ok _ _ _ _ _ ha).trans <|
      (bind_ok _ _ _ _ _ (fpOperand_run hb)).trans <| bind_ok _ _ _ _ _ hc⟩

/-- A conversion reads its source and writes its rounded result. -/
theorem convForm_runs {i : Instr} {g : Guard} {d : Dst} {a : SReg} {f : State → Word → Rounded}
    (h : convForm i = some (g, d, a, f)) {s s1 : State} {v : Word} (hd : Gives (checkDst d) s () s)
    (ha : Gives (readS a) s v s1) :
    ∃ body, exec i s = issue g body s ∧ body s = writeRes d (BitVec.ofNat 64 (f s v).bits) (f s v).flags true s1 := by
  cases i
  all_goals cases h
  all_goals exact ⟨_, rfl, (bind_ok _ _ _ _ _ hd).trans <| bind_ok _ _ _ _ _ ha⟩

/-- Settles O15: each rounds once, raises its flags and writes its result; a packet that the result closes holds the
thread, and CONVCNT with it. -/
theorem floatAndConversionResults : Obligations.FloatAndConversionResults := by
  unfold Obligations.FloatAndConversionResults
  refine ⟨fun i x h => fpForm_completes h, fun i g d a f h s s1 t v fl hg hd ha hw => ?_⟩
  obtain ⟨body, hexec, hbody⟩ := convForm_runs h hd ha
  rw [hexec, issue_on _ _ _ hg, hbody, settle_writeRes hw]

end Sys2Proof.Machine
end

section
/-! TRAP and BKPT (O20): the trap, the breakpoint to the kernel handler, and the stop of a thread and of its cluster
(04 R74, 14 R276, R281, R282). -/

namespace Sys2Proof.Machine

theorem State.core_modCore_other (s : State) {c k : Nat} (f : Core → Core) (h : k ≠ c) :
    (s.modCore c f).core k = s.core k :=
  congrArg (Option.getD · Core.reset) (tabGet_tabSet_other s.cores c k (f (s.core c)) h)

/-! ### Cluster stops on their way -/

theorem mem_insertStop {l : List StopMsg} {m x : StopMsg} : x ∈ insertStop l m ↔ x = m ∨ x ∈ l := by
  induction l with
  | nil => simp [insertStop]
  | cons y r ih =>
    rw [insertStop]
    split
    · simp
    · rw [List.mem_cons, ih, List.mem_cons, or_left_comm]

/-- From `s` to `t` cores have been sent stops, and nothing else has changed. -/
structure StopsSent (s t : State) : Prop where
  frame : t = { s with cores := t.cores }
  core : ∀ k, t.core k = { s.core k with pendStop := (t.core k).pendStop }
  kept : ∀ k m, m ∈ (s.core k).pendStop → m ∈ (t.core k).pendStop

theorem StopsSent.refl (s : State) : StopsSent s s := ⟨rfl, fun _ => rfl, fun _ _ h => h⟩

theorem StopsSent.trans {s t u : State} (h1 : StopsSent s t) (h2 : StopsSent t u) : StopsSent s u where
  frame := h2.frame.trans (by rw [h1.frame])
  core k := (h2.core k).trans (by rw [h1.core k])
  kept k m h := h2.kept k m (h1.kept k m h)

theorem StopsSent.mem {s t : State} (h : StopsSent s t) : t.mem = s.mem := by rw [h.frame]

theorem StopsSent.threads {s t : State} (h : StopsSent s t) : t.threads = s.threads := by rw [h.frame]

theorem StopsSent.poolGroup {s t : State} (h : StopsSent s t) (k : Nat) : t.poolGroup k = s.poolGroup k := by
  rw [h.frame]
  rfl

theorem StopsSent.cycle {s t : State} (h : StopsSent s t) (k : Nat) : (t.core k).cycle = (s.core k).cycle := by
  rw [h.core k]

/-- A core `k` is sent the stop or resume of a trigger core `c`, of pool group `g`. -/
def State.sendStop (c g : Nat) (stop : Bool) (origin unit : Nat) (s : State) (k : Nat) : State :=
  let lag := if s.poolGroup k = g then 4 else 12
  let h := if stop then s.holders k else []
  s.modCore k fun x => { x with
    pendStop := insertStop x.pendStop ⟨x.cycle + lag, x.cycle, stop, origin, unit, c % 128, h⟩ }

theorem State.clusterCommand_eq (s : State) (c : Nat) (stop : Bool) (origin unit : Nat) :
    s.clusterCommand c stop origin unit =
      ((clusterCores (clusterOf c)).filter s.coreEnabled).foldl (sendStop c (s.poolGroup c) stop origin unit) s := rfl

section
variable (c g : Nat) (stop : Bool) (origin unit : Nat)

/-- The stop that a core is sent. -/
theorem State.mem_sendStop (s : State) (k : Nat) :
    ∃ m ∈ ((s.sendStop c g stop origin unit k).core k).pendStop, m.stop = stop ∧ m.origin = origin ∧
      m.unit = unit ∧ m.ocore = c % 128 ∧ m.due = (s.core k).cycle + (if s.poolGroup k = g then 4 else 12) := by
  rw [State.sendStop, State.core_modCore_same]
  exact ⟨_, mem_insertStop.mpr (.inl rfl), rfl, rfl, rfl, rfl, rfl⟩

theorem State.sendStop_sent (s : State) (k : Nat) : StopsSent s (s.sendStop c g stop origin unit k) := by
  refine ⟨rfl, fun j => ?_, fun j m h => ?_⟩
  · by_cases hj : j = k
    · subst hj
      rw [State.sendStop, State.core_modCore_same]
    · rw [State.sendStop, State.core_modCore_other _ _ hj]
  · by_cases hj : j = k
    · subst hj
      rw [State.sendStop, State.core_modCore_same]
      exact mem_insertStop.mpr (.inr h)
    · rwa [State.sendStop, State.core_modCore_other _ _ hj]

theorem State.foldl_sendStop_sent (l : List Nat) (s : State) :
    StopsSent s (l.foldl (sendStop c g stop origin unit) s) := by
  induction l generalizing s with
  | nil => exact .refl s
  | cons k l ih => exact (s.sendStop_sent c g stop origin unit k).trans (ih _)

/-- Each core of the list is sent its stop, due by its own cycle and pool group. -/
theorem State.mem_foldl_sendStop {l : List Nat} {k : Nat} (hk : k ∈ l) (s : State) :
    ∃ m ∈ ((l.foldl (sendStop c g stop origin unit) s).core k).pendStop, m.stop = stop ∧ m.origin = origin ∧
      m.unit = unit ∧ m.ocore = c % 128 ∧ m.due = (s.core k).cycle + (if s.poolGroup k = g then 4 else 12) := by
  obtain ⟨l1, l2, rfl⟩ := List.append_of_mem hk
  rw [List.foldl_append, List.foldl_cons]
  have hbefore := s.foldl_sendStop_sent c g stop origin unit l1
  generalize l1.foldl (sendStop c g stop origin unit) s = t at hbefore ⊢
  obtain ⟨m, hm, hfields⟩ := t.mem_sendStop c g stop origin unit k
  rw [hbefore.cycle, hbefore.poolGroup] at hfields
  exact ⟨m, (State.foldl_sendStop_sent c g stop origin unit l2 _).kept k m hm, hfields⟩

end

theorem State.clusterCommand_sent (s : State) (c : Nat) (stop : Bool) (origin unit : Nat) :
    StopsSent s (s.clusterCommand c stop origin unit) := State.foldl_sendStop_sent ..

theorem mem_clusterCores {k cl : Nat} : k ∈ clusterCores cl ↔ clusterOf k = cl := by
  simp only [clusterCores, clusterOf, List.mem_map, List.mem_range]
  constructor
  · rintro ⟨i, hi, rfl⟩
    omega
  · intro h
    exact ⟨k % 128, by omega, by omega⟩

/-! ### The stop of a thread -/

/-- What DSTAT says of a stop of one thread. -/
theorem dstatStop_fields (d : Word) {origin unit ocore : Nat} (cycle : Nat) (ho : origin < 8) (hu : unit < 4)
    (hc : ocore < 128) :
    bits (dstatStop d origin unit ocore cycle false) 6 4 = origin ∧
      bits (dstatStop d origin unit ocore cycle false) 9 8 = unit ∧
      bits (dstatStop d origin unit ocore cycle false) 16 10 = ocore ∧
      bits (dstatStop d origin unit ocore cycle false) 63 32 = cycle % 2 ^ 32 := by
  have hmod (w : Word) : setBits w 63 32 cycle = setBits w 63 32 (cycle % 2 ^ 32) := by simp [setBits]
  simp only [dstatStop, hmod, Bool.false_eq_true, if_false]
  refine ⟨?_, ?_, ?_, bits_setBits (by decide) (by decide) (Nat.mod_lt _ (by decide))⟩
  · rw [bits_setBits_apart (by decide) (by decide) (by decide), bits_setBits_apart (by decide) (by decide) (by decide),
      bits_setBits_apart (by decide) (by decide) (by decide)]
    exact bits_setBits (by decide) (by decide) ho
  · rw [bits_setBits_apart (by decide) (by decide) (by decide), bits_setBits_apart (by decide) (by decide) (by decide)]
    exact bits_setBits (by decide) (by decide) hu
  · rw [bits_setBits_apart (by decide) (by decide) (by decide)]
    exact bits_setBits (by decide) (by decide) hc

/-- A thread that holds slot `n`, stopped with its slot reserved. -/
def Thread.stoppedIn (t : Thread) (n cause : Nat) : Thread :=
  { t with life := .stopped, rslot := some n, dbg := cause, alone := false, stepping := false }

/-- A core whose DSTAT records the stop of one of its threads. -/
def Core.noteStopped (x : Core) (c origin unit : Nat) : Core :=
  { x with dbg := { x.dbg with dstat := dstatStop x.dbg.dstat origin unit (c % 128) x.cycle false } }

/-- The word of DSTAT is made opaque, so that comparing the two cores does not evaluate it. -/
theorem Core.noteStopped_pendStop (x : Core) (c origin unit : Nat) :
    (x.noteStopped c origin unit).pendStop = x.pendStop := by
  unfold Core.noteStopped
  generalize dstatStop x.dbg.dstat origin unit (c % 128) x.cycle false = d
  rfl

/-- The running thread whose turn it is stops. -/
theorem State.stopThread_issuing {s : State} {n : Nat} (hb : s.busy = true) (hl : s.cur.life = .running n)
    (cause origin unit : Nat) :
    s.stopThread s.cur cause origin unit =
      { s with cur := s.cur.stoppedIn n cause }.modCore s.cur.core fun x => x.noteStopped s.cur.core origin unit := by
  have hcan : s.cur.canStop = true := by rw [Thread.canStop, hl]
  have hstop : s.cur.stop cause = s.cur.stoppedIn n cause := by
    rw [Thread.stop, hl]
    rfl
  rw [State.stopThread, hcan, hstop, State.putThread, hb]
  simp [Thread.stoppedIn, Core.noteStopped]

/-- A cause that a debugger takes: cluster stops are on their way with DCTL.SCL, and then its thread stops. -/
theorem State.debugCause_stops {s : State} {n : Nat} (hd : (s.core s.cur.core).dbg.dctl.getLsbD 0 = true)
    (hb : s.busy = true) (hl : s.cur.life = .running n) (c : Cause) (pc : Word) (i0 i1 : Option Word) (unit : Nat) :
    ∃ s', s' = (if (s.core s.cur.core).dbg.dctl.getLsbD 1 then s.clusterCommand s.cur.core true 4 unit else s) ∧
      StopsSent s s' ∧ s.debugCause c pc i0 i1 unit =
        { s' with cur := s.cur.stoppedIn n (causeCode c).toNat }.modCore s.cur.core
          fun x => x.noteStopped s.cur.core 4 unit := by
  refine ⟨_, rfl, ?_, ?_⟩
  · split
    · exact s.clusterCommand_sent _ _ _ _
    · exact .refl s
  · rw [State.debugCause, if_pos hd]
    split
    · have hsent := s.clusterCommand_sent s.cur.core true 4 unit
      have hcur : (s.clusterCommand s.cur.core true 4 unit).cur = s.cur := by rw [hsent.frame]
      have hbusy : (s.clusterCommand s.cur.core true 4 unit).busy = s.busy := by rw [hsent.frame]
      rw [State.stopThread_issuing (hbusy.trans hb) (hcur ▸ hl), hcur]
    · exact State.stopThread_issuing hb hl _ _ _

/-! ### TRAP and BKPT -/

theorem settle_trapped (s t : State) : s.settle (.ok (.trapped, t)) = { t with flow := .trapped } := rfl

section
variable {o : OpAC} {s s1 s2 : State} {code a : Word} (hg : s.cur.guardOn o.g = true)
  (hcode : Gives (operandZ o.code) s code s1) (ha : Gives (readS o.a) s1 a s2)
include hg hcode ha

theorem execTrap_raises : exec (.trap o) s = .next (s2.takeTrap .software (some code) (some a)) := by
  refine (issue_on _ _ _ hg).trans ?_
  rw [bind_ok _ _ _ _ _ hcode, bind_ok _ _ _ _ _ ha, trapW_run, settle_trap]

theorem execBkpt_raises : exec (.bkpt o) s =
    .next { s2.debugCause .breakpoint s2.cur.pc (some code) (some a) 0 with flow := .trapped } := by
  refine (issue_on _ _ _ hg).trans ?_
  rw [bind_ok _ _ _ _ _ hcode, bind_ok _ _ _ _ _ ha, bind_ok _ _ _ _ _ (modS_run _ _), pure_run, settle_trapped]

end

/-- Without a debugger the kernel handler is entered. -/
theorem State.debugCause_traps {s : State} {c : Cause} (hd : (s.core s.cur.core).dbg.dctl.getLsbD 0 = false)
    (hready : KernelReady s) (hc : c ≠ .registerEcc) (pc i0 i1 : Word) (unit : Nat) :
    s.debugCause c pc (some i0) (some i1) unit =
      s.updCur fun t => t.toKernel ⟨causeWord s c, pc, i0, i1⟩ (s.mem.word s.vectorKey) := by
  rw [← deliverToKernel_ready hready hc, State.debugCause, if_neg (ne_true_of_eq_false hd)]
  rfl

/-- What the stop of the running thread `n` at a debug cause of unit `unit` leaves, from `s`. -/
structure StoppedAt (s t : State) (n cause unit : Nat) : Prop where
  cur : t.cur = s.cur.stoppedIn n cause
  mem : t.mem = s.mem
  threads : t.threads = s.threads
  stat : (t.core s.cur.core).dbg.dstat = dstatStop (s.core s.cur.core).dbg.dstat 4 unit (s.cur.core % 128)
    (s.core s.cur.core).cycle false
  alone : (s.core s.cur.core).dbg.dctl.getLsbD 1 = false → ∀ k, k ≠ s.cur.core → t.core k = s.core k
  sent : (s.core s.cur.core).dbg.dctl.getLsbD 1 = true → ∀ k, clusterOf k = clusterOf s.cur.core →
    s.coreEnabled k = true → ∃ m ∈ (t.core k).pendStop, m.stop = true ∧ m.origin = 4 ∧ m.unit = unit ∧
      m.ocore = s.cur.core % 128 ∧ m.due = (s.core k).cycle + (if s.poolGroup k = s.poolGroup s.cur.core then 4 else 12)

theorem State.debugCause_stoppedAt {s : State} {n : Nat} (hd : (s.core s.cur.core).dbg.dctl.getLsbD 0 = true)
    (hb : s.busy = true) (hl : s.cur.life = .running n) (c : Cause) (pc : Word) (i0 i1 : Option Word) (unit : Nat) :
    StoppedAt s (s.debugCause c pc i0 i1 unit) n (causeCode c).toNat unit := by
  obtain ⟨s', hs', hsent, hrun⟩ := State.debugCause_stops hd hb hl c pc i0 i1 unit
  rw [hrun]
  have hown := State.core_modCore_same { s' with cur := s.cur.stoppedIn n (causeCode c).toNat } s.cur.core
    fun x => x.noteStopped s.cur.core 4 unit
  have hother (k : Nat) (hk : k ≠ s.cur.core) :=
    State.core_modCore_other { s' with cur := s.cur.stoppedIn n (causeCode c).toNat }
      (fun x => x.noteStopped s.cur.core 4 unit) hk
  refine ⟨rfl, hsent.mem, hsent.threads, ?_, fun hscl k hk => ?_, fun hscl k hcl hen => ?_⟩
  · rw [hown, ← hsent.cycle]
    have hstat : (s'.core s.cur.core).dbg.dstat = (s.core s.cur.core).dbg.dstat := by rw [hsent.core]
    rw [← hstat]
    rfl
  · have hsame : s' = s := by rw [hs', if_neg (ne_true_of_eq_false hscl)]
    rw [hother k hk, hsame]
    rfl
  · have hall : s' = s.clusterCommand s.cur.core true 4 unit := by rw [hs', if_pos hscl]
    have hmem : k ∈ (clusterCores (clusterOf s.cur.core)).filter s.coreEnabled :=
      List.mem_filter.mpr ⟨mem_clusterCores.mpr hcl, hen⟩
    obtain ⟨m, hm, hfields⟩ := State.mem_foldl_sendStop s.cur.core (s.poolGroup s.cur.core) true 4 unit hmem s
    rw [← State.clusterCommand_eq, ← hall] at hm
    refine ⟨m, ?_, hfields⟩
    by_cases hk : k = s.cur.core
    · subst hk
      rw [hown, Core.noteStopped_pendStop]
      exact hm
    · rw [hother k hk]
      exact hm

/-- Settles O20: BKPT is a trap to the kernel handler, or the stop of its thread after those of its cluster are sent. -/
theorem trapAndBreakpointInstructions : Obligations.TrapAndBreakpointInstructions := by
  unfold Obligations.TrapAndBreakpointInstructions
  intro o s s1 s2 code a hg hcode ha
  refine ⟨execTrap_raises hg hcode ha, fun hd hready => ?_, fun n hd hb hl => ?_⟩
  · obtain ⟨hppl, hkinh, hpl, -⟩ := kernelStatus_fields s2.cur.status
    refine ⟨_, execBkpt_raises hg hcode ha, ?_⟩
    rw [State.debugCause_traps hd hready (by decide)]
    generalize s2.mem.word s2.vectorKey = v
    exact ⟨rfl, rfl, hpl, hppl, hkinh⟩
  · intro c
    refine ⟨_, execBkpt_raises hg hcode ha, rfl, ?_⟩
    obtain ⟨hcur, hmem, hthreads, hstat, halone, hsent⟩ :=
      State.debugCause_stoppedAt hd hb hl .breakpoint s2.cur.pc (some code) (some a) 0
    obtain ⟨horigin, hunit, hocore, hat⟩ := dstatStop_fields (s2.core c).dbg.dstat (origin := 4) (unit := 0)
      (s2.core c).cycle (by decide) (by decide) (Nat.mod_lt c (by decide : 0 < 128))
    rw [← hstat] at horigin hunit hocore hat
    exact ⟨hcur, horigin, hunit, hocore, hat, hmem, hthreads, halone, hsent⟩

end Sys2Proof.Machine
end

section
/-! YIELD, CHKPT, TRACEW, CNTR and PREF (O23): 04 R77, R78, 20 R396, R397, 07 R150. -/

namespace Sys2Proof.Machine

/-! ### CHKPT -/

theorem closeAt_run {s t : State} {sc : Scope} {ps : List PhaseId} (h : s.closePhases s.cur.core sc = some (ps, t)) :
    closeAt sc s = .ok (ps, t) := by
  rw [closeAt, h]

/-- Where nothing is outstanding the instruction goes on at once, unless an error is deferred. -/
theorem afterPhases_nil {s : State} (h : s.cur.errRec = none) (next : Comp) (acq : Bool) (now : M Flow) :
    afterPhases [] next acq now s = now s := by
  have hraise : raiseDeferred s = .ok ((), s) := by rw [raiseDeferred, h]
  exact bind_ok _ _ _ _ _ hraise

theorem execChkpt_completes {o : OpC} {s s1 s2 : State} {id : Word} (hg : s.cur.guardOn o.g = true)
    (hid : Gives (operandZ o.b) s id s1) (hpending : s1.ownPending s1.cur.tid = false)
    (hclose : s1.closePhases s1.cur.core .dev = some ([], s2)) (herr : s2.cur.errRec = none) :
    exec (.chkpt o) s =
      .next (((s2.updCur fun t => { t with lines := [] }).checkpoint id).finished .seq) := by
  refine (issue_on _ _ _ hg).trans ?_
  rw [bind_ok _ _ _ _ _ hid, bind_ok _ _ _ _ _ (get_run s1), if_neg (ne_true_of_eq_false hpending)]
  beta_reduce
  rw [bind_ok _ _ _ _ _ (closeAt_run hclose), afterPhases_nil herr]
  rfl

/-! ### TRACEW -/

theorem execTracew_completes {o : OpTracew} {s s1 s2 : State} {v b : Word} (hg : s.cur.guardOn o.g = true)
    (hv : Gives (readS o.a) s v s1) (hb : Gives (operandZ o.b) s1 b s2) :
    exec (.tracew o) s = .next ((if s2.traceOn 2 then s2.emit (coreSrc s2.cur.core) 3
      [s2.cur.pc, s2.cur.famid, s2.cur.index, o.chan.setWidth 64, v, b] else s2).finished .seq) := by
  refine (issue_on _ _ _ hg).trans ?_
  rw [bind_ok _ _ _ _ _ hv, bind_ok _ _ _ _ _ hb]
  rfl

/-! ### CNTR -/

theorem getElem_setVec {n : Nat} (v : Vector Word n) (i : Fin n) (w : Word) : (setVec v i.val w)[i] = w := by
  simp [setVec]

theorem State.cluster_modCluster_same (s : State) (c : Nat) (f : Cluster → Cluster) :
    (s.modCluster c f).cluster c = f (s.cluster c) :=
  congrArg (Option.getD · Cluster.reset) (tabGet_tabSet_same s.clusters c (f (s.cluster c)))

/-- The bank has answered with counter `n`, and cleared it with `clr` (20 R397). -/
def State.counterRead (s : State) (n : Word) (clr : Bool) : State :=
  let cl := clusterOf s.cur.core
  let v := (s.cluster cl).counts.toList.getD n.toNat 0
  let s := if clr then s.modCluster cl fun c => { c with counts := setVec c.counts n.toNat 0 } else s
  s.answer s.cur.tid 0 (.ok v 0) 0 (bankHome cl)

theorem State.counterRead_replies (s : State) {n : Word} {k : Fin 16} (hk : n.toNat = k.val) (clr : Bool) :
    (s.counterRead n clr).replies = s.replies ++ [⟨s.cur.tid, 0,
      .ok ((s.cluster (clusterOf s.cur.core)).counts[k]) 0, 0, bankHome (clusterOf s.cur.core), s.stamp⟩] := by
  rw [State.counterRead, hk, getD_toList]
  cases clr <;> rfl

theorem State.counterRead_clears (s : State) {n : Word} {k : Fin 16} (hk : n.toNat = k.val) :
    ((s.counterRead n true).cluster (clusterOf s.cur.core)).counts[k] = 0 := by
  have hcluster : (s.counterRead n true).cluster (clusterOf s.cur.core) =
      (s.modCluster (clusterOf s.cur.core) fun c => { c with counts := setVec c.counts n.toNat 0 }).cluster
        (clusterOf s.cur.core) := rfl
  rw [hcluster, State.cluster_modCluster_same, hk]
  exact getElem_setVec _ k 0

/-- The thread waits with reason 4 for the answer of its bank. -/
theorem execCntr_asks {o : OpCntr} {s s1 : State} {n : Word} {k : Fin 16} (hg : s.cur.guardOn o.g = true)
    (hd : Gives (checkDst o.d) s () s) (hn : Gives (operandZ o.n) s n s1) (hk : n.toNat = k.val)
    (hallow : s1.tableAllows (targetBank (clusterOf s1.cur.core)) (clusterMaster s1.cur.core) true o.clr false = true)
    (hpacket : s1.cur.packet = none) :
    exec (.cntr o) s = .next { (s1.counterRead n o.clr).updCur
      (fun x => { x with life := .waiting, wait := some ⟨4, some (.reg o.d), false, 0⟩ }) with flow := .held } := by
  have hpacket' : s.cur.packet = none :=
    (Thread.of_part Thread.packet (Reads.operandZ _ _ _ _ hn).context fun _ => rfl).symm.trans hpacket
  have hrange : decide (n.toNat ≤ 15) = true := by
    have hlt := k.isLt
    simp only [decide_eq_true_eq]
    omega
  refine (issue_on _ _ _ hg).trans ?_
  rw [bind_ok _ _ _ _ _ hd, bind_ok _ _ _ _ _ hn, hrange, bind_ok _ _ _ _ _ (orTrap_true _ _ _ _),
    bind_ok _ _ _ _ _ (get_run s1), hallow, bind_ok _ _ _ _ _ (orTrap_true _ _ _ _),
    bind_ok _ _ _ _ _ (modS_run _ _), holdFor_run, settle_heldFor _ _ _ _ _ _ hpacket']
  rfl

/-- Settles O23: each of the five run on its operands; the counter of CNTR is that of its bank. -/
theorem hintsMarkersAndCounters : Obligations.HintsMarkersAndCounters := by
  unfold Obligations.HintsMarkersAndCounters
  refine ⟨fun o s hg => ⟨_, issue_on _ _ _ hg, rfl, rfl, rfl⟩, fun o s s1 s2 id hg hid hpending _ hclose herr =>
    execChkpt_completes hg hid hpending hclose herr, fun o s s1 s2 v b hg hv hb => execTracew_completes hg hv hb,
    fun o s s1 n k hg hd hn hk hallow hpacket => ?_, fun o s hg => issue_on _ _ _ hg⟩
  refine ⟨_, execCntr_asks hg hd hn hk hallow hpacket, rfl, rfl, s1.counterRead_replies hk o.clr, fun hclr => ?_⟩
  rw [hclr]
  exact s1.counterRead_clears hk

end Sys2Proof.Machine
end

section
/-! What the end of a thread leaves as it was (O27): its turn and its name, and the families, through every relation
that it settles (04 R72, 05 R112, 17 R345, 12 R250). -/

namespace Sys2Proof.Machine

/-! ### A thread whose turn it is, on its way out -/

/-- An ended thread, with no claim and no wait. -/
def Thread.Gone (t : Thread) : Prop := t.life = .ended ∧ t.claim = none ∧ t.wait = none

/-- Thread `T` has its turn, no other has its name, the families are `F`, and with `e` it is gone. -/
structure State.Leaving (T : Nat) (F : List (Nat × Fam)) (e : Bool) (s : State) : Prop where
  busy : s.busy = true
  tid : s.cur.tid = T
  others : ∀ p ∈ s.threads, p.2.tid ≠ T
  fams : s.fams = F
  gone : e = true → s.cur.Gone

namespace State.Leaving

section
variable {T : Nat} {F : List (Nat × Fam)} {e : Bool} {s : State} (h : s.Leaving T F e)
include h

theorem of_eq {t : State} (hcur : t.cur = s.cur) (hbusy : t.busy = s.busy) (hthreads : t.threads = s.threads)
    (hfams : t.fams = s.fams) : t.Leaving T F e where
  busy := hbusy.trans h.busy
  tid := hcur ▸ h.tid
  others := hthreads ▸ h.others
  fams := hfams.trans h.fams
  gone := hcur ▸ h.gone

/-! ### Changes of threads -/

theorem of_cur {u : Thread} (htid : u.tid = T) (hgone : e = true → u.Gone) :
    State.Leaving T F e { s with cur := u } :=
  ⟨h.busy, htid, h.others, h.fams, hgone⟩

theorem of_tabSet {k : Nat} {u : Thread} (htid : u.tid ≠ T) :
    State.Leaving T F e { s with threads := tabSet s.threads k u } where
  busy := h.busy
  tid := h.tid
  others p hp := (mem_tabSet hp).elim (h.others p) fun hp => hp ▸ htid
  fams := h.fams
  gone := h.gone

theorem putThread {u : Thread} (hgone : e = true → u.tid = T → u.Gone) : (s.putThread u).Leaving T F e := by
  unfold State.putThread
  split
  · next hcur =>
    have htid : s.cur.tid = u.tid := by simpa using (Bool.and_eq_true_iff.mp hcur).2
    exact h.of_cur (htid.symm.trans h.tid) fun he => hgone he (htid.symm.trans h.tid)
  · next hcur =>
    refine h.of_tabSet fun htid => hcur ?_
    rw [h.busy, h.tid, htid]
    simp

theorem modThread {tid : Nat} {f : Thread → Thread} (htid : ∀ t, (f t).tid = t.tid)
    (hgone : e = true → tid = T → ∀ t : Thread, t.Gone → (f t).Gone) : (s.modThread tid f).Leaving T F e := by
  unfold State.modThread
  split
  · next hcur =>
    have hname : s.cur.tid = tid := by simpa using (Bool.and_eq_true_iff.mp hcur).2
    exact h.of_cur ((htid _).trans h.tid) fun he => hgone he (hname.symm.trans h.tid) _ (h.gone he)
  · split
    · next u hu => exact h.of_tabSet (htid u ▸ h.others _ (mem_of_tabGet hu))
    · exact h

theorem gone_of_mem {u : Thread} (hu : u ∈ s.allThreads) (he : e = true) (htid : u.tid = T) : u.Gone := by
  simp only [State.allThreads, h.busy, if_true, List.mem_append, List.mem_singleton, List.mem_map] at hu
  rcases hu with rfl | ⟨p, hp, rfl⟩
  · exact h.gone he
  · exact absurd htid (h.others p hp)

theorem gone_of_thread? {k : Nat} {u : Thread} (hu : s.thread? k = some u) (he : e = true) (htid : u.tid = T) :
    u.Gone := by
  unfold State.thread? at hu
  split at hu
  · cases hu
    exact h.gone he
  · exact absurd htid (h.others _ (mem_of_tabGet hu))

theorem mapThreads {f : Thread → Thread} (htid : ∀ t, (f t).tid = t.tid)
    (hgone : e = true → ∀ t : Thread, t.Gone → (f t).Gone) : (s.mapThreads f).Leaving T F e := by
  unfold State.mapThreads
  rw [h.busy]
  refine ⟨rfl, (htid _).trans h.tid, fun p hp => ?_, h.fams, fun he => hgone he _ (h.gone he)⟩
  obtain ⟨q, hq, rfl⟩ := List.mem_map.mp hp
  exact htid q.2 ▸ h.others q hq

theorem wake {tid : Nat} (hne : e = true → tid ≠ T) : (s.wake tid).Leaving T F e := by
  refine h.modThread (fun t => ?_) fun he htid => absurd htid (hne he)
  dsimp only
  split
  · rfl
  · split
    · rfl
    · split <;> rfl

/-! ### Words, monitors and traces -/

theorem withEdges (l : List Edge) : State.Leaving T F e { s with edges := l } := h.of_eq rfl rfl rfl rfl

theorem withDefers (l : List Defer) : State.Leaving T F e { s with defers := l } := h.of_eq rfl rfl rfl rfl

theorem setObj (k : Nat) (o : Obj) : (s.setObj k o).Leaving T F e := h.of_eq rfl rfl rfl rfl

theorem answer (tid elem : Nat) (r : Result) (va : Word) (home : Nat) :
    (s.answer tid elem r va home).Leaving T F e := h.of_eq rfl rfl rfl rfl

theorem writeAs (mid k : Nat) (l : List Word) : (s.writeAs mid k l).Leaving T F e := by
  induction l generalizing s k with
  | nil => exact h
  | cons w r ih =>
    rw [State.writeAs]
    refine ih ?_ _
    split
    · refine h.of_eq ?_ ?_ ?_ ?_ <;>
      · unfold State.useBanks
        split <;> rfl
    · exact h

theorem putHeader (k : Nat) (w : Word) : (s.putHeader k w).Leaving T F e := h.of_eq rfl rfl rfl rfl

theorem modObj (k : Nat) (f : Obj → Obj) : (s.modObj k f).Leaving T F e := h.of_eq rfl rfl rfl rfl

theorem setHomeMons (l : Loc) (m c : List MonEntry) : (s.setHomeMons l m c).Leaving T F e := by
  cases l <;> exact h.of_eq rfl rfl rfl rfl

theorem disarmAt (line tid idx : Nat) : (s.disarmAt line tid idx).Leaving T F e :=
  (h.setHomeMons (locOfKey (line * 64)) _ _).of_eq rfl rfl rfl rfl

theorem passNetTime (src : Nat) : (s.passNetTime src).Leaving T F e := by
  unfold State.passNetTime
  split
  · exact h
  · exact h.of_eq rfl rfl rfl rfl

theorem traceBarrier (k : Nat) (va : Word) (ph n : Nat) : (s.traceBarrier k va ph n).Leaving T F e := by
  unfold State.traceBarrier
  split
  · exact (h.passNetTime (s.homeSrc (locOfKey k))).of_eq rfl rfl rfl rfl
  · exact h

theorem modLaunch (k : Nat) (f : Launch → Launch) : (s.modLaunch k f).Leaving T F e :=
  h.of_eq (by simp) (by simp) (by simp) (by simp)

theorem report (launch event : Nat) (who addr : Word) (info : List Word) :
    (s.report launch event who addr info).Leaving T F e := (h.modLaunch launch _).of_eq rfl rfl rfl rfl

/-! ### Priorities and edges -/

theorem refreshPrio (tid : Nat) : (s.refreshPrio tid).Leaving T F e :=
  h.modThread (fun _ => rfl) fun _ _ _ hg => hg

theorem stepPrio (obj : Nat) : (s.stepPrio obj).Leaving T F e :=
  List.foldlRecOn _ _ h fun _ hs t _ => hs.refreshPrio t

theorem setUntr (tid : Nat) : (s.setUntr tid).Leaving T F e := by
  unfold State.setUntr
  split
  · exact h
  · next t ht =>
    have hgone : e = true → t.tid = T → t.Gone := h.gone_of_thread? ht
    have hput : (s.putThread { t with status := t.status ||| 0x40 }).Leaving T F e := h.putThread hgone
    dsimp only
    split
    · exact hput
    · exact hput.writeAs _ _ _

theorem untrack (x : Edge) : (s.untrack x).Leaving T F e := by
  have hedge : State.Leaving T F e
      { s.modDie x.die (fun d => { d with overflow := min (d.overflow + 1) 0xFFFFFFFF }) with
        edges := s.edges ++ [{ x with tracked := false }] } := h.of_eq rfl rfl rfl rfl
  unfold State.untrack
  dsimp only
  split
  · exact hedge.setUntr _
  · exact hedge

theorem holdIn (die tid obj : Nat) (name : Word) (side : Bool) : (s.holdIn die tid obj name side).Leaving T F e := by
  unfold State.holdIn
  dsimp only
  split
  · exact h
  · split
    · exact (h.withEdges _).refreshPrio _
    · exact h.untrack _

theorem syncHolds (obj : Nat) : (s.syncHolds obj).Leaving T F e := by
  unfold State.syncHolds
  split
  · exact h
  · extract_lets s1 due gone left s2 s3
    have h3 : s3.Leaving T F e :=
      List.foldlRecOn _ _ ((h.withEdges _).withEdges _) fun _ hs t _ => hs.refreshPrio t
    exact (List.foldlRecOn (motive := State.Leaving T F e) _ _ h3 fun _ hs (d, t, b) _ =>
      hs.holdIn d t obj _ b).stepPrio obj

theorem removeWait (tid obj : Nat) : (s.removeWait tid obj).Leaving T F e :=
  ((h.withEdges _).syncHolds obj).stepPrio obj

theorem removeHold (tid obj : Nat) : (s.removeHold tid obj).Leaving T F e :=
  (h.withEdges _).refreshPrio tid

theorem dropRegistration (tid : Nat) : (s.dropRegistration tid).Leaving T F e := by
  unfold State.dropRegistration
  split
  · exact h
  · next t ht =>
    split
    · exact h
    · have hgone : e = true → t.tid = T → t.Gone := h.gone_of_thread? ht
      exact ((h.withEdges _).putThread (u := { t with wreg := none }) hgone).stepPrio _

/-! ### Objects -/

theorem releaseWaiter (k : Nat) (w : ObjWaiter) (r : Result) : (s.releaseWaiter k w r).Leaving T F e :=
  (h.removeWait w.tid k).answer _ _ _ _ _

theorem releaseWhere (k : Nat) (p : ObjWaiter → Bool) (r : ObjWaiter → Result) :
    (s.releaseWhere k p r).Leaving T F e :=
  List.foldlRecOn _ _ (h.setObj k _) fun _ hs w _ => hs.releaseWaiter k w _

theorem barComplete (k : Nat) : (s.barComplete k).Leaving T F e :=
  ((List.foldlRecOn _ _ (((h.traceBarrier k _ _ _).putHeader k _).modObj k _)
    fun _ hs t _ => hs.removeHold t k).releaseWhere k _ _).stepPrio k

theorem barSettle (k : Nat) : (s.barSettle k).Leaving T F e := by
  unfold State.barSettle
  dsimp only
  split
  · exact h.barComplete k
  · exact h

theorem barDrop (k : Nat) (p : Party) : (s.barDrop k p).Leaving T F e := by
  unfold State.barDrop
  refine State.Leaving.barSettle ?_ k
  split
  · exact (h.putHeader k _).modObj k _
  · exact ((h.putHeader k _).modObj k _).removeHold _ k

theorem barTrap (k : Nat) (c : Cause) (who : Word) : (s.barTrap k c who).Leaving T F e :=
  (h.modObj k _).releaseWhere k _ _

theorem barEnd (k tid : Nat) : (s.barEnd k tid).Leaving T F e := by
  unfold State.barEnd
  split
  · exact h
  · next p _ =>
    split
    · exact h
    · split
      · exact h.barDrop k p
      · have hparty := ((h.modObj k fun o => { o with parties := o.parties.filter fun x => x.tid != tid }).removeHold
          tid k).putHeader k (setBit (s.mem.word k) 5 true)
        dsimp only
        split
        · exact hparty
        · exact hparty.barTrap k _ _

theorem handOver (k : Nat) (abnd : Bool) : (s.handOver k abnd).Leaving T F e := by
  unfold State.handOver
  dsimp only
  split
  · exact (h.putHeader k _).modObj k _
  · exact (((((h.putHeader k _).modObj k _).removeWait _ k).holdIn _ _ k _ false).answer _ _ _ _ k).stepPrio k

theorem loseHolder (k tid : Nat) (abnd : Bool) : (s.loseHolder k tid abnd).Leaving T F e :=
  (((h.modObj k _).removeHold tid k).putHeader k _).releaseWhere k _ _

theorem withdrawAt (k tid : Nat) : (s.withdrawAt k tid).Leaving T F e := by
  unfold State.withdrawAt
  generalize (s.obj k).waiters.find? (fun w => w.tid == tid) = found
  cases found with
  | none => exact h
  | some w =>
    have hleft : ((s.dropWaiter k tid).removeWait tid k).Leaving T F e := (h.modObj k _).removeWait tid k
    obtain ⟨_, _, kind⟩ := w
    cases kind with
    | lock => exact hleft.putHeader k _
    | push => exact hleft.putHeader k _
    | pop => exact hleft.putHeader k _
    | barrier ph arrived =>
      cases arrived with
      | true => exact hleft.modObj k _
      | false => exact hleft
    | epoch => exact hleft

theorem undefer (k tid : Nat) : (s.undefer k tid).Leaving T F e := by
  unfold State.undefer
  dsimp only
  split
  · exact (h.withDefers _).removeWait _ _
  · exact h.of_eq rfl rfl rfl rfl

theorem withdrawWait (tid : Nat) : (s.withdrawWait tid).Leaving T F e := by
  unfold State.withdrawWait
  extract_lets s1 s2
  have h1 : s1.Leaving T F e := by
    unfold s1
    split
    · next d _ =>
      dsimp only
      split
      · exact (h.undefer d.key tid).of_eq rfl rfl rfl rfl
      · exact h.undefer d.key tid
    · exact h
  have h2 : s2.Leaving T F e := List.foldlRecOn _ _ h1 fun _ hs k _ => hs.withdrawAt k tid
  split
  · exact h2.removeWait tid _
  · exact h2

theorem endAt (tid k : Nat) : (s.endAt tid k).Leaving T F e := by
  unfold State.endAt
  split
  · split
    · exact h
    · exact h.barEnd k tid
  · split
    · exact (h.removeHold tid k).handOver k true
    · exact h
  · exact (h.modObj k _).removeHold tid k
  · split
    · exact h.loseHolder k tid true
    · exact h
  · exact h

theorem endRelations (tid : Nat) : (s.endRelations tid).Leaving T F e :=
  (List.foldlRecOn (motive := State.Leaving T F e) _ _ ((h.withdrawWait tid).dropRegistration tid)
    fun _ hs k _ => hs.endAt tid k).withEdges _

/-! ### The end of its pool use -/

theorem clearHold (launch c : Nat) : (s.clearHold launch c).Leaving T F e := by
  unfold State.clearHold
  split
  · exact h.of_eq rfl rfl rfl rfl
  · exact h

end

end State.Leaving

namespace State.Leaving

/-! ### Before the thread is gone: waits that end, and what it kept -/

section
variable {T : Nat} {F : List (Nat × Fam)} {s : State} (h : s.Leaving T F false)
include h

theorem wakeAny (tid : Nat) : (s.wake tid).Leaving T F false := h.wake fun he => nomatch he

theorem putAny (u : Thread) : (s.putThread u).Leaving T F false := h.putThread fun he => nomatch he

theorem modAny {f : Thread → Thread} (tid : Nat) (htid : ∀ t, (f t).tid = t.tid) :
    (s.modThread tid f).Leaving T F false := h.modThread htid fun he => nomatch he

theorem wakeWhere (p : Thread → Bool) : (s.wakeWhere p).Leaving T F false :=
  List.foldlRecOn _ _ h fun _ hs u _ => hs.wakeAny u.tid

theorem modCore (c : Nat) (f : Core → Core) : (s.modCore c f).Leaving T F false := h.of_eq rfl rfl rfl rfl

theorem modCluster (c : Nat) (f : Cluster → Cluster) : (s.modCluster c f).Leaving T F false := h.of_eq rfl rfl rfl rfl

theorem changedWord (k : Nat) (w : Word) (t : Tag) : ((s.putWord k w t).changed k).Leaving T F false :=
  h.of_eq rfl rfl rfl rfl

theorem dropPacket (c id : Nat) : (s.dropPacket c id).Leaving T F false := by
  unfold State.dropPacket
  split
  · exact h
  · exact ((h.modCore c _).modCore c _).wakeWhere _

theorem reportRecords (t : Thread) : (s.reportRecords t).Leaving T F false := by
  unfold State.reportRecords
  cases t.errRec with
  | none =>
    cases t.copyRec with
    | none => exact h
    | some r => exact h.report _ _ _ _ _
  | some q =>
    cases t.copyRec with
    | none => exact h.report _ _ _ _ _
    | some r => exact (h.report _ _ _ _ _).report _ _ _ _ _

theorem parkMons (t : Thread) : (s.parkMons t).Leaving T F false := by
  unfold State.parkMons
  refine List.foldlRecOn _ _ h fun u hu i _ => ?_
  split
  · exact (hu.disarmAt _ _ _).modAny _ fun _ => rfl
  · exact hu

theorem leaveGroups (tid : Nat) : (s.leaveGroups tid).Leaving T F false := h.of_eq rfl rfl rfl rfl

/-! ### Rings, arrays and what was kept for an instruction (12 R250) -/

theorem serveArrays (cl fuel : Nat) : (s.serveArrays cl fuel).Leaving T F false := by
  induction fuel generalizing s with
  | zero => exact h.syncHolds _
  | succ j ih =>
    unfold State.serveArrays
    split
    · exact ih ((h.modCluster cl _).wakeAny _)
    · exact h.syncHolds _

theorem publish (cl n x : Nat) : (s.publish cl n x).Leaving T F false := by
  unfold State.publish
  split
  · exact h
  · exact ((h.modCluster cl _).wakeWhere _).syncHolds _

theorem release (cl n x : Nat) : (s.release cl n x).Leaving T F false := by
  unfold State.release
  split
  · exact h
  · exact ((h.modCluster cl _).wakeWhere _).syncHolds _

theorem publishVoid (launch core : Nat) (p : RingRes) : (s.publishVoid launch core p).Leaving T F false := by
  unfold State.publishVoid
  split
  · exact h
  · extract_lets a key
    clear_value key
    refine State.Leaving.publish ?_ _ _ _
    cases key with
    | none => exact h
    | some k => exact List.foldlRecOn _ _ h fun _ hs j _ => hs.changedWord _ _ _

theorem endMatrix (t : Thread) : (s.endMatrix t).Leaving T F false := by
  unfold State.endMatrix
  extract_lets s1 s2 cl s3
  have h1 : s1.Leaving T F false := List.foldlRecOn _ _ h fun _ hs p _ => hs.publishVoid _ _ p
  have h2 : s2.Leaving T F false := List.foldlRecOn _ _ h1 fun _ hs p _ => hs.release _ _ _
  exact (h2.modCluster cl _).serveArrays cl 8

theorem dropArrays (t : Thread) : (s.dropArrays t).Leaving T F false := by
  unfold State.dropArrays
  dsimp only
  split
  · exact (h.modCluster _ _).serveArrays _ 8
  · exact h

theorem dropCopy (t : Thread) : (s.dropCopy t).Leaving T F false := by
  unfold State.dropCopy
  split
  · exact h
  · refine State.Leaving.wakeWhere ?_ _
    exact h.modAny t.tid fun _ => rfl

theorem withBins (l : List (Nat × BinSet)) : State.Leaving T F false { s with bins := l } := h.of_eq rfl rfl rfl rfl

theorem dropBins (t : Thread) : (s.dropBins t).Leaving T F false :=
  List.foldlRecOn (motive := State.Leaving T F false) _ _ h fun _ hs _ _ => (hs.withBins _).wakeWhere _

theorem dropReserved (t : Thread) : (s.dropReserved t).Leaving T F false :=
  ((h.dropArrays t).dropCopy t).dropBins t

/-! ### Its frame -/

theorem relink (core : Nat) (old new : Word) : (s.relink core old new).Leaving T F false := by
  unfold State.relink
  split
  · exact h
  · split
    · exact h
    · exact (h.writeAs _ _ _).putAny _

theorem dropFrame (t : Thread) : (s.dropFrame t).Leaving T F false := by
  unfold State.dropFrame
  split
  · exact h
  · split
    · exact h.of_eq rfl rfl rfl rfl
    · exact h.relink _ _ _

theorem mapAny {f : Thread → Thread} (htid : ∀ t, (f t).tid = t.tid) : (s.mapThreads f).Leaving T F false :=
  h.mapThreads htid fun he => nomatch he

theorem lowerGuests (t : Thread) : (s.lowerGuests t).Leaving T F false := by
  unfold State.lowerGuests
  split
  · refine h.mapAny fun u => ?_
    split <;> rfl
  · exact h

/-! ### The families, and the end -/

theorem dropFaults (p : Waiter → Bool) : (s.dropFaults p).Leaving T F false := h.of_eq rfl rfl rfl rfl

theorem withFams (F' : List (Nat × Fam)) : State.Leaving T F' false { s with fams := F' } :=
  ⟨h.busy, h.tid, h.others, rfl, h.gone⟩

/-- The thread is gone. -/
theorem ends {f : Thread → Thread} (htid : ∀ t, (f t).tid = t.tid) (hgone : ∀ t, (f t).Gone) :
    (s.modThread T f).Leaving T F true := by
  have hcur : (s.busy && s.cur.tid == T) = true := by simp [h.busy, h.tid]
  rw [State.modThread, if_pos hcur]
  exact ⟨h.busy, (htid _).trans h.tid, h.others, h.fams, fun _ => hgone _⟩

end

/-! ### Once it is gone: the pool goes on without it -/

section
variable {T : Nat} {F : List (Nat × Fam)} {s : State} (h : s.Leaving T F true)
include h

/-- A thread of a pool group is another one. -/
theorem poolThread_other {g : Nat} {u : Thread} (hu : u ∈ s.poolThreads g) : u.tid ≠ T := fun htid => by
  obtain ⟨hmem, hlife⟩ := List.mem_filter.mp hu
  obtain ⟨hended, -, -⟩ := h.gone_of_mem hmem rfl htid
  simp [hended] at hlife

end

end State.Leaving

theorem leastBy_mem {α : Type} {key : α → Nat} {l : List α} {x : α} (h : leastBy key l = some x) : x ∈ l := by
  induction l generalizing x with
  | nil => cases h
  | cons y r ih =>
    unfold leastBy at h
    split at h
    · cases h
      exact List.mem_cons_self
    · next z hz =>
      split at h <;> cases h
      · exact List.mem_cons_self
      · exact List.mem_cons_of_mem _ (ih hz)

namespace State.Leaving
section
variable {T : Nat} {F : List (Nat × Fam)}

theorem servePool {s : State} (h : s.Leaving T F true) (g fuel : Nat) : (s.servePool g fuel).Leaving T F true := by
  induction fuel generalizing s with
  | zero => exact h
  | succ j ih =>
    unfold State.servePool
    split
    · exact h
    · next u hu =>
      have hother : u.tid ≠ T := h.poolThread_other (List.mem_filter.mp (leastBy_mem hu)).1
      split
      · exact h
      · split
        · exact h
        · next n _ =>
          exact ih ((h.putThread (u := { u with laneRes := some n }) fun _ htid => absurd htid hother).wake
            fun _ => hother)

theorem lanesFreed {s : State} (h : s.Leaving T F true) (g : Nat) : (s.lanesFreed g).Leaving T F true :=
  (h.servePool g _).syncHolds _

end
end State.Leaving

/-! ### The families of a thread that ends -/

theorem mem_setInsert_self (l : List Nat) (n : Nat) : n ∈ setInsert l n := by
  induction l with
  | nil => exact List.mem_singleton_self n
  | cons m r ih =>
    unfold setInsert
    split
    · exact List.mem_cons_self
    · split
      · next hnm => exact hnm ▸ List.mem_cons_self
      · exact List.mem_cons_of_mem _ ih

theorem tabGet_map {α : Type} (f : α → α) (l : List (Nat × α)) (k : Nat) :
    tabGet (l.map fun (i, v) => (i, f v)) k = (tabGet l k).map f := by
  induction l with
  | nil => rfl
  | cons p r ih =>
    obtain ⟨j, v⟩ := p
    simp only [List.map_cons, tabGet]
    split
    · rfl
    · exact ih

theorem Fam.orphan_ended (f : Fam) (tid : Nat) : (f.orphan tid).ended = f.ended := by
  unfold Fam.orphan
  split <;> rfl

/-- The families once member `k` of family `fk`, thread `T`, has ended. -/
def famsWithout (F : List (Nat × Fam)) (fk k T : Nat) : List (Nat × Fam) :=
  (match tabGet F fk with
    | some x => tabSet F fk { x with ended := setInsert x.ended k }
    | none => F).map fun (i, f) => (i, Fam.orphan f T)

/-- The family counts the member among the ended. -/
theorem famsWithout_ended {F : List (Nat × Fam)} {fk : Nat} {f : Fam} (hf : tabGet F fk = some f) (k T : Nat) :
    ∃ g, tabGet (famsWithout F fk k T) fk = some g ∧ k ∈ g.ended := by
  rw [famsWithout, hf]
  refine ⟨_, (tabGet_map (Fam.orphan · T) _ fk).trans
    (congrArg (Option.map (Fam.orphan · T)) (tabGet_tabSet_same _ _ _)), ?_⟩
  rw [Fam.orphan_ended]
  exact mem_setInsert_self _ _

/-! ### Retiring -/

section
variable {T : Nat} {F : List (Nat × Fam)} {s : State} (h : s.Leaving T F false)
include h

theorem State.Leaving.modFam_ended (fk k : Nat) :
    ((s.modFam fk fun f => { f with ended := setInsert f.ended k }).fams.map fun (i, f) => (i, Fam.orphan f T)) =
      famsWithout F fk k T := by
  unfold State.modFam famsWithout
  rw [h.fams]
  generalize tabGet F fk = found
  cases found with
  | none => simp only [h.fams]
  | some x => rfl

theorem State.Leaving.modFam (fk : Nat) (g : Fam → Fam) : (s.modFam fk g).Leaving T (s.modFam fk g).fams false := by
  unfold State.modFam
  generalize tabGet s.fams fk = found
  cases found with
  | none => exact h.withFams _
  | some x => exact h.withFams _

end

/-- The thread whose turn it is retires: it is gone, and its family counts its member among the ended. -/
theorem State.retire_leaves {s : State} (hb : s.busy = true) (hothers : ∀ p ∈ s.threads, p.2.tid ≠ s.cur.tid) :
    (s.retire s.cur.tid).Leaving s.cur.tid (famsWithout s.fams s.cur.fam s.cur.k s.cur.tid) true := by
  have h0 : s.Leaving s.cur.tid s.fams false := ⟨hb, rfl, hothers, rfl, fun he => nomatch he⟩
  have hfind : s.thread? s.cur.tid = some s.cur := by simp [State.thread?, hb]
  unfold State.retire
  split
  · next hnone => cases hfind.symm.trans hnone
  · next t ht =>
    obtain rfl : s.cur = t := Option.some.inj (hfind.symm.trans ht)
    extract_lets s1 s2 s3 s4 s5 s6 s7 s8 s9 s10 s11
    have h1 : s1.Leaving s.cur.tid s.fams false := (h0.reportRecords s.cur).parkMons s.cur
    have h2 : s2.Leaving s.cur.tid s.fams false := by
      unfold s2
      split
      · exact h1.dropPacket _ _
      · exact h1
    have h3 : s3.Leaving s.cur.tid s.fams false :=
      (((h2.endRelations _).leaveGroups _).dropReserved _).endMatrix _
    have h4 : s4.Leaving s.cur.tid s.fams false := (h3.dropFrame _).lowerGuests _
    have h5 := h4.modFam s.cur.fam fun f => { f with ended := setInsert f.ended s.cur.k }
    have h6 : s6.Leaving s.cur.tid (famsWithout s.fams s.cur.fam s.cur.k s.cur.tid) false :=
      ⟨h5.busy, h5.tid, h5.others, h4.modFam_ended _ _, h5.gone⟩
    have h8 : s8.Leaving s.cur.tid (famsWithout s.fams s.cur.fam s.cur.k s.cur.tid) false :=
      (h6.dropFaults _).mapAny fun u => by
        split <;> rfl
    have h10 : s10.Leaving s.cur.tid (famsWithout s.fams s.cur.fam s.cur.k s.cur.tid) true :=
      (h8.modLaunch _ _).ends (fun _ => rfl) fun _ => ⟨rfl, rfl, rfl⟩
    have h11 : s11 = s10 := if_pos (by simp [h10.busy, h10.tid])
    rw [h11]
    exact (h10.lanesFreed _).clearHold _ _

/-! ### EXIT and BREAK (O27) -/

/-- The shareds of a thread's window. -/
def Thread.shareds (t : Thread) : List (Fin 16) := (List.finRange 16).filter fun n => n.val < t.win.s

/-- With a packet open no member ends. -/
theorem endMember_packetOpen {s : State} (h : s.cur.packet.isSome = true) (brk : Bool) :
    endMember brk s = .error (.trap .packetOpen (some 0) (some 0) s) := by
  unfold endMember
  rw [bind_ok _ _ _ _ _ (getCur_run s), if_pos h, bind_error _ _ _ _ (trapW_run _ _ _ s)]

section
variable {s s1 : State} (hpacket : s.cur.packet = none)
include hpacket

theorem endMember_exit
    (hcheck : Gives (checkShareds false s.cur.shareds) s () s)
    (hsettle : Gives (settleShareds false s.cur.shareds) s () s1) :
    endMember false s = .ok (.gone, s1.endThread s.cur.tid) := by
  unfold endMember
  rw [bind_ok _ _ _ _ _ (getCur_run s), if_neg (by simp [hpacket])]
  exact (bind_ok _ _ _ _ _ (get_run s)).trans <| (bind_ok _ _ _ _ _ hcheck).trans <| bind_ok _ _ _ _ _ hsettle

theorem endMember_break {f : Fam} (hf : s.fam? s.cur.fam = some f)
    (hcheck : Gives (checkShareds (!f.killed && !f.beyond s.cur.k) s.cur.shareds) s () s)
    (hsettle : Gives (settleShareds (!f.killed && !f.beyond s.cur.k) s.cur.shareds)
      (s.modFam s.cur.fam fun f => f.breakAt s.cur.k) () s1) :
    endMember true s = .ok (.gone, (s1.killBeyond s.cur.fam).endThread s.cur.tid) := by
  unfold endMember
  rw [bind_ok _ _ _ _ _ (getCur_run s), if_neg (by simp [hpacket])]
  refine (bind_ok _ _ _ _ _ (get_run s)).trans ?_
  rw [hf]
  refine (bind_ok _ _ _ _ _ hcheck).trans ?_
  rw [if_pos rfl, bind_ok _ _ _ _ _ (modS_run _ s)]
  exact bind_ok _ _ _ _ _ hsettle

end

theorem issue_endMember {g : Guard} {brk : Bool} {s : State} {r : Except Stop (Flow × State)}
    (hg : s.cur.guardOn g = true) (hrun : endMember brk s = r) :
    issue g (endMember brk) s = .next (s.settle r) := by
  rw [issue_on _ _ _ hg, hrun]

/-- A thread that has no host ends as it retires. -/
theorem State.endThread_issuing {s : State} (hb : s.busy = true) (hhost : s.cur.host = none) :
    s.endThread s.cur.tid = s.retire s.cur.tid := by
  have hfind : s.thread? s.cur.tid = some s.cur := by simp [State.thread?, hb]
  rw [State.endThread, hfind]
  dsimp only
  rw [hhost]

/-- Settles O27: EXIT and BREAK run to the end of their thread, which leaves it gone and counted by its family. -/
theorem membersEndAndAreGone : Obligations.MembersEndAndAreGone := by
  unfold Obligations.MembersEndAndAreGone
  refine ⟨fun o s hg => ⟨fun hopen => ⟨?_, ?_⟩, fun hpacket => ⟨fun s1 hcheck hsettle => ?_,
    fun s1 f hf hcheck hsettle => ?_⟩⟩, fun s f hb hhost hf hothers => ?_⟩
  · exact issue_endMember hg (endMember_packetOpen hopen false)
  · exact issue_endMember hg (endMember_packetOpen hopen true)
  · exact issue_endMember hg (endMember_exit hpacket hcheck hsettle)
  · exact issue_endMember hg (endMember_break hpacket hf hcheck hsettle)
  · have hleft := State.retire_leaves hb hothers
    rw [← State.endThread_issuing hb hhost] at hleft
    obtain ⟨hlife, hclaim, hwait⟩ := hleft.gone rfl
    refine ⟨hlife, hclaim, hwait, ?_⟩
    rw [State.fam?, hleft.fams]
    exact famsWithout_ended hf s.cur.k s.cur.tid

end Sys2Proof.Machine
end

section
/-! Words of the spec and what they decode to (O1): 02 Table 2.4. -/

namespace Sys2Proof.Machine

/-- Settles O1: the decoder is run on each of the written words. -/
theorem specWordsDecode : Obligations.SpecWordsDecode := by
  unfold Obligations.SpecWordsDecode
  decide +kernel

end Sys2Proof.Machine
end

section
/-! FSET, FPUTG and FPUTS (O24): the open record and the field that they stage (05 R96, R101, R102). -/

namespace Sys2Proof.Machine

/-! ### The open record -/

/-- The machine once the issuing thread has an open record. -/
def State.opened (s : State) : State := s.updCur fun t => { t with openRec := true }

theorem State.opened_of_open {s : State} (h : s.cur.openRec = true) : s.opened = s := by
  have hcur : ({ s.cur with openRec := true } : Thread) = s.cur := by rw [← h]
  show { s with cur := { s.cur with openRec := true } } = s
  rw [hcur]

/-- A staging instruction finds its record open, or opens a free one. -/
theorem openRecord_opens {s : State} (h : s.cur.openRec = true ∨ s.freeRecords s.cur.launch ≠ 0) :
    openRecord s = .ok ((), s.opened) := by
  unfold openRecord
  split
  · next hopen => rw [State.opened_of_open hopen]
  · next hclosed => exact if_neg (h.resolve_left hclosed)

theorem openRecord_full {s : State} (hclosed : s.cur.openRec = false) (hfull : s.freeRecords s.cur.launch = 0) :
    openRecord s = .error (.trap .familyAreaFull (some 0) none s) := by
  unfold openRecord
  rw [if_neg (ne_true_of_eq_false hclosed), if_pos hfull]

/-- A staging instruction with its record open goes on as the rest of its body does. -/
theorem issue_staging {g : Guard} {s t : State} {rest : M Flow} (hg : s.cur.guardOn g = true)
    (h : s.cur.openRec = true ∨ s.freeRecords s.cur.launch ≠ 0) (hrun : rest s.opened = .ok (.seq, t)) :
    issue g (openRecord >>= fun _ => rest) s = .next (t.finished .seq) := by
  rw [issue_on _ _ _ hg, bind_ok _ _ _ _ _ (openRecord_opens h), hrun, settle_seq]

/-- Where no record is free it traps. -/
theorem issue_staging_full {g : Guard} {s : State} {rest : M Flow} (hg : s.cur.guardOn g = true)
    (hclosed : s.cur.openRec = false) (hfull : s.freeRecords s.cur.launch = 0) :
    issue g (openRecord >>= fun _ => rest) s = .next (s.takeTrap .familyAreaFull (some 0) none) := by
  rw [issue_on _ _ _ hg, bind_error _ _ _ _ (openRecord_full hclosed hfull), settle_trap]

/-! ### The staged field -/

/-- A literal ENTRY counts slots from the FSET (05 R101). -/
theorem fsetValue_literalEntry {o : OpFset} {s : State} {l : BitVec 32} (hfield : o.field = .entry)
    (hb : o.b = .lit l) :
    fsetValue o s = .ok (slotAdd s.cur.pc l.toInt, s) := by
  unfold fsetValue
  rw [bind_ok _ _ _ _ _ (getCur_run s), hfield, hb]
  rfl

/-- Any other value is that of its operand. -/
theorem fsetValue_operand {o : OpFset} {s s1 : State} {v : Word}
    (hother : o.field ≠ .entry ∨ ∀ l, o.b ≠ .lit l) (hv : Gives (operandB o.b) s v s1) :
    fsetValue o s = .ok (v, s1) := by
  unfold fsetValue
  rw [bind_ok _ _ _ _ _ (getCur_run s)]
  refine (congrFun ?_ s).trans hv
  split
  · next l hfield hb => exact (hother.elim (· hfield) (· l hb)).elim
  · rfl

/-- Settles O24: with its record open an instruction reads its value and stages it; with none free it traps. -/
theorem stagingFillsTheOpenRecord : Obligations.StagingFillsTheOpenRecord := by
  unfold Obligations.StagingFillsTheOpenRecord
  refine ⟨fun s h => ⟨fun o s1 v hg hv => ?_, fun o s1 v hg hv => ⟨?_, ?_⟩⟩, fun s hclosed hfull =>
    ⟨fun o hg => issue_staging_full hg hclosed hfull,
      fun o hg => ⟨issue_staging_full hg hclosed hfull, issue_staging_full hg hclosed hfull⟩⟩⟩
  · have hrun : fsetValue o s.opened = .ok (v, s1) := by
      rcases hv with ⟨l, hfield, hb, rfl, rfl⟩ | ⟨hother, hv⟩
      · exact fsetValue_literalEntry hfield hb
      · exact fsetValue_operand hother hv
    refine (issue_staging hg h (bind_ok _ _ _ _ _ hrun)).trans ?_
    cases o.field <;> rfl
  · exact issue_staging hg h (bind_ok _ _ _ _ _ hv)
  · exact issue_staging hg h (bind_ok _ _ _ _ _ hv)

end Sys2Proof.Machine
end

section
/-! CREATE (O25): its checks, the record it takes and what becomes of the family (05 R97, R98, R100, R103, R108). -/

namespace Sys2Proof.Machine

/-! ### The checks, in their order -/

theorem orTrap_passes {α : Type} {b : Bool} (hb : b = true) (c : Cause) (x y : Word) (f : Unit → M α) (s : State) :
    (orTrap b c x y >>= f) s = f () s := by
  rw [hb, bind_ok _ _ _ _ _ (orTrap_true _ _ _ _)]

theorem orTrap_fails {α : Type} {b : Bool} (hb : b = false) (c : Cause) (x y : Word) (f : Unit → M α) (s : State) :
    (orTrap b c x y >>= f) s = .error (.trap c (some x) (some y) s) := by
  rw [hb, bind_error _ _ _ _ (orTrap_false _ _ _ _)]

/-- The checks of CREATE end in a trap with these words. -/
def State.CreateRefuses (s : State) (c : Cause) (x y : Word) : Prop :=
  createChecks s = .error (.trap c (some x) (some y) s)

/-! ### The record -/

/-- The machine once CREATE has taken a record and its generation (log 39). -/
def State.takeRecord (s : State) : State :=
  let (r, s) := s.pickRecord s.cur.launch
  (s.takeGen s.cur.launch r).2

/-- The family that CREATE records, in the record that it takes. -/
def State.newFamily (s : State) (f : Fam) : Fam :=
  let (r, t) := s.pickRecord s.cur.launch
  { f with launch := s.cur.launch, record := r, gen := (t.takeGen s.cur.launch r).1, queued := s.stamp }

/-- The machine with the family recorded, its creator one family further. -/
def State.recorded (s : State) (f : Fam) : State :=
  ({ s.takeRecord with
      stamp := s.stamp + 1
      fams := tabSet s.takeRecord.fams s.stamp (s.newFamily f) } : State).updCur fun t => { t with cseq := t.cseq + 1 }

section
variable (s : State) (k r : Nat)

theorem State.takeGen_cur : (s.takeGen k r).2.cur = s.cur := by
  unfold State.takeGen
  split
  · rfl
  · exact s.modLaunch_cur _ _

theorem State.takeGen_threads : (s.takeGen k r).2.threads = s.threads := by
  unfold State.takeGen
  split
  · rfl
  · exact s.modLaunch_threads _ _

theorem State.takeGen_mem : (s.takeGen k r).2.mem = s.mem := by
  unfold State.takeGen
  split
  · rfl
  · exact s.modLaunch_mem _ _

theorem State.takeGen_stamp : (s.takeGen k r).2.stamp = s.stamp := by
  unfold State.takeGen
  split
  · rfl
  · exact s.modLaunch_stamp _ _

end

theorem State.takeRecord_stamp (s : State) : s.takeRecord.stamp = s.stamp := State.takeGen_stamp _ _ _

theorem State.recorded_fam (s : State) (f : Fam) : (s.recorded f).fam? s.stamp = some (s.newFamily f) :=
  tabGet_tabSet_same _ _ _

theorem State.recorded_cur (s : State) (f : Fam) : (s.recorded f).cur = { s.cur with cseq := s.cur.cseq + 1 } := by
  have h : s.takeRecord.cur = s.cur := State.takeGen_cur _ _ _
  show { s.takeRecord.cur with cseq := s.takeRecord.cur.cseq + 1 } = _
  rw [h]

theorem State.recorded_threads (s : State) (f : Fam) : (s.recorded f).threads = s.threads := State.takeGen_threads _ _ _

theorem State.recorded_mem (s : State) (f : Fam) : (s.recorded f).mem = s.mem := State.takeGen_mem _ _ _

/-! ### The instruction -/

theorem trapIn_ok {α : Type} {m : M α} {s0 s t : State} {a : α} (h : m s = .ok (a, t)) :
    trapIn s0 m s = .ok (a, t) := by
  rw [trapIn, h]

section
variable {o : OpD} {s : State} (hg : s.cur.guardOn o.g = true) (hd : Gives (checkDst o.d) s () s)
include hg hd

theorem execCreate_refused {c : Cause} {x y : Word} (h : s.CreateRefuses c x y) :
    exec (.create o) s = .next (s.takeTrap c (some x) (some y)) := by
  refine (issue_on _ _ _ hg).trans ?_
  rw [bind_ok _ _ _ _ _ (get_run s), bind_ok _ _ _ _ _ hd, bind_error _ _ _ _ h, settle_trap]

variable {l : Launch} {f : Fam} (hchecks : createChecks s = .ok ((l, f), s)) (hnow : s.adoptsNow l f = false)
  (hlaunch : f.launch = s.cur.launch) (hfree : s.freeRecords s.cur.launch ≠ 0)
include hchecks hnow hlaunch hfree

/-- With the checks passed and no need to adopt, CREATE records the family and writes its handle; then its members
start, or, where the handle closes a packet, it waits for the packet to leave (05 R103). -/
theorem execCreate_records : ∃ rest : Flow → M Flow,
    exec (.create o) s = .next (s.settle ((trapIn s (writeD o.d (s.newFamily f).handle) >>= rest) (s.recorded f))) ∧
      (rest .seq = modS (fun u => u.familyMade s.stamp) >>= fun _ => pure .seq) ∧
      rest .held = holdFor 11 0 (.txeFam s.stamp) false := by
  apply Exists.intro
  refine ⟨(issue_on _ _ _ hg).trans (congrArg (fun r => Host.Outcome.next (s.settle r)) ?_), ?_⟩
  · rw [bind_ok _ _ _ _ _ (get_run s), bind_ok _ _ _ _ _ hd, bind_ok _ _ _ _ _ hchecks]
    refine (bind_ok _ _ _ _ _ (get_run s)).trans ?_
    have hfresh : ((s.pickRecord s.cur.launch).2.takeGen s.cur.launch (s.pickRecord s.cur.launch).1).2.stamp =
        s.stamp := s.takeRecord_stamp
    rw [hnow, hlaunch, if_neg hfree, if_neg Bool.false_ne_true]
    dsimp only [State.fresh]
    rw [hfresh, bind_ok _ _ _ _ _ (set_run _ s)]
    rfl
  · exact ⟨rfl, rfl⟩

theorem execCreate_written {u : State} (hw : Gives (writeD o.d (s.newFamily f).handle) (s.recorded f) .seq u) :
    exec (.create o) s = .next ((u.familyMade s.stamp).finished .seq) := by
  obtain ⟨rest, hrun, hseq, -⟩ := execCreate_records hg hd hchecks hnow hlaunch hfree
  rw [hrun, bind_ok _ _ _ _ _ (trapIn_ok hw), hseq, bind_ok _ _ _ _ _ (modS_run _ u), pure_run, settle_seq]

theorem execCreate_held {u : State} (hw : Gives (writeD o.d (s.newFamily f).handle) (s.recorded f) .held u) :
    ∃ t, exec (.create o) s = .next t ∧ t.flow = .held ∧ t.cur.life = .waiting ∧
      t.cur.wait = some ⟨11, some (.txeFam s.stamp), false, 0⟩ := by
  obtain ⟨rest, hrun, -, hheld⟩ := execCreate_records hg hd hchecks hnow hlaunch hfree
  rw [hrun, bind_ok _ _ _ _ _ (trapIn_ok hw), hheld]
  exact ⟨_, congrArg Host.Outcome.next (if_neg (by simp [State.waitBarred, Thread.waitReason])), rfl, rfl, rfl⟩

end

/-! ### What becomes of the family -/

theorem State.familyMade_empty {u : State} {fk : Nat} {f : Fam} (hf : u.fam? fk = some f) (hn : f.n = 0) :
    (u.familyMade fk).fam? fk = some f.endEmpty := by
  have hmod : u.modFam fk Fam.endEmpty = { u with fams := tabSet u.fams fk f.endEmpty } := by
    rw [State.modFam, show tabGet u.fams fk = some f from hf]
  rw [State.familyMade, hf]
  dsimp only
  rw [if_pos hn, hmod]
  exact tabGet_tabSet_same _ _ _

theorem State.familyMade_starts {u : State} {fk : Nat} {f : Fam} (hf : u.fam? fk = some f) (hn : f.n ≠ 0) :
    u.familyMade fk = u.startAll fk f.place := by
  rw [State.familyMade, hf]
  exact if_neg hn

/-- Settles O25: each check of CREATE fails with its trap or passes; with all passed the family is recorded. -/
theorem createRecordsTheFamily : Obligations.CreateRecordsTheFamily := by
  unfold Obligations.CreateRecordsTheFamily
  intro o s hg hd st m w Traps block
  have hrefused {c : Cause} {x y : Word} (h : s.CreateRefuses c x y) : Traps c x y := execCreate_refused hg hd h
  have hchecks : createChecks s = _ := bind_ok _ _ _ _ _ (get_run s)
  refine ⟨fun hstep => hrefused ((hchecks.trans (orTrap_fails (bne_eq_false_iff_eq.mpr hstep) ..)).trans ?_),
    fun hstep => ?_⟩
  · rw [hstep]
  replace hchecks := hchecks.trans (orTrap_passes (bne_iff_ne.mpr hstep) ..)
  have hrange : (decide (1 ≤ st.block.toNat) && decide (st.block.toNat ≤ 256)) = decide block :=
    (Bool.decide_and _ _).symm
  refine ⟨fun hblock => hrefused (hchecks.trans (orTrap_fails (hrange.trans (decide_eq_false hblock)) ..)),
    fun hblock => ?_⟩
  replace hchecks := hchecks.trans (orTrap_passes (hrange.trans (decide_eq_true hblock)) ..)
  refine ⟨fun hwindow => hrefused (hchecks.trans (orTrap_fails hwindow ..)), fun hwindow => ?_⟩
  replace hchecks := hchecks.trans (orTrap_passes hwindow ..)
  refine ⟨fun hflags => hrefused (hchecks.trans (orTrap_fails (beq_false_of_ne hflags) ..)), fun hflags => ?_⟩
  replace hchecks := hchecks.trans (orTrap_passes (beq_iff_eq.mpr hflags) ..)
  refine ⟨fun hplace => hrefused (hchecks.trans ?_), fun p l hplace hlaunch => ?_⟩
  · rw [hplace]
    rfl
  rw [hplace, hlaunch] at hchecks
  refine ⟨fun hentry => hrefused (hchecks.trans (orTrap_fails (congrArg not hentry) ..)), fun hentry => ?_⟩
  replace hchecks := hchecks.trans (orTrap_passes (congrArg not hentry) ..)
  refine ⟨fun hw => hrefused (hchecks.trans (orTrap_fails (decide_eq_false (Nat.not_le.mpr hw)) ..)), fun hw => ?_⟩
  replace hchecks := hchecks.trans (orTrap_passes (decide_eq_true hw) ..)
  refine ⟨fun hm => hrefused (hchecks.trans (orTrap_fails (decide_eq_false (Nat.not_lt.mpr hm)) ..)),
    fun hm hnow hfree => ?_⟩
  replace hchecks := hchecks.trans (orTrap_passes (decide_eq_true hm) ..)
  have hwritten {u : State} := execCreate_written (u := u) hg hd hchecks hnow rfl hfree
  refine ⟨s.recorded (familyOf s.cur p m), s.newFamily (familyOf s.cur p m), s.recorded_fam _, rfl, rfl, rfl, rfl,
    rfl, rfl, rfl, rfl, rfl, s.recorded_cur _, s.recorded_threads _, s.recorded_mem _, fun u hu => hwritten hu,
    fun u hu => execCreate_held hg hd hchecks hnow rfl hfree hu, fun n hn => ?_, fun u hf => ⟨fun hm0 => ?_,
    fun hm0 => State.familyMade_starts hf hm0⟩⟩
  · exact ⟨_, hwritten (by rw [hn]; exact writeD_l n _ _), rfl⟩
  · exact ⟨_, State.familyMade_empty hf hm0, rfl, rfl, rfl⟩

end Sys2Proof.Machine
end

section
/-! SYNC, FGETS, FSTAT and KILL (O26): the family of a handle and the wait for its end (05 R99, R104 to R107). -/

namespace Sys2Proof.Machine

/-! ### The family of a handle -/

/-- A handle of no live family of the launch traps. -/
theorem familyAt_unknown {s : State} {v : Word}
    (h : ∀ p ∈ s.fams, ¬ (p.2.live = true ∧ p.2.launch = s.cur.launch ∧ p.2.handle = v)) :
    familyAt v s = .error (.trap .familyHandle (some v) (some 0) s) := by
  have hfind : (s.fams.find? fun (_, f) => f.live && f.launch == s.cur.launch && f.handle == v) = none := by
    refine List.find?_eq_none.mpr fun p hp hfound => h p hp ?_
    simpa [and_assoc] using hfound
  unfold familyAt
  rw [hfind]

/-! ### A wait for a family -/

/-- Of a family that has ended, the rest is done as an acquire, where no error is deferred. -/
theorem waitFamily_ended {s0 s1 : State} {a : SReg} {fk : Nat} {f : Fam} (hfin : f.fin = true)
    (herr : s1.cur.errRec = none) (rest : M Flow) :
    waitFamily s0 a fk f rest s1 = rest (s1.updCur fun t => { t with lines := [] }) := by
  have hraise : raiseDeferred s1 = .ok ((), s1) := by rw [raiseDeferred, herr]
  unfold waitFamily
  rw [if_pos hfin]
  exact (bind_ok _ _ _ _ _ hraise).trans (bind_ok _ _ _ _ _ (updCur_run _ s1))

/-- Of one that runs, with every member started, the instruction waits with reason 13. -/
theorem waitFamily_running {s0 s1 : State} {a : SReg} {fk : Nat} {f : Fam} (hfin : f.fin = false)
    (hlowest : f.lowest = none) (rest : M Flow) :
    waitFamily s0 a fk f rest s1 = .error (.wait 13 fk .nil) := by
  unfold waitFamily
  rw [if_neg (ne_true_of_eq_false hfin), hlowest, if_neg (by simp), waitR_run]

/-- Outside a packet a wait suspends its thread. -/
theorem settle_wait {s : State} (hpacket : s.cur.packet = none) (reason key : Nat) (side : Side) :
    s.settle (.error (.wait reason key side)) = s.suspended reason key side := by
  have hbarred : s.waitBarred reason = false := by simp [State.waitBarred, hpacket]
  simp only [State.settle, hbarred]
  rfl

/-! ### The instructions, with their operand read -/

section
variable {s s1 : State} {v : Word}

theorem execSync_reads {o : OpDA} (hg : s.cur.guardOn o.g = true) (hd : Gives (checkDst o.d) s () s)
    (ha : Gives (readS o.a) s v s1) :
    exec (.sync o) s = .next (s.settle ((familyAt v >>= fun p =>
      waitFamily s o.a p.1 p.2 (writeD o.d p.2.status)) s1)) := by
  refine (issue_on _ _ _ hg).trans ?_
  rw [bind_ok _ _ _ _ _ (get_run s), bind_ok _ _ _ _ _ hd, bind_ok _ _ _ _ _ ha]

theorem execFgets_reads {o : OpFgets} (hg : s.cur.guardOn o.g = true) (hd : Gives (checkDst o.d) s () s)
    (ha : Gives (readS o.a) s v s1) :
    exec (.fgets o) s = .next (s.settle ((familyAt v >>= fun p =>
      orTrap (decide (o.n.val < p.2.win.s)) .familyField 6 (BitVec.ofNat 64 o.n.val) >>= fun _ =>
        waitFamily s o.a p.1 p.2 (writeD o.d ((p.2.finals[o.n]).getD 0))) s1)) := by
  refine (issue_on _ _ _ hg).trans ?_
  rw [bind_ok _ _ _ _ _ (get_run s), bind_ok _ _ _ _ _ hd, bind_ok _ _ _ _ _ ha]

theorem execFstat_reads {o : OpFstat} (hg : s.cur.guardOn o.g = true) (hd : Gives (checkDst o.d) s () s)
    (ha : Gives (readS o.a) s v s1) :
    exec (.fstat o) s = .next (s.settle ((familyAt v >>= fun p => writeD o.d (p.2.stat o.sel)) s1)) := by
  refine (issue_on _ _ _ hg).trans ?_
  rw [bind_ok _ _ _ _ _ hd, bind_ok _ _ _ _ _ ha]

theorem execKill_reads {o : OpA} (hg : s.cur.guardOn o.g = true) (ha : Gives (readS o.a) s v s1) :
    exec (.kill o) s = .next (s.settle ((familyAt v >>= fun p =>
      modS (fun s => s.killFam p.1) >>= fun _ => pure .seq) s1)) := by
  refine (issue_on _ _ _ hg).trans ?_
  rw [bind_ok _ _ _ _ _ ha]

end

/-- The state of a family, as FSTAT writes it (05 Table 5.8). -/
theorem Fam.stat_state (f : Fam) : f.stat .state = BitVec.ofNat 64
    ((if f.fin then 2 + 4 * f.endCode else if f.started = [] then 0 else 1) + (if f.adopted then 16 else 0)) := by
  simp only [Fam.stat, List.isEmpty_iff]

/-- A handle of no family ends an instruction that looks it up. -/
theorem settle_familyAt_unknown {s s1 : State} {v : Word} {rest : Nat × Fam → M Flow}
    (h : ∀ p ∈ s1.fams, ¬ (p.2.live = true ∧ p.2.launch = s1.cur.launch ∧ p.2.handle = v)) :
    s.settle ((familyAt v >>= rest) s1) = s1.takeTrap .familyHandle (some v) (some 0) := by
  rw [bind_error _ _ _ _ (familyAt_unknown h), settle_trap]

/-! ### Of a live family -/

section
variable {s s1 : State} {v : Word} {fk : Nat} {f : Fam} (hf : Gives (familyAt v) s1 (fk, f) s1)
include hf

theorem execSync_ended {o : OpDA} {t : State} {fl : Flow} (hg : s.cur.guardOn o.g = true)
    (hd : Gives (checkDst o.d) s () s) (ha : Gives (readS o.a) s v s1) (hfin : f.fin = true)
    (herr : s1.cur.errRec = none)
    (hw : Gives (writeD o.d f.status) (s1.updCur fun t => { t with lines := [] }) fl t) :
    exec (.sync o) s = .next (t.finished fl) := by
  rw [execSync_reads hg hd ha, bind_ok _ _ _ _ _ hf, waitFamily_ended hfin herr, hw, settle_written _ _ _ _ _ _ hw]

theorem execSync_waits {o : OpDA} (hg : s.cur.guardOn o.g = true) (hd : Gives (checkDst o.d) s () s)
    (ha : Gives (readS o.a) s v s1) (hfin : f.fin = false) (hlowest : f.lowest = none) (hpacket : s.cur.packet = none) :
    exec (.sync o) s = .next (s.suspended 13 fk) := by
  rw [execSync_reads hg hd ha, bind_ok _ _ _ _ _ hf, waitFamily_running hfin hlowest, settle_wait hpacket]

theorem execFgets_ended {o : OpFgets} {t : State} {fl : Flow} (hg : s.cur.guardOn o.g = true)
    (hd : Gives (checkDst o.d) s () s) (ha : Gives (readS o.a) s v s1) (hfin : f.fin = true)
    (herr : s1.cur.errRec = none) (hn : o.n.val < f.win.s)
    (hw : Gives (writeD o.d ((f.finals[o.n]).getD 0)) (s1.updCur fun t => { t with lines := [] }) fl t) :
    exec (.fgets o) s = .next (t.finished fl) := by
  rw [execFgets_reads hg hd ha, bind_ok _ _ _ _ _ hf, decide_eq_true hn, bind_ok _ _ _ _ _ (orTrap_true _ _ _ _),
    waitFamily_ended hfin herr, hw, settle_written _ _ _ _ _ _ hw]

theorem execFgets_waits {o : OpFgets} (hg : s.cur.guardOn o.g = true) (hd : Gives (checkDst o.d) s () s)
    (ha : Gives (readS o.a) s v s1) (hfin : f.fin = false) (hlowest : f.lowest = none) (hn : o.n.val < f.win.s)
    (hpacket : s.cur.packet = none) : exec (.fgets o) s = .next (s.suspended 13 fk) := by
  rw [execFgets_reads hg hd ha, bind_ok _ _ _ _ _ hf, decide_eq_true hn, bind_ok _ _ _ _ _ (orTrap_true _ _ _ _),
    waitFamily_running hfin hlowest, settle_wait hpacket]

/-- A final shared beyond the window of the family is no field of it. -/
theorem execFgets_outside {o : OpFgets} (hg : s.cur.guardOn o.g = true) (hd : Gives (checkDst o.d) s () s)
    (ha : Gives (readS o.a) s v s1) (hn : f.win.s ≤ o.n.val) :
    exec (.fgets o) s = .next (s1.takeTrap .familyField (some 6) (some (BitVec.ofNat 64 o.n.val))) := by
  rw [execFgets_reads hg hd ha, bind_ok _ _ _ _ _ hf, decide_eq_false (Nat.not_lt.mpr hn),
    bind_error _ _ _ _ (orTrap_false _ _ _ _), settle_trap]

theorem execFstat_writes {o : OpFstat} {t : State} {fl : Flow} (hg : s.cur.guardOn o.g = true)
    (hd : Gives (checkDst o.d) s () s) (ha : Gives (readS o.a) s v s1)
    (hw : Gives (writeD o.d (f.stat o.sel)) s1 fl t) : exec (.fstat o) s = .next (t.finished fl) := by
  rw [execFstat_reads hg hd ha, bind_ok _ _ _ _ _ hf, hw, settle_written _ _ _ _ _ _ hw]

theorem execKill_kills {o : OpA} (hg : s.cur.guardOn o.g = true) (ha : Gives (readS o.a) s v s1) :
    exec (.kill o) s = .next ((s1.killFam fk).finished .seq) := by
  rw [execKill_reads hg ha, bind_ok _ _ _ _ _ hf, bind_ok _ _ _ _ _ (modS_run _ _), pure_run, settle_seq]

end

/-- Settles O26: each reads its handle; what it then does turns on the family that the handle names, if any. -/
theorem familyQueriesAndKill : Obligations.FamilyQueriesAndKill := by
  unfold Obligations.FamilyQueriesAndKill
  intro s s1 v fk f
  refine ⟨fun hf => ⟨fun o hg hd ha => ⟨fun hfin herr t fl hw => execSync_ended hf hg hd ha hfin herr hw,
      execSync_waits hf hg hd ha⟩, fun o hg hd ha => ⟨fun hfin herr hn t fl hw =>
      execFgets_ended hf hg hd ha hfin herr hn hw, execFgets_waits hf hg hd ha, execFgets_outside hf hg hd ha⟩,
    fun o t fl hg hd ha hw => ?_, fun o => execKill_kills hf⟩, fun hnone => ?_⟩
  · refine execFstat_writes hf hg hd ha ((congrArg (writeD o.d · s1) ?_).trans hw)
    cases o.sel with
    | state => exact f.stat_state
    | _ => rfl
  · have hrefused {i : Instr} {rest : Nat × Fam → M Flow}
        (hrun : exec i s = .next (s.settle ((familyAt v >>= rest) s1))) :
        exec i s = .next (s1.takeTrap .familyHandle (some v) (some 0)) := by
      rw [hrun, settle_familyAt_unknown hnone]
    exact ⟨fun o hg hd ha => hrefused (execSync_reads hg hd ha),
      fun o hg hd ha => hrefused (execFgets_reads hg hd ha), fun o hg hd ha => hrefused (execFstat_reads hg hd ha),
      fun o hg ha => hrefused (execKill_reads hg ha)⟩

end Sys2Proof.Machine
end

section
/-! A save where two threads bear one name (O56). A thread that is saved frees its lanes, these serve the queue of its
pool (09 R174, 18 R355), and `State.putThread` finds the thread that is served by its name alone: the statement does
not say that no other thread of the table has the name of the saved one. -/

namespace Sys2Proof.Machine

/-- A Ready thread that may be saved. -/
def readyThread : Thread := { Thread.loaded with life := .ready }

/-- It stands in the table under its own name, 0, and a thread of that name that waits for lanes under 1. -/
def namesakeTable : State := { State.reset with threads := [(0, readyThread), (1, namesakeThread)] }

/-- The saved thread is replaced by the waiting one, which is served and becomes Ready. -/
theorem askSave_wakes_namesake :
    ((namesakeTable.askSave 0 readyThread).thread? readyThread.tid).map (·.life) = some .ready := by
  decide +kernel

/-- Refutes O56: a thread that may be saved is saved, and the lanes that this frees go to a waiting thread of the same
name, which then stands in its place, Ready and not saved. -/
theorem not_threadsStartMoveAndEnd : ¬ Obligations.ThreadsStartMoveAndEnd := by
  unfold Obligations.ThreadsStartMoveAndEnd
  intro h
  obtain ⟨-, -, -, -, hsave, -⟩ := h namesakeTable 0 rfl
  obtain ⟨hnow, -⟩ := hsave readyThread 0 (by decide +kernel) (.inl rfl)
  obtain ⟨v, hv, hlife⟩ := hnow (by decide +kernel)
  have hready := askSave_wakes_namesake
  rw [hv, Option.map_some, hlife] at hready
  exact absurd hready (by decide)

end Sys2Proof.Machine
end

section
/-! The traps of Table 6.3 (O29), and the state after reset (O48). -/

namespace Sys2Proof.Machine

/-! ### Operations that a tag does not let pass (06 Table 6.3) -/

/-- The kind and the ordinal of an access, as the one word that its trap reports. -/
theorem trapInfo_eq (q : Req) : q.kind.setWidth 64 + BitVec.ofNat 64 (q.elem * 2 ^ 8) =
    BitVec.ofNat 64 (q.kind.toNat + q.elem * 2 ^ 8) := by
  rw [BitVec.ofNat_add, ← BitVec.ofNat_toNat]

/-- An operation that the tag of its word does not let pass answers the trap of its row and leaves the machine. -/
theorem State.wordOp_traps {s : State} {q : Req} {c : Cause}
    (h : tagTrap q.op (s.mem.tag (q.loc.key / 8 * 8)) = some c) :
    s.wordOp q = (.done (.trap c q.va (q.kind.setWidth 64 + BitVec.ofNat 64 (q.elem * 2 ^ 8))), s) := by
  unfold State.wordOp
  dsimp only
  generalize s.mem.tag (q.loc.key / 8 * 8) = tag at h ⊢
  generalize q.op = op at h ⊢
  cases op
  case write n v =>
    cases tag
    case poison =>
      dsimp only [tagTrap] at h ⊢
      split at h
      · cases h
      · next hn =>
        cases h
        rw [if_neg (by simpa using hn)]
        rfl
    case full => cases h
    all_goals
      cases h
      dsimp only
      rw [if_neg (by simp)]
      rfl
  all_goals
    cases tag
    all_goals cases h
    all_goals rfl

/-- Settles O29, by the row of the operation and the tag. -/
theorem tagTrapsAtTheHome : Obligations.TagTrapsAtTheHome := by
  unfold Obligations.TagTrapsAtTheHome
  intro s q c h
  rw [State.wordOp_traps h, trapInfo_eq]

/-! ### Reset -/

theorem firstSome_none {α β : Type} {f : α → Option β} {l : List α} (h : ∀ x ∈ l, f x = none) :
    firstSome f l = none := by
  induction l with
  | nil => rfl
  | cons x r ih =>
    rw [firstSome, h x List.mem_cons_self]
    exact ih fun y hy => h y (List.mem_cons_of_mem _ hy)

/-- An access table with no entry admits nobody. -/
theorem State.tableAllows_empty {s : State} (h : s.atab = []) (target mid : Nat) (r w ctl : Bool) :
    s.tableAllows target mid r w ctl = false := by
  unfold State.tableAllows
  rw [h]
  split
  · rfl
  · next e he =>
    rw [firstSome_none (by intro _ _; rfl)] at he
    cases he

/-- Settles O48: the fields of the reset state, and the empty access tables. -/
theorem resetState : Obligations.ResetState := by
  unfold Obligations.ResetState
  intro s
  refine ⟨rfl, rfl, rfl, rfl, rfl, rfl, fun k => ⟨rfl, rfl, rfl⟩, fun c => ⟨rfl, rfl, rfl, rfl⟩, fun _ _ => rfl,
    rfl, rfl, rfl, rfl, rfl, rfl, fun q => ?_, by decide, rfl, rfl, rfl, ?_, rfl⟩
  · fin_cases q
    all_goals decide
  · exact fun target mid => State.tableAllows_empty rfl target mid true false false

end Sys2Proof.Machine
end

section
/-! Memory through every operation of the model (O49): what holds of memory still holds where an operation leaves
memory alone, and its canonical form is kept by every write. -/

namespace Sys2Proof.Machine

/-! ### What holds of memory, in every form that an operation answers in -/

/-- Memory has `P`. -/
def State.MemHas (P : Memory → Prop) (s : State) : Prop := P s.mem

/-- The canonical form (06 R126). -/
def Canonical (m : Memory) : Prop := m.wf = true

/-- Where it answers a machine, its memory has `P`. -/
def OptHas (P : Memory → Prop) (o : Option State) : Prop := ∀ t, o = some t → t.MemHas P

/-- Where it answers a machine and no error, its memory has `P`. -/
def ExcHas {ε : Type} (P : Memory → Prop) (o : Except ε State) : Prop := ∀ t, o = .ok t → t.MemHas P

/-- However an instruction ends that ran, the machine it leaves has `P`. -/
inductive Ends {α : Type} (P : Memory → Prop) : Except Stop (α × State) → Prop
  | ok {a : α} {t : State} (h : t.MemHas P) : Ends P (.ok (a, t))
  | trap {c : Cause} {x y : Option Word} {t : State} (h : t.MemHas P) : Ends P (.error (.trap c x y t))
  | wait {r k : Nat} {d : Side} : Ends P (.error (.wait r k d))
  | forfeit {m : BitVec 16} : Ends P (.error (.forfeit m))
  | deferred : Ends P (.error .deferred)

/-- A computation that keeps `P`. -/
def Keeps {α : Type} (P : Memory → Prop) (m : M α) : Prop := ∀ s : State, s.MemHas P → Ends P (m s)

/-- What a step comes to, where it comes to a machine, has `P`. -/
def OutHas (P : Memory → Prop) (o : Host.Outcome State Fault Refusal) : Prop := ∀ t, o = .next t → t.MemHas P

section
variable {P : Memory → Prop} {s t : State}

namespace State.MemHas

theorem same (h : s.MemHas P) (hm : t.mem = s.mem) : t.MemHas P := by
  unfold State.MemHas
  rw [hm]
  exact h

theorem ite {c : Prop} [Decidable c] (hs : s.MemHas P) (ht : t.MemHas P) : (if c then s else t).MemHas P := by
  split
  · exact hs
  · exact ht

theorem pairIte {α : Type} {c : Prop} [Decidable c] {p q : α × State} (hp : p.2.MemHas P) (hq : q.2.MemHas P) :
    (if c then p else q).2.MemHas P := by
  split
  · exact hp
  · exact hq

theorem foldl {α : Type} {f : State → α → State} {l : List α} (h : s.MemHas P)
    (hf : ∀ u x, State.MemHas P u → (f u x).MemHas P) : (l.foldl f s).MemHas P :=
  List.foldlRecOn l f h fun u hu x _ => hf u x hu

theorem getD {o : Option State} (h : s.MemHas P) (ho : OptHas P o) : (o.getD s).MemHas P := by
  cases o with
  | none => exact h
  | some t => exact ho t rfl

/-- The machine of a pair that has been taken apart. -/
theorem of_pair {α : Type} {p : α × State} {a : α} (hp : p.2.MemHas P) (he : p = (a, t)) : t.MemHas P := by
  rw [he] at hp
  exact hp

theorem of_exc {ε : Type} {o : Except ε State} (ho : ExcHas P o) (he : o = .ok t) : t.MemHas P := ho t he

theorem of_opt {o : Option State} (ho : OptHas P o) (he : o = some t) : t.MemHas P := ho t he

end State.MemHas

namespace OptHas

theorem none : OptHas P none := by
  intro t h
  cases h

theorem some (h : s.MemHas P) : OptHas P (some s) := by
  rintro t ⟨⟩
  exact h

theorem ite {c : Prop} [Decidable c] {o p : Option State} (ho : OptHas P o) (hp : OptHas P p) :
    OptHas P (if c then o else p) := by
  split
  · exact ho
  · exact hp

theorem map {α : Type} {f : α → State} {o : Option α} (hf : ∀ a, (f a).MemHas P) : OptHas P (o.map f) := by
  cases o with
  | none => exact .none
  | some a => exact .some (hf a)

theorem mapState {f : State → State} {o : Option State} (ho : OptHas P o)
    (hf : ∀ u, State.MemHas P u → (f u).MemHas P) : OptHas P (o.map f) := by
  cases o with
  | none => exact .none
  | some a => exact .some (hf a (ho a rfl))

theorem bind {α : Type} {f : α → Option State} {o : Option α} (hf : ∀ a, OptHas P (f a)) : OptHas P (o.bind f) := by
  cases o with
  | none => exact .none
  | some a => exact hf a

theorem filter {p : State → Bool} {o : Option State} (ho : OptHas P o) : OptHas P (o.filter p) := fun t ht =>
  ho t (Option.filter_eq_some_iff.mp ht).1

theorem findSome? {α : Type} {f : α → Option State} {l : List α} (hf : ∀ a, OptHas P (f a)) :
    OptHas P (l.findSome? f) := by
  intro t ht
  obtain ⟨a, _, ha⟩ := List.exists_of_findSome?_eq_some ht
  exact hf a t ha

end OptHas

namespace ExcHas

theorem ok {ε : Type} (h : s.MemHas P) : ExcHas P (.ok s : Except ε State) := by
  rintro t ⟨⟩
  exact h

theorem error {ε : Type} {e : ε} : ExcHas P (.error e) := by
  intro t h
  cases h

theorem ite {ε : Type} {c : Prop} [Decidable c] {x y : Except ε State} (hx : ExcHas P x) (hy : ExcHas P y) :
    ExcHas P (if c then x else y) := by
  split
  · exact hx
  · exact hy

end ExcHas

namespace Ends

theorem ite {α : Type} {c : Prop} [Decidable c] {x y : Except Stop (α × State)} (hx : Ends P x) (hy : Ends P y) :
    Ends P (if c then x else y) := by
  split
  · exact hx
  · exact hy

/-- What is not a result does not depend on the type of the result. -/
theorem error {α β : Type} {x : Stop} (hx : Ends P (.error x : Except Stop (α × State))) :
    Ends P (.error x : Except Stop (β × State)) := by
  cases hx with
  | trap h => exact .trap h
  | wait => exact .wait
  | forfeit => exact .forfeit
  | deferred => exact .deferred

end Ends

namespace Keeps

theorem pure {α : Type} {a : α} : Keeps P (pure a) := fun _ h => .ok h

theorem bind {α β : Type} {m : M α} {f : α → M β} (hm : Keeps P m) (hf : ∀ a, Keeps P (f a)) :
    Keeps P (m >>= f) := by
  intro s h
  have hends := hm s h
  cases hms : m s with
  | error e =>
    rw [bind_error m f s e hms]
    rw [hms] at hends
    cases hends with
    | trap h => exact .trap h
    | wait => exact .wait
    | forfeit => exact .forfeit
    | deferred => exact .deferred
  | ok p =>
    obtain ⟨a, t⟩ := p
    rw [bind_ok m f s t a hms]
    rw [hms] at hends
    cases hends with
    | ok h => exact hf a t h

/-- What follows a look at the machine may use what its memory has. -/
theorem get {β : Type} {f : State → M β} (hf : ∀ s : State, s.MemHas P → Keeps P (f s)) :
    Keeps P (MonadState.get >>= f) := fun s h => by
  rw [bind_ok _ _ _ _ _ (get_run s)]
  exact hf s h s h

theorem set (h : t.MemHas P) : Keeps P (MonadStateOf.set t : M PUnit) := fun _ _ => .ok h

theorem ite {α : Type} {c : Prop} [Decidable c] {m k : M α} (hm : Keeps P m) (hk : Keeps P k) :
    Keeps P (if c then m else k) := by
  split
  · exact hm
  · exact hk

/-- A stop on a condition, and what goes on without it. -/
theorem guard {α β : Type} {c : Prop} [Decidable c] {m : M β} {k : M α} (hm : Keeps P m) (hk : Keeps P k) :
    Keeps P (if c then m >>= fun _ => k else k) :=
  .ite (.bind hm fun _ => hk) hk

theorem modS {f : State → State} (hf : ∀ u, State.MemHas P u → (f u).MemHas P) : Keeps P (modS f) :=
  fun s h => .ok (hf s h)

end Keeps

namespace OutHas

theorem event {f : State → Option State} (h : s.MemHas P) (hf : OptHas P (f s)) : OutHas P (event f s) := by
  rintro t ⟨⟩
  exact .ite h (h.getD hf)

end OutHas

end

end Sys2Proof.Machine
end

section
/-! Memory through the operations of the core: threads, their frames, objects and the end of a turn (O49). -/

namespace Sys2Proof.Machine
variable {P : Memory → Prop} {s : State}

theorem State.MemHas.updCur {f : Thread → Thread} (h : s.MemHas P) : (s.updCur f).MemHas P :=
  (h.same (by rfl))

theorem State.MemHas.modThread {tid : Nat} {f : Thread → Thread} (h : s.MemHas P) : (s.modThread tid f).MemHas P := by
  unfold State.modThread
  split
  · exact h.same (by rfl)
  · split
    · exact h.same (by rfl)
    · exact h

theorem State.MemHas.wake {tid : Nat} (h : s.MemHas P) : (s.wake tid).MemHas P :=
  h.modThread

theorem State.MemHas.wakeWhere {p : Thread → Bool} (h : s.MemHas P) : (s.wakeWhere p).MemHas P :=
  h.foldl fun _ _ hu => hu.wake

theorem State.MemHas.dropBins {t : Thread} (h : s.MemHas P) : (s.dropBins t).MemHas P :=
  h.foldl fun _ _ hu => (hu.same (by rfl)).wakeWhere

theorem State.MemHas.dropCopy {t : Thread} (h : s.MemHas P) : (s.dropCopy t).MemHas P := by
  unfold State.dropCopy
  split
  · exact h
  · exact h.modThread.wakeWhere

theorem State.MemHas.refreshPrio {tid : Nat} (h : s.MemHas P) : (s.refreshPrio tid).MemHas P :=
  h.modThread

theorem State.MemHas.stepPrio {obj : Nat} (h : s.MemHas P) : (s.stepPrio obj).MemHas P :=
  h.foldl fun _ _ hu => hu.refreshPrio

theorem State.MemHas.modDie {d : Nat} {f : Die → Die} (h : s.MemHas P) : (s.modDie d f).MemHas P :=
  (h.same (by rfl))

theorem State.MemHas.putThread {t : Thread} (h : s.MemHas P) : (s.putThread t).MemHas P :=
  .ite (h.same (by rfl)) (h.same (by rfl))

theorem State.MemHas.setCore {c : Nat} {x : Core} (h : s.MemHas P) : (s.setCore c x).MemHas P :=
  (h.same (by rfl))

theorem State.MemHas.modCore {c : Nat} {f : Core → Core} (h : s.MemHas P) : (s.modCore c f).MemHas P :=
  h.setCore

theorem State.MemHas.useBanks {k n : Nat} (h : s.MemHas P) : (s.useBanks k n).MemHas P :=
  .ite h h.modCore

theorem State.MemHas.writeAs {mid key : Nat} {l : List Word} (h : s.MemHas Canonical) :
    (s.writeAs mid key l).MemHas Canonical :=
  s.wf_writeAs l mid key h

theorem State.MemHas.setUntr {tid : Nat} (h : s.MemHas Canonical) : (s.setUntr tid).MemHas Canonical := by
  unfold State.setUntr
  dsimp only
  split
  · exact h
  · split
    · exact h.putThread
    · exact h.putThread.writeAs

theorem State.MemHas.untrack {e : Edge} (h : s.MemHas Canonical) : (s.untrack e).MemHas Canonical :=
  .ite (h.same (by rfl)).setUntr (h.same (by rfl))

/-- A hold edge that finds no room leaves memory alone: only a wait marks its thread. -/
theorem State.MemHas.untrack_hold {e : Edge} (h : s.MemHas P) (he : e.wait = false) : (s.untrack e).MemHas P := by
  unfold State.untrack
  dsimp only
  rw [he]
  exact h.same (by rfl)

theorem State.MemHas.holdIn {die tid obj : Nat} {name : Word} {side : Bool} (h : s.MemHas P) :
    (s.holdIn die tid obj name side).MemHas P :=
  .ite h (.ite (h.same (by rfl)).refreshPrio (h.untrack_hold rfl))

theorem State.MemHas.syncHolds {obj : Nat} (h : s.MemHas P) : (s.syncHolds obj).MemHas P :=
  .ite h (((((h.same (by rfl)).same (by rfl)).foldl fun _ _ hu => hu.refreshPrio).foldl fun _ _ hu =>
    hu.holdIn).stepPrio)

theorem State.MemHas.modCluster {c : Nat} {f : Cluster → Cluster} (h : s.MemHas P) : (s.modCluster c f).MemHas P :=
  (h.same (by rfl))

theorem State.MemHas.setArray {cl a : Nat} {m : MArray} (h : s.MemHas P) : (s.setArray cl a m).MemHas P :=
  h.modCluster

theorem State.MemHas.serveArrays {cl fuel : Nat} (h : s.MemHas P) : (s.serveArrays cl fuel).MemHas P := by
  induction fuel generalizing s with
  | zero => exact h.syncHolds
  | succ j ih =>
    unfold State.serveArrays
    split
    · exact ih h.setArray.wake
    · exact h.syncHolds

theorem State.MemHas.dropArrays {t : Thread} (h : s.MemHas P) : (s.dropArrays t).MemHas P :=
  .ite h.modCluster.serveArrays h

theorem State.MemHas.dropReserved {t : Thread} (h : s.MemHas P) : (s.dropReserved t).MemHas P :=
  h.dropArrays.dropCopy.dropBins

theorem State.MemHas.servePool {g fuel : Nat} (h : s.MemHas P) : (s.servePool g fuel).MemHas P := by
  induction fuel generalizing s with
  | zero => exact h
  | succ j ih =>
    unfold State.servePool
    split
    · exact h
    · split
      · exact h
      · split
        · exact h
        · exact ih h.putThread.wake

theorem State.MemHas.lanesFreed {g : Nat} (h : s.MemHas P) : (s.lanesFreed g).MemHas P :=
  h.servePool.syncHolds

theorem State.MemHas.dropPair (h : s.MemHas P) : s.dropPair.MemHas P :=
  .ite h.updCur.dropReserved.updCur.lanesFreed h.updCur.dropReserved

theorem State.MemHas.closePair (h : s.MemHas P) : s.closePair.MemHas P :=
  .ite h.dropPair h

theorem State.MemHas.stopThread {t : Thread} {cause origin unit : Nat} (h : s.MemHas P) :
    (s.stopThread t cause origin unit).MemHas P :=
  .ite h h.putThread.modCore

theorem State.MemHas.clusterCommand {c : Nat} {stop : Bool} {origin unit : Nat} (h : s.MemHas P) :
    (s.clusterCommand c stop origin unit).MemHas P :=
  h.foldl fun _ _ hu => hu.modCore

theorem State.MemHas.freeVal (h : s.MemHas P) : s.freeVal.2.MemHas P :=
  (h.same (by rfl))

theorem State.MemHas.trapWord {i : Option Word} (h : s.MemHas P) : (s.trapWord i).2.MemHas P := by
  unfold State.trapWord
  split
  · exact h
  · exact h.freeVal

theorem State.MemHas.choose {n : Nat} (h : s.MemHas P) : (s.choose n).2.MemHas P :=
  (h.same (by rfl))

theorem State.MemHas.chooseFrom {α : Type} {l : List α} (h : s.MemHas P) : (State.chooseFrom s l).2.MemHas P := by
  unfold State.chooseFrom
  split
  · exact h
  · exact h
  · exact h.same (by rfl)

theorem State.MemHas.poolPlace {core size : Nat} (h : s.MemHas P) : (s.poolPlace core size).2.MemHas P :=
  h.chooseFrom

theorem State.MemHas.storeCell {launch : Nat} (h : s.MemHas P) : (s.storeCell launch).2.MemHas P := by
  unfold State.storeCell
  dsimp only
  split
  · exact h
  · exact h.chooseFrom

theorem State.MemHas.setWord {k : Nat} {v : Word} {t : Tag} (h : s.MemHas Canonical) :
    State.MemHas Canonical { s with mem := s.mem.setWord k v t } :=
  Memory.wf_setWord _ _ _ _ h

theorem State.MemHas.saveFrame {t : Thread} {kind : Nat} (h : s.MemHas Canonical) :
    (s.saveFrame t kind).MemHas Canonical := by
  unfold State.saveFrame
  extract_lets size mid prev link
  have hpool : (if entryKind kind then s.poolPlace t.core size else (none, s)).2.MemHas Canonical := by
    split
    · exact h.poolPlace
    · exact h
  split
  next pool s1 he1 =>
  have h1 : s1.MemHas Canonical := hpool.of_pair he1
  have hcell : (if pool.isNone || t.claim.isSome then s1.storeCell t.launch else (none, s1)).2.MemHas Canonical := by
    split
    · exact h1.storeCell
    · exact h1
  split
  next cell s2 he2 =>
  have h2 : s2.MemHas Canonical := hcell.of_pair he2
  exact .ite h2.putThread (State.MemHas.putThread (.ite h2.writeAs.writeAs.setWord h2.writeAs.writeAs))

theorem State.MemHas.modLaunch {l : Nat} {g : Launch → Launch} (h : s.MemHas P) : (s.modLaunch l g).MemHas P := by
  unfold State.modLaunch
  split
  · exact h.same (by rfl)
  · exact h

theorem State.MemHas.report {launch event : Nat} {who addr : Word} {info : List Word} (h : s.MemHas P) :
    (s.report launch event who addr info).MemHas P :=
  (h.modLaunch.same (by rfl))

theorem State.MemHas.reportThread {t : Thread} {event : Nat} {addr : Word} {info : List Word} (h : s.MemHas P) :
    (s.reportThread t event addr info).MemHas P :=
  h.report

theorem State.MemHas.haltThread {second : Cause} {pc : Word} (h : s.MemHas Canonical) :
    (s.haltThread second pc).MemHas Canonical :=
  h.saveFrame.reportThread

theorem State.MemHas.deliverToKernel {c : Cause} {pc i0 i1 : Word} (h : s.MemHas Canonical) :
    (s.deliverToKernel c pc i0 i1).MemHas Canonical := by
  unfold State.deliverToKernel
  dsimp only
  split
  · exact h.haltThread
  · split
    · split
      · refine State.MemHas.haltThread ?_
        refine State.MemHas.updCur ?_
        exact .ite h.reportThread h
      · refine State.MemHas.updCur ?_
        refine State.MemHas.updCur ?_
        exact .ite h.reportThread h
    · refine State.MemHas.haltThread ?_
      refine State.MemHas.updCur ?_
      exact .ite h.reportThread h
    · refine State.MemHas.haltThread ?_
      refine State.MemHas.updCur ?_
      exact .ite h.reportThread h
    · refine State.MemHas.haltThread ?_
      refine State.MemHas.updCur ?_
      exact .ite h.reportThread h

theorem State.MemHas.debugCause {c : Cause} {pc : Word} {i0 i1 : Option Word} {unit : Nat} (h : s.MemHas Canonical) :
    (s.debugCause c pc i0 i1 unit).MemHas Canonical := by
  unfold State.debugCause
  dsimp only
  split
  · refine State.MemHas.stopThread ?_
    exact .ite h.clusterCommand h
  · exact h.trapWord.trapWord.deliverToKernel

theorem State.MemHas.raiseWatch (h : s.MemHas Canonical) : s.raiseWatch.MemHas Canonical := by
  unfold State.raiseWatch
  dsimp only
  split
  · exact h
  · exact .ite h.updCur.stopThread h.updCur.debugCause

theorem State.MemHas.modSlice {n : Nat} {f : Slice → Slice} (h : s.MemHas P) : (s.modSlice n f).MemHas P :=
  (h.same (by rfl))

theorem State.MemHas.setHomeMons {l : Loc} {m c : List MonEntry} (h : s.MemHas P) :
    (s.setHomeMons l m c).MemHas P := by
  unfold State.setHomeMons
  split
  · exact h.modCore
  · exact h.modSlice

theorem State.MemHas.disarmAt {line tid idx : Nat} (h : s.MemHas P) : (s.disarmAt line tid idx).MemHas P :=
  (h.setHomeMons.same (by rfl))

theorem State.MemHas.parkMons {t : Thread} (h : s.MemHas P) : (s.parkMons t).MemHas P := by
  unfold State.parkMons
  dsimp only
  refine h.foldl fun u x hu => ?_
  split
  · exact hu.disarmAt.modThread
  · exact hu

theorem State.MemHas.reportRecords {t : Thread} (h : s.MemHas P) : (s.reportRecords t).MemHas P := by
  unfold State.reportRecords
  dsimp only
  split
  · refine State.MemHas.reportThread ?_
    split
    · exact h.reportThread
    · exact h
  · split
    · exact h.reportThread
    · exact h

theorem State.MemHas.wakeReaders {c : Nat} (h : s.MemHas P) : (s.wakeReaders c).MemHas P :=
  h.wakeWhere

theorem State.MemHas.drainQueue {c q : Nat} (h : s.MemHas P) : (s.drainQueue c q).MemHas P :=
  h.modCore.wakeReaders

theorem State.MemHas.dropPacket {c id : Nat} (h : s.MemHas P) : (s.dropPacket c id).MemHas P := by
  unfold State.dropPacket
  split
  · exact h
  · exact h.modCore.drainQueue

theorem State.MemHas.changed {key : Nat} (h : s.MemHas P) : (s.changed key).MemHas P :=
  (h.same (by rfl))

theorem State.MemHas.putWord {k : Nat} {v : Word} {t : Tag} (h : s.MemHas Canonical) :
    (s.putWord k v t).MemHas Canonical :=
  h.setWord

theorem State.MemHas.setRing {cl n : Nat} {r : Ring} (h : s.MemHas P) : (s.setRing cl n r).MemHas P :=
  h.modCluster

theorem State.MemHas.publish {cl n x : Nat} (h : s.MemHas P) : (s.publish cl n x).MemHas P := by
  unfold State.publish
  dsimp only
  split
  · exact h
  · exact h.setRing.wakeWhere.syncHolds

theorem State.MemHas.publishVoid {launch core : Nat} {p : RingRes} (h : s.MemHas Canonical) :
    (s.publishVoid launch core p).MemHas Canonical := by
  unfold State.publishVoid
  dsimp only
  split
  · exact h
  · refine State.MemHas.publish ?_
    split
    · exact h
    · exact h.foldl fun _ _ hu => hu.putWord.changed

theorem State.MemHas.release {cl n x : Nat} (h : s.MemHas P) : (s.release cl n x).MemHas P := by
  unfold State.release
  dsimp only
  split
  · exact h
  · exact h.setRing.wakeWhere.syncHolds

theorem State.MemHas.endMatrix {t : Thread} (h : s.MemHas Canonical) : (s.endMatrix t).MemHas Canonical :=
  (((h.foldl fun _ _ hu => hu.publishVoid).foldl fun _ _ hu => hu.release).modCluster).serveArrays

theorem State.MemHas.leaveGroups {tid : Nat} (h : s.MemHas P) : (s.leaveGroups tid).MemHas P :=
  (h.same (by rfl))

theorem State.MemHas.dropRegistration {tid : Nat} (h : s.MemHas P) : (s.dropRegistration tid).MemHas P := by
  unfold State.dropRegistration
  dsimp only
  split
  · exact h
  · split
    · exact h
    · exact (h.same (by rfl)).putThread.stepPrio

theorem State.MemHas.removeWait {tid obj : Nat} (h : s.MemHas P) : (s.removeWait tid obj).MemHas P :=
  (h.same (by rfl)).syncHolds.stepPrio

theorem State.MemHas.undefer {k tid : Nat} (h : s.MemHas P) : (s.undefer k tid).MemHas P := by
  unfold State.undefer
  dsimp only
  split
  · exact (h.same (by rfl)).removeWait
  · exact h.same (by rfl)

theorem State.MemHas.setHead {k : Nat} (h : s.MemHas Canonical) : (s.setHead k).MemHas Canonical :=
  h.putWord

theorem State.MemHas.setObj {key : Nat} {o : Obj} (h : s.MemHas P) : (s.setObj key o).MemHas P :=
  (h.same (by rfl))

theorem State.MemHas.modObj {key : Nat} {f : Obj → Obj} (h : s.MemHas P) : (s.modObj key f).MemHas P :=
  h.setObj

theorem State.MemHas.dropWaiter {k tid : Nat} (h : s.MemHas P) : (s.dropWaiter k tid).MemHas P :=
  h.modObj

theorem State.MemHas.putHeader {k : Nat} {hd : Word} (h : s.MemHas Canonical) : (s.putHeader k hd).MemHas Canonical :=
  h.putWord.changed

theorem State.MemHas.withdrawAt {k tid : Nat} (h : s.MemHas Canonical) : (s.withdrawAt k tid).MemHas Canonical := by
  unfold State.withdrawAt
  split
  · exact h
  · next w _ =>
    have hleft : ((s.dropWaiter k tid).removeWait tid k).MemHas Canonical := h.dropWaiter.removeWait
    obtain ⟨_, _, kind⟩ := w
    cases kind with
    | lock => exact hleft.putHeader
    | push => exact hleft.putHeader
    | pop => exact hleft.putHeader
    | barrier ph arrived =>
      cases arrived with
      | true => exact hleft.modObj
      | false => exact hleft
    | epoch => exact hleft

theorem State.MemHas.withdrawWait {tid : Nat} (h : s.MemHas Canonical) : (s.withdrawWait tid).MemHas Canonical := by
  unfold State.withdrawWait
  dsimp only
  split
  · refine State.MemHas.removeWait ?_
    refine State.MemHas.foldl ?_ fun _ _ hu => hu.withdrawAt
    split
    · exact .ite h.undefer.setHead h.undefer
    · exact h
  · refine State.MemHas.foldl ?_ fun _ _ hu => hu.withdrawAt
    split
    · exact .ite h.undefer.setHead h.undefer
    · exact h

theorem State.MemHas.removeHold {tid obj : Nat} (h : s.MemHas P) : (s.removeHold tid obj).MemHas P :=
  (h.same (by rfl)).refreshPrio

theorem State.MemHas.passNetTime {src : Nat} (h : s.MemHas P) : (s.passNetTime src).MemHas P :=
  .ite h h.freeVal.modDie

theorem State.MemHas.emit {src typ : Nat} {payload : List Word} (h : s.MemHas P) :
    (s.emit src typ payload).MemHas P :=
  (h.passNetTime.same (by rfl))

theorem State.MemHas.traceBarrier {k : Nat} {va : Word} {phase count : Nat} (h : s.MemHas P) :
    (s.traceBarrier k va phase count).MemHas P :=
  .ite h.emit h

theorem State.MemHas.answer {tid elem : Nat} {r : Result} {va : Word} {home : Nat} (h : s.MemHas P) :
    (s.answer tid elem r va home).MemHas P :=
  (h.same (by rfl))

theorem State.MemHas.releaseWaiter {k : Nat} {w : ObjWaiter} {r : Result} (h : s.MemHas P) :
    (s.releaseWaiter k w r).MemHas P :=
  h.removeWait.answer

theorem State.MemHas.releaseWhere {k : Nat} {p : ObjWaiter → Bool} {r : ObjWaiter → Result} (h : s.MemHas P) :
    (s.releaseWhere k p r).MemHas P :=
  h.setObj.foldl fun _ _ hu => hu.releaseWaiter

theorem State.MemHas.barComplete {k : Nat} (h : s.MemHas Canonical) : (s.barComplete k).MemHas Canonical :=
  ((h.traceBarrier.putHeader.modObj.foldl fun _ _ hu => hu.removeHold).releaseWhere).stepPrio

theorem State.MemHas.barSettle {k : Nat} (h : s.MemHas Canonical) : (s.barSettle k).MemHas Canonical :=
  .ite h.barComplete h

theorem State.MemHas.barDrop {k : Nat} {p : Party} (h : s.MemHas Canonical) : (s.barDrop k p).MemHas Canonical := by
  unfold State.barDrop
  dsimp only
  refine State.MemHas.barSettle ?_
  exact .ite h.putHeader.modObj h.putHeader.modObj.removeHold

theorem State.MemHas.barTrap {k : Nat} {c : Cause} {who : Word} (h : s.MemHas P) : (s.barTrap k c who).MemHas P :=
  h.modObj.releaseWhere

theorem State.MemHas.barEnd {k tid : Nat} (h : s.MemHas Canonical) : (s.barEnd k tid).MemHas Canonical := by
  unfold State.barEnd
  dsimp only
  split
  · exact h
  · exact .ite h (.ite h.barDrop (.ite h.modObj.removeHold.putHeader h.modObj.removeHold.putHeader.barTrap))

theorem State.MemHas.insertHold {tid obj : Nat} {name : Word} {side : Bool} (h : s.MemHas P) :
    (s.insertHold tid obj name side).MemHas P :=
  h.holdIn

theorem State.MemHas.handOver {k : Nat} {abnd : Bool} (h : s.MemHas Canonical) :
    (s.handOver k abnd).MemHas Canonical := by
  unfold State.handOver
  dsimp only
  split
  · exact h.putHeader.modObj
  · exact h.putHeader.modObj.removeWait.insertHold.answer.stepPrio

theorem State.MemHas.loseHolder {k tid : Nat} {abnd : Bool} (h : s.MemHas Canonical) :
    (s.loseHolder k tid abnd).MemHas Canonical :=
  h.modObj.removeHold.putHeader.releaseWhere

theorem State.MemHas.endAt {tid k : Nat} (h : s.MemHas Canonical) : (s.endAt tid k).MemHas Canonical := by
  unfold State.endAt
  split
  · exact .ite h h.barEnd
  · exact .ite h.removeHold.handOver h
  · exact h.modObj.removeHold
  · exact .ite h.loseHolder h
  · exact h

theorem State.MemHas.endRelations {tid : Nat} (h : s.MemHas Canonical) : (s.endRelations tid).MemHas Canonical :=
  ((h.withdrawWait.dropRegistration.foldl fun _ _ hu => hu.endAt).same (by rfl))

theorem State.MemHas.mapThreads {f : Thread → Thread} (h : s.MemHas P) : (s.mapThreads f).MemHas P :=
  (h.same (by rfl))

theorem State.MemHas.lowerGuests {t : Thread} (h : s.MemHas P) : (s.lowerGuests t).MemHas P :=
  .ite h.mapThreads h

theorem State.MemHas.relink {core : Nat} {old new : Word} (h : s.MemHas Canonical) :
    (s.relink core old new).MemHas Canonical := by
  unfold State.relink
  split
  · exact h
  · split
    · exact h
    · exact h.writeAs.putThread

theorem State.MemHas.dropFrame {t : Thread} (h : s.MemHas Canonical) : (s.dropFrame t).MemHas Canonical := by
  unfold State.dropFrame
  split
  · exact h
  · exact .ite h.setWord h.relink

theorem State.MemHas.modFam {f : Nat} {g : Fam → Fam} (h : s.MemHas P) : (s.modFam f g).MemHas P := by
  unfold State.modFam
  split
  · exact h.same (by rfl)
  · exact h

theorem State.MemHas.dropFaults {p : Waiter → Bool} (h : s.MemHas P) : (s.dropFaults p).MemHas P :=
  (h.same (by rfl))

theorem State.MemHas.setHold {p : Nat → BindRec → Bool} {b : Bool} (h : s.MemHas P) : (s.setHold p b).MemHas P :=
  (h.same (by rfl))

theorem State.MemHas.clearHold {launch c : Nat} (h : s.MemHas P) : (s.clearHold launch c).MemHas P :=
  .ite h.setHold h

theorem State.MemHas.retire {tid : Nat} (h : s.MemHas Canonical) : (s.retire tid).MemHas Canonical := by
  unfold State.retire
  split
  · exact h
  · next t _ =>
    extract_lets s1 s2 s3 s4 s5 s6 s7 s8 s9 s10 s11
    have h1 : s1.MemHas Canonical := h.reportRecords.parkMons
    have h2 : s2.MemHas Canonical := by
      unfold s2
      split
      · exact h1.dropPacket
      · exact h1
    have h4 : s4.MemHas Canonical := h2.endRelations.leaveGroups.dropReserved.endMatrix.dropFrame.lowerGuests
    have h6 : s6.MemHas Canonical := h4.modFam.same (by rfl)
    have h10 : s10.MemHas Canonical := h6.dropFaults.mapThreads.modLaunch.modThread
    have h11 : s11.MemHas Canonical := .ite h10 (h10.same (by rfl))
    exact h11.lanesFreed.clearHold

theorem State.MemHas.listSaved {t : Thread} (h : s.MemHas P) : (s.listSaved t).MemHas P :=
  h.modLaunch

theorem State.MemHas.copyFrame {t : Thread} {f : FrameRef} {k : Nat} (h : s.MemHas Canonical) :
    (s.copyFrame t f k).MemHas Canonical :=
  h.writeAs.useBanks.putThread.relink

theorem State.MemHas.storeFrame {tid : Nat} (h : s.MemHas Canonical) : (s.storeFrame tid).MemHas Canonical := by
  unfold State.storeFrame
  split
  · exact h
  · split
    · exact h
    · split
      · exact h
      · split
        · exact h.copyFrame
        · next ht => exact (h.storeCell.of_pair ht).copyFrame
        · next ht => exact h.storeCell.of_pair ht

theorem State.MemHas.parkHosts {core entry : Nat} {hs : List Thread} (h : s.MemHas Canonical) :
    (s.parkHosts core entry hs).MemHas Canonical := by
  unfold State.parkHosts
  refine .ite h (State.MemHas.setWord ?_)
  induction hs with
  | nil => exact h
  | cons u r ih => exact ih.modThread.storeFrame

theorem State.MemHas.preemptAdopter {t : Thread} (h : s.MemHas Canonical) : (s.preemptAdopter t).MemHas Canonical :=
  h.putThread.listSaved.parkHosts.lanesFreed

theorem State.MemHas.unread (h : s.MemHas P) : s.unread.MemHas P := by
  unfold State.unread
  dsimp only
  split
  · exact h
  · exact h.modCore.updCur

theorem State.MemHas.unreadOf {tid : Nat} (h : s.MemHas P) : (s.unreadOf tid).MemHas P := by
  unfold State.unreadOf
  split
  · exact h
  · next t _ =>
    have hu : (({ s with cur := t } : State).unread).MemHas P := (h.same (by rfl)).unread
    exact .ite h.unread (hu.same (by rfl)).putThread

theorem State.MemHas.saveThread {tid kind : Nat} {life : Life} (h : s.MemHas Canonical) :
    (s.saveThread tid kind life).MemHas Canonical := by
  unfold State.saveThread
  dsimp only
  split
  · exact h
  · split
    · exact h.withdrawWait.unreadOf.leaveGroups.parkMons.dropReserved
    · exact h.withdrawWait.unreadOf.leaveGroups.parkMons.dropReserved.putThread.saveFrame.modThread.lanesFreed

theorem State.MemHas.makeRun {core launch w : Nat} {vs : List Thread} (h : s.MemHas Canonical) :
    (s.makeRun core launch w vs).2.MemHas Canonical := by
  induction vs generalizing s with
  | nil =>
    unfold State.makeRun
    split
    · exact h
    · exact h
  | cons v r ih =>
    unfold State.makeRun
    split
    · exact h
    · exact ih h.saveThread.listSaved

theorem State.MemHas.fresh (h : s.MemHas P) : s.fresh.2.MemHas P :=
  (h.same (by rfl))

theorem State.MemHas.holdChanged {obj tid : Nat} (h : s.MemHas P) : (s.holdChanged obj tid).MemHas P :=
  h.syncHolds.refreshPrio

theorem State.MemHas.sendLink {f k : Nat} {n : Fin 16} {v : Word} {c : Nat} (h : s.MemHas P) :
    (s.sendLink f k n v c).MemHas P :=
  (h.same (by rfl))

theorem State.MemHas.takeLinks {f k : Nat} (h : s.MemHas P) : (s.takeLinks f k).MemHas P := by
  unfold State.takeLinks
  split
  · exact h
  · next x _ =>
    extract_lets d
    split
    next mine rest _ =>
    extract_lets s1 sent
    have h1 : s1.MemHas P := .ite h h.modCore
    have hsent : sent.MemHas P := (h1.same (by rfl)).foldl fun _ _ hu => hu.sendLink
    split
    · exact h1
    · exact .ite h1.putThread (hsent.same (by rfl))

theorem State.MemHas.startMember {fk k core entry wbase : Nat} {host : Option Nat} {depth : Nat} (h : s.MemHas P) :
    (s.startMember fk k core entry wbase host depth).MemHas P := by
  unfold State.startMember
  dsimp only
  split
  · exact h
  · exact (h.same (by rfl)).modFam.takeLinks.holdChanged

theorem State.MemHas.lanesReady {t : Thread} (h : s.MemHas P) : (s.lanesReady t).2.MemHas P := by
  unfold State.lanesReady
  dsimp only
  split
  · exact h
  · exact h
  · split
    · exact h
    · exact (h.dropRegistration.putThread.same (by rfl)).lanesFreed

theorem State.MemHas.readAs {mid key n : Nat} (h : s.MemHas P) : (s.readAs mid key n).2.MemHas P := by
  induction n generalizing s key with
  | zero => exact h
  | succ j ih =>
    unfold State.readAs
    dsimp only
    refine ih ?_
    split
    · exact h.useBanks
    · exact h.freeVal

theorem State.MemHas.restoreFrame {t : Thread} (h : s.MemHas Canonical) :
    (s.restoreFrame t).2.MemHas Canonical := by
  unfold State.restoreFrame
  split
  · exact h
  · next f _ =>
    dsimp only
    have hread {key n : Nat} : ((match f.vkey with
        | some k => s.readAs (clusterMaster t.core) k (f.vsize / 8)
        | none => ([], s)).2.readAs (clusterMaster t.core) key n).2.MemHas Canonical := by
      refine State.MemHas.readAs ?_
      split
      · exact h.readAs
      · exact h
    exact .ite hread.setWord hread

theorem State.MemHas.putCycle {tid : Nat} (h : s.MemHas Canonical) : (s.putCycle tid).MemHas Canonical := by
  unfold State.putCycle
  split
  · exact h
  · split
    · exact h
    · exact h.writeAs

theorem State.MemHas.armAt {l : Loc} {tid idx : Nat} (h : s.MemHas P) : (s.armAt l tid idx).2.MemHas P :=
  .pairIte h.setHomeMons h.setHomeMons

theorem State.MemHas.unparkMons {tid : Nat} (h : s.MemHas P) : (s.unparkMons tid).MemHas P := by
  unfold State.unparkMons
  dsimp only
  refine h.foldl fun u x hu => ?_
  split
  · exact hu
  · split
    · exact hu
    · exact hu.armAt.modThread

theorem State.MemHas.restoreInto {tid core entry wbase : Nat} (h : s.MemHas Canonical) :
    (s.restoreInto tid core entry wbase).MemHas Canonical := by
  unfold State.restoreInto
  dsimp only
  split
  · exact h
  · refine State.MemHas.putCycle ?_
    refine State.MemHas.unparkMons ?_
    split
    · exact h.restoreFrame.putThread.putThread.lanesFreed
    · exact h.restoreFrame.putThread

theorem State.MemHas.adoptStep {host : Nat} (h : s.MemHas Canonical) : (s.adoptStep host).MemHas Canonical := by
  unfold State.adoptStep
  split
  · exact h
  · next t _ =>
    refine .ite h (.ite h.preemptAdopter ?_)
    dsimp only
    split
    · refine .ite h.modThread ?_
      split
      · next hm => exact (h.makeRun.of_pair hm).startMember
      · next hm => exact (h.makeRun.of_pair hm).modThread
    · split
      · next hm => exact (h.makeRun.of_pair hm).modThread
      · next b u hm =>
        have hready : (u.lanesReady t).2.MemHas Canonical := (h.makeRun.of_pair hm).lanesReady
        exact .ite hready.restoreInto.modThread hready

theorem State.MemHas.endThread {tid : Nat} (h : s.MemHas Canonical) : (s.endThread tid).MemHas Canonical := by
  unfold State.endThread
  dsimp only
  split
  · exact h
  · split
    · exact h.retire.adoptStep
    · exact h.retire

theorem State.MemHas.dropLinks {p : LinkVal → Bool} (h : s.MemHas P) : (s.dropLinks p).MemHas P :=
  (h.same (by rfl))

theorem State.MemHas.killAll {fuel : Nat} {fams tids : List Nat} (h : s.MemHas Canonical) :
    (s.killAll fuel fams tids).MemHas Canonical := by
  induction fuel generalizing s fams tids with
  | zero => exact h
  | succ j ih =>
    unfold State.killAll
    split
    · split
      · exact ih h
      · exact .ite (ih h.putThread) (ih h.retire)
    · split
      · exact h
      · split
        · exact ih h
        · exact .ite (ih h) (ih h.modFam.dropLinks)

theorem State.MemHas.killOver (h : s.MemHas Canonical) : s.killOver.MemHas Canonical :=
  .ite h.killAll.endThread h

theorem State.MemHas.stopOver (h : s.MemHas P) : s.stopOver.MemHas P := by
  unfold State.stopOver
  split
  · exact .ite h.updCur h
  · exact h

theorem State.MemHas.raiseStep (h : s.MemHas Canonical) : s.raiseStep.MemHas Canonical := by
  unfold State.raiseStep
  split
  · exact h
  · split
    · exact h.debugCause
    · exact h.debugCause
    · exact h

theorem State.MemHas.stepOver (h : s.MemHas Canonical) : s.stepOver.MemHas Canonical :=
  .ite (.ite h.updCur.raiseStep.updCur h.updCur.raiseStep.updCur.modCore) (.ite h.updCur.raiseStep h)

theorem State.MemHas.preemptThread {t : Thread} {kind : Nat} (h : s.MemHas Canonical) :
    (s.preemptThread t kind).MemHas Canonical :=
  h.saveThread.listSaved.parkHosts

theorem State.MemHas.saveOver (h : s.MemHas Canonical) : s.saveOver.MemHas Canonical := by
  unfold State.saveOver
  split
  · exact .ite h.preemptThread h
  · exact h

theorem State.MemHas.turnOver (h : s.MemHas P) : s.turnOver.MemHas P := by
  unfold State.turnOver
  dsimp only
  split
  · exact .ite h.updCur h
  · exact h

theorem State.MemHas.drawStopped {c : Nat} (h : s.MemHas P) : (s.drawStopped c).MemHas P := by
  unfold State.drawStopped
  extract_lets busy
  split
  next n s1 he =>
  have h1 : s1.MemHas P := by
    split at he
    · cases he
      exact h
    · exact h.choose.of_pair he
  exact .ite h1.modCore.wakeWhere h1.modCore

theorem State.MemHas.countEvent {cl code n : Nat} (h : s.MemHas P) : (s.countEvent cl code n).MemHas P :=
  h.modCluster

theorem State.MemHas.endCycle {c reason : Nat} (h : s.MemHas P) : (s.endCycle c reason).MemHas P := by
  unfold State.endCycle
  dsimp only
  split
  · refine State.MemHas.countEvent ?_
    exact .ite h.drawStopped.modCore.countEvent h.drawStopped.modCore
  · split
    · refine State.MemHas.countEvent ?_
      refine State.MemHas.countEvent ?_
      exact .ite h.drawStopped.modCore.countEvent h.drawStopped.modCore
    · refine State.MemHas.countEvent ?_
      exact .ite h.drawStopped.modCore.countEvent h.drawStopped.modCore

theorem State.MemHas.checkIn (h : s.MemHas P) : s.checkIn.MemHas P :=
  .ite (h.same (by rfl)) ((h.same (by rfl)).same (by rfl))

theorem State.MemHas.noteTurn {c : Nat} (h : s.MemHas P) : (s.noteTurn c).MemHas P :=
  h.setCore.updCur

theorem State.MemHas.boundary (h : s.MemHas Canonical) : s.boundary.MemHas Canonical := by
  unfold State.boundary
  extract_lets c s1 f s2 s3 s4 s5 s6 s7
  have h2 : s2.MemHas Canonical := .ite h.closePair.raiseWatch h.closePair
  have h3 : s3.MemHas Canonical := h2.stepOver.stopOver.killOver
  have h4 : s4.MemHas Canonical := .ite h3.wake h3
  have h6 : s6.MemHas Canonical := .ite h4.saveOver.turnOver h4.saveOver
  have h7 : s7.MemHas Canonical := h6.same (by rfl)
  exact .ite h7.noteTurn.checkIn.endCycle h7.checkIn

end Sys2Proof.Machine
end

section
/-! Memory through traps, waits and the issue of an instruction (O49). -/

namespace Sys2Proof.Machine
variable {P : Memory → Prop} {s : State}

theorem State.MemHas.deliverTrap {c : Cause} {pc i0 i1 : Word} (h : s.MemHas Canonical) :
    (s.deliverTrap c pc i0 i1).MemHas Canonical :=
  .ite (.ite h.deliverToKernel h.updCur) h.deliverToKernel

theorem State.MemHas.takeTrap {c : Cause} {i0 i1 : Option Word} (h : s.MemHas Canonical) :
    (s.takeTrap c i0 i1).MemHas Canonical :=
  (h.trapWord.trapWord.deliverTrap.same (by rfl))

theorem State.MemHas.lateDeadlock {scan trunc : Bool} (h : s.MemHas Canonical) :
    (s.lateDeadlock scan trunc).MemHas Canonical := by
  unfold State.lateDeadlock
  dsimp only
  exact h.unread.updCur.takeTrap

theorem State.MemHas.secondTurn (h : s.MemHas P) : s.secondTurn.MemHas P :=
  (h.same (by rfl))

theorem State.MemHas.find (h : s.MemHas P) : s.find.2.MemHas P := by
  unfold State.find
  dsimp only
  split
  · exact h
  · split
    · exact h
    · exact h

theorem State.MemHas.applySide {d : Side} (h : s.MemHas P) : (s.applySide d).MemHas P := by
  unfold State.applySide
  dsimp only
  split
  · exact h
  · exact h.same (by rfl)
  · exact h.same (by rfl)
  · exact h.same (by rfl)
  · exact h.modCluster.updCur.holdChanged

theorem State.MemHas.enterWait {reason key : Nat} {side : Side} (h : s.MemHas P) :
    (s.enterWait reason key side).MemHas P := by
  unfold State.enterWait
  extract_lets s1
  have h1 : s1.MemHas P := .ite h.dropRegistration h
  exact ((h1.applySide (d := side)).same (by rfl))

theorem State.MemHas.takeDeferred (h : s.MemHas Canonical) : s.takeDeferred.MemHas Canonical := by
  unfold State.takeDeferred
  split
  · exact h
  · exact h.updCur.takeTrap

theorem State.MemHas.settle {r : Except Stop (Flow × State)} (h : s.MemHas Canonical) (hr : Ends Canonical r) :
    (s.settle r).MemHas Canonical := by
  cases hr with
  | @ok f t ht =>
    cases f with
    | held => exact .ite h.takeTrap (ht.same (by rfl))
    | _ => exact ht.same (by rfl)
  | trap ht => exact ht.takeTrap
  | wait => exact .ite h.takeTrap h.enterWait.updCur
  | forfeit => exact h.same (by rfl)
  | deferred => exact h.takeDeferred

theorem State.MemHas.suspend {f : Flow} {key : Nat} {m : BitVec 16} (h : s.MemHas Canonical) :
    (s.suspend f key m).MemHas Canonical := by
  unfold State.suspend
  split
  · exact (h.settle .wait).boundary
  · exact (h.settle .forfeit).boundary

theorem State.MemHas.banksFull (h : s.MemHas P) : s.banksFull.MemHas P :=
  h.updCur.modCore

theorem State.MemHas.forfeitPair {ex : Runner} {a b : Instr} (h : s.MemHas Canonical) :
    (forfeitPair ex a b s).MemHas Canonical :=
  h.suspend

theorem State.MemHas.awaitLine {again : Bool} (h : s.MemHas P) : (s.awaitLine again).MemHas P := by
  unfold State.awaitLine
  dsimp only
  refine State.MemHas.enterWait ?_
  exact .ite h.updCur h

theorem State.MemHas.breakpoints {pcs : List Word} (h : s.MemHas Canonical) :
    (s.breakpoints pcs).2.MemHas Canonical := by
  unfold State.breakpoints
  dsimp only
  split
  · exact h
  · split
    · exact h
    · split
      · exact .ite (h.same (by rfl)).updCur (h.same (by rfl)).updCur
      · exact (h.same (by rfl)).updCur.clusterCommand
      · exact h.same (by rfl)
      · exact h.same (by rfl)

theorem State.MemHas.modFq {f : FaultQueue → FaultQueue} (h : s.MemHas P) : (s.modFq f).MemHas P :=
  (h.same (by rfl))

theorem State.MemHas.writeFault {ws : List Word} (h : s.MemHas Canonical) : (s.writeFault ws).MemHas Canonical :=
  Memory.wf_writeWords _ _ _ h

theorem State.MemHas.flushFaults {fuel : Nat} (h : s.MemHas Canonical) : (s.flushFaults fuel).MemHas Canonical := by
  induction fuel generalizing s with
  | zero => exact h
  | succ j ih =>
    unfold State.flushFaults
    split
    · exact h
    · exact .ite (ih h.modFq.writeFault) h

theorem State.MemHas.recordFault {ws : List Word} (h : s.MemHas Canonical) : (s.recordFault ws).MemHas Canonical :=
  h.modFq.flushFaults

theorem State.MemHas.faultOf {cluster launch fkind level : Nat} {w : Waiter} (h : s.MemHas Canonical) :
    (s.faultOf cluster launch fkind level w).MemHas Canonical :=
  (h.same (by rfl)).recordFault

theorem State.MemHas.lineFault {fkind level : Nat} (h : s.MemHas Canonical) :
    (s.lineFault fkind level).MemHas Canonical :=
  h.faultOf.updCur.enterWait

theorem State.MemHas.noteSlot (h : s.MemHas P) : s.noteSlot.MemHas P :=
  .ite h.modCore h

theorem State.MemHas.noteIssued (h : s.MemHas P) : s.noteIssued.MemHas P :=
  h.noteSlot.updCur

theorem State.MemHas.keepRing {n : Fin 32} {push : Bool} (h : s.MemHas P) : (s.keepRing n push).MemHas P := by
  unfold State.keepRing
  dsimp only
  split
  · exact h
  · refine State.MemHas.holdChanged ?_
    exact .ite (.ite h h.setRing.updCur) (.ite h h.setRing.updCur)

theorem State.MemHas.keepArray (h : s.MemHas P) : s.keepArray.MemHas P := by
  unfold State.keepArray
  dsimp only
  split
  · exact h
  · split
    · exact h
    · exact h.setArray.holdChanged

theorem State.MemHas.reserved {cl n x use : Nat} (h : s.MemHas P) : (s.reserved cl n x use).MemHas P := by
  unfold State.reserved
  dsimp only
  refine State.MemHas.updCur ?_
  split
  · exact h.setRing
  · exact h

theorem State.MemHas.keepSlot {n : Fin 32} (h : s.MemHas P) : (s.keepSlot n).MemHas P := by
  unfold State.keepSlot
  dsimp only
  split
  · exact h.reserved.holdChanged
  · exact h

theorem State.MemHas.keepBin {p : Thread} (h : s.MemHas P) : ExcHas P (s.keepBin p) := by
  unfold State.keepBin
  split
  · exact .ok h
  · split
    · exact .error
    · exact .ok (h.same (by rfl))

theorem State.MemHas.bindPacket {p : Packet} (h : s.MemHas P) : (s.bindPacket p).MemHas P :=
  h.modCore.updCur

theorem State.MemHas.reserveSecond {b : Instr} {p : Thread} (h : s.MemHas P) : ExcHas P (s.reserveSecond b p) := by
  unfold State.reserveSecond
  extract_lets copy
  have hcopy : ExcHas P copy := .ok h.updCur
  split
  · exact .ok h
  · split
    · exact hcopy
    · exact hcopy
    · exact hcopy
    · exact hcopy
    · exact hcopy
    · exact .ok h.keepRing
    · exact .ok h.keepRing
    · exact .ok h.keepSlot.keepArray
    · exact .ok h.keepSlot
    · exact .ok h.updCur.holdChanged
    · exact h.keepBin
    · split
      · split
        · exact .ok h.bindPacket
        · exact .ok h
      · exact .ok h

end Sys2Proof.Machine
end

section
/-! Memory through operands, results, families and the registers of a core (O49). -/

namespace Sys2Proof.Machine
variable {P : Memory → Prop} {s : State}

theorem keeps_getCur : Keeps P getCur :=
  fun _ h => .ok h

theorem keeps_trapW {α : Type} {c : Cause} {i0 i1 : Word} : Keeps P (trapW c i0 i1 : M α) :=
  fun _ h => .trap h

theorem keeps_orTrap {b : Bool} {c : Cause} {i0 i1 : Word} : Keeps P (orTrap b c i0 i1) :=
  .ite .pure keeps_trapW

theorem keeps_updCur {f : Thread → Thread} : Keeps P (updCur f) :=
  fun _ h => .ok h.updCur

theorem keeps_transfer {pc : Word} {src : Option Word} : Keeps P (transfer pc src) :=
  .bind keeps_orTrap fun _ => .bind keeps_updCur fun _ => .pure

theorem State.MemHas.countErrors {c n : Nat} (h : s.MemHas P) : (s.countErrors c n).MemHas P :=
  h.modCore

theorem keeps_eccCheck {r : SReg} : Keeps P (eccCheck r) :=
  fun _ h => .ite (.trap h.countErrors) (.ok h)

theorem keeps_readD {n : Fin 16} : Keeps P (readD n) :=
  fun _ h => .ite (.ok h) .wait

theorem State.MemHas.consumeFlit {p : Packet} (h : s.MemHas P) : (s.consumeFlit p).MemHas P :=
  .ite h.modCore.drainQueue h.updCur.dropPacket

theorem keeps_readRx : Keeps P readRx := by
  unfold readRx
  intro s h
  dsimp only
  split
  · exact .wait
  · split
    · exact .ok h.bindPacket.consumeFlit
    · exact .trap h.bindPacket.consumeFlit

theorem keeps_readRxh : Keeps P readRxh := by
  unfold readRxh
  intro s h
  dsimp only
  split
  · exact .wait
  · exact .ok h.bindPacket

theorem keeps_readS {r : SReg} : Keeps P (readS r) := by
  unfold readS
  refine .bind keeps_getCur fun x => ?_
  refine .bind keeps_eccCheck fun x => ?_
  split
  · exact fun _ h => .ok h
  · exact fun _ h => .ok h
  · exact fun _ h => .ite (.ok h) (keeps_readD _ h)
  · exact keeps_readD
  · exact .pure
  · exact keeps_readRx
  · exact keeps_readRxh
  · exact fun _ h => .ok h

theorem keeps_checkDst {d : Dst} : Keeps P (checkDst d) := by
  unfold checkDst
  intro s h
  dsimp only
  split
  · exact .ite (.trap h) (.ok h)
  · exact .ok h

theorem keeps_portCheck {d : Dst} : Keeps P (portCheck d) := by
  unfold portCheck
  intro s h
  dsimp only
  split
  · exact .trap h
  · exact .trap h
  · exact .ite (.trap h) (.ok h)
  · exact .trap h
  · exact .ok h

theorem State.MemHas.fillFrame {t : Thread} {n : Fin 16} {v : Word} (h : s.MemHas Canonical) :
    (s.fillFrame t n v).MemHas Canonical := by
  unfold State.fillFrame
  dsimp only
  split
  · exact h
  · exact .ite h.writeAs.writeAs h

theorem State.MemHas.fillD {t : Thread} {n : Fin 16} {v : Word} (h : s.MemHas Canonical) :
    (s.fillD t n v).MemHas Canonical :=
  .ite h.fillFrame.modThread.wake h.fillFrame.modThread

theorem State.MemHas.sendLinked {fuel f k : Nat} {n : Fin 16} {v : Word} {c : Nat} {must : Bool}
    (h : s.MemHas Canonical) : OptHas Canonical (s.sendLinked fuel f k n v c must) := by
  induction fuel generalizing s k with
  | zero =>
    unfold State.sendLinked
    split
    · exact .some h
    · refine .ite (.some h) (.ite (.some h.modFam) ?_)
      split
      · exact .ite (.some h.fillD) (.some h.sendLink)
      · exact .ite (.ite (.some h) (.some h)) (.ite (.ite (.some h.modCore) (.some h.sendLink)) .none)
  | succ j ih =>
    unfold State.sendLinked
    split
    · exact .some h
    · refine .ite (.some h) (.ite (.some h.modFam) ?_)
      split
      · exact .ite (.some h.fillD) (.some h.sendLink)
      · exact .ite (.ite (ih h.modFam) (.some h)) (.ite (.ite (.some h.modCore) (.some h.sendLink)) .none)

theorem keeps_writeShared {n : Fin 16} {v : Word} : Keeps Canonical (writeShared n v) := by
  unfold writeShared
  intro s h
  dsimp only
  split
  · next t ht => exact .ok ((h.updCur.sendLinked _ ht))
  · exact .trap h

theorem keeps_writeTxh {v : Word} : Keeps P (writeTxh v) :=
  fun _ h => .ite (.ok h.updCur) (.trap h)

theorem keeps_channelFree {c : Chan} : Keeps P (channelFree c) :=
  fun _ h => .ite .wait (.ok h)

theorem keeps_modS {f : State → State} (hf : ∀ u, State.MemHas P u → (f u).MemHas P) : Keeps P (modS f) :=
  fun _ h => .ok (hf _ h)

theorem State.MemHas.sendFlit {p : OpenPkt} {v : Word} {close : Bool} (h : s.MemHas P) :
    (s.sendFlit p v close).MemHas P :=
  .ite (h.same (by rfl)) (h.same (by rfl))

theorem keeps_holdFor {reason key : Nat} {c : Comp} {acq : Bool} : Keeps P (holdFor reason key c acq) :=
  fun _ h => .ok h.updCur

theorem keeps_writeD {d : Dst} {v : Word} : Keeps Canonical (writeD d v) := by
  unfold writeD
  refine .bind keeps_checkDst fun x => ?_
  refine .bind keeps_portCheck fun x => ?_
  split
  · exact .bind keeps_updCur fun _ => .pure
  · exact keeps_writeShared
  · exact .pure
  · exact keeps_writeTxh
  · refine .bind keeps_channelFree fun x => ?_
    refine .bind ?_ fun _ => .pure
    refine .modS fun u hu => ?_
    split
    · exact hu.sendFlit
    · exact hu
  · refine .bind keeps_channelFree fun x => ?_
    refine .bind ?_ fun _ => keeps_holdFor
    refine .modS fun u hu => ?_
    split
    · exact hu.sendFlit
    · exact hu

theorem keeps_callTo {d : Dst} {t : Word} : Keeps Canonical (callTo d t) := by
  unfold callTo
  refine .bind keeps_orTrap fun x => ?_
  refine .bind keeps_getCur fun x => ?_
  refine .bind keeps_writeD fun x => ?_
  split
  · exact keeps_holdFor
  · exact keeps_transfer

theorem keeps_checkShareds {brk : Bool} {l : List (Fin 16)} : Keeps P (checkShareds brk l) := by
  induction l with
  | nil => exact .pure
  | cons n r ih =>
    unfold checkShareds
    exact .bind keeps_getCur fun _ => .ite (.bind (.ite keeps_eccCheck .pure) fun _ => ih)
      (.guard keeps_eccCheck ih)

theorem keeps_settleShared {brk : Bool} {n : Fin 16} : Keeps Canonical (settleShared brk n) := by
  unfold settleShared
  intro s h
  dsimp only
  split
  · split
    · split
      · next t ht => exact .ok ((h.sendLinked _ ht))
      · exact .trap h
    · exact .ok h
  · split
    · split
      · next t ht => exact .ok ((h.sendLinked _ ht))
      · exact .trap h
    · exact .ok h.modFam

theorem keeps_settleShareds {brk : Bool} {l : List (Fin 16)} : Keeps Canonical (settleShareds brk l) := by
  induction l with
  | nil => exact .pure
  | cons n r ih => exact .bind keeps_settleShared fun _ => ih

theorem State.MemHas.killBeyond {fk : Nat} (h : s.MemHas Canonical) : (s.killBeyond fk).MemHas Canonical := by
  unfold State.killBeyond
  split
  · exact h
  · exact h.dropLinks.killAll

theorem keeps_endMember {brk : Bool} : Keeps Canonical (endMember brk) :=
  .bind keeps_getCur fun _ => .guard keeps_trapW (.get fun _ _ => .bind keeps_checkShareds fun _ =>
    .guard (.modS fun _ hu => hu.modFam) (.bind keeps_settleShareds fun _ => .guard (.modS fun _ hu =>
      hu.killBeyond) (.bind (.modS fun _ hu => hu.endThread) fun _ => .pure)))

theorem keeps_openRecord : Keeps P openRecord :=
  fun _ h => .ite (.ok h) (.ite (.trap h) (.ok h.updCur))

theorem keeps_operandB {b : SrcB} : Keeps P (operandB b) := by
  unfold operandB
  split
  · exact keeps_readS
  · exact .pure
  · exact .pure

theorem keeps_fsetValue {o : OpFset} : Keeps P (fsetValue o) := by
  unfold fsetValue
  refine .bind keeps_getCur fun x => ?_
  split
  · exact .pure
  · exact keeps_operandB

theorem keeps_createChecks : Keeps P createChecks := by
  unfold createChecks
  dsimp only
  refine .get fun s hs => ?_
  refine .bind keeps_orTrap fun x => ?_
  refine .bind keeps_orTrap fun x => ?_
  refine .bind keeps_orTrap fun x => ?_
  refine .bind keeps_orTrap fun x => ?_
  split
  · exact .bind keeps_orTrap fun _ => .bind keeps_orTrap fun _ => .bind keeps_orTrap fun _ => .pure
  · exact keeps_trapW

theorem State.MemHas.pickRecord {launch : Nat} (h : s.MemHas P) : (s.pickRecord launch).2.MemHas P :=
  (h.same (by rfl))

theorem State.MemHas.takeGen {launch record : Nat} (h : s.MemHas P) : (s.takeGen launch record).2.MemHas P := by
  unfold State.takeGen
  dsimp only
  split
  · exact h
  · exact h.modLaunch

theorem keeps_trapIn {α : Type} {m : M α} (h : s.MemHas P) (hm : Keeps P m) : Keeps P (trapIn s m) := by
  intro u hu
  have hends := hm u hu
  unfold trapIn
  cases hmu : m u with
  | ok p =>
    rw [hmu] at hends
    exact hends
  | error e =>
    rw [hmu] at hends
    cases e with
    | trap => exact .trap h
    | wait => exact hends
    | forfeit => exact hends
    | deferred => exact hends

theorem State.MemHas.adopt {fk : Nat} (h : s.MemHas Canonical) : (s.adopt fk).MemHas Canonical :=
  (h.updCur.saveThread.adoptStep.same (by rfl))

theorem State.MemHas.startOn {fk c fuel : Nat} (h : s.MemHas Canonical) : (s.startOn fk c fuel).MemHas Canonical := by
  induction fuel generalizing s with
  | zero => exact h
  | succ j ih =>
    unfold State.startOn
    split
    · exact h
    · split
      · exact ih h.startMember
      · exact h

theorem State.MemHas.startAll {fk : Nat} {place : List Nat} (h : s.MemHas Canonical) :
    (s.startAll fk place).MemHas Canonical :=
  h.foldl fun _ _ hu => hu.startOn

theorem State.MemHas.familyMade {fk : Nat} (h : s.MemHas Canonical) : (s.familyMade fk).MemHas Canonical := by
  unfold State.familyMade
  split
  · exact .ite h.modFam h.startAll
  · exact h

theorem keeps_familyAt {v : Word} : Keeps P (familyAt v) := by
  unfold familyAt
  intro s h
  dsimp only
  split
  · exact .ok h
  · exact .trap h

theorem keeps_raiseDeferred : Keeps P raiseDeferred := by
  unfold raiseDeferred
  intro s h
  dsimp only
  split
  · exact .ok h
  · exact .deferred

theorem keeps_acquire : Keeps P acquire :=
  keeps_updCur

theorem State.MemHas.keepBinding {a : SReg} (h : s.MemHas P) : (s.keepBinding a).MemHas P := by
  unfold State.keepBinding
  dsimp only
  split
  · split
    · exact h.bindPacket
    · exact h
  · split
    · exact h.bindPacket
    · exact h
  · exact h

theorem keeps_waitR {α : Type} {reason key : Nat} : Keeps P (waitR reason key : M α) :=
  fun _ _ => .wait

theorem keeps_waitFamily {a : SReg} {fk : Nat} {f : Fam} {rest : M Flow} (h : s.MemHas Canonical)
    (hrest : Keeps Canonical rest) : Keeps Canonical (waitFamily s a fk f rest) :=
  .ite (.bind keeps_raiseDeferred fun _ => .bind keeps_acquire fun _ => hrest) (.ite (.get fun _ _ =>
    .guard keeps_trapW (.guard (fun _ h => .trap h) (.bind (.set h.keepBinding.adopt) fun _ => .pure))) keeps_waitR)

theorem State.MemHas.killFam {f : Nat} (h : s.MemHas Canonical) : (s.killFam f).MemHas Canonical :=
  h.killAll

theorem keeps_operandZ {b : SrcC} : Keeps P (operandZ b) := by
  unfold operandZ
  split
  · exact keeps_readS
  · exact .pure

theorem State.MemHas.renegotiate {cap : Option Nat} (h : s.MemHas P) : (s.renegotiate cap).MemHas P := by
  unfold State.renegotiate
  split
  · exact h
  · exact h.updCur.lanesFreed

theorem State.MemHas.cmdErr {c : Nat} (h : s.MemHas P) : (s.cmdErr c).MemHas P :=
  h.modCore

theorem State.MemHas.stopCore {c origin unit ocore : Nat} (h : s.MemHas P) :
    (s.stopCore c origin unit ocore).MemHas P :=
  .ite h (h.modCore.foldl fun _ _ hu => hu.putThread)

theorem State.MemHas.resumeThread {t : Thread} (h : s.MemHas P) : (s.resumeThread t).MemHas P := by
  unfold State.resumeThread
  dsimp only
  split
  · split
    · refine State.MemHas.putThread ?_
      exact .ite h.putThread h
    · refine State.MemHas.putThread ?_
      exact .ite h.putThread h
  · split
    · split
      · refine State.MemHas.putThread ?_
        exact .ite h.putThread h
      · refine State.MemHas.putThread ?_
        exact .ite h.putThread h
    · exact .ite h.putThread h
  · exact .ite h.putThread h

theorem State.MemHas.resumeCore {c : Nat} (h : s.MemHas P) : (s.resumeCore c).MemHas P :=
  h.modCore.foldl fun _ _ hu => hu.resumeThread

theorem State.MemHas.stepTake {l : List Thread} (h : s.MemHas P) : (s.stepTake l).MemHas P := by
  induction l generalizing s with
  | nil => exact h
  | cons t r ih =>
    unfold State.stepTake
    split
    · exact ih h.putThread
    · split
      · exact ih h.putThread
      · exact ih h.modCore

theorem State.MemHas.dcmd {c : Nat} {v : Word} (h : s.MemHas P) : (s.dcmd c v).MemHas P := by
  unfold State.dcmd
  dsimp only
  split
  · split
    · exact h.stopThread
    · exact h.cmdErr
  · exact h.stopCore
  · exact h.clusterCommand
  · split
    · exact h.resumeThread
    · exact h.cmdErr
  · exact h.resumeCore
  · exact h.clusterCommand
  · split
    · exact h.cmdErr
    · exact h.stepTake
  · exact h.cmdErr

theorem State.MemHas.debugWrite {c n : Nat} {v : Word} (h : s.MemHas P) : (s.debugWrite c n v).MemHas P :=
  .ite h.modCore (.ite h.modCore (.ite h.modCore (.ite h.modCore (.ite h.modCore (.ite h.dcmd (.ite h.modCore
    (.ite h.modCore (.ite h.modCore (.ite h.modCore (.ite h.modCore (.ite h.modCore (.ite
      (.ite h.modCore.modCore h.modCore) (.ite h.modCore h)))))))))))))

theorem keeps_writeCreg {n : Nat} {v : Word} : Keeps P (writeCreg n v) :=
  .bind keeps_getCur fun _ =>
    .ite (.guard keeps_trapW keeps_updCur) (.ite keeps_updCur (.ite keeps_updCur (.ite keeps_updCur
      (.ite keeps_updCur (.ite (.ite keeps_updCur .pure) (.ite keeps_updCur (.ite keeps_updCur (.ite
        (.modS fun _ hu => hu.debugWrite) .pure))))))))

theorem State.MemHas.closeOne {c n : Nat} (h : s.MemHas P) : (s.closeOne c n).MemHas P :=
  .ite h.modCore h

theorem State.MemHas.closePhases {c : Nat} {sc : Scope} {ps : List PhaseId} {t : State} (h : s.MemHas P)
    (ht : s.closePhases c sc = some (ps, t)) : t.MemHas P := by
  unfold State.closePhases at ht
  dsimp only at ht
  split at ht
  · cases ht
  · cases ht
    exact h.foldl fun _ _ hu => hu.closeOne

theorem keeps_closeAt {sc : Scope} : Keeps P (closeAt sc) := by
  intro s h
  unfold closeAt
  split
  · exact .wait
  · next ht => exact .ok (h.closePhases ht)

theorem keeps_afterPhases {ps : List PhaseId} {next : Comp} {acq : Bool} {now : M Flow} (hnow : Keeps P now) :
    Keeps P (afterPhases ps next acq now) :=
  .ite (.bind keeps_raiseDeferred fun _ => hnow) keeps_holdFor

theorem State.MemHas.checkpoint {id : Word} (h : s.MemHas P) : (s.checkpoint id).MemHas P := by
  unfold State.checkpoint
  dsimp only
  refine State.MemHas.updCur ?_
  exact .ite h.emit h

theorem keeps_raiseFlags {bitsSet : Word} : Keeps P (raiseFlags bitsSet) :=
  keeps_updCur

theorem keeps_countConv : Keeps P countConv :=
  keeps_updCur

theorem keeps_writeRes {d : Dst} {v flags : Word} {conv : Bool} : Keeps Canonical (writeRes d v flags conv) := by
  unfold writeRes
  dsimp only
  refine .bind keeps_raiseFlags fun x => ?_
  refine .bind keeps_writeD fun x => ?_
  split
  · exact keeps_holdFor
  · exact .guard keeps_countConv .pure

theorem keeps_writeP {p : PredNo} {b : Bool} : Keeps P (writeP p b) :=
  keeps_updCur

theorem keeps_fpOperand {b : SrcC} : Keeps P (fpOperand b) :=
  .bind keeps_operandZ fun _ => .pure

theorem keeps_writeConv {d : Dst} {r : Rounded} : Keeps Canonical (writeConv d r) :=
  keeps_writeRes

end Sys2Proof.Machine
end

section
/-! Memory through accesses and what their homes do (O49). -/

namespace Sys2Proof.Machine
variable {P : Memory → Prop} {s : State}

theorem keeps_operandS {b : SrcC} : Keeps P (operandS b) := by
  unfold operandS
  split
  · exact keeps_readS
  · exact .pure

theorem keeps_memAddr {m : MemOp} : Keeps P (memAddr m) :=
  .bind keeps_readS fun _ => .bind keeps_operandS fun _ => .pure

theorem keeps_translate {va : Word} {a : Access} {elem : Nat} : Keeps P (translate va a elem) := by
  unfold translate
  intro s h
  dsimp only
  split
  · exact .ok h
  · exact .wait

theorem keeps_locate {a : Word} {align : Nat} {acc : Access} {sc : Scope} {elem : Nat} :
    Keeps P (locate a align acc sc elem) := by
  unfold locate
  dsimp only
  refine .get fun s hs => ?_
  refine .bind keeps_orTrap fun x => ?_
  split
  · exact keeps_trapW
  · exact .bind keeps_orTrap fun _ => .pure
  · exact .bind keeps_orTrap fun _ => .pure
  · exact .bind keeps_orTrap fun _ => .bind keeps_translate fun _ => .bind keeps_orTrap fun _ => .pure

theorem keeps_boardCheck {a : Word} {n : Nat} {store : Bool} : Keeps P (boardCheck a n store) :=
  fun _ h => .ite .wait (.ok h)

theorem keeps_raiseAt {rel now : Bool} : Keeps P (raiseAt rel now) :=
  .ite keeps_raiseDeferred .pure

theorem keeps_closeIf {rel : Bool} {sc : Scope} : Keeps P (closeIf rel sc) :=
  .ite keeps_closeAt .pure

theorem keeps_launchReq {q : Req} : Keeps P (launchReq q) :=
  .modS fun _ hu => hu.same (by rfl)

theorem keeps_takeBanks {m : BitVec 16} : Keeps P (takeBanks m) :=
  fun _ h => .ite .forfeit (.ok h)

theorem keeps_takeBank {l : Loc} : Keeps P (takeBank l) :=
  keeps_takeBanks

theorem State.MemHas.modPkg {f : Pkg → Pkg} (h : s.MemHas P) : (s.modPkg f).MemHas P :=
  (h.same (by rfl))

theorem State.MemHas.answerUnit {u mid : Nat} {a : UnitAnswer} (h : s.MemHas P) : (s.answerUnit u mid a).MemHas P :=
  h.modPkg

theorem State.MemHas.setOwner {u : Nat} {o : Owner} (h : s.MemHas P) : (s.setOwner u o).MemHas P :=
  .ite (h.same (by rfl)) h.modCluster

theorem State.MemHas.mregAccess {mid : Nat} {r : MReg} (h : s.MemHas P) : (s.mregAccess mid r).2.MemHas P := by
  unfold State.mregAccess
  split
  · exact h
  · split
    · exact h.setOwner.answerUnit
    · exact h

theorem State.MemHas.sendRegWrite {mid off : Nat} {v : Word} (h : s.MemHas P) : (s.sendRegWrite mid off v).MemHas P :=
  (h.same (by rfl))

theorem State.MemHas.mgmtOp {q : Req} {off : Nat} (h : s.MemHas P) : (s.mgmtOp q off).2.MemHas P := by
  unfold State.mgmtOp
  dsimp only
  split
  · split
    · exact h
    · split
      · next ht => exact h.mregAccess.of_pair ht
      · next ht => exact h.mregAccess.of_pair ht
  · split
    · exact h
    · split
      · next ht => exact (h.mregAccess.of_pair ht).sendRegWrite
      · next ht => exact h.mregAccess.of_pair ht
  · exact h

theorem State.MemHas.objDone {v : Word} {acq : Bool} (h : s.MemHas P) : (objDone v acq s).2.MemHas P :=
  h

theorem State.MemHas.objTrap {c : Cause} {q : Req} {reason : Word} (h : s.MemHas P) :
    (objTrap c q reason s).2.MemHas P :=
  h

theorem State.MemHas.dropEdges {obj : Nat} (h : s.MemHas P) : (s.dropEdges obj).MemHas P :=
  (h.same (by rfl))

theorem State.MemHas.watchAct {w : WSrc} {n act origin cluster : Nat} (h : s.MemHas P) :
    (s.watchAct w n act origin cluster).MemHas P := by
  unfold State.watchAct
  split
  · exact .ite h.clusterCommand h
  · exact h
  · split
    · exact h
    · exact h.modThread

theorem State.MemHas.watchSp {c off len : Nat} {rd ch : Bool} {data : Word} {w : WSrc} (h : s.MemHas P) :
    (s.watchSp c off len rd ch data w).MemHas P :=
  h.foldl fun _ _ hu => .ite hu.modCore.watchAct hu

theorem State.MemHas.watchSlice {pa len : Nat} {rd ch : Bool} {data : Word} {w : WSrc} {src : Nat} (h : s.MemHas P) :
    (s.watchSlice pa len rd ch data w src).MemHas P :=
  h.foldl fun _ _ hu => .ite (hu.same (by rfl)).watchAct hu

theorem State.MemHas.observe {l : Loc} {len : Nat} {rd ch : Bool} {w : WSrc} {src : Nat} (h : s.MemHas P) :
    (s.observe l len rd ch w src).MemHas P := by
  unfold State.observe
  dsimp only
  split
  · exact h
  · split
    · exact h.watchSp
    · exact h.watchSlice

theorem State.MemHas.putSlot {k i : Nat} {v : Word} {t : Tag} {q : Req} (h : s.MemHas Canonical) :
    (s.putSlot k i v t q).MemHas Canonical :=
  h.putWord.changed.observe

theorem State.MemHas.freeSlotsOf {k : Nat} {q : Req} (h : s.MemHas Canonical) :
    (s.freeSlotsOf k q).MemHas Canonical :=
  h.foldl fun _ _ hu => hu.putSlot

theorem State.MemHas.clearFor {k : Nat} {q : Req} {busy : Cause} {reason : Word} (h : s.MemHas Canonical) :
    ExcHas Canonical (s.clearFor k q busy reason) :=
  .ite (.ite .error (.ite .error (.ok h.freeSlotsOf.dropEdges.setObj))) (.ite .error (.ok h.setObj))

theorem State.MemHas.initOp {k : Nat} {q : Req} {busy : Cause} {reason hd : Word} (h : s.MemHas Canonical) :
    (s.initOp k q busy reason hd).2.MemHas Canonical := by
  unfold State.initOp
  split
  · exact h
  · next hc => exact (State.MemHas.of_exc h.clearFor hc).putHeader.objDone

/-- The words of a queue's entries are cleared one after another. -/
theorem State.MemHas.clearSlots {k : Nat} {q : Req} {l : List Nat} {r : Except (Ans × State) State}
    (h : ExcHas Canonical r) :
    ExcHas Canonical (l.foldl (fun r i =>
      match r with
      | .error a => .error a
      | .ok s => s.clearFor (k + 8 * (i + 1)) q .objectState 2) r) := by
  refine List.foldlRecOn _ _ h fun x hx i _ => ?_
  cases x with
  | error => exact .error
  | ok u => exact (hx u rfl).clearFor

theorem State.MemHas.qiOp {k : Nat} {q : Req} {c : Word} (h : s.MemHas Canonical) :
    (s.qiOp k q c).2.MemHas Canonical := by
  unfold State.qiOp
  refine .pairIte h ?_
  split
  · exact h
  · next s1 hc =>
    have hr := State.MemHas.clearSlots (k := k) (q := q) (l := List.range c.toNat) (.ok (.of_exc h.clearFor hc))
    dsimp only
    split
    · exact h
    · next s2 h2 =>
      have hslots : ((List.range c.toNat).foldl (fun s i => s.putSlot k i 0 .object q) s2).MemHas Canonical :=
        (State.MemHas.of_exc hr h2).foldl fun _ _ hu => hu.putSlot
      exact hslots.putHeader.modObj

theorem State.MemHas.insertWait {tid obj : Nat} {name : Word} {side : Bool} (h : s.MemHas Canonical) :
    ExcHas Canonical (s.insertWait tid obj name side) := by
  have hedge : ∀ e : Edge, State.MemHas Canonical
      { s.dropRegistration tid with edges := (s.dropRegistration tid).edges ++ [e] } :=
    fun _ => h.dropRegistration.same (by rfl)
  unfold State.insertWait
  dsimp only
  split
  · split
    · exact .error
    · exact .ok (hedge _).syncHolds.stepPrio
  · exact .ok h.dropRegistration.untrack

theorem State.MemHas.joinWait {k tid : Nat} {va : Word} {kind : ObjWait} {side : Bool} (h : s.MemHas Canonical) :
    ExcHas Canonical (s.joinWait k tid va kind side) := by
  unfold State.joinWait
  split
  · exact .error
  · next hw => exact .ok (State.MemHas.of_exc h.insertWait hw).modObj

theorem State.MemHas.recordCycle {tid : Nat} {path : List (Word × Nat)} (h : s.MemHas Canonical) :
    (s.recordCycle tid path).MemHas Canonical :=
  h.modThread.putCycle

theorem State.MemHas.objDeadlock {tid : Nat} {p : List (Word × Nat)} (h : s.MemHas Canonical) :
    (objDeadlock s tid p).2.MemHas Canonical :=
  h.recordCycle

theorem State.MemHas.barArrive {k : Nat} {q : Req} {p : Party} {wait : Bool} (h : s.MemHas Canonical) :
    (s.barArrive k q p wait).2.MemHas Canonical := by
  unfold State.barArrive
  extract_lets hd ph hd' mark s1
  have hmark : ∀ wd u, State.MemHas Canonical u → (mark wd u).MemHas Canonical := fun _ _ hu => hu.modObj
  have h1 : s1.MemHas Canonical := (hmark _ _ h.putHeader).refreshPrio
  refine .pairIte h1.barComplete ?_
  split
  · split
    · next hj => exact .of_exc h1.joinWait hj
    · exact (hmark _ _ h1).objDeadlock
  · exact h1

/-- A wait joins the waiters of an object, or closes a cycle. -/
theorem State.MemHas.joinOr {k tid : Nat} {va : Word} {kind : ObjWait} {side : Bool} {t : State}
    (h : s.MemHas Canonical) (ht : t.MemHas Canonical) :
    (match t.joinWait k tid va kind side with
      | .ok u => ((.wait 12, u) : Ans × State)
      | .error p => Machine.objDeadlock s tid p).2.MemHas Canonical := by
  split
  · next hj => exact .of_exc ht.joinWait hj
  · exact h.objDeadlock

theorem State.MemHas.barOp {k : Nat} {q : Req} {op : ObjOp} (h : s.MemHas Canonical) :
    (s.barOp k q op).2.MemHas Canonical := by
  unfold State.barOp
  dsimp only
  refine .pairIte (.pairIte h (h.joinOr h)) ?_
  split
  · refine .pairIte h (.pairIte h ?_)
    split
    · exact h.objDeadlock
    · exact h.modObj.insertHold.barArrive
  · refine .pairIte (.pairIte (h.joinOr h.modObj) h.modObj) ?_
    exact .pairIte h.barDrop (.pairIte h h.barArrive)

theorem State.MemHas.lockOp {k : Nat} {q : Req} {try_ : Bool} (h : s.MemHas Canonical) :
    (s.lockOp k q try_).2.MemHas Canonical := by
  unfold State.lockOp
  dsimp only
  refine .pairIte h (.pairIte ?_ (.pairIte h ?_))
  · split
    · exact h.objDeadlock
    · exact h.putHeader.modObj.insertHold
  · split
    · exact h.objDeadlock
    · next hj => exact (State.MemHas.of_exc h.joinWait hj).putHeader

theorem State.MemHas.unlockOp {k : Nat} {q : Req} (h : s.MemHas Canonical) : (s.unlockOp k q).2.MemHas Canonical := by
  unfold State.unlockOp
  dsimp only
  split
  · exact h.objTrap
  · exact h.removeHold.handOver.objDone

theorem State.MemHas.qJoin {k : Nat} {q : Req} {prod : Bool} (h : s.MemHas P) : ExcHas P (s.qJoin k q prod) := by
  unfold State.qJoin
  dsimp only
  refine .ite (.ok h) ?_
  split
  · exact .error
  · exact .ok h.modObj.insertHold.stepPrio

theorem State.MemHas.qStore {k : Nat} {v : Word} {q : Req} (h : s.MemHas Canonical) :
    (s.qStore k v q).MemHas Canonical :=
  h.putSlot.putHeader

theorem State.MemHas.pushOp {k : Nat} {q : Req} {v : Word} (h : s.MemHas Canonical) :
    (s.pushOp k q v).2.MemHas Canonical := by
  unfold State.pushOp
  split
  · exact h.objDeadlock
  · next t hq =>
    have ht : t.MemHas Canonical := .of_exc h.qJoin hq
    extract_lets hd
    split
    · exact ht.dropWaiter.putHeader.releaseWaiter
    · refine .pairIte ht.qStore ?_
      split
      · exact h.objDeadlock
      · next u hj =>
        have hu : u.MemHas Canonical := .of_exc ht.joinWait hj
        exact hu.putHeader

theorem State.MemHas.qTake {k : Nat} (h : s.MemHas Canonical) : (s.qTake k).2.MemHas Canonical :=
  h.putHeader

theorem State.MemHas.popOp {k : Nat} {q : Req} (h : s.MemHas Canonical) : (s.popOp k q).2.MemHas Canonical := by
  unfold State.popOp
  split
  · exact h.objDeadlock
  · next t hq =>
    have ht : t.MemHas Canonical := .of_exc h.qJoin hq
    extract_lets hd
    refine .pairIte ?_ ?_
    · split
      · exact h.objDeadlock
      · next u hj =>
        have hu : u.MemHas Canonical := .of_exc ht.joinWait hj
        exact hu.putHeader
    · have htake : (t.qTake k).2.MemHas Canonical := ht.qTake
      dsimp only
      split
      · exact htake
      · exact htake.dropWaiter.qStore.putHeader.releaseWaiter

theorem State.MemHas.wholdOp {k : Nat} {q : Req} (h : s.MemHas Canonical) : (s.wholdOp k q).2.MemHas Canonical := by
  unfold State.wholdOp
  dsimp only
  split
  · exact h.objTrap
  · split
    · exact h.objDeadlock
    · exact h.modObj.insertHold.putHeader.stepPrio.objDone

theorem State.MemHas.wdropOp {k : Nat} {q : Req} (h : s.MemHas Canonical) : (s.wdropOp k q).2.MemHas Canonical := by
  unfold State.wdropOp
  dsimp only
  split
  · split
    · exact h.loseHolder.objDone
    · exact h.objTrap
  · split
    · exact h.modObj.removeHold.objDone
    · exact h.objTrap
  · exact h.objTrap

theorem State.MemHas.wwaitOp {k : Nat} {q : Req} {e : Word} {nb : Bool} (h : s.MemHas Canonical) :
    (s.wwaitOp k q e nb).2.MemHas Canonical := by
  unfold State.wwaitOp
  dsimp only
  refine .pairIte h (.pairIte (.pairIte h ?_) ?_)
  · split
    · exact h.objDeadlock
    · next hj => exact (State.MemHas.of_exc h.insertWait hj).modThread
  · split
    · exact h.objDeadlock
    · next hj => exact .of_exc h.joinWait hj

theorem State.MemHas.wunregOp {k : Nat} {q : Req} (h : s.MemHas P) : (s.wunregOp k q).2.MemHas P :=
  .pairIte h.dropRegistration.objDone h.objTrap

theorem State.MemHas.wqryOp {k : Nat} {sel : WqrySel} (h : s.MemHas P) : (s.wqryOp k sel).2.MemHas P :=
  h.objDone

theorem State.MemHas.ofreeOp {k : Nat} {q : Req} (h : s.MemHas Canonical) : (s.ofreeOp k q).2.MemHas Canonical := by
  unfold State.ofreeOp
  dsimp only
  split
  · exact h.objTrap
  · exact h.freeSlotsOf.dropEdges.setObj.putWord.changed.objDone

theorem State.MemHas.objAct {k : Nat} {q : Req} {op : ObjOp} (h : s.MemHas Canonical) :
    (s.objAct k q op).2.MemHas Canonical := by
  unfold State.objAct
  dsimp only
  split
  · exact h.initOp
  · exact h.initOp
  · exact h.initOp
  · exact h.qiOp
  · exact h.putHeader.barTrap.objDone
  · split
    · exact h.objTrap
    · split
      · exact h.objTrap
      · exact h.barOp
  · split
    · exact h.objTrap
    · split
      · exact h.objTrap
      · exact h.barOp
  · split
    · exact h.objTrap
    · split
      · exact h.objTrap
      · exact h.barOp
  · split
    · exact h.objTrap
    · split
      · exact h.objTrap
      · exact h.barOp
  · exact h.lockOp
  · exact h.lockOp
  · exact h.unlockOp
  · exact h.pushOp
  · exact h.popOp
  · exact h.wholdOp
  · exact h.wdropOp
  · exact h.wwaitOp
  · exact h.wunregOp
  · exact h.wqryOp
  · exact h.ofreeOp

theorem State.MemHas.objOp {q : Req} {op : ObjOp} (h : s.MemHas Canonical) : (s.objOp q op).2.MemHas Canonical := by
  unfold State.objOp
  dsimp only
  split
  · exact h.objDone
  · split
    · exact h.objAct
    · split
      · exact h.objTrap
      · exact h.objTrap
      · exact h.objTrap
      · split
        · exact h.objTrap
        · split
          · split
            · exact h.objAct
            · exact h.objTrap
          · exact h.objAct

theorem State.MemHas.appendRecord {hd : Word} {r : BinRec} (h : s.MemHas P) : (s.appendRecord hd r).2.MemHas P := by
  unfold State.appendRecord
  dsimp only
  split
  · exact h
  · exact h.same (by rfl)

theorem State.MemHas.ngrpOp {q : Req} {cfg : Word} {raddr : Nat} {sys : Bool} (h : s.MemHas P) :
    (s.ngrpOp q cfg raddr sys).2.MemHas P := by
  unfold State.ngrpOp
  dsimp only
  split
  · exact h
  · exact h.same (by rfl)

theorem State.MemHas.nrediOp {q : Req} {hd : Word} {elem t : Nat} (h : s.MemHas P) :
    (s.nrediOp q hd elem t).2.MemHas P := by
  unfold State.nrediOp
  dsimp only
  split
  · exact h
  · refine .pairIte h (.pairIte (.pairIte h h) (.pairIte (.pairIte h ?_) h))
    split
    · exact h
    · exact h.same (by rfl)

theorem State.MemHas.answerWaiters {die : Nat} {g : RedGroup} {p : Nat × Nat → Bool} {r : Result} (h : s.MemHas P) :
    (s.answerWaiters die g p r).1.MemHas P :=
  h.foldl fun _ _ hu => hu.answer

theorem State.MemHas.redFree {k : Nat} {g : RedGroup} {hd : Word} (h : s.MemHas P) : (s.redFree k g hd).MemHas P := by
  have hans : (s.answerWaiters (k / 256) g (fun _ => true) (.trap .reductionState hd 6)).1.MemHas P :=
    h.answerWaiters
  exact hans.same (by rfl)

theorem State.MemHas.nfreeOp {q : Req} {hd : Word} (h : s.MemHas P) : (s.nfreeOp q hd).2.MemHas P := by
  unfold State.nfreeOp
  split
  · exact h
  · exact h.redFree

theorem State.MemHas.putBytes {k n v : Nat} (h : s.MemHas Canonical) : (s.putBytes k n v).MemHas Canonical :=
  Memory.wf_storeN _ _ _ _ h

theorem State.MemHas.deliverTo {k tid : Nat} {v : Word} (h : s.MemHas P) : (s.deliverTo k tid v).MemHas P :=
  (h.undefer.same (by rfl))

theorem State.MemHas.fill {k : Nat} {v : Word} (h : s.MemHas Canonical) : (s.fill k v).MemHas Canonical := by
  unfold State.fill
  dsimp only
  split
  · split
    · exact ((((h.foldl fun _ _ hu => hu.deliverTo).deliverTo).setHead).deliverTo).putWord
    · exact ((h.foldl fun _ _ hu => hu.deliverTo).deliverTo).setHead
  · exact (h.foldl fun _ _ hu => hu.deliverTo).putWord

theorem State.MemHas.servePuts {k : Nat} (h : s.MemHas Canonical) : (s.servePuts k).MemHas Canonical := by
  unfold State.servePuts
  split
  · exact h
  · exact h.deliverTo.fill

theorem State.MemHas.defer {k : Nat} {q : Req} {take : Bool} {put : Option Word} (h : s.MemHas Canonical) :
    (s.defer k q take put).2.MemHas Canonical := by
  unfold State.defer
  extract_lets tid va join
  have hjoin : ∀ u, State.MemHas Canonical u → (join u).2.MemHas Canonical := fun u hu => by
    unfold join
    extract_lets u1
    have h1 : u1.MemHas Canonical := hu.same (by rfl)
    exact .ite h1.setHead h1
  split
  · exact hjoin _ h
  · split
    · next hw => exact hjoin _ (.of_exc h.insertWait hw)
    · exact h.recordCycle

theorem State.MemHas.poisonObject {k : Nat} (h : s.MemHas P) : (s.poisonObject k).MemHas P :=
  ((h.foldl fun _ _ hu => hu.answer).dropEdges).setObj

theorem State.MemHas.wordOp {q : Req} (h : s.MemHas Canonical) : (s.wordOp q).2.MemHas Canonical := by
  unfold State.wordOp
  dsimp only
  split
  · split
    · exact h
    · exact h
  · split
    · exact h
    · exact h
    · exact h
  · split
    · exact h.putWord.changed
    · split
      · exact h
      · exact h.putBytes.changed
  · split
    · exact h
    · exact h.putBytes.changed
  · split
    · exact h
    · exact h.putBytes.changed
  · split
    · exact h
    · split
      · exact h.putBytes.changed
      · exact h
  · split
    · exact h.putWord.servePuts.changed
    · exact h.defer
    · exact h
    · exact h
  · split
    · exact h
    · exact h.defer
    · exact h
    · exact h
  · split
    · exact h
    · exact h.fill.changed
    · exact h
    · exact h
  · split
    · exact h.defer
    · exact h.fill.changed
    · exact h
    · exact h
  · exact h
  · split
    · exact h
    · exact h
    · refine State.MemHas.changed ?_
      refine State.MemHas.putWord ?_
      exact .ite h.poisonObject h
  · exact h.armAt
  · exact h
  · exact h
  · exact h
  · exact h
  · exact h

theorem State.MemHas.digest {l : Loc} {w : Writer} {v : Word} {n : Nat} {t : Tag} (h : s.MemHas P) :
    (s.digest l w v n t).MemHas P := by
  unfold State.digest
  split
  · exact h
  · exact .ite h.modSlice h

theorem State.MemHas.observeFills {u : State} (h : s.MemHas P) : (s.observeFills u).MemHas P := by
  unfold State.observeFills
  dsimp only
  refine h.foldl fun u x hu => ?_
  split
  · exact hu
  · exact State.MemHas.observe (.ite hu.digest hu)

theorem State.MemHas.digestReq {q : Req} {r : Result} (h : s.MemHas P) : (s.digestReq q r).MemHas P := by
  unfold State.digestReq
  split
  · exact h
  · exact .ite h.digest (h.foldl fun _ _ hu => hu.digest)

/-- What an operation that the tables allow does at its home (06 Table 6.3), before it is noted. -/
theorem State.MemHas.homeOp {q : Req} (h : s.MemHas Canonical) :
    ((match q.op with
      | .obj op => s.objOp q op
      | .append h r => let (r, s) := s.appendRecord h r
          (.done r, s)
      | .ngrp cfg raddr sys => s.ngrpOp q cfg raddr sys
      | .nredi h e t => s.nrediOp q h e t
      | .nfree h => s.nfreeOp q h
      | _ => s.wordOp q) : Ans × State).2.MemHas Canonical := by
  split
  · exact h.objOp
  · exact h.appendRecord
  · exact h.ngrpOp
  · exact h.nrediOp
  · exact h.nfreeOp
  · exact h.wordOp

theorem State.MemHas.performOne {q : Req} (h : s.MemHas Canonical) : (s.performOne q).2.MemHas Canonical := by
  unfold State.performOne
  extract_lets s0
  split
  split
  · exact h.mgmtOp
  · refine .pairIte h ?_
    split
    next a t ht =>
    have h1 : t.MemHas Canonical := h.homeOp.of_pair ht
    split
    · exact h1.digestReq.observe.observeFills
    · exact (State.MemHas.ite h1.digestReq h1).observe

theorem State.MemHas.putRecords {t : Thread} {f : FrameRef} (h : s.MemHas Canonical) :
    (s.putRecords t f).MemHas Canonical :=
  h.writeAs

theorem State.MemHas.syncRecords {t : Thread} (h : s.MemHas Canonical) : (s.syncRecords t).MemHas Canonical := by
  unfold State.syncRecords
  split
  · exact h.putRecords
  · exact h

theorem State.MemHas.syncFrame {tid : Nat} (h : s.MemHas Canonical) : (s.syncFrame tid).MemHas Canonical := by
  unfold State.syncFrame
  split
  · exact h.syncRecords
  · exact h

theorem State.MemHas.noteError {tid launch : Nat} {pos : Word} {c : Cause} {addr : Word} (h : s.MemHas Canonical) :
    (s.noteError tid launch pos c addr).MemHas Canonical := by
  unfold State.noteError
  split
  · exact h.report
  · exact h.putThread.syncFrame

end Sys2Proof.Machine
end

section
/-! Memory through the instructions that reach memory, the engines and the matrix unit (O49). -/

namespace Sys2Proof.Machine
variable {P : Memory → Prop} {s : State}

theorem keeps_acquireIf {b : Bool} : Keeps P (acquireIf b) :=
  .ite keeps_acquire .pure

theorem keeps_finish {k : Comp} {v0 v1 : Word} {acq : Bool} : Keeps Canonical (finish k v0 v1 acq) := by
  unfold finish
  refine .bind keeps_acquireIf fun x => ?_
  split
  · exact .pure
  · exact keeps_writeD
  · exact .bind keeps_acquireIf fun _ => keeps_writeD
  · exact .bind keeps_writeP fun _ => keeps_writeD
  · exact .bind keeps_updCur fun _ => keeps_writeD
  · exact .bind keeps_updCur fun _ => .pure
  · exact .bind (.modS fun _ hu => hu.checkpoint) fun _ => .pure
  · exact keeps_writeD
  · exact .pure

theorem keeps_inTurn {q : Req} {k : Option Comp} {acq : Bool} : Keeps Canonical (inTurn q k acq) := by
  unfold inTurn
  refine .bind keeps_takeBank fun _ => .get fun s hs => ?_
  dsimp only
  refine .bind (.set hs.performOne) fun _ => ?_
  split
  · exact .bind (.modS fun _ hu => hu.noteError) fun _ => .pure
  · exact .pure
  · exact keeps_finish
  · exact .guard (.modS fun _ hu => hu.unread) keeps_trapW
  · exact .bind (.modS fun _ hu => (hu.same (by rfl))) fun _ => keeps_holdFor

theorem keeps_ownAccess {q : Req} {c : Option Comp} {acq : Bool} : Keeps Canonical (ownAccess q c acq) :=
  .get fun _ _ => .ite (.bind keeps_launchReq fun _ => keeps_holdFor) (.ite keeps_waitR keeps_inTurn)

theorem State.MemHas.countSent {c : Nat} {sc : Scope} {term : Nat} (h : s.MemHas P) :
    (s.countSent c sc term).2.MemHas P :=
  h.modCore

theorem keeps_postReq {q : Req} : Keeps P (postReq q) :=
  .modS fun u hu => by
    have hcount : (u.countSent q.src q.scope (u.termOf q.loc q.scope)).2.MemHas P := hu.countSent
    exact hcount.same (by rfl)

theorem keeps_send {k : Ask} {c : Option Comp} : Keeps Canonical (send k c) := by
  unfold send
  refine .bind keeps_locate fun x => .bind keeps_boardCheck fun _ => .guard keeps_channelFree
    (.bind keeps_raiseAt fun _ => .bind keeps_closeIf fun _ => .bind keeps_raiseAt fun _ => .get fun _ _ => ?_)
  refine .ite keeps_ownAccess ?_
  split
  · exact .bind keeps_postReq fun _ => .pure
  · exact .bind keeps_launchReq fun _ => keeps_holdFor

theorem keeps_raiseCopy : Keeps P raiseCopy := by
  unfold raiseCopy
  intro s h
  dsimp only
  split
  · exact .ok h
  · exact .trap h.updCur

theorem keeps_fenceNow {eng acq : Bool} : Keeps P (fenceNow eng acq) :=
  .bind keeps_raiseDeferred fun _ => .guard keeps_raiseCopy (.bind keeps_acquireIf fun _ => .pure)

theorem keeps_enginesDone {reason key : Nat} : Keeps P (enginesDone reason key) :=
  fun _ h => .ite .wait (.ok h)

theorem State.MemHas.disarm {i : Nat} (h : s.MemHas P) : (s.disarm i).MemHas P := by
  unfold State.disarm
  split
  · exact h
  · exact h.disarmAt.updCur

theorem keeps_object {opc : Nat} {m : MemOp} {sc : Scope} {rel : Bool} {d : Dst} {op : ObjOp} :
    Keeps Canonical (object opc m sc rel d op) :=
  .bind keeps_checkDst fun _ => .bind keeps_memAddr fun _ => keeps_send

theorem keeps_ownWord {a : Word} {n align k : Nat} : Keeps Canonical (ownRecord.word a n align k) := by
  induction k with
  | zero => exact .pure
  | succ j ih =>
    unfold ownRecord.word
    refine .bind ih fun l => .bind keeps_locate fun x => .bind keeps_boardCheck fun _ => .get fun s hs => ?_
    dsimp only
    have hread : ∀ q : Req, Keeps Canonical (do
        takeBanks (bankMask (bits a 17 0) (8 * n))
        set (s.performOne q).2
        match (s.performOne q).1 with
        | .done (.ok v _) => pure (l ++ [v])
        | .done (.trap c i0 _) => trapW c i0 0
        | .wait _ => pure l) := fun q => by
      refine .bind keeps_takeBanks fun _ => .bind (.set hs.performOne) fun _ => ?_
      split
      · exact .pure
      · exact keeps_trapW
      · exact .pure
    exact .guard keeps_waitR (hread _)

theorem keeps_ownRecord {a : Word} {n align : Nat} : Keeps Canonical (ownRecord a n align) := by
  unfold ownRecord
  refine .get fun s hs => ?_
  split
  · exact .bind keeps_ownWord fun _ => .pure
  · exact .pure

theorem keeps_checkRanges {lim : Nat} {kind : Word} {l : List (Word × Nat)} : Keeps P (checkRanges lim kind l) := by
  unfold checkRanges
  intro s h
  dsimp only
  split
  · exact .trap h
  · exact .ok h

theorem State.MemHas.queueEngine {kind : EngKind} {reads writes : List (Nat × Nat)} (h : s.MemHas P) :
    (s.queueEngine kind reads writes).MemHas P :=
  (h.same (by rfl))

theorem keeps_copyWith {op : Nat} {d : Dst} {r : Word} {rec : List Word} : Keeps Canonical (copyWith op d r rec) := by
  unfold copyWith
  refine .bind keeps_checkDst fun _ => ?_
  extract_lets src dst issues
  have hissues : ∀ u, Keeps Canonical (issues u) := fun _ => by
    refine .bind keeps_getCur fun _ => .bind keeps_checkRanges fun _ => .guard keeps_checkRanges
      (.bind keeps_checkRanges fun _ => .guard keeps_trapW (.get fun _ _ => ?_))
    dsimp only
    split
    · exact keeps_waitR
    · exact .bind (.modS fun _ hu => hu.modCore.queueEngine) fun _ => .bind keeps_updCur fun _ => keeps_writeD
  split
  · exact .bind keeps_trapW fun _ => hissues ()
  · exact hissues ()

theorem keeps_ask {a : Word} {align k : Nat} : Keeps P (readRecord.ask a align k) := by
  induction k with
  | zero => exact .pure
  | succ j ih =>
    exact .bind ih fun _ => .bind keeps_locate fun _ => .bind keeps_boardCheck fun _ => .get fun _ _ => .pure

theorem keeps_readRecord {a : Word} {n align : Nat} {next : Comp} : Keeps P (readRecord a n align next) :=
  .bind keeps_ask fun _ => .bind (.modS fun _ hu => (hu.same (by rfl))) fun _ => keeps_holdFor

theorem keeps_copySlot {v : Word} : Keeps P (copySlot v) :=
  .bind keeps_orTrap fun _ => .get fun _ _ => .pure

theorem State.MemHas.setEng {e : EngOp} (h : s.MemHas P) : (s.setEng e).MemHas P :=
  (h.same (by rfl))

theorem State.MemHas.noteCopy {e : EngOp} {id status : Word} (h : s.MemHas Canonical) :
    (s.noteCopy e id status).MemHas Canonical := by
  unfold State.noteCopy
  split
  · exact h.report
  · exact h.putThread.syncFrame

theorem State.MemHas.nudge {tid : Nat} (h : s.MemHas P) : (s.nudge tid).MemHas P := by
  unfold State.nudge
  split
  · exact h
  · split
    · exact .ite h.wake h
    · exact h

theorem State.MemHas.dropEng {e : EngOp} (h : s.MemHas P) : (s.dropEng e).MemHas P :=
  (h.same (by rfl)).nudge

theorem State.MemHas.traceCopy {e : EngOp} {id status : Word} (h : s.MemHas P) : (s.traceCopy e id status).MemHas P :=
  .ite h.emit h

theorem State.MemHas.pauseEng {e : EngOp} {a : Word} {acc : Access} (h : s.MemHas P) :
    (s.pauseEng e a acc).MemHas P :=
  (h.same (by rfl)).setEng.countEvent

theorem State.MemHas.enginePut {k : Nat} {v : Word} (h : s.MemHas Canonical) :
    (s.enginePut k v).2.MemHas Canonical := by
  unfold State.enginePut
  split
  · exact h.fill.changed
  · exact h

theorem State.MemHas.enginePutAt {k : Nat} {v : Word} {w : WSrc} {src : Nat} {by_ : Writer} (h : s.MemHas Canonical) :
    (s.enginePutAt k v w src by_).2.MemHas Canonical := by
  have hput : ((s.useBanks k 8).enginePut k v).2.MemHas Canonical := h.useBanks.enginePut
  unfold State.enginePutAt
  split
  · next hp => exact hput.of_pair hp
  · next hp => exact (hput.of_pair hp).digest.observe.observeFills

theorem State.MemHas.copyEndAt {e : EngOp} {loc : EngLoc} {slot : Nat} {id : Word} {rec : List Word}
    {count state : Nat} (h : s.MemHas Canonical) : (s.copyEndAt e loc slot id rec count state).MemHas Canonical := by
  unfold State.copyEndAt
  extract_lets ca status finish
  have hfinish : ∀ u lost, State.MemHas Canonical u → (finish u lost).MemHas Canonical := by
    intro u lost hu
    unfold finish
    extract_lets full u1 u2 u3 u4 u5 u6
    have h1 : u1.MemHas Canonical := .ite hu.noteCopy hu
    have h2 : u2.MemHas Canonical := h1.same (by rfl)
    have h3 : u3.MemHas Canonical := h2.same (by rfl)
    have h4 : u4.MemHas Canonical := .ite h3.modPkg h3
    have h5 : u5.MemHas Canonical := h4.modThread
    have h6 : u6.MemHas Canonical := h5.traceCopy.dropEng
    exact h6.wakeWhere
  split
  · exact hfinish _ _ h
  · split
    · exact .ite (hfinish _ _ h) h.pauseEng
    · exact hfinish _ _ h
    · refine .ite (hfinish _ _ h) (.ite (hfinish _ _ (h.same (by rfl))) (.ite h.setEng ?_))
      exact hfinish _ _ h.enginePutAt

theorem State.MemHas.engineWrite {k : Nat} {v : Word} {poison : Bool} (h : s.MemHas Canonical) :
    (s.engineWrite k v poison).2.MemHas Canonical := by
  unfold State.engineWrite
  split
  · exact h
  · exact h
  · exact h.putWord.changed

theorem State.MemHas.engPutAt {e : EngOp} {a : Word} {l : Loc} {v : Word} {poison : Bool} (h : s.MemHas Canonical) :
    (s.engPutAt e a l v poison).2.MemHas Canonical := by
  unfold State.engPutAt
  extract_lets count
  have hcount : ∀ u, State.MemHas Canonical u → (count u).MemHas Canonical := fun _ hu => .ite hu.countEvent hu
  have hchoose : (s.choose 3).2.MemHas Canonical := h.same (by rfl)
  refine .pairIte h (.pairIte ?_ (.pairIte h ?_))
  · exact .pairIte hchoose (.pairIte hchoose (hcount _ hchoose))
  · split
    · refine .pairIte h ?_
      split
      · next hm => exact hcount _ (h.mregAccess.of_pair hm).sendRegWrite
      · next hm => exact h.mregAccess.of_pair hm
    · have hw : ((s.useBanks l.key 8).engineWrite (l.key / 8 * 8) v poison).2.MemHas Canonical :=
        h.useBanks.engineWrite
      split
      next ok t ht =>
      have h1 := hw.of_pair ht
      exact .pairIte (hcount _ h1.digest.observe) h1

theorem State.MemHas.engPoison {e : EngOp} {a : Word} (h : s.MemHas Canonical) :
    (s.engPoison e a).2.MemHas Canonical := by
  unfold State.engPoison
  split
  · exact h.engPutAt
  · exact h

theorem State.MemHas.poisonAll {e : EngOp} {l : List Word} (h : s.MemHas Canonical) :
    (s.poisonAll e l).2.MemHas Canonical :=
  List.foldlRecOn (motive := fun p : Bool × State => p.2.MemHas Canonical) l _ h fun _ hp _ _ => hp.engPoison

theorem State.MemHas.cancelCopy {e : EngOp} (h : s.MemHas Canonical) : (s.cancelCopy e).MemHas Canonical := by
  unfold State.cancelCopy
  dsimp only
  split
  · exact .ite h.setEng h.setEng.poisonAll.copyEndAt
  · exact h

theorem keeps_binWith {d : Dst} {r : Word} {rec : List Word} : Keeps Canonical (binWith d r rec) := by
  unfold binWith
  dsimp only
  refine .bind keeps_checkDst fun x => ?_
  split
  · refine .bind keeps_trapW fun x => ?_
    refine .get fun s hs => ?_
    refine .bind keeps_orTrap fun x => ?_
    split
    · exact keeps_trapW
    · exact .bind (.modS fun _ hu => (hu.same (by rfl))) fun _ => keeps_writeD
  · refine .get fun s hs => ?_
    refine .bind keeps_orTrap fun x => ?_
    split
    · exact keeps_trapW
    · exact .bind (.modS fun _ hu => (hu.same (by rfl))) fun _ => keeps_writeD

theorem keeps_holdNow {s0 : State} {obj : Nat} (h : s0.MemHas Canonical) : Keeps Canonical (holdNow s0 obj) := by
  intro u hu
  unfold holdNow
  extract_lets s1
  have h1 : s1.MemHas Canonical := hu.holdChanged
  split
  · exact .ok h1
  · exact .trap h.unread.recordCycle

theorem keeps_replayNow {d : Dst} {hd : Word} {free : Bool} : Keeps Canonical (replayNow d hd free) := by
  unfold replayNow
  refine .get fun s hs => ?_
  split
  · exact keeps_trapW
  · exact .ite keeps_waitR (.bind (.modS fun _ hu => (hu.same (by rfl))) fun _ => .bind (keeps_holdNow hs) fun _ =>
      keeps_holdFor)

theorem keeps_grantLanes {mn ds : Nat} : Keeps P (grantLanes mn ds) := by
  unfold grantLanes
  intro s h
  dsimp only
  split
  · exact .ok h
  · split
    · exact .ok h
    · exact .wait

theorem State.MemHas.setGrant {n mn ds : Nat} (h : s.MemHas P) : (s.setGrant n mn ds).MemHas P :=
  h.updCur.lanesFreed

theorem keeps_takeGrant {n mn ds : Nat} : Keeps Canonical (takeGrant n mn ds) :=
  .get fun _ hs => .bind (.modS fun _ hu => hu.setGrant) fun _ => keeps_holdNow hs

theorem State.MemHas.releaseClaim (h : s.MemHas P) : s.releaseClaim.MemHas P :=
  h.updCur.lanesFreed

theorem keeps_getClaim : Keeps P getClaim := by
  unfold getClaim
  intro s h
  dsimp only
  split
  · exact .ite (.trap h) (.ok h)
  · exact .trap h

theorem keeps_vecAddr {a : SReg} {off : BitVec 32} : Keeps P (vecAddr a off) :=
  .bind keeps_readS fun _ => .pure

theorem keeps_vecAlign {acc : Access} {n : Nat} {l : List VElem} : Keeps P (vecAlign acc n l) := by
  unfold vecAlign
  split
  · exact keeps_trapW
  · exact .pure

/-- What the search for the words of a vector access has met is no other stop than a trap that keeps memory. -/
theorem VFound.trap_ends {acc : Access} {n : Nat} {sc : Scope} {l : List VElem} (h : s.MemHas P) {x : Stop}
    (hx : (l.foldl (VFound.add acc n sc s) ⟨[], [], none⟩).trap = some x) :
    Ends P (.error x : Except Stop (Unit × State)) := by
  refine List.foldlRecOn (motive := fun f : VFound => ∀ x, f.trap = some x →
    Ends P (.error x : Except Stop (Unit × State))) l _ (by rintro _ ⟨⟩) (fun f hf e _ y hy => ?_) x hx
  have hl : Ends P (locate e.a n acc sc e.j s) := keeps_locate s h
  unfold VFound.add at hy
  split at hy
  · exact hf y hy
  · exact hf y hy
  · exact hf y hy
  · next hloc =>
    rw [hloc] at hl
    cases hy
    exact hl.error

theorem keeps_vecLocate {acc : Access} {n : Nat} {sc : Scope} {l : List VElem} : Keeps P (vecLocate acc n sc l) := by
  intro s h
  unfold vecLocate
  dsimp only
  split
  · exact .ok h
  · next hx => exact (VFound.trap_ends h hx).error
  · exact .wait

theorem keeps_vecBoard {n : Nat} {store : Bool} {l : List VElem} : Keeps P (vecBoard n store l) := by
  induction l with
  | nil => exact .pure
  | cons e r ih => exact .bind keeps_boardCheck fun _ => ih

theorem keeps_setV {n : VNo} {r : List Word} : Keeps P (setV n r) :=
  keeps_updCur

theorem keeps_vecLoad {opc : Nat} {v : VNo} {sz : Size} {ord : Ord} {sc : Scope} {m : Option VMask}
    {addr : Claim → Nat → Word} : Keeps P (vecLoad opc v sz ord sc m addr) :=
  .bind keeps_getClaim fun _ => .bind keeps_vecAlign fun _ => .bind keeps_vecLocate fun _ =>
    .bind keeps_vecBoard fun _ => .get fun _ _ => .ite (.bind keeps_setV fun _ => .bind keeps_acquireIf fun _ =>
      .pure) (.bind (.modS fun _ hu => (hu.same (by rfl))) fun _ => keeps_holdFor)

theorem keeps_postAll {l : List Req} : Keeps P (postAll l) := by
  induction l with
  | nil => exact .pure
  | cons q r ih => exact .bind keeps_postReq fun _ => ih

theorem keeps_vecStore {opc : Nat} {v : VNo} {sz : Size} {ord : Ord} {sc : Scope} {m : Option KNo}
    {addr : Claim → Nat → Word} : Keeps P (vecStore opc v sz ord sc m addr) :=
  .bind keeps_getClaim fun _ => .bind keeps_vecAlign fun _ => .bind keeps_vecLocate fun _ =>
    .bind keeps_vecBoard fun _ => .bind keeps_getCur fun _ =>
      .guard keeps_channelFree (.guard keeps_raiseDeferred (.bind keeps_closeIf fun _ => .get fun _ _ =>
        .bind keeps_postAll fun _ => .pure))

theorem keeps_readVal {v : VVal} {w : Nat} : Keeps P (readVal v w) := by
  unfold readVal
  split
  · exact .bind keeps_readS fun _ => .pure
  · exact .pure

theorem keeps_setK {n : KNo} {r : List Byte} : Keeps P (setK n r) :=
  keeps_updCur

theorem keeps_blockGrant {c : Claim} {w : Nat} : Keeps P (blockGrant c w) :=
  keeps_orTrap

theorem keeps_checkModuli {c : Claim} {w : Nat} {n : Fin 4} {useW : Bool} {l : List Nat} :
    Keeps P (checkModuli c w n useW l) := by
  unfold checkModuli
  dsimp only
  split
  · exact .pure
  · exact keeps_trapW

theorem keeps_pagesIn {a : Word} {n : Nat} : Keeps P (pagesIn a n) := by
  induction n with
  | zero => exact .pure
  | succ j ih => exact .bind ih fun _ => .bind keeps_translate fun _ => .get fun _ _ => keeps_orTrap

theorem keeps_ringPlace {a : Word} {n : Nat} : Keeps P (ringPlace a n) := by
  unfold ringPlace
  refine .get fun s hs => ?_
  split
  · exact keeps_orTrap
  · exact keeps_orTrap
  · exact keeps_pagesIn
  · exact keeps_trapW

theorem keeps_ringTrap {α : Type} {n : Fin 32} {reason : Word} : Keeps P (ringTrap n reason : M α) :=
  keeps_trapW

theorem keeps_getRing {n : Fin 32} : Keeps P (getRing n) := by
  unfold getRing
  intro s h
  dsimp only
  split
  · exact .ite (.ok h) (.trap h)
  · exact .trap h

theorem keeps_slotLoc {a : Word} {acc : Access} : Keeps P (slotLoc a acc) :=
  .bind keeps_locate fun _ => .get fun _ _ => .bind keeps_orTrap fun _ => .pure

theorem keeps_wordsFree {l : Loc} {n : Nat} : Keeps P (wordsFree l n) :=
  fun _ h => .ite .wait (.ok h)

theorem keeps_writeHeader {a hd : Word} {x n : Nat} : Keeps Canonical (writeHeader a hd x n) := by
  induction n with
  | zero => exact .pure
  | succ j ih =>
    refine .bind ih fun _ => .bind keeps_slotLoc fun _ => .get fun s hs => ?_
    split
    · exact keeps_trapW
    · exact keeps_trapW
    · exact .modS fun _ hu => hu.putWord.changed

theorem keeps_rpushNow {d : Dst} {ring : Nat} {hd : Word} : Keeps Canonical (rpushNow d ring hd) := by
  unfold rpushNow
  dsimp only
  refine .get fun s hs => ?_
  split
  · exact .bind keeps_writeHeader fun _ => .bind keeps_updCur fun _ => .bind (.modS fun _ hu => hu.publish) fun _ =>
      keeps_writeD
  · exact keeps_trapW

theorem keeps_roomForMatrix : Keeps P roomForMatrix :=
  fun _ h => .ite (.ok h) .wait

theorem keeps_roomForOp {n : Fin 32} : Keeps P (roomForOp n) :=
  fun _ h => .ite (.ok h) (.ite .wait (.trap h))

theorem keeps_nextSlot {n : Fin 32} {r : Ring} : Keeps P (nextSlot n r) := by
  unfold nextSlot
  dsimp only
  refine .get fun s hs => ?_
  split
  · exact .pure
  · exact .guard keeps_waitR (.bind keeps_roomForOp fun _ => .pure)

theorem State.MemHas.reservedFor {cl n x : Nat} (h : s.MemHas P) : (s.reservedFor cl n x).MemHas P :=
  h.reserved.holdChanged

theorem keeps_readSlotWord {a : Word} : Keeps P (readSlotWord a) := by
  unfold readSlotWord
  refine .bind keeps_slotLoc fun x => ?_
  refine .bind keeps_boardCheck fun x => ?_
  refine .bind keeps_wordsFree fun x => ?_
  refine .get fun s hs => ?_
  split
  · exact keeps_trapW
  · exact .pure

theorem keeps_takeSlot {n : Fin 32} {r : Ring} : Keeps P (takeSlot n r) := by
  unfold takeSlot
  dsimp only
  refine .bind keeps_nextSlot fun x => ?_
  refine .get fun s hs => ?_
  refine .bind (keeps_trapIn hs.reservedFor keeps_readSlotWord) fun x => ?_
  refine .bind (keeps_trapIn hs.reservedFor keeps_readSlotWord) fun x => ?_
  split
  · exact fun _ h => .trap hs.reservedFor
  · exact .pure

theorem keeps_holdSlot {cl n x : Nat} : Keeps Canonical (holdSlot cl n x) :=
  .get fun _ hs => .bind (.modS fun _ hu => hu.reserved) fun _ => keeps_holdNow hs.reserved

theorem keeps_checkRegion {acc : Word} : Keeps P (checkRegion acc) := by
  unfold checkRegion
  refine .bind keeps_orTrap fun x => ?_
  refine .get fun s hs => ?_
  split
  · exact .bind keeps_orTrap fun _ => .pure
  · exact .bind keeps_orTrap fun _ => .pure
  · exact keeps_trapW

theorem keeps_raiseRed : Keeps P raiseRed := by
  unfold raiseRed
  intro s h
  dsimp only
  split
  · exact .ok h
  · exact .trap h.updCur

theorem keeps_drainWith {o : OpTdrain} {dst : Word} {acc : Nat} {rec : List Word} :
    Keeps P (drainWith o dst acc rec) :=
  .bind keeps_orTrap fun _ => .guard (fun _ h => .trap h) (.bind keeps_orTrap fun _ => .bind keeps_orTrap fun _ =>
    .bind keeps_orTrap fun _ => .get fun _ _ => .guard keeps_waitR (.bind keeps_raiseRed fun _ =>
      .bind (.modS fun _ hu => hu.queueEngine) fun _ => .bind keeps_countConv fun _ => .pure))

theorem keeps_groupWith {d : Dst} {r : Word} {sys : Bool} {rec : List Word} : Keeps P (groupWith d r sys rec) :=
  .bind keeps_checkDst fun _ => .bind keeps_orTrap fun _ => .bind keeps_translate fun _ => .get fun _ _ =>
    .bind keeps_orTrap fun _ => .bind keeps_launchReq fun _ => keeps_holdFor

theorem keeps_groupAsk {opc : Nat} {d : Dst} {hd : Word} {op : HomeOp} : Keeps P (groupAsk opc d hd op) :=
  .get fun _ _ => .bind keeps_launchReq fun _ => keeps_holdFor

end Sys2Proof.Machine
end

section
/-! Memory through the management registers (O49). -/

namespace Sys2Proof.Machine
variable {P : Memory → Prop} {s : State}

theorem State.MemHas.writeSlice {n i : Nat} {v : Word} (h : s.MemHas P) : (s.writeSlice n i v).MemHas P :=
  h.modSlice

theorem State.MemHas.portAccess {k : Nat} {write : Bool} {v : Word} (h : s.MemHas Canonical) :
    OptHas Canonical (s.portAccess k write v) :=
  .ite .none (.ite .none (.some (.ite h.useBanks.putWord.changed h.useBanks)))

theorem State.MemHas.specialWrite {mid off key : Nat} {v : Word} (h : s.MemHas Canonical) :
    OptHas Canonical (s.specialWrite mid off key v) :=
  .ite (.ite (.some h.writeSlice) .none) h.portAccess

theorem State.MemHas.commit (h : s.MemHas P) : s.commit.MemHas P :=
  .ite h (h.same (by rfl))

theorem State.MemHas.modQueue {q : Nat} {f : SubQueue → SubQueue} (h : s.MemHas P) : (s.modQueue q f).MemHas P :=
  (h.same (by rfl))

theorem State.MemHas.writeSq {q i mid : Nat} {v : Word} (h : s.MemHas P) : (s.writeSq q i mid v).MemHas P := by
  unfold State.writeSq
  split
  · exact h.modQueue
  · exact h.modQueue
  · exact h.modQueue
  · exact h

theorem State.MemHas.takeFault {tok : Nat} {p : FaultRec × State} (h : s.MemHas P)
    (hp : s.takeFault tok = some p) : p.2.MemHas P := by
  unfold State.takeFault at hp
  split at hp
  · cases hp
    exact h.same (by rfl)
  · cases hp

theorem State.MemHas.putLine {t : Thread} {a : Word} {l : Line} {bad : Option (Cause × Word × Word)} {again : Bool}
    (h : s.MemHas P) : (s.putLine t a l bad again).MemHas P :=
  .ite h.putThread.wake h.putThread

theorem State.MemHas.checkOut {t : Thread} {turn : Bool} (h : s.MemHas P) : (s.checkOut t turn).MemHas P :=
  (h.same (by rfl))

theorem State.MemHas.withThread {tid : Nat} {body : M Flow} (h : s.MemHas Canonical) (hbody : Keeps Canonical body) :
    (s.withThread tid body).MemHas Canonical := by
  unfold State.withThread
  split
  · exact h
  · extract_lets s1 s2
    have h1 : s1.MemHas Canonical := h.checkOut
    have h2 : s2.MemHas Canonical := h1.settle (hbody _ h1)
    exact .ite (h2.same (by rfl)) h2.boundary

theorem State.MemHas.denyThread {f : FaultRec} (h : s.MemHas Canonical) : (s.denyThread f).MemHas Canonical := by
  unfold State.denyThread
  dsimp only
  split
  · split
    · exact h.putLine
    · exact h
  · exact (h.same (by rfl)).dropFaults.withThread keeps_trapW

theorem State.MemHas.denyEngine {f : FaultRec} (h : s.MemHas P) : (s.denyEngine f).MemHas P := by
  unfold State.denyEngine
  dsimp only
  split
  · exact h.same (by rfl)
  · exact h.same (by rfl)

theorem State.MemHas.denyFault {f : FaultRec} (h : s.MemHas Canonical) : (s.denyFault f).MemHas Canonical :=
  .ite h.denyThread h.denyEngine

theorem State.MemHas.retryFault {f : FaultRec} (h : s.MemHas P) : (s.retryFault f).MemHas P :=
  (h.same (by rfl))

theorem State.MemHas.strayAnswer (h : s.MemHas P) : s.strayAnswer.MemHas P :=
  h.modFq

theorem State.MemHas.writeFq {i : Nat} {v : Word} (h : s.MemHas Canonical) : (s.writeFq i v).MemHas Canonical := by
  unfold State.writeFq
  extract_lets s1
  have h1 : s1.MemHas Canonical := by
    unfold s1
    split
    · exact h.modFq
    · exact h.modFq
    · exact h.modFq
    · split
      · next hf =>
        have ht := h.takeFault hf
        exact .ite (.ite ht.denyFault ht.retryFault) ht
      · exact h.strayAnswer
    · exact h
  exact h1.flushFaults

theorem State.MemHas.writePmode {on : Bool} (h : s.MemHas P) : (s.writePmode on).MemHas P :=
  .ite (h.same (by rfl)) (h.same (by rfl))

theorem State.MemHas.askSave {kind : Nat} {t : Thread} (h : s.MemHas Canonical) :
    (s.askSave kind t).MemHas Canonical := by
  unfold State.askSave
  split
  · exact h
  · exact .ite h (.ite h.putThread h.preemptAdopter)
  · exact h
  · exact h
  · exact .ite h.preemptThread h.putThread

theorem State.MemHas.quiesceThread {tid : Nat} (h : s.MemHas Canonical) : (s.quiesceThread tid).MemHas Canonical := by
  unfold State.quiesceThread
  dsimp only
  split
  · refine State.MemHas.askSave ?_
    split
    · exact .ite h.resumeThread h
    · exact h
  · split
    · exact .ite h.resumeThread h
    · exact h

theorem State.MemHas.quiesce (h : s.MemHas Canonical) : s.quiesce.MemHas Canonical :=
  h.setHold.modPkg.foldl fun _ _ hu => hu.quiesceThread

theorem State.MemHas.resumeAll (h : s.MemHas P) : s.resumeAll.MemHas P :=
  h.setHold.modPkg

theorem State.MemHas.presetPorts (h : s.MemHas P) : s.presetPorts.MemHas P :=
  (h.same (by rfl))

theorem State.MemHas.writeFctl {v : Word} (h : s.MemHas Canonical) : (s.writeFctl v).MemHas Canonical := by
  unfold State.writeFctl
  extract_lets s1 s2
  have h1 : s1.MemHas Canonical := .ite h.quiesce h
  have h2 : s2.MemHas Canonical := .ite h1.resumeAll h1
  exact .ite h2.presetPorts h2

theorem State.MemHas.unitWrite {mid : Nat} {r : MReg} {f : State → State} (h : s.MemHas P)
    (hf : ∀ u, State.MemHas P u → (f u).MemHas P) : (s.unitWrite mid r f).MemHas P :=
  .ite (hf _ h) h.mregAccess

theorem State.MemHas.modTrace {f : Trace → Trace} (h : s.MemHas P) : (s.modTrace f).MemHas P :=
  (h.same (by rfl))

theorem State.MemHas.writeWords {a : Nat} {l : List Word} (h : s.MemHas Canonical) :
    State.MemHas Canonical { s with mem := s.mem.writeWords a l } :=
  Memory.wf_writeWords l s.mem a h

theorem State.MemHas.seal (h : s.MemHas Canonical) : OptHas Canonical s.seal := by
  unfold State.seal
  extract_lets tr
  split
  · exact .none
  · extract_lets
    refine .some (State.MemHas.modTrace ?_)
    exact .ite h.writeWords h

theorem State.MemHas.writeTrctl {v : Word} (h : s.MemHas Canonical) : (s.writeTrctl v).MemHas Canonical := by
  unfold State.writeTrctl
  dsimp only
  refine State.MemHas.modTrace ?_
  split
  · refine State.MemHas.foldl ?_ fun _ _ hu => hu.modDie
    split
    · refine State.MemHas.modTrace ?_
      exact .ite h (h.getD h.seal)
    · exact h
  · split
    · refine State.MemHas.modTrace ?_
      exact .ite h (h.getD h.seal)
    · exact h

theorem State.MemHas.writeTrace {i : Nat} {v : Word} (h : s.MemHas Canonical) :
    (s.writeTrace i v).MemHas Canonical := by
  unfold State.writeTrace
  split
  · exact h.writeTrctl
  · exact h.modTrace
  · exact h.modTrace
  · exact h.modTrace
  · exact h.modTrace
  · exact h.modTrace
  · exact h

theorem State.MemHas.writeReg {mid : Nat} {r : MReg} {v : Word} (h : s.MemHas Canonical) :
    (s.writeReg mid r v).MemHas Canonical := by
  unfold State.writeReg
  split
  · exact .ite h h.modPkg
  · exact .ite h.commit h
  · exact h.writeSq
  · exact h.writeFq
  · exact h.modPkg
  · exact h.writePmode
  · exact h.modPkg
  · exact .ite h.modPkg h
  · exact h.writeFctl
  · exact .ite h.modPkg h
  · exact .ite h.modPkg h
  · exact h.unitWrite (fun _ hw => hw.writeTrace)
  · exact h.unitWrite (fun _ hw => hw.modCluster)
  · exact .ite h.debugWrite h
  · exact h

theorem State.MemHas.registerWrite {n : Nat} (h : s.MemHas Canonical) : OptHas Canonical (s.registerWrite n) :=
  .ite h.specialWrite (.ite (.some h.writeReg) .none)

end Sys2Proof.Machine
end

section
/-! Memory through turns, replies, requests and packets that arrive (O49). -/

namespace Sys2Proof.Machine
variable {P : Memory → Prop} {s : State}

theorem State.MemHas.unshade {c : Nat} (h : s.MemHas P) : (s.unshade c).MemHas P :=
  .ite h.mapThreads h

theorem State.MemHas.takePrio {c slot : Nat} (h : s.MemHas P) : (s.takePrio c slot).MemHas P :=
  h.foldl fun _ _ hu => .ite hu.putThread.refreshPrio hu

theorem State.MemHas.giveTurn {c slot : Nat} {t : Thread} {first : Bool} (h : s.MemHas P) :
    (s.giveTurn c slot t first).MemHas P :=
  h.modCore.checkOut

theorem State.MemHas.loseTurn {c reason : Nat} (h : s.MemHas P) : (s.loseTurn c reason).MemHas P :=
  h.modCore.endCycle

theorem State.MemHas.shadeTurn {c slot : Nat} {x : Thread} (h : s.MemHas P) : (s.shadeTurn c slot x).MemHas P := by
  unfold State.shadeTurn
  dsimp only
  split
  · split
    · refine State.MemHas.putThread ?_
      exact .ite h h.putThread
    · exact h
  · exact h

theorem State.MemHas.turn {c : Nat} (h : s.MemHas P) : OptHas P (s.turn c) := by
  unfold State.turn
  dsimp only
  split
  · exact .none
  · split
    · exact .some (.ite h.takePrio.unshade.giveTurn h.takePrio.unshade.shadeTurn.loseTurn)
    · split
      · exact .ite (.some h.takePrio.unshade.loseTurn) (.ite (.some h.takePrio.unshade.putThread.giveTurn)
          (.some h.takePrio.unshade.giveTurn))
      · exact .some (.ite h.takePrio.unshade.loseTurn h.takePrio.unshade.giveTurn)
      · exact .some h.takePrio.unshade.giveTurn
      · exact .some h.takePrio.unshade.loseTurn

theorem keeps_finishVload {v : VNo} {sz : Size} {m : Option VMask} {got : List (Nat × Result)} :
    Keeps P (finishVload v sz m got) := by
  unfold finishVload
  dsimp only
  refine .get fun s hs => ?_
  split
  · exact keeps_trapW
  · split
    · exact .pure
    · exact .bind keeps_setV fun _ => .pure

theorem keeps_recordRead {next : Comp} {rec : List Word} : Keeps Canonical (recordRead next rec) := by
  unfold recordRead
  split
  · exact keeps_copyWith
  · exact keeps_binWith
  · exact keeps_groupWith
  · exact keeps_drainWith
  · exact keeps_finish

theorem keeps_replied {k : Comp} {r : Result} {acq : Bool} : Keeps Canonical (replied k r acq) := by
  unfold replied
  split
  · exact keeps_finish
  · intro s h
    refine .trap ?_
    refine State.MemHas.updCur ?_
    exact .ite h.unread h

theorem State.MemHas.reply {tid elem : Nat} {r : Result} (h : s.MemHas Canonical) :
    (s.reply tid elem r).MemHas Canonical := by
  unfold State.reply
  split
  · exact h
  · split
    · exact .ite h.modThread (h.withThread (.bind keeps_acquireIf fun _ => keeps_finishVload))
    · refine .ite h.modThread (h.withThread ?_)
      split
      · exact keeps_recordRead
      · exact keeps_trapW
    · exact h.withThread keeps_replied
    · exact h

theorem State.MemHas.pendingSaves (h : s.MemHas Canonical) : s.pendingSaves.MemHas Canonical := by
  unfold State.pendingSaves
  dsimp only
  refine h.foldl fun u x hu => ?_
  split
  · exact hu.preemptThread
  · exact hu

theorem State.MemHas.actWrites (h : s.MemHas Canonical) : s.actWrites.MemHas Canonical := by
  unfold State.actWrites
  refine (h.same (by rfl)).foldl fun u x hu => ?_
  split
  · exact hu.getD hu.registerWrite
  · exact hu

theorem State.MemHas.countDone {p : Option PhaseId} {term : Nat} (h : s.MemHas P) :
    (s.countDone p term).MemHas P := by
  unfold State.countDone
  split
  · exact h
  · exact h.modCore

theorem State.MemHas.answerReq {q : Req} {term : Nat} {a : Ans} (h : s.MemHas P) :
    (s.answerReq q term a).MemHas P := by
  unfold State.answerReq
  dsimp only
  split
  · refine State.MemHas.countDone ?_
    split
    · exact h.same (by rfl)
    · exact h
  · split
    · exact h.answer
    · exact h.fresh.modThread

theorem State.MemHas.answerParts {q : Req} {term : Nat} {a : Ans} {ps : List Part} {sum : Nat} (h : s.MemHas P) :
    (s.answerParts q term a ps sum).MemHas P := by
  induction ps generalizing s sum with
  | nil => exact h
  | cons p r ih => exact ih h.answerReq

theorem State.MemHas.dropParts {q : Req} {term : Nat} {out : Part → Bool} {a : Part → Ans} (h : s.MemHas P) :
    (s.dropParts q term out a).2.MemHas P := by
  unfold State.dropParts
  dsimp only
  split
  · exact h
  · split
    · exact h.foldl fun _ _ hu => hu.answerParts
    · exact h.foldl fun _ _ hu => hu.answerParts

theorem State.MemHas.dropCut {q : Req} {term : Nat} (h : s.MemHas P) : (s.dropCut q term).2.MemHas P := by
  unfold State.dropCut
  split
  · split
    · exact h
    · exact h.answerReq
  · exact h.dropParts

theorem State.MemHas.performAway {q : Req} (h : s.MemHas P) : (s.performAway q).2.MemHas P := by
  have hfree : (s.freeVal.2.choose 6).2.MemHas P := h.freeVal.choose
  unfold State.performAway
  dsimp only
  split
  · exact .pairIte (hfree.same (by rfl)) hfree
  · exact hfree
  · exact hfree.same (by rfl)
  · exact hfree
  · exact hfree

theorem State.MemHas.answerAll {q : Req} {term : Nat} {a : Ans} (h : s.MemHas P) : (s.answerAll q term a).MemHas P :=
  .ite h.answerReq h.answerParts

theorem State.MemHas.awayArrives {q : Req} (h : s.MemHas P) : OptHas P (s.awayArrives q) := by
  have hcut : (s.dropCut q (s.termOf q.loc q.scope)).2.MemHas P := h.dropCut
  unfold State.awayArrives
  extract_lets term
  split
  · next hc => exact .some ((hcut.of_pair hc).foldl fun _ _ hu => hu.nudge)
  · next r t hc =>
    have haway : (t.performAway r).2.MemHas P := (hcut.of_pair hc).performAway
    split
    · exact .none
    · next ha => exact .some ((haway.of_pair ha).answerAll.foldl fun _ _ hu => hu.nudge)

theorem State.MemHas.denyParts {q : Req} {term : Nat} (h : s.MemHas P) : (s.denyParts q term).2.MemHas P :=
  h.dropParts

theorem State.MemHas.performReq {q : Req} (h : s.MemHas Canonical) : (s.performReq q).MemHas Canonical := by
  have hcut : (s.dropCut q (s.termOf q.loc q.scope)).2.MemHas Canonical := h.dropCut
  unfold State.performReq
  extract_lets term s1
  have h1 : s1.MemHas Canonical := by
    unfold s1
    split
    · next hc => exact hcut.of_pair hc
    · next r t hc =>
      have hdeny : (t.denyParts r term).2.MemHas Canonical := (hcut.of_pair hc).denyParts
      split
      · next hd => exact hdeny.of_pair hd
      · next hd => exact (hdeny.of_pair hd).performOne.answerAll
  exact h1.foldl fun _ _ hu => hu.nudge

theorem State.MemHas.homeArrives {n : Nat} (h : s.MemHas Canonical) : OptHas Canonical (s.homeArrives n) := by
  unfold State.homeArrives
  dsimp only
  split
  · exact .none
  · split
    · exact .none
    · split
      · exact .some (h.same (by rfl)).modCore
      · exact .ite (h.same (by rfl)).awayArrives (.ite (.some (h.same (by rfl)).performReq) (.ite (.some ((h.same
          (by rfl)).same (by rfl))) (.some (h.same (by rfl)).choose.performReq)))

theorem State.MemHas.bankServes {c : Nat} (h : s.MemHas Canonical) : OptHas Canonical (s.bankServes c) := by
  unfold State.bankServes
  dsimp only
  split
  · exact .none
  · exact .some h.modCore.performReq

theorem State.MemHas.combineAt {n : Nat} (h : s.MemHas P) : OptHas P (s.combineAt n) := by
  unfold State.combineAt
  dsimp only
  split
  · exact .none
  · exact .some (h.same (by rfl))

theorem keeps_waitmWith {d : Dst} {extra : Nat} : Keeps Canonical (waitmWith d extra) :=
  .bind keeps_getCur fun _ => .bind keeps_updCur fun _ => keeps_writeD

theorem State.MemHas.endWaitm {t : Thread} {extra : Nat} (h : s.MemHas Canonical) :
    (s.endWaitm t extra).MemHas Canonical := by
  unfold State.endWaitm
  split
  · exact h.withThread keeps_waitmWith
  · exact h

theorem State.MemHas.arriveLinked {m : LinkMsg} (h : s.MemHas Canonical) : OptHas Canonical (s.arriveLinked m) := by
  unfold State.arriveLinked
  split
  · exact .some h
  · split
    · exact .some h
    · split
      · exact .some h.fillD
      · exact .ite (.ite h.modFam.sendLinked (.some h)) (.ite .none (.some h.modCore))

theorem State.MemHas.offerRoom {c : Nat} (h : s.MemHas Canonical) : OptHas Canonical (s.offerRoom c) :=
  .map fun _ => h.startOn

theorem State.MemHas.endFamily {fk : Nat} (h : s.MemHas P) : (s.endFamily fk).MemHas P :=
  h.modFam.wakeWhere

theorem State.MemHas.answerMarker {p : PhaseId} {t : Nat} (h : s.MemHas P) : (s.answerMarker p t).MemHas P :=
  h.modCore

theorem State.MemHas.markerLost {p : PhaseId} (h : s.MemHas Canonical) : (s.markerLost p).MemHas Canonical :=
  h.foldl fun _ _ hu => hu.freeVal.noteError

/-- What the first of a list that gives a machine gives. -/
theorem OptHas.firstSome {α : Type} {f : α → Option State} {l : List α} (hf : ∀ x, OptHas P (f x)) :
    OptHas P (Machine.firstSome f l) := by
  induction l with
  | nil => exact .none
  | cons x r ih =>
    unfold Machine.firstSome
    split
    · next hy => exact .some (hf x _ hy)
    · exact ih

theorem State.MemHas.markerAnswered {c : Nat} (h : s.MemHas Canonical) : OptHas Canonical (s.markerAnswered c) := by
  refine .firstSome fun y => ?_
  split
  · exact .none
  · exact .some (State.MemHas.ite h h.markerLost).answerMarker

theorem keeps_afterRelease {k : Comp} {acq : Bool} : Keeps Canonical (afterRelease k acq) := by
  unfold afterRelease
  refine .bind keeps_raiseDeferred fun x => ?_
  split
  · exact keeps_fenceNow
  · exact keeps_rpushNow
  · exact keeps_replayNow
  · exact keeps_finish

theorem State.MemHas.phaseDone {c : Nat} (h : s.MemHas P) : OptHas P (s.phaseDone c) := by
  unfold State.phaseDone
  dsimp only
  split
  · exact .none
  · exact .some (h.same (by rfl)).mapThreads.wakeWhere

theorem State.MemHas.raiseHeld {l : List Req} (h : s.MemHas Canonical) : (s.raiseHeld l).MemHas Canonical := by
  induction l generalizing s with
  | nil => exact h
  | cons q r ih => exact ih (State.MemHas.withThread (h.same (by rfl)) (.bind keeps_raiseDeferred fun _ => .pure))

theorem State.MemHas.performOwn {l : List Req} (h : s.MemHas Canonical) : (s.performOwn l).MemHas Canonical := by
  induction l generalizing s with
  | nil => exact h
  | cons q r ih =>
    unfold State.performOwn
    split
    · exact ih (State.MemHas.withThread (h.same (by rfl)) keeps_inTurn)
    · exact ih h

theorem State.MemHas.spillWrite {p : Packet} (h : s.MemHas Canonical) : (s.spillWrite p).MemHas Canonical := by
  unfold State.spillWrite
  dsimp only
  split
  · split
    · exact h
    · exact h.foldl fun _ _ hu => .ite hu.putWord hu
  · exact h

theorem State.MemHas.headerArrives {p : Packet} (h : s.MemHas Canonical) : (s.headerArrives p).MemHas Canonical :=
  h.modCore.spillWrite

theorem State.MemHas.closeArrives {p : Packet} (h : s.MemHas Canonical) : (s.closeArrives p).MemHas Canonical := by
  unfold State.closeArrives
  dsimp only
  split
  · exact h.same (by rfl)
  · exact .ite (h.same (by rfl)).modCore (h.same (by rfl)).modCore.spillWrite.wakeReaders

theorem State.MemHas.unmake {fk : Nat} (h : s.MemHas P) : (s.unmake fk).MemHas P :=
  (h.same (by rfl)).updCur

theorem keeps_txeDone {ok : Bool} {p : Packet} {k : Comp} : Keeps Canonical (txeDone ok p k) := by
  unfold txeDone
  dsimp only
  refine .bind keeps_updCur fun x => ?_
  split
  · refine .bind (.modS fun _ hu => hu.countEvent) fun x => ?_
    split
    · exact keeps_transfer
    · exact .guard keeps_countConv .pure
    · exact .bind (.modS fun _ hu => hu.familyMade) fun _ => .pure
    · exact .pure
  · split
    · exact .bind (.modS fun _ hu => hu.unmake) fun _ => fun _ h => .trap h
    · exact fun _ h => .trap h

theorem keeps_txeLost {p : Packet} {k : Comp} : Keeps P (txeLost p k) := by
  unfold txeLost
  dsimp only
  refine .bind keeps_updCur fun x => ?_
  split
  · exact .bind (.modS fun _ hu => hu.unmake) fun _ => fun _ h => .trap h
  · exact fun _ h => .trap h

theorem State.MemHas.redNotice {p : Partial} {reason : Nat} (h : s.MemHas P) : (s.redNotice p reason).MemHas P :=
  (h.same (by rfl))

theorem State.MemHas.redAccept {k : Nat} {g : RedGroup} {later elem : Nat} {p : RedAcc} (h : s.MemHas Canonical) :
    (s.redAccept k g later elem p).MemHas Canonical := by
  unfold State.redAccept
  extract_lets
  refine .ite h ?_
  extract_lets a1 put
  refine .ite (h.same (by rfl)) ?_
  dsimp only
  refine State.MemHas.same (s := (State.answerWaiters _ _ _ _ _).1) ?_ (by rfl)
  exact h.enginePutAt.answerWaiters

theorem State.MemHas.redAt {k : Nat} {g : RedGroup} {p : Partial} (h : s.MemHas Canonical) :
    (s.redAt k g p).MemHas Canonical :=
  .ite h.redNotice (.ite h.redAccept (.ite h.redAccept (.ite (h.same (by rfl)) (h.same (by rfl)).redNotice)))

theorem State.MemHas.redArrive {p : Partial} (h : s.MemHas Canonical) : (s.redArrive p).MemHas Canonical := by
  unfold State.redArrive
  split
  · exact .ite h h.redNotice
  · exact h.redAt

theorem State.MemHas.redLost {p : Partial} (h : s.MemHas P) : (s.redLost p).MemHas P :=
  (h.same (by rfl))

theorem State.MemHas.redBreak {p : Partial} (h : s.MemHas P) : (s.redBreak p).MemHas P := by
  unfold State.redBreak
  extract_lets s1
  have h1 : s1.MemHas P := h.redLost
  split
  · exact h1
  · refine .ite h1 ?_
    dsimp only
    refine State.MemHas.same (s := (State.answerWaiters _ _ _ _ _).1) ?_ (by rfl)
    exact h1.answerWaiters

theorem State.MemHas.partialEnds {p : Partial} (h : s.MemHas Canonical) : (s.partialEnds p).MemHas Canonical := by
  unfold State.partialEnds
  split
  · exact .ite (.ite h.redArrive h.redBreak) (.ite h h.redLost)
  · exact h

theorem State.MemHas.partialMoves {n : Nat} (h : s.MemHas Canonical) : OptHas Canonical (s.partialMoves n) := by
  unfold State.partialMoves
  dsimp only
  split
  · exact .none
  · split
    · exact .none
    · split
      · exact .some (h.same (by rfl))
      · exact .ite .none (.some (h.same (by rfl)).partialEnds)

theorem State.MemHas.farPartial {k : Nat} (h : s.MemHas Canonical) : OptHas Canonical (s.farPartial k) := by
  unfold State.farPartial
  dsimp only
  split
  · exact .none
  · exact .ite .none (.ite .none (.some h.choose.choose.freeVal.redAt))

end Sys2Proof.Machine
end

section
/-! Memory through what the engines do (O49). -/

namespace Sys2Proof.Machine
variable {P : Memory → Prop} {s : State}

theorem State.MemHas.copyStart {cl : Nat} (h : s.MemHas P) : OptHas P (s.copyStart cl) := by
  unfold State.copyStart
  dsimp only
  split
  · exact .none
  · split
    · exact .none
    · split
      · exact .some h.setEng.traceCopy
      · exact .none

theorem State.MemHas.copyEnd {e : EngOp} {slot : Nat} {id : Word} {rec : List Word} {count state : Nat}
    (h : s.MemHas Canonical) : (s.copyEnd e slot id rec count state).MemHas Canonical :=
  h.copyEndAt

theorem State.MemHas.wholeEnd {e : EngOp} {slot : Nat} {id : Word} {rec : List Word} {count state : Nat}
    (h : s.MemHas Canonical) : (s.wholeEnd e slot id rec count state).MemHas Canonical :=
  h.copyEnd

theorem State.MemHas.engRead {e : EngOp} {a : Word} {n : Nat} (h : s.MemHas P) : (s.engRead e a n).2.MemHas P := by
  have haway : (s.freeVal.2.choose 4).2.MemHas P := h.freeVal.choose
  unfold State.engRead
  split
  · exact h
  · exact h
  · refine .pairIte h (.pairIte haway (.pairIte h ?_))
    split
    · split
      · next hm => exact h.mregAccess.of_pair hm
      · next hm => exact h.mregAccess.of_pair hm
    · exact .pairIte h h.useBanks.observe

theorem State.MemHas.packRead {e : EngOp} {rec : List Word} {m fuel : Nat} (h : s.MemHas P) :
    (s.packRead e rec m fuel).2.2.MemHas P := by
  induction fuel generalizing s m with
  | zero => exact h
  | succ j ih =>
    unfold State.packRead
    dsimp only
    split
    · exact ih h.engRead
    · exact ih h.engRead

theorem State.MemHas.engPut {e : EngOp} {a v : Word} {poison : Bool} (h : s.MemHas Canonical) :
    (s.engPut e a v poison).2.MemHas Canonical := by
  unfold State.engPut
  split
  · exact h
  · exact h
  · exact h.engPutAt

theorem State.MemHas.engPuts {e : EngOp} {a : Word} {l : List Word} {poison : Bool} (h : s.MemHas Canonical) :
    (s.engPuts e a l poison).2.MemHas Canonical := by
  induction l generalizing s a with
  | nil => exact h
  | cons v r ih => exact ih h.engPut

theorem State.MemHas.packPayload {e : EngOp} {slot : Nat} {id : Word} {rec : List Word} (h : s.MemHas Canonical) :
    (s.packPayload e slot id rec).MemHas Canonical := by
  have hpoison : ∀ u n k, State.MemHas Canonical u →
      ((u.engPoison e (recW rec 1)).2.wholeEnd e slot id rec n k).MemHas Canonical :=
    fun _ _ _ hu => hu.engPoison.wholeEnd
  obtain ⟨total, htotal⟩ : ∃ n, n = 4096 := ⟨_, rfl⟩
  rw [State.packPayload, ← htotal]
  split
  · exact hpoison _ _ _ h
  · have hread : (s.packRead e rec 0 total).2.2.MemHas Canonical := h.packRead
    generalize s.packRead e rec 0 total = p at hread
    obtain ⟨f, l, t⟩ := p
    have hput : ∀ a l, (t.engPuts e a l false).2.MemHas Canonical := fun _ _ => State.MemHas.engPuts hread
    dsimp only
    split
    · exact .ite (hpoison _ _ _ h) h.pauseEng
    · exact hpoison _ _ _ hread
    · split
      · exact hpoison _ _ _ (hput _ _)
      · refine .ite (hpoison _ _ _ (hput _ _)) ?_
        split
        · exact (hput _ _).engPut.wholeEnd
        · exact (hput _ _).engPut.wholeEnd

theorem State.MemHas.wholeAgain {e : EngOp} {slot : Nat} {id : Word} {rec : List Word} (h : s.MemHas Canonical) :
    (s.wholeAgain e slot id rec).MemHas Canonical := by
  unfold State.wholeAgain
  split
  · exact h.copyEnd
  · exact h.copyEnd

theorem State.MemHas.packRun {e : EngOp} {slot : Nat} {id : Word} {rec : List Word} (h : s.MemHas Canonical) :
    (s.packRun e slot id rec).MemHas Canonical :=
  .ite h.packPayload h.wholeAgain

theorem State.MemHas.engReadAll {e : EngOp} {l : List (Word × Nat)} (h : s.MemHas P) :
    (s.engReadAll e l).2.MemHas P := by
  induction l generalizing s with
  | nil => exact h
  | cons x r ih =>
    obtain ⟨a, n⟩ := x
    have hrest : ((s.engRead e a n).2.engReadAll e r).2.MemHas P := ih h.engRead
    unfold State.engReadAll
    dsimp only
    split
    · exact hrest
    · exact hrest

theorem State.MemHas.tileWrite {e : EngOp} {rec : List Word} {f : Nat → Nat → Word} {d fuel : Nat}
    (h : s.MemHas Canonical) : (s.tileWrite e rec f d fuel).2.MemHas Canonical := by
  induction fuel generalizing s d with
  | zero => exact h
  | succ j ih =>
    unfold State.tileWrite
    dsimp only
    split
    · exact ih h.engPut
    · exact ih h.engPut

theorem State.MemHas.unpackPayload {e : EngOp} {slot : Nat} {id : Word} {rec : List Word} (h : s.MemHas Canonical) :
    (s.unpackPayload e slot id rec).MemHas Canonical := by
  unfold State.unpackPayload
  extract_lets total n tile poison
  have hpoison : ∀ u k, State.MemHas Canonical u → (poison u k).MemHas Canonical :=
    fun _ _ hu => hu.poisonAll.wholeEnd
  split
  · exact .ite (hpoison _ _ h) h.pauseEng
  · split
    · exact hpoison _ _ h
    · have hdir : (s.engRead e (recW rec 0) 8).2.MemHas Canonical := h.engRead
      split
      · next hr => exact .ite (hpoison _ _ (hdir.of_pair hr)) (hdir.of_pair hr).pauseEng
      · next hr => exact hpoison _ _ (hdir.of_pair hr)
      · next u hr =>
        have hu : u.MemHas Canonical := hdir.of_pair hr
        have hall : ∀ l, (u.engReadAll e l).2.MemHas Canonical := fun _ => hu.engReadAll
        extract_lets
        refine .ite (hpoison _ _ hu) ?_
        split
        · exact .ite (hpoison _ _ hu) hu.pauseEng
        · split
          · next t ht =>
            have h1 : t.MemHas Canonical := (hall _).of_pair ht
            have hw : ∀ f d m, (t.tileWrite e rec f d m).2.MemHas Canonical := fun _ _ _ => h1.tileWrite
            extract_lets
            refine .ite (hpoison _ _ h1) ?_
            split
            next ht2 =>
            have h2 := (hw _ _ _).of_pair ht2
            split
            · exact h2.wholeEnd
            · exact h2.wholeEnd
            · exact hpoison _ _ h2
          · next ht => exact hpoison _ _ ((hall _).of_pair ht)
          · next ht => exact hpoison _ _ ((hall _).of_pair ht)

theorem State.MemHas.unpackRun {e : EngOp} {slot : Nat} {id : Word} {rec : List Word} (h : s.MemHas Canonical) :
    (s.unpackRun e slot id rec).MemHas Canonical :=
  .ite h.unpackPayload h.wholeAgain

theorem State.MemHas.copyValue {e : EngOp} {op : Nat} {rec : List Word} {d : Nat} (h : s.MemHas P) :
    (s.copyValue e op rec d).2.MemHas P := by
  unfold State.copyValue
  refine .pairIte ?_ h.engReadAll
  dsimp only
  split
  · next hr => exact (h.engRead.of_pair hr).engReadAll
  · exact h.engRead

theorem State.MemHas.copyWord {e : EngOp} {op : Nat} {rec : List Word} (h : s.MemHas Canonical) :
    (s.copyWord e op rec).2.1.MemHas Canonical := by
  unfold State.copyWord
  extract_lets a next
  split
  · exact h.engPoison
  · split
    · exact h.engPoison
    · have hput : (s.engPut e a 0 true).2.MemHas Canonical := h.engPut
      split
      · next hp => exact (hput.of_pair hp).pauseEng
      · next hp => exact hput.of_pair hp
  · have hval : (s.copyValue e op rec e.pos).2.MemHas Canonical := h.copyValue
    split
    next v t ht =>
    have h1 : t.MemHas Canonical := hval.of_pair ht
    have hput : ∀ w, (t.engPut e a w false).2.MemHas Canonical := fun _ => h1.engPut
    extract_lets
    split
    · split
      · exact h1
      · exact h1.pauseEng
    · exact h1
    · split
      · next hp => exact (hput _).of_pair hp
      · next hp => exact (hput _).of_pair hp
    · exact h1

theorem State.MemHas.copyWords {e : EngOp} {op : Nat} {rec : List Word} {fuel : Nat} (h : s.MemHas Canonical) :
    (s.copyWords e op rec fuel).2.1.MemHas Canonical := by
  induction fuel generalizing s e with
  | zero => exact h
  | succ j ih =>
    have hone : (s.copyWord e op rec).2.1.MemHas Canonical := h.copyWord
    unfold State.copyWords
    split
    · exact h
    · split
      · next hw =>
        rw [hw] at hone
        split
        · exact ih hone
        · exact hone
      · exact hone

theorem State.MemHas.copyGo {e : EngOp} {k : Nat} (h : s.MemHas Canonical) : OptHas Canonical (s.copyGo e k) := by
  unfold State.copyGo
  split
  · next op slot id rec _ =>
    refine .ite (.some h.packRun) (.ite (.some h.unpackRun) ?_)
    extract_lets total
    have hgo : (s.copyWords e op rec k).2.1.MemHas Canonical := h.copyWords
    generalize s.copyWords e op rec k = p at hgo
    obtain ⟨e1, t, go⟩ := p
    refine .ite (.some hgo) ?_
    extract_lets t1
    have h1 : t1.MemHas Canonical := State.MemHas.setEng hgo
    refine .ite (.some h1) ?_
    split
    · exact .some h1.copyEnd
    · exact .some h1.copyEnd
  · exact .none

theorem State.MemHas.copyRun {n : Nat} (h : s.MemHas Canonical) : OptHas Canonical (s.copyRun n) := by
  unfold State.copyRun
  dsimp only
  split
  · exact .none
  · exact h.choose.copyGo

theorem State.MemHas.engStart {n : Nat} (h : s.MemHas P) : OptHas P (s.engStart n) := by
  unfold State.engStart
  dsimp only
  split
  · exact .none
  · exact .some h.setEng

theorem State.MemHas.retireEng {e : EngOp} (h : s.MemHas P) : (s.retireEng e).MemHas P :=
  h.dropEng.countEvent.serveArrays

theorem State.MemHas.freeSlot {e : EngOp} {ring x : Nat} (h : s.MemHas P) : (s.freeSlot e ring x).MemHas P :=
  h.modThread.release

theorem State.MemHas.noteMatrix {e : EngOp} {poisoned fault : Bool} {r : MReport} (h : s.MemHas Canonical) :
    (s.noteMatrix e poisoned fault r).MemHas Canonical :=
  h.modThread.syncFrame

theorem State.MemHas.gather {e : EngOp} {l : List Word} (h : s.MemHas P) : (s.gather e l).2.MemHas P := by
  have hall : (s.engReadAll e (l.map fun a => (a, 8))).2.MemHas P := h.engReadAll
  unfold State.gather
  split
  · exact .pairIte h h.pauseEng
  · split
    · next hr => exact hall.of_pair hr
    · next hr => exact hall.of_pair hr
    · next hr => exact hall.of_pair hr

theorem State.MemHas.tldwDone {n : Nat} (h : s.MemHas Canonical) : OptHas Canonical (s.tldwDone n) := by
  have hgather : ∀ e l, (s.gather e l).2.MemHas Canonical := fun _ _ => h.gather
  unfold State.tldwDone
  split
  · exact .none
  · split
    · extract_lets cl len finish
      have hfinish : ∀ u f p b, State.MemHas Canonical u → (finish u f p b).MemHas Canonical := by
        intro u f p b hu
        unfold finish
        extract_lets u1
        have h1 : u1.MemHas Canonical := hu.setArray
        exact h1.noteMatrix.freeSlot.retireEng
      clear_value finish
      split
      · next hg => exact .some (hfinish _ _ _ _ ((hgather _ _).of_pair hg))
      · next hg => exact .some (hfinish _ _ _ _ ((hgather _ _).of_pair hg))
      · next hg => exact .some (hfinish _ _ _ _ ((hgather _ _).of_pair hg))
      · next hg => exact .some ((hgather _ _).of_pair hg)
    · exact .none

theorem State.MemHas.cancelInto {e : EngOp} {range : List Word} (h : s.MemHas Canonical) :
    (s.cancelInto e range).MemHas Canonical :=
  h.poisonAll.noteMatrix

theorem State.MemHas.noteRed {e : EngOp} {ring x a : Nat} (h : s.MemHas Canonical) :
    (s.noteRed e ring x a).MemHas Canonical :=
  h.modThread.syncFrame

theorem State.MemHas.noteWrites {e : EngOp} {range : List Word} {bad : Option Nat} {r : MReport}
    (h : s.MemHas Canonical) : (s.noteWrites e range bad r).MemHas Canonical := by
  unfold State.noteWrites
  split
  · exact h.noteMatrix
  · exact .ite h.noteMatrix h.cancelInto

theorem State.MemHas.tmmaDone {n : Nat} (h : s.MemHas Canonical) : OptHas Canonical (s.tmmaDone n) := by
  have hgather : ∀ e l, (s.gather e l).2.MemHas Canonical := fun _ _ => h.gather
  unfold State.tmmaDone
  split
  · exact .none
  · split
    · extract_lets cl m len region finish cancel
      have hfinish : ∀ u p b r, State.MemHas Canonical u → (finish u p b r).MemHas Canonical :=
        fun _ _ _ _ hu => hu.noteMatrix.freeSlot.retireEng
      have hcancel : ∀ u, State.MemHas Canonical u → (cancel u).MemHas Canonical :=
        fun _ hu => hu.cancelInto.freeSlot.retireEng
      refine .ite (.some (hcancel _ h)) ?_
      split
      · next hg => exact .some ((hgather _ _).of_pair hg)
      · next hg => exact .some (hcancel _ ((hgather _ _).of_pair hg))
      · next hg => exact .some (hfinish _ _ _ _ ((hgather _ _).of_pair hg))
      · next u hg =>
        have hu : u.MemHas Canonical := (hgather _ _).of_pair hg
        refine .ite (.some (hfinish _ _ _ _ hu)) ?_
        extract_lets
        have hputs : ∀ e a l p, (u.engPuts e a l p).2.MemHas Canonical := fun _ _ _ _ => hu.engPuts
        split
        split
        next t ht =>
        have h1 : t.MemHas Canonical := (hputs _ _ _ _).of_pair ht
        have hred : (if m.red = true then t.choose 2 else (0, t)).2.MemHas Canonical := .pairIte (h1.same (by rfl)) h1
        split
        next hc =>
        have h2 := hred.of_pair hc
        extract_lets t1
        have h3 : t1.MemHas Canonical := .ite h2.noteRed h2
        exact .some h3.noteWrites.freeSlot.retireEng
    · exact .none

theorem State.MemHas.tzeroDone {n : Nat} (h : s.MemHas Canonical) : OptHas Canonical (s.tzeroDone n) := by
  obtain ⟨zeros, hzeros⟩ : ∃ l, l = List.replicate 8192 (0 : Word) := ⟨_, rfl⟩
  rw [State.tzeroDone, ← hzeros]
  split
  · exact .none
  · split
    · exact .some h.engPuts.noteWrites.retireEng
    · exact .none

theorem State.MemHas.drainRows {e : EngOp} {dst st : Word} {ds : Nat} {l : List (List Word × List Word × MReport)}
    {r : Nat} (h : s.MemHas Canonical) : (s.drainRows e dst st ds l r).2.MemHas Canonical := by
  induction l generalizing s r with
  | nil => exact h
  | cons x rest ih => exact ih h.engPuts.engPuts

/-- The kernel is kept from evaluating what reads the 8192 words of a region: `gather` and the list of zeros are
variables here. -/
theorem State.MemHas.tdrainDone {n : Nat} (h : s.MemHas Canonical) : OptHas Canonical (s.tdrainDone n) := by
  obtain ⟨g, hg, hgather⟩ : ∃ g, g = s.gather ∧ ∀ e l, (g e l).2.MemHas Canonical := ⟨_, rfl, fun _ _ => h.gather⟩
  obtain ⟨zeros, hzeros⟩ : ∃ l, l = List.replicate 8192 (0 : Word) := ⟨_, rfl⟩
  rw [State.tdrainDone, ← hzeros, ← hg]
  split
  · exact .none
  · split
    · extract_lets bias st ds region outs stw lo bw all cancel
      have hcancel : ∀ u, State.MemHas Canonical u → (cancel u).MemHas Canonical :=
        fun _ hu => hu.cancelInto.retireEng
      split
      · exact .ite (.some (hcancel _ h)) (.some h.pauseEng)
      · split
        · next hg => exact .some ((hgather _ _).of_pair hg)
        · next hg => exact .some (hcancel _ ((hgather _ _).of_pair hg))
        · next hg => exact .some ((hgather _ _).of_pair hg).noteMatrix.retireEng
        · next u hg =>
          have hu : u.MemHas Canonical := (hgather _ _).of_pair hg
          extract_lets bl bv rows
          have hrows : ∀ e dst st ds l r, (u.drainRows e dst st ds l r).2.MemHas Canonical :=
            fun _ _ _ _ _ _ => hu.drainRows
          split
          next t ht =>
          have h1 : t.MemHas Canonical := (hrows _ _ _ _ _ _).of_pair ht
          have hputs : ∀ e a l p, (t.engPuts e a l p).2.MemHas Canonical := fun _ _ _ _ => h1.engPuts
          split
          next v hv =>
          have h2 : v.MemHas Canonical := State.MemHas.of_pair (.pairIte (hputs _ _ _ _) h1) hv
          exact .some h2.noteWrites.retireEng
    · exact .none

end Sys2Proof.Machine
end

section
/-! Memory through bins, resets, restores and launches (O49). -/

namespace Sys2Proof.Machine
variable {P : Memory → Prop} {s : State}

theorem State.MemHas.appendArrives {n : Nat} (h : s.MemHas Canonical) : OptHas Canonical (s.appendArrives n) := by
  unfold State.appendArrives
  dsimp only
  split
  · exact .none
  · split
    · exact .none
    · exact .some (h.same (by rfl)).performReq

theorem State.MemHas.combineAtHome {die : Nat} {b : BinSet} {i : Nat} {r : Replayed} (h : s.MemHas Canonical) :
    (s.combineAtHome die b i r).2.MemHas Canonical := by
  unfold State.combineAtHome
  dsimp only
  split
  · exact h
  · split
    · exact h
    · split
      · exact h
      · split
        · exact h.putBytes.changed.digest.observe
        · exact h

theorem State.MemHas.combineAll {die : Nat} {b : BinSet} {l : List Nat} {r : Replayed} (h : s.MemHas Canonical) :
    (s.combineAll die b l r).2.MemHas Canonical := by
  induction l generalizing s r with
  | nil => exact h
  | cons i rest ih => exact ih h.combineAtHome

theorem State.MemHas.replayRun {n : Nat} (h : s.MemHas Canonical) : OptHas Canonical (s.replayRun n) := by
  unfold State.replayRun
  dsimp only
  split
  · exact .none
  · split
    · exact .some (h.same (by rfl))
    · split
      · exact .none
      · split
        · split
          · exact .some (h.combineAll.same (by rfl)).wakeWhere.syncHolds.answer
          · exact .some (h.combineAll.same (by rfl)).wakeWhere.syncHolds
        · exact .some (h.combineAll.same (by rfl)).wakeWhere.syncHolds

theorem State.MemHas.poisonWord {k : Nat} (h : s.MemHas Canonical) : (s.poisonWord k).MemHas Canonical := by
  unfold State.poisonWord
  dsimp only
  refine State.MemHas.changed ?_
  refine State.MemHas.putWord ?_
  exact .ite h.poisonObject h

theorem State.MemHas.scrub {c k : Nat} (h : s.MemHas Canonical) : (s.scrub c k).MemHas Canonical := by
  unfold State.scrub
  dsimp only
  split
  · exact h.modCore
  · split
    · exact h.modCore.countErrors
    · split
      · exact h.modCore.poisonWord.countErrors.report
      · split
        · exact h.modCore
        · exact h.modCore.putThread.countErrors.reportThread

theorem State.MemHas.pathError {c launch : Nat} {addr : Word} (h : s.MemHas P) :
    (s.pathError c launch addr).MemHas P :=
  h.countErrors.report

theorem State.MemHas.clearScratchpad {c : Nat} (h : s.MemHas Canonical) : (s.clearScratchpad c).MemHas Canonical :=
  Memory.wf_filter s.mem _ _ h

theorem State.MemHas.resetCore {c : Nat} (h : s.MemHas Canonical) : (s.resetCore c).MemHas Canonical :=
  (((h.foldl fun _ _ hu => hu.pathError).foldl fun _ _ hu => hu.retire).clearScratchpad).modCore

theorem State.MemHas.holdOn {launch c : Nat} (h : s.MemHas P) : (s.holdOn launch c).MemHas P :=
  h.setHold

theorem State.MemHas.unlist {t : Thread} (h : s.MemHas P) : (s.unlist t).MemHas P :=
  h.modLaunch.clearHold

theorem State.MemHas.unparkHosts {core entry : Nat} {hs : List Thread} (h : s.MemHas Canonical) :
    (s.unparkHosts core entry hs).MemHas Canonical := by
  unfold State.unparkHosts
  split
  · exact h
  · refine State.MemHas.setWord ?_
    exact h.foldl fun _ _ hu => hu.modThread

theorem State.MemHas.restoreSaved {t : Thread} {e b : Nat} (h : s.MemHas Canonical) :
    (s.restoreSaved t e b).MemHas Canonical :=
  .ite h.unparkHosts.unlist.adoptStep (.ite h.lanesReady h.lanesReady.unparkHosts.restoreInto.unlist)

theorem State.MemHas.restoreForced {t : Thread} (h : s.MemHas Canonical) : OptHas Canonical (s.restoreForced t) := by
  unfold State.restoreForced
  split
  · exact .none
  · split
    · exact .none
    · split
      · next hm => exact .some (h.makeRun.of_pair hm).restoreSaved
      · exact .none

theorem State.MemHas.migrateTo {t : Thread} {c : Nat} (h : s.MemHas Canonical) :
    (s.migrateTo t c).MemHas Canonical := by
  unfold State.migrateTo
  dsimp only
  split
  · exact h.saveThread.modThread
  · split
    · exact h.saveThread.modThread.listSaved.restoreSaved
    · exact h.saveThread.modThread.listSaved

theorem State.MemHas.dropLaunch {q : Nat} (h : s.MemHas P) : (s.dropLaunch q).MemHas P :=
  h.modQueue

theorem State.MemHas.fillCword {l : Launch} {status endc : Nat} (h : s.MemHas Canonical) :
    (s.fillCword l status endc).MemHas Canonical :=
  .ite h.enginePutAt h

theorem State.MemHas.refreshLaunches {ls : List Nat} (h : s.MemHas P) : (s.refreshLaunches ls).MemHas P :=
  h.foldl fun _ _ hu => hu.refreshPrio

theorem State.MemHas.insertLaunchWaits {launch die : Nat} {pre : List Nat} (h : s.MemHas Canonical) :
    (s.insertLaunchWaits launch die pre).MemHas Canonical :=
  h.foldl fun _ _ hu => .ite (hu.same (by rfl)).syncHolds.stepPrio hu.untrack

theorem State.MemHas.acceptLaunch {l : Launch} {mid : Nat} (h : s.MemHas Canonical) :
    (s.acceptLaunch l mid).MemHas Canonical := by
  unfold State.acceptLaunch
  dsimp only
  split
  · exact h.fillCword
  · exact (h.same (by rfl)).insertLaunchWaits.refreshLaunches

theorem State.MemHas.acceptAt {q a : Nat} (h : s.MemHas Canonical) : OptHas Canonical (s.acceptAt q a) := by
  unfold State.acceptAt
  dsimp only
  split
  · exact .some h.fresh.dropLaunch
  · exact .ite .none (.some h.fresh.acceptLaunch)

theorem State.MemHas.removeLaunchWaits {launch : Nat} {pre : List Nat} (h : s.MemHas P) :
    (s.removeLaunchWaits launch pre).MemHas P :=
  (h.same (by rfl)).foldl fun _ _ hu => hu.syncHolds.stepPrio

theorem State.MemHas.writeBind {d : Nat} {r : BindRec} (h : s.MemHas P) : (s.writeBind d r).MemHas P :=
  h.modDie

theorem State.MemHas.bindOn {k : Nat} {l : Launch} {p : List Nat} (h : s.MemHas P) : (s.bindOn k l p).MemHas P :=
  (h.same (by rfl)).foldl fun _ _ hu => hu.writeBind

theorem State.MemHas.alsoWait {k m : Nat} (h : s.MemHas Canonical) : (s.alsoWait k m).MemHas Canonical :=
  h.foldl fun _ _ hu => (hu.same (by rfl)).insertLaunchWaits

theorem State.MemHas.bindLaunch {k : Nat} {l : Launch} {p : List Nat} (h : s.MemHas Canonical) :
    (s.bindLaunch k l p).MemHas Canonical := by
  unfold State.bindLaunch
  dsimp only
  refine State.MemHas.refreshLaunches ?_
  exact .ite h.bindOn.removeLaunchWaits.fresh.bindOn.alsoWait h.bindOn.removeLaunchWaits

theorem State.MemHas.startLaunch {k : Nat} {l : Launch} (h : s.MemHas Canonical) :
    (s.startLaunch k l).MemHas Canonical := by
  unfold State.startLaunch
  extract_lets hold
  have hhold : ∀ u b, State.MemHas Canonical u → (hold u b).MemHas Canonical := fun _ _ hu => hu.same (by rfl)
  refine .ite (hhold _ _ h) ?_
  have hfresh := (hhold _ false h).fresh
  split
  next fk u hu =>
  have h1 := hfresh.of_pair hu
  extract_lets f s1
  have h2 : s1.MemHas Canonical := h1.same (by rfl)
  exact .ite h2.modFam h2.startAll

theorem State.MemHas.freeBinds {k : Nat} (h : s.MemHas P) : (s.freeBinds k).MemHas P :=
  (h.same (by rfl))

theorem State.MemHas.failWaiters {fuel k : Nat} (h : s.MemHas Canonical) :
    (s.failWaiters fuel k).MemHas Canonical := by
  induction fuel generalizing s k with
  | zero => exact h
  | succ j ih =>
    refine h.foldl fun u x hu => ih ?_
    exact (State.MemHas.removeLaunchWaits (hu.same (by rfl))).fillCword

theorem State.MemHas.completeLaunch {k : Nat} {l : Launch} (h : s.MemHas Canonical) :
    (s.completeLaunch k l).MemHas Canonical := by
  unfold State.completeLaunch
  dsimp only
  refine State.MemHas.refreshLaunches ?_
  exact .ite (h.freeBinds.removeLaunchWaits.same (by rfl)).fillCword (h.freeBinds.removeLaunchWaits.same
    (by rfl)).fillCword.failWaiters

theorem State.MemHas.killHalted {tid : Nat} (h : s.MemHas Canonical) : (s.killHalted tid).MemHas Canonical :=
  h.retire.killAll

theorem State.MemHas.killLaunch {k : Nat} (h : s.MemHas Canonical) : (s.killLaunch k).MemHas Canonical :=
  (h.modLaunch.foldl fun _ _ hu => hu.killHalted).killAll

theorem State.MemHas.killLnum {lnum : Nat} (h : s.MemHas Canonical) : (s.killLnum lnum).MemHas Canonical :=
  h.foldl fun _ _ hu => hu.killLaunch

end Sys2Proof.Machine
end

section
/-! Memory through walks, deadlocks, surveys, links and the records of errors (O49). -/

namespace Sys2Proof.Machine
variable {P : Memory → Prop} {s : State}

theorem State.MemHas.fillTlb {cluster : Nat} {e : TlbEntry} (h : s.MemHas P) : (s.fillTlb cluster e).MemHas P := by
  unfold State.fillTlb
  dsimp only
  refine State.MemHas.modCluster ?_
  split
  · exact h
  · exact h.choose

theorem State.MemHas.flushElems {tid : Nat} (h : s.MemHas Canonical) : (s.flushElems tid).MemHas Canonical :=
  .ite h ((h.same (by rfl)).foldl fun _ _ hu => hu.faultOf)

theorem State.MemHas.unpauseBin {k : Nat} (h : s.MemHas P) : (s.unpauseBin k).MemHas P :=
  (h.same (by rfl))

theorem State.MemHas.replayWaiter {w : Waiter} (h : s.MemHas Canonical) : (s.replayWaiter w).MemHas Canonical := by
  unfold State.replayWaiter
  dsimp only
  split
  · split
    · exact h.modThread
    · split
      · exact h.flushElems
      · split
        · exact .ite h.flushElems.wake h.flushElems
        · exact h.flushElems
  · exact h.unpauseBin
  · exact h.same (by rfl)

theorem State.MemHas.fetchFault {cluster launch fkind level : Nat} {w : Waiter} (h : s.MemHas Canonical) :
    (s.fetchFault cluster launch fkind level w).MemHas Canonical := by
  unfold State.fetchFault
  split
  · exact h
  · exact .ite h.faultOf h.putThread

theorem State.MemHas.elemFault {cluster launch fkind level : Nat} {w : Waiter} (h : s.MemHas Canonical) :
    (s.elemFault cluster launch fkind level w).MemHas Canonical :=
  (h.same (by rfl)).flushElems

theorem State.MemHas.walkEnds {cluster launch : Nat} {e : WalkEnd} {w : Waiter} (h : s.MemHas Canonical) :
    (s.walkEnds cluster launch e w).MemHas Canonical := by
  unfold State.walkEnds
  split
  · exact h
  · split
    · exact h.replayWaiter
    · exact .ite h.faultOf (.ite h.fetchFault h.elemFault)

theorem State.MemHas.dropStale {tid : Nat} (h : s.MemHas P) : (s.dropStale tid).MemHas P :=
  h.foldl fun _ _ hu => hu.removeWait

theorem State.MemHas.trapDeadlock {tid : Nat} {path : List (Word × Nat)} {scan : Bool} (h : s.MemHas Canonical) :
    (s.trapDeadlock tid path scan).MemHas Canonical := by
  unfold State.trapDeadlock
  dsimp only
  split
  · exact h.withdrawWait.modThread.recordCycle
  · exact .ite (h.withdrawWait.modThread.recordCycle.withThread (fun _ h =>
      keeps_trapW _ h.unread)) h.withdrawWait.modThread.recordCycle.putThread.wake

theorem State.MemHas.scanParties (h : s.MemHas Canonical) : s.scanParties.MemHas Canonical :=
  h.foldl fun _ _ hu => hu.barEnd

theorem State.MemHas.reenter {l : List Edge} (h : s.MemHas P) : (s.reenter l).MemHas P := by
  induction l generalizing s with
  | nil => exact h
  | cons e r ih =>
    have h1 : State.MemHas P { s with edges := s.edges.map fun x =>
      if x = e then { x with tracked := true } else x } :=
      (h.same (by rfl))
    exact .ite (ih (.ite h1.syncHolds.stepPrio h1.refreshPrio)) (ih h)

theorem State.MemHas.breakCycle {tid : Nat} (h : s.MemHas Canonical) : (s.breakCycle tid).MemHas Canonical := by
  unfold State.breakCycle
  split
  · exact h
  · split
    · exact h.trapDeadlock
    · exact h

theorem State.MemHas.portCommand {op n : Nat} (h : s.MemHas P) : OptHas P (s.portCommand op n) :=
  .ite (.some h.dcmd) .none

theorem State.MemHas.stopArrives {c : Nat} (h : s.MemHas P) : OptHas P (s.stopArrives c) := by
  unfold State.stopArrives
  dsimp only
  split
  · exact .none
  · exact .ite .none (.ite (.ite (.some h.modCore) (.some h.modCore.modCore.stopCore)) (.some h.modCore.resumeCore))

theorem State.MemHas.sample {c : Nat} (h : s.MemHas P) : (s.sample c).MemHas P :=
  .ite h.modCore.emit h.modCore

theorem State.MemHas.packRecord {src : Nat} {tap : Tap} (h : s.MemHas Canonical) :
    OptHas Canonical (s.packRecord src tap) := by
  unfold State.packRecord
  dsimp only
  split
  · exact .none
  · exact .mapState (.ite h.seal (.some h)) fun _ hu => hu.modTrace

theorem State.MemHas.surveyWord (h : s.MemHas P) : s.surveyWord.2.MemHas P :=
  h.freeVal

theorem State.MemHas.surveyWords {n : Nat} (h : s.MemHas P) : (s.surveyWords n).2.MemHas P := by
  induction n with
  | zero => exact h
  | succ j ih => exact ih.surveyWord

theorem State.MemHas.surveyRecords {d ivl n : Nat} (h : s.MemHas P) : (s.surveyRecords d ivl n).MemHas P := by
  induction n with
  | zero => exact h
  | succ j ih =>
    unfold State.surveyRecords
    extract_lets u
    have hwords : ∀ m, (u.surveyWords m).2.MemHas P := fun _ => ih.surveyWords
    split
    next hp => exact ((hwords 256).of_pair hp).emit

theorem State.MemHas.clearUnit {u : Nat} {o : Owner} (h : s.MemHas P) : (s.clearUnit u o).MemHas P :=
  .ite h.modTrace h.modCluster

theorem State.MemHas.claimUnit {u mid : Nat} (h : s.MemHas P) : (s.claimUnit u mid).MemHas P := by
  unfold State.claimUnit
  dsimp only
  refine State.MemHas.answerUnit ?_
  exact .ite h.clearUnit h.setOwner

theorem State.MemHas.compareSlice {key d i : Nat} (h : s.MemHas P) : (s.compareSlice key d i).MemHas P :=
  .ite h h.emit.report

theorem State.MemHas.closeInterval {key : Nat} (h : s.MemHas P) : (s.closeInterval key).MemHas P := by
  unfold State.closeInterval
  extract_lets s1
  have h1 : s1.MemHas P := h.foldl fun _ _ hu => hu.compareSlice
  clear_value s1
  exact h1.same (by rfl)

theorem State.MemHas.noteUnit {code die term : Nat} {addr : Word} (h : s.MemHas P) :
    (s.noteUnit code die term addr).MemHas P :=
  h.report

theorem State.MemHas.cutReq {q : Req} (h : s.MemHas P) : (s.cutReq q).MemHas P :=
  (.ite h.answerReq h.answerParts : State.MemHas _ _).foldl fun _ _ hu => hu.nudge

theorem State.MemHas.cutSome {on : Req → Bool} {l : List Req} (h : s.MemHas P) : (s.cutSome on l).2.MemHas P := by
  have hchoose : ∀ u : State, State.MemHas P u → (u.choose 2).2.MemHas P := fun _ hu => hu.same (by rfl)
  induction l generalizing s with
  | nil => exact h
  | cons q r ih =>
    exact .pairIte (.pairIte (ih (hchoose _ h).cutReq) (ih (hchoose _ h))) (ih h)

theorem State.MemHas.cutReplies {on : Reply → Bool} {l : List Reply} (h : s.MemHas P) :
    (s.cutReplies on l).2.MemHas P := by
  have hchoose : ∀ u : State, State.MemHas P u → (u.choose 2).2.MemHas P := fun _ hu => hu.same (by rfl)
  induction l generalizing s with
  | nil => exact h
  | cons q r ih => exact .pairIte (ih (hchoose _ h)) (ih h)

theorem State.MemHas.takeSome {α : Type} {on : α → Bool} {l : List α} (h : s.MemHas P) :
    (State.takeSome s on l).2.2.MemHas P := by
  induction l generalizing s with
  | nil => exact h
  | cons x r ih =>
    have hone : (if on x then s.choose 2 else (1, s)).2.MemHas P := .pairIte (h.same (by rfl)) h
    unfold State.takeSome
    split
    next i u hu =>
    have h1 : u.MemHas P := hone.of_pair hu
    dsimp only
    split
    · exact ih h1
    · exact ih h1

theorem State.MemHas.cutPartials {on : Partial → Bool} (h : s.MemHas P) : (s.cutPartials on).MemHas P := by
  have htake : (State.takeSome s on s.partials).2.2.MemHas P := h.takeSome
  unfold State.cutPartials
  refine State.MemHas.foldl ?_ fun _ _ hu => hu.redBreak
  exact htake.same (by rfl)

theorem State.MemHas.cutDelivers {on : Deliver → Bool} (h : s.MemHas P) : (s.cutDelivers on).MemHas P := by
  have htake : (State.takeSome s on s.delivers).2.2.MemHas P := h.takeSome
  unfold State.cutDelivers
  refine State.MemHas.foldl ?_ fun _ _ hu => hu.answer
  exact htake.same (by rfl)

theorem State.MemHas.cutMarkers {on : Nat → Nat → Bool} (h : s.MemHas Canonical) :
    (s.cutMarkers on).MemHas Canonical := by
  unfold State.cutMarkers
  refine State.MemHas.foldl ?_ fun _ _ hu => hu.markerLost.answerMarker
  exact h.takeSome

theorem State.MemHas.cutCopy {s0 : State} {id : Nat} {e : EngOp} (h : s.MemHas Canonical)
    (hs0 : s0.MemHas Canonical) : (s.cutCopy s0 id e).MemHas Canonical := by
  unfold State.cutCopy
  dsimp only
  split
  · exact h.choose
  · split
    · split
      · refine State.MemHas.setEng ?_
        exact .ite h.choose.choose (h.choose.choose.getD h.choose.choose.copyGo)
      · exact .ite h.choose.choose (h.choose.choose.getD h.choose.choose.copyGo)
    · exact .ite h.choose.choose (h.choose.choose.getD h.choose.choose.copyGo)

theorem State.MemHas.linkCut {s0 : State} {id : Nat} (h : s.MemHas Canonical) (hs0 : s0.MemHas Canonical) :
    (s.linkCut s0 id).MemHas Canonical := by
  unfold State.linkCut
  split
  next keep u1 e1 =>
  have h1 : u1.MemHas Canonical := h.cutSome.of_pair e1
  extract_lets s1
  have hs1 : s1.MemHas Canonical := h1.same (by rfl)
  split
  next lines u2 e2 =>
  have h2 : u2.MemHas Canonical := hs1.cutSome.of_pair e2
  extract_lets s2
  have hs2 : s2.MemHas Canonical := h2.same (by rfl)
  split
  next rs u3 e3 =>
  have h3 : u3.MemHas Canonical := hs2.cutReplies.of_pair e3
  have h4 : State.MemHas Canonical { u3 with replies := rs } := h3.same (by rfl)
  extract_lets s3 s4
  have h5 : s3.MemHas Canonical := h4.cutDelivers.cutPartials
  exact h5.cutMarkers.foldl fun _ _ hu => hu.cutCopy hs0

theorem State.MemHas.dieLinkDown {s0 : State} {a b k : Nat} (h : s.MemHas Canonical) (hs0 : s0.MemHas Canonical) :
    (s.dieLinkDown s0 a b k).MemHas Canonical :=
  (h.linkCut hs0).noteUnit

theorem State.MemHas.breakRounds {l : List (Nat × RedGroup)} (h : s.MemHas P) : (s.breakRounds l).MemHas P := by
  induction l generalizing s with
  | nil => exact h
  | cons x r ih =>
    obtain ⟨k, g⟩ := x
    have h1 : (s.choose 3).2.MemHas P := h.same (by rfl)
    refine ih (.ite h1 ?_)
    dsimp only
    refine State.MemHas.same (s := (State.answerWaiters _ _ _ _ _).1) ?_ (by rfl)
    exact h1.answerWaiters

theorem State.MemHas.gulongDown {s0 : State} {port : Nat} (h : s.MemHas Canonical) (hs0 : s0.MemHas Canonical) :
    (s.gulongDown s0 port).MemHas Canonical :=
  (h.linkCut hs0).breakRounds.noteUnit

theorem State.MemHas.retrainFails {id : Nat} (h : s.MemHas Canonical) : (s.retrainFails id).MemHas Canonical :=
  .ite (.ite (((h.same (by rfl)).same (by rfl)).dieLinkDown h) (((h.same (by rfl)).same (by rfl)).gulongDown h))
    (h.same (by rfl))

theorem State.MemHas.markBinds {p : Nat → BindRec → Bool} {b : Bool} (h : s.MemHas P) : (s.markBinds p b).MemHas P :=
  (h.same (by rfl))

theorem State.MemHas.rewriteBinds {launch : Nat} (h : s.MemHas P) : (s.rewriteBinds launch).MemHas P := by
  unfold State.rewriteBinds
  dsimp only
  split
  · exact .ite h.markBinds.setHold h.markBinds
  · exact h

theorem State.MemHas.recordNote {m : FaultNote} {rest : List FaultNote} (h : s.MemHas Canonical) :
    (s.recordNote m rest).MemHas Canonical := by
  unfold State.recordNote
  dsimp only
  split
  · split
    · refine State.MemHas.killLnum ?_
      refine State.MemHas.recordFault ?_
      exact .ite (h.same (by rfl)).rewriteBinds (h.same (by rfl))
    · refine State.MemHas.recordFault ?_
      exact .ite (h.same (by rfl)).rewriteBinds (h.same (by rfl))
  · refine State.MemHas.recordFault ?_
    exact .ite (h.same (by rfl)).rewriteBinds (h.same (by rfl))

theorem State.MemHas.replyError {i : Nat} {r : Reply} (h : s.MemHas P) : (s.replyError i r).MemHas P := by
  unfold State.replyError
  dsimp only
  split
  · exact (h.same (by rfl)).pathError
  · exact h.same (by rfl)

theorem State.MemHas.wordError {key : Nat} (h : s.MemHas Canonical) : (s.wordError key).MemHas Canonical := by
  unfold State.wordError
  dsimp only
  split
  · exact h.poisonWord.countErrors.report
  · exact h.poisonWord.noteUnit

theorem State.MemHas.bindError {d : Nat} {r : BindRec} (h : s.MemHas P) : (s.bindError d r).MemHas P :=
  h.markBinds.setHold.report

theorem State.MemHas.dropEntry {e : Edge} (h : s.MemHas Canonical) : (s.dropEntry e).MemHas Canonical :=
  (((h.foldl fun _ _ hu => hu.setUntr).same (by rfl))).noteUnit

theorem State.MemHas.registerError {c n : Nat} (h : s.MemHas P) : OptHas P (s.registerError c n) :=
  .map fun _ => h.putThread

theorem State.MemHas.loseHeader {p : Packet} (h : s.MemHas P) : (s.loseHeader p).MemHas P :=
  (h.same (by rfl)).modCore

theorem State.MemHas.packetError {kind n : Nat} (h : s.MemHas Canonical) :
    OptHas Canonical (s.packetError kind n) := by
  unfold State.packetError
  dsimp only
  split
  · split
    · exact .none
    · exact .some (h.same (by rfl)).pathError
  · split
    · exact .none
    · exact .some h.loseHeader.pathError
  · split
    · exact .none
    · exact .some (h.same (by rfl)).modCore.spillWrite.pathError

theorem State.MemHas.newError {k n : Nat} (h : s.MemHas Canonical) : OptHas Canonical (s.newError k n) := by
  unfold State.newError
  dsimp only
  split
  · exact .map fun _ => h.replyError
  · exact .ite (.some h.wordError) .none
  · exact .map fun _ => h.bindError
  · split
    · exact .none
    · exact .ite (.some h.dropEntry) .none
  · exact .some h.noteUnit
  · exact .ite (.some h.countErrors) .none
  · exact h.registerError
  · exact .some h.noteUnit
  · exact .ite h.packetError .none

theorem State.MemHas.renumber {cl : Nat} {before after : Cluster} (h : s.MemHas Canonical) :
    (s.renumber cl before after).MemHas Canonical :=
  Memory.wf_moveTab ⟨_, _⟩ _ (Memory.wf_filter s.mem _ _ h)

theorem State.MemHas.reset : State.reset.MemHas Canonical :=
  State.reset_mem_wf

theorem State.MemHas.lineFills {n : Nat} (h : s.MemHas Canonical) : OptHas Canonical (s.lineFills n) := by
  unfold State.lineFills
  dsimp only
  split
  · exact .none
  · split
    · exact .none
    · exact .ite .none (.some ((h.same (by rfl)).foldl fun _ _ hu => hu.performReq))

theorem State.MemHas.takeEvent (h : s.MemHas P) : s.takeEvent.2.MemHas P := by
  unfold State.takeEvent
  split
  · exact h.same (by rfl)
  · exact h.same (by rfl)

end Sys2Proof.Machine
end

section
/-! Memory through the instructions (O49). -/

namespace Sys2Proof.Machine
variable {s : State}

theorem State.MemHas.issue {g : Guard} {body : M Flow} (h : s.MemHas Canonical) (hb : Keeps Canonical body) :
    OutHas Canonical (Machine.issue g body s) := by
  rintro t ⟨⟩
  exact .ite (h.settle (hb s h)) (h.settle (.ok h))

theorem execNop_canonical {o : OpG} (h : s.MemHas Canonical) : OutHas Canonical (execNop o s) :=
  h.issue .pure

theorem execBr_canonical {o : OpBr} (h : s.MemHas Canonical) : OutHas Canonical (execBr o s) :=
  h.issue (.bind keeps_getCur fun _ => keeps_transfer)

theorem execBrx_canonical {o : OpA} (h : s.MemHas Canonical) : OutHas Canonical (execBrx o s) :=
  h.issue (.bind keeps_readS fun _ => .bind keeps_getCur fun _ => .bind keeps_orTrap fun _ =>
    .bind keeps_orTrap fun _ => keeps_transfer)

theorem execCall_canonical {o : OpCall} (h : s.MemHas Canonical) : OutHas Canonical (execCall o s) :=
  h.issue (.bind keeps_checkDst fun _ => .bind keeps_getCur fun _ => keeps_callTo)

theorem execCallx_canonical {o : OpDA} (h : s.MemHas Canonical) : OutHas Canonical (execCallx o s) :=
  h.issue (.bind keeps_checkDst fun _ => .bind keeps_readS fun _ => keeps_callTo)

theorem execRet_canonical {o : OpA} (h : s.MemHas Canonical) : OutHas Canonical (execRet o s) :=
  h.issue (.bind keeps_readS fun _ => keeps_transfer)

theorem execExit_canonical {o : OpG} (h : s.MemHas Canonical) : OutHas Canonical (execExit o s) :=
  h.issue keeps_endMember

theorem execBreakM_canonical {o : OpG} (h : s.MemHas Canonical) : OutHas Canonical (execBreakM o s) :=
  h.issue keeps_endMember

theorem execFset_canonical {o : OpFset} (h : s.MemHas Canonical) : OutHas Canonical (execFset o s) :=
  h.issue (.bind keeps_openRecord fun _ => .bind keeps_fsetValue fun _ => .bind keeps_updCur fun _ => .pure)

theorem execFputg_canonical {o : OpFput} (h : s.MemHas Canonical) : OutHas Canonical (execFputg o s) :=
  h.issue (.bind keeps_openRecord fun _ => .bind keeps_operandB fun _ => .bind keeps_updCur fun _ => .pure)

theorem execFputs_canonical {o : OpFput} (h : s.MemHas Canonical) : OutHas Canonical (execFputs o s) :=
  h.issue (.bind keeps_openRecord fun _ => .bind keeps_operandB fun _ => .bind keeps_updCur fun _ => .pure)

theorem execCreate_canonical {o : OpD} (h : s.MemHas Canonical) : OutHas Canonical (execCreate o s) := by
  unfold execCreate
  refine h.issue (.get fun s0 hs0 => .bind keeps_checkDst fun _ => .bind keeps_createChecks fun x =>
    .get fun t ht => ?_)
  obtain ⟨l, f⟩ := x
  extract_lets now make records packet
  have hmake : ∀ u, Keeps Canonical (make u) := fun _ => by
    have hrec : ((t.pickRecord f.launch).2.takeGen f.launch (t.pickRecord f.launch).1).2.MemHas Canonical :=
      ht.pickRecord.takeGen
    refine .bind (.set (hrec.same (by rfl))) fun _ => .bind (keeps_trapIn hs0 keeps_writeD) fun fl => ?_
    split
    · exact keeps_holdFor
    · exact .ite (.bind keeps_updCur fun _ => .bind (.modS fun _ hu => hu.adopt) fun _ => .pure)
        (.bind (.modS fun _ hu => hu.familyMade) fun _ => .pure)
  have hrecords : ∀ u, Keeps Canonical (records u) := fun _ => .guard (fun _ hu => .trap hu) (hmake ())
  have hpacket : ∀ u, Keeps Canonical (packet u) := fun _ => .guard keeps_trapW (hrecords ())
  exact .ite (.guard (fun _ hu => .trap hu) (hpacket ())) (hrecords ())

theorem execSync_canonical {o : OpDA} (h : s.MemHas Canonical) : OutHas Canonical (execSync o s) :=
  h.issue (.get fun _ hs => .bind keeps_checkDst fun _ => .bind keeps_readS fun _ => .bind keeps_familyAt fun _ =>
    keeps_waitFamily hs keeps_writeD)

theorem execFgets_canonical {o : OpFgets} (h : s.MemHas Canonical) : OutHas Canonical (execFgets o s) :=
  h.issue (.get fun _ hs => .bind keeps_checkDst fun _ => .bind keeps_readS fun _ => .bind keeps_familyAt fun _ =>
    .bind keeps_orTrap fun _ => keeps_waitFamily hs keeps_writeD)

theorem execKill_canonical {o : OpA} (h : s.MemHas Canonical) : OutHas Canonical (execKill o s) :=
  h.issue (.bind keeps_readS fun _ => .bind keeps_familyAt fun _ => .bind (.modS fun _ hu => hu.killFam) fun _ =>
    .pure)

theorem execFstat_canonical {o : OpFstat} (h : s.MemHas Canonical) : OutHas Canonical (execFstat o s) :=
  h.issue (.bind keeps_checkDst fun _ => .bind keeps_readS fun _ => .bind keeps_familyAt fun _ => keeps_writeD)

theorem execTrap_canonical {o : OpAC} (h : s.MemHas Canonical) : OutHas Canonical (execTrap o s) :=
  h.issue (.bind keeps_operandZ fun _ => .bind keeps_readS fun _ => keeps_trapW)

theorem execBkpt_canonical {o : OpAC} (h : s.MemHas Canonical) : OutHas Canonical (execBkpt o s) :=
  h.issue (.bind keeps_operandZ fun _ => .bind keeps_readS fun _ => .bind (.modS fun _ hu => hu.debugCause) fun _ =>
    .pure)

theorem execEret_canonical {o : OpG} (h : s.MemHas Canonical) : OutHas Canonical (execEret o s) := by
  unfold execEret
  refine h.issue ?_
  refine .bind keeps_getCur fun x => ?_
  split
  · exact keeps_trapW
  · exact .bind keeps_orTrap fun _ => .bind keeps_updCur fun _ => .bind (.modS fun _ hu => hu.renegotiate) fun _ =>
      keeps_transfer

theorem execMfc_canonical {o : OpMfc} (h : s.MemHas Canonical) : OutHas Canonical (execMfc o s) :=
  h.issue (.bind keeps_checkDst fun _ => .get fun _ _ => keeps_writeD)

theorem execMtc_canonical {o : OpMtc} (h : s.MemHas Canonical) : OutHas Canonical (execMtc o s) :=
  h.issue (.bind keeps_readS fun _ => .bind keeps_writeCreg fun _ => .pure)

theorem execYieldT_canonical {o : OpG} (h : s.MemHas Canonical) : OutHas Canonical (execYieldT o s) :=
  h.issue (.bind (.modS fun _ hu => hu.updCur) fun _ => .pure)

theorem execChkpt_canonical {o : OpC} (h : s.MemHas Canonical) : OutHas Canonical (execChkpt o s) :=
  h.issue (.bind keeps_operandZ fun _ => .get fun _ _ => .guard keeps_waitR (.bind keeps_closeAt fun _ =>
    keeps_afterPhases (.bind keeps_acquire fun _ => .bind (.modS fun _ hu => hu.checkpoint) fun _ => .pure)))

theorem alu_canonical {o : OpAlu} {f : Word → Word → Word} (h : s.MemHas Canonical) : OutHas Canonical (alu o f s) :=
  h.issue (.bind keeps_checkDst fun _ => .bind keeps_readS fun _ => .bind keeps_operandB fun _ => keeps_writeD)

theorem execAdd_canonical {o : OpAlu} (h : s.MemHas Canonical) : OutHas Canonical (execAdd o s) :=
  alu_canonical h

theorem execSub_canonical {o : OpAlu} (h : s.MemHas Canonical) : OutHas Canonical (execSub o s) :=
  alu_canonical h

theorem execMul_canonical {o : OpAlu} (h : s.MemHas Canonical) : OutHas Canonical (execMul o s) :=
  alu_canonical h

theorem execMulhs_canonical {o : OpAlu} (h : s.MemHas Canonical) : OutHas Canonical (execMulhs o s) :=
  alu_canonical h

theorem execMulhu_canonical {o : OpAlu} (h : s.MemHas Canonical) : OutHas Canonical (execMulhu o s) :=
  alu_canonical h

theorem execMadd_canonical {o : OpAlu3} (h : s.MemHas Canonical) : OutHas Canonical (execMadd o s) :=
  h.issue (.bind keeps_checkDst fun _ => .bind keeps_readS fun _ => .bind keeps_operandB fun _ =>
    .bind keeps_readS fun _ => keeps_writeD)

theorem aluFlags_canonical {g : Guard} {d : Dst} {a : SReg} {b : SrcB} {f : Word → Word → Word × Word}
    (h : s.MemHas Canonical) : OutHas Canonical (aluFlags g d a b f s) :=
  h.issue (.bind keeps_checkDst fun _ => .bind keeps_readS fun _ => .bind keeps_operandB fun _ => keeps_writeRes)

theorem execDivs_canonical {o : OpAlu} (h : s.MemHas Canonical) : OutHas Canonical (execDivs o s) :=
  aluFlags_canonical h

theorem execDivu_canonical {o : OpAlu} (h : s.MemHas Canonical) : OutHas Canonical (execDivu o s) :=
  aluFlags_canonical h

theorem execRems_canonical {o : OpAlu} (h : s.MemHas Canonical) : OutHas Canonical (execRems o s) :=
  aluFlags_canonical h

theorem execRemu_canonical {o : OpAlu} (h : s.MemHas Canonical) : OutHas Canonical (execRemu o s) :=
  aluFlags_canonical h

theorem execAnd_canonical {o : OpAlu} (h : s.MemHas Canonical) : OutHas Canonical (execAnd o s) :=
  alu_canonical h

theorem execOr_canonical {o : OpAlu} (h : s.MemHas Canonical) : OutHas Canonical (execOr o s) :=
  alu_canonical h

theorem execXor_canonical {o : OpAlu} (h : s.MemHas Canonical) : OutHas Canonical (execXor o s) :=
  alu_canonical h

theorem execAndn_canonical {o : OpAlu} (h : s.MemHas Canonical) : OutHas Canonical (execAndn o s) :=
  alu_canonical h

theorem execShl_canonical {o : OpAlu} (h : s.MemHas Canonical) : OutHas Canonical (execShl o s) :=
  alu_canonical h

theorem execShr_canonical {o : OpAlu} (h : s.MemHas Canonical) : OutHas Canonical (execShr o s) :=
  alu_canonical h

theorem execSar_canonical {o : OpAlu} (h : s.MemHas Canonical) : OutHas Canonical (execSar o s) :=
  alu_canonical h

theorem execRol_canonical {o : OpAlu} (h : s.MemHas Canonical) : OutHas Canonical (execRol o s) :=
  alu_canonical h

theorem execMin_canonical {o : OpAlu} (h : s.MemHas Canonical) : OutHas Canonical (execMin o s) :=
  alu_canonical h

theorem execMax_canonical {o : OpAlu} (h : s.MemHas Canonical) : OutHas Canonical (execMax o s) :=
  alu_canonical h

theorem execMinu_canonical {o : OpAlu} (h : s.MemHas Canonical) : OutHas Canonical (execMinu o s) :=
  alu_canonical h

theorem execMaxu_canonical {o : OpAlu} (h : s.MemHas Canonical) : OutHas Canonical (execMaxu o s) :=
  alu_canonical h

theorem execAdds_canonical {o : OpAluU} (h : s.MemHas Canonical) : OutHas Canonical (execAdds o s) :=
  aluFlags_canonical h

theorem execSubs_canonical {o : OpAluU} (h : s.MemHas Canonical) : OutHas Canonical (execSubs o s) :=
  aluFlags_canonical h

theorem execAbs_canonical {o : OpDA} (h : s.MemHas Canonical) : OutHas Canonical (execAbs o s) :=
  h.issue (.bind keeps_checkDst fun _ => .bind keeps_readS fun _ => keeps_writeRes)

theorem alu1_canonical {g : Guard} {d : Dst} {a : SReg} {f : Word → Word} (h : s.MemHas Canonical) :
    OutHas Canonical (alu1 g d a f s) :=
  h.issue (.bind keeps_checkDst fun _ => .bind keeps_readS fun _ => keeps_writeD)

theorem execClz_canonical {o : OpDA} (h : s.MemHas Canonical) : OutHas Canonical (execClz o s) :=
  alu1_canonical h

theorem execCtz_canonical {o : OpDA} (h : s.MemHas Canonical) : OutHas Canonical (execCtz o s) :=
  alu1_canonical h

theorem execPopc_canonical {o : OpDA} (h : s.MemHas Canonical) : OutHas Canonical (execPopc o s) :=
  alu1_canonical h

theorem execBrev_canonical {o : OpDA} (h : s.MemHas Canonical) : OutHas Canonical (execBrev o s) :=
  alu1_canonical h

theorem execBswap_canonical {o : OpDA} (h : s.MemHas Canonical) : OutHas Canonical (execBswap o s) :=
  alu1_canonical h

theorem execBfx_canonical {o : OpBfx} (h : s.MemHas Canonical) : OutHas Canonical (execBfx o s) :=
  alu1_canonical h

theorem execBfi_canonical {o : OpBfi} (h : s.MemHas Canonical) : OutHas Canonical (execBfi o s) :=
  h.issue (.bind keeps_checkDst fun _ => .bind keeps_readS fun _ => .bind keeps_readS fun _ => keeps_writeD)

theorem execSext_canonical {o : OpExt} (h : s.MemHas Canonical) : OutHas Canonical (execSext o s) :=
  alu1_canonical h

theorem execZext_canonical {o : OpExt} (h : s.MemHas Canonical) : OutHas Canonical (execZext o s) :=
  alu1_canonical h

theorem execMov_canonical {o : OpMov} (h : s.MemHas Canonical) : OutHas Canonical (execMov o s) :=
  h.issue (.bind keeps_checkDst fun _ => .bind keeps_operandB fun _ => keeps_writeD)

theorem execMovHi_canonical {o : OpMovHi} (h : s.MemHas Canonical) : OutHas Canonical (execMovHi o s) :=
  alu1_canonical h

theorem execSel_canonical {o : OpSel} (h : s.MemHas Canonical) : OutHas Canonical (execSel o s) :=
  h.issue (.bind keeps_checkDst fun _ => .bind keeps_getCur fun _ => .bind keeps_readS fun _ =>
    .bind keeps_operandB fun _ => keeps_writeD)

theorem execLea_canonical {o : OpLea} (h : s.MemHas Canonical) : OutHas Canonical (execLea o s) :=
  h.issue (.bind keeps_checkDst fun _ => .bind keeps_readS fun _ => .bind keeps_operandB fun _ => keeps_writeD)

theorem execCmp_canonical {o : OpCmp} (h : s.MemHas Canonical) : OutHas Canonical (execCmp o s) :=
  h.issue (.bind keeps_getCur fun _ => .bind keeps_readS fun _ => .bind keeps_operandB fun _ =>
    .bind keeps_writeP fun _ => .pure)

theorem execPlog_canonical {o : OpPlog} (h : s.MemHas Canonical) : OutHas Canonical (execPlog o s) :=
  h.issue (.bind keeps_getCur fun _ => .bind keeps_writeP fun _ => .pure)

theorem fpArith_canonical {o : OpFp2} {f : RCtx → FVal → FVal → FVal × Word} (h : s.MemHas Canonical) :
    OutHas Canonical (fpArith o f s) :=
  h.issue (.bind keeps_checkDst fun _ => .bind keeps_readS fun _ => .bind keeps_fpOperand fun _ => keeps_writeConv)

theorem execFadd_canonical {o : OpFp2} (h : s.MemHas Canonical) : OutHas Canonical (execFadd o s) :=
  fpArith_canonical h

theorem execFsub_canonical {o : OpFp2} (h : s.MemHas Canonical) : OutHas Canonical (execFsub o s) :=
  fpArith_canonical h

theorem execFmul_canonical {o : OpFp2} (h : s.MemHas Canonical) : OutHas Canonical (execFmul o s) :=
  fpArith_canonical h

theorem fpMinMax_canonical {o : OpFpMin} {max : Bool} (h : s.MemHas Canonical) :
    OutHas Canonical (fpMinMax o max s) :=
  h.issue (.bind keeps_checkDst fun _ => .bind keeps_readS fun _ => .bind keeps_fpOperand fun _ => keeps_writeRes)

theorem execFmin_canonical {o : OpFpMin} (h : s.MemHas Canonical) : OutHas Canonical (execFmin o s) :=
  fpMinMax_canonical h

theorem execFmax_canonical {o : OpFpMin} (h : s.MemHas Canonical) : OutHas Canonical (execFmax o s) :=
  fpMinMax_canonical h

theorem execFfma_canonical {o : OpFp3} (h : s.MemHas Canonical) : OutHas Canonical (execFfma o s) :=
  h.issue (.bind keeps_checkDst fun _ => .bind keeps_readS fun _ => .bind keeps_fpOperand fun _ =>
    .bind keeps_readS fun _ => keeps_writeConv)

theorem execFcmp_canonical {o : OpFcmp} (h : s.MemHas Canonical) : OutHas Canonical (execFcmp o s) :=
  h.issue (.bind keeps_getCur fun _ => .bind keeps_readS fun _ => .bind keeps_fpOperand fun _ =>
    .bind keeps_raiseFlags fun _ => .bind keeps_writeP fun _ => .pure)

theorem execFcvt_canonical {o : OpFcvt} (h : s.MemHas Canonical) : OutHas Canonical (execFcvt o s) :=
  h.issue (.bind keeps_checkDst fun _ => .bind keeps_readS fun _ => keeps_writeConv)

theorem execIcvt_canonical {o : OpIcvt} (h : s.MemHas Canonical) : OutHas Canonical (execIcvt o s) :=
  h.issue (.bind keeps_checkDst fun _ => .bind keeps_readS fun _ => keeps_writeConv)

theorem execLd_canonical {o : OpLd} (h : s.MemHas Canonical) : OutHas Canonical (execLd o s) :=
  h.issue (.bind keeps_checkDst fun _ => .bind keeps_memAddr fun _ => keeps_send)

theorem execLdp_canonical {o : OpLdp} (h : s.MemHas Canonical) : OutHas Canonical (execLdp o s) :=
  h.issue (.bind keeps_checkDst fun _ => .bind keeps_memAddr fun _ => keeps_send)

theorem execSt_canonical {o : OpSt} (h : s.MemHas Canonical) : OutHas Canonical (execSt o s) :=
  h.issue (.bind keeps_memAddr fun _ => .bind keeps_readS fun _ => keeps_send)

theorem execStn_canonical {o : OpStn} (h : s.MemHas Canonical) : OutHas Canonical (execStn o s) :=
  h.issue (.bind keeps_memAddr fun _ => .bind keeps_readS fun _ => keeps_send)

theorem execTake_canonical {o : OpTake} (h : s.MemHas Canonical) : OutHas Canonical (execTake o s) :=
  h.issue (.bind keeps_checkDst fun _ => .bind keeps_memAddr fun _ => keeps_send)

theorem execLdf_canonical {o : OpTake} (h : s.MemHas Canonical) : OutHas Canonical (execLdf o s) :=
  h.issue (.bind keeps_checkDst fun _ => .bind keeps_memAddr fun _ => keeps_send)

theorem putWith_canonical {o : OpPut} {f : Word → HomeOp} (h : s.MemHas Canonical) :
    OutHas Canonical (putWith o f s) :=
  h.issue (.bind keeps_memAddr fun _ => .bind keeps_readS fun _ => keeps_send)

theorem execPut_canonical {o : OpPut} (h : s.MemHas Canonical) : OutHas Canonical (execPut o s) :=
  putWith_canonical h

theorem execPutWait_canonical {o : OpPut} (h : s.MemHas Canonical) : OutHas Canonical (execPutWait o s) :=
  putWith_canonical h

theorem execTagr_canonical {o : OpTagr} (h : s.MemHas Canonical) : OutHas Canonical (execTagr o s) :=
  h.issue (.bind keeps_checkDst fun _ => .bind keeps_memAddr fun _ => keeps_send)

theorem execTagw_canonical {o : OpTagw} (h : s.MemHas Canonical) : OutHas Canonical (execTagw o s) :=
  h.issue (.bind keeps_memAddr fun _ => .bind keeps_readS fun _ => keeps_send)

theorem execFence_canonical {o : OpFence} (h : s.MemHas Canonical) : OutHas Canonical (execFence o s) :=
  h.issue (.guard keeps_enginesDone (.bind keeps_closeIf fun _ => keeps_afterPhases keeps_fenceNow))

theorem atomic_canonical {g : Guard} {d : Dst} {m : MemOp} {c : SReg} {z : Size} {ord : Ord} {sc : Scope} {opc : Nat}
    {f : AtomFn} (h : s.MemHas Canonical) : OutHas Canonical (atomic g d m c z ord sc opc f s) :=
  h.issue (.bind keeps_checkDst fun _ => .bind keeps_memAddr fun _ => .bind keeps_readS fun _ => keeps_send)

theorem execAadd_canonical {o : OpAtom} (h : s.MemHas Canonical) : OutHas Canonical (execAadd o s) :=
  atomic_canonical h

theorem execAand_canonical {o : OpAtom} (h : s.MemHas Canonical) : OutHas Canonical (execAand o s) :=
  atomic_canonical h

theorem execAor_canonical {o : OpAtom} (h : s.MemHas Canonical) : OutHas Canonical (execAor o s) :=
  atomic_canonical h

theorem execAxor_canonical {o : OpAtom} (h : s.MemHas Canonical) : OutHas Canonical (execAxor o s) :=
  atomic_canonical h

theorem execAmin_canonical {o : OpAtom} (h : s.MemHas Canonical) : OutHas Canonical (execAmin o s) :=
  atomic_canonical h

theorem execAmax_canonical {o : OpAtom} (h : s.MemHas Canonical) : OutHas Canonical (execAmax o s) :=
  atomic_canonical h

theorem execAminu_canonical {o : OpAtom} (h : s.MemHas Canonical) : OutHas Canonical (execAminu o s) :=
  atomic_canonical h

theorem execAmaxu_canonical {o : OpAtom} (h : s.MemHas Canonical) : OutHas Canonical (execAmaxu o s) :=
  atomic_canonical h

theorem execAxchg_canonical {o : OpAtom} (h : s.MemHas Canonical) : OutHas Canonical (execAxchg o s) :=
  atomic_canonical h

theorem execAfadd_canonical {o : OpAfadd} (h : s.MemHas Canonical) : OutHas Canonical (execAfadd o s) :=
  atomic_canonical h

theorem execCas_canonical {o : OpCas} (h : s.MemHas Canonical) : OutHas Canonical (execCas o s) :=
  h.issue (.bind keeps_memAddr fun _ => .bind keeps_readS fun _ => .bind keeps_readS fun _ => keeps_send)

theorem execPref_canonical {o : OpM} (h : s.MemHas Canonical) : OutHas Canonical (execPref o s) :=
  h.issue .pure

theorem execMona_canonical {o : OpM} (h : s.MemHas Canonical) : OutHas Canonical (execMona o s) := by
  unfold execMona
  dsimp only
  refine h.issue ?_
  refine .bind keeps_memAddr fun x => ?_
  refine .bind keeps_locate fun x => ?_
  refine .bind keeps_getCur fun x => ?_
  split
  · exact .pure
  · split
    · exact keeps_trapW
    · exact .bind keeps_boardCheck fun _ => .bind keeps_updCur fun _ => .get fun _ _ =>
        .ite keeps_ownAccess (.bind keeps_launchReq fun _ => keeps_holdFor)

theorem execMond_canonical {o : OpM} (h : s.MemHas Canonical) : OutHas Canonical (execMond o s) := by
  unfold execMond
  refine h.issue ?_
  refine .bind keeps_memAddr fun x => ?_
  refine .bind ?_ fun _ => .pure
  refine .modS fun u hu => ?_
  split
  · exact hu.disarm
  · exact hu

theorem execMondAll_canonical {o : OpG} (h : s.MemHas Canonical) : OutHas Canonical (execMondAll o s) :=
  h.issue (.bind (.modS fun _ hu => hu.foldl fun _ _ hu => hu.disarm) fun _ => .pure)

theorem execWaitm_canonical {o : OpDC} (h : s.MemHas Canonical) : OutHas Canonical (execWaitm o s) :=
  h.issue (.bind keeps_checkDst fun _ => .bind keeps_operandZ fun _ => .get fun _ _ =>
    .ite keeps_writeD (.ite (.bind keeps_updCur fun _ => keeps_writeD) keeps_holdFor))

theorem execTset_canonical {o : OpTset} (h : s.MemHas Canonical) : OutHas Canonical (execTset o s) := by
  unfold execTset
  dsimp only
  refine h.issue ?_
  refine .bind keeps_checkDst fun x => ?_
  refine .bind keeps_readS fun x => ?_
  refine .bind keeps_operandZ fun x => ?_
  refine .get fun s hs => ?_
  split
  · exact keeps_writeD
  · exact .bind (.modS fun _ hu => hu.modCore) fun _ => keeps_writeD

theorem tagLook_canonical {o : OpDA} {clear : Bool} (h : s.MemHas Canonical) :
    OutHas Canonical (tagLook o clear s) := by
  unfold tagLook
  dsimp only
  refine h.issue ?_
  refine .bind keeps_checkDst fun x => ?_
  refine .bind keeps_readS fun x => ?_
  refine .get fun s hs => ?_
  split
  · exact keeps_writeD
  · exact .guard (.modS fun _ hu => hu.modCore) keeps_writeD

theorem execTlook_canonical {o : OpDA} (h : s.MemHas Canonical) : OutHas Canonical (execTlook o s) :=
  tagLook_canonical h

theorem execTclr_canonical {o : OpDA} (h : s.MemHas Canonical) : OutHas Canonical (execTclr o s) :=
  tagLook_canonical h

theorem execBari_canonical {o : OpBari} (h : s.MemHas Canonical) : OutHas Canonical (execBari o s) :=
  h.issue (.bind keeps_readS fun _ => .bind keeps_orTrap fun _ => keeps_object)

theorem objDMS_canonical {o : OpDMS} {opc : Nat} {rel : Bool} {op : ObjOp} (h : s.MemHas Canonical) :
    OutHas Canonical (objDMS o opc rel op s) :=
  h.issue keeps_object

theorem execBarr_canonical {o : OpDMS} (h : s.MemHas Canonical) : OutHas Canonical (execBarr o s) :=
  objDMS_canonical h

theorem execBarw_canonical {o : OpDMS} (h : s.MemHas Canonical) : OutHas Canonical (execBarw o s) :=
  objDMS_canonical h

theorem execBwait_canonical {o : OpDMS} (h : s.MemHas Canonical) : OutHas Canonical (execBwait o s) :=
  objDMS_canonical h

theorem execBdrop_canonical {o : OpDMS} (h : s.MemHas Canonical) : OutHas Canonical (execBdrop o s) :=
  objDMS_canonical h

theorem objMS_canonical {o : OpMS} {opc : Nat} {rel : Bool} {op : ObjOp} (h : s.MemHas Canonical) :
    OutHas Canonical (objMS o opc rel op s) :=
  h.issue keeps_object

theorem execBpois_canonical {o : OpMS} (h : s.MemHas Canonical) : OutHas Canonical (execBpois o s) :=
  objMS_canonical h

theorem execLki_canonical {o : OpMS} (h : s.MemHas Canonical) : OutHas Canonical (execLki o s) :=
  objMS_canonical h

theorem execLkacq_canonical {o : OpDMS} (h : s.MemHas Canonical) : OutHas Canonical (execLkacq o s) :=
  objDMS_canonical h

theorem execLktry_canonical {o : OpDMS} (h : s.MemHas Canonical) : OutHas Canonical (execLktry o s) :=
  objDMS_canonical h

theorem execLkrel_canonical {o : OpMS} (h : s.MemHas Canonical) : OutHas Canonical (execLkrel o s) :=
  objMS_canonical h

theorem execQi_canonical {o : OpMCS} (h : s.MemHas Canonical) : OutHas Canonical (execQi o s) :=
  h.issue (.bind keeps_readS fun _ => keeps_object)

theorem execQpush_canonical {o : OpMCS} (h : s.MemHas Canonical) : OutHas Canonical (execQpush o s) :=
  h.issue (.bind keeps_readS fun _ => keeps_object)

theorem execQpop_canonical {o : OpDMS} (h : s.MemHas Canonical) : OutHas Canonical (execQpop o s) :=
  objDMS_canonical h

theorem execWreg_canonical {o : OpMS} (h : s.MemHas Canonical) : OutHas Canonical (execWreg o s) :=
  objMS_canonical h

theorem execWhold_canonical {o : OpMS} (h : s.MemHas Canonical) : OutHas Canonical (execWhold o s) :=
  objMS_canonical h

theorem execWdrop_canonical {o : OpMS} (h : s.MemHas Canonical) : OutHas Canonical (execWdrop o s) :=
  objMS_canonical h

theorem wwaitWith_canonical {o : OpDMCS} {nb : Bool} (h : s.MemHas Canonical) : OutHas Canonical (wwaitWith o nb s) :=
  h.issue (.bind keeps_checkDst fun _ => .bind keeps_readS fun _ => keeps_object)

theorem execWwait_canonical {o : OpDMCS} (h : s.MemHas Canonical) : OutHas Canonical (execWwait o s) :=
  wwaitWith_canonical h

theorem execWwaitNb_canonical {o : OpDMCS} (h : s.MemHas Canonical) : OutHas Canonical (execWwaitNb o s) :=
  wwaitWith_canonical h

theorem execWunreg_canonical {o : OpMS} (h : s.MemHas Canonical) : OutHas Canonical (execWunreg o s) :=
  objMS_canonical h

theorem execWqry_canonical {o : OpWqry} (h : s.MemHas Canonical) : OutHas Canonical (execWqry o s) :=
  h.issue (.ite keeps_object (.bind keeps_checkDst fun _ => .bind keeps_readS fun _ => .bind (.modS fun _ hu =>
    hu.answer) fun _ => keeps_holdFor))

theorem execOfree_canonical {o : OpMS} (h : s.MemHas Canonical) : OutHas Canonical (execOfree o s) :=
  objMS_canonical h

theorem copyIssue_canonical {o : OpDM} {op : Nat} (h : s.MemHas Canonical) : OutHas Canonical (copyIssue o op s) := by
  unfold copyIssue
  refine h.issue ?_
  refine .bind keeps_checkDst fun x => ?_
  refine .bind keeps_memAddr fun x => ?_
  refine .bind keeps_orTrap fun x => ?_
  refine .bind keeps_ownRecord fun x => ?_
  split
  · exact keeps_copyWith
  · exact keeps_readRecord

theorem execCopy_canonical {o : OpDM} (h : s.MemHas Canonical) : OutHas Canonical (execCopy o s) :=
  copyIssue_canonical h

theorem execCopyt_canonical {o : OpDM} (h : s.MemHas Canonical) : OutHas Canonical (execCopyt o s) :=
  copyIssue_canonical h

theorem execGath_canonical {o : OpDM} (h : s.MemHas Canonical) : OutHas Canonical (execGath o s) :=
  copyIssue_canonical h

theorem execPack_canonical {o : OpDM} (h : s.MemHas Canonical) : OutHas Canonical (execPack o s) :=
  copyIssue_canonical h

theorem execUnpack_canonical {o : OpDM} (h : s.MemHas Canonical) : OutHas Canonical (execUnpack o s) :=
  copyIssue_canonical h

theorem execCcan_canonical {o : OpA} (h : s.MemHas Canonical) : OutHas Canonical (execCcan o s) := by
  unfold execCcan
  refine h.issue ?_
  refine .bind keeps_readS fun x => ?_
  refine .bind keeps_copySlot fun x => ?_
  split
  · exact .pure
  · refine .bind ?_ fun _ => .pure
    refine .modS fun u hu => ?_
    split
    · exact hu.cancelCopy
    · exact hu

theorem execCstat_canonical {o : OpDA} (h : s.MemHas Canonical) : OutHas Canonical (execCstat o s) := by
  unfold execCstat
  refine h.issue ?_
  refine .bind keeps_checkDst fun x => ?_
  refine .bind keeps_readS fun x => ?_
  refine .bind keeps_copySlot fun x => ?_
  split
  · exact keeps_writeD
  · exact .get fun _ _ => .ite keeps_writeD keeps_writeD

theorem execEbin_canonical {o : OpDM} (h : s.MemHas Canonical) : OutHas Canonical (execEbin o s) := by
  unfold execEbin
  refine h.issue ?_
  refine .bind keeps_checkDst fun x => ?_
  refine .bind keeps_memAddr fun x => ?_
  refine .bind keeps_orTrap fun x => ?_
  refine .bind keeps_ownRecord fun x => ?_
  split
  · exact keeps_binWith
  · exact keeps_readRecord

theorem execEapp_canonical {o : OpEapp} (h : s.MemHas Canonical) : OutHas Canonical (execEapp o s) :=
  h.issue (.bind keeps_readS fun _ => .bind keeps_operandZ fun _ => .bind keeps_readS fun _ =>
    .bind keeps_channelFree fun _ => .get fun _ _ => .bind keeps_postReq fun _ => .pure)

theorem execErepl_canonical {o : OpErepl} (h : s.MemHas Canonical) : OutHas Canonical (execErepl o s) :=
  h.issue (.bind keeps_checkDst fun _ => .bind keeps_readS fun _ => .get fun _ _ => .bind keeps_orTrap fun _ =>
    .bind keeps_closeAt fun _ => keeps_afterPhases keeps_replayNow)

theorem execVclaim_canonical {o : OpDC} (h : s.MemHas Canonical) : OutHas Canonical (execVclaim o s) :=
  h.issue (.bind keeps_checkDst fun _ => .bind keeps_operandZ fun _ => .bind keeps_orTrap fun _ =>
    .bind keeps_grantLanes fun _ => .bind keeps_takeGrant fun _ => keeps_writeD)

theorem execVrel_canonical {o : OpG} (h : s.MemHas Canonical) : OutHas Canonical (execVrel o s) :=
  h.issue (.bind (.modS fun _ hu => hu.releaseClaim) fun _ => .pure)

theorem execVyield_canonical {o : OpD} (h : s.MemHas Canonical) : OutHas Canonical (execVyield o s) :=
  h.issue (.bind keeps_checkDst fun _ => .bind (.modS fun _ hu => hu.renegotiate) fun _ =>
    .bind keeps_getCur fun _ => keeps_writeD)

theorem execVld_canonical {o : OpVLd} (h : s.MemHas Canonical) : OutHas Canonical (execVld o s) :=
  h.issue (.bind keeps_getClaim fun _ => .bind keeps_vecAddr fun _ => keeps_vecLoad)

theorem execVst_canonical {o : OpVSt} (h : s.MemHas Canonical) : OutHas Canonical (execVst o s) :=
  h.issue (.bind keeps_getClaim fun _ => .bind keeps_vecAddr fun _ => keeps_vecStore)

theorem execVlds_canonical {o : OpVLds} (h : s.MemHas Canonical) : OutHas Canonical (execVlds o s) :=
  h.issue (.bind keeps_getClaim fun _ => .bind keeps_vecAddr fun _ => .bind keeps_readS fun _ => keeps_vecLoad)

theorem execVsts_canonical {o : OpVSts} (h : s.MemHas Canonical) : OutHas Canonical (execVsts o s) :=
  h.issue (.bind keeps_getClaim fun _ => .bind keeps_vecAddr fun _ => .bind keeps_readS fun _ => keeps_vecStore)

theorem execVgath_canonical {o : OpVGath} (h : s.MemHas Canonical) : OutHas Canonical (execVgath o s) :=
  h.issue (.bind keeps_getClaim fun _ => .bind keeps_readS fun _ => keeps_vecLoad)

theorem execVscat_canonical {o : OpVScat} (h : s.MemHas Canonical) : OutHas Canonical (execVscat o s) :=
  h.issue (.bind keeps_getClaim fun _ => .bind keeps_readS fun _ => keeps_vecStore)

theorem vecFill_canonical {o : OpVFill} {step : Bool} (h : s.MemHas Canonical) :
    OutHas Canonical (vecFill o step s) :=
  h.issue (.bind keeps_getClaim fun _ => .bind keeps_readVal fun _ => .bind keeps_setV fun _ => .pure)

theorem execVbcast_canonical {o : OpVFill} (h : s.MemHas Canonical) : OutHas Canonical (execVbcast o s) :=
  vecFill_canonical h

theorem execViota_canonical {o : OpVFill} (h : s.MemHas Canonical) : OutHas Canonical (execViota o s) :=
  vecFill_canonical h

theorem execVext_canonical {o : OpVExt} (h : s.MemHas Canonical) : OutHas Canonical (execVext o s) :=
  h.issue (.bind keeps_checkDst fun _ => .bind keeps_getClaim fun _ => .bind keeps_operandZ fun _ =>
    .bind keeps_orTrap fun _ => keeps_writeD)

theorem execVins_canonical {o : OpVIns} (h : s.MemHas Canonical) : OutHas Canonical (execVins o s) :=
  h.issue (.bind keeps_getClaim fun _ => .bind keeps_readS fun _ => .bind keeps_operandZ fun _ =>
    .bind keeps_orTrap fun _ => .bind keeps_setV fun _ => .pure)

theorem vecOp_canonical {g : Guard} {vd : VNo} {w : Nat} {m : Option VMask} {conv : Bool}
    {f : State → Claim → Nat → Rounded} (h : s.MemHas Canonical) : OutHas Canonical (vecOp g vd w m conv f s) :=
  h.issue (.bind keeps_getClaim fun _ => .get fun _ _ => .bind keeps_raiseFlags fun _ => .bind keeps_setV fun _ =>
    .guard keeps_countConv .pure)

theorem vecAlu_canonical {o : OpVAlu} {f : VFn} {conv : Bool} (h : s.MemHas Canonical) :
    OutHas Canonical (vecAlu o f conv s) :=
  vecOp_canonical h

theorem execVadd_canonical {o : OpVAlu} (h : s.MemHas Canonical) : OutHas Canonical (execVadd o s) :=
  vecAlu_canonical h

theorem execVsub_canonical {o : OpVAlu} (h : s.MemHas Canonical) : OutHas Canonical (execVsub o s) :=
  vecAlu_canonical h

theorem execVmul_canonical {o : OpVAlu} (h : s.MemHas Canonical) : OutHas Canonical (execVmul o s) :=
  vecAlu_canonical h

theorem execVfma_canonical {o : OpVFma} (h : s.MemHas Canonical) : OutHas Canonical (execVfma o s) :=
  vecOp_canonical h

theorem execVmin_canonical {o : OpVAlu} (h : s.MemHas Canonical) : OutHas Canonical (execVmin o s) :=
  vecAlu_canonical h

theorem execVmax_canonical {o : OpVAlu} (h : s.MemHas Canonical) : OutHas Canonical (execVmax o s) :=
  vecAlu_canonical h

theorem execVabs_canonical {o : OpVAbs} (h : s.MemHas Canonical) : OutHas Canonical (execVabs o s) :=
  vecOp_canonical h

theorem execVand_canonical {o : OpVAlu} (h : s.MemHas Canonical) : OutHas Canonical (execVand o s) :=
  vecAlu_canonical h

theorem execVor_canonical {o : OpVAlu} (h : s.MemHas Canonical) : OutHas Canonical (execVor o s) :=
  vecAlu_canonical h

theorem execVxor_canonical {o : OpVAlu} (h : s.MemHas Canonical) : OutHas Canonical (execVxor o s) :=
  vecAlu_canonical h

theorem execVshl_canonical {o : OpVAlu} (h : s.MemHas Canonical) : OutHas Canonical (execVshl o s) :=
  vecAlu_canonical h

theorem execVshr_canonical {o : OpVAlu} (h : s.MemHas Canonical) : OutHas Canonical (execVshr o s) :=
  vecAlu_canonical h

theorem execVsar_canonical {o : OpVAlu} (h : s.MemHas Canonical) : OutHas Canonical (execVsar o s) :=
  vecAlu_canonical h

theorem execVcmp_canonical {o : OpVCmp} (h : s.MemHas Canonical) : OutHas Canonical (execVcmp o s) :=
  h.issue (.bind keeps_getClaim fun _ => .bind keeps_raiseFlags fun _ => .bind keeps_setK fun _ => .pure)

theorem execVsel_canonical {o : OpVSel} (h : s.MemHas Canonical) : OutHas Canonical (execVsel o s) :=
  vecOp_canonical h

theorem execKlog_canonical {o : OpKlog} (h : s.MemHas Canonical) : OutHas Canonical (execKlog o s) :=
  h.issue (.bind keeps_getClaim fun _ => .bind keeps_setK fun _ => .pure)

theorem execKpop_canonical {o : OpKpop} (h : s.MemHas Canonical) : OutHas Canonical (execKpop o s) :=
  h.issue (.bind keeps_checkDst fun _ => .bind keeps_getClaim fun _ => keeps_writeD)

theorem execVcvt_canonical {o : OpVCvt} (h : s.MemHas Canonical) : OutHas Canonical (execVcvt o s) :=
  vecOp_canonical h

theorem execVqmx_canonical {o : OpVQmx} (h : s.MemHas Canonical) : OutHas Canonical (execVqmx o s) :=
  h.issue (.bind keeps_getClaim fun _ => .bind keeps_blockGrant fun _ => .get fun _ _ =>
    .bind keeps_raiseFlags fun _ => .bind keeps_setV fun _ => .bind keeps_setV fun _ =>
      .bind keeps_countConv fun _ => .pure)

theorem execVdqmx_canonical {o : OpVDqmx} (h : s.MemHas Canonical) : OutHas Canonical (execVdqmx o s) :=
  h.issue (.bind keeps_getClaim fun _ => .bind keeps_blockGrant fun _ => .get fun _ _ =>
    .bind keeps_raiseFlags fun _ => .bind keeps_setV fun _ => .bind keeps_countConv fun _ => .pure)

theorem execVrsum_canonical {o : OpVRed} (h : s.MemHas Canonical) : OutHas Canonical (execVrsum o s) :=
  h.issue (.bind keeps_checkDst fun _ => .bind keeps_getClaim fun _ => .ite keeps_writeD (.get fun _ _ =>
    keeps_writeConv))

theorem vecMinMax_canonical {o : OpVRed} {max : Bool} (h : s.MemHas Canonical) :
    OutHas Canonical (vecMinMax o max s) := by
  unfold vecMinMax
  refine h.issue ?_
  refine .bind keeps_checkDst fun x => ?_
  refine .bind keeps_getClaim fun x => ?_
  split
  · exact keeps_writeD
  · exact keeps_writeRes

theorem execVrmax_canonical {o : OpVRed} (h : s.MemHas Canonical) : OutHas Canonical (execVrmax o s) :=
  vecMinMax_canonical h

theorem execVrmin_canonical {o : OpVRed} (h : s.MemHas Canonical) : OutHas Canonical (execVrmin o s) :=
  vecMinMax_canonical h

theorem vecSpec_canonical {o : OpVSpec} {f : SpecFn} (h : s.MemHas Canonical) : OutHas Canonical (vecSpec o f s) :=
  vecOp_canonical h

theorem execVexp2_canonical {o : OpVSpec} (h : s.MemHas Canonical) : OutHas Canonical (execVexp2 o s) :=
  vecSpec_canonical h

theorem execVlog2_canonical {o : OpVSpec} (h : s.MemHas Canonical) : OutHas Canonical (execVlog2 o s) :=
  vecSpec_canonical h

theorem execVrcp_canonical {o : OpVSpec} (h : s.MemHas Canonical) : OutHas Canonical (execVrcp o s) :=
  vecSpec_canonical h

theorem execVrsq_canonical {o : OpVSpec} (h : s.MemHas Canonical) : OutHas Canonical (execVrsq o s) :=
  vecSpec_canonical h

theorem execVsqrt_canonical {o : OpVSpec} (h : s.MemHas Canonical) : OutHas Canonical (execVsqrt o s) :=
  vecSpec_canonical h

theorem execVtanh_canonical {o : OpVSpec} (h : s.MemHas Canonical) : OutHas Canonical (execVtanh o s) :=
  vecSpec_canonical h

theorem execVsigm_canonical {o : OpVSpec} (h : s.MemHas Canonical) : OutHas Canonical (execVsigm o s) :=
  vecSpec_canonical h

theorem execVperm_canonical {o : OpVPerm} (h : s.MemHas Canonical) : OutHas Canonical (execVperm o s) :=
  vecOp_canonical h

theorem execVbperm_canonical {o : OpVBperm} (h : s.MemHas Canonical) : OutHas Canonical (execVbperm o s) :=
  h.issue (.bind keeps_getClaim fun _ => .bind keeps_orTrap fun _ => .bind keeps_setV fun _ => .pure)

theorem execVmset_canonical {o : OpVMset} (h : s.MemHas Canonical) : OutHas Canonical (execVmset o s) := by
  unfold execVmset
  dsimp only
  refine h.issue ?_
  refine .bind keeps_getClaim fun x => ?_
  refine .bind ?_ fun _ => .bind keeps_updCur fun _ => .pure
  split
  · exact .bind keeps_readS fun _ => .pure
  · exact .pure
  · exact .pure

theorem modOp_canonical {g : Guard} {vd va : VNo} {y : VSrc} {w64 : Bool} {qs : Fin 4} {m : Option VMask}
    {useW : Bool} {f : Nat → Nat → Nat → Nat → Nat → Nat} (h : s.MemHas Canonical) :
      OutHas Canonical (modOp g vd va y w64 qs m useW f s) :=
  h.issue (.bind keeps_getClaim fun _ => .bind keeps_checkModuli fun _ => .bind keeps_setV fun _ => .pure)

theorem mod2_canonical {o : OpVM2} {useW : Bool} {f : Nat → Nat → Nat → Nat → Nat → Nat} (h : s.MemHas Canonical) :
    OutHas Canonical (mod2 o useW f s) :=
  modOp_canonical h

theorem execVmadd_canonical {o : OpVM2} (h : s.MemHas Canonical) : OutHas Canonical (execVmadd o s) :=
  mod2_canonical h

theorem execVmsub_canonical {o : OpVM2} (h : s.MemHas Canonical) : OutHas Canonical (execVmsub o s) :=
  mod2_canonical h

theorem mod1_canonical {o : OpVM1} {useW : Bool} {f : Nat → Nat → Nat → Nat} (h : s.MemHas Canonical) :
    OutHas Canonical (mod1 o useW f s) :=
  modOp_canonical h

theorem execVmneg_canonical {o : OpVM1} (h : s.MemHas Canonical) : OutHas Canonical (execVmneg o s) :=
  mod1_canonical h

theorem execVmmul_canonical {o : OpVM2} (h : s.MemHas Canonical) : OutHas Canonical (execVmmul o s) :=
  mod2_canonical h

theorem execVmmac_canonical {o : OpVM2} (h : s.MemHas Canonical) : OutHas Canonical (execVmmac o s) :=
  mod2_canonical h

theorem execVmred_canonical {o : OpVM1} (h : s.MemHas Canonical) : OutHas Canonical (execVmred o s) :=
  mod1_canonical h

theorem execVmto_canonical {o : OpVM1} (h : s.MemHas Canonical) : OutHas Canonical (execVmto o s) :=
  mod1_canonical h

theorem execVmfrom_canonical {o : OpVM1} (h : s.MemHas Canonical) : OutHas Canonical (execVmfrom o s) :=
  mod1_canonical h

theorem bflyIn_canonical {o : OpVBfly} {inv : Bool} (h : s.MemHas Canonical) : OutHas Canonical (bflyIn o inv s) :=
  h.issue (.bind keeps_getClaim fun _ => .bind keeps_orTrap fun _ => .bind keeps_checkModuli fun _ =>
    .bind keeps_setV fun _ => .pure)

theorem execVbfly_canonical {o : OpVBfly} (h : s.MemHas Canonical) : OutHas Canonical (execVbfly o s) :=
  bflyIn_canonical h

theorem bflyCross_canonical {o : OpVBflyX} {inv : Bool} (h : s.MemHas Canonical) :
    OutHas Canonical (bflyCross o inv s) :=
  h.issue (.bind keeps_getClaim fun _ => .bind keeps_checkModuli fun _ => .bind keeps_setV fun _ =>
    .bind keeps_setV fun _ => .pure)

theorem execVbflyX_canonical {o : OpVBflyX} (h : s.MemHas Canonical) : OutHas Canonical (execVbflyX o s) :=
  bflyCross_canonical h

theorem execVibfly_canonical {o : OpVBfly} (h : s.MemHas Canonical) : OutHas Canonical (execVibfly o s) :=
  bflyIn_canonical h

theorem execVibflyX_canonical {o : OpVBflyX} (h : s.MemHas Canonical) : OutHas Canonical (execVibflyX o s) :=
  bflyCross_canonical h

theorem execVauto_canonical {o : OpVAuto} (h : s.MemHas Canonical) : OutHas Canonical (execVauto o s) :=
  h.issue (.bind keeps_getClaim fun _ => .bind keeps_operandZ fun _ => .bind keeps_orTrap fun _ =>
    .bind keeps_orTrap fun _ => .bind keeps_checkModuli fun _ => .bind keeps_setV fun _ => .pure)

theorem execRingi_canonical {o : OpRingi} (h : s.MemHas Canonical) : OutHas Canonical (execRingi o s) :=
  h.issue (.bind keeps_readS fun _ => .bind keeps_operandZ fun _ => .bind keeps_orTrap fun _ =>
    .bind keeps_orTrap fun _ => .bind keeps_ringPlace fun _ => .get fun _ _ =>
      .guard keeps_ringTrap (.guard keeps_ringTrap (.bind (.modS fun _ hu => hu.setRing) fun _ => .pure)))

theorem execRpushRes_canonical {o : OpRing} (h : s.MemHas Canonical) : OutHas Canonical (execRpushRes o s) := by
  unfold execRpushRes
  refine h.issue (.bind keeps_checkDst fun _ => .bind keeps_getRing fun _ => .bind keeps_getCur fun _ => ?_)
  dsimp only
  split
  · exact .bind keeps_updCur fun _ => keeps_writeD
  · exact .get fun _ hs => .guard keeps_waitR (.guard keeps_ringTrap (.bind (.modS fun _ hu => hu.setRing) fun _ =>
      .bind keeps_updCur fun _ => .bind (keeps_holdNow hs) fun _ => keeps_writeD))

theorem execRpush_canonical {o : OpRpush} (h : s.MemHas Canonical) : OutHas Canonical (execRpush o s) := by
  unfold execRpush
  dsimp only
  refine h.issue ?_
  refine .bind keeps_checkDst fun x => ?_
  refine .bind keeps_getRing fun x => ?_
  refine .get fun s hs => ?_
  split
  · exact keeps_ringTrap
  · exact .bind keeps_readS fun _ => .guard keeps_ringTrap (.bind keeps_slotLoc fun _ =>
      .bind keeps_boardCheck fun _ => .bind keeps_wordsFree fun _ => .bind keeps_closeAt fun _ =>
        keeps_afterPhases keeps_rpushNow)

theorem execRpopRes_canonical {o : OpRing} (h : s.MemHas Canonical) : OutHas Canonical (execRpopRes o s) := by
  unfold execRpopRes
  refine h.issue (.bind keeps_checkDst fun _ => .bind keeps_getRing fun _ => .bind keeps_getCur fun _ => ?_)
  dsimp only
  split
  · exact .bind keeps_updCur fun _ => keeps_writeD
  · exact .get fun _ hs => .guard keeps_waitR (.guard keeps_ringTrap (.bind (.modS fun _ hu => hu.setRing) fun _ =>
      .bind keeps_updCur fun _ => .bind (keeps_holdNow hs) fun _ => keeps_writeD))

theorem execRpop_canonical {o : OpRing} (h : s.MemHas Canonical) : OutHas Canonical (execRpop o s) := by
  unfold execRpop
  dsimp only
  refine h.issue ?_
  refine .bind keeps_checkDst fun x => ?_
  refine .bind keeps_getRing fun x => ?_
  refine .bind keeps_getCur fun x => ?_
  split
  · exact keeps_ringTrap
  · exact .bind keeps_updCur fun _ => .bind (.modS fun _ hu => hu.release) fun _ => keeps_writeD

theorem execRstat_canonical {o : OpRstat} (h : s.MemHas Canonical) : OutHas Canonical (execRstat o s) :=
  h.issue (.bind keeps_checkDst fun _ => .get fun _ _ => keeps_writeD)

theorem execTldw_canonical {o : OpTldw} (h : s.MemHas Canonical) : OutHas Canonical (execTldw o s) := by
  unfold execTldw
  refine h.issue (.bind keeps_checkDst fun _ => .bind keeps_getRing fun _ => .guard keeps_ringTrap
    (.bind keeps_roomForMatrix fun _ => .bind keeps_getCur fun _ => .bind keeps_takeSlot fun _ => .get fun t ht =>
      ?_))
  dsimp only
  refine .ite (fun _ _ => .trap ht.reservedFor) ?_
  split
  · exact fun _ _ => .wait
  · exact .bind keeps_holdSlot fun _ => .get fun _ hs => .bind (.modS fun _ hu => hu.setArray.queueEngine) fun _ =>
      .bind (keeps_holdNow hs.reserved) fun _ => keeps_writeD

theorem execTrel_canonical {o : OpA} (h : s.MemHas Canonical) : OutHas Canonical (execTrel o s) :=
  h.issue (.bind keeps_readS fun _ => .get fun _ _ => .bind keeps_orTrap fun _ => .bind (.modS fun _ hu =>
    hu.setArray.serveArrays) fun _ => .pure)

theorem execTmma_canonical {o : OpTmma} (h : s.MemHas Canonical) : OutHas Canonical (execTmma o s) :=
  h.issue (.bind keeps_memAddr fun _ => .bind keeps_checkRegion fun _ => .bind keeps_readS fun _ => .get fun _ hs =>
    .bind keeps_orTrap fun _ => .bind keeps_getRing fun _ =>
      .guard keeps_ringTrap (.bind keeps_roomForMatrix fun _ => .bind keeps_takeSlot fun _ => .get fun _ hs =>
        .ite (fun _ h => .trap hs.reservedFor) (.ite (fun _ h => .trap hs.reservedFor) (.bind keeps_holdSlot fun _ =>
          .bind (.modS fun _ hu => hu.queueEngine) fun _ => .pure))))

theorem execTzero_canonical {o : OpM} (h : s.MemHas Canonical) : OutHas Canonical (execTzero o s) :=
  h.issue (.bind keeps_memAddr fun _ => .bind keeps_checkRegion fun _ => .bind keeps_roomForMatrix fun _ =>
    .bind (.modS fun _ hu => hu.queueEngine) fun _ => .pure)

theorem execTdrain_canonical {o : OpTdrain} (h : s.MemHas Canonical) : OutHas Canonical (execTdrain o s) :=
  h.issue (.bind keeps_readS fun _ => .bind keeps_readS fun _ => .bind keeps_checkRegion fun _ =>
    .bind keeps_roomForMatrix fun _ => .ite keeps_drainWith (.bind keeps_readS fun _ => keeps_readRecord))

theorem execTwait_canonical {o : OpD} (h : s.MemHas Canonical) : OutHas Canonical (execTwait o s) :=
  h.issue (.bind keeps_checkDst fun _ => .get fun _ _ => .guard keeps_waitR (.bind keeps_raiseRed fun _ =>
    .bind keeps_updCur fun _ => keeps_writeD))

theorem execNgrp_canonical {o : OpDMS} (h : s.MemHas Canonical) : OutHas Canonical (execNgrp o s) := by
  unfold execNgrp
  refine h.issue ?_
  refine .bind keeps_checkDst fun x => ?_
  refine .bind keeps_memAddr fun x => ?_
  refine .bind keeps_orTrap fun x => ?_
  refine .bind keeps_ownRecord fun x => ?_
  split
  · exact keeps_groupWith
  · exact keeps_readRecord

theorem execNred_canonical {o : OpNred} (h : s.MemHas Canonical) : OutHas Canonical (execNred o s) :=
  h.issue (.bind keeps_readS fun _ => .bind keeps_operandS fun _ => .bind keeps_readS fun _ =>
    .bind keeps_channelFree fun _ => .bind (.modS fun _ hu => (hu.same (by rfl))) fun _ => .pure)

theorem execNredi_canonical {o : OpNredi} (h : s.MemHas Canonical) : OutHas Canonical (execNredi o s) :=
  h.issue (.bind keeps_checkDst fun _ => .bind keeps_readS fun _ => .bind keeps_operandZ fun _ => keeps_groupAsk)

theorem execNfree_canonical {o : OpDA} (h : s.MemHas Canonical) : OutHas Canonical (execNfree o s) :=
  h.issue (.bind keeps_checkDst fun _ => .bind keeps_readS fun _ => keeps_groupAsk)

theorem execTracew_canonical {o : OpTracew} (h : s.MemHas Canonical) : OutHas Canonical (execTracew o s) :=
  h.issue (.bind keeps_readS fun _ => .bind keeps_operandZ fun _ => .bind (.modS fun _ hu =>
    .ite hu.emit hu) fun _ => .pure)

theorem execCntr_canonical {o : OpCntr} (h : s.MemHas Canonical) : OutHas Canonical (execCntr o s) := by
  unfold execCntr
  dsimp only
  refine h.issue ?_
  refine .bind keeps_checkDst fun x => ?_
  refine .bind keeps_operandZ fun x => ?_
  refine .bind keeps_orTrap fun x => ?_
  refine .get fun s hs => ?_
  refine .bind keeps_orTrap fun x => ?_
  refine .bind ?_ fun _ => keeps_holdFor
  refine .modS fun u hu => ?_
  refine State.MemHas.answer ?_
  exact .ite hu.modCluster hu

theorem execRegisterWrite_canonical {n : Nat} (h : s.MemHas Canonical) : OutHas Canonical (execRegisterWrite n s) :=
  .event h h.registerWrite

end Sys2Proof.Machine
end

section
/-! Memory through the event rows (O49). -/

namespace Sys2Proof.Machine
variable {s : State}

theorem execTurn_canonical {n : Nat} (h : s.MemHas Canonical) : OutHas Canonical (execTurn n s) :=
  .event h h.turn

theorem execFetchLineArrival_canonical {n : Nat} (h : s.MemHas Canonical) :
    OutHas Canonical (execFetchLineArrival n s) := by
  unfold execFetchLineArrival
  dsimp only
  refine .event h ?_
  split
  · exact .none
  · split
    · exact .some h.putLine
    · exact .ite .none (.some ((((.ite h.putThread h : State.MemHas _ _).same (by rfl))).countEvent))

theorem execMemoryReply_canonical {n : Nat} (h : s.MemHas Canonical) : OutHas Canonical (execMemoryReply n s) := by
  unfold execMemoryReply
  refine .event h ?_
  split
  · exact .none
  · exact .map fun _ => (h.same (by rfl)).reply

theorem execErrorNotice_canonical {n : Nat} (h : s.MemHas Canonical) : OutHas Canonical (execErrorNotice n s) := by
  unfold execErrorNotice
  refine .event h ?_
  split
  · exact .none
  · exact .map fun _ => (h.same (by rfl)).noteError

theorem execHomeOperation_canonical {n : Nat} (h : s.MemHas Canonical) : OutHas Canonical (execHomeOperation n s) :=
  .event h (.mapState h.homeArrives fun _ hu => hu.actWrites.pendingSaves)

theorem execQueuedBankAccess_canonical {n : Nat} (h : s.MemHas Canonical) :
    OutHas Canonical (execQueuedBankAccess n s) :=
  .event h (.mapState h.bankServes fun _ hu => hu.pendingSaves)

theorem execRequestCombine_canonical {n : Nat} (h : s.MemHas Canonical) : OutHas Canonical (execRequestCombine n s) :=
  .event h h.combineAt

theorem execDeferralDelivery_canonical {n : Nat} (h : s.MemHas Canonical) :
    OutHas Canonical (execDeferralDelivery n s) := by
  unfold execDeferralDelivery
  refine .event h ?_
  split
  · exact .none
  · exact .map fun _ => (h.same (by rfl)).reply

theorem execMonitorWake_canonical {n : Nat} (h : s.MemHas Canonical) : OutHas Canonical (execMonitorWake n s) := by
  unfold execMonitorWake
  dsimp only
  refine .event h ?_
  split
  · exact .none
  · refine .map fun _ => ?_
    split
    · exact .ite (((h.same (by rfl)).modThread).endWaitm) ((h.same (by rfl)).modThread)
    · exact (h.same (by rfl)).modThread

theorem execWaitmTimeout_canonical {n : Nat} (h : s.MemHas Canonical) : OutHas Canonical (execWaitmTimeout n s) := by
  unfold execWaitmTimeout
  dsimp only
  refine .event h ?_
  split
  · exact .none
  · exact .some h.endWaitm

theorem execLinkedValueArrival_canonical {n : Nat} (h : s.MemHas Canonical) :
    OutHas Canonical (execLinkedValueArrival n s) := by
  unfold execLinkedValueArrival
  refine .event h ?_
  split
  · exact .none
  · split
    · exact .none
    · exact (h.same (by rfl)).arriveLinked

theorem execMemberStart_canonical {n : Nat} (h : s.MemHas Canonical) : OutHas Canonical (execMemberStart n s) :=
  .event h (.ite h.offerRoom (.some ((h.foldl fun _ _ hu => hu.adoptStep).getD ((h.foldl fun _ _ hu =>
    hu.adoptStep).offerRoom))))

theorem execFamilyEnd_canonical {n : Nat} (h : s.MemHas Canonical) : OutHas Canonical (execFamilyEnd n s) := by
  unfold execFamilyEnd
  dsimp only
  refine .event h ?_
  split
  · exact .some h.endFamily
  · exact .none

theorem execPhaseMarker_canonical {n : Nat} (h : s.MemHas Canonical) : OutHas Canonical (execPhaseMarker n s) :=
  .event h h.markerAnswered

theorem execPhaseComplete_canonical {n : Nat} (h : s.MemHas Canonical) :
    OutHas Canonical (execPhaseComplete n s) := by
  unfold execPhaseComplete
  dsimp only
  refine .event h ?_
  split
  · exact .some (h.withThread keeps_afterRelease)
  · split
    · exact .none
    · next t ht =>
        split
        · exact .some (((((h.phaseDone _ ht)).raiseHeld).performOwn).withThread keeps_afterRelease)
        · exact .some ((((h.phaseDone _ ht)).raiseHeld).performOwn)

theorem execPacketHeaderArrival_canonical {n : Nat} (h : s.MemHas Canonical) :
    OutHas Canonical (execPacketHeaderArrival n s) := by
  unfold execPacketHeaderArrival
  dsimp only
  refine .event h ?_
  split
  · exact .none
  · exact .some ((h.same (by rfl)).headerArrives)

theorem execPacketCloseArrival_canonical {n : Nat} (h : s.MemHas Canonical) :
    OutHas Canonical (execPacketCloseArrival n s) := by
  unfold execPacketCloseArrival
  dsimp only
  refine .event h ?_
  split
  · exact .none
  · exact .some h.closeArrives

theorem execPacketAcknowledge_canonical {n : Nat} (h : s.MemHas Canonical) :
    OutHas Canonical (execPacketAcknowledge n s) := by
  unfold execPacketAcknowledge
  refine .event h ?_
  extract_lets l
  split
  · exact .none
  · next p _ =>
    extract_lets s1
    have h1 : s1.MemHas Canonical := h.same (by rfl)
    have h2 : ((match p.ack with
        | some b => (b, s1)
        | none => let (i, s) := s1.choose 2
                  (i == 0, s)) : Bool × State).2.MemHas Canonical := by
      split
      · exact h1
      · exact h1.same (by rfl)
    split
    next ok t ht =>
    have h3 := h2.of_pair ht
    refine .some ?_
    split
    · split
      · exact State.MemHas.withThread h3 (.ite keeps_txeDone keeps_txeLost)
      · exact h3
    · exact h3

theorem execReductionPartial_canonical {n : Nat} (h : s.MemHas Canonical) :
    OutHas Canonical (execReductionPartial n s) :=
  .event h (.ite h.partialMoves h.farPartial)

theorem execCopyEngineStart_canonical {n : Nat} (h : s.MemHas Canonical) :
    OutHas Canonical (execCopyEngineStart n s) :=
  .event h h.copyStart

theorem engineEvent_canonical {f : State → Option State} (h : s.MemHas Canonical) (hf : OptHas Canonical (f s)) :
    OutHas Canonical (engineEvent f s) :=
  .event h (.mapState hf.filter fun _ hu => hu.actWrites)

theorem execCopyComplete_canonical {n : Nat} (h : s.MemHas Canonical) : OutHas Canonical (execCopyComplete n s) :=
  engineEvent_canonical h h.copyRun

theorem execEngineOpStart_canonical {n : Nat} (h : s.MemHas Canonical) : OutHas Canonical (execEngineOpStart n s) :=
  .event h h.engStart

theorem execTldwLoadComplete_canonical {n : Nat} (h : s.MemHas Canonical) :
    OutHas Canonical (execTldwLoadComplete n s) :=
  engineEvent_canonical h h.tldwDone

theorem execTmmaRetire_canonical {n : Nat} (h : s.MemHas Canonical) : OutHas Canonical (execTmmaRetire n s) :=
  engineEvent_canonical h h.tmmaDone

theorem execTzeroComplete_canonical {n : Nat} (h : s.MemHas Canonical) : OutHas Canonical (execTzeroComplete n s) :=
  engineEvent_canonical h h.tzeroDone

theorem execTdrainComplete_canonical {n : Nat} (h : s.MemHas Canonical) : OutHas Canonical (execTdrainComplete n s) :=
  engineEvent_canonical h h.tdrainDone

theorem execEntrepotAppendArrival_canonical {n : Nat} (h : s.MemHas Canonical) :
    OutHas Canonical (execEntrepotAppendArrival n s) :=
  .event h h.appendArrives

theorem execEreplComplete_canonical {n : Nat} (h : s.MemHas Canonical) : OutHas Canonical (execEreplComplete n s) :=
  .event h h.replayRun

theorem execPatrolScrub_canonical {n : Nat} (h : s.MemHas Canonical) : OutHas Canonical (execPatrolScrub n s) :=
  .event h (.ite (.some h.scrub) .none)

theorem execCoreReset_canonical {n : Nat} (h : s.MemHas Canonical) : OutHas Canonical (execCoreReset n s) :=
  .event h (.ite (.some h.resetCore) .none)

theorem execPreEmpt_canonical {n : Nat} (h : s.MemHas Canonical) : OutHas Canonical (execPreEmpt n s) := by
  unfold execPreEmpt
  dsimp only
  refine .event h ?_
  split
  · exact .none
  · refine .some ?_
    refine State.MemHas.clearHold ?_
    refine h.holdOn.foldl fun u x hu => ?_
    split
    · exact hu.askSave
    · exact hu

theorem execThreadRestore_canonical {n : Nat} (h : s.MemHas Canonical) :
    OutHas Canonical (execThreadRestore n s) := by
  unfold execThreadRestore
  refine .event h (.ite .none ?_)
  dsimp only
  split
  · exact .some h.restoreSaved
  · exact .findSome? fun _ => h.restoreForced

theorem execMigrate_canonical {n : Nat} (h : s.MemHas Canonical) : OutHas Canonical (execMigrate n s) := by
  unfold execMigrate
  dsimp only
  refine .event h ?_
  split
  · exact .none
  · exact .some h.migrateTo

theorem execLaunchAccept_canonical {n : Nat} (h : s.MemHas Canonical) : OutHas Canonical (execLaunchAccept n s) := by
  unfold execLaunchAccept
  dsimp only
  refine .event h ?_
  split
  · exact .none
  · exact .ite .none (.mapState (.ite h.acceptAt (.some h.dropLaunch)) fun _ hu => hu.modQueue)

theorem execLaunchBind_canonical {n : Nat} (h : s.MemHas Canonical) : OutHas Canonical (execLaunchBind n s) := by
  unfold execLaunchBind
  refine .event h (.ite .none ?_)
  dsimp only
  split
  · exact .none
  · split
    · next hp => exact .some (h.chooseFrom.of_pair hp).bindLaunch
    · exact .none

theorem execLaunchStart_canonical {n : Nat} (h : s.MemHas Canonical) : OutHas Canonical (execLaunchStart n s) := by
  unfold execLaunchStart
  dsimp only
  refine .event h ?_
  split
  · exact .none
  · split
    · exact .none
    · exact .some h.startLaunch

theorem execLaunchComplete_canonical {n : Nat} (h : s.MemHas Canonical) :
    OutHas Canonical (execLaunchComplete n s) := by
  unfold execLaunchComplete
  dsimp only
  refine .event h ?_
  split
  · exact .none
  · exact .some h.completeLaunch

theorem execLaunchKill_canonical {n : Nat} (h : s.MemHas Canonical) : OutHas Canonical (execLaunchKill n s) := by
  unfold execLaunchKill
  dsimp only
  refine .event h ?_
  split
  · exact .none
  · exact .some h.killLnum

theorem execSqTailWrite_canonical {n : Nat} (h : s.MemHas Canonical) : OutHas Canonical (execSqTailWrite n s) :=
  .event h (.ite (.some h.modQueue) .none)

theorem execFeatureCommit_canonical {n : Nat} (h : s.MemHas Canonical) : OutHas Canonical (execFeatureCommit n s) :=
  .event h (.some h.commit)

theorem execTranslationWalkComplete_canonical {n : Nat} (h : s.MemHas Canonical) :
    OutHas Canonical (execTranslationWalkComplete n s) := by
  unfold execTranslationWalkComplete
  dsimp only
  refine .event h ?_
  split
  · exact .none
  · refine .some ?_
    refine State.MemHas.foldl ?_ fun _ _ hu => hu.walkEnds
    split
    · exact (h.same (by rfl)).fillTlb
    · exact h.same (by rfl)

theorem execFaultAnswerRetry_canonical {n : Nat} (h : s.MemHas Canonical) :
    OutHas Canonical (execFaultAnswerRetry n s) := by
  unfold execFaultAnswerRetry
  refine .event h (.some ?_)
  split
  · next hf => exact .ite (h.takeFault hf).retryFault (h.takeFault hf)
  · exact h.strayAnswer

theorem execFaultAnswerDeny_canonical {n : Nat} (h : s.MemHas Canonical) :
    OutHas Canonical (execFaultAnswerDeny n s) := by
  unfold execFaultAnswerDeny
  refine .event h (.some ?_)
  split
  · next hf => exact .ite (h.takeFault hf).denyFault (h.takeFault hf)
  · exact h.strayAnswer

theorem execTranslationInvalidate_canonical {n : Nat} (h : s.MemHas Canonical) :
    OutHas Canonical (execTranslationInvalidate n s) := by
  unfold execTranslationInvalidate
  dsimp only
  refine .event h ?_
  split
  · exact .ite .none (.some (h.same (by rfl)))
  · exact .some (h.same (by rfl))

theorem execWaitForInsert_canonical {n : Nat} (h : s.MemHas Canonical) :
    OutHas Canonical (execWaitForInsert n s) := by
  unfold execWaitForInsert
  refine .event h ?_
  dsimp only
  split
  · exact .none
  · refine .some ?_
    split
    · next hw => exact .of_exc h.dropStale.insertWait hw
    · exact h.trapDeadlock

theorem execWaitForRemove_canonical {n : Nat} (h : s.MemHas Canonical) :
    OutHas Canonical (execWaitForRemove n s) := by
  unfold execWaitForRemove
  dsimp only
  refine .event h ?_
  split
  · exact .none
  · exact .some (.ite h.removeWait h.syncHolds)

theorem execPriorityPropagate_canonical {n : Nat} (h : s.MemHas Canonical) :
    OutHas Canonical (execPriorityPropagate n s) := by
  unfold execPriorityPropagate
  dsimp only
  refine .event h ?_
  split
  · exact .none
  · exact .some h.refreshPrio

theorem execDeadlockScan_canonical {n : Nat} (h : s.MemHas Canonical) : OutHas Canonical (execDeadlockScan n s) :=
  .event h (.some (h.scanParties.reenter.foldl fun _ _ hu => hu.breakCycle))

theorem execDcmdStop_canonical {n : Nat} (h : s.MemHas Canonical) : OutHas Canonical (execDcmdStop n s) :=
  .event h h.portCommand

theorem execDcmdResume_canonical {n : Nat} (h : s.MemHas Canonical) : OutHas Canonical (execDcmdResume n s) :=
  .event h h.portCommand

theorem execDcmdStep_canonical {n : Nat} (h : s.MemHas Canonical) : OutHas Canonical (execDcmdStep n s) :=
  .event h h.portCommand

theorem execClusterStopArrival_canonical {n : Nat} (h : s.MemHas Canonical) :
    OutHas Canonical (execClusterStopArrival n s) :=
  .event h (.ite h.stopArrives .none)

theorem execClusterResumeArrival_canonical {n : Nat} (h : s.MemHas Canonical) :
    OutHas Canonical (execClusterResumeArrival n s) :=
  .event h (.ite h.stopArrives .none)

theorem execPcSample_canonical {n : Nat} (h : s.MemHas Canonical) : OutHas Canonical (execPcSample n s) :=
  .event h (.ite (.some h.sample) .none)

theorem execTraceRecordArrival_canonical {n : Nat} (h : s.MemHas Canonical) :
    OutHas Canonical (execTraceRecordArrival n s) := by
  unfold execTraceRecordArrival
  dsimp only
  refine .event h ?_
  split
  · exact .none
  · exact h.packRecord

theorem execWaybillSealTimeout_canonical {n : Nat} (h : s.MemHas Canonical) :
    OutHas Canonical (execWaybillSealTimeout n s) :=
  .event h (.ite .none h.seal)

theorem execWaybillWriteComplete_canonical {n : Nat} (h : s.MemHas Canonical) :
    OutHas Canonical (execWaybillWriteComplete n s) :=
  .event h (.map fun _ => h.modTrace)

theorem execRouteSurvey_canonical {n : Nat} (h : s.MemHas Canonical) : OutHas Canonical (execRouteSurvey n s) :=
  .event h (.ite .none (.some h.modDie.surveyRecords))

theorem execTraceEnable_canonical {n : Nat} (h : s.MemHas Canonical) : OutHas Canonical (execTraceEnable n s) :=
  .event h (.ite (.some (h.unitWrite (fun _ hw => hw.writeTrctl))) .none)

theorem execUnitClaim_canonical {n : Nat} (h : s.MemHas Canonical) : OutHas Canonical (execUnitClaim n s) :=
  .event h (.ite .none (.some h.claimUnit))

theorem execPmodeEnter_canonical {n : Nat} (h : s.MemHas Canonical) : OutHas Canonical (execPmodeEnter n s) :=
  .event h (.some h.writePmode)

theorem execPmodeLeave_canonical {n : Nat} (h : s.MemHas Canonical) : OutHas Canonical (execPmodeLeave n s) :=
  .event h (.some h.writePmode)

theorem execIntervalClose_canonical {n : Nat} (h : s.MemHas Canonical) :
    OutHas Canonical (execIntervalClose n s) := by
  unfold execIntervalClose
  dsimp only
  refine .event h ?_
  split
  · exact .none
  · split
    · exact .none
    · exact .some h.closeInterval

theorem execLinkRetrain_canonical {n : Nat} (h : s.MemHas Canonical) : OutHas Canonical (execLinkRetrain n s) :=
  .event h (.ite (.some (h.same (by rfl))) .none)

theorem execGulongKeepalive_canonical {n : Nat} (h : s.MemHas Canonical) :
    OutHas Canonical (execGulongKeepalive n s) :=
  .event h (.some h)

theorem execGulongSilenceTimeout_canonical {n : Nat} (h : s.MemHas Canonical) :
    OutHas Canonical (execGulongSilenceTimeout n s) :=
  .event h (.ite (.some h.retrainFails) .none)

theorem execFaultEvent_canonical {n : Nat} (h : s.MemHas Canonical) : OutHas Canonical (execFaultEvent n s) := by
  unfold execFaultEvent
  refine .event h ?_
  split
  · split
    · exact .none
    · exact .some h.recordNote
  · exact h.newError

theorem execFctlQuiesce_canonical {n : Nat} (h : s.MemHas Canonical) : OutHas Canonical (execFctlQuiesce n s) :=
  .event h (.ite (.some h.quiesce) .none)

theorem execQuiesced_canonical {n : Nat} (h : s.MemHas Canonical) : OutHas Canonical (execQuiesced n s) := by
  unfold execQuiesced
  refine .event h (.ite .none ?_)
  split
  · split
    · next hf => exact .some (.ite (h.takeFault hf).denyFault (h.takeFault hf))
    · exact .none
  · split
    · exact .some h.quiesceThread
    · refine .ite (.some ?_) .none
      refine State.MemHas.same (s := ite _ _ _) ?_ (by rfl)
      exact .ite h.writeWords h

theorem execFctlResume_canonical {n : Nat} (h : s.MemHas Canonical) : OutHas Canonical (execFctlResume n s) :=
  .event h (.ite (.some h.resumeAll) .none)

theorem execFctlPreset_canonical {n : Nat} (h : s.MemHas Canonical) : OutHas Canonical (execFctlPreset n s) :=
  .event h (.some h.presetPorts)

theorem execThermalTrip_canonical {n : Nat} (h : s.MemHas Canonical) : OutHas Canonical (execThermalTrip n s) :=
  .event h (.ite .none (.some ((h.same (by rfl)).noteUnit)))

theorem execClockStep_canonical {n : Nat} (h : s.MemHas Canonical) : OutHas Canonical (execClockStep n s) :=
  .event h (.ite (.ite (.some (h.same (by rfl))) .none) (.ite (.some (h.same (by rfl))) .none))

theorem execHarvestUpdate_canonical {n : Nat} (h : s.MemHas Canonical) :
    OutHas Canonical (execHarvestUpdate n s) := by
  unfold execHarvestUpdate
  dsimp only
  refine .event h ?_
  split
  · exact .none
  · refine .some ?_
    refine State.MemHas.modCluster ?_
    refine State.MemHas.renumber ?_
    exact .ite h.modPkg h

theorem execPackageReset_canonical {n : Nat} (h : s.MemHas Canonical) : OutHas Canonical (execPackageReset n s) :=
  .event h (.some (State.MemHas.reset.same (by rfl)))

theorem execAttestationQuote_canonical {n : Nat} (h : s.MemHas Canonical) :
    OutHas Canonical (execAttestationQuote n s) :=
  .event h (.some (h.same (by rfl)))

theorem execHaltedThreadKill_canonical {n : Nat} (h : s.MemHas Canonical) :
    OutHas Canonical (execHaltedThreadKill n s) := by
  unfold execHaltedThreadKill
  dsimp only
  refine .event h ?_
  split
  · exact .none
  · exact .some h.killHalted

theorem execCacheLineFill_canonical {n : Nat} (h : s.MemHas Canonical) : OutHas Canonical (execCacheLineFill n s) :=
  .event h (.mapState h.lineFills fun _ hu => hu.pendingSaves)

theorem execRetrainComplete_canonical {n : Nat} (h : s.MemHas Canonical) :
    OutHas Canonical (execRetrainComplete n s) :=
  .event h (.ite .none (.ite (.some (((h.same (by rfl)).same (by rfl)))) (.some ((h.same (by rfl)).retrainFails))))

theorem execAccessTableWrite_canonical {n : Nat} (h : s.MemHas Canonical) :
    OutHas Canonical (execAccessTableWrite n s) :=
  .event h (.some (h.same (by rfl)))

end Sys2Proof.Machine
end

section
/-! Every step keeps the canonical form of memory (O49). -/

namespace Sys2Proof.Machine
variable {s : State}

theorem exec_canonical {i : Instr} (h : s.MemHas Canonical) : OutHas Canonical (exec i s) := by
  cases i with
  | nop => exact execNop_canonical h
  | br => exact execBr_canonical h
  | brx => exact execBrx_canonical h
  | call => exact execCall_canonical h
  | callx => exact execCallx_canonical h
  | ret => exact execRet_canonical h
  | exit => exact execExit_canonical h
  | breakM => exact execBreakM_canonical h
  | fset => exact execFset_canonical h
  | fputg => exact execFputg_canonical h
  | fputs => exact execFputs_canonical h
  | create => exact execCreate_canonical h
  | sync => exact execSync_canonical h
  | fgets => exact execFgets_canonical h
  | kill => exact execKill_canonical h
  | fstat => exact execFstat_canonical h
  | trap => exact execTrap_canonical h
  | bkpt => exact execBkpt_canonical h
  | eret => exact execEret_canonical h
  | mfc => exact execMfc_canonical h
  | mtc => exact execMtc_canonical h
  | yieldT => exact execYieldT_canonical h
  | chkpt => exact execChkpt_canonical h
  | add => exact execAdd_canonical h
  | sub => exact execSub_canonical h
  | mul => exact execMul_canonical h
  | mulhs => exact execMulhs_canonical h
  | mulhu => exact execMulhu_canonical h
  | madd => exact execMadd_canonical h
  | divs => exact execDivs_canonical h
  | divu => exact execDivu_canonical h
  | rems => exact execRems_canonical h
  | remu => exact execRemu_canonical h
  | and => exact execAnd_canonical h
  | or => exact execOr_canonical h
  | xor => exact execXor_canonical h
  | andn => exact execAndn_canonical h
  | shl => exact execShl_canonical h
  | shr => exact execShr_canonical h
  | sar => exact execSar_canonical h
  | rol => exact execRol_canonical h
  | min => exact execMin_canonical h
  | max => exact execMax_canonical h
  | minu => exact execMinu_canonical h
  | maxu => exact execMaxu_canonical h
  | adds => exact execAdds_canonical h
  | subs => exact execSubs_canonical h
  | abs => exact execAbs_canonical h
  | clz => exact execClz_canonical h
  | ctz => exact execCtz_canonical h
  | popc => exact execPopc_canonical h
  | brev => exact execBrev_canonical h
  | bswap => exact execBswap_canonical h
  | bfx => exact execBfx_canonical h
  | bfi => exact execBfi_canonical h
  | sext => exact execSext_canonical h
  | zext => exact execZext_canonical h
  | mov => exact execMov_canonical h
  | movHi => exact execMovHi_canonical h
  | sel => exact execSel_canonical h
  | lea => exact execLea_canonical h
  | cmp => exact execCmp_canonical h
  | plog => exact execPlog_canonical h
  | fadd => exact execFadd_canonical h
  | fsub => exact execFsub_canonical h
  | fmul => exact execFmul_canonical h
  | fmin => exact execFmin_canonical h
  | fmax => exact execFmax_canonical h
  | ffma => exact execFfma_canonical h
  | fcmp => exact execFcmp_canonical h
  | fcvt => exact execFcvt_canonical h
  | icvt => exact execIcvt_canonical h
  | ld => exact execLd_canonical h
  | ldp => exact execLdp_canonical h
  | st => exact execSt_canonical h
  | stn => exact execStn_canonical h
  | take => exact execTake_canonical h
  | ldf => exact execLdf_canonical h
  | put => exact execPut_canonical h
  | putWait => exact execPutWait_canonical h
  | tagr => exact execTagr_canonical h
  | tagw => exact execTagw_canonical h
  | fence => exact execFence_canonical h
  | aadd => exact execAadd_canonical h
  | aand => exact execAand_canonical h
  | aor => exact execAor_canonical h
  | axor => exact execAxor_canonical h
  | amin => exact execAmin_canonical h
  | amax => exact execAmax_canonical h
  | aminu => exact execAminu_canonical h
  | amaxu => exact execAmaxu_canonical h
  | axchg => exact execAxchg_canonical h
  | afadd => exact execAfadd_canonical h
  | cas => exact execCas_canonical h
  | pref => exact execPref_canonical h
  | mona => exact execMona_canonical h
  | mond => exact execMond_canonical h
  | mondAll => exact execMondAll_canonical h
  | waitm => exact execWaitm_canonical h
  | tset => exact execTset_canonical h
  | tlook => exact execTlook_canonical h
  | tclr => exact execTclr_canonical h
  | bari => exact execBari_canonical h
  | barr => exact execBarr_canonical h
  | barw => exact execBarw_canonical h
  | bwait => exact execBwait_canonical h
  | bdrop => exact execBdrop_canonical h
  | bpois => exact execBpois_canonical h
  | lki => exact execLki_canonical h
  | lkacq => exact execLkacq_canonical h
  | lktry => exact execLktry_canonical h
  | lkrel => exact execLkrel_canonical h
  | qi => exact execQi_canonical h
  | qpush => exact execQpush_canonical h
  | qpop => exact execQpop_canonical h
  | wreg => exact execWreg_canonical h
  | whold => exact execWhold_canonical h
  | wdrop => exact execWdrop_canonical h
  | wwait => exact execWwait_canonical h
  | wwaitNb => exact execWwaitNb_canonical h
  | wunreg => exact execWunreg_canonical h
  | wqry => exact execWqry_canonical h
  | ofree => exact execOfree_canonical h
  | copy => exact execCopy_canonical h
  | copyt => exact execCopyt_canonical h
  | gath => exact execGath_canonical h
  | pack => exact execPack_canonical h
  | unpack => exact execUnpack_canonical h
  | ccan => exact execCcan_canonical h
  | cstat => exact execCstat_canonical h
  | ebin => exact execEbin_canonical h
  | eapp => exact execEapp_canonical h
  | erepl => exact execErepl_canonical h
  | vclaim => exact execVclaim_canonical h
  | vrel => exact execVrel_canonical h
  | vyield => exact execVyield_canonical h
  | vld => exact execVld_canonical h
  | vst => exact execVst_canonical h
  | vlds => exact execVlds_canonical h
  | vsts => exact execVsts_canonical h
  | vgath => exact execVgath_canonical h
  | vscat => exact execVscat_canonical h
  | vbcast => exact execVbcast_canonical h
  | viota => exact execViota_canonical h
  | vext => exact execVext_canonical h
  | vins => exact execVins_canonical h
  | vadd => exact execVadd_canonical h
  | vsub => exact execVsub_canonical h
  | vmul => exact execVmul_canonical h
  | vfma => exact execVfma_canonical h
  | vmin => exact execVmin_canonical h
  | vmax => exact execVmax_canonical h
  | vabs => exact execVabs_canonical h
  | vand => exact execVand_canonical h
  | vor => exact execVor_canonical h
  | vxor => exact execVxor_canonical h
  | vshl => exact execVshl_canonical h
  | vshr => exact execVshr_canonical h
  | vsar => exact execVsar_canonical h
  | vcmp => exact execVcmp_canonical h
  | vsel => exact execVsel_canonical h
  | klog => exact execKlog_canonical h
  | kpop => exact execKpop_canonical h
  | vcvt => exact execVcvt_canonical h
  | vqmx => exact execVqmx_canonical h
  | vdqmx => exact execVdqmx_canonical h
  | vrsum => exact execVrsum_canonical h
  | vrmax => exact execVrmax_canonical h
  | vrmin => exact execVrmin_canonical h
  | vexp2 => exact execVexp2_canonical h
  | vlog2 => exact execVlog2_canonical h
  | vrcp => exact execVrcp_canonical h
  | vrsq => exact execVrsq_canonical h
  | vsqrt => exact execVsqrt_canonical h
  | vtanh => exact execVtanh_canonical h
  | vsigm => exact execVsigm_canonical h
  | vperm => exact execVperm_canonical h
  | vbperm => exact execVbperm_canonical h
  | vmset => exact execVmset_canonical h
  | vmadd => exact execVmadd_canonical h
  | vmsub => exact execVmsub_canonical h
  | vmneg => exact execVmneg_canonical h
  | vmmul => exact execVmmul_canonical h
  | vmmac => exact execVmmac_canonical h
  | vmred => exact execVmred_canonical h
  | vmto => exact execVmto_canonical h
  | vmfrom => exact execVmfrom_canonical h
  | vbfly => exact execVbfly_canonical h
  | vbflyX => exact execVbflyX_canonical h
  | vibfly => exact execVibfly_canonical h
  | vibflyX => exact execVibflyX_canonical h
  | vauto => exact execVauto_canonical h
  | ringi => exact execRingi_canonical h
  | rpushRes => exact execRpushRes_canonical h
  | rpush => exact execRpush_canonical h
  | rpopRes => exact execRpopRes_canonical h
  | rpop => exact execRpop_canonical h
  | rstat => exact execRstat_canonical h
  | tldw => exact execTldw_canonical h
  | trel => exact execTrel_canonical h
  | tmma => exact execTmma_canonical h
  | tzero => exact execTzero_canonical h
  | tdrain => exact execTdrain_canonical h
  | twait => exact execTwait_canonical h
  | ngrp => exact execNgrp_canonical h
  | nred => exact execNred_canonical h
  | nredi => exact execNredi_canonical h
  | nfree => exact execNfree_canonical h
  | tracew => exact execTracew_canonical h
  | cntr => exact execCntr_canonical h
  | registerWrite => exact execRegisterWrite_canonical h
  | turn => exact execTurn_canonical h
  | fetchLineArrival => exact execFetchLineArrival_canonical h
  | memoryReply => exact execMemoryReply_canonical h
  | errorNotice => exact execErrorNotice_canonical h
  | homeOperation => exact execHomeOperation_canonical h
  | queuedBankAccess => exact execQueuedBankAccess_canonical h
  | requestCombine => exact execRequestCombine_canonical h
  | deferralDelivery => exact execDeferralDelivery_canonical h
  | monitorWake => exact execMonitorWake_canonical h
  | waitmTimeout => exact execWaitmTimeout_canonical h
  | linkedValueArrival => exact execLinkedValueArrival_canonical h
  | memberStart => exact execMemberStart_canonical h
  | familyEnd => exact execFamilyEnd_canonical h
  | phaseMarker => exact execPhaseMarker_canonical h
  | phaseComplete => exact execPhaseComplete_canonical h
  | packetHeaderArrival => exact execPacketHeaderArrival_canonical h
  | packetCloseArrival => exact execPacketCloseArrival_canonical h
  | packetAcknowledge => exact execPacketAcknowledge_canonical h
  | reductionPartial => exact execReductionPartial_canonical h
  | copyEngineStart => exact execCopyEngineStart_canonical h
  | copyComplete => exact execCopyComplete_canonical h
  | engineOpStart => exact execEngineOpStart_canonical h
  | tldwLoadComplete => exact execTldwLoadComplete_canonical h
  | tmmaRetire => exact execTmmaRetire_canonical h
  | tzeroComplete => exact execTzeroComplete_canonical h
  | tdrainComplete => exact execTdrainComplete_canonical h
  | entrepotAppendArrival => exact execEntrepotAppendArrival_canonical h
  | ereplComplete => exact execEreplComplete_canonical h
  | patrolScrub => exact execPatrolScrub_canonical h
  | coreReset => exact execCoreReset_canonical h
  | preEmpt => exact execPreEmpt_canonical h
  | threadRestore => exact execThreadRestore_canonical h
  | migrate => exact execMigrate_canonical h
  | launchAccept => exact execLaunchAccept_canonical h
  | launchBind => exact execLaunchBind_canonical h
  | launchStart => exact execLaunchStart_canonical h
  | launchComplete => exact execLaunchComplete_canonical h
  | launchKill => exact execLaunchKill_canonical h
  | sqTailWrite => exact execSqTailWrite_canonical h
  | featureCommit n => exact execFeatureCommit_canonical (n := n) h
  | translationWalkComplete => exact execTranslationWalkComplete_canonical h
  | faultAnswerRetry => exact execFaultAnswerRetry_canonical h
  | faultAnswerDeny => exact execFaultAnswerDeny_canonical h
  | translationInvalidate => exact execTranslationInvalidate_canonical h
  | waitForInsert => exact execWaitForInsert_canonical h
  | waitForRemove => exact execWaitForRemove_canonical h
  | priorityPropagate => exact execPriorityPropagate_canonical h
  | deadlockScan n => exact execDeadlockScan_canonical (n := n) h
  | dcmdStop => exact execDcmdStop_canonical h
  | dcmdResume => exact execDcmdResume_canonical h
  | dcmdStep => exact execDcmdStep_canonical h
  | clusterStopArrival => exact execClusterStopArrival_canonical h
  | clusterResumeArrival => exact execClusterResumeArrival_canonical h
  | pcSample => exact execPcSample_canonical h
  | traceRecordArrival => exact execTraceRecordArrival_canonical h
  | waybillSealTimeout n => exact execWaybillSealTimeout_canonical (n := n) h
  | waybillWriteComplete => exact execWaybillWriteComplete_canonical h
  | routeSurvey => exact execRouteSurvey_canonical h
  | traceEnable => exact execTraceEnable_canonical h
  | unitClaim => exact execUnitClaim_canonical h
  | pmodeEnter n => exact execPmodeEnter_canonical (n := n) h
  | pmodeLeave n => exact execPmodeLeave_canonical (n := n) h
  | intervalClose => exact execIntervalClose_canonical h
  | linkRetrain => exact execLinkRetrain_canonical h
  | gulongKeepalive n => exact execGulongKeepalive_canonical (n := n) h
  | gulongSilenceTimeout => exact execGulongSilenceTimeout_canonical h
  | faultEvent => exact execFaultEvent_canonical h
  | fctlQuiesce n => exact execFctlQuiesce_canonical (n := n) h
  | quiesced n => exact execQuiesced_canonical (n := n) h
  | fctlResume n => exact execFctlResume_canonical (n := n) h
  | fctlPreset n => exact execFctlPreset_canonical (n := n) h
  | thermalTrip => exact execThermalTrip_canonical h
  | clockStep => exact execClockStep_canonical h
  | harvestUpdate => exact execHarvestUpdate_canonical h
  | packageReset => exact execPackageReset_canonical h
  | attestationQuote => exact execAttestationQuote_canonical h
  | haltedThreadKill => exact execHaltedThreadKill_canonical h
  | cacheLineFill => exact execCacheLineFill_canonical h
  | retrainComplete => exact execRetrainComplete_canonical h
  | accessTableWrite => exact execAccessTableWrite_canonical h

/-! ### Pairs, and the step -/

/-- A breakpoint that stops or traps the thread (14 R275). -/
theorem State.MemHas.breakpoints_stop {pcs : List Word} {t : State} (h : s.MemHas Canonical)
    (ht : (s.breakpoints pcs).1 = some t) : t.MemHas Canonical := by
  have hstop : OptHas Canonical (s.breakpoints pcs).1 := by
    unfold State.breakpoints
    dsimp only
    split
    · exact .none
    · split
      · exact .none
      · split
        · exact .some (State.MemHas.debugCause (.ite (h.same (by rfl)) (h.same (by rfl))))
        · exact .some (State.MemHas.updCur (h.same (by rfl))).clusterCommand.stopThread
        · exact .some (State.MemHas.updCur (h.same (by rfl))).stopThread
        · exact .none
  exact hstop t ht

/-- A runner of instructions keeps the form. -/
def Keeper (ex : Runner) : Prop := ∀ i s, State.MemHas Canonical s → OutHas Canonical (ex i s)

theorem OutHas.next {P : Memory → Prop} (h : s.MemHas P) : OutHas P (.next s) := by
  rintro t ⟨⟩
  exact h

theorem OutHas.ite {P : Memory → Prop} {c : Prop} [Decidable c] {x y : Host.Outcome State Fault Refusal}
    (hx : OutHas P x) (hy : OutHas P y) : OutHas P (if c then x else y) := by
  split
  · exact hx
  · exact hy

theorem OutHas.andThen {P : Memory → Prop} {r : Host.Outcome State Fault Refusal}
    {f : State → Host.Outcome State Fault Refusal} (hr : OutHas P r)
    (hf : ∀ t, State.MemHas P t → OutHas P (f t)) : OutHas P (Machine.andThen r f) := by
  unfold Machine.andThen
  split
  · exact hf _ (hr _ rfl)
  · exact hr

section
variable {ex : Runner} (hex : Keeper ex)
include hex

theorem issueOne_canonical {i : Instr} (h : s.MemHas Canonical) : OutHas Canonical (issueOne ex i s) :=
  .andThen (hex i s h) fun _ ht => .next ht.boundary

theorem issueSecond_canonical {b : Instr} {w : IWord} (h : s.MemHas Canonical) :
    OutHas Canonical (issueSecond ex b w s) := by
  refine .andThen (hex b _ h.secondTurn) fun t ht => ?_
  split
  · exact .next ht.updCur.boundary
  · exact .next ht.updCur.boundary
  · exact .next ht.boundary

theorem issueFirst_canonical {a b : Instr} {w : IWord} {s1 : State} (h : s.MemHas Canonical)
    (h1 : s1.MemHas Canonical) : OutHas Canonical (issueFirst ex a b w s s1) := by
  refine .andThen (hex a s1 h1) fun t ht => ?_
  have hfirst : OutHas Canonical (Machine.andThen (ex a s) fun t => .next t.boundary) :=
    .andThen (hex a s h) fun _ ht => .next ht.boundary
  split
  · refine .andThen (hex b _ ht.secondTurn) fun u hu => .ite (.next h.forfeitPair) (.ite (.next h.suspend) ?_)
    split
    · exact .next hu.updCur.boundary
    · exact .next hu.boundary
  · exact .next ht.updCur.boundary
  · exact .ite (.next ht.updCur.boundary) hfirst
  · exact .next h.forfeitPair
  · exact hfirst

theorem issuePair_canonical {a b : Instr} {w : IWord} (h : s.MemHas Canonical) :
    OutHas Canonical (issuePair ex a b w s) := by
  refine .andThen (hex b s h) fun p hp =>
    .ite (.next h.forfeitPair) (.ite (.next hp.boundary) (.ite (issueFirst_canonical hex h h) ?_))
  split
  · exact .next h.suspend
  · next hr => exact issueFirst_canonical hex h (.of_exc h.reserveSecond hr)

theorem issueHalf_canonical {w : IWord} (h : s.MemHas Canonical) : OutHas Canonical (issueHalf ex w s) := by
  unfold issueHalf
  split
  · exact issueSecond_canonical hex h
  · exact .next h.updCur.boundary

theorem issueAgain_canonical (h : s.MemHas Canonical) : OutHas Canonical (issueAgain ex s) := by
  unfold issueAgain
  split
  · next hf => exact issueFirst_canonical hex (h.find.of_pair hf).dropPair (h.find.of_pair hf)
  · next hf => exact .next (h.find.of_pair hf).dropPair.awaitLine.boundary

theorem issueNow_canonical (h : s.MemHas Canonical) : OutHas Canonical (s.issueNow ex) := by
  have hbreak : (if s.inTurn && s.lineReady then s.breakpoints (issuePcs s.cur) else (none, s)).2.MemHas Canonical :=
    .pairIte h.breakpoints h
  unfold State.issueNow
  split
  · exact .next h.lateDeadlock.boundary
  · exact .ite (issueHalf_canonical hex h) (issueAgain_canonical hex h)
  · split
    · next hb =>
      split at hb
      · exact .next (h.breakpoints_stop (by rw [hb])).boundary
      · cases hb
    · next hb =>
      have hfind := (hbreak.of_pair hb).find
      split
      · next hf => exact .next (hfind.of_pair hf).awaitLine.boundary
      · next hf => exact .next (hfind.of_pair hf).lineFault.boundary
      · next hf => exact .next (hfind.of_pair hf).noteSlot.takeTrap.boundary
      · next hf =>
        have hslot := (hfind.of_pair hf).noteSlot
        exact .next (State.MemHas.takeTrap (hslot.same (by rfl))).boundary
      · next hf => exact issueOne_canonical hex (hfind.of_pair hf).noteIssued
      · next hf => exact issuePair_canonical hex (hfind.of_pair hf).noteIssued

end

theorem step_canonical (h : s.MemHas Canonical) : OutHas Canonical (step s) := by
  have hex : Keeper exec := fun _ _ => exec_canonical
  unfold step
  refine .ite (issueNow_canonical hex h) ?_
  split
  · exact issueNow_canonical hex h.checkOut
  · split
    next hi => exact .ite (exec_canonical (h.takeEvent.of_pair hi)) (.next (h.takeEvent.of_pair hi))

/-- Settles O49: every operation of the model keeps the canonical form, so the step does. -/
theorem stepKeepsMemoryCanonical : Obligations.StepKeepsMemoryCanonical := by
  unfold Obligations.StepKeepsMemoryCanonical
  intro s t hs hstep
  exact step_canonical (s := s) hs t hstep

end Sys2Proof.Machine
end

section
/-! What the operations on tags do at the home of a word (O31). -/

namespace Sys2Proof.Machine

/-! ### What a wait that ends leaves alone -/

/-- A machine that differs from `s0` in its threads, edges and dies alone. -/
def State.EdgesFrom (s0 s : State) : Prop :=
  ∃ c th ed di, s = { s0 with cur := c, threads := th, edges := ed, dies := di }

namespace State.EdgesFrom

variable {s0 s : State} (h : s0.EdgesFrom s)
include h

theorem withEdges (l : List Edge) : s0.EdgesFrom { s with edges := l } := by
  obtain ⟨c, th, ed, di, rfl⟩ := h
  exact ⟨c, th, l, di, rfl⟩

theorem refreshPrio (tid : Nat) : s0.EdgesFrom (s.refreshPrio tid) := by
  obtain ⟨c, th, ed, di, rfl⟩ := h
  unfold State.refreshPrio State.modThread
  split
  · exact ⟨_, th, ed, di, rfl⟩
  · split
    · exact ⟨c, _, ed, di, rfl⟩
    · exact ⟨c, th, ed, di, rfl⟩

theorem stepPrio (obj : Nat) : s0.EdgesFrom (s.stepPrio obj) :=
  List.foldlRecOn _ _ h fun _ hu t _ => hu.refreshPrio t

theorem holdIn (die tid obj : Nat) (name : Word) (side : Bool) : s0.EdgesFrom (s.holdIn die tid obj name side) := by
  unfold State.holdIn
  extract_lets e
  split
  · exact h
  · split
    · exact (h.withEdges _).refreshPrio tid
    · obtain ⟨c, th, ed, di, rfl⟩ := h
      exact ⟨c, th, _, _, rfl⟩

theorem syncHolds (obj : Nat) : s0.EdgesFrom (s.syncHolds obj) := by
  unfold State.syncHolds
  split
  · exact h
  · extract_lets s1 due gone left s2 s3
    have h3 : s0.EdgesFrom s3 :=
      List.foldlRecOn _ _ ((h.withEdges _).withEdges _) fun _ hu t _ => hu.refreshPrio t
    exact (List.foldlRecOn (motive := s0.EdgesFrom) _ _ h3 fun _ hu (d, t, b) _ => hu.holdIn d t obj _ b).stepPrio obj

theorem removeWait (tid obj : Nat) : s0.EdgesFrom (s.removeWait tid obj) :=
  ((h.withEdges _).syncHolds obj).stepPrio obj

end State.EdgesFrom

section
variable {s : State} {k tid : Nat} {v : Word}

/-- A deferral that ends leaves its list; of the rest of the machine only threads, edges and dies change. -/
theorem State.undefer_edgesFrom :
    State.EdgesFrom { s with defers := s.defers.filter fun d => !(d.key == k && d.tid == tid) } (s.undefer k tid) := by
  unfold State.undefer
  dsimp only
  split
  · exact State.EdgesFrom.removeWait ⟨_, _, _, _, rfl⟩ tid _
  · exact ⟨_, _, _, _, rfl⟩

/-! ### A value for one deferred thread -/

theorem State.deliverTo_mem : (s.deliverTo k tid v).mem = s.mem := by
  obtain ⟨c, th, ed, di, hu⟩ := s.undefer_edgesFrom (k := k) (tid := tid)
  simp only [State.deliverTo, hu]

theorem State.deliverTo_defers :
    (s.deliverTo k tid v).defers = s.defers.filter fun d => !(d.key == k && d.tid == tid) := by
  obtain ⟨c, th, ed, di, hu⟩ := s.undefer_edgesFrom (k := k) (tid := tid)
  simp only [State.deliverTo, hu]

theorem State.deliverTo_delivers :
    ∃ va no, (s.deliverTo k tid v).delivers = s.delivers ++ [⟨tid, v, va, k, no⟩] := by
  obtain ⟨c, th, ed, di, hu⟩ := s.undefer_edgesFrom (k := k) (tid := tid)
  simp only [State.deliverTo, hu]
  exact ⟨_, _, rfl⟩

theorem State.putsOf_deliverTo : (s.deliverTo k tid v).putsOf k = (s.putsOf k).filter fun d => d.tid != tid := by
  unfold State.putsOf
  rw [State.deliverTo_defers, List.filter_filter, List.filter_filter]
  refine List.filter_congr fun d _ => ?_
  cases d.key == k with
  | true => simp [bne, Bool.and_comm]
  | false => simp

/-! ### The list of a word, served -/

/-- A value on its way from word `k` to a thread. -/
def State.SentTo (t : State) (k tid : Nat) (v : Word) : Prop := ∃ x ∈ t.delivers, x.tid = tid ∧ x.v = v ∧ x.home = k

theorem State.SentTo.mono {t u : State} (h : t.SentTo k tid v) (hsub : t.delivers ⊆ u.delivers) : u.SentTo k tid v := by
  obtain ⟨x, hx, hrest⟩ := h
  exact ⟨x, hsub hx, hrest⟩

theorem State.deliverTo_sent : (s.deliverTo k tid v).SentTo k tid v := by
  obtain ⟨va, no, hd⟩ := s.deliverTo_delivers (k := k) (tid := tid) (v := v)
  exact ⟨⟨tid, v, va, k, no⟩, by simp [hd], rfl, rfl, rfl⟩

theorem State.deliverTo_mono : s.delivers ⊆ (s.deliverTo k tid v).delivers := by
  obtain ⟨va, no, hd⟩ := s.deliverTo_delivers (k := k) (tid := tid) (v := v)
  rw [hd]
  exact List.subset_append_left _ _

/-- The value goes to each deferral of a list, in order. -/
def State.deliverAll (s : State) (k : Nat) (v : Word) (l : List Defer) : State :=
  l.foldl (fun s d => s.deliverTo k d.tid v) s

theorem State.deliverAll_mem {l : List Defer} : (s.deliverAll k v l).mem = s.mem :=
  List.foldlRecOn (motive := fun t : State => t.mem = s.mem) l _ rfl fun _ ht _ _ => State.deliverTo_mem.trans ht

theorem State.deliverAll_mono {l : List Defer} : s.delivers ⊆ (s.deliverAll k v l).delivers :=
  List.foldlRecOn (motive := fun t : State => s.delivers ⊆ t.delivers) l _ (List.Subset.refl _)
    fun _ ht _ _ => List.Subset.trans ht State.deliverTo_mono

theorem State.deliverAll_sent {l : List Defer} {d : Defer} (hd : d ∈ l) : (s.deliverAll k v l).SentTo k d.tid v := by
  induction l generalizing s with
  | nil => cases hd
  | cons x r ih =>
    rcases List.mem_cons.mp hd with rfl | hr
    · exact State.deliverTo_sent.mono State.deliverAll_mono
    · exact ih hr

theorem State.putsOf_deliverAll {l : List Defer} :
    (s.deliverAll k v l).putsOf k = (s.putsOf k).filter fun d => l.all fun x => d.tid != x.tid := by
  induction l generalizing s with
  | nil => simp [State.deliverAll]
  | cons x r ih =>
    change ((s.deliverTo k x.tid v).deliverAll k v r).putsOf k = _
    rw [ih, State.putsOf_deliverTo, List.filter_filter]
    exact List.filter_congr fun d _ => by simp [Bool.and_comm]

/-! ### What is written -/

/-- No byte and no tag of a word other than `k` differs. -/
def OthersKept (k : Nat) (m m' : Memory) : Prop :=
  (∀ a, a < k ∨ k + 8 ≤ a → m'.byte a = m.byte a) ∧ (∀ a, a ≠ k → m'.tag a = m.tag a)

theorem OthersKept.rfl {m : Memory} : OthersKept k m m := ⟨fun _ _ => .refl _, fun _ _ => .refl _⟩

theorem OthersKept.setWord {m m' : Memory} {w : Word} {t : Tag} (h : OthersKept k m m') :
    OthersKept k m (m'.setWord k w t) :=
  ⟨fun a ha => (Memory.byte_setWord_outside m' k a w t ha).trans (h.1 a ha),
    fun a ha => (Memory.tag_setWord_other m' k a w t ha).trans (h.2 a ha)⟩

theorem State.changed_mem {t : State} : (t.changed k).mem = t.mem := .refl _

theorem State.poisonObject_mem : (s.poisonObject k).mem = s.mem :=
  State.MemHas.poisonObject (P := fun m => m = s.mem) (.refl _)

/-! ### PUT of an EMPTY word -/

/-- Every LDF of the list of `k` has been sent the value. -/
def State.servedLdf (s : State) (k : Nat) (v : Word) : State := s.deliverAll k v ((s.listOf k).filter fun d => !d.take)

/-- The first TAKE of the list has been sent the value too, and the word refers to the head of the rest. -/
def State.servedTake (s : State) (k : Nat) (v : Word) (d : Defer) : State :=
  ((s.servedLdf k v).deliverTo k d.tid v).setHead k

theorem State.fill_of_no_take (h : (s.listOf k).filter (·.take) = []) :
    s.fill k v = (s.servedLdf k v).putWord k v .full := by
  unfold State.fill
  simp only [h]
  rfl

theorem State.fill_of_takes {d : Defer} {r : List Defer} (h : (s.listOf k).filter (·.take) = d :: r)
    (hr : r ≠ [] ∨ (s.servedTake k v d).putsOf k = []) : s.fill k v = s.servedTake k v d := by
  have hfold : ((s.listOf k).filter fun d => !d.take).foldl (fun s d => s.deliverTo k d.tid v) s = s.servedLdf k v :=
    .refl _
  unfold State.fill
  simp only [h, hfold]
  change (match r, (s.servedTake k v d).putsOf k with
    | [], p :: _ => ((s.servedTake k v d).deliverTo k p.tid 0).putWord k (p.put.getD 0) .full
    | _, _ => s.servedTake k v d) = _
  split
  · next hp => simp [hp] at hr
  · rfl

theorem State.fill_of_last_take {d p : Defer} {ps : List Defer} (h : (s.listOf k).filter (·.take) = [d])
    (hp : (s.servedTake k v d).putsOf k = p :: ps) :
    s.fill k v = ((s.servedTake k v d).deliverTo k p.tid 0).putWord k (p.put.getD 0) .full := by
  have hfold : ((s.listOf k).filter fun d => !d.take).foldl (fun s d => s.deliverTo k d.tid v) s = s.servedLdf k v :=
    .refl _
  unfold State.fill
  simp only [h, hfold]
  change (match ([] : List Defer), (s.servedTake k v d).putsOf k with
    | [], p :: _ => ((s.servedTake k v d).deliverTo k p.tid 0).putWord k (p.put.getD 0) .full
    | _, _ => s.servedTake k v d) = _
  rw [hp]

theorem State.servedLdf_mem : (s.servedLdf k v).mem = s.mem := State.deliverAll_mem

theorem State.servedTake_mem {d : Defer} :
    ∃ w, (s.servedTake k v d).mem = s.mem.setWord k w .empty := by
  let u := (s.servedLdf k v).deliverTo k d.tid v
  refine ⟨u.refOf (u.listOf k), ?_⟩
  change u.mem.setWord k _ .empty = _
  rw [State.deliverTo_mem, State.servedLdf_mem]

theorem State.servedTake_mono {d : Defer} : (s.servedLdf k v).delivers ⊆ (s.servedTake k v d).delivers :=
  State.deliverTo_mono

/-- A PUT.wait of a thread that is served nothing keeps its place. -/
theorem State.putsOf_servedTake {d : Defer} :
    (s.servedTake k v d).putsOf k =
      ((s.putsOf k).filter fun p => ((s.listOf k).filter fun d => !d.take).all fun x => p.tid != x.tid).filter
        fun p => p.tid != d.tid := by
  change ((s.servedLdf k v).deliverTo k d.tid v).putsOf k = _
  rw [State.putsOf_deliverTo]
  congr 1
  exact State.putsOf_deliverAll

/-- What a PUT of an EMPTY word leaves: the value for every LDF and for the first TAKE of its list, and the word
FULL, or EMPTY where a TAKE took it, or with what the first PUT.wait that is queued puts (06 Table 6.3). -/
structure Filled (s : State) (k : Nat) (v : Word) (t : State) : Prop where
  ldf : ∀ d ∈ s.listOf k, d.take = false → t.SentTo k d.tid v
  take : ∀ d, (s.listOf k).find? (·.take) = some d → t.SentTo k d.tid v ∧
    (1 < ((s.listOf k).filter (·.take)).length ∨ s.putsOf k = [] → t.mem.tag k = .empty)
  put : ∀ p r, ((s.listOf k).filter (·.take)).length = 1 → s.putsOf k = p :: r →
    (∀ d ∈ s.listOf k, d.tid ≠ p.tid) → t.SentTo k p.tid 0 ∧ t.mem.tag k = .full ∧ t.mem.word k = p.put.getD 0
  full : (∀ d ∈ s.listOf k, d.take = false) → t.mem.tag k = .full ∧ t.mem.word k = v
  others : OthersKept k s.mem t.mem

theorem State.servedLdf_sent {d : Defer} (hd : d ∈ s.listOf k) (ht : d.take = false) :
    (s.servedLdf k v).SentTo k d.tid v :=
  State.deliverAll_sent (List.mem_filter.mpr ⟨hd, by simp [ht]⟩)

theorem Filled.of_no_take (h : (s.listOf k).filter (·.take) = []) : Filled s k v (s.fill k v) := by
  rw [State.fill_of_no_take h]
  have hnone : (s.listOf k).find? (·.take) = none := by
    rw [← List.head?_filter, h]
    rfl
  have hmem : ((s.servedLdf k v).putWord k v .full).mem = s.mem.setWord k v .full := by
    rw [State.putWord_mem, State.servedLdf_mem]
  refine ⟨fun d hd ht => State.servedLdf_sent hd ht, fun d hd => ?_, fun p r hl => ?_, fun _ => ?_, ?_⟩
  · rw [hnone] at hd
    cases hd
  · rw [h] at hl
    cases hl
  · rw [hmem]
    exact ⟨Memory.tag_setWord_same .., Memory.word_setWord_same ..⟩
  · rw [hmem]
    exact OthersKept.rfl.setWord

theorem Filled.of_takes {d : Defer} {r : List Defer} (h : (s.listOf k).filter (·.take) = d :: r) :
    Filled s k v (s.fill k v) := by
  have hhead : (s.listOf k).find? (·.take) = some d := by
    rw [← List.head?_filter, h]
    rfl
  have hd : d ∈ s.listOf k ∧ d.take = true := List.mem_filter.mp (h ▸ List.mem_cons_self)
  have hldf : ∀ x ∈ s.listOf k, x.take = false → (s.servedTake k v d).SentTo k x.tid v := fun x hx ht =>
    (State.servedLdf_sent hx ht).mono State.servedTake_mono
  have htake : (s.servedTake k v d).SentTo k d.tid v := State.deliverTo_sent
  have hsome : (∀ x ∈ s.listOf k, x.take = false) → False := fun hall => by
    simp [hall d hd.1] at hd
  obtain ⟨w, hmem⟩ := s.servedTake_mem (k := k) (v := v) (d := d)
  by_cases hlast : r = [] ∧ (s.servedTake k v d).putsOf k ≠ []
  · obtain ⟨rfl, hputs⟩ := hlast
    obtain ⟨p, ps, hp⟩ := List.exists_cons_of_ne_nil hputs
    rw [State.fill_of_last_take h hp]
    have hmono : (s.servedTake k v d).delivers ⊆
        (((s.servedTake k v d).deliverTo k p.tid 0).putWord k (p.put.getD 0) .full).delivers := State.deliverTo_mono
    have hend : (((s.servedTake k v d).deliverTo k p.tid 0).putWord k (p.put.getD 0) .full).mem =
        (s.mem.setWord k w .empty).setWord k (p.put.getD 0) .full := by
      rw [State.putWord_mem, State.deliverTo_mem, hmem]
    have hfirst : ∀ p' r', s.putsOf k = p' :: r' → (∀ x ∈ s.listOf k, x.tid ≠ p'.tid) → p' = p := by
      intro p' r' hs hother
      rw [State.putsOf_servedTake, hs, List.filter_cons_of_pos, List.filter_cons_of_pos] at hp
      · exact (List.cons.inj hp).1
      · simpa using (hother d hd.1).symm
      · exact List.all_eq_true.mpr fun x hx => by simpa using (hother x (List.mem_filter.mp hx).1).symm
    refine ⟨fun x hx ht => (hldf x hx ht).mono hmono, fun x hx => ?_, fun p' r' _ hs hother => ?_,
      fun hall => (hsome hall).elim, ?_⟩
    · rw [hhead] at hx
      cases hx
      refine ⟨htake.mono hmono, fun hor => ?_⟩
      rw [h] at hor
      rcases hor with hlen | hnil
      · simp at hlen
      · rw [State.putsOf_servedTake, hnil] at hp
        cases hp
    · obtain rfl := hfirst p' r' hs hother
      rw [hend]
      exact ⟨State.deliverTo_sent, Memory.tag_setWord_same .., Memory.word_setWord_same ..⟩
    · rw [hend]
      exact OthersKept.rfl.setWord.setWord
  · rw [State.fill_of_takes h (by tauto)]
    refine ⟨hldf, fun x hx => ?_, fun p r' hl hs hother => ?_, fun hall => (hsome hall).elim, ?_⟩
    · rw [hhead] at hx
      cases hx
      rw [hmem]
      exact ⟨htake, fun _ => Memory.tag_setWord_same ..⟩
    · refine (hlast ⟨?_, ?_⟩).elim
      · simpa [h] using hl
      · rw [State.putsOf_servedTake, hs, List.filter_cons_of_pos, List.filter_cons_of_pos]
        · exact List.cons_ne_nil _ _
        · simpa using (hother d hd.1).symm
        · exact List.all_eq_true.mpr fun x hx => by simpa using (hother x (List.mem_filter.mp hx).1).symm
    · rw [hmem]
      exact OthersKept.rfl.setWord

theorem State.fill_filled : Filled s k v (s.fill k v) := by
  cases h : (s.listOf k).filter (·.take) with
  | nil => exact .of_no_take h
  | cons d r => exact .of_takes h

/-! ### The operations, one by one -/

/-- The record of a deferral. -/
def State.deferred (s : State) (k : Nat) (q : Req) (take : Bool) (put : Option Word) : State :=
  { s with defers := s.defers ++ [⟨k, q.tid, take, put, q.va, q.launch, q.who, q.ivl, q.opc⟩] }

theorem State.defer_unguarded {q : Req} {take : Bool} {put : Option Word} (hguard : s.guard? k = none) :
    s.defer k q take put =
      (.wait 5, if put.isNone then (s.deferred k q take put).setHead k else s.deferred k q take put) := by
  unfold State.defer
  simp only [hguard]
  rfl

theorem State.servePuts_of_none (h : s.putsOf k = []) : s.servePuts k = s := by
  unfold State.servePuts
  rw [h]

section
variable {q : Req} (hk : k = q.loc.key / 8 * 8)
include hk

theorem State.wordOp_ldf_full (hop : q.op = .ldf) (hfull : s.mem.tag k = .full) :
    s.wordOp q = (.done (.ok (s.mem.word k) 0), s) := by
  subst hk
  simp only [State.wordOp, hop, hfull]

theorem State.wordOp_take_full (hop : q.op = .take) (hfull : s.mem.tag k = .full) (hputs : s.putsOf k = []) :
    s.wordOp q = (.done (.ok (s.mem.word k) 0), (s.putWord k 0 .empty).changed k) := by
  have hserve : (s.putWord k 0 .empty).servePuts k = s.putWord k 0 .empty := State.servePuts_of_none hputs
  rw [← hserve]
  subst hk
  simp only [State.wordOp, hop, hfull]

theorem State.wordOp_putWait_full (hop : q.op = .putWait v) (hfull : s.mem.tag k = .full)
    (hguard : s.guard? k = none) : s.wordOp q = (.wait 5, s.deferred k q false (some v)) := by
  have hdefer : s.wordOp q = s.defer k q false (some v) := by
    subst hk
    simp only [State.wordOp, hop, hfull]
  rw [hdefer, State.defer_unguarded hguard]
  rfl

theorem State.wordOp_take_empty (hop : q.op = .take) (hempty : s.mem.tag k = .empty) (hguard : s.guard? k = none) :
    s.wordOp q = (.wait 5, (s.deferred k q true none).setHead k) := by
  have hdefer : s.wordOp q = s.defer k q true none := by
    subst hk
    simp only [State.wordOp, hop, hempty]
  rw [hdefer, State.defer_unguarded hguard]
  rfl

theorem State.wordOp_ldf_empty (hop : q.op = .ldf) (hempty : s.mem.tag k = .empty) (hguard : s.guard? k = none) :
    s.wordOp q = (.wait 5, (s.deferred k q false none).setHead k) := by
  have hdefer : s.wordOp q = s.defer k q false none := by
    subst hk
    simp only [State.wordOp, hop, hempty]
  rw [hdefer, State.defer_unguarded hguard]
  rfl

theorem State.wordOp_put_empty (hop : q.op = .put v ∨ q.op = .putWait v) (hempty : s.mem.tag k = .empty) :
    s.wordOp q = (.done (.ok 0 0), (s.fill k v).changed k) := by
  subst hk
  rcases hop with hop | hop
  · simp only [State.wordOp, hop, hempty]
  · simp only [State.wordOp, hop, hempty]

theorem State.wordOp_tagr (hop : q.op = .tagr) :
    s.wordOp q = (.done (.ok (s.mem.word k) (match s.mem.tag k with
      | .full => 0
      | .empty => 1
      | .object => 2
      | .poison => 3)), s) := by
  subst hk
  simp only [State.wordOp, hop] <;> rfl

theorem State.wordOp_tagw {nt : Tag} (hop : q.op = .tagw nt v) (hstop : s.tagwStop k nt q.app = none) :
    s.wordOp q = (.done (.ok 0 0), ((if nt = .poison && s.mem.tag k == .object then s.poisonObject k
      else s).putWord k (if nt = .empty then 0 else v) nt).changed k) := by
  subst hk
  simp only [State.wordOp, hop, hstop]

end

/-- A TAGW that no list, no queue and no privilege stops. -/
theorem State.tagwStop_none {nt : Tag} {app : Bool} (happ : app = true → nt ≠ .object ∧ s.mem.tag k ≠ .object)
    (hzero : s.mem.tag k = .empty → s.mem.word k = 0) (hputs : s.mem.tag k = .full → s.putsOf k = []) :
    s.tagwStop k nt app = none := by
  unfold State.tagwStop
  dsimp only
  rw [if_neg, if_neg, if_neg]
  · simpa using hputs
  · simpa using hzero
  · cases app with
    | false => simp
    | true => simpa using happ rfl

/-- Settles O31: the operations on an EMPTY word by what `fill` does with its list, the others by what they write. -/
theorem homeTagOperations : Obligations.HomeTagOperations := by
  unfold Obligations.HomeTagOperations
  intro s q k Others Sent Fills
  refine ⟨fun hfull => ⟨fun hop => State.wordOp_ldf_full rfl hop hfull, fun hop hputs => ?_, fun v hop hguard => ?_⟩,
    fun hempty => ⟨fun hop hguard => ?_, fun v hop => ?_⟩, fun hop => State.wordOp_tagr rfl hop,
    fun nt v hop happ hzero hputs => ?_⟩
  · exact ⟨_, State.wordOp_take_full rfl hop hfull hputs, Memory.tag_setWord_same .., Memory.word_setWord_same ..,
      OthersKept.rfl.setWord⟩
  · exact ⟨_, State.wordOp_putWait_full rfl hop hfull hguard, rfl, rfl⟩
  · rcases hop with hop | hop
    · exact ⟨_, State.wordOp_take_empty rfl hop hempty hguard, by rw [hop]; rfl,
        Memory.tag_setWord_same .., OthersKept.rfl.setWord⟩
    · exact ⟨_, State.wordOp_ldf_empty rfl hop hempty hguard, by rw [hop]; rfl,
        Memory.tag_setWord_same .., OthersKept.rfl.setWord⟩
  · have hfill : Filled s k v (s.fill k v) := State.fill_filled
    exact ⟨_, State.wordOp_put_empty rfl hop hempty, ⟨hfill.ldf, hfill.take, hfill.put, hfill.full⟩, hfill.others⟩
  · have hmem : (if nt = .poison && s.mem.tag k == .object then s.poisonObject k else s).mem = s.mem := by
      split
      · exact State.poisonObject_mem
      · rfl
    refine ⟨_, State.wordOp_tagw rfl hop (State.tagwStop_none happ hzero hputs), ?_⟩
    change _ ∧ _ ∧ OthersKept k s.mem _
    rw [State.changed_mem, State.putWord_mem, hmem]
    exact ⟨Memory.tag_setWord_same .., Memory.word_setWord_same .., OthersKept.rfl.setWord⟩

end

end Sys2Proof.Machine
end

section
/-! Whose turn it is on a core (O50). -/

namespace Sys2Proof.Machine

section
variable {s : State}

/-! ### An event of an idle machine -/

theorem event_of_some {f : State → Option State} {t : State} (hb : s.busy = false) (h : f s = some t) :
    event f s = .next t := by
  simp [event, hb, h]

theorem State.thread?_idle {tid : Nat} (hb : s.busy = false) : s.thread? tid = tabGet s.threads tid := by
  simp [State.thread?, hb]

theorem State.putThread_idle {t : Thread} (hb : s.busy = false) :
    s.putThread t = { s with threads := tabSet s.threads t.tid t } := by
  simp [State.putThread, hb]

/-! ### The state that the turn starts from -/

theorem State.takePrio_busy {c slot : Nat} : (s.takePrio c slot).busy = s.busy := by
  refine List.foldlRecOn (motive := fun u : State => u.busy = s.busy) _ _ rfl fun u hu t _ => ?_
  extract_lets now
  split
  · exact (State.modThread_busy ..).trans ((State.putThread_busy ..).trans hu)
  · exact hu

theorem State.unshade_busy {c : Nat} : (s.unshade c).busy = s.busy := by
  unfold State.unshade
  dsimp only
  split
  · rfl
  · rfl

theorem State.takePrio_of_own {c slot : Nat} (h : ∀ t ∈ s.onCore c, t.own = t.ownNow) : s.takePrio c slot = s := by
  refine List.foldlRecOn (motive := fun u : State => u = s) _ _ rfl fun u hu t ht => ?_
  simp [h t ht, hu]

theorem State.unshade_of_none {c : Nat} (h : ∀ x ∈ s.threads, x.2.shade = none) : s.unshade c = s := by
  unfold State.unshade
  extract_lets shaded
  have hnone : (s.threads.any fun x => shaded x.2) = false := List.any_eq_false.mpr fun x hx => by
    simp [shaded, h x hx]
  rw [if_neg (by simp [hnone])]

/-! ### The turn given and the turn lost -/

theorem State.giveTurn_mem {c slot : Nat} {t : Thread} {first : Bool} : (s.giveTurn c slot t first).mem = s.mem := rfl

/-- Another thread stays as it is where one is given the turn. -/
theorem State.thread?_giveTurn_other {c slot tid : Nat} {t : Thread} {first : Bool} (hb : s.busy = false)
    (h : tid ≠ t.tid) : (s.giveTurn c slot t first).thread? tid = s.thread? tid := by
  have hne : (t.tid == tid) = false := by simpa using h.symm
  have herase : tabGet (tabErase s.threads t.tid) tid = tabGet s.threads tid := tabGet_tabErase_other _ _ _ h
  rw [State.thread?_idle hb, ← herase]
  simp [State.giveTurn, State.checkOut, State.thread?, hne]

theorem State.wakeWhere_cores {p : Thread → Bool} : (s.wakeWhere p).cores = s.cores :=
  List.foldlRecOn (motive := fun u : State => u.cores = s.cores) _ _ rfl fun _ hu _ _ =>
    (State.modThread_cores ..).trans hu

theorem State.wakeWhere_busy {p : Thread → Bool} : (s.wakeWhere p).busy = s.busy :=
  List.foldlRecOn (motive := fun u : State => u.busy = s.busy) _ _ rfl fun _ hu _ _ =>
    (State.modThread_busy ..).trans hu

/-- A cycle draws which channels of the core are stopped; the waits for a channel that is not end. -/
theorem State.drawStopped_eq {c : Nat} : ∃ (n : Nat) (stopped : BitVec 3) (goes : Thread → Bool),
    (∀ t, goes t = true → t.waitReason = 11) ∧
      s.drawStopped c = (if s.threads.any fun x => goes x.2 then
        (({ s with choice := n } : State).modCore c fun x => { x with stopped := stopped }).wakeWhere goes
      else ({ s with choice := n } : State).modCore c fun x => { x with stopped := stopped }) := by
  obtain ⟨k, n, hn⟩ : ∃ k n, (if s.chansBusy c = 0 then (0, s) else s.choose 8) = (k, { s with choice := n }) := by
    split
    · exact ⟨0, s.choice, rfl⟩
    · exact ⟨_, s.choice + 1, rfl⟩
  refine ⟨n, BitVec.ofNat 3 (k &&& s.chansBusy c), fun t => t.core == c && (match t.wait with
    | some ⟨11, none, _, j⟩ => !(BitVec.ofNat 3 (k &&& s.chansBusy c)).getLsbD j
    | _ => false), fun t ht => ?_, ?_⟩
  · simp only [Bool.and_eq_true] at ht
    split at ht
    · next hw => simp [Thread.waitReason, hw]
    · simp at ht
  · unfold State.drawStopped
    simp only [hn]
    rfl

theorem State.drawStopped_busy {c : Nat} : (s.drawStopped c).busy = s.busy := by
  obtain ⟨n, stopped, goes, _, heq⟩ := s.drawStopped_eq (c := c)
  rw [heq]
  split
  · exact State.wakeWhere_busy
  · rfl

theorem State.drawStopped_cycle {c : Nat} : ((s.drawStopped c).core c).cycle = (s.core c).cycle := by
  obtain ⟨n, stopped, goes, _, heq⟩ := s.drawStopped_eq (c := c)
  have hmod : ((({ s with choice := n } : State).modCore c fun x => { x with stopped := stopped }).core c).cycle =
      (s.core c).cycle := by
    rw [State.core_modCore_same]
    rfl
  rw [heq]
  split
  · rw [State.core, State.wakeWhere_cores]
    exact hmod
  · exact hmod

theorem State.drawStopped_threads {c : Nat} (h : ∀ x ∈ s.threads, x.2.waitReason ≠ 11) :
    (s.drawStopped c).threads = s.threads := by
  obtain ⟨n, stopped, goes, hgoes, heq⟩ := s.drawStopped_eq (c := c)
  have hnone : (s.threads.any fun x => goes x.2) = false := List.any_eq_false.mpr fun x hx hg => h x hx (hgoes _ hg)
  rw [heq, if_neg (by simp [hnone])]
  rfl

/-- The end of a cycle: the count goes on, and the counters of the clusters take their events. -/
theorem State.endCycle_eq {c reason : Nat} : ∃ l, s.endCycle c reason =
    { (s.drawStopped c).modCore c fun x => { x.nextBanks with cycle := x.cycle + 1 } with clusters := l } := by
  unfold State.endCycle
  extract_lets cl s1 s2 s3
  have h2 : ∃ l, s2 = { s1 with clusters := l } := by
    unfold s2
    split
    · exact ⟨_, rfl⟩
    · exact ⟨_, rfl⟩
  obtain ⟨l, hl⟩ := h2
  unfold s3
  rw [hl]
  split
  · exact ⟨_, rfl⟩
  · split
    · exact ⟨_, rfl⟩
    · exact ⟨_, rfl⟩

theorem State.loseTurn_busy {c reason : Nat} : (s.loseTurn c reason).busy = s.busy := by
  obtain ⟨l, hl⟩ := (s.modCore c fun x => { x with lastIssue := none }).endCycle_eq (c := c) (reason := reason)
  rw [State.loseTurn, hl]
  exact State.drawStopped_busy

theorem State.loseTurn_cycle {c reason : Nat} : ((s.loseTurn c reason).core c).cycle = (s.core c).cycle + 1 := by
  obtain ⟨l, hl⟩ := (s.modCore c fun x => { x with lastIssue := none }).endCycle_eq (c := c) (reason := reason)
  have hcore : ∀ u : State, State.core { u with clusters := l } c = u.core c := fun _ => rfl
  rw [State.loseTurn, hl, hcore, State.core_modCore_same]
  change (State.core (State.drawStopped _ c) c).cycle + 1 = _
  rw [State.drawStopped_cycle, State.core_modCore_same]

theorem State.loseTurn_threads {c reason : Nat} (h : ∀ x ∈ s.threads, x.2.waitReason ≠ 11) :
    (s.loseTurn c reason).threads = s.threads := by
  obtain ⟨l, hl⟩ := (s.modCore c fun x => { x with lastIssue := none }).endCycle_eq (c := c) (reason := reason)
  rw [State.loseTurn, hl]
  exact State.drawStopped_threads h

theorem State.loseTurn_mem {c reason : Nat} : (s.loseTurn c reason).mem = s.mem :=
  State.MemHas.loseTurn (P := fun m => m = s.mem) rfl

/-! ### Who stands for a Stopped thread -/

theorem State.shadeTurn_of_displaced {c slot : Nat} {r t : Thread} (hb : s.busy = false)
    (hbest : s.bestReady c = some t) (hlt : ((s.shader c slot).getD r).eprio < t.eprio)
    (hleast : ((s.shader c slot).getD r).eprio = s.leastPrio c) :
    (s.shadeTurn c slot r).thread? t.tid = some { t with shade := some slot } := by
  have hputs : ∀ u : State, u.busy = false →
      (u.putThread { t with shade := some slot }).thread? t.tid = some { t with shade := some slot } := fun u hu => by
    rw [State.thread?_idle ((State.putThread_busy ..).trans hu), State.putThread_idle hu]
    exact tabGet_tabSet_same _ _ _
  unfold State.shadeTurn
  extract_lets o
  rw [hbest]
  dsimp only
  rw [if_pos (by simp only [o, hleast, beq_self_eq_true, Bool.and_true, decide_eq_true_eq]; exact hleast ▸ hlt)]
  refine hputs _ ?_
  change State.busy (ite _ _ _) = false
  split
  · exact hb
  · exact (State.putThread_busy ..).trans hb

theorem State.shadeTurn_of_kept {c slot : Nat} {r : Thread}
    (h : ∀ t, s.bestReady c = some t → t.eprio ≤ ((s.shader c slot).getD r).eprio ∨
      ((s.shader c slot).getD r).eprio ≠ s.leastPrio c) : s.shadeTurn c slot r = s := by
  unfold State.shadeTurn
  extract_lets o
  split
  · next t hbest =>
    rw [if_neg]
    rcases h t hbest with hle | hne
    · simp [o, Nat.not_lt.mpr hle]
    · simp [o, hne]
  · rfl

theorem State.shadeTurn_busy {c slot : Nat} {r : Thread} : (s.shadeTurn c slot r).busy = s.busy := by
  unfold State.shadeTurn
  extract_lets o
  split
  · split
    · refine (State.putThread_busy ..).trans ?_
      change State.busy (ite _ _ _) = s.busy
      split
      · rfl
      · exact State.putThread_busy ..
    · rfl
  · rfl

theorem State.shadeTurn_cores {c slot : Nat} {r : Thread} : (s.shadeTurn c slot r).cores = s.cores := by
  unfold State.shadeTurn
  extract_lets o
  split
  · split
    · refine (State.putThread_cores ..).trans ?_
      change State.cores (ite _ _ _) = s.cores
      split
      · rfl
      · exact State.putThread_cores ..
    · rfl
  · rfl

theorem State.shadeTurn_mem {c slot : Nat} {r : Thread} : (s.shadeTurn c slot r).mem = s.mem :=
  State.MemHas.shadeTurn (P := fun m => m = s.mem) rfl

end

/-! ### The turn, by who holds the slot -/

/-- The slot of a turn. -/
def State.turnSlot (s : State) (c : Nat) : Nat := (s.core c).cycle % 16

/-- The state that a turn starts from: what PRIO was written is in force, and no shade is left behind. -/
def State.turnStart (s : State) (c : Nat) : State := (s.takePrio c (s.turnSlot c)).unshade c

/-- The core issues no thread but one that is stepped or resumed alone. -/
def State.heldBack (s : State) (c : Nat) (o : Thread) : Bool := (s.core c).stopAll && !(o.alone || o.stepping)

section
variable {s : State} {c : Nat} (hon : s.coreEnabled c = true) (htrip : s.pkg.tripped = false)
  (hdue : s.dueFirst c = false)
include hon htrip hdue

theorem State.turn_reserved {r : Thread} (hr : (s.turnStart c).reserver c (s.turnSlot c) = some r) :
    s.turn c = some (if r.stepping then (s.turnStart c).giveTurn c (s.turnSlot c) r false
      else ((s.turnStart c).shadeTurn c (s.turnSlot c) r).loseTurn c 14) := by
  unfold State.turnStart State.turnSlot at *
  simp [State.turn, hon, htrip, hdue, hr]

variable (hr : (s.turnStart c).reserver c (s.turnSlot c) = none)
include hr

theorem State.turn_held {o : Thread} (ho : (s.turnStart c).occupant c (s.turnSlot c) = some o)
    (hback : s.heldBack c o = true) : s.turn c = some ((s.turnStart c).loseTurn c 14) := by
  unfold State.turnStart State.turnSlot State.heldBack at *
  simp only [State.turn, hon, htrip, hdue, hr, ho, Bool.not_true, Bool.or_self, Bool.false_eq_true, if_false]
  cases ((s.takePrio c ((s.core c).cycle % 16)).unshade c).bestReady c with
  | none => simp only [hback, if_true]
  | some t => simp only [hback, if_true]

theorem State.turn_kept {o : Thread} (ho : (s.turnStart c).occupant c (s.turnSlot c) = some o)
    (hback : s.heldBack c o = false)
    (hbest : ∀ t, (s.turnStart c).bestReady c = some t → t.eprio ≤ o.eprio ∨ (s.turnStart c).leastPrio c ≠ o.eprio) :
    s.turn c = some ((s.turnStart c).giveTurn c (s.turnSlot c) o false) := by
  have hstays : ∀ t, (s.turnStart c).bestReady c = some t →
      (decide (o.eprio < t.eprio) && o.eprio == (s.turnStart c).leastPrio c) = false := fun t ht => by
    rcases hbest t ht with hle | hne
    · simp [Nat.not_lt.mpr hle]
    · simp [hne.symm]
  unfold State.turnStart State.turnSlot State.heldBack at *
  simp only [State.turn, hon, htrip, hdue, hr, ho, Bool.not_true, Bool.or_self, Bool.false_eq_true, if_false]
  cases hb : ((s.takePrio c ((s.core c).cycle % 16)).unshade c).bestReady c with
  | none => simp only [hback, Bool.false_eq_true, if_false]
  | some t => simp only [hback, hstays t hb, Bool.false_eq_true, if_false]

theorem State.turn_displaced {o t : Thread} (ho : (s.turnStart c).occupant c (s.turnSlot c) = some o)
    (hback : s.heldBack c o = false) (hbest : (s.turnStart c).bestReady c = some t) (hlt : o.eprio < t.eprio)
    (hleast : o.eprio = (s.turnStart c).leastPrio c) :
    s.turn c = some (((s.turnStart c).putThread
      { o with life := .ready, readyAt := readyStamp (s.core c).cycle false, consec := 0 }).giveTurn
        c (s.turnSlot c) t true) := by
  have hgoes : (decide (o.eprio < t.eprio) && o.eprio == (s.turnStart c).leastPrio c) = true := by
    rw [← hleast]
    simp [hlt]
  unfold State.turnStart State.turnSlot State.heldBack at *
  simp only [State.turn, hon, htrip, hdue, hr, ho, hbest, hback, hgoes, Bool.not_true, Bool.or_self, Bool.false_eq_true,
    if_false, if_true]

theorem State.turn_refilled {t : Thread} (ho : (s.turnStart c).occupant c (s.turnSlot c) = none)
    (hbest : (s.turnStart c).bestReady c = some t) :
    s.turn c = some ((s.turnStart c).giveTurn c (s.turnSlot c) t true) := by
  unfold State.turnStart State.turnSlot at *
  simp [State.turn, hon, htrip, hdue, hr, ho, hbest]

theorem State.turn_free (ho : (s.turnStart c).occupant c (s.turnSlot c) = none)
    (hbest : (s.turnStart c).bestReady c = none) :
    ∃ reason, s.turn c = some ((s.turnStart c).loseTurn c reason) := by
  unfold State.turnStart State.turnSlot at *
  exact ⟨_, by simp [State.turn, hon, htrip, hdue, hr, ho, hbest]; rfl⟩

end

/-! ### A line that arrives -/

theorem State.thread?_modThread_idle {s : State} {tid : Nat} {t : Thread} {f : Thread → Thread} (hb : s.busy = false)
    (h : s.thread? tid = some t) : (s.modThread tid f).thread? tid = some (f t) := by
  have ht : tabGet s.threads tid = some t := (State.thread?_idle hb).symm.trans h
  rw [State.thread?_idle ((State.modThread_busy ..).trans hb), State.modThread, hb, ht]
  exact tabGet_tabSet_same _ _ _

/-- A wake of a thread ends its wait; its lines and its registers stay. -/
theorem State.thread?_wake {s : State} {tid : Nat} {t : Thread} (hb : s.busy = false) (h : s.thread? tid = some t) :
    ∃ v, (s.wake tid).thread? tid = some v ∧ v.wait = none ∧ v.lines = t.lines ∧ v.l = t.l ∧ v.dv = t.dv ∧
      v.dfull = t.dfull := by
  refine ⟨_, State.thread?_modThread_idle hb h, ?_⟩
  extract_lets u
  have hkept : u.wait = none ∧ u.lines = t.lines ∧ u.l = t.l ∧ u.dv = t.dv ∧ u.dfull = t.dfull :=
    ⟨rfl, rfl, rfl, rfl, rfl⟩
  split
  · exact hkept
  · split
    · exact hkept
    · split
      · exact hkept
      · exact hkept

/-- The line that is put in place of what is held at its address is the one found there. -/
theorem find?_lines_replaced {l : List HeldLine} {h : HeldLine} :
    ((l.filter fun x => x.addr != h.addr) ++ [h]).find? (fun x => x.addr == h.addr) = some h := by
  have hnone : (l.filter fun x => x.addr != h.addr).find? (fun x => x.addr == h.addr) = none :=
    List.find?_eq_none.mpr fun x hx => by simpa using (List.mem_filter.mp hx).2
  simp [List.find?_append, hnone]

/-- The line stands in the buffer of the thread, whose wait for it has ended. -/
theorem State.putLine_lineAt {s : State} {t : Thread} {a : Word} {b : Line} {bad : Option (Cause × Word × Word)}
    {again : Bool} (hb : s.busy = false) : ∃ v, (s.putLine t a b bad again).thread? t.tid = some v ∧
      v.lineAt a = some ⟨a, b, bad, again, (t.lineAt a).any (·.issued), none⟩ := by
  unfold State.putLine
  extract_lets rest issued u
  have hissued : issued = (t.lineAt a).any (·.issued) := by
    unfold issued
    cases t.lineAt a <;> rfl
  have hlines : rest ++ [⟨a, b, bad, again, issued, none⟩] =
      (t.lines.filter fun h => h.addr != a) ++ [⟨a, b, bad, again, (t.lineAt a).any (·.issued), none⟩] := by
    rw [hissued]
  have hbu : u.busy = false := (State.putThread_busy ..).trans hb
  have hu : u.thread? t.tid = some { t with lines := rest ++ [⟨a, b, bad, again, issued, none⟩] } := by
    rw [State.thread?_idle hbu]
    unfold u
    rw [State.putThread_idle hb]
    exact tabGet_tabSet_same _ _ _
  obtain ⟨v, hv, hvl⟩ : ∃ v, (if a = lineAddr t.pc && (t.waitsFor 4 3 || t.waitsFor 15 3 || t.waitsFor 4 6) then
      u.wake t.tid else u).thread? t.tid = some v ∧ v.lines = rest ++ [⟨a, b, bad, again, issued, none⟩] := by
    split
    · obtain ⟨v, hv, -, hlines, -⟩ := State.thread?_wake hbu hu
      exact ⟨v, hv, hlines⟩
    · exact ⟨_, hu, rfl⟩
  refine ⟨v, hv, ?_⟩
  rw [Thread.lineAt, hvl, hlines]
  exact find?_lines_replaced (h := ⟨a, b, bad, again, _, none⟩)

theorem State.putLine_mem {s : State} {t : Thread} {a : Word} {b : Line} {bad : Option (Cause × Word × Word)}
    {again : Bool} : (s.putLine t a b bad again).mem = s.mem :=
  State.MemHas.putLine (P := fun m => m = s.mem) rfl

/-- The state that a turn of an idle machine starts from is idle. -/
theorem State.turnStart_busy {s : State} {c : Nat} : (s.turnStart c).busy = s.busy :=
  State.unshade_busy.trans State.takePrio_busy

theorem exec_turn_of_some {s t : State} {c : Nat} (hb : s.busy = false) (h : s.turn c = some t) :
    exec (.turn c) s = .next t :=
  event_of_some (f := fun s => s.turn c) hb h

/-- A line that is asked for and can be read arrives. -/
theorem exec_fetchLineArrival_of_got {s : State} {n : Nat} {t : Thread} {a : Word} {again : Bool} {b : Line}
    {bad : Option (Cause × Word × Word)} (hb : s.busy = false)
    (hasked : (s.threads.flatMap fun (_, t) => t.wanted.map fun (a, r) => (t, a, r))[n %
      (s.threads.flatMap fun (_, t) => t.wanted.map fun (a, r) => (t, a, r)).length]? = some (t, a, again))
    (hread : s.readLine t a = .got b bad) : exec (.fetchLineArrival n) s = .next (s.putLine t a b bad again) := by
  change execFetchLineArrival n s = _
  refine event_of_some hb ?_
  extract_lets l
  rw [show l[n % l.length]? = some (t, a, again) from hasked]
  simp only [hread]

/-- Settles O50: each clause is one way that `State.turn` goes, with what a turn given or lost leaves. -/
theorem turnsFollowTheSlotCounter : Obligations.TurnsFollowTheSlotCounter := by
  unfold Obligations.TurnsFollowTheSlotCounter
  intro s c hb
  refine ⟨fun hon htrip hdue => ?_, fun n t a again b bad => ?_⟩
  · intro slot p Issues Lost Goes
    have hpb : p.busy = false := State.turnStart_busy.trans hb
    have hissues : ∀ o first, s.turn c = some (p.giveTurn c slot o first) →
        Issues o ((if first then 0 else o.consec) + 1) := fun o first h =>
      ⟨_, exec_turn_of_some hb h, rfl, rfl, rfl, State.giveTurn_mem⟩
    have hlost : ∀ q reason, q.busy = false → q.core c = p.core c → q.mem = p.mem →
        s.turn c = some (q.loseTurn c reason) → Lost q := fun q reason hq hcore hmem h =>
      ⟨_, exec_turn_of_some hb h, State.loseTurn_busy.trans hq, State.loseTurn_cycle.trans (by rw [hcore]),
        State.loseTurn_mem.trans hmem, State.loseTurn_threads⟩
    have hback : ∀ o, s.heldBack c o = false ↔ Goes o := fun o => by
      unfold State.heldBack Goes
      cases (s.core c).stopAll <;> cases o.alone <;> simp
    refine ⟨fun hown hshade => ?_, fun r hr => ?_, fun hr => ⟨fun o ho => ⟨fun hgo hbest => ?_,
      fun hgo r hbest hlt hleast => ?_, fun hstop => ?_⟩, fun ho => ⟨fun r hbest => ?_, fun hbest => ?_⟩⟩⟩
    case _ => exact (congrArg (State.unshade · c) (State.takePrio_of_own hown)).trans (State.unshade_of_none hshade)
    case _ =>
      have hturn := State.turn_reserved hon htrip hdue hr
      refine ⟨fun hstep => hissues r false ?_, fun hstep => hlost _ 14 (State.shadeTurn_busy.trans hpb)
        (congrArg (fun l => (tabGet l c).getD Core.reset) State.shadeTurn_cores) State.shadeTurn_mem ?_,
        fun t => State.shadeTurn_of_displaced hpb, State.shadeTurn_of_kept⟩
      · exact hturn.trans (congrArg some (if_pos hstep))
      · exact hturn.trans (congrArg some (if_neg (by simp [hstep])))
    case _ => exact hissues o false (State.turn_kept hon htrip hdue hr ho ((hback o).mpr hgo) hbest)
    case _ =>
      have hturn := State.turn_displaced hon htrip hdue hr ho ((hback o).mpr hgo) hbest hlt hleast
      refine ⟨⟨_, exec_turn_of_some hb hturn, rfl, rfl, rfl, ?_⟩, fun hne t ht => ?_⟩
      · exact State.MemHas.putThread (P := fun m => m = p.mem) rfl
      · obtain rfl : _ = t := Host.Outcome.next.inj ((exec_turn_of_some hb hturn).symm.trans ht)
        refine (State.thread?_giveTurn_other ((State.putThread_busy ..).trans hpb) hne).trans ?_
        rw [State.thread?_idle ((State.putThread_busy ..).trans hpb), State.putThread_idle hpb]
        exact tabGet_tabSet_same _ _ _
    case _ =>
      refine hlost p 14 hpb rfl rfl (State.turn_held hon htrip hdue hr ho ?_)
      exact (Bool.eq_false_or_eq_true _).resolve_right fun h => hstop ((hback o).mp h)
    case _ => exact hissues r true (State.turn_refilled hon htrip hdue hr ho hbest)
    case _ =>
      obtain ⟨reason, hturn⟩ := State.turn_free hon htrip hdue hr ho hbest
      exact hlost p reason hpb rfl rfl hturn
  · intro asked hasked hread
    obtain ⟨v, hv, hline⟩ := State.putLine_lineAt (t := t) (a := a) (b := b) (bad := bad) (again := again) hb
    exact ⟨_, v, exec_fetchLineArrival_of_got hb hasked hread, hv, hline, State.putLine_mem⟩

end Sys2Proof.Machine
end

section
/-! Messages reach their threads, but for a transfer that takes its target from a packet (O52). -/

namespace Sys2Proof.Machine

/-- The answered packet of one flit, a return PC, that thread 0 sent. -/
def linkPacket : Packet := { targetPacket with id := 1, flits := [(1, false)], ack := some true }

/-- A thread that runs CALLX with destination TXE and its target taken from RX: it waits for the answer to the packet
that carries its return PC. -/
def receivedCaller : Thread := { Thread.loaded with
  life := .waiting
  wait := some ⟨11, some (.txeTo 64 0), false, 0⟩
  packet := some ⟨0, [1]⟩
  rxRead := [(targetPacket, false)] }

/-- The caller, and the packet that it has sent. -/
def answeredCall : State := { State.reset with threads := [(0, receivedCaller)], pkts := [linkPacket] }

/-- The state from which the call moves on: the packet is answered, the caller is checked out, the event counted. -/
def answeredCallSent : State :=
  ((({ answeredCall with pkts := [] } : State).checkOut { receivedCaller with wait := none } false).updCur
    fun t => { t with packet := none }).countEvent 0 0x23 1

/-- What the thread 0 has read of packets, after an outcome. -/
def tableReadAfter (r : Host.Outcome State Fault Refusal) : Option (List (Packet × Bool)) :=
  match r with
  | .next s => (s.thread? 0).map (·.rxRead)
  | _ => none

/-- The model's call forgets what it read. -/
theorem packetAcknowledge_forgets : tableReadAfter (exec (.packetAcknowledge 0) answeredCall) = some [] := by
  decide +kernel

/-- The jump that the statement names keeps what was read. -/
theorem jumped_keeps_read : tableReadAfter (.next (answeredCallSent.jumped 64 (some 0)).boundary) =
    some [(targetPacket, false)] := by
  decide +kernel

/-- Refutes O52: where the answer to its packet ends a `CALLX TXE, RX`, the caller no longer lists the packet from which
it took its target; the state that the statement names, `State.jumped`, still lists it. -/
theorem not_messagesReachTheirThreads : ¬ Obligations.MessagesReachTheirThreads := by
  unfold Obligations.MessagesReachTheirThreads
  intro h
  obtain ⟨-, -, -, -, -, -, -, -, hanswer⟩ := h answeredCall 0 rfl
  obtain ⟨-, -, hcall, -⟩ := hanswer linkPacket receivedCaller true (.txeTo 64 0) false 0 (by decide +kernel)
    rfl rfl rfl rfl rfl
  have hjumped : exec (.packetAcknowledge 0) answeredCall = .next (answeredCallSent.jumped 64 (some 0)).boundary :=
    hcall rfl 64 0 rfl (by decide)
  have hread := packetAcknowledge_forgets
  rw [hjumped, jumped_keeps_read] at hread
  exact absurd hread (by decide)

end Sys2Proof.Machine
end

section
/-! Homes and banks serve their requests (O53). -/

namespace Sys2Proof.Machine

section
variable {s u : State}

/-! ### An event that finds nothing to do -/

theorem event_of_none {f : State → Option State} (hb : s.busy = false) (h : f s = none) : event f s = .next s := by
  simp [event, hb, h]

theorem isEmpty_of_getElem?_eq_some {α : Type} {l : List α} {i : Nat} {x : α} (h : l[i]? = some x) :
    l.isEmpty = false := by
  cases l with
  | nil => simp at h
  | cons y r => rfl

/-! ### Requests at their homes -/

section
variable {n : Nat}

theorem exec_homeOperation_of_some (hb : s.busy = false) (hu : s.homeArrives n = some u) :
    exec (.homeOperation n) s = .next u.actWrites.pendingSaves := by
  change execHomeOperation n s = _
  exact event_of_some hb (by simp only [hu, Option.map_some])

theorem exec_homeOperation_of_none (hb : s.busy = false) (hu : s.homeArrives n = none) :
    exec (.homeOperation n) s = .next s := by
  change execHomeOperation n s = _
  exact event_of_none hb (by simp only [hu, Option.map_none])

/-- The state once the request has left its channel. -/
def State.withoutReq (s : State) (i : Nat) : State := { s with reqs := removeAt s.reqs i }

variable {i : Nat} {q : Req}
  (hi : (s.readyReqs fun q => !isAppend q)[n % (s.readyReqs fun q => !isAppend q).length]? = some i)
  (hq : s.reqs[i]? = some q)
include hi hq

theorem State.homeArrives_scratchpad {c off : Nat} (hloc : q.loc = .sp c off) : s.homeArrives n =
    some ((s.withoutReq i).modCore c fun x => { x with queue := x.queue ++ [q] }) := by
  simp only [State.homeArrives, isEmpty_of_getElem?_eq_some hi, List.getD_eq_getElem?_getD, hi, Option.getD_some, hq,
    hloc, Bool.false_eq_true, if_false]
  rfl

section
variable {pa : Nat} (hloc : q.loc = .dev pa)
include hloc

theorem State.homeArrives_away (haway : (s.withoutReq i).elsewhere q.loc = true) :
    s.homeArrives n = (s.withoutReq i).awayArrives q := by
  unfold State.withoutReq at *
  rw [hloc] at haway
  simp only [State.homeArrives, isEmpty_of_getElem?_eq_some hi, List.getD_eq_getElem?_getD, hi, Option.getD_some, hq,
    hloc, haway, Bool.false_eq_true, if_false, if_true]

theorem State.homeArrives_register {off : Nat} (haway : (s.withoutReq i).elsewhere q.loc = false)
    (hreg : (s.withoutReq i).mgmtOf q.loc = some off) : s.homeArrives n = some ((s.withoutReq i).performReq q) := by
  unfold State.withoutReq at *
  rw [hloc] at haway hreg
  simp only [State.homeArrives, isEmpty_of_getElem?_eq_some hi, List.getD_eq_getElem?_getD, hi, Option.getD_some, hq,
    hloc, haway, hreg, Option.isSome_some, Bool.false_eq_true, if_false, if_true]

/-- At a slice the request is performed, or its line is absent. -/
theorem State.homeArrives_slice (haway : (s.withoutReq i).elsewhere q.loc = false)
    (hreg : (s.withoutReq i).mgmtOf q.loc = none) :
    s.homeArrives n = some (({ s.withoutReq i with choice := s.choice + 1 } : State).performReq q) ∨
      s.homeArrives n = some { s.withoutReq i with choice := s.choice + 1, missed := s.missed ++ [q] } := by
  unfold State.withoutReq at *
  rw [hloc] at haway hreg
  simp only [State.homeArrives, isEmpty_of_getElem?_eq_some hi, List.getD_eq_getElem?_getD, hi, Option.getD_some, hq,
    hloc, haway, hreg, Option.isSome_none, Bool.false_eq_true, if_false, State.choose]
  split
  · exact .inr rfl
  · exact .inl rfl

end

end

/-! ### Banks of a scratchpad -/

/-- No thread of the turn has the bank kept for it (log 70). -/
def State.bankOpen (s : State) (c b : Nat) : Bool :=
  !(s.core c).bankUsed.getLsbD b && (s.onCore c).all fun t =>
    !(t.life == .running ((s.core c).cycle % 16) && decide (3 ≤ t.forfeits) && t.lost.getLsbD b)

/-- A bank is kept where a thread of the list keeps it. -/
theorem getLsbD_foldl_lost (p : Thread → Bool) (l : List Thread) (m : BitVec 16) (b : Nat) :
    (l.foldl (fun m t => if p t then m ||| t.lost else m) m).getLsbD b =
      (m.getLsbD b || l.any fun t => p t && t.lost.getLsbD b) := by
  induction l generalizing m with
  | nil => simp
  | cons t r ih =>
    rw [List.foldl_cons, ih, List.any_cons]
    cases p t with
    | false => simp
    | true => simp [Bool.or_assoc]

theorem State.bankFree_eq {c : Nat} {q : Req} : s.bankFree c q = s.bankOpen c (bankOf q.loc) := by
  unfold State.bankFree State.bankOpen State.bankKept
  rw [BitVec.getLsbD_or, getLsbD_foldl_lost,
    show (0 : BitVec 16).getLsbD (bankOf q.loc) = false from BitVec.getLsbD_zero, Bool.false_or,
    Bool.not_or, List.not_any_eq_all_not]

theorem exec_queuedBankAccess_of_some {c : Nat} {q : Req} {rest : List Req} (hb : s.busy = false)
    (h : takeFirst (fun q => s.bankOpen c (bankOf q.loc)) (s.core c).queue = some (q, rest)) :
    exec (.queuedBankAccess c) s = .next ((s.modCore c fun x => { x with
      queue := rest, bankUsed := x.bankUsed ||| (1#16 <<< bankOf q.loc) }).performReq q).pendingSaves := by
  change execQueuedBankAccess c s = _
  refine event_of_some hb ?_
  simp only [State.bankServes, State.bankFree_eq, h, Option.map_some]

theorem exec_queuedBankAccess_of_none {c : Nat} (hb : s.busy = false)
    (h : takeFirst (fun q => s.bankOpen c (bankOf q.loc)) (s.core c).queue = none) :
    exec (.queuedBankAccess c) s = .next s := by
  change execQueuedBankAccess c s = _
  refine event_of_none hb ?_
  simp only [State.bankServes, State.bankFree_eq, h, Option.map_none]

/-! ### AADDs that a switch combines -/

/-- Two requests on their way that a switch may combine. -/
def State.Combines (s : State) (i j : Nat) (a b : Req) : Prop :=
  i ∈ s.readyReqs isAdd ∧ j ∈ s.readyReqs isAdd ∧ s.reqs[i]? = some a ∧ s.reqs[j]? = some b ∧ s.combinable a b = true

/-- The pairs that may combine, with what becomes of each. -/
def State.combinePairs (s : State) : List (Nat × Nat × Req) :=
  (s.readyReqs isAdd).flatMap fun i => (s.readyReqs isAdd).filterMap fun j => match s.reqs[i]?, s.reqs[j]? with
    | some a, some b => if s.combinable a b then some (i, j, a.combine b) else none
    | _, _ => none

theorem State.mem_combinePairs {i j : Nat} {q : Req} :
    (i, j, q) ∈ s.combinePairs ↔ ∃ a b, s.Combines i j a b ∧ q = a.combine b := by
  unfold State.combinePairs State.Combines
  constructor
  · intro h
    obtain ⟨i', hi, h⟩ := List.mem_flatMap.mp h
    obtain ⟨j', hj, h⟩ := List.mem_filterMap.mp h
    split at h
    · next a b ha hb =>
      split at h
      · next hc =>
        obtain ⟨rfl, rfl, rfl⟩ : i' = i ∧ j' = j ∧ a.combine b = q := by simpa using h
        exact ⟨a, b, ⟨hi, hj, ha, hb, hc⟩, rfl⟩
      · simp at h
    · simp at h
  · rintro ⟨a, b, ⟨hi, hj, ha, hb, hc⟩, rfl⟩
    exact List.mem_flatMap.mpr ⟨i, hi, List.mem_filterMap.mpr ⟨j, hj, by simp [ha, hb, hc]⟩⟩

/-- Where two requests may combine, two do. -/
theorem exec_requestCombine (hb : s.busy = false) {n : Nat} (h : ∃ i j a b, s.Combines i j a b) :
    ∃ i j a b, s.Combines i j a b ∧ exec (.requestCombine n) s =
      .next { s with reqs := removeAt (s.reqs.set (min i j) (a.combine b)) (max i j) } := by
  obtain ⟨i, j, a, b, hij⟩ := h
  have hmem := State.mem_combinePairs.mpr ⟨a, b, hij, rfl⟩
  have hlt : n % s.combinePairs.length < s.combinePairs.length := Nat.mod_lt _ (List.length_pos_of_mem hmem)
  obtain ⟨⟨i', j', q⟩, hx⟩ : ∃ x, s.combinePairs[n % s.combinePairs.length]? = some x :=
    ⟨_, List.getElem?_eq_getElem hlt⟩
  obtain ⟨a', b', hpair, rfl⟩ := State.mem_combinePairs.mp (List.mem_of_getElem? hx)
  refine ⟨i', j', a', b', hpair, ?_⟩
  change execRequestCombine n s = _
  refine event_of_some hb ?_
  change (match s.combinePairs[n % s.combinePairs.length]? with | none => none | some (i, j, q) => _) = _
  rw [hx]

/-! ### Lines that arrive -/

section
variable {n : Nat} {q : Req} (hb : s.busy = false) (hq : s.missed[n % s.missed.length]? = some q)
include hb hq

theorem exec_cacheLineFill (hlink : s.linkHolds (s.lineLink q.loc.key) = false) : exec (.cacheLineFill n) s = .next
    ((s.missed.filter fun (r : Req) => r.loc.key / 64 == q.loc.key / 64).foldl
      (fun (u : State) (r : Req) => u.performReq r)
      { s with missed := s.missed.filter fun (r : Req) => !(r.loc.key / 64 == q.loc.key / 64) }).pendingSaves := by
  change execCacheLineFill n s = _
  refine event_of_some hb ?_
  simp only [State.lineFills, isEmpty_of_getElem?_eq_some hq, hq, hlink, Bool.false_eq_true, if_false, Option.map_some,
    List.partition_eq_filter_filter]
  rfl

theorem exec_cacheLineFill_held (hlink : s.linkHolds (s.lineLink q.loc.key) = true) :
    exec (.cacheLineFill n) s = .next s := by
  change execCacheLineFill n s = _
  refine event_of_none hb ?_
  simp only [State.lineFills, isEmpty_of_getElem?_eq_some hq, hq, hlink, Bool.false_eq_true, if_false, if_true,
    Option.map_none]

end

/-! ### Markers and phases -/

theorem firstSome_append_of_none {α β : Type} {f : α → Option β} {l r : List α} (h : ∀ x ∈ l, f x = none) :
    firstSome f (l ++ r) = firstSome f r := by
  induction l with
  | nil => rfl
  | cons x l ih =>
    rw [List.cons_append, firstSome, h x List.mem_cons_self]
    exact ih fun y hy => h y (List.mem_cons_of_mem _ hy)

theorem State.markersDue_head {c t : Nat} {y : Phase} {r : List Nat} (h : s.markersDue c y = t :: r) :
    y.closed = true ∧ t ∈ y.answerable := by
  have ht : t ∈ s.markersDue c y := h ▸ List.mem_cons_self
  unfold State.markersDue at ht
  split at ht
  · next hclosed => exact ⟨hclosed, (List.mem_filter.mp ht).1⟩
  · simp at ht

theorem exec_phaseMarker {c t : Nat} {before after : List Phase} {y : Phase} {r : List Nat} (hb : s.busy = false)
    (hphases : (s.core c).phases = before ++ y :: after) (hbefore : ∀ z ∈ before, s.markersDue c z = [])
    (hdue : s.markersDue c y = t :: r) : exec (.phaseMarker c) s =
      .next ((if s.termReached c t then s else s.markerLost y.id).answerMarker y.id t) := by
  change execPhaseMarker c s = _
  refine event_of_some hb ?_
  unfold State.markerAnswered
  rw [hphases, firstSome_append_of_none fun z hz => by rw [hbefore z hz], firstSome, hdue]

/-- The first thread of a core whose release has all its phases. -/
def State.releaseDue (s : State) (c : Nat) : Option (Nat × Comp × Bool) :=
  firstSome (fun (_, t) => if t.core = c then t.released.map fun (k, a) => (t.tid, k, a) else none) s.threads

section
variable {c : Nat} (hb : s.busy = false)
include hb

theorem exec_phaseComplete_release {tid : Nat} {k : Comp} {acq : Bool} (hdue : s.releaseDue c = some (tid, k, acq)) :
    exec (.phaseComplete c) s = .next (s.withThread tid (afterRelease k acq)) := by
  change execPhaseComplete c s = _
  refine event_of_some hb ?_
  change (match s.releaseDue c with | some (tid, k, acq) => _ | none => _) = _
  rw [hdue]

/-- A phase that completes, where it frees no request of an own window and none in error. -/
theorem exec_phaseComplete_done (hdue : s.releaseDue c = none) (hdone : s.phaseDone c = some u)
    (herr : s.freedInError u = []) (hown : ∀ q ∈ s.freed u, q.ownHeld = false) :
    exec (.phaseComplete c) s = .next (match u.releaseDue c with
      | some (tid, k, acq) => u.withThread tid (afterRelease k acq)
      | none => u) := by
  have hnone : ((s.freed u).filter fun q => q.ownHeld && u.reqs.contains q) = [] :=
    List.filter_eq_nil_iff.mpr fun q hq => by simp [hown q hq]
  have hwhole : execPhaseComplete c s = event (fun s => match s.releaseDue c with
      | some (tid, k, acq) => some (s.withThread tid (afterRelease k acq))
      | none => match s.phaseDone c with
        | none => none
        | some t =>
          let u := t.raiseHeld (s.freedInError t)
          let t := u.performOwn ((s.freed t).filter fun q => q.ownHeld && u.reqs.contains q)
          match t.releaseDue c with
          | some (tid, k, acq) => some (t.withThread tid (afterRelease k acq))
          | none => some t) s := rfl
  change execPhaseComplete c s = _
  rw [hwhole]
  refine event_of_some hb ?_
  simp only [hdue, hdone, herr, State.raiseHeld, hnone, State.performOwn]
  cases u.releaseDue c with
  | none => rfl
  | some x => rfl

end

/-- The first phase of a core that has every answer completes: it goes, and memory stays. -/
theorem State.phaseDone_of_find {c : Nat} {y : Phase}
    (hy : ((s.core c).phases.find? fun y => y.closed && y.sent.all (fun (t, _) => y.answered.contains t) &&
      (s.notices.all fun m => m.req != some y.id)) = some y) :
    ∃ u, s.phaseDone c = some u ∧ (u.core c).phases = ((s.core c).phases.filter fun z => z.id != y.id) ∧
      u.mem = s.mem := by
  unfold State.phaseDone
  rw [hy]
  dsimp only
  refine ⟨_, rfl, ?_, State.MemHas.wakeWhere (P := fun m => m = s.mem) rfl⟩
  rw [State.core, State.wakeWhere_cores]
  exact congrArg Core.phases (s.core_modCore_same c fun x => { x with phases := x.phases.filter fun z => z.id != y.id })

/-! ### Appends and replays -/

theorem exec_entrepotAppendArrival {n i : Nat} {q : Req} (hb : s.busy = false)
    (hi : (s.readyReqs isAppend)[n % (s.readyReqs isAppend).length]? = some i) (hq : s.reqs[i]? = some q) :
    exec (.entrepotAppendArrival n) s = .next ((s.withoutReq i).performReq q) := by
  change execEntrepotAppendArrival n s = _
  refine event_of_some hb ?_
  simp only [State.appendArrives, hi, hq]
  rfl

/-- What a change of the priorities of threads, of their waits and of the edges leaves: memory, bin sets, replies, and
which threads there are. -/
structure State.Beside (s u : State) : Prop where
  mem : u.mem = s.mem
  bins : u.bins = s.bins
  replies : u.replies = s.replies
  threads : ∀ tid, (s.thread? tid).isSome = true → (u.thread? tid).isSome = true

theorem State.Beside.refl (s : State) : s.Beside s := ⟨rfl, rfl, rfl, fun _ h => h⟩

theorem State.Beside.trans {v : State} (h : s.Beside u) (h' : u.Beside v) : s.Beside v :=
  ⟨h'.mem.trans h.mem, h'.bins.trans h.bins, h'.replies.trans h.replies,
    fun tid ht => h'.threads tid (h.threads tid ht)⟩

theorem State.Beside.foldl {α : Type} {f : State → α → State} (l : List α) (hf : ∀ (u : State) x, u.Beside (f u x))
    (s : State) : s.Beside (l.foldl f s) :=
  List.foldlRecOn (motive := fun u => s.Beside u) _ _ (.refl s) fun u hu x _ => hu.trans (hf u x)

theorem State.thread?_modThread_isSome {tid i : Nat} {f : Thread → Thread} (hf : ∀ t, (f t).tid = t.tid)
    (h : (s.thread? i).isSome = true) : ((s.modThread tid f).thread? i).isSome = true := by
  unfold State.modThread
  split
  · unfold State.thread? at *
    rw [hf]
    split
    · rfl
    · next hcur => rwa [if_neg hcur] at h
  · split
    · next t ht =>
      unfold State.thread? at *
      dsimp only
      split
      · rfl
      · next hcur =>
        rw [if_neg hcur] at h
        by_cases hi : i = tid
        · rw [hi, tabGet_tabSet_same]
          rfl
        · rw [tabGet_tabSet_other _ _ _ _ hi]
          exact h
    · exact h

theorem State.Beside.modThread {tid : Nat} {f : Thread → Thread} (hf : ∀ t, (f t).tid = t.tid) :
    s.Beside (s.modThread tid f) :=
  ⟨State.modThread_mem .., State.modThread_bins .., State.modThread_replies ..,
    fun _ => State.thread?_modThread_isSome hf⟩

theorem State.Beside.wake {tid : Nat} : s.Beside (s.wake tid) :=
  .modThread fun t => by
    extract_lets u
    split
    · rfl
    · split
      · rfl
      · split
        · rfl
        · rfl

theorem State.Beside.wakeWhere {p : Thread → Bool} : s.Beside (s.wakeWhere p) := .foldl _ (fun _ _ => .wake) _

theorem State.Beside.refreshPrio {tid : Nat} : s.Beside (s.refreshPrio tid) := .modThread fun _ => rfl

theorem State.Beside.edges {l : List Edge} : s.Beside { s with edges := l } := ⟨rfl, rfl, rfl, fun _ h => h⟩

theorem State.Beside.holdIn {die tid obj : Nat} {name : Word} {side : Bool} :
    s.Beside (s.holdIn die tid obj name side) := by
  unfold State.holdIn
  extract_lets e
  split
  · exact .refl s
  · split
    · exact State.Beside.edges.trans .refreshPrio
    · exact ⟨rfl, rfl, rfl, fun _ h => h⟩

theorem State.Beside.syncHolds {obj : Nat} : s.Beside (s.syncHolds obj) := by
  unfold State.syncHolds
  split
  · exact .refl s
  · extract_lets s1 due gone left s2 s3
    have h3 : s.Beside s3 := (State.Beside.edges.trans State.Beside.edges).trans (.foldl _ (fun _ _ => .refreshPrio) _)
    exact (h3.trans (.foldl _ (fun _ _ => .holdIn) _)).trans (.foldl _ (fun _ _ => .refreshPrio) _)

/-- The indexes of the elements that a replay combines, each once. -/
def BinSet.indexes (b : BinSet) : List Nat := (b.recs.map (·.index)).foldl setInsert []

/-- The state of a bin set after its replay. -/
def BinSet.replayed (b : BinSet) : BinSet :=
  { b with recs := [], dropped := 0, runner := none, skips := [], live := !b.runFree }

theorem State.replayRun_eq {n k tid : Nat} {b : BinSet} {r : Replayed}
    (hk : (s.bins.filter fun x => x.2.runner.isSome && !x.2.paused)[n %
      (s.bins.filter fun x => x.2.runner.isSome && !x.2.paused).length]? = some (k, b)) (hrun : b.runner = some tid)
    (hmapped : ∀ i ∈ b.indexes, b.skips.contains (binRegion b.desc i) = true ∨ s.binLoc b i ≠ none)
    (hlines : b.indexes.any (s.binWaits b) = false)
    (hall : s.combineAll (k / 64) b b.indexes ⟨0, false, false, false⟩ = (r, u)) :
    s.replayRun n = (let v := (State.wakeWhere { u with bins := tabSet u.bins k b.replayed } fun t =>
        t.waitsFor 12 (binObject k)).syncHolds (binObject k)
      if (v.thread? tid).isSome then some (v.answer tid 0 (.ok (replayStatus r b.dropped) 0) 0 (entrLoc (k / 64)).key)
      else some v) := by
  have hfind : (b.indexes.find? fun i => !b.skips.contains (binRegion b.desc i) && (s.binLoc b i).isNone) = none :=
    List.find?_eq_none.mpr fun i hi => by
      rcases hmapped i hi with hskip | hloc
      · simp only [hskip, Bool.not_true, Bool.false_and, Bool.false_eq_true, not_false_eq_true]
      · simp [hloc]
  unfold BinSet.indexes at *
  have hl : ∀ l : List (Nat × BinSet), l = (s.bins.filter fun x => x.2.runner.isSome && !x.2.paused) →
      l[n % l.length]? = some (k, b) := fun l h => h ▸ hk
  unfold State.replayRun
  extract_lets l
  simp only [hl l rfl, hfind, hlines, Bool.false_eq_true, if_false, hall, hrun]
  split
  · next x hx => exact (if_pos (congrArg Option.isSome hx)).symm
  · next hx => exact (if_neg (ne_true_of_eq_false (congrArg Option.isSome hx))).symm

theorem exec_ereplComplete {n k tid : Nat} {b : BinSet} {r : Replayed} (hb : s.busy = false)
    (hk : (s.bins.filter fun x => x.2.runner.isSome && !x.2.paused)[n %
      (s.bins.filter fun x => x.2.runner.isSome && !x.2.paused).length]? = some (k, b)) (hrun : b.runner = some tid)
    (hmapped : ∀ i ∈ b.indexes, b.skips.contains (binRegion b.desc i) = true ∨ s.binLoc b i ≠ none)
    (hlines : b.indexes.any (s.binWaits b) = false)
    (hall : s.combineAll (k / 64) b b.indexes ⟨0, false, false, false⟩ = (r, u)) (ht : (u.thread? tid).isSome = true) :
    ∃ v no, exec (.ereplComplete n) s = .next v ∧ v.mem = u.mem ∧ tabGet v.bins k = some b.replayed ∧
      v.replies = u.replies ++ [⟨tid, 0, .ok (replayStatus r b.dropped) 0, 0, (entrLoc (k / 64)).key, no⟩] := by
  obtain ⟨w, hw⟩ : ∃ w, w = (State.wakeWhere { u with bins := tabSet u.bins k b.replayed } fun t =>
      t.waitsFor 12 (binObject k)).syncHolds (binObject k) := ⟨_, rfl⟩
  have hbeside : State.Beside { u with bins := tabSet u.bins k b.replayed } w := by
    rw [hw]
    exact State.Beside.wakeWhere.trans .syncHolds
  have hrun' := State.replayRun_eq hk hrun hmapped hlines hall
  simp only [← hw, if_pos (hbeside.threads tid ht)] at hrun'
  refine ⟨_, w.stamp, event_of_some (f := (·.replayRun n)) hb hrun', (State.answer_mem ..).trans hbeside.mem, ?_, ?_⟩
  · rw [State.answer_bins, hbeside.bins]
    exact tabGet_tabSet_same _ _ _
  · rw [State.answer_replies, hbeside.replies]

/-! ### Partials of reductions -/

/-- The first other partial on its way of the same round, element and group. -/
def State.metBy (s : State) (i : Nat) (p : Partial) : Option Nat :=
  (s.partialsFree.filter (· != i)).find? fun j => (s.partials[j]?.map p.meets).getD false

/-- A partial that meets none reaches its root, unless the line there is on its way. -/
def State.partialAlone (s : State) (i : Nat) (p : Partial) : Option State :=
  if s.redHeld p then none
  else some (({ s with partials := removeAt s.partials i, choice := s.choice + 1 } : State).partialEnds p)

/-- Two partials that meet go on as one. -/
def State.partialsMerged (s : State) (i j : Nat) (p x : Partial) : State :=
  { s with
    choice := s.choice + 1
    partials := { x with
      acc := redMerge (((s.group? p.handle p.launch).map fun g => g.2.cfg).getD 0) x.acc p.acc
      who := x.who ++ p.who, more := x.more ++ p.srcs } :: removeAt (removeAt s.partials (max i j)) (min i j) }

section
variable {n i : Nat} {p : Partial} (hi : s.partialsFree[n % s.partialsFree.length]? = some i)
  (hp : s.partials[i]? = some p)
include hi hp

theorem State.partialMoves_alone (hmet : s.metBy i p = none) : s.partialMoves n = s.partialAlone i p := by
  unfold State.metBy at hmet
  simp only [State.partialMoves, hi, hp, State.choose, hmet, Option.bind_none]
  split
  · next heq => exact absurd heq (by simp)
  · rfl

theorem State.partialMoves_met {j : Nat} {x : Partial} (hmet : s.metBy i p = some j) (hx : s.partials[j]? = some x) :
    s.partialMoves n = s.partialAlone i p ∨ s.partialMoves n = some (s.partialsMerged i j p x) := by
  unfold State.metBy at hmet
  simp only [State.partialMoves, hi, hp, State.choose, hmet, Option.bind_some, hx, Option.map_some]
  split
  · next heq =>
    obtain ⟨rfl, rfl⟩ := Prod.mk.inj (Option.some.inj heq)
    refine .inr (congrArg some ?_)
    unfold State.partialsMerged
    cases hg : s.group? p.handle p.launch with
    | none => rw [show State.group? { s with choice := s.choice + 1 } p.handle p.launch = none from hg]; rfl
    | some g => rw [show State.group? { s with choice := s.choice + 1 } p.handle p.launch = some g from hg]; rfl
  · exact .inl rfl

end

theorem exec_reductionPartial {n : Nat} (hn : n < 2 ^ 16) :
    exec (.reductionPartial n) s = event (·.partialMoves n) s := by
  change execReductionPartial n s = _
  simp only [execReductionPartial, if_pos hn]

theorem event_partialAlone {f : State → Option State} {i : Nat} {p : Partial} (hb : s.busy = false)
    (hf : f s = s.partialAlone i p) :
    if s.redHeld p then event f s = .next s
    else event f s = .next
      (({ s with partials := removeAt s.partials i, choice := s.choice + 1 } : State).partialEnds p) := by
  unfold State.partialAlone at hf
  split
  · next h => exact event_of_none hb (by rw [hf, if_pos h])
  · next h => exact event_of_some hb (by rw [hf, if_neg h])

end

/-- Settles O53: a clause for each event at a home, a bank, a switch or a root. -/
theorem homesServeTheirRequests : Obligations.HomesServeTheirRequests := by
  unfold Obligations.HomesServeTheirRequests
  intro s n hb
  refine ⟨fun l i q hl hi hq => ?_, ?_, fun hpair => exec_requestCombine hb hpair, fun q hq =>
    ⟨exec_cacheLineFill hb hq, exec_cacheLineFill_held hb hq⟩, fun before y after t r hphases hbefore hdue => ?_, ?_,
    fun l i q hl hi hq => ?_, fun k b tid r u t hk hrun => ?_, fun i p hn hi hp => ?_, fun p pa hroot => ?_⟩
  case refine_1 =>
    intro s1 Ends
    subst hl
    have hends : ∀ u, s.homeArrives n = some u → Ends u := fun u => exec_homeOperation_of_some hb
    refine ⟨fun pa hloc => ⟨fun haway => ?_, fun haway => ⟨fun off hreg => ?_, fun hreg => ?_⟩⟩, fun c off hloc => ?_⟩
    · have hgoes : s.homeArrives n = s1.awayArrives q := State.homeArrives_away hi hq hloc haway
      exact ⟨fun u hu => hends u (hgoes.trans hu), fun hnone => exec_homeOperation_of_none hb (hgoes.trans hnone)⟩
    · exact hends _ (State.homeArrives_register hi hq hloc haway hreg)
    · exact (State.homeArrives_slice hi hq hloc haway hreg).imp (hends _) (hends _)
    · exact hends _ (State.homeArrives_scratchpad hi hq hloc)
  case refine_2 =>
    intro free
    exact ⟨fun q rest h => exec_queuedBankAccess_of_some hb h, exec_queuedBankAccess_of_none hb⟩
  case refine_3 =>
    obtain ⟨hclosed, ht⟩ := State.markersDue_head hdue
    exact ⟨hclosed, ht, exec_phaseMarker hb hphases hbefore hdue⟩
  case refine_4 =>
    intro Due
    refine ⟨fun tid k acq hdue => exec_phaseComplete_release hb hdue, fun u hdue hdone herr hown => ?_,
      fun y hy => State.phaseDone_of_find hy⟩
    have hexec := exec_phaseComplete_done hb hdue hdone herr hown
    refine ⟨fun tid k acq hnext => ?_, fun hnext => ?_⟩
    · rw [hexec, show u.releaseDue n = some (tid, k, acq) from hnext]
    · rw [hexec, show u.releaseDue n = none from hnext]
  case refine_5 =>
    subst hl
    exact exec_entrepotAppendArrival hb hi hq
  case refine_6 =>
    intro hreplay ht
    obtain ⟨hmapped, hlines, hall⟩ := hreplay
    obtain ⟨v, no, hexec, hmem, hbins, hreplies⟩ :=
      exec_ereplComplete hb hk hrun hmapped hlines hall (by rw [ht]; rfl)
    exact ⟨v, _, no, hexec, hmem, hbins, rfl, rfl, rfl, hreplies⟩
  case refine_7 =>
    intro s1 ends stays meets same alone
    have halone : s.partialMoves n = s.partialAlone i p → alone := fun h => by
      have hcase := event_partialAlone (f := (·.partialMoves n)) hb h
      rw [← exec_reductionPartial hn] at hcase
      exact hcase
    refine ⟨fun hnone => halone (State.partialMoves_alone hi hp hnone), fun j x hsome hx => ?_⟩
    refine (State.partialMoves_met hi hp hsome hx).imp halone fun h => ?_
    rw [exec_reductionPartial hn]
    exact event_of_some hb h
  case refine_8 =>
    refine ⟨fun hfar => ?_, fun hnear => ?_⟩
    · simp only [State.partialEnds, hroot, if_pos hfar]
    · simp only [State.partialEnds, hroot, if_neg (Nat.not_le.mpr hnear)]

end Sys2Proof.Machine
end

section
/-! How an access is issued (O28): its operands are read in order, and then it is sent (07 R134, R135, R137, R141,
15 R294, R297). -/

namespace Sys2Proof.Machine

/-- An issued instruction is settled as its body has run. -/
theorem issue_of_run {g : Guard} {body : M Flow} {s : State} {r : Except Stop (Flow × State)}
    (hg : s.cur.guardOn g = true) (hr : body s = r) : issue g body s = .next (s.settle r) := by
  rw [issue_on _ _ _ hg, hr]

/-! ### The forms and the meanings -/

/-- The operands of an access are read, then it is sent. -/
def MemForm.body (x : MemForm) : M Flow := x.operands >>= fun p => send (x.ask p.1 p.2.1 p.2.2) x.comp

/-- Once its operands are read and its value is one that it accepts, `i` sends the access of `x`. -/
def MemForm.Issues (x : MemForm) (i : Instr) : Prop :=
  ∀ (s s1 : State) (a e c : Word), s.cur.guardOn x.g = true → Gives x.operands s (a, e, c) s1 → x.cOk c = true →
    exec i s = .next (s.settle (send (x.ask a e c) x.comp s1))

theorem MemForm.Issues.of_body {x : MemForm} {i : Instr} (hi : ∀ s, exec i s = issue x.g x.body s) : x.Issues i := by
  intro s s1 a e c hg ho _
  exact (hi s).trans (issue_of_run hg (bind_ok _ _ _ _ _ ho))

/-- A write of an Sn that was not written before a source was read was not written after it either. -/
theorem checkDst_before_readS {r : SReg} {d : Dst} {s s1 s2 : State} {v : Word} (hr : Gives (readS r) s v s1)
    (hd : Gives (checkDst d) s1 () s2) : Gives (checkDst d) s () s := by
  have hswr : s1.cur.swr = s.cur.swr :=
    Thread.of_part (part := Thread.context) (·.swr) (Reads.readS r s s1 v hr).context fun _ => rfl
  cases d with
  | s n =>
    unfold Gives checkDst at hd ⊢
    rw [hswr] at hd
    dsimp only at hd ⊢
    split at hd
    · cases hd
    · next hclear => rw [if_neg hclear]
  | _ => rfl

section
variable {i : Instr} {x : MemForm} {g : Guard} {d : Dst} {m : MemOp} {opc align : Nat} {acc : Access} {sc : Scope}

theorem loadForm_issues {op : HomeOp} {acq : Bool} {k : Comp}
    (hi : ∀ s, exec i s = issue g (do
      checkDst d
      let a ← memAddr m
      send ⟨opc, a, align, acc, sc, op, false, acq⟩ (some k)) s)
    (hx : loadForm g d m opc align acc sc op acq k = some x) : x.Issues i := by
  cases hx
  exact .of_body fun s => by simp [hi, MemForm.body, MemForm.operands, MemForm.ask, readOpt]

theorem storeForm_issues {c : SReg} {op : Word → HomeOp} {rel : Bool} {k : Option Comp}
    (hi : ∀ s, exec i s = issue g (do
      let a ← memAddr m
      let v ← readS c
      send ⟨opc, a, align, acc, sc, op v, rel, false⟩ k) s)
    (hx : storeForm g m c opc align acc sc op rel k = some x) : x.Issues i := by
  cases hx
  have hzero : checkDst .zero = pure () := rfl
  exact .of_body fun s => by simp [hi, MemForm.body, MemForm.operands, MemForm.ask, readOpt, hzero]

theorem atomForm_issues {c : SReg} {z : Size} {ord : Ord} {f : AtomFn}
    (hi : ∀ s, exec i s = atomic g d m c z ord sc opc f s)
    (hx : atomForm g d m c z ord sc opc f = some x) : x.Issues i := by
  cases hx
  refine .of_body fun s => (hi s).trans ?_
  have hz : sizeBytes z = bytesOf z := rfl
  have hord : ordRel ord = releases ord ∧ ordAcq ord = acquires ord := ⟨rfl, rfl⟩
  simp [atomic, accAtomic, MemForm.body, MemForm.operands, MemForm.ask, readOpt, hz, hord]

theorem cas_issues {o : OpCas} (hx : memForm (.cas o) = some x) : x.Issues (.cas o) := by
  cases hx
  refine .of_body fun s => ?_
  have hi : exec (.cas o) s = execCas o s := rfl
  have hz : sizeBytes o.sz = bytesOf o.sz := rfl
  have hord : ordRel o.ord = releases o.ord ∧ ordAcq o.ord = acquires o.ord := ⟨rfl, rfl⟩
  have hzero : checkDst .zero = pure () := rfl
  simp [hi, execCas, accAtomic, MemForm.body, MemForm.operands, MemForm.ask, readOpt, hz, hord, hzero]

/-- An object instruction without a value operand. -/
theorem objForm_issues {op : ObjOp} {rel : Bool} (hi : ∀ s, exec i s = issue g (object opc m sc rel d op) s)
    (hx : objForm g d m none (fun _ => true) sc opc (fun _ => op) rel = some x) : x.Issues i := by
  cases hx
  exact .of_body fun s => by
    simp [hi, object, accTag, MemForm.body, MemForm.operands, MemForm.ask, readOpt]

/-- An object instruction whose value operand is read first. -/
theorem objForm_issues_value {c : SReg} {cOk : Word → Bool} {op : Word → ObjOp} {rel : Bool}
    (hi : ∀ s s1 v, s.cur.guardOn g = true → Gives (readS c) s v s1 → Gives (checkDst d) s () s → cOk v = true →
      exec i s = .next (s.settle (object opc m sc rel d (op v) s1)))
    (hx : objForm g d m (some c) cOk sc opc op rel = some x) : x.Issues i := by
  cases hx
  intro s s1 a e v hg ho hv
  obtain ⟨v', s2, hread, hrest⟩ := bind_inv _ _ _ _ _ ho
  obtain ⟨_, s3, hcheck, hrest⟩ := bind_inv _ _ _ _ _ hrest
  obtain ⟨a', s4, haddr, hlast⟩ := bind_inv _ _ _ _ _ hrest
  cases hlast
  rw [hi s s2 v hg hread (checkDst_before_readS hread hcheck) hv, object, bind_ok _ _ _ _ _ hcheck,
    bind_ok _ _ _ _ _ haddr]
  rfl

end

/-- Every memory and object instruction sends the access of its form. -/
theorem memForm_issues {i : Instr} {x : MemForm} (hx : memForm i = some x) : x.Issues i := by
  cases i
  case ld | ldp | take | ldf | tagr => exact loadForm_issues (fun _ => rfl) hx
  case st | stn | put | putWait | tagw => exact storeForm_issues (fun _ => rfl) hx
  case aadd | aand | aor | axor | amin | amax | aminu | amaxu | axchg | afadd =>
    exact atomForm_issues (fun _ => rfl) hx
  case barr | barw | bwait | bdrop | bpois | lki | lkacq | lktry | lkrel | qpop | wreg | whold | wdrop | wunreg |
      ofree =>
    exact objForm_issues (fun _ => rfl) hx
  case cas => exact cas_issues hx
  case bari =>
    refine objForm_issues_value (fun s s1 v hg hread _ hv => issue_of_run hg ?_) hx
    have hcount : (decide (1 ≤ v.toNat) && decide (v.toNat ≤ 4095)) = true := by simpa using hv
    rw [bind_ok _ _ _ _ _ hread, hcount, bind_ok _ _ _ _ _ (orTrap_true _ _ _ s1)]
  case qi | qpush =>
    exact objForm_issues_value (fun s s1 v hg hread _ _ => issue_of_run hg (bind_ok _ _ _ _ _ hread)) hx
  case wwait | wwaitNb =>
    refine objForm_issues_value (fun s s1 v hg hread hd _ => issue_of_run hg ?_) hx
    exact (bind_ok _ _ _ _ _ hd).trans (bind_ok _ _ _ _ _ hread)
  case wqry o =>
    obtain ⟨g, d, m, sel, sc⟩ := o
    cases sel
    case clen | cobj | cfam => cases hx
    all_goals exact objForm_issues (fun _ => rfl) hx
  all_goals cases hx

/-! ### What a form that is issued does -/

/-- An access off its alignment traps before anything else (07 R135). -/
theorem send_misaligned {k : Ask} {c : Option Comp} {s : State} (h : k.a.toNat % k.align ≠ 0) :
    send k c s = .error (.trap .misaligned (some k.a) (some (BitVec.ofNat 64 k.acc.kind.toNat)) s) := by
  have hinfo : kindWord k.acc + BitVec.ofNat 64 (0 * 2 ^ 8) = BitVec.ofNat 64 k.acc.kind.toNat := by
    rw [kindWord, Nat.zero_mul]
    exact (BitVec.add_zero _).trans (BitVec.ofNat_toNat _ _).symm
  have haligned : (k.a.toNat % k.align == 0) = false := by simpa using h
  have hlocate : locate k.a k.align k.acc k.sc 0 s =
      .error (.trap .misaligned (some k.a) (some (BitVec.ofNat 64 k.acc.kind.toNat)) s) := by
    rw [← hinfo, locate, bind_ok _ _ _ _ _ (get_run s), haligned]
    exact bind_error _ _ _ _ (orTrap_false _ _ _ s)
  exact bind_error _ _ _ _ hlocate

/-- What completes an access goes on in sequence, or waits for a packet to leave. -/
theorem finish_flow {k : Comp} {v0 v1 : Word} {acq : Bool} {s t : State} {fl : Flow}
    (h : Gives (finish k v0 v1 acq) s fl t) : fl = .seq ∨ (fl = .held ∧ t.cur.waitReason = 11) := by
  obtain ⟨_, s1, -, h⟩ := bind_inv _ _ _ _ _ h
  cases k
  case reg | erepl => exact writeD_flow _ _ _ _ _ h
  case objD | regPred | regTag =>
    obtain ⟨_, s2, -, h⟩ := bind_inv _ _ _ _ _ h
    exact writeD_flow _ _ _ _ _ h
  case mona | chkpt =>
    obtain ⟨_, s2, -, h⟩ := bind_inv _ _ _ _ _ h
    cases h
    exact .inl rfl
  all_goals
    cases h
    exact .inl rfl

theorem settle_completed {s t : State} {fl : Flow} (h : fl = .seq ∨ (fl = .held ∧ t.cur.waitReason = 11)) :
    s.settle (.ok (fl, t)) = t.finished fl := by
  rcases h with rfl | ⟨rfl, h11⟩
  · rfl
  · simp [State.settle, State.finished, State.waitBarred, h11]

/-- An access that leaves the turn: its thread waits for the reply, or goes on where it is posted. -/
theorem settle_send_leaves {k : Ask} {c : Option Comp} {s s1 s2 : State} {l : Loc} {own : Bool} {held : List PhaseId}
    (hpacket : s.cur.packet = none) (hl : Gives (locate k.a k.align k.acc k.sc 0) s1 (l, own) s1)
    (hb : Gives (boardCheck k.a k.op.len k.op.stores) s1 () s1) (hr : Released k s1 held s2)
    (hleaves : Leaves own c.isNone held s1) :
    let q := s2.request k l c.isNone false 0 held
    s.settle (send k c s1) = match (generalizing := false) c, own with
      | some c', _ => { s2 with reqs := s2.reqs ++ [q] }.heldFor 4 c' k.acq
      | none, true => { s2 with reqs := s2.reqs ++ [q] }.heldFor 4 .unit k.acq
      | none, false =>
        let p := s2.countSent q.src q.scope (s2.termOf q.loc q.scope)
        State.finished { p.2 with reqs := p.2.reqs ++ [{ q with phase := some p.1 }] } .seq := by
  intro q
  rw [send_leaves k c s1 s2 l own held hl hb hr hleaves]
  cases c with
  | some c' => exact settle_heldFor _ _ _ _ _ _ hpacket
  | none =>
    cases own with
    | true => exact settle_heldFor _ _ _ _ _ _ hpacket
    | false => rfl

section
variable {x : MemForm} {i : Instr} (hi : x.Issues i)
include hi

theorem MemForm.Issues.sends : x.sends i := by
  intro s s1 s2 a e c l own held hg hpacket ho hc hl hb hr
  dsimp only
  intro hleaves
  rw [hi s s1 a e c hg ho hc, settle_send_leaves (k := x.ask a e c) hpacket hl hb hr hleaves]
  cases x.comp <;> cases own <;> rfl

theorem MemForm.Issues.ownWindow : x.ownWindow i := by
  intro s s1 s2 s3 t a e c v0 v1 l fl hg ho hc hl hb hr q hpending hbank hperform
  rw [hi s s1 a e c hg ho hc, send_own (x.ask a e c) x.comp s1 s2 s3 l v0 v1 hl hb hr hpending hbank hperform]
  cases x.comp with
  | none => rfl
  | some k => exact fun hfinish => congrArg _ ((congrArg _ hfinish).trans (settle_completed (finish_flow hfinish)))

theorem MemForm.Issues.misaligned : x.misaligned i := by
  intro s s1 a e c hg ho hc hoff
  rw [hi s s1 a e c hg ho hc, send_misaligned (k := x.ask a e c) hoff, settle_trap]
  rfl

end

/-- Settles O28: each instruction of a form reads its operands and sends its access, and what becomes of an access that
is sent is one lemma a way: it leaves, it is performed in the turn, or it traps. -/
theorem accessesAreSentOrComplete : Obligations.AccessesAreSentOrComplete :=
  ⟨fun _ _ hx => (memForm_issues hx).sends, fun _ _ hx => ⟨(memForm_issues hx).ownWindow, (memForm_issues hx).misaligned⟩⟩

end Sys2Proof.Machine
end

section
/-! What reads, stores, atomics and CAS do to a FULL word at its home (O30): 06 Table 6.3, R129, 07 R141, R142, R148. -/

namespace Sys2Proof.Machine

/-! ### Numbers of a size -/

theorem two_pow_sizeBits (z : Size) : 2 ^ sizeBits z = 256 ^ bytesOf z := Nat.pow_mul 2 8 (bytesOf z)

theorem sizeBits_pos (z : Size) : 0 < sizeBits z := by cases z <;> decide

theorem sizeBits_le (z : Size) : sizeBits z ≤ 64 := by cases z <;> decide

theorem Memory.loadN_lt (m : Memory) (k n : Nat) : m.loadN k n < 256 ^ n := by
  induction n generalizing k with
  | zero => simp [Memory.loadN]
  | succ j ih =>
    have hbyte := (m.byte k).isLt
    have hrest := ih (k + 1)
    rw [Memory.loadN, Nat.pow_succ']
    omega

/-- The low bits of a word, sign-extended, are their two's-complement value. -/
theorem sext_ofNat {n v : Nat} (hn : 0 < n) (h64 : n ≤ 64) (hv : v < 2 ^ n) :
    sext n (BitVec.ofNat 64 v) = BitVec.ofInt 64 (Int.bmod v (2 ^ n)) := by
  obtain ⟨j, rfl⟩ : ∃ j, n = j + 1 := ⟨n - 1, by omega⟩
  have hpow : 2 ^ (j + 1) ≤ 2 ^ 64 := Nat.pow_le_pow_right (by decide) h64
  have hhalf : 2 ^ (j + 1) = 2 * 2 ^ j := Nat.pow_succ'
  rw [sext, BitVec.toNat_ofNat, Nat.mod_eq_of_lt (by omega : v < 2 ^ 64), Nat.mod_eq_of_lt hv, Nat.add_sub_cancel]
  rw [hhalf] at hv hpow ⊢
  clear hhalf
  generalize 2 ^ j = m at hv hpow ⊢
  by_cases hlow : v < m
  · rw [if_pos hlow, Int.bmod_eq_of_le (by omega) (by omega), BitVec.ofInt_natCast]
  · have hneg : Int.bmod v (2 * m) = v - (2 * m : Nat) := by
      rw [← Int.sub_bmod_right]
      exact Int.bmod_eq_of_le (by omega) (by omega)
    rw [if_neg hlow, hneg]
    apply BitVec.eq_of_toNat_eq
    rw [BitVec.toNat_ofInt, BitVec.toNat_ofNat]
    omega

theorem sintN_ofNat {n v : Nat} (h64 : n ≤ 64) (hv : v < 2 ^ n) :
    sintN n (BitVec.ofNat 64 v) = if v < 2 ^ (n - 1) then (v : Int) else (v : Int) - 2 ^ n := by
  have hpow : 2 ^ n ≤ 2 ^ 64 := Nat.pow_le_pow_right (by decide) h64
  rw [sintN, BitVec.toNat_ofNat, Nat.mod_eq_of_lt (by omega : v < 2 ^ 64), Nat.mod_eq_of_lt hv]

/-- The function of an atomic is the row of Table 7.4. -/
theorem atomFn_eq {f : AtomFn} {n old x r : Nat} (h64 : n ≤ 64) (hold : old < 2 ^ n) (hx : x < 2 ^ n)
    (hr : atomResult f n old x = some r) : atomFn f n old x = r := by
  cases f
  case min | max =>
    cases hr
    simp only [atomFn, sintN_ofNat h64 hold, sintN_ofNat h64 hx]
  case fadd => cases hr
  all_goals
    cases hr
    rfl

/-! ### A store at a word -/

/-- From `s` to `t` the `n` bytes at `b` have become `v`, and the monitors of their line have been woken. -/
def State.Stores (s : State) (b n v : Nat) (t : State) : Prop :=
  t.mem.loadN b n = v % 256 ^ n ∧ (∀ a, a < b ∨ b + n ≤ a → t.mem.byte a = s.mem.byte a) ∧
    (∀ a, t.mem.tag a = s.mem.tag a) ∧
    (∀ e ∈ (s.homeMons (locOfKey (b / 8 * 8))).1, e.line = b / 64 →
      ∃ w ∈ t.wakes, w.tid = e.tid ∧ w.idx = e.idx ∧ w.line = e.line)

/-- A change at a word wakes each monitor of its line (06 R129). -/
theorem State.changed_wakes {s : State} {key : Nat} {e : MonEntry} (he : e ∈ (s.homeMons (locOfKey key)).1)
    (hline : e.line = key / 64) : ∃ w ∈ (s.changed key).wakes, w.tid = e.tid ∧ w.idx = e.idx ∧ w.line = e.line := by
  refine ⟨⟨e.tid, e.idx, e.line, s.stamp⟩, List.mem_append_right _ (List.mem_map.mpr ⟨e, ?_, rfl⟩), rfl, rfl, rfl⟩
  exact List.mem_append_left _ (List.mem_filter.mpr ⟨he, by simpa using hline⟩)

/-- A store at a FULL word. -/
def State.stored (s : State) (b n v : Nat) : State := (s.putBytes b n v).changed (b / 8 * 8)

theorem State.stores_stored (s : State) (b n v : Nat) : s.Stores b n v (s.stored b n v) :=
  ⟨Memory.loadN_storeN_same n s.mem b v, fun a ha => Memory.byte_storeN_outside n s.mem b a v ha,
    fun a => Memory.tag_storeN n s.mem b a v,
    fun _ he hline => State.changed_wakes (s := s.putBytes b n v) he (by omega)⟩

/-! ### The operations on a FULL word -/

section
variable {s : State} {q : Req} (hfull : s.mem.tag (q.loc.key / 8 * 8) = .full)
include hfull

theorem State.wordOp_read_full {z : Size} {sx : Bool} (hop : q.op = .read z sx) :
    s.wordOp q = (.done (.ok (if sx then sext (sizeBits z) (BitVec.ofNat 64 (s.mem.loadN q.loc.key (bytesOf z)))
      else BitVec.ofNat 64 (s.mem.loadN q.loc.key (bytesOf z))) 0), s) := by
  simp only [State.wordOp, hop, hfull]
  rfl

theorem State.wordOp_readP_full (hop : q.op = .readP) :
    s.wordOp q = (.done (.ok (s.mem.word (q.loc.key / 8 * 8)) 0), s) := by
  simp only [State.wordOp, hop, hfull]

theorem State.wordOp_write_full {z : Size} {v : Word} (hop : q.op = .write z v) :
    s.wordOp q = (.done (.ok 0 0), s.stored q.loc.key (bytesOf z) v.toNat) := by
  have hdata : (decide (z = .b64) && Tag.full == Tag.poison) = false := Bool.and_false _
  simp only [State.wordOp, hop, hfull, hdata]
  rfl

theorem State.wordOp_nib_full {hi : Bool} {v : Word} (hop : q.op = .nib hi v) :
    s.wordOp q = (.done (.ok 0 0), s.stored q.loc.key 1
      (if hi then (s.mem.byte q.loc.key).toNat % 16 + 16 * (v.toNat % 16)
        else (s.mem.byte q.loc.key).toNat / 16 * 16 + v.toNat % 16)) := by
  rw [Nat.mul_comm 16 (v.toNat % 16)]
  simp only [State.wordOp, hop, hfull]
  rfl

theorem State.wordOp_atom_full {f : AtomFn} {z : Size} {x : Word} (hop : q.op = .atom f z x) :
    s.wordOp q = (.done (.ok (BitVec.ofNat 64 (s.mem.loadN q.loc.key (bytesOf z))) 0),
      s.stored q.loc.key (bytesOf z)
        (atomFn f (sizeBits z) (s.mem.loadN q.loc.key (bytesOf z)) (x.toNat % 256 ^ bytesOf z))) := by
  rw [← two_pow_sizeBits]
  simp only [State.wordOp, hop, hfull]
  rfl

theorem State.wordOp_cas_full {z : Size} {e x : Word} (hop : q.op = .cas z e x) :
    s.wordOp q = if s.mem.loadN q.loc.key (bytesOf z) = e.toNat % 256 ^ bytesOf z
      then (.done (.ok (BitVec.ofNat 64 (s.mem.loadN q.loc.key (bytesOf z))) 1),
        s.stored q.loc.key (bytesOf z) x.toNat)
      else (.done (.ok (BitVec.ofNat 64 (s.mem.loadN q.loc.key (bytesOf z))) 0), s) := by
  rw [← two_pow_sizeBits]
  simp only [State.wordOp, hop, hfull]
  rfl

end

/-- Settles O30: each operation answers from the bytes of its word, and what it writes is a store at them. -/
theorem homeDataOperations : Obligations.HomeDataOperations := by
  unfold Obligations.HomeDataOperations
  intro s q hfull b Stores
  have hsize (z : Size) : s.mem.loadN b (bytesOf z) < 2 ^ sizeBits z := by
    rw [two_pow_sizeBits]
    exact s.mem.loadN_lt b (bytesOf z)
  refine ⟨fun z hop => State.wordOp_read_full hfull hop, fun z hop => ?_, State.wordOp_readP_full hfull,
    fun z v hop => ⟨_, State.wordOp_write_full hfull hop, s.stores_stored ..⟩,
    fun hi v hop => ⟨_, State.wordOp_nib_full hfull hop, s.stores_stored ..⟩, fun f z x r hop hr => ?_,
    fun x hop => ⟨_, State.wordOp_atom_full hfull hop, s.stores_stored ..⟩, fun z e x hop heq => ?_,
    fun z e x hop hne => ?_⟩
  · rw [State.wordOp_read_full hfull hop, if_pos rfl, sext_ofNat (sizeBits_pos z) (sizeBits_le z) (hsize z)]
    exact congrArg (fun m => (Ans.done (.ok (BitVec.ofInt 64 (Int.bmod _ m)) 0), s)) (two_pow_sizeBits z)
  · have hx : x.toNat % 256 ^ bytesOf z < 2 ^ sizeBits z := by
      rw [two_pow_sizeBits]
      exact Nat.mod_lt _ (Nat.pow_pos (by decide))
    rw [← atomFn_eq (sizeBits_le z) (hsize z) hx hr]
    exact ⟨_, State.wordOp_atom_full hfull hop, s.stores_stored ..⟩
  · exact ⟨_, (State.wordOp_cas_full hfull hop).trans (if_pos heq), s.stores_stored ..⟩
  · exact (State.wordOp_cas_full hfull hop).trans (if_neg hne)

end Sys2Proof.Machine
end

section
/-! FENCE (O32): it waits for the engines, closes its phases, and then raises what is deferred or completes (07 R138,
R147, 13 R259, 15 R298, R300, log 31). -/

namespace Sys2Proof.Machine

variable {s s1 : State} {held : List PhaseId}

/-- A step that is taken on a condition, and that changes nothing where it is taken. -/
theorem ite_bind_ok {α : Type} {b : Bool} {m : M Unit} {f : Unit → M α} (h : b = true → m s = .ok ((), s)) :
    (if b = true then m >>= f else f ()) s = f () s := by
  split
  · next hb => exact bind_ok _ _ _ _ _ (h hb)
  · rfl

/-- The phases that a release closes. -/
theorem closeIf_run {rel : Bool} {sc : Scope}
    (h : if rel then s.closePhases s.cur.core sc = some (held, s1) else held = [] ∧ s1 = s) :
    closeIf rel sc s = .ok (held, s1) := by
  cases rel with
  | false =>
    obtain ⟨rfl, rfl⟩ := h
    rfl
  | true =>
    rw [if_pos rfl] at h
    simp only [closeIf, if_true, closeAt, h]

/-- Closing phases leaves the issuing thread as it is, and so does closing none. -/
theorem closed_cur {rel : Prop} [Decidable rel] {sc : Scope}
    (h : if rel then s.closePhases s.cur.core sc = some (held, s1) else held = [] ∧ s1 = s) : s1.cur = s.cur := by
  split at h
  · exact closePhases_cur _ _ _ _ _ h
  · rw [h.2]

theorem enginesDone_of_busy {reason key : Nat} (h : ∃ e ∈ s.engines, e.tid = s.cur.tid) :
    enginesDone reason key s = .error (.wait reason key .nil) := by
  have hbusy : s.engineBusy s.cur.tid = true := by simpa [State.engineBusy] using h
  simp [enginesDone, hbusy]

theorem enginesDone_of_idle {reason key : Nat} (h : ∀ e ∈ s.engines, e.tid ≠ s.cur.tid) :
    enginesDone reason key s = .ok ((), s) := by
  have hidle : s.engineBusy s.cur.tid = false := by simpa [State.engineBusy] using h
  simp [enginesDone, hidle]

theorem raiseDeferred_of_none (h : s.cur.errRec = none) : raiseDeferred s = .ok ((), s) := by
  simp [raiseDeferred, h]

theorem raiseDeferred_of_some {r : ErrRec} (h : s.cur.errRec = some r) : raiseDeferred s = .error .deferred := by
  simp [raiseDeferred, h]

theorem raiseCopy_of_some {r : LateRec} (h : s.cur.copyRec = some r) : raiseCopy s =
    .error (.trap .copyFault (some r.id) (some r.first) (s.updCur fun t => { t with copyRec := none })) := by
  simp [raiseCopy, h]

theorem raiseCopy_of_none (h : s.cur.copyRec = none) : raiseCopy s = .ok ((), s) := by
  simp [raiseCopy, h]

theorem acquireIf_run (acq : Bool) :
    acquireIf acq s = .ok ((), if acq then s.updCur fun t => { t with lines := [] } else s) := by
  cases acq <;> rfl

/-! ### The parts of FENCE -/

section
variable {o : OpFence} (hg : s.cur.guardOn o.g = true)
include hg

theorem execFence_suspends (hpacket : s.cur.packet = none) (heng : o.eng = true)
    (hbusy : ∃ e ∈ s.engines, e.tid = s.cur.tid) : exec (.fence o) s = .next (s.suspended 8 0) := by
  refine (issue_on _ _ _ hg).trans ?_
  rw [if_pos heng, bind_error _ _ _ _ (enginesDone_of_busy hbusy), settle_wait hpacket]

/-- With no engine operation to wait for, FENCE closes its phases, and what it does then is settled. -/
theorem execFence_closes (hidle : o.eng = true → ∀ e ∈ s.engines, e.tid ≠ s.cur.tid)
    (hclosed : if releases o.ord then s.closePhases s.cur.core o.scope = some (held, s1) else held = [] ∧ s1 = s) :
    exec (.fence o) s = .next (s.settle
      (afterPhases held (.fence o.eng) (acquires o.ord) (fenceNow o.eng (acquires o.ord)) s1)) := by
  refine issue_of_run hg ?_
  exact (ite_bind_ok fun heng => enginesDone_of_idle (hidle heng)).trans (bind_ok _ _ _ _ _ (closeIf_run hclosed))

end

theorem afterPhases_held {next : Comp} {acq : Bool} {now : M Flow} (h : held ≠ []) :
    afterPhases held next acq now s = holdFor 4 0 (.release next held) acq s := by
  cases held with
  | nil => exact absurd rfl h
  | cons p r => rfl

theorem afterPhases_deferred {next : Comp} {acq : Bool} {now : M Flow} {r : ErrRec} (h : s.cur.errRec = some r) :
    afterPhases [] next acq now s = .error .deferred :=
  bind_error _ _ _ _ (raiseDeferred_of_some h)

theorem afterPhases_now {next : Comp} {acq : Bool} {now : M Flow} (h : s.cur.errRec = none) :
    afterPhases [] next acq now s = now s :=
  bind_ok _ _ _ _ _ (raiseDeferred_of_none h)

theorem fenceNow_copyFault {acq : Bool} {r : LateRec} (herr : s.cur.errRec = none) (h : s.cur.copyRec = some r) :
    fenceNow true acq s =
      .error (.trap .copyFault (some r.id) (some r.first) (s.updCur fun t => { t with copyRec := none })) := by
  rw [fenceNow, bind_ok _ _ _ _ _ (raiseDeferred_of_none herr), if_pos rfl]
  exact bind_error _ _ _ _ (raiseCopy_of_some h)

theorem fenceNow_completes {eng acq : Bool} (herr : s.cur.errRec = none) (h : eng = true → s.cur.copyRec = none) :
    fenceNow eng acq s = .ok (.seq, if acq then s.updCur fun t => { t with lines := [] } else s) := by
  rw [fenceNow, bind_ok _ _ _ _ _ (raiseDeferred_of_none herr)]
  exact (ite_bind_ok fun heng => raiseCopy_of_none (h heng)).trans (bind_ok _ _ _ _ _ (acquireIf_run acq))

/-- Settles O32: FENCE with engines to wait for, with phases, with a deferred error, with a copy fault, and with none. -/
theorem fencesOrderTheirThread : Obligations.FencesOrderTheirThread := by
  unfold Obligations.FencesOrderTheirThread
  intro o s hg hpacket
  refine ⟨execFence_suspends hg hpacket, fun hidle held s1 hclosed => ?_⟩
  have hcur : s1.cur = s.cur := closed_cur hclosed
  rw [execFence_closes hg hidle hclosed]
  refine ⟨fun hheld => ?_, fun hheld r herr => ?_, fun hheld herr heng r hcopy => ?_, fun hheld herr hcopy => ?_⟩
  · rw [afterPhases_held hheld, holdFor_run, settle_heldFor _ _ _ _ _ _ hpacket]
    rfl
  · subst hheld
    rw [afterPhases_deferred (hcur ▸ herr), State.settle, State.takeDeferred, herr]
  · subst hheld
    rw [afterPhases_now (hcur ▸ herr), heng, fenceNow_copyFault (hcur ▸ herr) hcopy, settle_trap]
  · subst hheld
    rw [afterPhases_now (hcur ▸ herr), fenceNow_completes (hcur ▸ herr) hcopy, settle_seq]

end Sys2Proof.Machine
end

section
/-! MONA, MOND and WAITM (O33): 06 R129, 07 R151, R152, Table 7.5, log 69. -/

namespace Sys2Proof.Machine

/-! ### Accesses to the own window, outside `send` -/

/-- A bank that no queued access has taken, or that has been lost three times, is the instruction's (06 R124). -/
theorem takeBank_run {l : Loc} {s : State}
    (h : (s.core s.cur.core).bankUsed.getLsbD (bankOf l) = false ∨ 3 ≤ s.cur.forfeits) :
    takeBank l s = .ok ((), s) := by
  unfold takeBank takeBanks
  rcases h with hfree | hlost
  · simp [bank_free _ _ hfree]
  · simp [Nat.not_lt.mpr hlost]

theorem ownAccess_performs {q : Req} {k : Comp} {acq : Bool} {s t : State} {v0 v1 : Word} (hheld : q.held = [])
    (hpending : s.wordPending q = false)
    (hbank : (s.core s.cur.core).bankUsed.getLsbD (bankOf q.loc) = false ∨ 3 ≤ s.cur.forfeits)
    (hperform : s.performOne q = (.done (.ok v0 v1), t)) :
    ownAccess q (some k) acq s = finish k v0 v1 acq t := by
  unfold ownAccess
  rw [bind_ok _ _ _ _ _ (get_run s), hheld, if_neg (by simp), if_neg (by simp [hpending])]
  unfold inTurn
  rw [bind_ok _ _ _ _ _ (takeBank_run hbank), bind_ok _ _ _ _ _ (get_run s), hperform]
  exact bind_ok _ _ _ _ _ (set_run t s)

/-! ### Monitors at their home -/

theorem State.setHomeMons_cur (s : State) (l : Loc) (m c : List MonEntry) : (s.setHomeMons l m c).cur = s.cur := by
  cases l <;> rfl

theorem State.setHomeMons_wakes (s : State) (l : Loc) (m c : List MonEntry) :
    (s.setHomeMons l m c).wakes = s.wakes := by
  cases l <;> rfl

theorem State.homeMons_setHomeMons (s : State) (l : Loc) (m c : List MonEntry) :
    (s.setHomeMons l m c).homeMons l = (m, c) := by
  cases l with
  | sp k off => simp [State.setHomeMons, State.homeMons, State.core, tabGet_tabSet_same]
  | dev pa =>
    have hslice (f : Slice → Slice) (n : Nat) : (s.modSlice n f).slice n = f (s.slice n) := by
      simp [State.slice, tabGet_tabSet_same]
    have hno (f : Slice → Slice) (n : Nat) : (s.modSlice n f).sliceNo pa = s.sliceNo pa := rfl
    simp [State.setHomeMons, State.homeMons, hslice, hno]

/-- A home with room in its table lists the monitor (06 R129). -/
theorem State.armAt_lists {s : State} {l : Loc} {tid i : Nat} (h : (s.homeMons l).1.length < 64) :
    s.armAt l tid i = (false,
      s.setHomeMons l ((s.homeMons l).1 ++ [⟨l.key / 64, tid, i, false⟩]) (s.homeMons l).2) := by
  unfold State.armAt
  cases l with
  | sp k off => exact if_pos h
  | dev pa => exact if_pos (h.trans (by decide : 64 < 4096))

theorem State.wordOp_mona {s : State} {q : Req} {i : Nat} (hop : q.op = .mona i)
    (h : (s.homeMons q.loc).1.length < 64) :
    s.wordOp q = (.done (.ok 0 0), s.setHomeMons q.loc
      ((s.homeMons q.loc).1 ++ [⟨q.loc.key / 64, q.tid, i, false⟩]) (s.homeMons q.loc).2) := by
  simp only [State.wordOp, hop, State.armAt_lists h]
  rfl

/-! ### Disarming -/

section
variable {s : State} {i : Nat}

theorem State.disarm_of_none (h : s.cur.mons.getD i none = none) : s.disarm i = s := by
  simp only [State.disarm, h]

theorem State.disarm_of_some {m : Mon} (h : s.cur.mons.getD i none = some m) :
    s.disarm i = (s.disarmAt m.line s.cur.tid i).updCur fun t => { t with mons := t.mons.set i none } := by
  simp only [State.disarm, h]

theorem State.disarmAt_cur (line tid : Nat) : (s.disarmAt line tid i).cur = s.cur := State.setHomeMons_cur ..

theorem State.disarmAt_wakes (line tid : Nat) :
    (s.disarmAt line tid i).wakes = s.wakes.filter fun w => !(w.tid == tid && w.idx == i) :=
  congrArg (List.filter _) (State.setHomeMons_wakes ..)

theorem State.disarm_mem : (s.disarm i).mem = s.mem := State.MemHas.disarm (P := fun m => m = s.mem) (.refl _)

theorem State.disarm_l : (s.disarm i).cur.l = s.cur.l := by
  cases h : s.cur.mons.getD i none with
  | none => rw [State.disarm_of_none h]
  | some m => rw [State.disarm_of_some h, State.updCur_cur, State.disarmAt_cur]

theorem State.disarm_mons {m : Mon} (h : s.cur.mons.getD i none = some m) :
    (s.disarm i).cur.mons = s.cur.mons.set i none := by
  rw [State.disarm_of_some h, State.updCur_cur, State.disarmAt_cur]

/-- The wakes of a disarmed monitor are dropped, and no other. -/
theorem State.disarm_wakes {m : Mon} (h : s.cur.mons.getD i none = some m) {w : Wake} (hw : w ∈ (s.disarm i).wakes) :
    w ∈ s.wakes ∧ ¬ (w.tid = s.cur.tid ∧ w.idx = i) := by
  rw [State.disarm_of_some h, State.updCur_wakes, State.disarmAt_wakes, List.mem_filter] at hw
  simpa [imp_iff_not_or] using hw

theorem State.disarm_free (j : Nat) (h : j = i ∨ s.cur.mons.getD j none = none) :
    (s.disarm i).cur.mons.getD j none = none := by
  cases hi : s.cur.mons.getD i none with
  | none =>
    rw [State.disarm_of_none hi]
    rcases h with rfl | h
    · exact hi
    · exact h
  | some m =>
    rw [State.disarm_mons hi]
    by_cases hji : j = i
    · subst hji
      simp [List.getD_eq_getElem?_getD, List.getElem?_set]
      split <;> rfl
    · have hj := h.resolve_left hji
      simpa [List.getD_eq_getElem?_getD, List.getElem?_set, Ne.symm hji] using hj

end

/-- Monitors are disarmed one after another; the window and memory stay. -/
theorem foldl_disarm (l : List Nat) (s : State) :
    (∀ i, i ∈ l ∨ s.cur.mons.getD i none = none → (l.foldl State.disarm s).cur.mons.getD i none = none) ∧
      (l.foldl State.disarm s).cur.l = s.cur.l ∧ (l.foldl State.disarm s).mem = s.mem := by
  induction l generalizing s with
  | nil => exact ⟨fun i h => h.resolve_left (List.not_mem_nil), rfl, rfl⟩
  | cons x r ih =>
    obtain ⟨hmons, hl, hmem⟩ := ih (s.disarm x)
    refine ⟨fun i h => hmons i ?_, hl.trans State.disarm_l, hmem.trans State.disarm_mem⟩
    rcases h with h | h
    · rcases List.mem_cons.mp h with rfl | h
      · exact .inr (State.disarm_free i (.inl rfl))
      · exact .inl h
    · exact .inr (State.disarm_free i (.inr h))

/-! ### MONA -/

/-- Monitor `i` of the issuing thread is taken for a line. -/
def State.takeMon (s : State) (i line : Nat) (a : Word) : State :=
  s.updCur fun t => { t with mons := t.mons.set i (some ⟨line, a, true, false, false⟩) }

/-- The request that asks the home of a line to arm monitor `i`. -/
def State.armRequest (s : State) (i : Nat) (a : Word) (l : Loc) : Req :=
  s.request ⟨0x66, a, 1, accMon, .dev, .mona i, false, false⟩ l false false 0 []

/-- The home is asked to arm the monitor that has been taken. -/
def askArming (i : Nat) (a : Word) (l : Loc) (own : Bool) : M Flow := do
  let s ← get
  if own then ownAccess (s.armRequest i a l) (some (.mona i)) false
  else do
    launchReq (s.armRequest i a l)
    holdFor 4 0 (.mona i) false

section
variable {o : OpM} {s s1 : State} {a : Word} {l : Loc} {own : Bool} (hg : s.cur.guardOn o.g = true)
  (ha : Gives (memAddr o.m) s a s1) (hl : Gives (locate a 1 accMon .sys 0) s1 (l, own) s1)
include hg ha hl

theorem execMona_reads : exec (.mona o) s = .next (s.settle
    ((match s1.cur.monOf (l.key / 64), s1.cur.freeMon with
      | some _, _ => (pure .seq : M Flow)
      | none, none => trapW .monitorFull a 0
      | none, some i => boardCheck a 1 false >>= fun _ => modS (·.takeMon i (l.key / 64) a) >>= fun _ =>
        askArming i a l own) s1)) := by
  refine issue_of_run hg ?_
  rw [bind_ok _ _ _ _ _ ha, bind_ok _ _ _ _ _ hl]
  refine (bind_ok _ _ _ _ _ (getCur_run s1)).trans ?_
  cases s1.cur.monOf (l.key / 64) with
  | some i => rfl
  | none => cases s1.cur.freeMon <;> rfl

theorem execMona_armed (h : (s1.cur.monOf (l.key / 64)).isSome = true) :
    exec (.mona o) s = .next (s1.finished .seq) := by
  obtain ⟨i, hi⟩ := Option.isSome_iff_exists.mp h
  rw [execMona_reads hg ha hl, hi]
  rfl

variable (hnew : s1.cur.monOf (l.key / 64) = none)
include hnew

theorem execMona_full (h : s1.cur.freeMon = none) :
    exec (.mona o) s = .next (s1.takeTrap .monitorFull (some a) (some 0)) := by
  rw [execMona_reads hg ha hl, hnew, h]
  rfl

variable {i : Nat} (hfree : s1.cur.freeMon = some i) (hb : Gives (boardCheck a 1 false) s1 () s1)
include hfree hb

theorem execMona_arms :
    exec (.mona o) s = .next (s.settle (askArming i a l own (s1.takeMon i (l.key / 64) a))) := by
  rw [execMona_reads hg ha hl, hnew, hfree]
  dsimp only
  rw [bind_ok _ _ _ _ _ hb, bind_ok _ _ _ _ _ (modS_run _ s1)]

theorem execMona_sends (hpacket : s.cur.packet = none) (hown : own = false) :
    let s2 := s1.takeMon i (l.key / 64) a
    exec (.mona o) s =
      .next ({ s2 with reqs := s2.reqs ++ [s2.armRequest i a l] }.heldFor 4 (.mona i) false) := by
  intro s2
  rw [execMona_arms hg ha hl hnew hfree hb, hown, askArming, bind_ok _ _ _ _ _ (get_run s2),
    if_neg Bool.false_ne_true, bind_ok _ _ _ _ _ (launchReq_run _ s2), holdFor_run, settle_heldFor _ _ _ _ _ _ hpacket]
  rfl

theorem execMona_performs {v0 v1 : Word} {s3 : State} (hown : own = true) :
    let s2 := s1.takeMon i (l.key / 64) a
    s2.wordPending (s2.armRequest i a l) = false →
    ((s2.core s2.cur.core).bankUsed.getLsbD (bankOf l) = false ∨ 3 ≤ s2.cur.forfeits) →
    s2.performOne (s2.armRequest i a l) = (.done (.ok v0 v1), s3) →
    exec (.mona o) s = .next ((s3.updCur fun t => { t with mons := t.mons.set i ((t.mons.getD i none).map
      fun m => { m with coarse := v1 != 0 || v0 != 0 }) }).finished .seq) := by
  intro s2 hpending hbank hperform
  rw [execMona_arms hg ha hl hnew hfree hb, hown, askArming, bind_ok _ _ _ _ _ (get_run s2), if_pos rfl,
    ownAccess_performs (q := s2.armRequest i a l) rfl hpending hbank hperform]
  rfl

end

/-! ### MOND -/

/-- The address windows of the statement are those that MOND looks at. -/
theorem namesMemory_iff (a : Word) : namesMemory a = true ↔
    bits a 63 56 = 0 ∨ bits a 63 56 = 0xFE ∧ bits a 55 25 = 0 ∨ bits a 63 56 = 0xFF ∧ bits a 55 18 = 0 := by
  simp [namesMemory, or_assoc]

/-- The monitor that MOND names by its line. -/
def Thread.monAt (t : Thread) (a : Word) (i : Nat) : Bool :=
  match t.mons.getD i none with
  | some m => namesMemory a && vkey t.core m.va / 64 == vkey t.core a / 64
  | none => false

theorem execMond_disarms {o : OpM} {s s1 : State} {a : Word} (hg : s.cur.guardOn o.g = true)
    (ha : Gives (memAddr o.m) s a s1) : exec (.mond o) s = .next (State.finished
      (match (List.range 4).find? (s1.cur.monAt a) with
        | some i => s1.disarm i
        | none => s1) .seq) :=
  (issue_of_run hg ((bind_ok _ _ _ _ _ ha).trans (bind_ok _ _ _ _ _ (modS_run _ s1)))).trans rfl

theorem execMondAll_disarms {o : OpG} {s : State} (hg : s.cur.guardOn o.g = true) :
    exec (.mondAll o) s = .next (((List.range 4).foldl State.disarm s).finished .seq) :=
  (issue_of_run hg (bind_ok _ _ _ _ _ (modS_run _ s))).trans rfl

theorem Thread.monAt_none {t : Thread} {a : Word} (h : namesMemory a = false) :
    (List.range 4).find? (t.monAt a) = none := by
  refine List.find?_eq_none.mpr fun i _ => ?_
  unfold Thread.monAt
  split <;> simp [h]

theorem Thread.monAt_lowest {t : Thread} {a : Word} {i : Nat} {m : Mon} (ha : namesMemory a = true) (hi : i < 4)
    (hm : t.mons.getD i none = some m) (hline : vkey t.core m.va / 64 = vkey t.core a / 64)
    (hlow : ∀ j n, j < i → t.mons.getD j none = some n → vkey t.core n.va / 64 ≠ vkey t.core a / 64) :
    (List.range 4).find? (t.monAt a) = some i := by
  refine List.find?_range_eq_some.mpr ⟨?_, List.mem_range.mpr hi, fun j hj => ?_⟩
  · simp only [Thread.monAt, hm, ha, hline, beq_self_eq_true, Bool.and_self]
  · unfold Thread.monAt
    split
    · next n hn => simp [hlow j n hj hn]
    · rfl

/-! ### WAITM -/

/-- Monitor `i` is armed and holds a wake. -/
def Thread.wakeHeld (t : Thread) (i : Nat) : Bool :=
  match t.mons.getD i none with
  | some m => m.armed && m.wake
  | none => false

theorem Thread.wakeHeld_iff {t : Thread} {i : Nat} :
    t.wakeHeld i = true ↔ ∃ m, t.mons.getD i none = some m ∧ m.armed = true ∧ m.wake = true := by
  unfold Thread.wakeHeld
  split
  · next m hm =>
    rw [hm]
    simp
  · next hm =>
    rw [hm]
    simp

/-- Monitor `i` is a coarse one. -/
def Thread.coarseAt (t : Thread) (i : Nat) : Bool :=
  match t.mons.getD i none with
  | some m => m.coarse
  | none => false

/-- The value of WAITM holds a bit for each held wake (07 Table 7.5); the bit of a coarse one lies above them. -/
theorem Thread.woken_value (t : Thread) : ∃ n coarse, (t.woken 0).1 = BitVec.ofNat 64 (2 ^ 4 * coarse + n) ∧
    n < 2 ^ 4 ∧ (∀ j, n.testBit j = (decide (j < 4) && t.wakeHeld j)) ∧
    (((List.range 4).filter t.wakeHeld) = [] → coarse = 0) := by
  obtain ⟨hlt, hbit⟩ := sum_bits t.wakeHeld 4
  rw [← foldl_add_filter, List.foldl_map] at hlt hbit
  refine ⟨_, if ((List.range 4).filter t.wakeHeld).any t.coarseAt then 2 ^ 5 else 0, ?_, hlt, hbit, fun h => ?_⟩
  · change BitVec.ofNat 64 (((List.range 4).filter t.wakeHeld).foldl (fun n i => n + 2 ^ i) 0 +
      (if ((List.range 4).filter t.wakeHeld).any t.coarseAt then 2 ^ 9 else 0) + 0) = _
    congr 1
    split <;> omega
  · simp [h]

theorem Thread.woken_bit (t : Thread) {j : Nat} (hj : j < 4) : (t.woken 0).1.getLsbD j = t.wakeHeld j := by
  obtain ⟨n, coarse, hw, hlt, hbit, -⟩ := t.woken_value
  rw [hw, BitVec.getLsbD_ofNat, Nat.testBit_two_pow_mul_add _ hlt, hbit]
  simp [hj, show j < 64 by omega]

theorem Thread.woken_zero {t : Thread} (h : ∀ j, j < 4 → t.wakeHeld j = false) : (t.woken 0).1 = 0 := by
  obtain ⟨n, coarse, hw, hlt, hbit, hcoarse⟩ := t.woken_value
  have hnone : (List.range 4).filter t.wakeHeld = [] :=
    List.filter_eq_nil_iff.mpr fun j hj => by simp [h j (List.mem_range.mp hj)]
  have hn : n = 0 := Nat.eq_of_testBit_eq fun j => by
    rw [hbit, Nat.zero_testBit]
    by_cases hj : j < 4
    · simp [h j hj]
    · simp [hj]
  rw [hw, hcoarse hnone, hn]
  rfl

/-- The cycle at which a WAITM that waits for `n` cycles ends; none where it waits without bound. -/
def State.waitmEnd (s : State) (n : Word) : Option Nat :=
  let left := if s.cur.remain = 0 then n.toNat else s.cur.remain
  if left = 0 then none else some ((s.core s.cur.core).cycle + left)

section
variable {o : OpDC} {s s1 : State} {n : Word} (hg : s.cur.guardOn o.g = true) (hd : Gives (checkDst o.d) s () s)
  (hn : Gives (operandZ o.b) s n s1)
include hg hd hn

theorem execWaitm_reads : exec (.waitm o) s = .next (s.settle
    ((if !(s1.cur.mons.any fun m => m.isSome) then writeD o.d 0x400
      else if (s1.cur.woken 0).1 != 0 then
        updCur (fun _ => (s1.cur.woken 0).2) >>= fun _ => writeD o.d (s1.cur.woken 0).1
      else holdFor 6 0 (.waitm o.d (s1.waitmEnd n)) false) s1)) := by
  refine issue_of_run hg ?_
  exact (bind_ok _ _ _ _ _ hd).trans ((bind_ok _ _ _ _ _ hn).trans (bind_ok _ _ _ _ _ (get_run s1)))

theorem execWaitm_unarmed {t : State} {fl : Flow} (hnone : (s1.cur.mons.any fun m => m.isSome) = false)
    (hw : Gives (writeD o.d 0x400) s1 fl t) : exec (.waitm o) s = .next (t.finished fl) := by
  rw [execWaitm_reads hg hd hn, hnone, Bool.not_false, if_pos rfl, hw, settle_written s s1 t _ _ _ hw]

theorem execWaitm_woken {t : State} {fl : Flow} (hany : (s1.cur.mons.any fun m => m.isSome) = true)
    (hheld : (s1.cur.woken 0).1 ≠ 0)
    (hw : Gives (writeD o.d (s1.cur.woken 0).1) (s1.updCur fun _ => (s1.cur.woken 0).2) fl t) :
    exec (.waitm o) s = .next (t.finished fl) := by
  rw [execWaitm_reads hg hd hn, hany, if_neg (by simp), if_pos (by simpa using hheld),
    bind_ok _ _ _ _ _ (updCur_run _ s1), hw, settle_written s _ t _ _ _ hw]

theorem execWaitm_waits (hpacket : s.cur.packet = none) (hany : (s1.cur.mons.any fun m => m.isSome) = true)
    (hheld : (s1.cur.woken 0).1 = 0) :
    exec (.waitm o) s = .next (s1.heldFor 6 (.waitm o.d (s1.waitmEnd n)) false) := by
  rw [execWaitm_reads hg hd hn, hany, if_neg (by simp), if_neg (by simp [hheld]), holdFor_run,
    settle_heldFor _ _ _ _ _ _ hpacket]
  rfl

end

theorem mem_of_getD {l : List (Option Mon)} {i : Nat} {m : Mon} (h : l.getD i none = some m) : some m ∈ l := by
  rw [List.getD_eq_getElem?_getD] at h
  cases hi : l[i]? with
  | none => simp [hi] at h
  | some x =>
    obtain rfl : x = some m := by simpa [hi] using h
    exact List.mem_of_getElem? hi

/-- Settles O33: MONA by what it finds of its line and of free monitors, MOND by the monitor that its address names, and
WAITM by the wakes that its thread holds. -/
theorem monitorsAreArmedAndWaitedFor : Obligations.MonitorsAreArmedAndWaitedFor := by
  unfold Obligations.MonitorsAreArmedAndWaitedFor
  refine ⟨fun o s s1 a l own hg hpacket ha hl => ⟨execMona_armed hg ha hl, fun hnew =>
      ⟨execMona_full hg ha hl hnew, fun i hi hb => ?_⟩⟩, fun s q i hop hroom => ?_,
    fun o s s1 a i m hg ha hmem hi hm hline hlow => ?_, fun o s s1 a hg ha hmem => ?_, fun o s hg => ?_,
    fun o s s1 n hg hd hn => ⟨fun hmons t fl hw => ?_, fun i m hi hm harmed hwake => ?_,
      fun hpacket hany hnowake => ?_⟩⟩
  case refine_1 =>
    exact ⟨execMona_sends hg ha hl hnew hi hb hpacket, fun hown hpending hbank v0 v1 s3 hperform =>
      execMona_performs hg ha hl hnew hi hb hown hpending hbank hperform⟩
  case refine_2 =>
    refine ⟨_, State.wordOp_mona hop hroom, ?_, State.MemHas.setHomeMons (P := fun m => m = s.mem) (.refl _)⟩
    rw [State.homeMons_setHomeMons]
    exact List.mem_append_right _ (List.mem_singleton.mpr rfl)
  case refine_3 =>
    refine ⟨_, execMond_disarms hg ha, ?_⟩
    rw [Thread.monAt_lowest ((namesMemory_iff a).mpr hmem) hi hm hline hlow]
    exact ⟨State.disarm_mons hm, fun w hw => State.disarm_wakes hm hw, State.disarm_l, State.disarm_mem⟩
  case refine_4 =>
    rw [execMond_disarms hg ha, Thread.monAt_none (Bool.eq_false_iff.mpr (mt (namesMemory_iff a).mp hmem))]
  case refine_5 =>
    have hexec := execMondAll_disarms hg
    obtain ⟨hmons, hl, hmem⟩ := foldl_disarm (List.range 4) s
    generalize (List.range 4).foldl State.disarm s = t at hexec hmons hl hmem
    exact ⟨_, hexec, fun i hi => hmons i (.inl (List.mem_range.mpr hi)), hl, hmem⟩
  case refine_6 =>
    exact execWaitm_unarmed hg hd hn (by simp [hmons]) hw
  case refine_7 =>
    refine ⟨(s1.cur.woken 0).1, fun j hj => by rw [s1.cur.woken_bit hj, Thread.wakeHeld_iff], fun t fl hw =>
      execWaitm_woken hg hd hn (List.any_eq_true.mpr ⟨some m, mem_of_getD hm, rfl⟩) (fun hzero => ?_) hw⟩
    have hset := (s1.cur.woken_bit hi).trans (Thread.wakeHeld_iff.mpr ⟨m, hm, harmed, hwake⟩)
    simp [hzero] at hset
  case refine_8 =>
    have hzero : (s1.cur.woken 0).1 = 0 := Thread.woken_zero fun j _ => by
      rw [Bool.eq_false_iff, Ne, Thread.wakeHeld_iff]
      rintro ⟨m, hm, -, hwake⟩
      simp [hnowake (some m) (mem_of_getD hm) m rfl] at hwake
    exact ⟨_, _, execWaitm_waits hg hd hn hpacket hany hzero, rfl, rfl, rfl⟩

end Sys2Proof.Machine
end

section
/-! The software tag table and the cycle record (O34): 06 R130, 07 R153, 17 R343, Table 17.8, log 16. -/

namespace Sys2Proof.Machine

/-! ### TSET -/

/-- The entry that TSET writes: that of its key, or else the lowest free one. -/
def tagPlace (tt : List (Nat × TagEntry)) (key : Word) : Option Nat :=
  match tagFind tt key with
  | some (i, _) => some i
  | none => tagFree tt

theorem tagPlace_of_some {tt : List (Nat × TagEntry)} {key : Word} {i : Nat}
    (h : (∃ e, tagFind tt key = some (i, e)) ∨ (tagFind tt key = none ∧ tagFree tt = some i)) :
    tagPlace tt key = some i := by
  rcases h with ⟨e, hfind⟩ | ⟨hfind, hfree⟩
  · simp only [tagPlace, hfind]
  · simp only [tagPlace, hfind, hfree]

theorem tagPlace_of_none {tt : List (Nat × TagEntry)} {key : Word} (hfind : tagFind tt key = none)
    (hfree : tagFree tt = none) : tagPlace tt key = none := by
  simp only [tagPlace, hfind, hfree]

section
variable {o : OpTset} {s s1 s2 t : State} {k n : Word} {fl : Flow} (hg : s.cur.guardOn o.g = true)
  (hd : Gives (checkDst o.d) s () s) (ha : Gives (readS o.a) s k s1) (hn : Gives (operandZ o.b) s1 n s2)
include hg hd ha hn

theorem execTset_reads : exec (.tset o) s = .next (s.settle
    ((match tagPlace (s2.core s2.cur.core).tagTable k with
      | none => writeD o.d 0xFFFFFFFFFFFFFFFF
      | some i => do
        modS fun s => s.modCore s.cur.core fun x => { x with tagTable := tabSet x.tagTable i ⟨k, n.setWidth 16⟩ }
        writeD o.d (BitVec.ofNat 64 i)) s2)) := by
  refine issue_of_run hg ?_
  rw [bind_ok _ _ _ _ _ hd, bind_ok _ _ _ _ _ ha]
  exact (bind_ok _ _ _ _ _ hn).trans (bind_ok _ _ _ _ _ (get_run s2))

theorem execTset_sets {i : Nat} (hplace : tagPlace (s2.core s2.cur.core).tagTable k = some i)
    (hw : Gives (writeD o.d (BitVec.ofNat 64 i)) (s2.modCore s2.cur.core fun x =>
      { x with tagTable := tabSet x.tagTable i ⟨k, n.setWidth 16⟩ }) fl t) :
    exec (.tset o) s = .next (t.finished fl) := by
  rw [execTset_reads hg hd ha hn, hplace]
  dsimp only
  rw [bind_ok _ _ _ _ _ (modS_run _ s2), hw, settle_written s _ t _ _ _ hw]

theorem execTset_full (hplace : tagPlace (s2.core s2.cur.core).tagTable k = none)
    (hw : Gives (writeD o.d (-1)) s2 fl t) : exec (.tset o) s = .next (t.finished fl) := by
  rw [execTset_reads hg hd ha hn, hplace]
  exact congrArg _ ((congrArg _ hw).trans (settle_written s s2 t _ _ _ hw))

end

/-! ### TLOOK and TCLR -/

section
variable {o : OpDA} {s s1 t : State} {k : Word} {fl : Flow} (hg : s.cur.guardOn o.g = true)
  (hd : Gives (checkDst o.d) s () s) (ha : Gives (readS o.a) s k s1)
include hg hd ha

theorem tagLook_reads (clear : Bool) : tagLook o clear s = .next (s.settle
    ((match tagFind (s1.core s1.cur.core).tagTable k with
      | none => writeD o.d 0xFFFFFFFFFFFFFFFF
      | some (i, e) => do
        if clear then modS fun s => s.modCore s.cur.core fun x => { x with tagTable := tabErase x.tagTable i }
        writeD o.d (e.slot.setWidth 64)) s1)) := by
  refine issue_of_run hg ?_
  exact (bind_ok _ _ _ _ _ hd).trans ((bind_ok _ _ _ _ _ ha).trans (bind_ok _ _ _ _ _ (get_run s1)))

theorem tagLook_absent {clear : Bool} (h : tagFind (s1.core s1.cur.core).tagTable k = none)
    (hw : Gives (writeD o.d (-1)) s1 fl t) : tagLook o clear s = .next (t.finished fl) := by
  rw [tagLook_reads hg hd ha, h]
  exact congrArg _ ((congrArg _ hw).trans (settle_written s s1 t _ _ _ hw))

variable {i : Nat} {e : TagEntry} (h : tagFind (s1.core s1.cur.core).tagTable k = some (i, e))
include h

theorem execTlook_present (hw : Gives (writeD o.d (e.slot.setWidth 64)) s1 fl t) :
    exec (.tlook o) s = .next (t.finished fl) := by
  refine (tagLook_reads hg hd ha false).trans ?_
  rw [h]
  exact congrArg _ ((congrArg _ hw).trans (settle_written s s1 t _ _ _ hw))

theorem execTclr_present (hw : Gives (writeD o.d (e.slot.setWidth 64)) (s1.modCore s1.cur.core fun x =>
      { x with tagTable := tabErase x.tagTable i }) fl t) : exec (.tclr o) s = .next (t.finished fl) := by
  refine (tagLook_reads hg hd ha true).trans ?_
  rw [h]
  exact congrArg _ ((congrArg _ hw).trans (settle_written s _ t _ _ _ hw))

end

/-! ### WQRY of the cycle record -/

/-- The selectors of the cycle record, with what they read from it (17 Table 17.8). -/
theorem cycleWord_of_sel {t : Thread} {sel : WqrySel} {k v : Word}
    (h : sel = .clen ∧ v = BitVec.ofNat 64 t.cycle.length ∨
      sel = .cobj ∧ v = ((t.cycle[k.toNat]?).map (·.1)).getD 0 ∨
      sel = .cfam ∧ v = ((t.cycle[k.toNat]?).map (·.2)).getD 0) :
    atHome sel = false ∧ t.cycleWord sel k = v := by
  rcases h with ⟨rfl, rfl⟩ | ⟨rfl, rfl⟩ | ⟨rfl, rfl⟩
  · exact ⟨rfl, rfl⟩
  · exact ⟨rfl, rfl⟩
  · exact ⟨rfl, rfl⟩

/-- The record answers as a home does, and the thread waits for the answer with reason 4 (17 R343). -/
theorem execWqry_cycle {o : OpWqry} {s s1 : State} {k : Word} (hg : s.cur.guardOn o.g = true)
    (hd : Gives (checkDst o.d) s () s) (hpacket : s.cur.packet = none) (ha : Gives (readS o.m.base) s k s1)
    (hsel : atHome o.sel = false) : exec (.wqry o) s =
      .next ((s1.answer s1.cur.tid 0 (.ok (s1.cur.cycleWord o.sel k) 0) 0 (cycleHome s1.cur.core)).heldFor 4 (.reg o.d)
        false) := by
  refine (issue_of_run hg ?_).trans (congrArg _ (settle_heldFor s _ 4 0 (.reg o.d) false hpacket))
  rw [hsel, if_neg Bool.false_ne_true, bind_ok _ _ _ _ _ hd, bind_ok _ _ _ _ _ ha, bind_ok _ _ _ _ _ (modS_run _ s1),
    holdFor_run]

/-- Settles O34: TSET writes its place, TLOOK and TCLR find their key or do not, and WQRY answers from the record. -/
theorem tagTableAndCycleRecord : Obligations.TagTableAndCycleRecord := by
  unfold Obligations.TagTableAndCycleRecord
  refine ⟨fun o s s1 s2 k n hg hd ha hn => ?_, fun o s s1 k hg hd ha => ?_,
    fun o s s1 k v hg hd hpacket ha hv => ?_⟩
  · exact ⟨fun i hi t fl hw => execTset_sets hg hd ha hn (tagPlace_of_some hi) hw,
      fun hfind hfree t fl hw => execTset_full hg hd ha hn (tagPlace_of_none hfind hfree) hw⟩
  · exact ⟨fun i e hfind t fl =>
        ⟨fun hw => execTlook_present hg hd ha hfind hw, fun hw => execTclr_present hg hd ha hfind hw⟩,
      fun hfind t fl hw => ⟨tagLook_absent hg hd ha hfind hw, tagLook_absent hg hd ha hfind hw⟩⟩
  · obtain ⟨hsel, hword⟩ := cycleWord_of_sel hv
    rw [execWqry_cycle hg hd hpacket ha hsel, hword]

end Sys2Proof.Machine
end

section
/-! Rounding of what the format holds, and the special cases of addition, product and fused product (O16): 08 R156,
R162, R165, 04 R90 to R92, Table 4.19. -/

namespace Sys2Proof.Machine

/-! ### A number of a format rounds to itself (08 R162, R165) -/

/-- Where nothing lies below the unit, no mode rounds away from zero. -/
theorem away_exact (c : RCtx) (neg : Bool) (a s : Nat) : away c neg a 0 s false = false := rfl

/-- A number in its own unit has no remainder. -/
theorem splitAt_self (m : Nat) (e : Int) : splitAt m e e = (m, 0, 0) := by
  simp [splitAt, Nat.mod_one]

/-- The exponent of the unit to which a format rounds m × 2^e: that of the last fraction bit, and no less than that of
the subnormal spacing. -/
def FPar.unitExp (p : FPar) (m : Nat) (e : Int) : Int :=
  (if topExp m e < 1 - (p.bias : Int) then 1 - (p.bias : Int) else topExp m e) - p.fb

/-- A number in its unit of rounding, no larger than the largest finite one, is encoded as it stands, in every mode and
with no flag. -/
theorem roundFlt_exact {p : FPar} {m : Nat} {e : Int} (c : RCtx) (neg : Bool) (hunit : p.unitExp m e = e)
    (htop : e ≤ (p.maxE : Int) - p.bias - p.fb) (hmax : m ≤ 2 ^ p.fb + p.maxF) (hm : m < 2 ^ (p.fb + 1)) :
    roundFlt p c neg m e false = ⟨(if neg then 2 ^ (p.fb + p.eb) else 0) +
      if m < 2 ^ p.fb then m else (e + p.fb + p.bias).toNat * 2 ^ p.fb + (m - 2 ^ p.fb), 0⟩ := by
  unfold FPar.unitExp at hunit
  have hfits : ¬ (2 ^ p.fb + p.maxF) * 2 ^ ((p.maxE : Int) - p.bias - p.fb - e).toNat < m :=
    Nat.not_lt.2 (hmax.trans (Nat.le_mul_of_pos_right _ (by positivity)))
  simp [roundFlt, hunit, splitAt_self, away_exact, htop, hfits, hm.ne]

/-- The same of FP32, where 104 is the exponent of the unit of its largest numbers. -/
theorem roundFlt_fp32_exact {m : Nat} {e : Int} (c : RCtx) (neg : Bool) (hunit : fp32.unitExp m e = e) (htop : e ≤ 104)
    (hm : m < 2 ^ 24) : roundFlt fp32 c neg m e false = ⟨(if neg then 2 ^ 31 else 0) +
      if m < 2 ^ 23 then m else (e + (23 : Nat) + (127 : Nat)).toNat * 2 ^ 23 + (m - 2 ^ 23), 0⟩ := by
  refine roundFlt_exact c neg hunit ?_ ?_ hm
  all_goals
    simp only [fp32]
    omega

/-- The unit of a subnormal number is the least one. -/
theorem unitExp_subnormal {f : Nat} (h0 : f ≠ 0) (hf : f < 2 ^ 23) : fp32.unitExp f (-149) = -149 := by
  have hlog : f.log2 < 23 := (Nat.log2_lt h0).2 hf
  have hlow : topExp f (-149) < 1 - (127 : Nat) := by
    rw [topExp, bitLen, if_neg h0]
    omega
  exact congrArg (· - (23 : Int)) (if_pos hlow)

/-- The unit of a normal number is that of the last bit of its fraction. -/
theorem unitExp_normal {f : Nat} {e : Int} (hf : f < 2 ^ 23) (he : -149 ≤ e) : fp32.unitExp (2 ^ 23 + f) e = e := by
  have hlog : (2 ^ 23 + f).log2 = 23 := (Nat.log2_eq_iff (by omega)).2 ⟨by omega, by omega⟩
  have htop : topExp (2 ^ 23 + f) e = e + 23 := by
    rw [topExp, bitLen, if_neg (by omega), hlog]
    omega
  have hnormal : ¬ e + 23 < 1 - (127 : Nat) := by omega
  rw [FPar.unitExp, htop]
  exact (congrArg (· - (23 : Int)) (if_neg hnormal)).trans (Int.add_sub_cancel e 23)

/-! ### The fields of FP32 bits (08 R155) -/

/-- The bits below the sign are the exponent field above the fraction. -/
theorem low31_eq (x : Nat) : x % 2 ^ 31 = x / 2 ^ 23 % 256 * 2 ^ 23 + x % 2 ^ 23 := by
  rw [show 2 ^ 31 = 2 ^ 23 * 256 from rfl, Nat.mod_mul]
  omega

theorem bits32_eq {x : Nat} (h : x < 2 ^ 32) :
    x = (if x / 2 ^ 31 % 2 == 1 then 2 ^ 31 else 0) + (x / 2 ^ 23 % 256 * 2 ^ 23 + x % 2 ^ 23) := by
  rw [← low31_eq]
  simp only [beq_iff_eq]
  split <;> omega

theorem low31_zero (x : Nat) : x % 2 ^ 31 = 0 ↔ x / 2 ^ 23 % 256 = 0 ∧ x % 2 ^ 23 = 0 := by
  rw [low31_eq]
  omega

theorem inf32_iff (x : Nat) : inf32 x = true ↔ x / 2 ^ 23 % 256 = 255 ∧ x % 2 ^ 23 = 0 := by
  rw [inf32, decide_eq_true_eq, low31_eq]
  omega

theorem sign32_eq (x : Nat) : sign32 x = (x / 2 ^ 31 % 2 == 1) := Nat.testBit_eq_decide_div_mod_eq

/-- The two infinities differ in their sign. -/
theorem sign32_ne_of_inf {x y : Nat} (hx : x < 2 ^ 32) (hy : y < 2 ^ 32) (ix : inf32 x = true) (iy : inf32 y = true)
    (h : x ≠ y) : sign32 x ≠ sign32 y := by
  intro hsign
  rw [sign32_eq, sign32_eq] at hsign
  obtain ⟨ex, fx⟩ := (inf32_iff x).1 ix
  obtain ⟨ey, fy⟩ := (inf32_iff y).1 iy
  refine h ((bits32_eq hx).trans (Eq.trans ?_ (bits32_eq hy).symm))
  rw [hsign, ex, fx, ey, fy]

/-- A finite number is in its own unit: a subnormal one in the least, a normal one in that of its fraction. -/
theorem roundTo_finite32 {x : Nat} (c : RCtx) (h : finite32 x = true) :
    roundTo (.flt fp32) false c (fp32Val x) = ⟨x, 0⟩ := by
  simp only [finite32, Bool.and_eq_true, decide_eq_true_eq] at h
  obtain ⟨hx, hexp⟩ := h
  have hf : x % 2 ^ 23 < 2 ^ 23 := Nat.mod_lt _ (by decide)
  have hbits := congrArg (Rounded.mk · 0) (bits32_eq hx).symm
  rw [fp32Val_eq, if_neg hexp.ne]
  split
  · next hzero =>
    rw [hzero, Nat.zero_mul, Nat.zero_add] at hbits
    split
    · next hfrac =>
      rw [hfrac] at hbits
      exact hbits
    · next hfrac =>
      refine (roundFlt_fp32_exact c _ (unitExp_subnormal hfrac hf) (by decide) (by omega)).trans ?_
      rw [if_pos hf]
      exact hbits
  · next hzero =>
    refine (roundFlt_fp32_exact c _ (unitExp_normal hf (by omega)) (by omega) (by omega)).trans ?_
    rw [if_neg (Nat.not_lt.2 (Nat.le_add_right _ _)), Nat.add_sub_cancel_left, Int.sub_add_cancel, Int.sub_add_cancel,
      Int.toNat_natCast]
    exact hbits

/-! ### Infinities, zeros and signs (08 R155, R156) -/

theorem FVal.isInf_iff {v : FVal} : v.isInf = true ↔ ∃ neg, v = .inf neg := by
  cases v <;> simp [FVal.isInf]

theorem FVal.isZero_iff {v : FVal} : v.isZero = true ↔ ∃ neg, v = .zero neg := by
  cases v <;> simp [FVal.isZero]

theorem fp32Val_of_inf {x : Nat} (h : inf32 x = true) : fp32Val x = .inf (sign32 x) := by
  obtain ⟨he, hf⟩ := (inf32_iff x).1 h
  rw [fp32Val_eq, if_pos he, if_pos hf, sign32_eq]

theorem isInf_fp32Val (x : Nat) : (fp32Val x).isInf = inf32 x := by
  rw [Bool.eq_iff_iff, inf32_iff, fp32Val_eq]
  split
  · split <;> simp [FVal.isInf, *, -Nat.reducePow]
  · split
    · split <;> simp [FVal.isInf, *, -Nat.reducePow]
    · simp [FVal.isInf, *, -Nat.reducePow]

theorem isZero_fp32Val (x : Nat) : (fp32Val x).isZero = decide (x % 2 ^ 31 = 0) := by
  rw [Bool.eq_iff_iff, decide_eq_true_eq, low31_zero, fp32Val_eq]
  split
  · split <;> simp [FVal.isZero, *, -Nat.reducePow]
  · split
    · split <;> simp [FVal.isZero, *, -Nat.reducePow]
    · simp [FVal.isZero, *, -Nat.reducePow]

theorem isNeg_fp32Val {x : Nat} (h : nan32 x = false) : (fp32Val x).isNeg = sign32 x := by
  rw [sign32_eq, fp32Val_eq]
  split
  · next he =>
    split
    · rfl
    · next hf => simp [nan32, he, hf, -Nat.reducePow] at h
  · split
    · split <;> rfl
    · rfl

/-! ### Special cases of exact arithmetic (04 Table 4.19) -/

/-- A NaN result is the canonical one, with the flags of its special case (08 R156). -/
theorem roundRes_nan (c : RCtx) (fl : Word) : roundRes (.flt fp32) c (.nan false, fl) = ⟨0x7FC00000, fl⟩ :=
  congrArg (Rounded.mk _) BitVec.zero_or

theorem isNan_negate (v : FVal) : v.negate.isNan = v.isNan := by cases v <;> rfl

theorem isSnan_negate (v : FVal) : v.negate.isSnan = v.isSnan := by cases v <;> rfl

theorem addVal_nan (c : RCtx) {x y : FVal} (h : (x.isNan || y.isNan) = true) :
    addVal c x y = (.nan false, if x.isSnan || y.isSnan then flagNV else 0) := by
  rw [← snanFlag_or]
  exact if_pos h

theorem addVal_opposite_infs (c : RCtx) {a b : Bool} (h : a ≠ b) : addVal c (.inf a) (.inf b) = (.nan false, flagNV) :=
  if_neg h

theorem mulVal_nan {x y : FVal} (h : (x.isNan || y.isNan) = true) :
    mulVal x y = (.nan false, if x.isSnan || y.isSnan then flagNV else 0) := by
  rw [← snanFlag_or]
  exact if_pos h

/-- Zero times infinity, in either order. -/
def FVal.zeroTimesInf (x y : FVal) : Bool := (x.isInf && y.isZero) || (x.isZero && y.isInf)

theorem zeroTimesInf_fp32Val (x y : Nat) : (fp32Val x).zeroTimesInf (fp32Val y) = zeroInf32 x y := by
  rw [FVal.zeroTimesInf, isInf_fp32Val, isInf_fp32Val, isZero_fp32Val, isZero_fp32Val, Bool.or_comm]
  rfl

theorem mulVal_zeroTimesInf {x y : FVal} (h : x.zeroTimesInf y = true) : mulVal x y = (.nan false, flagNV) := by
  simp only [FVal.zeroTimesInf, Bool.or_eq_true, Bool.and_eq_true, FVal.isInf_iff, FVal.isZero_iff] at h
  obtain ⟨⟨_, rfl⟩, _, rfl⟩ | ⟨⟨_, rfl⟩, _, rfl⟩ := h
  · rfl
  · rfl

/-- Infinity times anything but a zero or a NaN is infinity, with the sign of a product. -/
theorem mulVal_inf {x y : FVal} (hinf : (x.isInf || y.isInf) = true) (hzero : x.zeroTimesInf y = false)
    (hnan : (x.isNan || y.isNan) = false) : mulVal x y = (.inf (x.isNeg != y.isNeg), 0) := by
  simp only [Bool.or_eq_true, FVal.isInf_iff] at hinf
  obtain ⟨_, rfl⟩ | ⟨_, rfl⟩ := hinf
  · cases y with
    | nan => cases hnan
    | zero => cases hzero
    | inf | num => rfl
  · cases x with
    | nan => cases hnan
    | zero => cases hzero
    | inf | num => rfl

theorem snanFlag_or_or (x y z : FVal) : snanFlag x ||| snanFlag y ||| snanFlag z =
    if x.isSnan || y.isSnan || z.isSnan then flagNV else 0 := by
  rw [snanFlag_or]
  unfold snanFlag
  cases x.isSnan || y.isSnan <;> cases z.isSnan <;> rfl

/-- A fused product is invalid where its product is zero times infinity, whatever is added. -/
theorem fmaVal_zeroTimesInf (c : RCtx) {x y : FVal} (z : FVal) (h : x.zeroTimesInf y = true) :
    fmaVal c x y z = (.nan false, flagNV) := by
  have hflags : flagNV ||| (snanFlag x ||| snanFlag y ||| snanFlag z) = flagNV := by
    rw [snanFlag_or_or]
    split <;> rfl
  exact (if_pos h).trans (congrArg _ hflags)

theorem fmaVal_nan (c : RCtx) {x y z : FVal} (hzero : x.zeroTimesInf y = false)
    (h : (x.isNan || y.isNan || z.isNan) = true) :
    fmaVal c x y z = (.nan false, if x.isSnan || y.isSnan || z.isSnan then flagNV else 0) := by
  rw [← snanFlag_or_or]
  exact (if_neg (Bool.eq_false_iff.1 hzero)).trans (if_pos h)

/-- A fused product adds its exact product where neither special case arises. -/
theorem fmaVal_of_product (c : RCtx) {x y z : FVal} (hzero : x.zeroTimesInf y = false)
    (hnan : (x.isNan || y.isNan || z.isNan) = false) : fmaVal c x y z = addVal c (mulVal x y).1 z :=
  (if_neg (Bool.eq_false_iff.1 hzero)).trans (if_neg (Bool.eq_false_iff.1 hnan))

/-! ### The same of FP32 bits -/

section
variable {x y z : Nat}

theorem roundRes_addVal_nan (c : RCtx) (h : (nan32 x || nan32 y) = true) :
    roundRes (.flt fp32) c (addVal c (fp32Val x) (fp32Val y)) =
      ⟨0x7FC00000, if snan32 x || snan32 y then flagNV else 0⟩ := by
  rw [← isNan_fp32Val, ← isNan_fp32Val] at h
  rw [addVal_nan c h, roundRes_nan, isSnan_fp32Val, isSnan_fp32Val]

theorem roundRes_addVal_negate_nan (c : RCtx) (h : (nan32 x || nan32 y) = true) :
    roundRes (.flt fp32) c (addVal c (fp32Val x) (fp32Val y).negate) =
      ⟨0x7FC00000, if snan32 x || snan32 y then flagNV else 0⟩ := by
  rw [← isNan_fp32Val, ← isNan_fp32Val, ← isNan_negate (fp32Val y)] at h
  rw [addVal_nan c h, roundRes_nan, isSnan_negate, isSnan_fp32Val, isSnan_fp32Val]

theorem roundRes_mulVal_nan (c : RCtx) (h : (nan32 x || nan32 y) = true) :
    roundRes (.flt fp32) c (mulVal (fp32Val x) (fp32Val y)) =
      ⟨0x7FC00000, if snan32 x || snan32 y then flagNV else 0⟩ := by
  rw [← isNan_fp32Val, ← isNan_fp32Val] at h
  rw [mulVal_nan h, roundRes_nan, isSnan_fp32Val, isSnan_fp32Val]

theorem roundRes_fmaVal_zeroInf (c : RCtx) (z : Nat) (h : zeroInf32 x y = true) :
    roundRes (.flt fp32) c (fmaVal c (fp32Val x) (fp32Val y) (fp32Val z)) = ⟨0x7FC00000, flagNV⟩ := by
  rw [fmaVal_zeroTimesInf c _ ((zeroTimesInf_fp32Val x y).trans h), roundRes_nan]

theorem roundRes_fmaVal_nan (c : RCtx) (h : (nan32 x || nan32 y || nan32 z) = true) :
    roundRes (.flt fp32) c (fmaVal c (fp32Val x) (fp32Val y) (fp32Val z)) =
      ⟨0x7FC00000, if snan32 x || snan32 y || snan32 z || zeroInf32 x y then flagNV else 0⟩ := by
  cases hzero : zeroInf32 x y with
  | true => rw [roundRes_fmaVal_zeroInf c z hzero, Bool.or_true, if_pos rfl]
  | false =>
    simp only [← isNan_fp32Val] at h
    rw [fmaVal_nan c ((zeroTimesInf_fp32Val x y).trans hzero) h, roundRes_nan, Bool.or_false]
    simp only [isSnan_fp32Val]

theorem roundRes_addVal_infs (c : RCtx) (hx : x < 2 ^ 32) (hy : y < 2 ^ 32) (ix : inf32 x = true) (iy : inf32 y = true)
    (h : x ≠ y) : roundRes (.flt fp32) c (addVal c (fp32Val x) (fp32Val y)) = ⟨0x7FC00000, flagNV⟩ := by
  rw [fp32Val_of_inf ix, fp32Val_of_inf iy, addVal_opposite_infs c (sign32_ne_of_inf hx hy ix iy h), roundRes_nan]

theorem roundRes_addVal_negate_inf (c : RCtx) (ix : inf32 x = true) :
    roundRes (.flt fp32) c (addVal c (fp32Val x) (fp32Val x).negate) = ⟨0x7FC00000, flagNV⟩ := by
  rw [fp32Val_of_inf ix, FVal.negate, addVal_opposite_infs c (Bool.eq_not.1 (Bool.not_not _).symm), roundRes_nan]

theorem roundRes_mulVal_zeroInf (c : RCtx) (h : zeroInf32 x y = true) :
    roundRes (.flt fp32) c (mulVal (fp32Val x) (fp32Val y)) = ⟨0x7FC00000, flagNV⟩ := by
  rw [mulVal_zeroTimesInf ((zeroTimesInf_fp32Val x y).trans h), roundRes_nan]

theorem nan32_of_inf (h : inf32 x = true) : nan32 x = false := by
  rw [← isNan_fp32Val, fp32Val_of_inf h]
  rfl

theorem roundRes_fmaVal_infs (c : RCtx) (hinf : (inf32 x || inf32 y) = true) (hzero : zeroInf32 x y = false)
    (hnan : (nan32 x || nan32 y) = false) (iz : inf32 z = true) (hsign : sign32 z ≠ (sign32 x != sign32 y)) :
    roundRes (.flt fp32) c (fmaVal c (fp32Val x) (fp32Val y) (fp32Val z)) = ⟨0x7FC00000, flagNV⟩ := by
  obtain ⟨hnx, hny⟩ := Bool.or_eq_false_iff.1 hnan
  have hproduct : mulVal (fp32Val x) (fp32Val y) = (.inf (sign32 x != sign32 y), 0) := by
    rw [← isNeg_fp32Val hnx, ← isNeg_fp32Val hny]
    exact mulVal_inf (by rw [isInf_fp32Val, isInf_fp32Val, hinf]) ((zeroTimesInf_fp32Val x y).trans hzero)
      (by rw [isNan_fp32Val, isNan_fp32Val, hnan])
  have hnone : ((fp32Val x).isNan || (fp32Val y).isNan || (fp32Val z).isNan) = false := by
    rw [isNan_fp32Val, isNan_fp32Val, isNan_fp32Val, hnan, nan32_of_inf iz, Bool.or_false]
  rw [fmaVal_of_product c ((zeroTimesInf_fp32Val x y).trans hzero) hnone, hproduct, fp32Val_of_inf iz,
    addVal_opposite_infs c hsign.symm, roundRes_nan]

end

/-- Settles O16: finite FP32 numbers round to themselves, and the NaN and invalid cases of Table 4.19 give the canonical
NaN with their NV. -/
theorem roundingAndSpecialCases : Obligations.RoundingAndSpecialCases := by
  unfold Obligations.RoundingAndSpecialCases
  refine ⟨fun x c h => roundTo_finite32 c h, fun c x y z hx hy _ =>
    ⟨fun h => ⟨roundRes_addVal_nan c h, roundRes_addVal_negate_nan c h, roundRes_mulVal_nan c h⟩,
      fun h => roundRes_fmaVal_nan c h,
      fun ix iy => ⟨roundRes_addVal_infs c hx hy ix iy, fun h => h ▸ roundRes_addVal_negate_inf c ix⟩,
      fun h => ⟨roundRes_mulVal_zeroInf c h, roundRes_fmaVal_zeroInf c z h⟩,
      roundRes_fmaVal_infs c⟩⟩

end Sys2Proof.Machine
end

section
/-! Vector instructions whose destination is merged under a mask (O38): each result of the model is the element that
its rule gives (09 R180, R184, R193, R196, R200, R201). -/

namespace Sys2Proof.Machine

/-! ### Elements as numbers -/

theorem laneWidth_le (f : Fmt) : laneWidth f ≤ 64 := by cases f <;> decide

theorem intVal_eq_elemInt {w x : Nat} (uns : Bool) (h64 : w ≤ 64) (hx : x < 2 ^ w) :
    intVal w uns x = elemInt w uns x := by
  have hpow : 2 ^ w ≤ 2 ^ 64 := Nat.pow_le_pow_right (by decide) h64
  cases uns
  · exact (sintN_ofNat h64 hx).trans (by simp [elemInt])
  · rw [intVal, intOf, if_pos rfl, BitVec.toNat_ofNat, Nat.mod_eq_of_lt (hx.trans_le hpow), Nat.mod_eq_of_lt hx]
    simp [elemInt]

/-- The low bits of a number modulo 2^64 are those of the number. -/
theorem toNat_ofInt_mod {w : Nat} (h64 : w ≤ 64) (v : Int) :
    (BitVec.ofInt 64 v).toNat % 2 ^ w = (v % 2 ^ w).toNat := by
  have hdvd : (2 : Int) ^ w ∣ 2 ^ 64 := pow_dvd_pow 2 h64
  have hw : (0 : Int) < 2 ^ w := by positivity
  have hmod := Int.emod_emod_of_dvd v hdvd
  have hword : ((BitVec.ofInt 64 v).toNat : Int) = v % 2 ^ 64 := by
    rw [BitVec.toNat_ofInt]
    exact Int.toNat_of_nonneg (Int.emod_nonneg v (by decide))
  have hnum : ((v % 2 ^ w).toNat : Int) = v % 2 ^ w := Int.toNat_of_nonneg (Int.emod_nonneg v (by omega))
  apply Int.natCast_inj.1
  rw [Int.natCast_mod, hword, hnum, ← hmod]
  norm_num

/-- The exact integer result of an element, wrapped or clamped (09 R193). -/
theorem intElem_eq_intResult {w : Nat} (uns ovf : Bool) (v : Int) (h64 : w ≤ 64) :
    intElem w uns ovf v = intResult w uns ovf v := by
  have hrange : (intRange w uns).1 ≤ (intRange w uns).2 := by
    have hfull : (0 : Int) < 2 ^ w := by positivity
    have hhalf : (0 : Int) < 2 ^ (w - 1) := by positivity
    cases uns <;> simp only [intRange, if_true, Bool.false_eq_true, if_false] <;> omega
  cases ovf
  · obtain ⟨hval, hflag⟩ := Prod.mk.inj (clamp_saturates (v := v) hrange)
    simp only [intElem, intResult, Bool.false_eq_true, if_false]
    rw [hval, hflag, toNat_ofInt_mod h64]
    cases uns <;> rfl
  · exact congrArg (Rounded.mk · 0) (toNat_ofInt_mod h64 v)

theorem Claim.src_lt (c : Claim) (y : VSrc) {w : Nat} (uns : Bool) (j : Nat) (h64 : w ≤ 64) :
    c.src y w uns j < 2 ^ w := by
  cases y with
  | v r => exact elemOf_lt _ _ _
  | lit v =>
    unfold Claim.src litElem
    dsimp only
    split
    · next h =>
      subst h
      split
      · exact v.isLt.trans (by decide)
      · exact (v.signExtend 64).isLt
    · exact Nat.mod_lt _ (Nat.two_pow_pos w)

/-! ### The claim after a register has been written -/

theorem onlyV_set (vd : VNo) (c : Claim) (r : List Word) : OnlyV vd c { c with v := c.v.set vd.val r } := by
  simp [OnlyV, Claim.vreg]

@[simp] theorem Claim.vreg_set (vd : VNo) (c : Claim) (r : List Word) :
    Claim.vreg { c with v := c.v.set vd.val r } vd = r := by
  simp [Claim.vreg]

/-! ### A merged destination -/

/-- The results are the same element of `w` bits with the same flags. -/
def SameElem (w : Nat) (a b : Rounded) : Prop := a.bits % 2 ^ w = b.bits % 2 ^ w ∧ a.flags = b.flags

theorem SameElem.refl (w : Nat) (a : Rounded) : SameElem w a a := ⟨rfl, rfl⟩

theorem SameElem.of_eq {w : Nat} {a b : Rounded} (h : a = b) : SameElem w a b := h ▸ .refl w a

theorem Claim.elemAfter_congr {c : Claim} {old : List Word} {w : Nat} {m : Option VMask} {j x y : Nat}
    (h : x % 2 ^ w = y % 2 ^ w) : c.elemAfter old w m j x = c.elemAfter old w m j y := by
  rw [Claim.elemAfter, Claim.elemAfter, h]

/-- An instruction that merges the elements of its form completes as its form says. -/
theorem VForm.completes_of_vecOp {x : VForm} {i : Instr} {f : State → Claim → Nat → Rounded} (hw : LaneWidth x.w)
    (hexec : ∀ s, exec i s = vecOp x.g x.vd x.w x.mask x.conv f s)
    (hf : ∀ s c j, SameElem x.w (f s c j) (x.f s c j)) : x.completes i := by
  intro s c hg hc h0
  refine ⟨_, _, (hexec s).trans (vecOp_completes _ _ _ _ _ _ s c hg hc h0), onlyV_set _ _ _, ?_, fun j hj => ?_,
    fun b => ?_⟩
  · rw [Claim.vreg_set]
    exact merge_length _ _ _ _ _
  · rw [Claim.vreg_set, merge_elem _ _ _ _ _ _ hw hj]
    exact Claim.elemAfter_congr (hf s c j).1
  · simp only [merge_flags, (hf s c _).2]

/-! ### The functions of Table 9.6 -/

theorem aluForm_completes {o : OpVAlu} {conv : Bool} {fi : Nat → Nat → Nat → Rounded}
    {ff : NFmt → RCtx → Nat → Nat → Rounded} {fn : VFn} {x : VForm} {i : Instr}
    (hexec : ∀ s, exec i s = vecAlu o fn conv s)
    (hint : ∀ {w a b : Nat}, w ≤ 64 → a < 2 ^ w → b < 2 ^ w → SameElem w (intFn fn w o.uns o.ovf a b) (fi w a b))
    (hflt : ∀ e c a b, fltFn fn e c a b = ff e c a b) (hx : aluForm o conv fi ff = some x) : x.completes i := by
  cases hx
  refine VForm.completes_of_vecOp (laneWidth_ok _) hexec fun s c j => ?_
  dsimp only
  split
  · exact hint (laneWidth_le _) (elemOf_lt _ _ _) (c.src_lt _ _ _ (laneWidth_le _))
  · exact .of_eq (hflt _ _ _ _)

theorem intFn_shl {w a b : Nat} (uns ovf : Bool) :
    SameElem w (intFn .shl w uns ovf a b) ⟨a * 2 ^ (b % w), 0⟩ := ⟨Nat.mod_mod _ _, rfl⟩

section
variable {o : OpVAlu} {w a b : Nat} (h64 : w ≤ 64) (ha : a < 2 ^ w) (hb : b < 2 ^ w)
include h64 ha hb

/-- A sum, difference or product of elements is that of their numbers. -/
theorem intElem_eq_intAlu (f : Int → Int → Int) :
    intElem w o.uns o.ovf (f (intVal w o.uns a) (intVal w o.uns b)) = intAlu o f w a b := by
  rw [intVal_eq_elemInt _ h64 ha, intVal_eq_elemInt _ h64 hb, intElem_eq_intResult _ _ _ h64, intAlu]

theorem intFn_min (uns ovf : Bool) :
    intFn .min w uns ovf a b = ⟨if elemInt w uns a ≤ elemInt w uns b then a else b, 0⟩ := by
  simp only [intFn, intVal_eq_elemInt _ h64 ha, intVal_eq_elemInt _ h64 hb]

theorem intFn_max (uns ovf : Bool) :
    intFn .max w uns ovf a b = ⟨if elemInt w uns b ≤ elemInt w uns a then a else b, 0⟩ := by
  simp only [intFn, intVal_eq_elemInt _ h64 ha, intVal_eq_elemInt _ h64 hb]

end

theorem intFn_sar {w a b : Nat} (uns ovf : Bool) (h64 : w ≤ 64) (ha : a < 2 ^ w) :
    SameElem w (intFn .sar w uns ovf a b) ⟨(elemInt w false a / 2 ^ (b % w) % 2 ^ w).toNat, 0⟩ := by
  simp only [intFn, intVal_eq_elemInt _ h64 ha, toNat_ofInt_mod h64]
  exact .refl _ _

/-- Settles O38: each instruction merges under its mask the elements that its form gives, which for integers are the
numbers of Table 9.6 and for floats the rounded results themselves. -/
theorem elementwiseVectorResults : Obligations.ElementwiseVectorResults := by
  unfold Obligations.ElementwiseVectorResults
  intro i x hx
  cases i
  case vadd | vsub | vmul =>
    exact aluForm_completes (fun _ => rfl) (fun h ha hb => .of_eq (intElem_eq_intAlu h ha hb _)) (fun _ _ _ _ => rfl) hx
  case vmin =>
    exact aluForm_completes (fun _ => rfl) (fun h ha hb => .of_eq (intFn_min h ha hb _ _)) (fun _ _ _ _ => rfl) hx
  case vmax =>
    exact aluForm_completes (fun _ => rfl) (fun h ha hb => .of_eq (intFn_max h ha hb _ _)) (fun _ _ _ _ => rfl) hx
  case vand | vor | vxor | vshr =>
    exact aluForm_completes (fun _ => rfl) (fun _ _ _ => .refl _ _) (fun _ _ _ _ => rfl) hx
  case vshl =>
    exact aluForm_completes (fun _ => rfl) (fun _ _ _ => intFn_shl _ _) (fun _ _ _ _ => rfl) hx
  case vsar =>
    exact aluForm_completes (fun _ => rfl) (fun h ha _ => intFn_sar _ _ h ha) (fun _ _ _ _ => rfl) hx
  case vfma o =>
    cases hx
    refine VForm.completes_of_vecOp (laneWidth_ok _) (fun _ => rfl) fun s c j => .of_eq ?_
    have h64 := laneWidth_le o.fmt
    simp only [intVal_eq_elemInt _ h64 (elemOf_lt _ _ _), intVal_eq_elemInt _ h64 (c.src_lt _ _ _ h64),
      intElem_eq_intResult _ _ _ h64]
  case vabs o =>
    cases hx
    refine VForm.completes_of_vecOp (laneWidth_ok _) (fun _ => rfl) fun s c j => .of_eq ?_
    have h64 := laneWidth_le o.fmt
    simp only [intVal_eq_elemInt _ h64 (elemOf_lt _ _ _), intElem_eq_intResult _ _ _ h64]
  case vcvt o =>
    cases hx
    refine VForm.completes_of_vecOp (laneWidth_ok _) (fun _ => rfl) fun s c j => .of_eq ?_
    simp only [Nat.succ_mul]
  case vsel | vperm | vexp2 | vlog2 | vrcp | vrsq | vsqrt | vtanh | vsigm =>
    cases hx
    exact VForm.completes_of_vecOp (laneWidth_ok _) (fun _ => rfl) fun _ _ _ => .refl _ _
  all_goals cases hx

end Sys2Proof.Machine
end

section
/-! Fills, moves between lanes and registers, comparisons and mask logic (O39): 09 R183, R191, R192, R194, R195, R201. -/

namespace Sys2Proof.Machine

/-! ### Reading and writing the claim of the issuing thread (09 R184) -/

theorem getClaim_some {s : State} {c : Claim} (hc : s.cur.claim = some c) (h0 : c.grant ≠ 0) :
    Gives getClaim s c s := by
  unfold Gives getClaim
  rw [hc]
  exact if_neg h0

/-- The issuing thread has the claim `d`. -/
abbrev State.withClaim (s : State) (d : Claim) : State := s.updCur fun t => { t with claim := some d }

theorem State.updCur_congr {s : State} {f g : Thread → Thread} (h : f s.cur = g s.cur) : s.updCur f = s.updCur g := by
  rw [State.updCur, State.updCur, h]

/-- A change of the claim of the issuing thread. -/
theorem updCur_claim {s : State} {c : Claim} (hc : s.cur.claim = some c) (f : Claim → Claim) :
    Gives (updCur fun t => { t with claim := t.claim.map f }) s () (s.withClaim (f c)) :=
  congrArg (fun u => Except.ok ((), u)) (State.updCur_congr (by rw [hc]; rfl))

theorem setV_claim {s : State} {c : Claim} (hc : s.cur.claim = some c) (n : VNo) (r : List Word) :
    Gives (setV n r) s () (s.withClaim { c with v := c.v.set n.val r }) := updCur_claim hc _

theorem setK_claim {s : State} {c : Claim} (hc : s.cur.claim = some c) (n : KNo) (r : List Byte) :
    Gives (setK n r) s () (s.withClaim { c with k := c.k.set n.val r }) := updCur_claim hc _

/-- The claim `d` is `c` but for mask register `kd`. -/
def OnlyK (kd : KNo) (c d : Claim) : Prop := { d with k := d.k.set kd.val (c.kreg kd) } = c

theorem onlyK_set (kd : KNo) (c : Claim) (r : List Byte) : OnlyK kd c { c with k := c.k.set kd.val r } := by
  simp [OnlyK, Claim.kreg]

@[simp] theorem Claim.kreg_set (kd : KNo) (c : Claim) (r : List Byte) :
    Claim.kreg { c with k := c.k.set kd.val r } kd = r := by
  simp [Claim.kreg]

/-! ### Mask bits -/

/-- A byte made of the bits of `f` below `p`. -/
theorem getLsbD_sumBits (f : Nat → Bool) {p : Nat} (hp : p ≤ 8) (k : Nat) :
    (BitVec.ofNat 8 ((List.range p).foldl (fun n k => n + (if f k then 2 ^ k else 0)) 0)).getLsbD k =
      (decide (k < p) && f k) := by
  have hsum : (fun n k => n + (if f k then 2 ^ k else 0)) = fun n k => n + (f k).toNat * 2 ^ k := by
    funext n k
    cases f k <;> simp
  have hbit : ∀ k, (f k).toNat < 2 := fun k => Bool.toNat_lt _
  rw [hsum, BitVec.getLsbD_ofNat]
  by_cases hk : k < p
  · rw [Nat.testBit_eq_decide_div_mod_eq, digit_of 2 (fun k => (f k).toNat) p k hbit hk]
    cases f k <;> simp [hk]; omega
  · have hlt := (digits_lt 2 (fun k => (f k).toNat) p hbit).trans_le
      (Nat.pow_le_pow_right (by decide) (not_lt.1 hk))
    rw [Nat.testBit_lt_two_pow hlt]
    simp [hk]

/-- At most eight elements stand in a lane. -/
def MaskWidth (w : Nat) : Prop := LaneWidth w ∧ 64 / w ≤ 8

theorem LaneWidth.perLane_pos {w : Nat} (h : LaneWidth w) : 0 < 64 / w := by
  obtain ⟨_, h64⟩ := h
  rcases Nat.eq_zero_or_pos (64 / w) with h0 | hpos
  · rw [h0] at h64
    omega
  · exact hpos

theorem getLsbD_packMask {w g i : Nat} (l : List Bool) (k : Nat) (hw : MaskWidth w) (hi : i < g) :
    ((packMask w g l).getD i 0).getLsbD k = (decide (k < 64 / w) && l.getD (i * (64 / w) + k) false) := by
  unfold packMask
  simp only [List.getD_eq_getElem?_getD, List.getElem?_map, List.getElem?_range hi, Option.map_some, Option.getD_some]
  exact getLsbD_sumBits _ hw.2 k

/-- A bit of a packed mask is the bit of the list. -/
theorem maskBit_packMask {w g j : Nat} (l : List Bool) (hw : MaskWidth w) (hj : j < g * (64 / w)) :
    maskBit (packMask w g l) w j = l.getD j false := by
  have hlane : j / (64 / w) < g := Nat.div_lt_of_lt_mul (by rwa [Nat.mul_comm])
  rw [maskBit, getLsbD_packMask l _ hw hlane, decide_eq_true (Nat.mod_lt _ hw.1.perLane_pos), Bool.true_and,
    Nat.div_add_mod']

theorem maskWidth_of_vecFmt {f : Fmt} (h : vecFmt f = true) : MaskWidth (laneWidth f) := by
  refine ⟨laneWidth_ok f, ?_⟩
  cases f
  case i8 | i16 | i32 | i64 | fp32 | bf16 | fp16 => decide
  all_goals cases h

/-! ### VBCAST, VIOTA, VBPERM: merged destinations -/

/-- A destination merged under a mask in a machine whose thread has the claim. -/
theorem setV_merge {s : State} {c : Claim} (hc : s.cur.claim = some c) (n : VNo) {w : Nat} (m : Option VMask)
    (f : Nat → Rounded) (hw : LaneWidth w) : ∃ d, OnlyV n c d ∧
    Gives (setV n (c.merge (c.vreg n) w m f).1) s () (s.withClaim d) ∧
    ∀ j, j < c.grant * (64 / w) → elemOf (d.vreg n) w j = c.elemAfter (c.vreg n) w m j (f j).bits :=
  ⟨_, onlyV_set _ _ _, setV_claim hc _ _, fun j hj => by rw [Claim.vreg_set, merge_elem _ _ _ _ _ _ hw hj]⟩

theorem vecFill_fills {o : OpVFill} {step : Bool} {s s1 : State} {c : Claim} {v : Nat} (hg : s.cur.guardOn o.g = true)
    (hc : s.cur.claim = some c) (h0 : c.grant ≠ 0) (hv : Gives (readVal o.val (laneWidth o.fmt)) s v s1)
    (hc1 : s1.cur.claim = some c) : ∃ d, OnlyV o.v c d ∧ vecFill o step s = .next ((s1.withClaim d).finished .seq) ∧
      ∀ j, j < c.grant * (64 / laneWidth o.fmt) → elemOf (d.vreg o.v) (laneWidth o.fmt) j =
        c.elemAfter (c.vreg o.v) (laneWidth o.fmt) o.mask j (v + j * step.toNat) := by
  obtain ⟨d, honly, hset, helem⟩ := setV_merge hc1 o.v o.mask
    (fun j => ⟨(v + (if step then j else 0)) % 2 ^ laneWidth o.fmt, 0⟩) (laneWidth_ok o.fmt)
  refine ⟨d, honly, ?_, fun j hj => (helem j hj).trans (Claim.elemAfter_congr ?_)⟩
  · refine (issue_on _ _ _ hg).trans ?_
    rw [bind_ok _ _ _ _ _ (getClaim_some hc h0), bind_ok _ _ _ _ _ hv]
    dsimp only
    rw [bind_ok _ _ _ _ _ hset]
    rfl
  · cases step <;> simp

theorem execVbperm_permutes {o : OpVBperm} {s : State} {c : Claim} (hg : s.cur.guardOn o.g = true)
    (hc : s.cur.claim = some c) (h0 : c.grant ≠ 0) (hin : 2 ^ o.dist.toNat < c.count (laneWidth o.fmt)) :
    ∃ d, OnlyV o.vd c d ∧ exec (.vbperm o) s = .next ((s.withClaim d).finished .seq) ∧
      ∀ j, j < c.grant * (64 / laneWidth o.fmt) → elemOf (d.vreg o.vd) (laneWidth o.fmt) j =
        c.elemAfter (c.vreg o.vd) (laneWidth o.fmt) o.mask j
          (elemOf (c.vreg o.va) (laneWidth o.fmt) (j ^^^ 2 ^ o.dist.toNat)) := by
  obtain ⟨d, honly, hset, helem⟩ := setV_merge hc o.vd o.mask
    (fun j => ⟨elemOf (c.vreg o.va) (laneWidth o.fmt) (j ^^^ 2 ^ o.dist.toNat), 0⟩) (laneWidth_ok o.fmt)
  refine ⟨d, honly, (issue_on _ _ _ hg).trans ?_, helem⟩
  rw [bind_ok _ _ _ _ _ (getClaim_some hc h0), decide_eq_true hin, bind_ok _ _ _ _ _ (orTrap_true _ _ _ s)]
  dsimp only
  rw [bind_ok _ _ _ _ _ hset]
  rfl

theorem execVbperm_outside {o : OpVBperm} {s : State} {c : Claim} (hg : s.cur.guardOn o.g = true)
    (hc : s.cur.claim = some c) (h0 : c.grant ≠ 0) (hout : c.count (laneWidth o.fmt) ≤ 2 ^ o.dist.toNat) :
    exec (.vbperm o) s = .next (s.takeTrap .illegalOperand (some (o.dist.setWidth 64)) (some 7)) := by
  refine (issue_on _ _ _ hg).trans ?_
  rw [bind_ok _ _ _ _ _ (getClaim_some hc h0), decide_eq_false (not_lt.2 hout),
    bind_error _ _ _ _ (orTrap_false _ _ _ s), settle_trap]

/-! ### VEXT and VINS: an element and a scalar -/

theorem sext_eq_elemInt {w x : Nat} (h64 : w ≤ 64) (hx : x < 2 ^ w) :
    sext w (BitVec.ofNat 64 x) = BitVec.ofInt 64 (elemInt w false x) := by
  have hpow : 2 ^ w ≤ 2 ^ 64 := Nat.pow_le_pow_right (by decide) h64
  rw [sext, BitVec.toNat_ofNat, Nat.mod_eq_of_lt (hx.trans_le hpow), Nat.mod_eq_of_lt hx]
  simp only [elemInt, Bool.false_eq_true, false_or]
  split
  · rw [BitVec.ofInt_natCast]
  · apply BitVec.eq_of_toNat_eq
    rw [BitVec.toNat_ofInt, BitVec.toNat_ofNat]
    have hcast : ((2 ^ w : Nat) : Int) = 2 ^ w := by norm_num
    omega

/-- An element as VEXT and the reductions return it: an integer extended, a float zero-extended (09 R192). -/
theorem scalarOf_eq {f : Fmt} (uns : Bool) {x : Nat} (hx : x < 2 ^ laneWidth f) :
    scalarOf f uns x = if isIntFmt f = true ∧ uns = false then BitVec.ofInt 64 (elemInt (laneWidth f) false x)
      else BitVec.ofNat 64 x := by
  unfold scalarOf
  cases isIntFmt f <;> cases uns <;> simp [sext_eq_elemInt (laneWidth_le f) hx]

section
variable {o : OpVExt} {s s1 : State} {c : Claim} {k : Word} (hg : s.cur.guardOn o.g = true)
  (hd : Gives (checkDst o.d) s () s) (hc : s.cur.claim = some c) (h0 : c.grant ≠ 0)
  (hk : Gives (operandZ o.idx) s k s1)
include hg hd hc h0 hk

theorem execVext_outside (hout : c.count (laneWidth o.fmt) ≤ k.toNat) :
    exec (.vext o) s = .next (s1.takeTrap .illegalOperand (some k) (some 4)) := by
  refine (issue_on _ _ _ hg).trans ?_
  rw [bind_ok _ _ _ _ _ hd, bind_ok _ _ _ _ _ (getClaim_some hc h0), bind_ok _ _ _ _ _ hk,
    decide_eq_false (not_lt.2 hout), bind_error _ _ _ _ (orTrap_false _ _ _ s1), settle_trap]

theorem execVext_extracts {t : State} {fl : Flow} (hin : k.toNat < c.count (laneWidth o.fmt))
    (hw : Gives (writeD o.d (scalarOf o.fmt o.uns (elemOf (c.vreg o.va) (laneWidth o.fmt) k.toNat))) s1 fl t) :
    exec (.vext o) s = .next (t.finished fl) := by
  refine (issue_on _ _ _ hg).trans ?_
  rw [bind_ok _ _ _ _ _ hd, bind_ok _ _ _ _ _ (getClaim_some hc h0), bind_ok _ _ _ _ _ hk, decide_eq_true hin,
    bind_ok _ _ _ _ _ (orTrap_true _ _ _ s1), hw, settle_written _ _ _ _ _ _ hw]

end

/-- One element of a register replaced. -/
theorem elemOf_packLanes_set (c : Claim) (r : List Word) {w : Nat} (k x j : Nat) (hw : LaneWidth w)
    (hj : j < c.grant * (64 / w)) : elemOf (packLanes w c.grant ((c.elems r w).set k (x % 2 ^ w))) w j =
      if j = k then x % 2 ^ w else elemOf r w j := by
  have hj' : j < c.count w := hj
  rw [elemOf_packLanes w _ _ _ hw hj]
  unfold Claim.elems
  rw [List.getD_eq_getElem?_getD, List.getElem?_set]
  by_cases hjk : k = j
  · subst hjk
    simp [hj']
  · simp [hjk, Ne.symm hjk, List.getElem?_range hj', Nat.mod_eq_of_lt (elemOf_lt r w j)]

section
variable {o : OpVIns} {s s1 s2 : State} {c : Claim} {a k : Word} (hg : s.cur.guardOn o.g = true)
  (hc : s.cur.claim = some c) (h0 : c.grant ≠ 0) (ha : Gives (readS o.a) s a s1) (hk : Gives (operandZ o.idx) s1 k s2)
include hg hc h0 ha hk

theorem execVins_outside (hout : c.count (laneWidth o.fmt) ≤ k.toNat) :
    exec (.vins o) s = .next (s2.takeTrap .illegalOperand (some k) (some 4)) := by
  refine (issue_on _ _ _ hg).trans ?_
  rw [bind_ok _ _ _ _ _ (getClaim_some hc h0), bind_ok _ _ _ _ _ ha, bind_ok _ _ _ _ _ hk,
    decide_eq_false (not_lt.2 hout), bind_error _ _ _ _ (orTrap_false _ _ _ s2), settle_trap]

theorem execVins_inserts (hc2 : s2.cur.claim = some c) (hin : k.toNat < c.count (laneWidth o.fmt)) :
    ∃ d, OnlyV o.v c d ∧ exec (.vins o) s = .next ((s2.withClaim d).finished .seq) ∧
      ∀ j, j < c.grant * (64 / laneWidth o.fmt) → elemOf (d.vreg o.v) (laneWidth o.fmt) j =
        if j = k.toNat then a.toNat % 2 ^ laneWidth o.fmt else elemOf (c.vreg o.v) (laneWidth o.fmt) j := by
  refine ⟨_, onlyV_set o.v c (packLanes (laneWidth o.fmt) c.grant
    ((c.elems (c.vreg o.v) (laneWidth o.fmt)).set k.toNat (a.toNat % 2 ^ laneWidth o.fmt))),
    (issue_on _ _ _ hg).trans ?_, fun j hj => ?_⟩
  · rw [bind_ok _ _ _ _ _ (getClaim_some hc h0), bind_ok _ _ _ _ _ ha, bind_ok _ _ _ _ _ hk, decide_eq_true hin,
      bind_ok _ _ _ _ _ (orTrap_true _ _ _ s2), bind_ok _ _ _ _ _ (setV_claim hc2 _ _)]
    rfl
  · rw [Claim.vreg_set, elemOf_packLanes_set _ _ _ _ _ (laneWidth_ok _) hj]

end

/-! ### VCMP, KLOG and KPOP: masks -/

/-- Condition `n` on two elements and the numbers that they stand for (04 Table 4.9, 09 R194). -/
def elemCond (n x y : Nat) (a b : Int) : Bool :=
  match n with
  | 0 => decide (x = y)
  | 1 => decide (x ≠ y)
  | 2 => decide (a < b)
  | 3 => decide (a ≤ b)
  | 4 => decide (b < a)
  | 5 => decide (b ≤ a)
  | 6 => decide (a < b)
  | 7 => decide (a ≤ b)
  | 8 => decide (b < a)
  | _ => decide (b ≤ a)

/-- Conditions 6 to 9 compare without sign whatever UNS says, the others by it (04 Table 4.9, log 34). -/
theorem icondElem_eq {n w x y : Nat} (uns : Bool) (h64 : w ≤ 64) (hx : x < 2 ^ w) (hy : y < 2 ^ w) :
    icondElem n w uns x y =
      elemCond n x y (elemInt w (uns || decide (6 ≤ n)) x) (elemInt w (uns || decide (6 ≤ n)) y) := by
  unfold icondElem
  simp only [intVal_eq_elemInt _ h64 hx, intVal_eq_elemInt _ h64 hy]
  match n with
  | 0 => rfl
  | 1 => exact decide_not.symm
  | 2 | 3 | 4 | 5 | 6 | 7 | 8 | 9 => rfl
  | n + 10 => rfl

/-- A mask whose bits are those of `f` (09 R194, R195). -/
theorem setK_packMask {s : State} {c : Claim} (hc : s.cur.claim = some c) (n : KNo) {w : Nat} (l : List Bool)
    (hw : MaskWidth w) : ∃ d, OnlyK n c d ∧
      Gives (setK n (packMask w c.grant l)) s () (s.withClaim d) ∧
      (∀ j, j < c.grant * (64 / w) → maskBit (d.kreg n) w j = l.getD j false) ∧
      ∀ i b, i < c.grant → 64 / w ≤ b → ((d.kreg n).getD i 0).getLsbD b = false :=
  ⟨_, onlyK_set _ _ _, setK_claim hc _ _, fun j hj => by rw [Claim.kreg_set, maskBit_packMask l hw hj],
    fun i b hi hb => by
      rw [Claim.kreg_set, getLsbD_packMask l b hw hi, decide_eq_false (not_lt.2 hb), Bool.false_and]⟩

/-- The condition of VCMP at element `j`, with the flags that it raises. -/
def vcmpHolds (o : OpVCmp) (c : Claim) (j : Nat) : Bool × Word :=
  let w := laneWidth o.fmt
  let x := elemOf (c.vreg o.va) w j
  let y := c.src o.y w o.uns j
  if isIntFmt o.fmt then (icondElem o.cond.toNat w o.uns x y, 0)
  else fcond (fcondOf o.cond.toNat) (decodeElem (fmtElem o.fmt) false x) (decodeElem (fmtElem o.fmt) false y)

/-- What VCMP gives at each element: its condition, or the bit that an inactive one keeps. -/
def vcmpResults (o : OpVCmp) (c : Claim) : List (Bool × Word) :=
  (List.range (c.count (laneWidth o.fmt))).map fun j =>
    if c.active (maskOf o.mask) (laneWidth o.fmt) j then vcmpHolds o c j
    else (!zeroing o.mask && maskBit (c.kreg o.kd) (laneWidth o.fmt) j, 0)

/-- The condition is that of two numbers, or of two decoded floats. -/
theorem vcmpHolds_eq (o : OpVCmp) (c : Claim) (j : Nat) : (vcmpHolds o c j).1 =
    let w := laneWidth o.fmt
    let x := elemOf (c.vreg o.va) w j
    let y := c.src o.y w o.uns j
    let u := o.uns || decide (6 ≤ o.cond.toNat)
    if isIntFmt o.fmt then elemCond o.cond.toNat x y (elemInt w u x) (elemInt w u y)
    else (fcond (fcondOf o.cond.toNat) (decodeElem (fmtElem o.fmt) false x) (decodeElem (fmtElem o.fmt) false y)).1 := by
  have h64 := laneWidth_le o.fmt
  rw [vcmpHolds, icondElem_eq _ h64 (elemOf_lt _ _ _) (c.src_lt _ _ _ h64)]
  split <;> rfl

theorem vcmpResults_getD (o : OpVCmp) (c : Claim) {j : Nat} (hj : j < c.grant * (64 / laneWidth o.fmt)) :
    ((vcmpResults o c).map (·.1)).getD j false = if c.active (maskOf o.mask) (laneWidth o.fmt) j then (vcmpHolds o c j).1
      else !zeroing o.mask && maskBit (c.kreg o.kd) (laneWidth o.fmt) j := by
  have hj' : j < c.count (laneWidth o.fmt) := hj
  simp only [vcmpResults, List.getD_eq_getElem?_getD, List.getElem?_map, List.getElem?_range hj', Option.map_some,
    Option.getD_some]
  split <;> rfl

theorem foldl_or_zero {α : Type} (f : α → Word) {l : List α} (h : ∀ x ∈ l, f x = 0) :
    l.foldl (fun w x => w ||| f x) 0 = 0 := by
  induction l with
  | nil => rfl
  | cons x l ih =>
    obtain ⟨hx, hl⟩ := List.forall_mem_cons.1 h
    rw [List.foldl_cons, hx]
    exact ih hl

/-- Comparisons of integers raise nothing. -/
theorem vcmpResults_flags (o : OpVCmp) (c : Claim) (hint : isIntFmt o.fmt = true) :
    (vcmpResults o c).foldl (fun f r => f ||| r.2) 0 = 0 := by
  refine foldl_or_zero _ fun r hr => ?_
  obtain ⟨j, -, rfl⟩ := List.mem_map.1 hr
  unfold vcmpHolds
  rw [if_pos hint]
  split <;> rfl

theorem execVcmp_runs {o : OpVCmp} {s : State} {c d : Claim} (hg : s.cur.guardOn o.g = true)
    (hc : s.cur.claim = some c) (h0 : c.grant ≠ 0)
    (hset : Gives (setK o.kd (packMask (laneWidth o.fmt) c.grant ((vcmpResults o c).map (·.1))))
      (s.flagged ((vcmpResults o c).foldl (fun f r => f ||| r.2) 0)) ()
      ((s.flagged ((vcmpResults o c).foldl (fun f r => f ||| r.2) 0)).withClaim d)) :
    exec (.vcmp o) s =
      .next (((s.flagged ((vcmpResults o c).foldl (fun f r => f ||| r.2) 0)).withClaim d).finished .seq) := by
  refine (issue_on _ _ _ hg).trans ?_
  rw [bind_ok _ _ _ _ _ (getClaim_some hc h0)]
  dsimp only
  rw [bind_ok _ _ _ _ _ (raiseFlags_run _ s)]
  have hrest := bind_ok _ (fun _ => pure Flow.seq) _ _ _ hset
  exact congrArg (fun r => Host.Outcome.next (s.settle r)) hrest

/-- The byte of KLOG of two mask bytes (09 R195). -/
def klogByte (lut : BitVec 4) (a b : Byte) : Byte :=
  BitVec.ofNat 8 ((List.range 8).foldl (fun n i =>
    n + (if lutBit lut (a.getLsbD i) (b.getLsbD i) then 2 ^ i else 0)) 0)

theorem getLsbD_klogByte (lut : BitVec 4) (a b : Byte) {k : Nat} (hk : k < 8) :
    (klogByte lut a b).getLsbD k = lutBit lut (a.getLsbD k) (b.getLsbD k) := by
  rw [klogByte, getLsbD_sumBits (fun i => lutBit lut (a.getLsbD i) (b.getLsbD i)) le_rfl, decide_eq_true hk,
    Bool.true_and]

theorem execKlog_combines {o : OpKlog} {s : State} {c : Claim} (hg : s.cur.guardOn o.g = true)
    (hc : s.cur.claim = some c) (h0 : c.grant ≠ 0) : ∃ d, OnlyK o.kd c d ∧
      exec (.klog o) s = .next ((s.withClaim d).finished .seq) ∧ ∀ i, i < c.grant →
        (d.kreg o.kd).getD i 0 = klogByte o.lut ((c.kreg o.ka).getD i 0) ((c.kreg o.kb).getD i 0) := by
  refine ⟨_, onlyK_set o.kd c ((List.range c.grant).map fun i =>
    klogByte o.lut ((c.kreg o.ka).getD i 0) ((c.kreg o.kb).getD i 0)), (issue_on _ _ _ hg).trans ?_, fun i hi => ?_⟩
  · rw [bind_ok _ _ _ _ _ (getClaim_some hc h0)]
    exact congrArg (fun r => Host.Outcome.next (s.settle r)) (bind_ok _ _ _ _ _ (setK_claim hc _ _))
  · rw [Claim.kreg_set]
    simp [List.getD_eq_getElem?_getD, List.getElem?_range hi]

theorem execKpop_counts {o : OpKpop} {s t : State} {c : Claim} {fl : Flow} (hg : s.cur.guardOn o.g = true)
    (hd : Gives (checkDst o.d) s () s) (hc : s.cur.claim = some c) (h0 : c.grant ≠ 0)
    (hw : Gives (writeD o.d (BitVec.ofNat 64 ((List.range (c.count (laneWidth o.fmt))).countP fun j =>
      maskBit (c.kreg o.ka) (laneWidth o.fmt) j))) s fl t) : exec (.kpop o) s = .next (t.finished fl) := by
  rw [List.countP_eq_length_filter] at hw
  refine (issue_on _ _ _ hg).trans ?_
  rw [bind_ok _ _ _ _ _ hd, bind_ok _ _ _ _ _ (getClaim_some hc h0)]
  rw [hw, settle_written _ _ _ _ _ _ hw]

/-- Settles O39: a fill or distance merges its elements, VEXT and VINS take one element, and VCMP and KLOG pack the bits
that their conditions and table give. -/
theorem vectorMovesAndMasks : Obligations.VectorMovesAndMasks := by
  unfold Obligations.VectorMovesAndMasks
  refine ⟨fun o s s1 c v hg hc h0 hv hc1 => ?_, fun o s s1 c k hg hd hc h0 hk => ?_,
    fun o s s1 s2 c a k hg hc h0 ha hk hc2 => ?_, fun o s c hg hc h0 => ?_, fun o s c hwf hg hc h0 => ?_,
    fun o s c hg hc h0 => ?_, fun o s c hg hd hc h0 t fl => execKpop_counts hg hd hc h0⟩
  · exact ⟨vecFill_fills hg hc h0 hv hc1 (step := false),
      vecFill_fills hg hc h0 hv hc1 (step := true)⟩
  · refine ⟨execVext_outside hg hd hc h0 hk, fun hin t fl hw => execVext_extracts hg hd hc h0 hk hin ?_⟩
    rw [scalarOf_eq _ (elemOf_lt _ _ _)]
    exact hw
  · exact ⟨execVins_outside hg hc h0 ha hk, execVins_inserts hg hc h0 ha hk hc2⟩
  · exact ⟨execVbperm_outside hg hc h0, execVbperm_permutes hg hc h0⟩
  · obtain ⟨-, hfmt⟩ := Bool.and_eq_true_iff.1 (Bool.and_eq_true_iff.1 hwf).1
    obtain ⟨d, honly, hset, hbit, hhigh⟩ := setK_packMask
      (s := s.flagged ((vcmpResults o c).foldl (fun f r => f ||| r.2) 0)) hc o.kd ((vcmpResults o c).map (·.1))
      (maskWidth_of_vecFmt hfmt)
    refine ⟨d, _, execVcmp_runs hg hc h0 hset, honly, fun j hj => ?_, hhigh, vcmpResults_flags o c⟩
    rw [hbit j hj, vcmpResults_getD o c hj, vcmpHolds_eq]
    rfl
  · obtain ⟨d, honly, hrun, hbyte⟩ := execKlog_combines hg hc h0
    refine ⟨d, hrun, honly, fun l b hl hb => ?_⟩
    rw [hbyte l hl, getLsbD_klogByte _ _ _ hb]
    rfl

end Sys2Proof.Machine
end

section
/-! Vector reductions and MX blocks (O40): 08 R156, R170, 09 R197 to R199. -/

namespace Sys2Proof.Machine

/-! ### Sums and extremes of integers (09 R199) -/

theorem elemInt_inj {w a b : Nat} (uns : Bool) (ha : a < 2 ^ w) (hb : b < 2 ^ w) :
    elemInt w uns a = elemInt w uns b ↔ a = b := by
  have hcast : ((2 ^ w : Nat) : Int) = 2 ^ w := by norm_num
  unfold elemInt
  cases uns
  · simp only [Bool.false_eq_true, false_or]
    split <;> split <;> omega
  · simp

theorem Claim.actives_lt {c : Claim} {r : List Word} {m : Option KNo} {w x : Nat} (h : x ∈ c.actives r m w) :
    x < 2 ^ w := by
  obtain ⟨j, -, rfl⟩ := List.mem_map.1 h
  exact elemOf_lt _ _ _

theorem foldl_intVal_eq_sum {w : Nat} (uns : Bool) {l : List Nat} (h64 : w ≤ 64) (hl : ∀ x ∈ l, x < 2 ^ w) :
    l.foldl (fun z x => z + intVal w uns x) 0 = (l.map (elemInt w uns)).sum := by
  have hmap : l.map (intVal w uns) = l.map (elemInt w uns) :=
    List.map_congr_left fun x hx => intVal_eq_elemInt uns h64 (hl x hx)
  rw [← hmap, List.sum_eq_foldl, List.foldl_map]

/-- The one of two elements with the greater key, the first where they are equal. -/
def pickMost (key : Nat → Int) (a y : Nat) : Nat := if key y ≤ key a then a else y

/-- A fold picks an element of the list, and none has a greater key. -/
theorem foldl_pickMost (key : Nat → Int) (l : List Nat) (a : Nat) :
    l.foldl (pickMost key) a ∈ a :: l ∧ ∀ y ∈ a :: l, key y ≤ key (l.foldl (pickMost key) a) := by
  induction l generalizing a with
  | nil => simp
  | cons x l ih =>
    obtain ⟨hmem, hmost⟩ := ih (pickMost key a x)
    have hpick : pickMost key a x = a ∨ pickMost key a x = x := by
      unfold pickMost
      split
      · exact .inl rfl
      · exact .inr rfl
    have hkeys : key a ≤ key (pickMost key a x) ∧ key x ≤ key (pickMost key a x) := by
      unfold pickMost
      split <;> omega
    have hhead := hmost _ List.mem_cons_self
    rw [List.foldl_cons]
    refine ⟨?_, fun y hy => ?_⟩
    · rcases List.mem_cons.1 hmem with h | h
      · rw [h]
        rcases hpick with h | h <;> simp [h]
      · exact List.mem_cons_of_mem _ (List.mem_cons_of_mem _ h)
    · rcases List.mem_cons.1 hy with rfl | hy
      · exact hkeys.1.trans hhead
      · rcases List.mem_cons.1 hy with rfl | hy
        · exact hkeys.2.trans hhead
        · exact hmost y (List.mem_cons_of_mem _ hy)

/-- What an extreme has the most of: VRMAX the number, VRMIN its negative. -/
def extremeKey (w : Nat) (uns max : Bool) (x : Nat) : Int := if max then elemInt w uns x else -elemInt w uns x

/-- One step of the fold of VRMAX or VRMIN (09 R199). -/
def foldStep (f : Fmt) (uns max : Bool) (a : Rounded) (y : Nat) : Rounded :=
  let b := if isIntFmt f then intFn (if max then .max else .min) (laneWidth f) uns true a.bits y
    else minmaxVal (fmtElem f) max a.bits y
  ⟨b.bits, a.flags ||| b.flags⟩

theorem foldMinMax_cons (f : Fmt) (uns max : Bool) (x : Nat) (l : List Nat) :
    foldMinMax f uns max (x :: l) = some (l.foldl (foldStep f uns max) (minmaxOne f x)) := rfl

section
variable {f : Fmt} (uns max : Bool) (hint : isIntFmt f = true)
include hint

theorem foldStep_int {x y : Nat} (hx : x < 2 ^ laneWidth f) (hy : y < 2 ^ laneWidth f) :
    foldStep f uns max ⟨x, 0⟩ y = ⟨pickMost (extremeKey (laneWidth f) uns max) x y, 0⟩ := by
  have h64 := laneWidth_le f
  cases max
  · simp [foldStep, hint, intFn_min h64 hx hy, pickMost, extremeKey]
  · simp [foldStep, hint, intFn_max h64 hx hy, pickMost, extremeKey]

theorem foldl_foldStep_int {x : Nat} {l : List Nat} (hl : ∀ y ∈ x :: l, y < 2 ^ laneWidth f) :
    l.foldl (foldStep f uns max) ⟨x, 0⟩ = ⟨l.foldl (pickMost (extremeKey (laneWidth f) uns max)) x, 0⟩ := by
  induction l generalizing x with
  | nil => rfl
  | cons y l ih =>
    obtain ⟨hx, hrest⟩ := List.forall_mem_cons.1 hl
    obtain ⟨hy, hrest⟩ := List.forall_mem_cons.1 hrest
    have hpick : pickMost (extremeKey (laneWidth f) uns max) x y < 2 ^ laneWidth f := by
      unfold pickMost
      split
      · exact hx
      · exact hy
    rw [List.foldl_cons, List.foldl_cons, foldStep_int uns max hint hx hy, ih (List.forall_mem_cons.2 ⟨hpick, hrest⟩)]

/-- The extreme of integers is the element with the most, and raises nothing. -/
theorem foldMinMax_int {l : List Nat} {b : Nat} (hl : ∀ x ∈ l, x < 2 ^ laneWidth f) (hb : b ∈ l)
    (hmost : ∀ y ∈ l, extremeKey (laneWidth f) uns max y ≤ extremeKey (laneWidth f) uns max b) :
    foldMinMax f uns max l = some ⟨b, 0⟩ := by
  cases l with
  | nil => cases hb
  | cons x l =>
    have hone : minmaxOne f x = ⟨x, 0⟩ := if_pos hint
    rw [foldMinMax_cons, hone, foldl_foldStep_int uns max hint hl]
    obtain ⟨hmem, hkeys⟩ := foldl_pickMost (extremeKey (laneWidth f) uns max) l x
    have hkey := le_antisymm (hkeys b hb) (hmost _ hmem)
    have heq : elemInt (laneWidth f) uns b =
        elemInt (laneWidth f) uns (l.foldl (pickMost (extremeKey (laneWidth f) uns max)) x) := by
      cases max
      · exact neg_inj.1 hkey
      · exact hkey
    rw [← (elemInt_inj uns (hl b hb) (hl _ hmem)).1 heq]

end

/-! ### Extremes of floats (08 R156) -/

theorem decodeFlt_mod (p : FPar) (x : Nat) : decodeFlt p (x % 2 ^ p.width) = decodeFlt p x := by
  have hwidth : p.width = p.fb + (p.eb + 1) := by
    unfold FPar.width
    omega
  have hfrac : x % 2 ^ p.width % 2 ^ p.fb = x % 2 ^ p.fb :=
    Nat.mod_mod_of_dvd _ (Nat.pow_dvd_pow 2 (by omega))
  have hexp : x % 2 ^ p.width / 2 ^ p.fb % 2 ^ p.eb = x / 2 ^ p.fb % 2 ^ p.eb := by
    rw [hwidth, Nat.pow_add, Nat.mod_mul_right_div_self, Nat.mod_mod_of_dvd _ (Nat.pow_dvd_pow 2 (by omega))]
  have hsign : x % 2 ^ p.width / 2 ^ (p.fb + p.eb) % 2 = x / 2 ^ (p.fb + p.eb) % 2 := by
    rw [hwidth, ← Nat.add_assoc, Nat.pow_succ, Nat.mod_mul_right_div_self, Nat.mod_mod]
  unfold decodeFlt
  rw [hfrac, hexp, hsign]

/-- Bits above an encoding decide nothing. -/
theorem decodeElem_mod (e : NFmt) (x : Nat) : decodeElem e false (x % 2 ^ e.width) = decodeElem e false x := by
  cases e with
  | int w => simp [decodeElem, NFmt.width]
  | flt p => exact decodeFlt_mod p x
  | tap n => simp [decodeElem, decodeTap, NFmt.width]

theorem isNan_decodeFlt_e2m1 (x : Nat) : (decodeFlt e2m1 x).isNan = false := by
  have hother : (e2m1 == e4m3) = false := by decide
  unfold decodeFlt
  simp only [hother, show e2m1.hasInf = false from rfl, Bool.false_and, Bool.false_eq_true, if_false]
  split
  · split <;> rfl
  · rfl

/-- A format that has a NaN has a quiet canonical one. -/
theorem decodeElem_nan {f : Fmt} {x : Nat} (hint : isIntFmt f = false)
    (h : (decodeElem (fmtElem f) false x).isNan = true) :
    decodeElem (fmtElem f) false (fmtElem f).nan = .nan false := by
  cases f
  case mxfp4 => exact absurd h (by simp [fmtElem, decodeElem, isNan_decodeFlt_e2m1])
  case i8 | i16 | i32 | i64 => cases hint
  all_goals decide

/-- A NaN gives way to the other operand (04 R91). -/
theorem minmaxVal_nan_left {e : NFmt} (max : Bool) {x : Nat} (y : Nat) (h : (decodeElem e false x).isNan = true) :
    minmaxVal e max x y = ⟨if (decodeElem e false y).isNan then e.nan else y % 2 ^ e.width,
      snanFlag (decodeElem e false x) ||| snanFlag (decodeElem e false y)⟩ := by
  unfold minmaxVal
  dsimp only
  rw [h]
  cases (decodeElem e false y).isNan <;> rfl

theorem minmaxVal_self (e : NFmt) (max : Bool) (x : Nat) : minmaxVal e max x x =
    ⟨if (decodeElem e false x).isNan then e.nan else x % 2 ^ e.width, snanFlag (decodeElem e false x)⟩ := by
  cases hnan : (decodeElem e false x).isNan
  · cases max <;> simp [minmaxVal, hnan]
  · rw [minmaxVal_nan_left max x hnan, BitVec.or_self, hnan]

theorem minmaxVal_mod (e : NFmt) (max : Bool) (x y : Nat) :
    minmaxVal e max (x % 2 ^ e.width) y = minmaxVal e max x y := by
  simp only [minmaxVal, decodeElem_mod, Nat.mod_mod]

theorem minmaxVal_flags_eq (e : NFmt) (max : Bool) (x y : Nat) : (minmaxVal e max x y).flags =
    snanFlag (decodeElem e false x) ||| snanFlag (decodeElem e false y) := by
  unfold minmaxVal
  dsimp only
  split_ifs <;> rfl

/-- The fold of two floats is their VMAX or VMIN, a NaN among them or not (09 R199, log 33). -/
theorem foldStep_minmaxOne {f : Fmt} (uns max : Bool) (x y : Nat) (hint : isIntFmt f = false) :
    foldStep f uns max (minmaxOne f x) y = minmaxVal (fmtElem f) max x y := by
  have hone : minmaxOne f x = minmaxVal (fmtElem f) false x x := if_neg (ne_true_of_eq_false hint)
  rw [foldStep, hone, minmaxVal_self, if_neg (ne_true_of_eq_false hint)]
  dsimp only
  cases hnan : (decodeElem (fmtElem f) false x).isNan
  · rw [if_neg Bool.false_ne_true, minmaxVal_mod, minmaxVal_flags_eq, ← BitVec.or_assoc, BitVec.or_self,
      ← minmaxVal_flags_eq _ max]
  · have hquiet := decodeElem_nan hint hnan
    have hcanon : (decodeElem (fmtElem f) false (fmtElem f).nan).isNan = true := by rw [hquiet]; rfl
    rw [if_pos rfl, minmaxVal_nan_left max y hcanon, minmaxVal_nan_left max y hnan, hquiet]
    exact congrArg (Rounded.mk _ <| _ ||| ·) (BitVec.zero_or)

theorem foldMinMax_one {f : Fmt} (uns max : Bool) (x : Nat) (hint : isIntFmt f = false) :
    foldMinMax f uns max [x] = some ⟨if (decodeElem (fmtElem f) false x).isNan then (fmtElem f).nan
      else x % 2 ^ (fmtElem f).width, snanFlag (decodeElem (fmtElem f) false x)⟩ := by
  have hone : minmaxOne f x = minmaxVal (fmtElem f) false x x := if_neg (ne_true_of_eq_false hint)
  rw [foldMinMax_cons, List.foldl_nil, hone, minmaxVal_self]

theorem foldMinMax_two {f : Fmt} (uns max : Bool) (x y : Nat) (hint : isIntFmt f = false) :
    foldMinMax f uns max [x, y] = some (minmaxVal (fmtElem f) max x y) := by
  rw [foldMinMax_cons, List.foldl_cons, List.foldl_nil, foldStep_minmaxOne _ _ _ _ hint]

theorem extremeOf_int {f : Fmt} (uns max : Bool) (hint : isIntFmt f = true) : extremeOf f uns max =
    BitVec.ofInt 64 (if max then (if uns then 0 else -2 ^ (laneWidth f - 1))
      else (if uns then 2 ^ laneWidth f - 1 else 2 ^ (laneWidth f - 1) - 1)) := by
  unfold extremeOf
  rw [if_pos hint]
  cases uns <;> rfl

theorem scalarOf_float {f : Fmt} (uns : Bool) (x : Nat) (hint : isIntFmt f = false) :
    scalarOf f uns x = BitVec.ofNat 64 x := by
  unfold scalarOf
  rw [hint]
  rfl

/-! ### How a reduction runs -/

section
variable {o : OpVRed} {s t : State} {c : Claim} {fl : Flow} (hg : s.cur.guardOn o.g = true)
  (hd : Gives (checkDst o.d) s () s) (hc : s.cur.claim = some c) (h0 : c.grant ≠ 0)
include hg hd hc h0

theorem execVrsum_int (hint : isIntFmt o.fmt = true)
    (hw : Gives (writeD o.d (BitVec.ofInt 64 ((c.actives (c.vreg o.va) o.mask (laneWidth o.fmt)).map
      (elemInt (laneWidth o.fmt) o.uns)).sum)) s fl t) : exec (.vrsum o) s = .next (t.finished fl) := by
  rw [← foldl_intVal_eq_sum o.uns (laneWidth_le _) fun _ => Claim.actives_lt] at hw
  refine (issue_on _ _ _ hg).trans ?_
  rw [bind_ok _ _ _ _ _ hd, bind_ok _ _ _ _ _ (getClaim_some hc h0)]
  dsimp only
  rw [if_pos hint, hw, settle_written _ _ _ _ _ _ hw]

/-- The sum of VRSUM on floats: exact, rounded once; of no element 0 (09 R199). -/
def vrsumRounded (o : OpVRed) (s : State) (c : Claim) : Rounded :=
  let xs := c.actives (c.vreg o.va) o.mask (laneWidth o.fmt)
  let k := s.rctx o.rnd o.ovf 0
  if xs = [] then ⟨0, 0⟩
  else roundRes (fmtElem o.fmt) k (sumVals k.mode (xs.map (decodeElem (fmtElem o.fmt) false)))

theorem execVrsum_float (hint : isIntFmt o.fmt = false)
    (hw : Gives (writeD o.d (BitVec.ofNat 64 (vrsumRounded o s c).bits)) (s.flagged (vrsumRounded o s c).flags) fl t) :
    exec (.vrsum o) s = .next (t.resulted fl true) := by
  refine (issue_on _ _ _ hg).trans ?_
  rw [bind_ok _ _ _ _ _ hd, bind_ok _ _ _ _ _ (getClaim_some hc h0)]
  dsimp only
  rw [if_neg (ne_true_of_eq_false hint), bind_ok _ _ _ _ _ (get_run s)]
  simp only [List.isEmpty_iff]
  exact congrArg _ (settle_writeRes hw)

theorem vecMinMax_none (max : Bool)
    (hr : foldMinMax o.fmt o.uns max (c.actives (c.vreg o.va) o.mask (laneWidth o.fmt)) = none)
    (hw : Gives (writeD o.d (extremeOf o.fmt o.uns max)) s fl t) : vecMinMax o max s = .next (t.finished fl) := by
  refine (issue_on _ _ _ hg).trans ?_
  rw [bind_ok _ _ _ _ _ hd, bind_ok _ _ _ _ _ (getClaim_some hc h0), hr]
  dsimp only
  rw [hw, settle_written _ _ _ _ _ _ hw]

theorem vecMinMax_some (max : Bool) {r : Rounded}
    (hr : foldMinMax o.fmt o.uns max (c.actives (c.vreg o.va) o.mask (laneWidth o.fmt)) = some r)
    (hw : Gives (writeD o.d (scalarOf o.fmt o.uns r.bits)) (s.flagged r.flags) fl t) :
    vecMinMax o max s = .next (t.resulted fl false) := by
  refine (issue_on _ _ _ hg).trans ?_
  rw [bind_ok _ _ _ _ _ hd, bind_ok _ _ _ _ _ (getClaim_some hc h0), hr]
  exact congrArg _ (settle_writeRes hw)

/-- VRMAX or VRMIN of integers is the element with the most of its key. -/
theorem vecMinMax_int (max : Bool) {b : Nat} (hint : isIntFmt o.fmt = true)
    (hb : b ∈ c.actives (c.vreg o.va) o.mask (laneWidth o.fmt))
    (hmost : ∀ y ∈ c.actives (c.vreg o.va) o.mask (laneWidth o.fmt),
      extremeKey (laneWidth o.fmt) o.uns max y ≤ extremeKey (laneWidth o.fmt) o.uns max b)
    (hw : Gives (writeD o.d (if isIntFmt o.fmt = true ∧ o.uns = false
      then BitVec.ofInt 64 (elemInt (laneWidth o.fmt) false b) else BitVec.ofNat 64 b)) s fl t) :
    vecMinMax o max s = .next (t.resulted fl false) := by
  rw [← scalarOf_eq o.uns (Claim.actives_lt hb), ← flagged_zero s] at hw
  exact vecMinMax_some hg hd hc h0 max (foldMinMax_int o.uns max hint (fun _ => Claim.actives_lt) hb hmost) hw

/-- VRMAX or VRMIN of no element is the least or greatest value of the format. -/
theorem vecMinMax_empty (max : Bool) (hxs : c.actives (c.vreg o.va) o.mask (laneWidth o.fmt) = [])
    (hw : Gives (writeD o.d (extremeOf o.fmt o.uns max)) s fl t) : vecMinMax o max s = .next (t.finished fl) :=
  vecMinMax_none hg hd hc h0 max (by rw [hxs]; rfl) hw

theorem vecMinMax_two (max : Bool) {x y : Nat} (hint : isIntFmt o.fmt = false)
    (hxs : c.actives (c.vreg o.va) o.mask (laneWidth o.fmt) = [x, y])
    (hw : Gives (writeD o.d (BitVec.ofNat 64 (minmaxVal (fmtElem o.fmt) max x y).bits))
      (s.flagged (minmaxVal (fmtElem o.fmt) max x y).flags) fl t) :
    vecMinMax o max s = .next (t.resulted fl false) := by
  rw [← scalarOf_float o.uns _ hint] at hw
  exact vecMinMax_some hg hd hc h0 max (by rw [hxs, foldMinMax_two _ _ _ _ hint]) hw

theorem vecMinMax_one (max : Bool) {x : Nat} (hint : isIntFmt o.fmt = false)
    (hxs : c.actives (c.vreg o.va) o.mask (laneWidth o.fmt) = [x])
    (hw : Gives (writeD o.d (BitVec.ofNat 64 (if (decodeElem (fmtElem o.fmt) false x).isNan = true
      then (fmtElem o.fmt).nan else x % 2 ^ (fmtElem o.fmt).width)))
      (s.flagged (snanFlag (decodeElem (fmtElem o.fmt) false x))) fl t) :
    vecMinMax o max s = .next (t.resulted fl false) := by
  rw [← scalarOf_float o.uns _ hint] at hw
  exact vecMinMax_some (r := ⟨_, _⟩) hg hd hc h0 max ((congrArg _ hxs).trans (foldMinMax_one _ _ _ hint)) hw

end

/-! ### VQMX and VDQMX (09 R197, R198) -/

theorem countConv_run (s : State) : Gives countConv s () s.counted := rfl

/-- Block `b` of VQMX: its elements by the block rule, or by the scale that SC fixes. -/
def vqmxBlock (o : OpVQmx) (s : State) (c : Claim) (b : Nat) : Nat × List Nat × Word :=
  let cs := (List.range 32).map fun i => s.rctx o.rnd o.ovf (32 * b + i)
  let xs := (((c.elems (c.vreg o.va) (laneWidth o.fmt2)).map (decodeElem (fmtElem o.fmt2) false)).drop (32 * b)).take 32
  match c.scaleByte o.scale b with
  | none => quantMx (mxPar o.fmt) cs xs
  | some x => fixedMx (mxPar o.fmt) x cs xs

/-- The scale of a block by the form of SC. -/
theorem vqmxBlock_eq (o : OpVQmx) (s : State) (c : Claim) (b : Nat) : vqmxBlock o s c b =
    let cs := (List.range 32).map fun i => s.rctx o.rnd o.ovf (32 * b + i)
    let xs := (((c.elems (c.vreg o.va) (laneWidth o.fmt2)).map (decodeElem (fmtElem o.fmt2) false)).drop (32 * b)).take 32
    match o.scale with
    | .block => quantMx (mxPar o.fmt) cs xs
    | .v r => fixedMx (mxPar o.fmt) ((laneBytes (c.vreg r)).getD b 0).toNat cs xs
    | .lit v => fixedMx (mxPar o.fmt) (v.toNat % 256) cs xs := by
  unfold vqmxBlock
  cases o.scale <;> rfl

/-- The lanes of the elements of blocks. -/
def blockElems (f : Fmt) (g : Nat) (bs : List (Nat × List Nat × Word)) : List Word :=
  bytesLanes g (mxBytes (f == .mxfp4) (bs.flatMap fun r => r.2.1) ((bs.flatMap fun r => r.2.1).length + 1))

/-- The lanes of the scales of blocks. -/
def blockScales (g : Nat) (bs : List (Nat × List Nat × Word)) : List Word :=
  bytesLanes g (bs.map fun r => BitVec.ofNat 8 r.1)

/-- The flags of blocks. -/
def blockFlags (bs : List (Nat × List Nat × Word)) : Word := bs.foldl (fun f r => f ||| r.2.2) 0

section
variable {o : OpVQmx} {s : State} {c : Claim} (hg : s.cur.guardOn o.g = true) (hc : s.cur.claim = some c)
  (h0 : c.grant ≠ 0)
include hg hc h0

theorem execVqmx_noClaim (hfew : c.grant < laneWidth o.fmt2 / 2) : exec (.vqmx o) s =
    .next (s.takeTrap .noClaim (some (BitVec.ofNat 64 (laneWidth o.fmt2 / 2))) (some 0)) := by
  refine (issue_on _ _ _ hg).trans ?_
  rw [bind_ok _ _ _ _ _ (getClaim_some hc h0)]
  dsimp only
  rw [blockGrant, decide_eq_false (not_le.2 hfew), bind_error _ _ _ _ (orTrap_false _ _ _ s), settle_trap]

theorem execVqmx_quantises {bs : List (Nat × List Nat × Word)} (hgrant : laneWidth o.fmt2 / 2 ≤ c.grant)
    (hbs : bs = (List.range (2 * c.grant / laneWidth o.fmt2)).map (vqmxBlock o s c)) :
    exec (.vqmx o) s = .next (((s.flagged (blockFlags bs)).counted.withClaim
      { c with v := (c.v.set o.ve.val (blockElems o.fmt c.grant bs)).set o.vs.val (blockScales c.grant bs) }).finished
        .seq) := by
  subst hbs
  refine (issue_on _ _ _ hg).trans ?_
  rw [bind_ok _ _ _ _ _ (getClaim_some hc h0)]
  dsimp only
  rw [blockGrant, decide_eq_true hgrant, bind_ok _ _ _ _ _ (orTrap_true _ _ _ s), bind_ok _ _ _ _ _ (get_run s),
    bind_ok _ _ _ _ _ (raiseFlags_run _ s), bind_ok _ _ _ _ _ (setV_claim (s := s.flagged _) hc o.ve _),
    bind_ok _ _ _ _ _ (setV_claim rfl o.vs _), bind_ok _ _ _ _ _ (countConv_run _)]
  rfl

end

section
variable {o : OpVDqmx} {s : State} {c : Claim} (hg : s.cur.guardOn o.g = true) (hc : s.cur.claim = some c)
  (h0 : c.grant ≠ 0)
include hg hc h0

theorem execVdqmx_noClaim (hfew : c.grant < laneWidth o.fmt / 2) : exec (.vdqmx o) s =
    .next (s.takeTrap .noClaim (some (BitVec.ofNat 64 (laneWidth o.fmt / 2))) (some 0)) := by
  refine (issue_on _ _ _ hg).trans ?_
  rw [bind_ok _ _ _ _ _ (getClaim_some hc h0)]
  dsimp only
  rw [blockGrant, decide_eq_false (not_le.2 hfew), bind_error _ _ _ _ (orTrap_false _ _ _ s), settle_trap]

/-- Element `e` of VDQMX: that of its block times its scale, rounded once. -/
def vdqmxElem (o : OpVDqmx) (s : State) (c : Claim) (e : Nat) : Rounded :=
  roundTo (fmtElem o.fmt) false (s.rctx o.rnd o.ovf e)
    (mxElem (mxPar o.fmt2) ((laneBytes (c.vreg o.vs)).getD (e / 32) 0).toNat
      (mxAt (o.fmt2 == .mxfp4) (laneBytes (c.vreg o.ve)) e))

/-- The elements of VDQMX. -/
def vdqmxResults (o : OpVDqmx) (s : State) (c : Claim) : List Rounded :=
  (List.range (c.count (laneWidth o.fmt))).map (vdqmxElem o s c)

theorem execVdqmx_scales (hgrant : laneWidth o.fmt / 2 ≤ c.grant) :
    ∃ d fl, exec (.vdqmx o) s = .next (((s.flagged fl).counted.withClaim d).finished .seq) ∧ OnlyV o.vd c d ∧
      ∀ j, j < c.grant * (64 / laneWidth o.fmt) →
        elemOf (d.vreg o.vd) (laneWidth o.fmt) j = (vdqmxElem o s c j).bits % 2 ^ laneWidth o.fmt := by
  refine ⟨_, (vdqmxResults o s c).foldl (fun f r => f ||| r.flags) 0, (issue_on _ _ _ hg).trans ?_,
    onlyV_set o.vd c (packLanes (laneWidth o.fmt) c.grant ((vdqmxResults o s c).map (·.bits))), fun j hj => ?_⟩
  · rw [bind_ok _ _ _ _ _ (getClaim_some hc h0)]
    dsimp only
    rw [blockGrant, decide_eq_true hgrant, bind_ok _ _ _ _ _ (orTrap_true _ _ _ s), bind_ok _ _ _ _ _ (get_run s),
      bind_ok _ _ _ _ _ (raiseFlags_run _ s), bind_ok _ _ _ _ _ (setV_claim (s := s.flagged _) hc o.vd _),
      bind_ok _ _ _ _ _ (countConv_run _)]
    rfl
  · have hj' : j < c.count (laneWidth o.fmt) := hj
    rw [Claim.vreg_set, elemOf_packLanes _ _ _ _ (laneWidth_ok _) hj]
    simp [vdqmxResults, List.getD_eq_getElem?_getD, List.getElem?_range hj']

end

/-- Settles O40: an integer extreme is the element that the fold picks, a float one of two elements is their VMAX or
VMIN; VQMX and VDQMX go block by block and element by element. -/
theorem vectorReductionsAndBlocks : Obligations.VectorReductionsAndBlocks := by
  unfold Obligations.VectorReductionsAndBlocks
  refine ⟨fun o s c hg hd hc h0 t fl => ?_, fun o s c hg hc h0 => ⟨execVqmx_noClaim hg hc h0,
      fun hgrant => execVqmx_quantises hg hc h0 hgrant (List.map_congr_left fun b _ => (vqmxBlock_eq o s c b).symm)⟩,
    fun o s c hg hc h0 => ⟨execVdqmx_noClaim hg hc h0, execVdqmx_scales hg hc h0⟩⟩
  refine ⟨execVrsum_int hg hd hc h0, execVrsum_float hg hd hc h0,
    fun hint b hb hmost hw => vecMinMax_int hg hd hc h0 true hint hb hmost hw,
    fun hint b hb hmost hw => vecMinMax_int hg hd hc h0 false hint hb (fun y hy => neg_le_neg (hmost y hy)) hw,
    fun hint hxs => ⟨fun hw => vecMinMax_empty hg hd hc h0 true hxs ?_, fun hw => vecMinMax_empty hg hd hc h0 false hxs ?_⟩,
    fun hfmt hxs => ⟨fun hw => vecMinMax_empty hg hd hc h0 true hxs ?_, fun hw => vecMinMax_empty hg hd hc h0 false hxs ?_⟩,
    fun hint x y hxs => ⟨vecMinMax_two hg hd hc h0 true hint hxs, vecMinMax_two hg hd hc h0 false hint hxs⟩,
    fun hint x hxs hw => ⟨vecMinMax_one hg hd hc h0 true hint hxs hw, vecMinMax_one hg hd hc h0 false hint hxs hw⟩⟩
  · rw [extremeOf_int _ _ hint]
    exact hw
  · rw [extremeOf_int _ _ hint]
    exact hw
  · rw [hfmt]
    exact hw
  · rw [hfmt]
    exact hw

end Sys2Proof.Machine
end

section
/-! Vector loads and stores (O41): their elements are sent together and complete together (09 R188 to R190). -/

namespace Sys2Proof.Machine

/-! ### Addresses of elements (09 R188) -/

theorem strideAddr_eq (a st : Word) :
    strideAddr a st = fun j => BitVec.ofNat 64 (a.toNat + j * st.toNat) := by
  funext j
  rw [strideAddr, BitVec.ofNat_add, BitVec.ofNat_mul, BitVec.ofNat_toNat, BitVec.ofNat_toNat, BitVec.setWidth_eq,
    BitVec.setWidth_eq]

theorem indexAddr_eq (c : Claim) (a : Word) (vi : VNo) (sz : Size) (uns : Bool) : indexAddr c a vi sz uns = fun j =>
    BitVec.ofInt 64 (a.toNat + elemInt (sizeBits sz) uns (elemOf (c.vreg vi) (sizeBits sz) j) * sizeBytes sz) := by
  funext j
  rw [indexAddr, intVal_eq_elemInt uns (sizeBits_le sz) (elemOf_lt _ _ _), BitVec.ofInt_add, BitVec.ofInt_mul,
    BitVec.ofInt_natCast, BitVec.ofInt_natCast, BitVec.ofNat_toNat, BitVec.setWidth_eq]

theorem baseAnd_inv {a : SReg} {off : BitVec 32} {c : Option SReg} {s s1 : State} {x st : Word}
    (h : Gives (baseAnd a off c) s (x, st) s1) :
    ∃ s', Gives (vecAddr a off) s x s' ∧ Gives (readOpt readS c) s' st s1 := by
  obtain ⟨b, s', hb, h⟩ := bind_inv _ _ _ _ _ h
  obtain ⟨st', s2, hst, h⟩ := bind_inv _ _ _ _ _ h
  cases h
  exact ⟨s', bind_ok _ _ _ _ _ hb, hst⟩

theorem vecAddr_zero {a : SReg} {s s1 : State} {x : Word} (h : Gives (vecAddr a 0) s x s1) : Gives (readS a) s x s1 := by
  obtain ⟨b, s', hb, h⟩ := bind_inv _ _ _ _ _ h
  have hzero : b + (0 : BitVec 32).signExtend 64 = b := by simp
  rw [hzero] at h
  cases h
  exact hb

/-! ### The access that each instruction makes -/

/-- The access of a form, its operands read. -/
def VMemForm.access (x : VMemForm) (opc : Nat) (a st : Word) : M Flow :=
  if x.load then vecLoad opc x.v x.sz x.ord x.scope x.mask fun c => x.addr c a st
  else vecStore opc x.v x.sz x.ord x.scope (maskOf x.mask) fun c => x.addr c a st

/-- With a claim and its operands read, `i` makes the access of `x`. -/
def VMemForm.Issues (x : VMemForm) (i : Instr) : Prop :=
  ∃ opc, ∀ (s s1 : State) (a st : Word) (c : Claim), s.cur.guardOn x.g = true → s.cur.claim = some c → c.grant ≠ 0 →
    Gives x.ops s (a, st) s1 → exec i s = .next (s.settle (x.access opc a st s1))

theorem maskOf_keep (m : Option KNo) : maskOf (m.map fun k => ⟨k, false⟩) = m := by cases m <;> rfl

theorem VMemForm.Issues.of_body {x : VMemForm} {i : Instr} {opc : Nat} {body : M Flow}
    (hexec : ∀ s, exec i s = issue x.g (getClaim >>= fun _ => body) s)
    (hbody : ∀ {s s1 : State} {a st : Word}, Gives x.ops s (a, st) s1 → body s = x.access opc a st s1) : x.Issues i :=
  ⟨opc, fun s _ _ _ _ hg hc h0 hops => (hexec s).trans <| issue_of_run hg <|
    (bind_ok _ _ _ _ _ (getClaim_some hc h0)).trans (hbody hops)⟩

/-- A base with its offset, and no stride. -/
theorem vecAddr_of_baseAnd {α : Type} {a : SReg} {off : BitVec 32} {s s1 : State} {x st : Word} (f : Word → M α)
    (h : Gives (baseAnd a off none) s (x, st) s1) : (vecAddr a off >>= f) s = f x s1 := by
  obtain ⟨s', ha, hst⟩ := baseAnd_inv h
  obtain ⟨-, rfl⟩ := readOpt_none hst
  exact bind_ok _ _ _ _ _ ha

/-- A base alone. -/
theorem readS_of_baseAnd {α : Type} {a : SReg} {s s1 : State} {x st : Word} (f : Word → M α)
    (h : Gives (baseAnd a 0 none) s (x, st) s1) : (readS a >>= f) s = f x s1 := by
  obtain ⟨s', ha, hst⟩ := baseAnd_inv h
  obtain ⟨-, rfl⟩ := readOpt_none hst
  exact bind_ok _ _ _ _ _ (vecAddr_zero ha)

/-- A base with its offset, and a stride. -/
theorem vecAddr_readS_of_baseAnd {α : Type} {a r : SReg} {off : BitVec 32} {s s1 : State} {x st : Word}
    (f : Word → Word → M α) (h : Gives (baseAnd a off (some r)) s (x, st) s1) :
    (vecAddr a off >>= fun y => readS r >>= f y) s = f x st s1 := by
  obtain ⟨s', ha, hst⟩ := baseAnd_inv h
  exact (bind_ok _ _ _ _ _ ha).trans (bind_ok _ _ _ _ _ hst)

/-- Every vector access reads its operands and makes the access of its form. -/
theorem vmemForm_issues {i : Instr} {x : VMemForm} (hx : vmemForm i = some x) : x.Issues i := by
  cases i
  case vld o =>
    cases hx
    exact .of_body (opc := 0x9B) (fun _ => rfl) fun hops => vecAddr_of_baseAnd _ hops
  case vst o =>
    cases hx
    refine .of_body (opc := 0x9C) (fun _ => rfl) fun hops => (vecAddr_of_baseAnd _ hops).trans ?_
    rw [VMemForm.access, maskOf_keep]
    rfl
  case vlds o =>
    cases hx
    refine .of_body (opc := 0x9D) (fun _ => rfl) fun hops => (vecAddr_readS_of_baseAnd _ hops).trans ?_
    rw [strideAddr_eq]
    rfl
  case vsts o =>
    cases hx
    refine .of_body (opc := 0x9E) (fun _ => rfl) fun hops => (vecAddr_readS_of_baseAnd _ hops).trans ?_
    rw [VMemForm.access, maskOf_keep, strideAddr_eq]
    rfl
  case vgath o =>
    cases hx
    refine .of_body (opc := 0x9F) (fun _ => rfl) fun hops => (readS_of_baseAnd _ hops).trans ?_
    simp only [indexAddr_eq]
    rfl
  case vscat o =>
    cases hx
    refine .of_body (opc := 0xA0) (fun _ => rfl) fun hops => (readS_of_baseAnd _ hops).trans ?_
    simp only [VMemForm.access, maskOf_keep, indexAddr_eq]
    rfl
  all_goals cases hx

/-! ### The elements and their requests -/

theorem sizeBits_ok (z : Size) : LaneWidth (sizeBits z) := by cases z <;> exact ⟨by decide, by decide⟩

/-- An element at each of the ordinals. -/
def elemsAt (f : Nat → Word) (l : List Nat) : List VElem := l.map fun j => ⟨j, f j⟩

theorem elemInfo_eq (acc : Access) (j : Nat) :
    elemInfo acc j = BitVec.ofNat 64 (acc.kind.toNat + j * 2 ^ 8) := by
  rw [elemInfo, kindWord, BitVec.ofNat_add, ← BitVec.ofNat_toNat]

theorem vecAlign_misaligned {acc : Access} {n j : Nat} {f : Nat → Word} {l : List Nat} (s : State)
    (h : l.find? (fun j => (f j).toNat % n != 0) = some j) : vecAlign acc n (elemsAt f l) s =
      .error (.trap .misaligned (some (f j)) (some (BitVec.ofNat 64 (acc.kind.toNat + j * 2 ^ 8))) s) := by
  have hfind : (elemsAt f l).find? (fun e => e.a.toNat % n != 0) = some ⟨j, f j⟩ := by
    rw [elemsAt, List.find?_map]
    exact congrArg _ h
  rw [vecAlign, hfind, ← elemInfo_eq]
  rfl

theorem vecAlign_aligned {acc : Access} {n : Nat} {f : Nat → Word} {l : List Nat} (s : State)
    (h : ∀ j ∈ l, (f j).toNat % n = 0) : Gives (vecAlign acc n (elemsAt f l)) s () s := by
  have hfind : (elemsAt f l).find? (fun e => e.a.toNat % n != 0) = none := by
    rw [elemsAt, List.find?_map, Option.map_eq_none_iff, List.find?_eq_none]
    intro j hj
    simp [h j hj]
  unfold Gives
  rw [vecAlign, hfind]
  rfl

/-- The requests of elements for their locations, in the order of the elements. -/
def elemReqs (s : State) (k : VElem → Ask) (posted : Bool) (held : List PhaseId) (es : List VElem)
    (ls : List (Nat × Loc)) : List Req :=
  (es.zip ls).map fun p => s.request (k p.1) p.2.2 posted true p.1.j held

section
variable {s : State} {k : VElem → Ask} {posted : Bool} {held : List PhaseId} {f : Nat → Word} {l : List Nat}
  {ls : List (Nat × Loc)} (hlen : ls.length = l.length)
include hlen

/-- What a request takes from its element, in the order of the ordinals. -/
theorem elemReqs_map {β : Type} {g : Req → β} {h : Nat → β}
    (hg : ∀ j loc, g (s.request (k ⟨j, f j⟩) loc posted true j held) = h j) :
    (elemReqs s k posted held (elemsAt f l) ls).map g = l.map h := by
  have hfst : ((elemsAt f l).zip ls).map Prod.fst = elemsAt f l :=
    List.map_fst_zip (by rw [elemsAt, List.length_map, hlen])
  have helem : ∀ p ∈ (elemsAt f l).zip ls, g (s.request (k p.1) p.2.2 posted true p.1.j held) = h p.1.j := by
    rintro ⟨e, loc⟩ hp
    obtain ⟨j, -, rfl⟩ := List.mem_map.1 (List.of_mem_zip hp).1
    exact hg j loc.2
  calc (elemReqs s k posted held (elemsAt f l) ls).map g
      = (((elemsAt f l).zip ls).map Prod.fst).map fun e => h e.j := by
        rw [elemReqs, List.map_map, List.map_map]
        exact List.map_congr_left helem
    _ = l.map h := by
        rw [hfst, elemsAt, List.map_map]
        rfl

theorem elemReqs_locs : (elemReqs s k posted held (elemsAt f l) ls).map (·.loc) = ls.map (·.2) := by
  have hsnd : ((elemsAt f l).zip ls).map Prod.snd = ls :=
    List.map_snd_zip (by rw [elemsAt, List.length_map, hlen])
  calc (elemReqs s k posted held (elemsAt f l) ls).map (·.loc)
      = (((elemsAt f l).zip ls).map Prod.snd).map (·.2) := by
        rw [elemReqs, List.map_map, List.map_map]
        rfl
    _ = ls.map (·.2) := by rw [hsnd]

end

/-! ### Vector loads leave as requests (09 R189) -/

/-- An acquire drops the lines of its thread. -/
theorem acquireIf_lines (acq : Bool) (s : State) :
    Gives (acquireIf acq) s () (s.updCur fun t => { t with lines := if acq then [] else t.lines }) := by
  cases acq <;> rfl

/-- The requests `qs` have left. -/
def State.withReqs (s : State) (qs : List Req) : State := { s with reqs := s.reqs ++ qs }

/-- The request that a vector load makes of an element. -/
def loadAsk (opc : Nat) (sz : Size) (sc : Scope) (e : VElem) : Ask :=
  ⟨opc, e.a, sizeBytes sz, accRead, sc, .read sz false, false, false⟩

section
variable {opc : Nat} {v : VNo} {sz : Size} {ord : Ord} {sc : Scope} {m : Option VMask} {addr : Claim → Nat → Word}
  {s : State} {c : Claim} {act : List Nat} (hc : s.cur.claim = some c) (h0 : c.grant ≠ 0)
  (hact : c.memElems (maskOf m) (sizeBits sz) (addr c) = elemsAt (addr c) act)
include hc h0 hact

theorem vecLoad_misaligned {j : Nat} (h : act.find? (fun j => (addr c j).toNat % sizeBytes sz != 0) = some j) :
    vecLoad opc v sz ord sc m addr s =
      .error (.trap .misaligned (some (addr c j)) (some (BitVec.ofNat 64 (0 + j * 2 ^ 8))) s) := by
  unfold vecLoad
  rw [bind_ok _ _ _ _ _ (getClaim_some hc h0)]
  dsimp only
  rw [hact]
  exact bind_error _ _ _ _ (vecAlign_misaligned s h)

variable {ls : List (Nat × Loc)} (halign : ∀ j ∈ act, (addr c j).toNat % sizeBytes sz = 0)
  (hls : Gives (vecLocate accRead (sizeBytes sz) sc (elemsAt (addr c) act)) s ls s)
  (hboard : Gives (vecBoard (sizeBytes sz) false (elemsAt (addr c) act)) s () s)
include halign hls hboard

theorem vecLoad_sends {qs : List Req} (hlen : ls.length = act.length)
    (hqs : qs = elemReqs s (loadAsk opc sz sc) false [] (elemsAt (addr c) act) ls)
    (hsome : act ≠ []) : vecLoad opc v sz ord sc m addr s = .ok (.held, (s.withReqs qs).updCur fun t =>
      { t with life := .waiting, wait := some ⟨4, some (.vload v sz m act.length []), ordAcq ord, 0⟩ }) := by
  have hcount : qs.length = act.length := by simp [hqs, elemReqs, elemsAt, hlen]
  have hleaves : qs.isEmpty = false := by
    rw [List.isEmpty_eq_false_iff, ← List.length_pos_iff, hcount, List.length_pos_iff]
    exact hsome
  rw [← hcount]
  subst hqs
  unfold vecLoad
  rw [bind_ok _ _ _ _ _ (getClaim_some hc h0)]
  dsimp only
  rw [hact, bind_ok _ _ _ _ _ (vecAlign_aligned s halign), bind_ok _ _ _ _ _ hls, bind_ok _ _ _ _ _ hboard,
    bind_ok _ _ _ _ _ (get_run s)]
  exact (congrArg (fun b : M Flow => b s) (if_neg (ne_true_of_eq_false hleaves))).trans (bind_ok _ _ _ _ _ (modS_run _ s))

/-- A load of no element completes at once. -/
theorem vecLoad_empty (hnone : act = []) : ∃ d, OnlyV v c d ∧
    (∀ j, j < c.grant * (64 / sizeBits sz) →
      elemOf (d.vreg v) (sizeBits sz) j = c.elemAfter (c.vreg v) (sizeBits sz) m j 0) ∧
    Gives (vecLoad opc v sz ord sc m addr) s .seq
      (s.updCur fun t => { t with claim := some d, lines := if ordAcq ord then [] else t.lines }) := by
  obtain ⟨d, honly, hset, helem⟩ := setV_merge hc v m (fun _ => ⟨0, 0⟩) (sizeBits_ok sz)
  have hleaves : (elemReqs s (loadAsk opc sz sc) false [] (elemsAt (addr c) act) ls).isEmpty = true := by
    rw [hnone]
    rfl
  refine ⟨d, honly, helem, ?_⟩
  unfold Gives vecLoad
  rw [bind_ok _ _ _ _ _ (getClaim_some hc h0)]
  dsimp only
  rw [hact, bind_ok _ _ _ _ _ (vecAlign_aligned s halign), bind_ok _ _ _ _ _ hls, bind_ok _ _ _ _ _ hboard,
    bind_ok _ _ _ _ _ (get_run s)]
  exact (congrArg (fun b : M Flow => b s) (if_pos hleaves)).trans <| (bind_ok _ _ _ _ _ hset).trans <|
    bind_ok _ _ _ _ _ (acquireIf_lines _ _)

end

/-! ### Vector stores leave as posted requests (09 R189) -/

/-- A request without the phase that it was posted in. -/
def unphased (q : Req) : Req := { q with phase := none }

/-- Posted requests leave in order, each in a phase. -/
theorem postAll_sends (qs : List Req) (s : State) : ∃ (t : State) (rs : List Req), Gives (postAll qs) s () t ∧
    t.reqs = s.reqs ++ rs ∧ rs.map unphased = qs.map unphased ∧ (∀ q ∈ rs, q.phase.isSome = true) ∧
    t.mem = s.mem ∧ t.cur = s.cur := by
  induction qs generalizing s with
  | nil => exact ⟨s, [], rfl, (List.append_nil _).symm, rfl, by simp, rfl, rfl⟩
  | cons q qs ih =>
    let p := s.countSent q.src q.scope (s.termOf q.loc q.scope)
    let r : Req := { q with phase := some p.1 }
    obtain ⟨t, rs, hrun, hreqs, hsame, hphase, hmem, hcur⟩ := ih { p.2 with reqs := p.2.reqs ++ [r] }
    refine ⟨t, r :: rs, (bind_ok _ _ _ _ _ (postReq_run q s)).trans hrun, ?_, ?_, ?_, hmem, hcur⟩
    · rw [hreqs]
      exact List.append_assoc _ _ _
    · rw [List.map_cons, List.map_cons, hsame]
      rfl
    · exact List.forall_mem_cons.2 ⟨rfl, hphase⟩

/-- The phases that a release closes change neither memory nor the issuing thread. -/
theorem closePhases_mem {s t : State} {c : Nat} {sc : Scope} {held : List PhaseId}
    (h : s.closePhases c sc = some (held, t)) : t.mem = s.mem :=
  State.MemHas.closePhases (P := fun m => m = s.mem) (show s.mem = s.mem from rfl) h

/-- What a vector store has before it posts: no error record to raise, and its phases closed, where it releases. -/
def Closed (rel : Bool) (sc : Scope) (s : State) (held : List PhaseId) (t : State) : Prop :=
  if rel = true then s.cur.errRec = none ∧ s.closePhases s.cur.core sc = some (held, t) else held = [] ∧ t = s

theorem Closed.frame {rel : Bool} {sc : Scope} {s t : State} {held : List PhaseId} (h : Closed rel sc s held t) :
    t.cur = s.cur ∧ t.mem = s.mem := by
  unfold Closed at h
  split at h
  · exact ⟨closePhases_cur _ _ _ _ _ h.2, closePhases_mem h.2⟩
  · obtain ⟨-, rfl⟩ := h
    exact ⟨rfl, rfl⟩

theorem Closed.run {rel : Bool} {sc : Scope} {s t : State} {held : List PhaseId} (h : Closed rel sc s held t) :
    Gives (closeIf rel sc) s held t ∧ (rel = true → s.cur.errRec = none) := by
  obtain ⟨hclose, herr, -⟩ := released_run ⟨0, 0, 0, accWrite, sc, .readP, rel, false⟩ s t held h
  exact ⟨hclose, herr⟩

/-- A step that is taken only under a condition, and then passes. -/
theorem when_passes {α : Type} {b : Bool} {m : M Unit} {rest : M α} {s : State} (h : b = true → Gives m s () s) :
    (if b = true then m >>= fun _ => rest else rest) s = rest s := by
  split
  · next hb => exact bind_ok _ _ _ _ _ (h hb)
  · rfl

/-- The request that a vector store makes of an element. -/
def storeAsk (opc : Nat) (r : List Word) (sz : Size) (sc : Scope) (e : VElem) : Ask :=
  ⟨opc, e.a, sizeBytes sz, accWrite, sc, .write sz (BitVec.ofNat 64 (elemOf r (sizeBits sz) e.j)), false, false⟩

section
variable {opc : Nat} {v : VNo} {sz : Size} {ord : Ord} {sc : Scope} {m : Option KNo} {addr : Claim → Nat → Word}
  {s : State} {c : Claim} {act : List Nat} (hc : s.cur.claim = some c) (h0 : c.grant ≠ 0)
  (hact : c.memElems m (sizeBits sz) (addr c) = elemsAt (addr c) act)
include hc h0 hact

theorem vecStore_misaligned {j : Nat} (h : act.find? (fun j => (addr c j).toNat % sizeBytes sz != 0) = some j) :
    vecStore opc v sz ord sc m addr s =
      .error (.trap .misaligned (some (addr c j)) (some (BitVec.ofNat 64 (1 + j * 2 ^ 8))) s) := by
  unfold vecStore
  rw [bind_ok _ _ _ _ _ (getClaim_some hc h0)]
  dsimp only
  rw [hact]
  exact bind_error _ _ _ _ (vecAlign_misaligned s h)

theorem vecStore_sends {ls : List (Nat × Loc)} {held : List PhaseId} {s2 : State}
    (halign : ∀ j ∈ act, (addr c j).toNat % sizeBytes sz = 0)
    (hls : Gives (vecLocate accWrite (sizeBytes sz) sc (elemsAt (addr c) act)) s ls s)
    (hboard : Gives (vecBoard (sizeBytes sz) true (elemsAt (addr c) act)) s () s)
    (hroom : ls.any (fun l => l.2.far s.cur.core) = true → Gives (channelFree .requests) s () s)
    (hclosed : Closed (ordRel ord) sc s held s2) :
    vecStore opc v sz ord sc m addr s =
      (postAll (elemReqs s2 (storeAsk opc (c.vreg v) sz sc) true held (elemsAt (addr c) act) ls) >>= fun _ =>
        pure .seq) s2 := by
  unfold vecStore
  rw [bind_ok _ _ _ _ _ (getClaim_some hc h0)]
  dsimp only
  rw [hact, bind_ok _ _ _ _ _ (vecAlign_aligned s halign), bind_ok _ _ _ _ _ hls, bind_ok _ _ _ _ _ hboard,
    bind_ok _ _ _ _ _ (getCur_run s)]
  obtain ⟨hclose, herr⟩ := hclosed.run
  refine (when_passes hroom).trans ?_
  refine (when_passes fun hrel => raiseDeferred_of_none (herr hrel)).trans ?_
  rw [bind_ok _ _ _ _ _ hclose, bind_ok _ _ _ _ _ (get_run s2)]
  rfl

end

theorem map_eq_of_unphased {β : Type} {g : Req → β} {rs qs : List Req} (h : rs.map unphased = qs.map unphased)
    (hg : ∀ q, g (unphased q) = g q) : rs.map g = qs.map g := by
  have hcomp : g = g ∘ unphased := funext fun q => (hg q).symm
  rw [hcomp, ← List.map_map, h, List.map_map]

section
variable {x : VMemForm} {i : Instr} {opc : Nat} {s s1 : State} {a st : Word} {c : Claim} {act : List Nat}
  (hrun : exec i s = .next (s.settle (x.access opc a st s1))) (hc : s1.cur.claim = some c) (h0 : c.grant ≠ 0)
  (hact : c.memElems (maskOf x.mask) (sizeBits x.sz) (x.addr c a st) = elemsAt (x.addr c a st) act)
include hrun hc h0 hact

theorem VMemForm.misaligned {j : Nat}
    (h : act.find? (fun j => (x.addr c a st j).toNat % sizeBytes x.sz != 0) = some j) :
    exec i s = .next (s1.takeTrap .misaligned (some (x.addr c a st j))
      (some (BitVec.ofNat 64 ((if x.load then 0 else 1) + j * 2 ^ 8)))) := by
  rw [hrun, VMemForm.access]
  cases x.load
  · rw [if_neg Bool.false_ne_true, vecStore_misaligned hc h0 hact h]
    rfl
  · rw [if_pos rfl, vecLoad_misaligned hc h0 hact h]
    rfl

variable {ls : List (Nat × Loc)} (halign : ∀ j ∈ act, (x.addr c a st j).toNat % sizeBytes x.sz = 0)
  (hlen : ls.length = act.length)

section
variable (hload : x.load = true)
  (hls : Gives (vecLocate accRead (sizeBytes x.sz) x.scope (elemsAt (x.addr c a st) act)) s1 ls s1)
  (hboard : Gives (vecBoard (sizeBytes x.sz) false (elemsAt (x.addr c a st) act)) s1 () s1)
include halign hload hls hboard

theorem VMemForm.load_empty (hnone : act = []) : ∃ d, OnlyV x.v c d ∧
    (∀ j, j < c.grant * (64 / sizeBits x.sz) →
      elemOf (d.vreg x.v) (sizeBits x.sz) j = c.elemAfter (c.vreg x.v) (sizeBits x.sz) x.mask j 0) ∧
    exec i s = .next ((s1.updCur fun t => { t with
      claim := some d, lines := if acquires x.ord then [] else t.lines }).finished .seq) := by
  obtain ⟨d, honly, helem, hgives⟩ := vecLoad_empty (opc := opc) (v := x.v) (ord := x.ord)
    (addr := fun c => x.addr c a st) hc h0 hact halign hls hboard hnone
  refine ⟨d, honly, helem, ?_⟩
  rw [hrun, VMemForm.access, if_pos hload, hgives]
  rfl

include hlen in
theorem VMemForm.load_sends (hsome : act ≠ []) (hpacket : s.cur.packet = none) : ∃ qs : List Req,
    exec i s = .next ({ s1 with reqs := s1.reqs ++ qs }.heldFor 4 (.vload x.v x.sz x.mask act.length [])
      (acquires x.ord)) ∧
    qs.map (·.elem) = act ∧ qs.map (·.va) = act.map (x.addr c a st) ∧ qs.map (·.loc) = ls.map (·.2) ∧
    ∀ q ∈ qs, q.tid = s1.cur.tid ∧ q.op = .read x.sz false ∧ q.posted = false ∧ q.scope = x.scope := by
  refine ⟨elemReqs s1 (loadAsk opc x.sz x.scope) false [] (elemsAt (x.addr c a st) act) ls, ?_,
    (elemReqs_map hlen (h := id) fun _ _ => rfl).trans (List.map_id _), elemReqs_map hlen fun _ _ => rfl,
    elemReqs_locs hlen, fun q hq => ?_⟩
  · rw [hrun, VMemForm.access, if_pos hload, vecLoad_sends hc h0 hact halign hls hboard hlen rfl hsome,
      settle_heldFor _ _ _ _ _ _ hpacket]
    rfl
  · obtain ⟨p, -, rfl⟩ := List.mem_map.1 hq
    exact ⟨rfl, rfl, rfl, rfl⟩

end

include halign hlen in
theorem VMemForm.store_sends {held : List PhaseId} {s2 : State} (hload : x.load = false)
    (hls : Gives (vecLocate accWrite (sizeBytes x.sz) x.scope (elemsAt (x.addr c a st) act)) s1 ls s1)
    (hboard : Gives (vecBoard (sizeBytes x.sz) true (elemsAt (x.addr c a st) act)) s1 () s1)
    (hroom : ls.any (fun l => l.2.far s1.cur.core) = true → Gives (channelFree .requests) s1 () s1)
    (hclosed : Closed (releases x.ord) x.scope s1 held s2) :
    ∃ (t : State) (qs : List Req), exec i s = .next t ∧ t.flow = .seq ∧ t.reqs = s2.reqs ++ qs ∧
      qs.map (·.elem) = act ∧ qs.map (·.va) = act.map (x.addr c a st) ∧ qs.map (·.loc) = ls.map (·.2) ∧
      qs.map (·.op) = act.map (fun j => .write x.sz (BitVec.ofNat 64 (elemOf (c.vreg x.v) (sizeBits x.sz) j))) ∧
      (∀ q ∈ qs, q.tid = s1.cur.tid ∧ q.posted = true ∧ q.scope = x.scope ∧ q.phase.isSome = true ∧ q.held = held) ∧
      t.mem = s1.mem ∧ t.cur.l = s1.cur.l ∧ t.cur.claim = some c := by
  obtain ⟨hcur2, hmem2⟩ := hclosed.frame
  obtain ⟨t, rs, hposts, hreqs, hsame, hphase, hmem, hcur⟩ := postAll_sends
    (elemReqs s2 (storeAsk opc (c.vreg x.v) x.sz x.scope) true held (elemsAt (x.addr c a st) act) ls) s2
  have hstore := vecStore_sends (opc := opc) (v := x.v) (addr := fun c => x.addr c a st) hc h0 hact halign hls hboard
    hroom hclosed
  refine ⟨t.finished .seq, rs, ?_, rfl, hreqs,
    (map_eq_of_unphased hsame fun _ => rfl).trans ((elemReqs_map hlen (h := id) fun _ _ => rfl).trans (List.map_id _)),
    (map_eq_of_unphased hsame fun _ => rfl).trans (elemReqs_map hlen fun _ _ => rfl),
    (map_eq_of_unphased hsame fun _ => rfl).trans (elemReqs_locs hlen),
    (map_eq_of_unphased hsame fun _ => rfl).trans (elemReqs_map hlen fun _ _ => rfl), fun q hq => ?_,
    hmem.trans hmem2, show t.cur.l = s1.cur.l by rw [hcur, hcur2],
    show t.cur.claim = some c by rw [hcur, hcur2, hc]⟩
  · rw [hrun, VMemForm.access, if_neg (ne_true_of_eq_false hload), hstore, bind_ok _ _ _ _ _ hposts]
    rfl
  · obtain ⟨r, hr, he⟩ := List.mem_map.1 (hsame ▸ List.mem_map_of_mem hq : unphased q ∈ _)
    obtain ⟨p, -, rfl⟩ := List.mem_map.1 hr
    exact ⟨(congrArg Req.tid he).symm.trans (congrArg Thread.tid hcur2), (congrArg Req.posted he).symm,
      (congrArg Req.scope he).symm, hphase q hq, (congrArg Req.held he).symm⟩

end

/-- A vector access traps on a misaligned element, or its elements leave as requests. -/
theorem VMemForm.Issues.sends {x : VMemForm} {i : Instr} (hi : x.Issues i) : x.sends i := by
  obtain ⟨opc, hi⟩ := hi
  intro s s1 a st c hg hc hops hc1 h0
  have hrun := hi s s1 a st c hg hc h0 hops
  have hact : c.memElems (maskOf x.mask) (sizeBits x.sz) (x.addr c a st) =
    elemsAt (x.addr c a st) (c.actives? x.mask (8 * bytesOf x.sz)) := rfl
  refine ⟨fun j hj => VMemForm.misaligned hrun hc1 h0 hact hj, fun halign ls hls hlen hboard => ?_⟩
  cases hload : x.load
  · rw [hload] at hls hboard
    exact ⟨fun h => absurd h Bool.false_ne_true, fun h => absurd h Bool.false_ne_true, fun _ hroom held s2 hclosed =>
      VMemForm.store_sends hrun hc1 h0 hact halign hlen hload hls hboard hroom hclosed⟩
  · rw [hload] at hls hboard
    exact ⟨fun _ hnone => VMemForm.load_empty hrun hc1 h0 hact halign hload hls hboard hnone,
      fun _ hsome hpacket => VMemForm.load_sends hrun hc1 h0 hact halign hlen hload hls hboard hsome hpacket,
      fun h => absurd h.symm Bool.false_ne_true⟩

/-! ### The replies of a vector load (09 R189) -/

theorem leastBy_least {α : Type} {key : α → Nat} {l r : List α} {x : α} (h : ∀ y ∈ l ++ r, key x < key y) :
    leastBy key (l ++ x :: r) = some x := by
  induction l with
  | nil =>
    rw [List.nil_append, leastBy]
    split
    · rfl
    · next y hy => exact if_pos (h y (leastBy_mem hy)).le
  | cons z l ih =>
    obtain ⟨hz, hrest⟩ := List.forall_mem_cons.1 h
    rw [List.cons_append, leastBy, ih hrest]
    exact if_neg (not_le.2 hz)

/-- What a reply traps with, if it does. -/
def trapOf (p : Nat × Result) : Option (Nat × Cause × Word × Word) :=
  match p with
  | (j, r) => match r with
    | .trap c i0 i1 => some (j, c, i0, i1)
    | .ok _ _ => none

theorem trapOf_ordinal {p : Nat × Result} {y : Nat × Cause × Word × Word} (h : trapOf p = some y) : y.1 = p.1 := by
  obtain ⟨j, r⟩ := p
  cases r <;> cases h
  rfl

section
variable {v : VNo} {sz : Size} {m : Option VMask}

/-- The trap that has the lowest ordinal is raised. -/
theorem finishVload_of_trap {got : List (Nat × Result)} {y : Nat × Cause × Word × Word} (s : State)
    (h : leastBy (fun y => y.1) (got.filterMap trapOf) = some y) :
    finishVload v sz m got s = .error (.trap y.2.1 (some y.2.2.1) (some y.2.2.2) s) := by
  unfold finishVload
  rw [bind_ok _ _ _ _ _ (get_run s)]
  change (match leastBy (fun y : Nat × Cause × Word × Word => y.1) (got.filterMap trapOf) with
    | some (_, c, i0, i1) => trapW c i0 i1
    | none => _) s = _
  rw [h]
  rfl

/-- The trap of the lowest element decides, and the register stays. -/
theorem finishVload_trapped {l r : List (Nat × Result)} {j : Nat} {cause : Cause} {i0 i1 : Word} (s : State)
    (h : ∀ p ∈ l ++ r, j < p.1) : finishVload v sz m (l ++ (j, .trap cause i0 i1) :: r) s =
      .error (.trap cause (some i0) (some i1) s) := by
  have hlater : ∀ y ∈ l.filterMap trapOf ++ r.filterMap trapOf, j < y.1 := by
    intro y hy
    rw [← List.filterMap_append] at hy
    obtain ⟨p, hp, hpy⟩ := List.mem_filterMap.1 hy
    rw [trapOf_ordinal hpy]
    exact h p hp
  have hsplit : (l ++ (j, .trap cause i0 i1) :: r).filterMap trapOf =
      l.filterMap trapOf ++ (j, cause, i0, i1) :: r.filterMap trapOf := List.filterMap_append
  exact finishVload_of_trap (y := (j, cause, i0, i1)) s (hsplit ▸ leastBy_least hlater)

theorem find?_map_self {α : Type} {l : List Nat} {j : Nat} (g : Nat → α) (hj : j ∈ l) :
    (l.map fun i => (i, g i)).find? (fun p => p.1 == j) = some (j, g j) := by
  obtain ⟨i, hi⟩ : ∃ i, l.find? (fun i => i == j) = some i :=
    Option.isSome_iff_exists.1 (List.find?_isSome.2 ⟨j, hj, beq_self_eq_true j⟩)
  obtain rfl : i = j := eq_of_beq (List.find?_some (p := fun i => i == j) hi)
  rw [List.find?_map]
  exact congrArg (Option.map fun i => (i, g i)) hi

/-- Where every active element has come back, they are merged into the register. -/
theorem finishVload_writes {s : State} {c : Claim} (val : Nat → Word) (hc : s.cur.claim = some c) :
    ∃ d, Gives (finishVload v sz m ((c.actives? m (sizeBits sz)).map fun j => (j, .ok (val j) 0))) s .seq
        (s.withClaim d) ∧ OnlyV v c d ∧ ∀ j, j < c.grant * (64 / sizeBits sz) →
      elemOf (d.vreg v) (sizeBits sz) j = c.elemAfter (c.vreg v) (sizeBits sz) m j (val j).toNat := by
  have hnone : ((c.actives? m (sizeBits sz)).map fun j => (j, Result.ok (val j) 0)).filterMap trapOf = [] := by
    rw [List.filterMap_map, List.filterMap_eq_nil_iff]
    exact fun _ _ => rfl
  obtain ⟨d, honly, hset, helem⟩ := setV_merge hc v m (fun j => match
    ((c.actives? m (sizeBits sz)).map fun j => (j, Result.ok (val j) 0)).find? fun p => p.1 == j with
    | some (_, .ok x _) => ⟨x.toNat, 0⟩
    | _ => ⟨0, 0⟩) (sizeBits_ok sz)
  refine ⟨d, ?_, honly, fun j hj => (helem j hj).trans ?_⟩
  · unfold Gives finishVload
    rw [bind_ok _ _ _ _ _ (get_run s)]
    change (match leastBy (fun y : Nat × Cause × Word × Word => y.1) (((c.actives? m (sizeBits sz)).map fun j =>
        (j, Result.ok (val j) 0)).filterMap trapOf) with
      | some (_, c, i0, i1) => trapW c i0 i1
      | none => _) s = _
    rw [hnone]
    dsimp only [leastBy]
    rw [hc]
    exact bind_ok _ _ _ _ _ hset
  · unfold Claim.elemAfter
    split
    · next hactive =>
      have hmem : j ∈ c.actives? m (sizeBits sz) := List.mem_filter.2 ⟨List.mem_range.2 hj, hactive⟩
      rw [find?_map_self (fun j => Result.ok (val j) 0) hmem]
    · rfl

end

/-- Settles O41: each access sends the elements of its form, and the replies of a load are merged, or the trap of the
lowest element is raised. -/
theorem vectorAccessesAreSentAndComplete : Obligations.VectorAccessesAreSentAndComplete := by
  unfold Obligations.VectorAccessesAreSentAndComplete
  exact ⟨fun i x hx => (vmemForm_issues hx).sends, fun s v sz m c val hc =>
    ⟨finishVload_writes val hc, fun l r j cause i0 i1 h => finishVload_trapped s h⟩⟩

end Sys2Proof.Machine
end

section
/-! The vector pool (O37): how a claim is granted, renegotiated and released, and what has no effect without one
(09 R172 to R176, R184 to R187). -/

namespace Sys2Proof.Machine

/-! ### What moves the edges of an object alone (17 R327, R329) -/

namespace EdgesMoved

variable {s t u : State}

theorem refl (s : State) : EdgesMoved s s := ⟨_, _, _, _, rfl⟩

theorem trans (h : EdgesMoved s t) (k : EdgesMoved t u) : EdgesMoved s u := by
  obtain ⟨_, _, _, _, rfl⟩ := h
  obtain ⟨_, _, _, _, rfl⟩ := k
  exact ⟨_, _, _, _, rfl⟩

theorem foldl {α : Type} {f : State → α → State} {l : List α} (h : EdgesMoved s t)
    (hf : ∀ u x, EdgesMoved u (f u x)) : EdgesMoved s (l.foldl f t) :=
  List.foldlRecOn l f h fun u hu x _ => hu.trans (hf u x)

theorem withEdges (h : EdgesMoved s t) (es : List Edge) : EdgesMoved s { t with edges := es } :=
  h.trans ⟨_, _, _, _, rfl⟩

theorem refreshPrio (h : EdgesMoved s t) (tid : Nat) : EdgesMoved s (t.refreshPrio tid) := by
  refine h.trans ?_
  unfold State.refreshPrio State.modThread
  split
  · exact ⟨_, _, _, _, rfl⟩
  · split
    · exact ⟨_, _, _, _, rfl⟩
    · exact refl t

theorem stepPrio (h : EdgesMoved s t) (obj : Nat) : EdgesMoved s (t.stepPrio obj) :=
  h.foldl fun u => refreshPrio (refl u)

/-- A hold edge without room is kept untracked. -/
theorem untrack (h : EdgesMoved s t) {e : Edge} (he : e.wait = false) : EdgesMoved s (t.untrack e) := by
  refine h.trans ?_
  unfold State.untrack
  rw [he]
  exact ⟨_, _, _, _, rfl⟩

theorem holdIn (h : EdgesMoved s t) (die tid obj : Nat) (name : Word) (side : Bool) :
    EdgesMoved s (t.holdIn die tid obj name side) := by
  unfold State.holdIn
  dsimp only
  split
  · exact h
  · split
    · exact (h.withEdges _).refreshPrio tid
    · exact h.untrack rfl

theorem syncHolds (h : EdgesMoved s t) (obj : Nat) : EdgesMoved s (t.syncHolds obj) := by
  unfold State.syncHolds
  split
  · exact h
  · refine stepPrio (foldl (foldl ?_ fun u => refreshPrio (refl u)) fun u x => holdIn (refl u) _ _ _ _ _) obj
    exact (h.withEdges _).withEdges _

theorem holdChanged (h : EdgesMoved s t) (obj tid : Nat) : EdgesMoved s (t.holdChanged obj tid) :=
  (h.syncHolds obj).refreshPrio tid

end EdgesMoved

/-! ### A pool with nobody waiting -/

/-- No thread of the pool group waits for lanes. -/
def State.idlePool (s : State) (g : Nat) : Prop := ∀ t ∈ s.poolThreads g, t.waitsLanes = false

theorem State.servePool_idle {s : State} {g : Nat} (h : s.idlePool g) (fuel : Nat) : s.servePool g fuel = s := by
  have hnone : (s.poolThreads g).filter (·.waitsLanes) = [] :=
    List.filter_eq_nil_iff.2 fun t ht => ne_true_of_eq_false (h t ht)
  cases fuel with
  | zero => rfl
  | succ j =>
    have hhead : s.poolHead g = none := by rw [State.poolHead, hnone, leastBy]
    rw [State.servePool, hhead]

theorem EdgesMoved.lanesFreed {s : State} {g : Nat} (h : s.idlePool g) : EdgesMoved s (s.lanesFreed g) := by
  rw [State.lanesFreed, State.servePool_idle h]
  exact (EdgesMoved.refl s).syncHolds _

/-- A change of the issuing thread that makes no request for lanes leaves the pool idle. -/
theorem State.idlePool.updCur {s : State} {g : Nat} (h : s.idlePool g) {f : Thread → Thread}
    (hcore : (f s.cur).core = s.cur.core) (hlife : (f s.cur).life = s.cur.life)
    (hwaits : s.cur.waitsLanes = false → (f s.cur).waitsLanes = false) : (s.updCur f).idlePool g := by
  intro t ht
  obtain ⟨hmem, hpool⟩ := List.mem_filter.1 ht
  rcases List.mem_append.1 hmem with hcur | hother
  · obtain ⟨hbusy, hcur⟩ : s.busy = true ∧ t = f s.cur := by
      rw [State.updCur_busy] at hcur
      split at hcur
      · next hb => exact ⟨hb, List.mem_singleton.1 hcur⟩
      · cases hcur
    subst hcur
    refine hwaits (h s.cur (List.mem_filter.2 ⟨List.mem_append_left _ ?_, ?_⟩))
    · rw [if_pos hbusy]
      exact List.mem_singleton_self _
    · rw [hcore, hlife] at hpool
      exact hpool
  · exact h t (List.mem_filter.2 ⟨List.mem_append_right _ hother, hpool⟩)

theorem State.idlePool.claimed {s : State} {g : Nat} (h : s.idlePool g) (c : Option Claim) :
    (s.claimed c).idlePool g :=
  h.updCur rfl rfl fun _ => rfl

/-! ### VREL and VYIELD (09 R175, R186, R187) -/

theorem releaseClaim_moves {s : State} (h : PoolIdle s) : EdgesMoved (s.claimed none) s.releaseClaim :=
  EdgesMoved.lanesFreed (State.idlePool.claimed h none)

theorem renegotiate_moves {s : State} {c : Claim} (h : PoolIdle s) (hc : s.cur.claim = some c) :
    EdgesMoved (s.updCur fun t => { t with claim := some (s.renegClaim s.cur c none c.grant) }) (s.renegotiate none) := by
  have hidle : (s.updCur fun t => { t with claim := some (s.renegClaim s.cur c none c.grant) }).idlePool
      (s.poolGroup s.cur.core) := State.idlePool.updCur h rfl rfl id
  rw [State.renegotiate, hc]
  exact EdgesMoved.lanesFreed hidle

theorem State.renegotiate_none {s : State} (h : s.cur.claim = none) (cap : Option Nat) : s.renegotiate cap = s := by
  rw [State.renegotiate, h]

/-- VYIELD writes the grant that its claim is settled at. -/
theorem execVyield_writes {o : OpD} {s t : State} {fl : Flow} (hg : s.cur.guardOn o.g = true)
    (hd : Gives (checkDst o.d) s () s)
    (hw : Gives (writeD o.d (BitVec.ofNat 64 (s.renegotiate none).cur.grantNow)) (s.renegotiate none) fl t) :
    exec (.vyield o) s = .next (t.finished fl) := by
  refine (issue_on _ _ _ hg).trans ?_
  rw [bind_ok _ _ _ _ _ hd, bind_ok _ _ _ _ _ (modS_run _ s), bind_ok _ _ _ _ _ (getCur_run _)]
  refine (congrArg (fun r => Host.Outcome.next (s.settle r)) (Eq.trans ?_ hw)).trans
    (congrArg _ (settle_written _ _ _ _ _ _ hw))
  unfold Thread.grantNow
  cases (s.renegotiate none).cur.claim <;> rfl

theorem execVyield_unclaimed {o : OpD} {s t : State} {fl : Flow} (hg : s.cur.guardOn o.g = true)
    (hd : Gives (checkDst o.d) s () s) (hc : s.cur.claim = none) (hw : Gives (writeD o.d 0) s fl t) :
    exec (.vyield o) s = .next (t.finished fl) := by
  refine execVyield_writes hg hd ?_
  rw [State.renegotiate_none hc, Thread.grantNow, hc]
  exact hw

/-- The largest count of lanes within a bound that is not below the least count. -/
theorem fitLanes_pow2Below {n : Nat} (h : 4 ≤ n) : FitLanes (pow2Below n) n := by
  unfold FitLanes pow2Below
  split_ifs <;> simp <;> omega

/-- A waiter of the priority or above that cannot be served keeps a claim at its minimum. -/
theorem renegClaim_blocked {s : State} {c : Claim} {w : Thread} {mn ds : Nat}
    (hmem : w ∈ s.poolThreads (s.poolGroup s.cur.core)) (hwaits : w.waitsLanes = true) (hprio : s.cur.eprio ≤ w.eprio)
    (hreq : w.laneReq = some (mn, ds))
    (hfew : s.freeLanes (s.poolGroup s.cur.core) + w.lanes < mn ∨
      16 ≤ s.claimsHeld (s.poolGroup s.cur.core) ∧ w.lanes = 0) :
    s.renegClaim s.cur c none c.grant = { c.resize c.min with shrunk := false } := by
  have hblocked : s.renegGrant s.cur c = c.min := by
    refine if_pos (List.any_eq_true.2 ⟨w, List.mem_filter.2 ⟨hmem, hwaits⟩, ?_⟩)
    rw [hreq]
    simpa [hprio] using hfew
  rw [State.renegClaim, hblocked]
  rfl

/-- With nobody waiting a claim is settled anew at the most lanes that its desired count and the pool allow. -/
theorem renegClaim_idle {s : State} {c : Claim} (h : PoolIdle s) : s.renegClaim s.cur c none c.grant =
    { c.resize (pow2Below (min c.des (c.grant + s.freeLanes (s.poolGroup s.cur.core)))) with shrunk := false } := by
  have hnone : (s.poolThreads (s.poolGroup s.cur.core)).filter (·.waitsLanes) = [] :=
    List.filter_eq_nil_iff.2 fun t ht => ne_true_of_eq_false (h t ht)
  have hfree : s.renegGrant s.cur c =
      pow2Below (min c.des (c.grant + s.freeLanes (s.poolGroup s.cur.core))) := by
    rw [State.renegGrant, hnone]
    rfl
  rw [State.renegClaim, hfree]
  rfl

/-! ### Registers of a grant (09 R176) -/

theorem vreg_fresh (n mn ds : Nat) (r : VNo) (i : Nat) : ((Claim.fresh n mn ds).vreg r).getD i 0 = 0 := by
  simp only [Claim.vreg, Claim.fresh, Fin.getElem_fin, Vector.getElem_replicate, List.getD_eq_getElem?_getD,
    List.getElem?_replicate]
  split <;> rfl

theorem vreg_resize (c : Claim) (n : Nat) (r : VNo) : (c.resize n).vreg r = resizeLanes 0 (c.vreg r) n := by
  simp [Claim.vreg, Claim.resize]

theorem resizeLanes_length {α : Type} (z : α) (l : List α) (n : Nat) : (resizeLanes z l n).length = n := by
  simp only [resizeLanes, List.length_append, List.length_take, List.length_replicate]
  omega

theorem resizeLanes_getD {α : Type} (z : α) (l : List α) (n i : Nat) :
    (resizeLanes z l n).getD i z = if i < n then l.getD i z else z := by
  simp only [resizeLanes, List.getD_eq_getElem?_getD, List.getElem?_append, List.length_take, List.getElem?_take,
    List.getElem?_replicate]
  by_cases hold : i < min n l.length
  · simp only [if_pos hold]
    split <;> rfl
  · rw [if_neg hold]
    by_cases hn : i < n
    · rw [List.getElem?_eq_none (l := l) (by omega), if_pos hn]
      split <;> rfl
    · rw [if_neg hn]
      split <;> rfl

/-! ### Without a claim (09 R184) -/

theorem getClaim_none {s : State} (h : s.cur.claim = none) :
    getClaim s = .error (.trap .noClaim (some 0) (some 0) s) := by
  rw [getClaim, h]

section
variable {s : State} {g : Guard} {i : Instr} {f : Claim → M Flow}

/-- An instruction that asks for the claim first. -/
theorem exec_noClaim (h : s.cur.claim = none) (hrun : exec i s = issue g (getClaim >>= f) s)
    (hg : s.cur.guardOn g = true) : exec i s = .next (s.takeTrap .noClaim (some 0) (some 0)) := by
  rw [hrun, issue_on _ _ _ hg, bind_error _ _ _ _ (getClaim_none h), settle_trap]

/-- An instruction that asks for the claim once its destination is checked. -/
theorem exec_checkDst_noClaim {d : Dst} (h : s.cur.claim = none)
    (hrun : exec i s = issue g (checkDst d >>= fun _ => getClaim >>= f) s) (hd : Gives (checkDst d) s () s)
    (hg : s.cur.guardOn g = true) : exec i s = .next (s.takeTrap .noClaim (some 0) (some 0)) := by
  rw [hrun, issue_on _ _ _ hg, bind_ok _ _ _ _ _ hd, bind_error _ _ _ _ (getClaim_none h), settle_trap]

theorem vecForm_noClaim {x : VForm} (h : s.cur.claim = none) (hx : vecForm i = some x) :
    s.cur.guardOn x.g = true → exec i s = .next (s.takeTrap .noClaim (some 0) (some 0)) := by
  cases i
  case vadd | vsub | vmul | vmin | vmax | vand | vor | vxor | vshl | vshr | vsar | vfma | vabs | vsel | vcvt | vperm |
      vexp2 | vlog2 | vrcp | vrsq | vsqrt | vtanh | vsigm =>
    cases hx
    exact exec_noClaim h rfl
  all_goals cases hx

theorem modForm_noClaim {x : ModForm} (h : s.cur.claim = none) (hx : modForm i = some x) :
    s.cur.guardOn x.g = true → exec i s = .next (s.takeTrap .noClaim (some 0) (some 0)) := by
  cases i
  case vmadd | vmsub | vmmul | vmmac | vmneg | vmred | vmto | vmfrom =>
    cases hx
    exact exec_noClaim h rfl
  all_goals cases hx

theorem vmemForm_noClaim {x : VMemForm} (h : s.cur.claim = none) (hx : vmemForm i = some x) :
    s.cur.guardOn x.g = true → exec i s = .next (s.takeTrap .noClaim (some 0) (some 0)) := by
  cases i
  case vld | vst | vlds | vsts | vgath | vscat =>
    cases hx
    exact exec_noClaim h rfl
  all_goals cases hx

end

/-! ### VCLAIM (09 R172 to R174, R185) -/

theorem laneCount_iff {n : Nat} : laneCount n = true ↔ n ∈ [4, 8, 16, 32, 64] := by
  simp [laneCount, or_assoc]

/-- The counts of VCLAIM as its rule says them: two counts of lanes in order, and no other bit set. -/
theorem countsOk_iff (v : Word) : countsOk v = true ↔
    bits v 6 0 ∈ [4, 8, 16, 32, 64] ∧ bits v 14 8 ∈ [4, 8, 16, 32, 64] ∧ bits v 6 0 ≤ bits v 14 8 ∧
      v.toNat = bits v 6 0 + 2 ^ 8 * bits v 14 8 := by
  have hrest : bits v 7 7 = 0 ∧ bits v 63 15 = 0 ↔ v.toNat = bits v 6 0 + 2 ^ 8 * bits v 14 8 := by
    have hlt := v.isLt
    simp only [bits]
    omega
  simp only [countsOk, Bool.and_eq_true, laneCount_iff, beq_iff_eq, decide_eq_true_eq, ← hrest]
  tauto

section
variable {o : OpDC} {s s1 u : State} {v : Word}

/-- VCLAIM with its counts read. -/
theorem execVclaim_reads (hg : s.cur.guardOn o.g = true) (hd : Gives (checkDst o.d) s () s)
    (hv : Gives (operandZ o.b) s v s1) : exec (.vclaim o) s = .next (s.settle
      ((orTrap (countsOk v) .illegalOperand v 4 >>= fun _ => grantLanes (bits v 6 0) (bits v 14 8) >>= fun n =>
        takeGrant n (bits v 6 0) (bits v 14 8) >>= fun _ => writeD o.d (BitVec.ofNat 64 n)) s1)) := by
  refine (issue_on _ _ _ hg).trans ?_
  rw [bind_ok _ _ _ _ _ hd, bind_ok _ _ _ _ _ hv]

theorem execVclaim_refuses (hg : s.cur.guardOn o.g = true) (hd : Gives (checkDst o.d) s () s)
    (hv : Gives (operandZ o.b) s v s1) (hbad : countsOk v = false) :
    exec (.vclaim o) s = .next (s1.takeTrap .illegalOperand (some v) (some 4)) := by
  rw [execVclaim_reads hg hd hv, orTrap_fails hbad, settle_trap]

theorem execVclaim_waits (hg : s.cur.guardOn o.g = true) (hd : Gives (checkDst o.d) s () s)
    (hv : Gives (operandZ o.b) s v s1) (hgood : countsOk v = true) (hpacket : s.cur.packet = none)
    (hwait : grantLanes (bits v 6 0) (bits v 14 8) s1 =
      .error (.wait 7 s1.stamp (.claim (bits v 6 0) (bits v 14 8)))) :
    exec (.vclaim o) s = .next (s.suspended 7 s1.stamp (.claim (bits v 6 0) (bits v 14 8))) := by
  rw [execVclaim_reads hg hd hv, orTrap_passes hgood, bind_error _ _ _ _ hwait, settle_wait hpacket]

theorem execVclaim_takes {n : Nat} {t : State} {fl : Flow} (hg : s.cur.guardOn o.g = true)
    (hd : Gives (checkDst o.d) s () s) (hv : Gives (operandZ o.b) s v s1) (hgood : countsOk v = true)
    (hn : Gives (grantLanes (bits v 6 0) (bits v 14 8)) s1 n s1)
    (hu : Gives (takeGrant n (bits v 6 0) (bits v 14 8)) s1 () u)
    (hw : Gives (writeD o.d (BitVec.ofNat 64 n)) u fl t) : exec (.vclaim o) s = .next (t.finished fl) := by
  rw [execVclaim_reads hg hd hv, orTrap_passes hgood, bind_ok _ _ _ _ _ hn, bind_ok _ _ _ _ _ hu]
  exact (congrArg (fun r => Host.Outcome.next (s.settle r)) hw).trans
    (congrArg _ (settle_written _ _ _ _ _ _ hw))

end

section
variable {s : State} {mn ds : Nat}

/-- A request that no grant has answered waits behind a waiter of its priority or above, below its least count, and
for a claim to hold. -/
theorem grantLanes_waits (hres : s.cur.laneRes = none)
    (h : (∃ w ∈ s.poolThreads (s.poolGroup s.cur.core),
        w.tid ≠ s.cur.tid ∧ w.waitsLanes = true ∧ s.cur.eprio ≤ w.eprio) ∨
      s.freeLanes (s.poolGroup s.cur.core) + s.cur.lanes < mn ∨
      16 ≤ s.claimsHeld (s.poolGroup s.cur.core) ∧ s.cur.lanes = 0) :
    grantLanes mn ds s = .error (.wait 7 s.stamp (.claim mn ds)) := by
  have hnow : (if s.poolAhead s.cur then none else s.canGrant s.cur mn ds) = none := by
    rcases h with ⟨w, hw, htid, hwaits, hprio⟩ | hfew
    · exact if_pos (List.any_eq_true.2 ⟨w, hw, by simp [htid, hwaits, hprio]⟩)
    · have hcan : s.canGrant s.cur mn ds = none := by
        refine if_neg ?_
        simp only [Bool.and_eq_true, Bool.or_eq_true, decide_eq_true_eq]
        omega
      rw [hcan, ite_self]
  rw [grantLanes, hres]
  dsimp only
  rw [hnow]

/-- With nobody waiting a request takes the most lanes that its desired count and the pool allow. -/
theorem grantLanes_idle (hres : s.cur.laneRes = none) (hidle : PoolIdle s)
    (henough : mn ≤ s.freeLanes (s.poolGroup s.cur.core) + s.cur.lanes)
    (hclaim : s.claimsHeld (s.poolGroup s.cur.core) < 16 ∨ 0 < s.cur.lanes) :
    Gives (grantLanes mn ds) s (pow2Below (min ds (s.freeLanes (s.poolGroup s.cur.core) + s.cur.lanes))) s := by
  have hahead : s.poolAhead s.cur = false := by
    refine List.any_eq_false.2 fun w hw => ?_
    simp [hidle w hw]
  have hcan : s.canGrant s.cur mn ds =
      some (pow2Below (min ds (s.freeLanes (s.poolGroup s.cur.core) + s.cur.lanes))) :=
    if_pos (by simp [henough, hclaim])
  rw [Gives, grantLanes, hres]
  dsimp only
  rw [hahead, hcan]
  rfl

theorem grantLanes_answered {n : Nat} (hres : s.cur.laneRes = some n) : Gives (grantLanes mn ds) s n s := by
  rw [Gives, grantLanes, hres]

/-! ### The grant taken (09 R176, 17 R327) -/

/-- The claim that a grant gives the issuing thread (09 R176). -/
def State.claimAt (s : State) (n mn ds : Nat) : Claim :=
  match s.cur.claim with
  | some c => { c.resize n with min := mn, des := ds, shrunk := false }
  | none => Claim.fresh n mn ds

/-- The machine with a grant taken and its hold edge in place. -/
def State.holdGrant (s : State) (n mn ds : Nat) : State :=
  (s.setGrant n mn ds).holdChanged (poolObject (s.poolGroup s.cur.core)) (s.setGrant n mn ds).cur.tid

theorem State.holdGrant_moves (h : PoolIdle s) (n : Nat) :
    EdgesMoved (s.claimed (some (s.claimAt n mn ds))) (s.holdGrant n mn ds) :=
  (EdgesMoved.lanesFreed (State.idlePool.claimed h _)).holdChanged _ _

theorem takeGrant_inv {n : Nat} {u : State} (h : Gives (takeGrant n mn ds) s () u) : u = s.holdGrant n mn ds := by
  have hrun : takeGrant n mn ds s = holdNow s (poolObject (s.poolGroup s.cur.core)) (s.setGrant n mn ds) := rfl
  rw [Gives, hrun, holdNow] at h
  dsimp only at h
  split at h
  · cases h
    rfl
  · cases h

/-- A thread without a registration closes no cycle. -/
theorem State.holdCycle_unregistered (hb : s.busy = true) (hreg : s.cur.wreg = none) :
    s.holdCycle s.cur.tid = none := by
  have hcur : s.thread? s.cur.tid = some s.cur := by simp [State.thread?, hb]
  rw [State.holdCycle, hcur]
  dsimp only
  rw [hreg]

theorem takeGrant_unregistered (h : PoolIdle s) (n : Nat) (hb : s.busy = true) (hreg : s.cur.wreg = none) :
    Gives (takeGrant n mn ds) s () (s.holdGrant n mn ds) := by
  have hcycle : (s.holdGrant n mn ds).holdCycle (s.holdGrant n mn ds).cur.tid = none := by
    obtain ⟨_, _, _, _, hu⟩ := State.holdGrant_moves (mn := mn) (ds := ds) h n
    rw [hu]
    exact State.holdCycle_unregistered hb hreg
  have hrun : takeGrant n mn ds s = holdNow s (poolObject (s.poolGroup s.cur.core)) (s.setGrant n mn ds) := rfl
  rw [Gives, hrun, holdNow]
  dsimp only
  rw [← State.holdGrant, hcycle]

end

/-- A granted VCLAIM of a thread without a registration writes the grant in its own register. -/
theorem execVclaim_writes_local {o : OpDC} {s s1 : State} {v : Word} {n : Nat} {k : Fin 64}
    (hg : s.cur.guardOn o.g = true) (hd : Gives (checkDst o.d) s () s) (hv : Gives (operandZ o.b) s v s1)
    (hgood : countsOk v = true) (hn : Gives (grantLanes (bits v 6 0) (bits v 14 8)) s1 n s1) (hidle : PoolIdle s1)
    (hb : s1.busy = true) (hreg : s1.cur.wreg = none) (hk : o.d = .l k) :
    ∃ t, exec (.vclaim o) s = .next t ∧ t.flow = .seq ∧ t.cur.l[k] = BitVec.ofNat 64 n := by
  have hw := writeD_l k (BitVec.ofNat 64 n) (s1.holdGrant n (bits v 6 0) (bits v 14 8))
  rw [← hk] at hw
  refine ⟨_, execVclaim_takes hg hd hv hgood hn (takeGrant_unregistered hidle n hb hreg) hw, rfl, ?_⟩
  exact Vector.getElem_set_self _

/-- A count that two counts of lanes bound has a count of lanes within it. -/
theorem fitLanes_of_counts {mn ds free : Nat} (hmn : mn ∈ [4, 8, 16, 32, 64]) (hle : mn ≤ ds) (henough : mn ≤ free) :
    FitLanes (pow2Below (min ds free)) (min ds free) := by
  refine fitLanes_pow2Below ?_
  simp only [List.mem_cons, List.not_mem_nil, or_false] at hmn
  omega

/-- Settles O37: VCLAIM by its checks, its request and the grant taken; VREL and VYIELD by the pool served; and every
instruction that asks for the claim before it does anything. -/
theorem claimsAreGrantedAndReleased : Obligations.ClaimsAreGrantedAndReleased := by
  unfold Obligations.ClaimsAreGrantedAndReleased
  refine ⟨?_, ?_, vreg_fresh, ?_, ?_, ?_, ?_, ?_⟩
  · intro o s s1 v hg hd hv mn ds good g free Takes
    have hgood : countsOk v = true ↔ good := countsOk_iff v
    have htakes (h : good) (n : Nat) (hn : Gives (grantLanes mn ds) s1 n s1) : Takes n :=
      fun u hu t fl hw => execVclaim_takes hg hd hv (hgood.2 h) hn hu hw
    refine ⟨fun h => ?_, fun h hres hpacket hwait => ?_, fun h hres hidle henough hclaim => ?_, fun h n hres => ?_⟩
    · exact execVclaim_refuses hg hd hv (eq_false_of_ne_true fun hok => h (hgood.1 hok))
    · exact execVclaim_waits hg hd hv (hgood.2 h) hpacket (grantLanes_waits hres hwait)
    · have hn : Gives (grantLanes mn ds) s1 (pow2Below (min ds free)) s1 := grantLanes_idle hres hidle henough hclaim
      obtain ⟨hmn, _, hle, _⟩ := id h
      exact ⟨_, fitLanes_of_counts hmn hle henough, htakes h _ hn, fun hb hreg k hk =>
        execVclaim_writes_local hg hd hv (hgood.2 h) hn hidle hb hreg hk⟩
    · exact htakes h n (grantLanes_answered hres)
  · intro s n mn ds hidle
    refine ⟨fun u hu => ?_, fun hb hreg => ⟨_, takeGrant_unregistered hidle n hb hreg⟩⟩
    rw [takeGrant_inv hu]
    exact State.holdGrant_moves hidle n
  · intro c n r i _
    rw [vreg_resize]
    exact ⟨resizeLanes_length _ _ _, resizeLanes_getD _ _ _ _⟩
  · exact fun o s hg => ⟨issue_on _ _ _ hg, releaseClaim_moves⟩
  · refine fun o s hg hd => ⟨fun hc t fl hw => ?_, fun _ _ t fl hw => ?_⟩
    · exact execVyield_unclaimed hg hd hc hw
    · exact execVyield_writes hg hd hw
  · refine fun s c hc => ⟨fun ⟨w, hw, hwaits, hprio, mn, ds, hreq, hfew⟩ => ?_, fun hidle hdes hgrant => ?_⟩
    · exact renegClaim_blocked hw hwaits hprio hreq hfew
    · exact ⟨⟨_, fitLanes_pow2Below (by omega), renegClaim_idle hidle⟩, renegotiate_moves hidle hc⟩
  · intro s h trap trapD
    refine ⟨fun i x => vecForm_noClaim h, fun i x => modForm_noClaim h, fun i x => vmemForm_noClaim h, ?_⟩
    exact ⟨fun o => ⟨exec_noClaim h rfl, exec_noClaim h rfl⟩, fun o => exec_noClaim h rfl,
      fun o => exec_checkDst_noClaim h rfl, fun o => exec_noClaim h rfl, fun o => exec_noClaim h rfl,
      fun o => exec_checkDst_noClaim h rfl, fun o => exec_noClaim h rfl, fun o => exec_noClaim h rfl,
      fun o => exec_noClaim h rfl,
      fun o => ⟨exec_checkDst_noClaim h rfl, exec_checkDst_noClaim h rfl, exec_checkDst_noClaim h rfl⟩,
      fun o => exec_noClaim h rfl, fun o => ⟨exec_noClaim h rfl, exec_noClaim h rfl⟩,
      fun o => ⟨exec_noClaim h rfl, exec_noClaim h rfl⟩, fun o => exec_noClaim h rfl⟩

end Sys2Proof.Machine
end
